-- ==== Sys2Proof/Word.lean ====
section
/-!
DEFINITION. The plain types that every other file uses: bytes, words, addresses, sparse tables and byte memories.
Only the types stand here; every operation on them stands in Machine/Base.lean.
-/

namespace Sys2Proof

/-- One byte of a memory, a record or a packet (00 R9). -/
abbrev Byte := BitVec 8

/-- A general register of a tile controller, a setup register, a counter of an island (03 R64, 21 R514). -/
abbrev Word := BitVec 64

/-- A lane of the vector engine (06 R147). -/
abbrev Lane := BitVec 32

end Sys2Proof

namespace Sys2Proof.Machine

/-- A sparse table: the entries that are not listed hold a default that the reader names. -/
abbrev Tab (α : Type) := List (Nat × α)

/-- A byte memory in canonical form: addresses strictly rising, and no listed byte is zero. A byte that is not listed
reads as zero (20 R503 step 4, 03 R62). -/
abbrev Memory := List Host.Cell

end Sys2Proof.Machine
end

