-- ==== Sys2Proof/Operand.lean ====
section
/-!
DEFINITION. The plain types of the commands' operands.
-/

namespace Sys2Proof

/-- A write of a setup register (21 R514): its value, the half that a 4-byte write covers (`none`: all 8 bytes; `false`:
the low half), and the identity of the writer as the configuration report log records it (20 Table 20.9 WRITER). -/
structure SetupAcc where
  value : BitVec 64
  half : Option Bool
  writer : BitVec 32
deriving DecidableEq, Repr

/-- An Ethernet frame as a sub-port receives it: its bytes from the destination MAC on, without its FCS, and whether the
FCS was good (13 R332, R334). -/
structure Frame where
  bytes : List Byte
  fcsOk : Bool
deriving DecidableEq, Repr

/-- A cached copy of a line as the cache that holds it gives it up: its bytes, its poison, and whether the cache's own
array had an uncorrectable error in it (09 R229, R232). -/
structure LineCopy where
  bytes : List Byte
  poison : Bool
  ue : Bool
deriving DecidableEq, Repr

/-- What a memory channel's check finds in a line that it reads (08 R210 to R212). -/
inductive MemErr where
  /-- No error. -/
  | none
  /-- A correctable error. -/
  | ce
  /-- An uncorrectable error. -/
  | ue
deriving DecidableEq, Repr

/-- What a ledge engine computes on one line (09 R240, 10 R260 to R262): bytes stored from an offset, FP32 addends for the
elements that a mask selects, or a factor for every element with a rounding mode. -/
inductive LineOp where
  | put (off : Nat) (bytes : List Byte)
  | add (mask : BitVec 16) (addends : List (BitVec 32))
  | scale (factor : BitVec 32) (rm : Fin 5)
deriving DecidableEq, Repr

/-- A memory transaction of a PCIe device: its root port, requester, address, data, poison and Relaxed Ordering attribute
(12 R323, R324). -/
structure Tlp where
  port : Fin 8
  reqid : BitVec 16
  addr : BitVec 64
  bytes : List Byte
  poison : Bool
  ro : Bool
deriving DecidableEq, Repr

/-- What a host core does with a line that it asks for (12 R313, R316). -/
inductive CoreKind where
  | load | amo | fetch | store
deriving DecidableEq, Repr

/-- A host core's access behind a request of its cache: its kind, its virtual address, and whether the instruction retires. -/
structure CoreUse where
  kind : CoreKind
  va : BitVec 64
  retires : Bool
deriving DecidableEq, Repr

/-- What comes of a cache's fill beside its line: what the channel's check finds where memory is read, and the core's access behind it. -/
structure Fill where
  err : MemErr
  use : Option CoreUse
deriving DecidableEq, Repr

/-- A scrub read of a channel (08 R213, R217, R218): what its check finds, how long it takes in nanoseconds, and whether a foreground request
waits. -/
structure ScrubTurn where
  err : MemErr
  ns : Nat
  waiting : Bool
deriving DecidableEq, Repr

/-- A calibration burst of a channel (08 R218): how long it takes in nanoseconds, and whether a foreground request waits. -/
structure Burst where
  ns : Nat
  waiting : Bool
deriving DecidableEq, Repr

/-- The end of a channel's background window (08 R205, R217): how long an RFM takes in nanoseconds, and whether the temperature readout of the
hottest device is above 85 °C. -/
structure WindowEnd where
  ns : Nat
  hot : Bool
deriving DecidableEq, Repr

/-- A RoCEv2 packet for a queue pair as the specification uses it (13 R358): its place in its message, packet sequence
number, remote address, key and length where it begins one, immediate, payload, acknowledge request, and ECN mark. -/
structure RocePkt where
  psn : BitVec 24
  first : Bool
  last : Bool
  va : BitVec 64
  rkey : BitVec 32
  len : BitVec 32
  imm : Option (BitVec 32)
  payload : List Byte
  ackReq : Bool
  ce : Bool
  icrcOk : Bool
deriving DecidableEq, Repr

/-- How a CXL.cache transaction ends (14 R362, R387). -/
inductive CxlRes where
  /-- It completed. -/
  | ok
  /-- Its data arrived poisoned. -/
  | poison
  /-- It ended in an error. -/
  | error
deriving DecidableEq, Repr

/-- A DDR5 module as its serial presence detect describes it (08 R207, R208): MRDIMM or RDIMM, capacity in GB, ranks, device width, ECC width, and
rated data rate in MT/s. -/
structure Dimm where
  mrdimm : Bool
  gb : Nat
  ranks : Nat
  width : Nat
  ecc : Nat
  rate : Nat
deriving DecidableEq, Repr

/-- What a step of self-test finds (20 Table 20.2); each step reads its own part. Step 1: the controller's own test, the straps as they
stand on the lands, and from the board record the port modes and the PCIe arrangements (0 ×8, 1 2 × ×4, 2 joined with its partner, 3 any
other). Step 2: the PUF's reconstruction. Step 3: HD logic, failed cores, failed
firmware processors, failed tensor dies, FD logic, failed ports, link groups that fail training, lanes replaced in training (link,
direction, group, lane), whether CX0's partner presents itself as a root port. Step 4: HBM channels that fail training, the modules of
the 16 channels, the board's rated DDR5 rate, DDR5 channels that fail training, failed ledge engines. Step 5: tiles that fail BIST. -/
structure SelfTest where
  mgmtOk : Bool
  feedId : BitVec 6
  slotId : BitVec 8
  role : Bool
  modes : List (Fin 3)
  pcie : List (Fin 4)
  puf : Bool
  hdOk : Bool
  cores : BitVec 64
  fps : BitVec 4
  tds : BitVec 4
  fdOk : Bool
  ports : BitVec 8
  links : List (Fin 13 × Fin 5)
  spared : List (Fin 13 × Bool × Fin 5 × Fin 64)
  partnerRoot : Bool
  hbm : List (Fin 384)
  dimms : List (Option Dimm)
  boardRate : Nat
  ddr : List (Fin 16)
  ledge : List (Fin 208)
  tiles : List (Fin 200)
deriving DecidableEq, Repr

end Sys2Proof
end

