-- ==== Sys2Proof/Syntax.lean ====
section
/-!
DEFINITION. The commands of the block: one constructor for each row of the specification's command table, with the row's
operands. Ring descriptors and ledge commands are named by their queue, whose head they are; their bytes lie in the queue.
Tile instructions carry the tile and the 64-bit instruction word.
-/

namespace Sys2Proof

/-- The commands that the block takes from outside: the rows of the table in its order, but for most commands of one tile and those that act
outside service, which stand last. -/
inductive Instr where
  /-- FLIT_RECEIVE (R17). A die-to-die link receiver takes a flit, delivers it in sequence-number order, or returns it to
  the sender's retry buffer for replay on a CRC error. -/
  | flitReceive (l : Fin 13) (rev : Bool) (g : Fin 5) (seq : Nat) (crc : Bool) (lane : Option (Fin 66))
  /-- LANE_REPAIR (R18). A lane's attributed error count exceeds 16 within 1 ms, so the link stops the group, steers flits
  to other groups and starts replacing the lane with a spare. -/
  | laneRepair (l : Fin 13) (rev : Bool) (g : Fin 5) (lane : Fin 66)
  /-- LANE_REPAIR_DONE (R18). The repaired group has retrained and replayed from the last acknowledged flit, and it
  returns to service. -/
  | laneRepairDone (l : Fin 13) (rev : Bool) (g : Fin 5)
  /-- CAPTURE (R31). A CAPTURE ring descriptor requests a paired capture of up to 8 islands, queued in arrival order. -/
  | capture (sq : Fin 1024)
  /-- CAP_GO (R527). A write of CAP_GO makes one paired-capture request naming SRC0 to SRC(COUNT-1). -/
  | capGo (a : SetupAcc)
  /-- CAPTURE_EXECUTE (R30). The dispatch complex takes the next queued capture, sends one handshake to the named islands
  and writes the capture record. -/
  | captureExecute
  /-- MOVER_OP_COMPLETE (R80). A mover operation completes or ends in a fault, freeing its token and signalling its object
  with release if it completed without fault. -/
  | moverOpComplete (t : Fin 200) (tok : Fin 16)
  /-- ARRAY_STOPPED (R112). The pre-emption drain ends, so the tile writes its pre-emption, vector and controller images,
  saves the accumulators and reports the array stopped. -/
  | arrayStopped (t : Fin 200)
  /-- TILE_RESUME (R114). A pre-empted tile restores its images, reloads the active plane and re-issues the recorded
  array-queue entries. -/
  | tileResume (t : Fin 200)
  /-- ADD (R162). Vector ADD computes a + b in active lanes or elements. -/
  | vadd (t : Fin 200) (w : BitVec 64)
  /-- MUL (R162). Vector MUL computes a × b. -/
  | vmul (t : Fin 200) (w : BitVec 64)
  /-- FMA (R162). Vector FMA computes a × b + c rounded once. -/
  | vfma (t : Fin 200) (w : BitVec 64)
  /-- MIN (R162). Vector MIN returns the lesser operand, NaN if either is NaN. -/
  | vmin (t : Fin 200) (w : BitVec 64)
  /-- MAX (R162). Vector MAX returns the greater operand, NaN if either is NaN. -/
  | vmax (t : Fin 200) (w : BitVec 64)
  /-- MINNUM (R162). Vector MINNUM returns the lesser operand, preferring the non-NaN one. -/
  | vminnum (t : Fin 200) (w : BitVec 64)
  /-- MAXNUM (R162). Vector MAXNUM returns the greater operand, preferring the non-NaN one. -/
  | vmaxnum (t : Fin 200) (w : BitVec 64)
  /-- CMP (R164). Vector CMP.cc compares operands into a mask or a 1/0 destination. -/
  | vcmp (t : Fin 200) (w : BitVec 64)
  /-- SEL (R164). Vector SEL selects a or b by a mask or a condition tensor. -/
  | vsel (t : Fin 200) (w : BitVec 64)
  /-- CVT (R166). Vector CVT converts between formats, including MX block encoding in descriptor form. -/
  | vcvt (t : Fin 200) (w : BitVec 64)
  /-- FTEVAL (R172). Vector FTEVAL applies function table FTk to each active element from its front bank. -/
  | fteval (t : Fin 200) (w : BitVec 64)
  /-- RSUM (R169). Vector RSUM forms a sum reduction by lanes and a fixed tree. -/
  | rsum (t : Fin 200) (w : BitVec 64)
  /-- RSSQ (R169). Vector RSSQ forms a sum-of-squares reduction. -/
  | rssq (t : Fin 200) (w : BitVec 64)
  /-- RMOM (R169). Vector RMOM forms a count, mean and second-moment triple. -/
  | rmom (t : Fin 200) (w : BitVec 64)
  /-- MCOMB (R142). Vector MCOMB combines two moment triples. -/
  | mcomb (t : Fin 200) (w : BitVec 64)
  /-- MVARP (R143). Vector MVARP finishes a triple as population variance. -/
  | mvarp (t : Fin 200) (w : BitVec 64)
  /-- MVARS (R143). Vector MVARS finishes a triple as sample variance. -/
  | mvars (t : Fin 200) (w : BitVec 64)
  /-- PERM (R170). Vector PERM permutes lanes by an index register, writing zero for out-of-range indices. -/
  | perm (t : Fin 200) (w : BitVec 64)
  /-- PERMF (R170). Vector PERMF permutes lanes, writing VFILL for out-of-range indices. -/
  | permf (t : Fin 200) (w : BitVec 64)
  /-- RMASK (R168). Vector RMASK writes the counter-generator keep decision for threshold T. -/
  | rmask (t : Fin 200) (w : BitVec 64)
  /-- RDROP (R168). Vector RDROP scales kept elements by s and zeroes dropped ones. -/
  | rdrop (t : Fin 200) (w : BitVec 64)
  /-- RUNIF (R168). Vector RUNIF writes uniform values in [0, 1) from the counter generator. -/
  | runif (t : Fin 200) (w : BitVec 64)
  /-- VLD (R163). Vector VLD loads one register from 512 bytes of tile memory. -/
  | vld (t : Fin 200) (w : BitVec 64)
  /-- VST (R163). Vector VST stores one register to 512 bytes of tile memory. -/
  | vst (t : Fin 200) (w : BitVec 64)
  /-- VLDA (R163). Vector VLDA loads one register from an accumulator row. -/
  | vlda (t : Fin 200) (w : BitVec 64)
  /-- VSTA (R163). Vector VSTA stores one register to an accumulator row. -/
  | vsta (t : Fin 200) (w : BitVec 64)
  /-- VBCAST (R162). Vector VBCAST broadcasts an X scalar to every lane. -/
  | vbcast (t : Fin 200) (w : BitVec 64)
  /-- VEXT (R162). Vector VEXT extracts one lane to an X register. -/
  | vext (t : Fin 200) (w : BitVec 64)
  /-- VINS (R162). Vector VINS inserts an X scalar into one lane. -/
  | vins (t : Fin 200) (w : BitVec 64)
  /-- MAND (R162). Vector MAND ands two mask registers. -/
  | mand (t : Fin 200) (w : BitVec 64)
  /-- MOR (R162). Vector MOR ors two mask registers. -/
  | mor (t : Fin 200) (w : BitVec 64)
  /-- MXOR (R162). Vector MXOR xors two mask registers. -/
  | mxor (t : Fin 200) (w : BitVec 64)
  /-- MANDN (R162). Vector MANDN ands a mask with the complement of another. -/
  | mandn (t : Fin 200) (w : BitVec 64)
  /-- MSET (R162). Vector MSET sets a mask register from two X registers. -/
  | mset (t : Fin 200) (w : BitVec 64)
  /-- MGET (R162). Vector MGET copies a mask register into two X registers. -/
  | mget (t : Fin 200) (w : BitVec 64)
  /-- SETVL (R162). Vector SETVL sets VL to the clamped X value and returns the applied VL. -/
  | setvl (t : Fin 200) (w : BitVec 64)
  /-- SIGNAL (R86). The home of a synchronisation object applies SIGNAL v with release and evaluates registered waits. -/
  | homeSignal (ctx : Fin 64) (n : Fin 16384) (v : BitVec 32) (haul : Bool)
  /-- SET (R86). The home applies SET v with release and evaluates registered waits. -/
  | homeSet (ctx : Fin 64) (n : Fin 16384) (v : BitVec 32)
  /-- WAIT (R88). The home returns a satisfied WAIT at once or registers it. -/
  | homeWait (ctx : Fin 64) (n : Fin 16384) (target : BitVec 32) (tile : Option (Fin 200)) (key : Nat)
  /-- READ (R86). The home returns an object's counter. -/
  | homeRead (ctx : Fin 64) (n : Fin 16384)
  /-- READ_SHARED (R229). A cache's ReadShared obtains a readable copy from the owner or memory at the home. -/
  | readShared (h : Fin 69) (pa : BitVec 52) (own : Option LineCopy) (fill : Fill)
  /-- READ_UNIQUE (R229). A cache's ReadUnique obtains the only copy, invalidating other holders. -/
  | readUnique (h : Fin 69) (pa : BitVec 52) (own : Option LineCopy) (fill : Fill)
  /-- UPGRADE (R229). A cache holding S or O obtains write permission, served as ReadUnique if its copy was invalidated.
  -/
  | upgrade (h : Fin 69) (pa : BitVec 52) (own : Option LineCopy) (err : MemErr)
  /-- WRITE_BACK (R228). A cache evicting M or O returns dirty data to the home. -/
  | writeBack (h : Fin 69) (pa : BitVec 52) (copy : LineCopy)
  /-- EVICT (R228). A cache evicting E or S reports the eviction without data. -/
  | evict (h : Fin 69) (pa : BitVec 52)
  /-- READ_ONCE (R229). An agent without a cache reads the current value of a line with no state change. -/
  | readOnce (src : BitVec 16) (pa : BitVec 52) (own : Option LineCopy) (err : MemErr)
  /-- WRITE_FULL (R229). An agent without a cache writes a whole line, optionally hinted into a target cache. -/
  | writeFull (src : BitVec 16) (pa : BitVec 52) (d : BitVec 512) (poison : Bool) (hint : BitVec 16)
  /-- WRITE_PARTIAL (R229). An agent without a cache writes masked bytes of a line, merged at the home, optionally hinted.
  -/
  | writePartial (src : BitVec 16) (pa : BitVec 52) (d : BitVec 512) (mask : BitVec 64) (poison : Bool) (hint : BitVec 16) (own : Option LineCopy) (err : MemErr)
  /-- LEDGE_OP (R240). The home takes a line, recalls cached copies and has its ledge engine read, compute and write the
  line atomically. -/
  | ledgeOp (pa : BitVec 52) (op : LineOp) (own : Option LineCopy) (err : MemErr)
  /-- TRANSACTION_COMPLETE (R231). A home transaction's snoops are answered and its data delivered or written, making a
  write visible and letting the next request proceed. -/
  | transactionComplete (pa : BitVec 52)
  /-- SNOOP_TIMEOUT (R235). A cache fails to answer a snoop within 100 µs, so the home logs SNOOP_TIMEOUT and raises a
  fatal event. -/
  | snoopTimeout (pa : BitVec 52) (h : Fin 69)
  /-- HINT_DROPPED (R238). A hint target does not accept the line within 1 µs, so the write is performed unhinted and
  counted. -/
  | hintDropped (pa : BitVec 52)
  /-- CHANNEL_RETRY (R211). A command, parity or write-CRC error on a channel interface is retried up to 3 times. -/
  | channelRetry (pa : BitVec 52) (nth : Fin 3) (persists : Bool)
  /-- SCRUB_READ (R213). Patrol scrub reads and checks the next line of the pass, writing back corrected data or poison.
  -/
  | scrubRead (ch : Fin 400) (turn : ScrubTurn)
  /-- SCRUB_BEHIND (R215). A scrub pass exceeds its period by more than 10 %, logged once for that pass. -/
  | scrubBehind (ch : Fin 400)
  /-- REFRESH (R218). Refresh falls due on a channel and takes precedence over every other request. -/
  | refresh (ch : Fin 400) (allBanks : Bool) (ns : Nat)
  /-- RFM (R216). A bank's activation count reaches RAAIMT, so the channel issues an RFM within its share. -/
  | rfm (ch : Fin 400) (bank : Fin 64) (acts ns : Nat)
  /-- CALIBRATION (R218). A periodic calibration burst of at most 1 µs runs within its share. -/
  | calibration (ch : Fin 400) (burst : Burst)
  /-- BACKGROUND_WINDOW (R217). A 100 µs background-share window ends and the shares are reset, with waiting RFMs issued
  first. -/
  | backgroundWindow (ch : Fin 400) (w : WindowEnd)
  /-- MEM_CE (R222). A 1 ms window ends in which the channel corrected errors, and a summary entry is logged. -/
  | memCe (ch : Fin 400)
  /-- LEDGE_NOTIFY (R253). A ledge front-end is notified of an update of its queue's object and fetches pending commands,
  checking their SEQ. -/
  | ledgeNotify (lq : Fin 320)
  /-- LEDGE_AHEAD (R254). A slot's SEQ mismatch persists for 2 µs, so the front-end logs LEDGE_AHEAD and waits for the
  next update. -/
  | ledgeAhead (lq : Fin 320)
  /-- LEDGE_NOP (R269). Ledge NOP has no effect and serves as a queue barrier with FENCE and SIGNAL. -/
  | ledgeNop (lq : Fin 320)
  /-- LEDGE_FILL (R260). Ledge FILL writes a repeated pattern over a range as WriteFull lines. -/
  | ledgeFill (lq : Fin 320)
  /-- ACCUM (R261). Ledge ACCUM adds SRC into DST element by element in FP32, as bucket contributions when BUCKET is set.
  -/
  | accum (lq : Fin 320)
  /-- SCALE (R262). Ledge SCALE multiplies each element of DST by S with the command's rounding. -/
  | scale (lq : Fin 320)
  /-- CONVERT (R263). Ledge CONVERT narrows FP32 elements of SRC into DFMT at DST. -/
  | convert (lq : Fin 320)
  /-- SUMSQ (R264). Ledge SUMSQ forms a deterministic FP64 sum of squares and writes it to RESULT. -/
  | sumsq (lq : Fin 320)
  /-- OPTSTEP (R266). Ledge OPTSTEP forms the clip and constants and updates a range of benches with the optimiser
  formulas. -/
  | optstep (lq : Fin 320)
  /-- MIRROR (R269). Ledge MIRROR reads a range and sends each line as a Haul WRITE to the partner region. -/
  | mirror (lq : Fin 320)
  /-- BENCH_OP (R274). An engine takes every line of a bench, updates them atomically, then writes the copy and sends
  mirror writes. -/
  | benchOp (lq : Fin 320)
  /-- LEDGE_COMMAND_COMPLETE (R271). A ledge command's effects are visible and its mirror acknowledged or failed, so the
  front-end writes its record and signals. -/
  | ledgeCommandComplete (lq : Fin 320)
  /-- LEDGE_HW_FAULT (R286). An uncorrectable engine fault fences the engine and refuses its line operations until
  self-test. -/
  | ledgeHwFault (e : Fin 208)
  /-- BUCKET_OPEN (R290). A BUCKET_OPEN descriptor checks and opens a bucket entry, which enters FILLING. -/
  | bucketOpen (sq : Fin 1024)
  /-- BUCKET_FILLED (R291). The zero-fill of a bucket region finishes and the entry enters OPEN. -/
  | bucketFilled (tag : Fin 4096)
  /-- CONTRIBUTION (R293). A tagged ACCUM line operation reaches the bucket's home and is accepted and applied or refused.
  -/
  | contribution (tag : Fin 4096) (pa : BitVec 52) (mask : BitVec 16) (addends : List (BitVec 32)) (poison : Bool) (ctx : Option (Fin 64)) (src : BitVec 16)
  /-- BUCKET_COMPLETE (R300). The sum of squares is formed, the record and norm are written, SO is signalled and the entry
  becomes FREE. -/
  | bucketComplete (tag : Fin 4096)
  /-- BUCKET_LATE (R298). A bucket's TIMEOUT expires while it is FILLING or OPEN, so LATE is set, logged and an event is
  written. -/
  | bucketLate (tag : Fin 4096)
  /-- BUCKET_ABORT (R299). A BUCKET_ABORT descriptor ends a bucket early according to the state the home finds. -/
  | bucketAbort (sq : Fin 1024)
  /-- BUCKET_ABORT_DONE (R299). Accepted contributions of an aborting bucket have been applied, so the ABORTED record and
  NaN are written, SO is signalled and the entry becomes FREE. -/
  | bucketAbortDone (tag : Fin 4096)
  /-- VERSION_BEGIN (R309). A versioned OPTSTEP finds HOLDS zero and sets BUSY atomically before its first bench. -/
  | versionBegin (lq : Fin 320)
  /-- VERSION_END (R309). A versioned OPTSTEP's benches are released and visible, so VERSION advances with TORN as needed
  and BUSY is cleared. -/
  | versionEnd (lq : Fin 320)
  /-- HOLD_RELEASE (R310). A version-checked gather's last read is served or abandoned and HOLDS falls by one. -/
  | holdRelease (k : Fin 16384) (psn : BitVec 32)
  /-- MTIME_WRITE (R314). A write to mtime is ignored and entered in the configuration report log. -/
  | mtimeWrite (addr : BitVec 52) (a : SetupAcc)
  /-- CORE_WFI (R461). A host core executes WFI and enters GATED until an interrupt. -/
  | coreWfi (k : Fin 64)
  /-- PCIE_WRITE_TLP (R324). A PCIe memory write TLP is matched to a region, translated and written line by line with the
  region's hint. -/
  | pcieWriteTlp (p : Tlp)
  /-- PCIE_READ_TLP (R323). A PCIe memory read TLP is matched to a region, translated and served, or refused per Table
  12.6. -/
  | pcieReadTlp (p : Tlp) (len : Nat)
  /-- PCIE_MSI (R327). A PCIe MSI or MSI-X write is delivered only through a matching TYPE 1 region entry. -/
  | pcieMsi (port : Fin 8) (reqid : BitVec 16) (addr : BitVec 64) (v : BitVec 32)
  /-- MSI_WRITE (R326). A 4-byte write of an identity to seteipnum sets the pending bit in an interrupt file. -/
  | msiWrite (k : Fin 64) (file : Fin 8) (v : BitVec 32)
  /-- PORT_DOWN (R333). A sub-port loses lock, receives a fault or exceeds the FEC threshold, is declared down and its
  paths fail over. -/
  | portDown (sub : Fin 32)
  /-- SUBPORT_UP (R331). A sub-port completes link training and comes up. -/
  | subportUp (sub : Fin 32)
  /-- PATH_REJOIN (R352). A sub-port that has been up for 1 ms rejoins its connections' path sets and PATHDOWN is sent
  with its bit clear. -/
  | pathRejoin (sub : Fin 32)
  /-- HAUL_WRITE (R342). A received Haul WRITE is window-checked and placed through its region. -/
  | haulWrite (sub : Fin 32) (f : Frame)
  /-- HAUL_READ_PACKET (R354). A received Haul READ is served by ReadOnce through its region, version-checked when VCHK is
  set. -/
  | haulReadPacket (sub : Fin 32) (f : Frame)
  /-- READ_RESP (R354). A received READ_RESP is placed through LKEY at the requester. -/
  | readResp (sub : Fin 32) (f : Frame)
  /-- ACCUMULATE_FP32 (R251). A received ACCUMULATE-FP32 packet is translated through the bucket table and presented as
  ACCUM line operations. -/
  | accumulateFp32 (sub : Fin 32) (f : Frame)
  /-- SEND_TO_RING (R383). A received SEND-TO-RING packet is written to RXRING as payload slots and a RECEIVED record once
  lower PSNs complete. -/
  | sendToRing (sub : Fin 32) (f : Frame)
  /-- HAUL_SIGNAL (R346). A received Haul SIGNAL is applied to its object once every lower PSN of its epoch has completed.
  -/
  | haulSignal (sub : Fin 32) (f : Frame)
  /-- ACK (R345). A received ACK updates per-PSN status, credit and CE counts at the sender. -/
  | ack (sub : Fin 32) (f : Frame)
  /-- NAK (R344). A received NAK gives a PSN its final refusal status, or delays retransmission for RNR. -/
  | nak (sub : Fin 32) (f : Frame)
  /-- CONNECT (R338). A received CONNECT is answered with ACCEPT and opens a matching connection, or ends an OPEN
  connection whose peer restarted. -/
  | connect (sub : Fin 32) (f : Frame)
  /-- ACCEPT (R338). A received matching ACCEPT moves a CONNECTING connection to OPEN. -/
  | accept (sub : Fin 32) (f : Frame)
  /-- CLOSE (R339). A received CLOSE puts the connection in LOST. -/
  | close (sub : Fin 32) (f : Frame)
  /-- PATHDOWN (R352). A received PATHDOWN removes paths to the named addresses and retransmits their PSNs at once. -/
  | pathdown (sub : Fin 32) (f : Frame)
  /-- ARP_REQUEST (R332). FD answers an ARP request for its own address. -/
  | arpRequest (sub : Fin 32) (f : Frame)
  /-- NEIGHBOUR_SOLICITATION (R332). FD answers an IPv6 neighbour solicitation for its own address. -/
  | neighbourSolicitation (sub : Fin 32) (f : Frame)
  /-- PAUSE_FRAME (R332). A received PAUSE or PFC frame is counted and discarded. -/
  | pauseFrame (sub : Fin 32) (f : Frame)
  /-- RAW_FRAME (R332). A frame that is not Haul, RoCEv2, ARP or neighbour discovery goes to the raw frame queue or is
  discarded. -/
  | rawFrame (sub : Fin 32) (f : Frame)
  /-- PACKET_COMPLETE (R344). A received packet's effects are visible or refused, so its slot becomes DONE or takes a
  status and credit may rise. -/
  | packetComplete (k : Fin 16384) (psn : BitVec 32)
  /-- ACK_TIMER (R345). 2 µs pass since the first unreported completion and an ACK is sent. -/
  | ackTimer (k : Fin 16384)
  /-- PACKET_SEND (R340). A sequenced packet that credit and rate allow is sent on the next round-robin path. -/
  | packetSend (k : Fin 16384) (full : BitVec 32)
  /-- RETX_TIMEOUT (R348). A PSN's retransmission timer expires and it is retransmitted with RETX and a doubled timeout.
  -/
  | retxTimeout (k : Fin 16384) (psn : BitVec 32)
  /-- QUARANTINE_END (R341). A path's 1 ms quarantine ends. -/
  | quarantineEnd (k : Fin 16384) (sub : Fin 32) (ent : Fin 16)
  /-- KEEPALIVE (R339). An idle OPEN connection sends an ACK with COUNT 0 every 1 ms. -/
  | keepalive (k : Fin 16384)
  /-- CONN_TIMEOUT (R339). A connection receives nothing, or leaves a PSN unsettled, for TIMEOUT and enters LOST. -/
  | connTimeout (k : Fin 16384)
  /-- CONNECT_RETRY (R338). A CONNECTING connection sends CONNECT every 100 µs on each path in turn. -/
  | connectRetry (k : Fin 16384)
  /-- RC_PERIOD (R351). Once every RC_PERIOD the connection's rate rc is updated from its ECN marks. -/
  | rcPeriod (k : Fin 16384) (qp : Bool)
  /-- ROCE_SEND (R358). A received RoCEv2 SEND is placed into a posted receive buffer. -/
  | roceSend (n : Fin 4096) (p : RocePkt)
  /-- ROCE_RDMA_WRITE (R359). A received RoCEv2 RDMA WRITE is placed through its region. -/
  | roceRdmaWrite (n : Fin 4096) (p : RocePkt)
  /-- ROCE_RDMA_READ (R358). A received RoCEv2 RDMA READ request is answered with read responses. -/
  | roceRdmaRead (n : Fin 4096) (p : RocePkt)
  /-- ROCE_READ_RESPONSE (R358). A received RoCEv2 read response is placed at the requester. -/
  | roceReadResponse (n : Fin 4096) (p : RocePkt)
  /-- ROCE_ACK (R358). A received RoCEv2 acknowledgement settles requests or triggers go-back-N. -/
  | roceAck (n : Fin 4096) (psn : BitVec 24) (syndrome : BitVec 8) (icrcOk : Bool)
  /-- ROCE_CNP (R358). A received CNP drives the rate algorithm for its queue pair. -/
  | roceCnp (n : Fin 4096) (icrcOk : Bool)
  /-- ROCE_TIMEOUT (R358). A queue pair's retransmission timeout expires and go-back-N retry follows. -/
  | roceTimeout (n : Fin 4096)
  /-- REGISTRATION (R365). A non-zero write of REG_ADDR requests registration, and the device reads the block and decides
  the outcome. -/
  | registration (k : Fin 32) (a : SetupAcc) (req : BitVec 16)
  /-- DEREGISTRATION (R367). A write of zero to REG_ADDR starts deregistration of an ACTIVE entry. -/
  | deregistration (k : Fin 32) (writer : BitVec 32)
  /-- DEREGISTRATION_DONE (R367). A deregistering entry's descriptors and logged records have drained, so the entry and
  its rings become FREE. -/
  | deregistrationDone (k : Fin 32)
  /-- CXL_LINK_DOWN (R387). CX0 reports DL_Down, so every remote commander is lost. -/
  | cxlLinkDown
  /-- LINK_RESET (R507). A CXL hot, secondary-bus, CXL or function-level reset resets CX0 and loses every remote
  commander. -/
  | linkReset
  /-- CXL_REQUEST_TIMEOUT (R387). A CXL.cache request to a commander's memory errors or has no completion within 50 ms and
  that commander is lost. -/
  | cxlRequestTimeout (id : Nat)
  /-- CXLIO_REQUEST (R361). An inbound CXL.io request is served within BAR0 or BAR2 or completes with Unsupported Request.
  -/
  | cxlioRequest (bar : Fin 6) (off : BitVec 64) (write : Bool) (bytes : Fin 65)
  /-- SQ_DOORBELL (R376). An SQ doorbell write carries a new TAIL, and the device reads and consumes slots whose SEQ
  matches. -/
  | sqDoorbell (r : Fin 1024) (off : Fin 4096) (width : Fin 9) (value : BitVec 64) (req : Option (BitVec 16))
  /-- CQ_HEAD_DOORBELL (R380). A CQ head doorbell reports consumption, freeing slots and re-arming the interrupt. -/
  | cqHeadDoorbell (r : Fin 1024) (off : Fin 4096) (width : Fin 9) (value : BitVec 64) (req : Option (BitVec 16))
  /-- DOORBELL_AHEAD (R377). A slot's SEQ mismatch persists for 2 µs, so the device logs DOORBELL_AHEAD, writes an event
  and waits. -/
  | doorbellAhead (r : Fin 1024)
  /-- RING_NOP (R408). Descriptor NOP completes at once, returning a PARKED context to ACTIVE. -/
  | ringNop (sq : Fin 1024)
  /-- CTX_CREATE (R399). Descriptor CTX_CREATE records a new context's root, seed, save area and settings. -/
  | ctxCreate (sq : Fin 1024)
  /-- CTX_DESTROY (R404). Descriptor CTX_DESTROY moves a context to ENDING and releases all its resources. -/
  | ctxDestroy (sq : Fin 1024)
  /-- CTX_GRANT (R368). Descriptor CTX_GRANT grants a context to a commander KEY. -/
  | ctxGrant (sq : Fin 1024)
  /-- CTX_REVOKE (R368). Descriptor CTX_GRANT with bit 0 clear revokes a grant. -/
  | ctxRevoke (sq : Fin 1024)
  /-- TLB_INVAL (R84). Descriptor TLB_INVAL drops mappings from every device TLB and waits for operations using old
  translations. -/
  | tlbInval (sq : Fin 1024)
  /-- MEMWRITE (R372). Descriptor MEMWRITE writes inline bytes to DST. -/
  | memwrite (sq : Fin 1024)
  /-- RUN (R405). Descriptor RUN is consumed and becomes a ready work item once its FENCEs and waits are satisfied. -/
  | run (sq : Fin 1024)
  /-- SO_OP_SIGNAL (R372). Descriptor SO_OP applies SIGNAL to an object. -/
  | soOpSignal (sq : Fin 1024)
  /-- SO_OP_SET (R372). Descriptor SO_OP applies SET to an object. -/
  | soOpSet (sq : Fin 1024)
  /-- SO_WAIT (R372). Descriptor SO_WAIT waits on an object and holds back later descriptors of its SQ. -/
  | soWait (sq : Fin 1024)
  /-- SO_WAIT_TIMEOUT (R372). An SO_WAIT descriptor's TIMEOUT expires and it completes with TIMEOUT. -/
  | soWaitTimeout (sq : Fin 1024)
  /-- LQ_BIND (R252). Descriptor LQ_BIND binds a ledge queue. -/
  | lqBind (sq : Fin 1024)
  /-- LQ_UNBIND (R287). Descriptor LQ_UNBIND unbinds a ledge queue, cancelling commands in execution. -/
  | lqUnbind (sq : Fin 1024)
  /-- PCIE_REGION (R322). Descriptor PCIE_REGION writes a PCIe region entry. -/
  | pcieRegion (sq : Fin 1024)
  /-- PCIE_REGION_WITHDRAW (R325). Descriptor PCIE_REGION with VALID 0 withdraws an entry once its TLPs drain. -/
  | pcieRegionWithdraw (sq : Fin 1024)
  /-- FD_REGION (R356). Descriptor FD_REGION registers an FD region and returns its new key. -/
  | fdRegion (sq : Fin 1024)
  /-- FD_REGION_WITHDRAW (R357). Descriptor FD_REGION with VALID 0 deregisters an entry once packets using it complete. -/
  | fdRegionWithdraw (sq : Fin 1024)
  /-- CONN_CREATE (R338). Descriptor CONN_CREATE moves a connection to CONNECTING with a new epoch proposal. -/
  | connCreate (sq : Fin 1024)
  /-- CONN_CLOSE (R372). Descriptor CONN_CLOSE sends CLOSE and moves the connection to IDLE. -/
  | connClose (sq : Fin 1024)
  /-- NEIGH (R372). Descriptor NEIGH writes a neighbour-table entry. -/
  | neigh (sq : Fin 1024)
  /-- HAUL_POST_WRITE (R548). Descriptor HAUL_POST sends data as Haul WRITE packets. -/
  | haulPostWrite (sq : Fin 1024)
  /-- HAUL_POST_ACCUMULATE (R548). Descriptor HAUL_POST sends data as ACCUMULATE-FP32 packets. -/
  | haulPostAccumulate (sq : Fin 1024)
  /-- HAUL_POST_SEND (R548). Descriptor HAUL_POST sends data as one SEND-TO-RING packet. -/
  | haulPostSend (sq : Fin 1024)
  /-- HAUL_POST_SIGNAL (R548). Descriptor HAUL_POST sends a Haul SIGNAL. -/
  | haulPostSignal (sq : Fin 1024)
  /-- SENDI (R548). Descriptor SENDI sends inline data as SEND-TO-RING. -/
  | sendi (sq : Fin 1024)
  /-- HAUL_READ (R354). Descriptor HAUL_READ issues a Haul READ, version-checked when VCHK is set. -/
  | haulRead (sq : Fin 1024)
  /-- QP_CREATE (R358). Descriptor QP_CREATE creates a RoCEv2 queue pair. -/
  | qpCreate (sq : Fin 1024)
  /-- QP_POST_SEND (R359). Descriptor QP_POST posts a RoCEv2 SEND. -/
  | qpPostSend (sq : Fin 1024)
  /-- QP_POST_SEND_IMM (R359). Descriptor QP_POST posts a RoCEv2 SEND with Immediate. -/
  | qpPostSendImm (sq : Fin 1024)
  /-- QP_POST_WRITE (R359). Descriptor QP_POST posts a RoCEv2 RDMA WRITE. -/
  | qpPostWrite (sq : Fin 1024)
  /-- QP_POST_WRITE_IMM (R359). Descriptor QP_POST posts a RoCEv2 RDMA WRITE with Immediate. -/
  | qpPostWriteImm (sq : Fin 1024)
  /-- QP_POST_READ (R359). Descriptor QP_POST posts a RoCEv2 RDMA READ. -/
  | qpPostRead (sq : Fin 1024)
  /-- RECV_POST (R372). Descriptor RECV_POST posts a receive buffer to a queue pair. -/
  | recvPost (sq : Fin 1024)
  /-- RAWQ_BIND (R372). Descriptor RAWQ_BIND binds or unbinds the raw frame queue. -/
  | rawqBind (sq : Fin 1024)
  /-- RING_BIND (R369). Descriptor RING_BIND binds an SQ or CQ. -/
  | ringBind (sq : Fin 1024)
  /-- RING_UNBIND (R369). Descriptor RING_UNBIND frees a ring after an SQ completes what it fetched. -/
  | ringUnbind (sq : Fin 1024)
  /-- CM_RELEASE (R389). Descriptor CM_RELEASE frees a LOST commander entry, discarding its logged records and grants. -/
  | cmRelease (sq : Fin 1024)
  /-- CONT (R374). A CONT slot met where a descriptor is expected completes with MALFORMED. -/
  | cont (sq : Fin 1024)
  /-- DESCRIPTOR_COMPLETE (R379). A descriptor completes and its record is written to its CQ or the completion log, with
  optional DSO signal and MSI. -/
  | descriptorComplete (r : Fin 1024)
  /-- LOG_DRAIN (R385). A logged record leaves the completion log once its CQ has room and is ACTIVE. -/
  | logDrain (cqn : Fin 1024)
  /-- GRACE_EXPIRY (R387). GRACE passes after a commander loss and its continue-policy contexts park at the next queue
  boundary. -/
  | graceExpiry (cm : Fin 32) (k : Fin 64)
  /-- LOAD (R394). Mailbox LOAD verifies a dispatch image, writes the protected copy and starts FP0 to FP3. -/
  | load (crypto : Bool)
  /-- ATTACH (R395). Mailbox ATTACH checks driver and firmware version compatibility. -/
  | attach
  /-- HANDOVER (R414). Mailbox HANDOVER sets CM0 LOST without parking its contexts. -/
  | handover
  /-- UPDATE (R397). Mailbox UPDATE replaces running dispatch firmware between jobs. -/
  | update (crypto : Bool)
  /-- QUERY (R393). Mailbox QUERY returns the firmware version, processor status and free log entries. -/
  | query
  /-- MAILBOX_BAD_CALL (R521). A CODE not listed in Table 15.1 is taken as a call and gives BAD_CALL. -/
  | mailboxBadCall (code : BitVec 8)
  /-- RUN_START (R406). Firmware gives a free tile to the highest-priority ready RUN, pre-empting lower priority work if
  needed, and starts the work item. -/
  | runStart
  /-- SWITCH_COMPLETE (R402). A tile's switch-out and switch-in of context state finish and its resident context changes.
  -/
  | switchComplete (t : Fin 200)
  /-- DEADLINE_EXPIRY (R409). A RUN's deadline passes before completion and it is dropped. -/
  | deadlineExpiry (sq : Fin 1024)
  /-- PERIOD_END (R410). A periodic SQ's period ends, dropping its uncompleted descriptors and beginning the next period.
  -/
  | periodEnd (r : Fin 1024)
  /-- HEARTBEAT_READ (R412). Firmware reads a commander's heartbeat word every 1 ms. -/
  | heartbeatRead (k : Fin 32)
  /-- WATCHDOG_EXPIRY (R415). A firmware processor's watchdog expires, holding it in reset and logging FP_RESET. -/
  | watchdogExpiry (k : Fin 4)
  /-- FP_REJOIN (R419). A reset processor reloads from the protected copy, rejoins and receives its rings back one at a
  time. -/
  | fpRejoin (k : Fin 4)
  /-- FTIMG_POLL (R401). Every 100 µs firmware reads a context's function-table header and rebuilds and flips tables whose
  generation changed. -/
  | ftimgPoll (k : Fin 64)
  /-- RDCURR (R421). At a manager, a worker's RdCurr is carried into the home as ReadOnce within the commander window. -/
  | rdcurr (slot : Fin 32) (addr : BitVec 52)
  /-- ITOMWR (R421). At a manager, a worker's ItoMWr is carried into the home as WriteFull. -/
  | itomwr (slot : Fin 32) (addr : BitVec 52) (data : BitVec 512)
  /-- WOWRINV (R421). At a manager, a worker's WOWrInv is carried into the home as WritePartial. -/
  | wowrinv (slot : Fin 32) (addr : BitVec 52) (be : BitVec 64) (data : BitVec 512)
  /-- DOMAIN_SLOT_ASSIGN (R422). A manager assigns a downstream device its domain slot from its SLOT_ID strap or logs
  DOMAIN_SLOT_BAD. -/
  | domainSlotAssign (strap : BitVec 8) (reqid : BitVec 16)
  /-- UPSTREAM_CXLIO (R422). At a manager, an upstream CXL.io write into the interrupt-file range is delivered as an MSI,
  and any other request gets Unsupported Request. -/
  | upstreamCxlio (write : Bool) (addr : BitVec 64) (v : BitVec 32)
  /-- WORK_ITEM_RESTART (R446). Once the spare is up, the fenced work item restarts at its entry if SENT is 0 and an image
  is known. -/
  | workItemRestart (t : Fin 200)
  /-- TILE_REPAIR (R450). A write of TILE_REPAIR starts count-mode BIST on a fenced tile. -/
  | tileRepair (a : SetupAcc)
  /-- REPAIR_DONE (R450). Repair BIST ends, and the tile is returned as TILE_REPAIRED or stays FENCED as REPAIR_FAILED. -/
  | repairDone (pass : Bool)
  /-- PAIR (R452). A write of PAIR_VALID = 1 pairs with a partner, giving PAIRED or CORRELATED_FEED. -/
  | pair (a : SetupAcc)
  /-- UNPAIR (R452). A write of PAIR_VALID = 0 ends the pairing. -/
  | unpair (a : SetupAcc)
  /-- HEALTH_EVAL (R454). Every 10 ms the health monitor forms RISK, logging a change and making a snapshot due above the
  threshold. -/
  | healthEval (other : Nat) (temp : Nat)
  /-- SNAP_INTERVAL_DUE (R456). In mode 2, SNAP_INTERVAL passes since the last due and a snapshot falls due. -/
  | snapIntervalDue
  /-- SNAP_HOLD_RETRY (R456). 1 ms after releasing mismatched holds the device retries the snapshot holds. -/
  | snapHoldRetry
  /-- SNAP_DONE (R457). A write of SNAP_DONE releases the holds and records the layers reached for a snapshot. -/
  | snapDone (a : SetupAcc)
  /-- SNAP_HOLD_EXPIRED (R457). No SNAP_DONE arrives within SNAP_HOLD_MAX, so the holds are released. -/
  | snapHoldExpired
  /-- SNAP_ABANDONED (R457). SNAP_TARGET passes with the snapshot outstanding and it is abandoned. -/
  | snapAbandoned
  /-- CKPT_ADDR (R460). A write of CKPT_ADDR starts the checkpoint comparison. -/
  | ckptAddr (a : SetupAcc)
  /-- CKPT_DONE (R460). The checkpoint comparison completes, marking mismatched shards TORN and setting RUN_EPOCH. -/
  | ckptDone
  /-- ENVELOPE_W (R465). A write of ENVELOPE_W sets the envelope that applies from the next control-period boundary. -/
  | envelopeW (a : SetupAcc)
  /-- TILE_GROUP (R461). A write of TILE_GROUP commands tile groups to ACTIVE, GATED or PARKED at work-item boundaries. -/
  | tileGroup (a : SetupAcc)
  /-- CORE_OFF (R463). A write of CORE_OFF powers host cores off after emptying their L2, or back on. -/
  | coreOff (a : SetupAcc)
  /-- HBM_SR (R461). A write of HBM_SR puts stacks into or out of self-refresh. -/
  | hbmSr (a : SetupAcc)
  /-- DDR_SR (R461). A write of DDR_SR puts the DDR5 tier into or out of self-refresh. -/
  | ddrSr (a : SetupAcc)
  /-- SUBPORT_DIS (R464). A write of SUBPORT_DIS disables or enables Ethernet sub-ports. -/
  | subportDis (a : SetupAcc)
  /-- CONTROL_PERIOD (R465). Each 1 ms control period the envelope controller samples rails, computes grants and applies
  them. -/
  | controlPeriod (watts : List Nat) (mj : List Nat) (late : Bool)
  /-- SUPPLY_DROOP (R470). A rail falls more than 5 % for over 100 ns, so islands stretch their clocks and the event is
  counted. -/
  | supplyDroop (rail : Fin 32) (isl : List (BitVec 16))
  /-- FAC_CAP_ACK (R475). The commander answers a cap request by identifier. -/
  | facCapAck (a : SetupAcc)
  /-- TELEMETRY_PERIOD (R476). A telemetry period ends and each source writes its records to the ring. -/
  | telemetryPeriod (temps : List (BitVec 8)) (fec : List Nat) (late : List (BitVec 16))
  /-- GROUP_RECALIBRATION (R480). Every 1 s one die-to-die group per link is recalibrated for at most 5 µs. -/
  | groupRecalibration (link : Fin 13) (group : Fin 5)
  /-- SETUP_WRITE (R509). A write to a setup field without behaviour of its own is checked and applied or logged. -/
  | setupWrite (addr : BitVec 52) (bytes : BitVec 8) (value : BitVec 64) (writer : BitVec 32)
  /-- GEVENT (R520). A W1C write of GEVENT clears flags and resends the MSI if enabled flags remain. -/
  | gevent (a : SetupAcc)
  /-- GEVENT_EN (R520). A write of GEVENT_EN enables event interrupts, sending an MSI if enabled flags are set. -/
  | geventEn (a : SetupAcc)
  /-- TELE_BASE (R525). A write of TELE_BASE moves the telemetry ring and returns TELE_SEQ to zero. -/
  | teleBase (a : SetupAcc)
  /-- LOG_BASE (R525). A write of LOG_BASE or LOG_LOG2 moves the event log and returns LOG_TAIL and LOG_HEAD to zero. -/
  | logBase (size : Bool) (a : SetupAcc)
  /-- LOG_HEAD (R525). A write of LOG_HEAD reports entries consumed, clamped to LOG_TAIL. -/
  | logHead (a : SetupAcc)
  /-- MODE (R530). A write of a port MODE changes the port mode only while its sub-ports are down. -/
  | mode (a : SetupAcc)
  /-- HAUL_UDP (R530). A write of HAUL_UDP changes the Haul port only while sub-ports are down and never to 4,791. -/
  | haulUdp (a : SetupAcc)
  /-- PERIOD (R410). A write of an SQ's PERIOD or ITEMS makes it periodic and ends the current period. -/
  | period (sq : Fin 1024) (a : SetupAcc)
  /-- HAUL_MALFORMED (R336). A received Haul packet whose OP is not listed in Table 13.3, or whose VER is wrong, is
  discarded and counted as HAUL_MALFORMED with no acknowledgement. -/
  | haulMalformed (sub : Fin 32) (f : Frame)
  /-- ROCE_INVALID_REQUEST (R358). A received RoCEv2 request for an unsupported operation, such as an atomic or
  memory-window request, is answered with the Invalid Request NAK. -/
  | roceInvalidRequest (n : Fin 4096) (p : RocePkt)
  /-- CXL_CACHE_SNOOP (R360). A CXL.cache snoop from the host arrives at CX0 and is answered as invalid. -/
  | cxlCacheSnoop (addr : BitVec 52)
  /-- CXL_CACHE_RESPONSE (R362). A completion response or data for a device RdCurr, ItoMWr or WOWrInv to commander memory
  arrives, making a write visible or returning a slot, block or heartbeat read. -/
  | cxlCacheResponse (id : Nat) (res : CxlRes) (bs : List Byte)
  /-- CXL_LINK_UP (R360). CX0 trains, or retrains, into L0 at a supported width and rate, or logs CXL_TRAIN and stays
  down. -/
  | cxlLinkUp (width rate : Nat)
  /-- TIMER_COMPARE (R314). The power controller counter reaches a core's stimecmp or mtimecmp, and the timer interrupt is
  raised, waking a core in GATED. -/
  | timerCompare (k : Fin 64) (machine : Bool) (cmp : BitVec 64)
  /-- RAIL_RECOVERY (R470). A drooping rail recovers and the islands it supplies end their clock stretch. -/
  | railRecovery (rail : Fin 32)
  /-- NOP (R181). Tile controller NOP has no effect. -/
  | nop (t : Fin 200) (w : BitVec 64)
  /-- ALU (R181). Tile controller ALU computes X[RD] from two registers with the function in FUNC. -/
  | alu (t : Fin 200) (w : BitVec 64)
  /-- ALUI (R181). Tile controller ALUI computes X[RD] from a register and the sign-extended immediate. -/
  | alui (t : Fin 200) (w : BitVec 64)
  /-- LI (R181). Tile controller LI loads the immediate into X[RD]. -/
  | li (t : Fin 200) (w : BitVec 64)
  /-- LIH (R181). Tile controller LIH places the immediate in the upper 32 bits of X[RD]. -/
  | lih (t : Fin 200) (w : BitVec 64)
  /-- LD (R182). Tile controller LD loads 1 to 8 bytes of tile memory into X[RD], faulting on misalignment, bounds or
  poison. -/
  | ld (t : Fin 200) (w : BitVec 64)
  /-- ST (R182). Tile controller ST writes the low bytes of X[RS2] to tile memory without clearing poison. -/
  | st (t : Fin 200) (w : BitVec 64)
  /-- BR (R181). Tile controller BR branches by IMM32 when the register comparison holds. -/
  | br (t : Fin 200) (w : BitVec 64)
  /-- JAL (R181). Tile controller JAL links PC + 8 and jumps PC-relative. -/
  | jal (t : Fin 200) (w : BitVec 64)
  /-- JALR (R181). Tile controller JALR links PC + 8 and jumps to a register-relative target. -/
  | jalr (t : Fin 200) (w : BitVec 64)
  /-- HALT (R184). Tile controller HALT stops issue, and the work item ends once queues, mover operations and held signals
  drain. -/
  | halt (t : Fin 200) (w : BitVec 64)
  /-- BREAK (R181). Tile controller BREAK raises the BREAK exception with TVAL set to the immediate. -/
  | brk (t : Fin 200) (w : BitVec 64)
  /-- RSR (R183). Tile controller RSR reads a tile state register into X[RD] at the point Table 7.5 gives. -/
  | rsr (t : Fin 200) (w : BitVec 64)
  /-- WSR (R183). Tile controller WSR writes a tile state register, waiting for the array queue or taking a vector-queue
  slot as Table 7.5 gives. -/
  | wsr (t : Fin 200) (w : BitVec 64)
  /-- SOSIGNAL (R186). Tile controller SOSIGNAL holds a SIGNAL to a synchronisation object until earlier mover operations
  complete. -/
  | sosignal (t : Fin 200) (w : BitVec 64)
  /-- SOSET (R186). Tile controller SOSET holds a SET to a synchronisation object until earlier mover operations complete.
  -/
  | soset (t : Fin 200) (w : BitVec 64)
  /-- SOWAIT (R187). Tile controller SOWAIT sends a WAIT with optional timeout and blocks issue until it returns. -/
  | sowait (t : Fin 200) (w : BitVec 64)
  /-- SOREAD (R187). Tile controller SOREAD returns the value of one READ at the object's home. -/
  | soread (t : Fin 200) (w : BitVec 64)
  /-- HELD_SIGNAL_SEND (R186). A held tile signal leaves for its home in issue order once every earlier mover operation
  has completed. -/
  | heldSignalSend (t : Fin 200)
  /-- SOWAIT_TIMEOUT (R187). A SOWAIT timeout counted on TCOUNT expires, so the tile asks the home to remove the
  registration and returns with bit 63 set unless a wake was committed. -/
  | sowaitTimeout (t : Fin 200)
  /-- WORK_ITEM_DONE (R184). A halted work item's queues, mover operations and held signals have drained, so it ends with
  status DONE. -/
  | workItemDone (t : Fin 200)
  /-- ASYNC_EXCEPTION (R68). An exception detected after issue by the mover, array or vector engine is taken at the next
  instruction boundary, or at once when the controller is blocked. -/
  | asyncException (t : Fin 200)
  /-- COPY (R77). Mover COPY copies a tensor between package and tile memory with equal extents. -/
  | copy (t : Fin 200) (w : BitVec 64)
  /-- SKEW (R78). Mover SKEW writes a plain block into a skewed region and its scale plane. -/
  | skew (t : Fin 200) (w : BitVec 64)
  /-- SKEWT (R78). Mover SKEWT writes a skewed region taking each element from the transposed source position. -/
  | skewt (t : Fin 200) (w : BitVec 64)
  /-- STAT (R79). Mover STAT writes a block of the source into a stationary image at origin k0, n0. -/
  | stat (t : Fin 200) (w : BitVec 64)
  /-- STATT (R79). Mover STATT writes a transposed block into a stationary image through the transpose buffer. -/
  | statt (t : Fin 200) (w : BitVec 64)
  /-- FILL (R77). Mover FILL writes a repeated 32-bit pattern over a tile-memory range. -/
  | fill (t : Fin 200) (w : BitVec 64)
  /-- LOADI (R191). Mover LOADI copies a program image from package memory into instruction memory. -/
  | loadi (t : Fin 200) (w : BitVec 64)
  /-- ACCSAVE (R138). Mover ACCSAVE writes the accumulator save image to the context save area. -/
  | accsave (t : Fin 200) (w : BitVec 64)
  /-- ACCRESTORE (R138). Mover ACCRESTORE reads the accumulator save image back, marking poison under R135. -/
  | accrestore (t : Fin 200) (w : BitVec 64)
  /-- MWAIT (R189). Mover MWAIT waits for a named token or for all outstanding mover operations. -/
  | mwait (t : Fin 200) (w : BitVec 64)
  /-- MLOAD (R101). Array MLOAD queues a load of a stationary image into the shadow plane, becoming the pending load. -/
  | mload (t : Fin 200) (w : BitVec 64)
  /-- MMUL (R94). Array MMUL queues a pass that multiplies skewed rows by the active plane into accumulator rows. -/
  | mmul (t : Fin 200) (w : BitVec 64)
  /-- MVMUL (R106). Array MVMUL queues a product of A and W transposed on the matrix-vector path, or on the wide, shallow
  form when that path is fenced. -/
  | mvmul (t : Fin 200) (w : BitVec 64)
  /-- AWAIT (R192). Array AWAIT stalls issue until every array-queue entry has completed. -/
  | await (t : Fin 200) (w : BitVec 64)
  /-- LOAD_START (R99). A queued load begins its wavefront at the smallest step that meets its constraints. -/
  | loadStart (t : Fin 200)
  /-- PASS_START (R99). A queued pass begins its stream at the smallest step that meets its constraints, claiming a
  pending load when NEW is set. -/
  | passStart (t : Fin 200)
  /-- ARRAY_STEP (R91). The matrix array advances one step, reading feed and load lines, multiplying and moving partial
  sums. -/
  | arrayStep (t : Fin 200)
  /-- PASS_COMPLETE (R96). A pass's last row has been written and its array-queue entry completes. -/
  | passComplete (t : Fin 200)
  /-- MVMUL_COMPLETE (R107). An MVMUL writes its rows in its last tc and completes, with a fallback form reloading the
  active plane first. -/
  | mvmulComplete (t : Fin 200)
  /-- ARRAY_HW_FAULT (R117). An uncorrectable internal fault of the array or matrix-vector path sets AFAULT with HW_FAULT
  and discards and poisons rows. -/
  | arrayHwFault (t : Fin 200) (mvp : Bool)
  /-- PREEMPT_REQUEST (R112). The dispatch complex pre-empts a tile, stopping issue and the feed, and starting the drain.
  -/
  | preemptRequest (t : Fin 200)
  /-- PAUSE_SEGMENT_END (R466). A throttle pause segment of a tile island ends and its clock returns with all state held.
  -/
  | pauseSegmentEnd (t : Fin 200)
  /-- VECTOR_WAIT (R150). The vector-wait instruction blocks until every earlier vector instruction has completed. -/
  | vectorWait (t : Fin 200)
  /-- VECTOR_COMPLETE (R150). A vector instruction writes its last result and completes, releasing any held function-table
  writes. -/
  | vectorComplete (t : Fin 200)
  /-- FT_WRITE (R173). Firmware writes 16 bytes into a function table's back bank. -/
  | ftWrite (t : Fin 200) (k : Fin 4) (i : Fin 258) (d : BitVec 128)
  /-- FT_FLIP_REQUEST (R173). Firmware requests a flip of one function table, closing its back bank. -/
  | ftFlipRequest (t : Fin 200) (k : Fin 4)
  /-- FT_FLIP (R174). A deferred flip takes effect at an instruction boundary once earlier writes complete, exchanging
  banks and raising FTGENk. -/
  | ftFlip (t : Fin 200) (k : Fin 4)
  /-- TILE_HW_FAULT (R444). A tile raises HW_FAULT and is fenced, and firmware moves its logical index to a spare. -/
  | tileHwFault (t : Fin 200) (unit : BitVec 8)
  /-- TILE_ECC_FENCE (R444). A tile's corrected ECC errors exceed 64 in 1 ms and firmware fences it. -/
  | tileEccFence (t : Fin 200) (corrected : BitVec 32)
  /-- PROTECT_TRIP (R471). Overcurrent or 115 °C trips the power block into the safe, talkative state. -/
  | protectTrip (rail : Bool) (n : Fin 32)
  /-- FAC_CAP_REQ (R474). A facility writes FAC_CAP_REQ, which is recorded and raises FAC_CAP_PENDING with an interrupt.
  -/
  | facCapReq (w : BitVec 32)
  /-- FLASH_WEAR_LEVEL (R480). Management flash wear levelling runs when at least 64 KiB of erased blocks remain to
  reclaim. -/
  | flashWearLevel
  /-- GET_VERSION (R489). SPDM GET_VERSION is answered. -/
  | getVersion (tr : Fin 4)
  /-- GET_CAPABILITIES (R489). SPDM GET_CAPABILITIES is answered. -/
  | getCapabilities (tr : Fin 4)
  /-- NEGOTIATE_ALGORITHMS (R489). SPDM NEGOTIATE_ALGORITHMS is answered, requiring both extended entries. -/
  | negotiateAlgorithms (tr : Fin 4) (falcon : Bool) (shake : Bool)
  /-- GET_DIGESTS (R489). SPDM GET_DIGESTS is answered. -/
  | getDigests (tr : Fin 4)
  /-- GET_CERTIFICATE (R488). SPDM GET_CERTIFICATE returns the slot 0 chain. -/
  | getCertificate (tr : Fin 4) (slot : Fin 8) (off : Fin 65536) (len : Fin 65536)
  /-- CHALLENGE (R489). SPDM CHALLENGE is answered with an alias-key signature. -/
  | challenge (tr : Fin 4) (slot : Fin 8)
  /-- GET_MEASUREMENTS (R491). SPDM GET_MEASUREMENTS returns the measurements taken at acceptance. -/
  | getMeasurements (tr : Fin 4) (op : Fin 256) (signed : Bool)
  /-- RESPOND_IF_READY (R492). SPDM RESPOND_IF_READY returns a kept signed response. -/
  | respondIfReady (tr : Fin 4) (token : Nat)
  /-- SPDM_UNSUPPORTED (R489). Any other SPDM request gives ERROR UnsupportedRequest. -/
  | spdmUnsupported (tr : Fin 4)
  /-- SPDM_SIGN_DONE (R492). The security block finishes a signature and the next queued signing begins. -/
  | spdmSignDone
  /-- SPDM_NOT_READY (R492). A signing request waits longer than 1 ms and is answered with ResponseNotReady. -/
  | spdmNotReady
  /-- MCTP_CONTROL (R495). An MCTP control message is answered. -/
  | mctpControl (iface : Fin 4) (cmd : Fin 256)
  /-- PLDM_DISCOVERY (R497). A PLDM Type 0 discovery request is answered. -/
  | pldmDiscovery (iface : Fin 4)
  /-- PLDM_SENSOR_READ (R498). A PLDM Type 2 sensor read is answered, with sensor 2 latching the high half for sensor 3.
  -/
  | pldmSensorRead (iface : Fin 4) (sensor : Fin 65536) (temp : BitVec 8)
  /-- PLDM_FIRMWARE_UPDATE (R497). PLDM Type 5 writes an image to the inactive slot and switches ACTIVE if it verifies. -/
  | pldmFirmwareUpdate (iface : Fin 4) (type : Fin 256) (arrived : Bool) (header : List Byte) (crypto : Bool)
  /-- READ_EVENTS (R499). The READ_EVENTS vendor message returns held event entries. -/
  | readEvents (iface : Fin 4) (start : Fin 65536) (count : Fin 256)
  /-- READ_REPORT (R499). The READ_REPORT vendor message returns the latest or previous self-test report. -/
  | readReport (iface : Fin 4) (which : Fin 256)
  /-- PKG_RESET (R499). The PKG_RESET vendor message with a correct CONFIRM starts a warm reset. -/
  | pkgReset (iface : Fin 4) (confirm : BitVec 32)
  /-- COLD_RESET (R507). AON_GOOD rises and the whole package resets. -/
  | coldReset
  /-- BOOT_ROM_START (R500). 1 ms after AON_GOOD the boot ROM starts self-test. -/
  | bootRomStart
  /-- WARM_RESET (R507). WARM_RST_N low for 10 µs disables groups 1 to 5 and restarts self-test. -/
  | warmReset
  /-- PWR_GOOD_RISE (R500). A supply group's PWR_GOOD rises and sequencing proceeds. -/
  | pwrGoodRise (g : Fin 6)
  /-- RAIL_FAIL (R501). PWR_GOOD does not rise within 10 ms of PWR_EN, a fatal failure. -/
  | railFail (g : Fin 6)
  /-- PWR_GOOD_FALL (R501). An enabled group's PWR_GOOD falls and the block trips, logging RAIL_FAIL. -/
  | pwrGoodFall (g : Fin 6)
  /-- SELF_TEST_STEP (R503). A self-test step completes and the next begins, or a fatal result enters the safe state. -/
  | selfTestStep (r : SelfTest)
  /-- PAUSE_SEGMENT_START (R466). A throttle pause segment of a tile island begins and its clock is gated at a step
  boundary. -/
  | pauseSegmentStart (t : Fin 200)
  /-- THERM_ALERT (R540). A die's junction temperature crosses 105 °C, and THERM_ALERT_N is asserted or released. -/
  | thermAlert (die : Fin 6) (above : Bool)
  /-- POWER_LOSS (R443). VAON falls out of tolerance or AON_GOOD falls, and the whole package loses power. -/
  | powerLoss
deriving DecidableEq, Repr

end Sys2Proof
end

