-- ==== Sys2Proof/Decode.lean ====
section
/-!
DEFINITION. The command that a word spells by the bits of the command table. No row of the table gives bits: the fields of
tile instructions, descriptors, commands, packets and records are decoded where their meanings stand.
-/

namespace Sys2Proof

/-- The command that a word spells: none does. -/
def decodeTableWord (_nbits _w : Nat) : Option Instr := none

end Sys2Proof
end

