-- ==== Sys2Proof/Config.lean ====
section
/-!
DEFINITION. What the specification leaves to each implementation, as constants with no body: nothing in Lean can see
their values, so a statement that holds in this model holds for every choice.
-/

namespace Sys2Proof.Config

/-- A fresh free value: the specification lets the machine go on and does not give this value. Each use takes the next
number of `Chip.free` (assumption 1). -/
opaque freeValue : Nat → Nat

/-- The synchronisation objects that firmware assigns to a context when it is created, by the number of a free value: 03 R85 has
firmware assign them and says neither when nor which (assumption 6). -/
opaque objectsGiven : Nat → List Nat

/-- The numeric code of an event in a log entry: 18 R479 gives the field and no codes (assumption 8). -/
opaque eventCode : Nat → Nat

/-- The byte at offset `i` of the payload part of an event entry: 18 R479 names the fields and not their places
(assumption 8). -/
opaque eventByte : Nat → List Nat → Nat → Nat

/-- The set of a home's snoop filter that a line falls in: 09 R233 calls it a hash (assumption 9). -/
opaque filterSet : Nat → Nat → Nat

/-- The bank of a memory channel that a channel-local line lies in: 08 gives the banks and no mapping (DESIGN CHOICE, assumption 105). -/
opaque bankOf : Nat → Nat → Nat

/-- What the core that owns a line has done with it by its `n`th answer: whether it has written it, and the bytes and the poison that it
then holds. A core's stores are no commands of this block (DESIGN CHOICE, assumption 104). -/
opaque ownerWrote : Nat → Nat → Bool
/-- Its bytes. -/
opaque ownerByte : Nat → Nat → Nat → Byte
/-- Its poison. -/
opaque ownerPoison : Nat → Nat → Bool

/-- Which line a full cache evicts for a new one, by the cache and the number of the entry: 09 R237 leaves replacement to the cache
(assumption 115). -/
opaque cacheVictim : Nat → Nat → Nat

/-- RAAIMT of a memory channel's devices, which the mode registers report at training (08 R216). -/
opaque raaimt : Nat → Nat

/-- RAAMMT of a memory channel's devices (08 R216). -/
opaque raammt : Nat → Nat

/-- How far an island's counter gets while its clock is stretched by a supply droop (18 R470), by island, starting value and the
cycles of its nominal rate. -/
opaque stretched : Nat → Nat → Nat → Nat

/-- How far an island's counter has got when the command that brings its power has taken effect, by island and restart count: no
island's counter is aligned to another's (01 R34; DEDUCED, assumption 117). -/
opaque phase : Nat → Nat → Nat

/-- The DSCP of the traffic class of packets to a UDP port (0: neighbour discovery): 13 R332 names the classes' DSCP and gives neither
(DESIGN CHOICE, assumption 112). -/
opaque dscp : Nat → Nat

/-- The MAC address of a sub-port, from the board record (21 Table 21.13). -/
opaque boardMac : Nat → Nat

/-- The digest of the image that slot A of a TYPE holds when the package is first used (assumption 24). -/
opaque imageDigest : Nat → Nat

/-- SHAKE256 of the boot ROM (19 Table 19.4). -/
opaque bootRomDigest : Nat

/-- SHAKE256 of the board record (19 Table 19.4). -/
opaque boardDigest : Nat

/-- The certificate chain of SPDM slot 0 by the measurements 1 to 4 that its alias key is derived with (19 R487, R488). -/
opaque certChain : List Nat → List Nat

/-- The hash of a byte string as GET_DIGESTS returns it (19 Table 19.3). -/
opaque shake256 : List Nat → Nat

/-- DEVICE_ID (19 R488). -/
opaque deviceId : Nat

/-- The DETAIL of a link and group in the self-test report, whose packing the specification leaves open (20 Table 20.5). -/
opaque linkDetail : Nat → Nat → Nat

end Sys2Proof.Config
end

