-- ==== Sys2Proof/Machine/Base.lean ====
section
/-!
DEFINITION. Sparse tables, byte memories, byte order and bit fields: the helpers under every operation of the model.
-/

namespace Sys2Proof.Machine

/-! Sparse tables -/

/-- The entry of index `i`, or `d` when none is listed. -/
def tabGet {α : Type} (d : α) : Tab α → Nat → α
  | [], _ => d
  | (k, v) :: r, i => if k = i then v else tabGet d r i

/-- The entry of index `i`, if one is listed. -/
def tabFind {α : Type} : Tab α → Nat → Option α
  | [], _ => none
  | (k, v) :: r, i => if k = i then some v else tabFind r i

/-- The table with entry `i` set to `v`, kept in rising order of index. -/
def tabSet {α : Type} : Tab α → Nat → α → Tab α
  | [], i, v => [(i, v)]
  | (k, w) :: r, i, v =>
    if k = i then (i, v) :: r
    else if i < k then (i, v) :: (k, w) :: r
    else (k, w) :: tabSet r i v

/-- The table without entry `i`. -/
def tabDel {α : Type} : Tab α → Nat → Tab α
  | [], _ => []
  | (k, w) :: r, i => if k = i then tabDel r i else (k, w) :: tabDel r i

/-- Entry `i` changed by `f`, taken from `d` when none is listed. -/
def tabMod {α : Type} (d : α) (t : Tab α) (i : Nat) (f : α → α) : Tab α :=
  tabSet t i (f (tabGet d t i))

/-! Sorted sets of numbers -/

/-- The set with `a` added. -/
def setIns : List Nat → Nat → List Nat
  | [], a => [a]
  | b :: r, a => if a < b then a :: b :: r else if a = b then b :: r else b :: setIns r a

/-- The set without `a`. -/
def setDel : List Nat → Nat → List Nat
  | [], _ => []
  | b :: r, a => if a = b then setDel r a else b :: setDel r a

/-- Membership. -/
def setHas (l : List Nat) (a : Nat) : Bool := l.contains a

/-- The set with the members of `l` added, or removed when `on` is false. -/
def setPut (s : List Nat) (l : List Nat) (on : Bool) : List Nat :=
  l.foldl (fun t a => if on then setIns t a else setDel t a) s

/-! Byte memories -/

/-- The byte at `a` (zero when none is listed). -/
def Memory.read (m : Memory) (a : Nat) : Byte := tabGet 0 m a

/-- The memory with byte `b` stored at `a`, in canonical form. -/
def Memory.write : Memory → Nat → Byte → Memory
  | [], a, b => if b = 0 then [] else [(a, b)]
  | (k, w) :: r, a, b =>
    if a < k then (if b = 0 then (k, w) :: r else (a, b) :: (k, w) :: r)
    else if a = k then (if b = 0 then r else (a, b) :: r)
    else (k, w) :: Memory.write r a b

/-- Every address of the list is at least `lo`, the addresses rise strictly, and no byte is zero. -/
def Memory.wfFrom : Nat → Memory → Bool
  | _, [] => true
  | lo, (k, w) :: r => decide (lo ≤ k) && !decide (w = 0) && Memory.wfFrom (k + 1) r

/-- The canonical form of a byte memory. -/
def Memory.wf (m : Memory) : Bool := Memory.wfFrom 0 m

/-- `n` bytes from `a` upwards. -/
def Memory.readN (m : Memory) (a : Nat) : Nat → List Byte
  | 0 => []
  | n + 1 => m.read a :: Memory.readN m (a + 1) n

/-- The bytes of the list stored from `a` upwards. -/
def Memory.writeN (m : Memory) (a : Nat) : List Byte → Memory
  | [] => m
  | b :: r => Memory.writeN (m.write a b) (a + 1) r

/-- `n` zero bytes stored from `a` upwards. -/
def Memory.zeroN (m : Memory) (a : Nat) : Nat → Memory
  | 0 => m
  | n + 1 => Memory.zeroN (m.write a 0) (a + 1) n

/-- The part of a memory in a range: what a long copy carries without listing its zero bytes. -/
def Memory.slice (m : Memory) (a n : Nat) : Memory :=
  m.filter (fun c => decide (a ≤ c.1) && decide (c.1 < a + n))

/-- The memory with every byte of a range cleared. -/
def Memory.clear (m : Memory) (a n : Nat) : Memory :=
  m.filter (fun c => !(decide (a ≤ c.1) && decide (c.1 < a + n)))

/-- The bytes `src` .. `src + n - 1` of `s` stored at `dst` .. `dst + n - 1` of `m`. -/
def Memory.blit (m : Memory) (dst : Nat) (s : Memory) (src n : Nat) : Memory :=
  (Memory.slice s src n).foldl (fun acc c => acc.write (c.1 - src + dst) c.2) (Memory.clear m dst n)

/-! Byte order (00 R9) -/

/-- The little-endian value of a byte list. -/
def leVal : List Byte → Nat
  | [] => 0
  | b :: r => b.toNat + 256 * leVal r

/-- The big-endian value of a byte list (Haul and RoCEv2 header fields, 00 R9). -/
def beVal (l : List Byte) : Nat := l.foldl (fun a b => a * 256 + b.toNat) 0

/-- The low `n` bytes of a value, little-endian. -/
def leBytes : Nat → Nat → List Byte
  | 0, _ => []
  | n + 1, v => BitVec.ofNat 8 v :: leBytes n (v / 256)

/-- The low `n` bytes of a value, big-endian. -/
def beBytes (n v : Nat) : List Byte := (leBytes n v).reverse

/-- `n` zero bytes. -/
def zeros (n : Nat) : List Byte := List.replicate n 0

/-- The little-endian field of `n` bytes at byte `off` of a record. -/
def fieldLE (r : List Byte) (off n : Nat) : Nat := leVal ((r.drop off).take n)

/-- The big-endian field of `n` bytes at byte `off` of a packet. -/
def fieldBE (r : List Byte) (off n : Nat) : Nat := beVal ((r.drop off).take n)

/-- The bytes `off` .. `off + n - 1` of a record are all zero. -/
def zeroAt (r : List Byte) (off n : Nat) : Bool := ((r.drop off).take n).all (fun b => b == 0)

/-- The little-endian value of `n` bytes of a memory. -/
def Memory.readLE (m : Memory) (a n : Nat) : Nat := leVal (m.readN a n)

/-- A value stored little-endian in `n` bytes of a memory. -/
def Memory.writeLE (m : Memory) (a n v : Nat) : Memory := m.writeN a (leBytes n v)

/-- The 64 bytes of a line. -/
def lineBytes (d : BitVec 512) : List Byte := leBytes 64 d.toNat

/-! Bit fields (00 R9: a range [h:l] includes both ends) -/

/-- Bits [hi:lo] of a number. -/
def bits (v hi lo : Nat) : Nat := (v >>> lo) % 2 ^ (hi + 1 - lo)

/-- Bit `i` of a number. -/
def bit (v i : Nat) : Bool := (v >>> i) % 2 == 1

/-- A truth value as 0 or 1. -/
def b2n (b : Bool) : Nat := if b then 1 else 0

/-- `n` bits of `v` placed at bit `lo` of `w`. -/
def putBits (w lo n v : Nat) : Nat :=
  w - (bits w (lo + n - 1) lo) * 2 ^ lo + (v % 2 ^ n) * 2 ^ lo

/-- A 64-bit value as a signed number (00 R12). -/
def s64 (v : Nat) : Int := (BitVec.ofNat 64 v).toInt

/-- A 32-bit value as a signed number. -/
def s32 (v : Nat) : Int := (BitVec.ofNat 32 v).toInt

/-- A signed number modulo 2^64 (00 R12). -/
def u64 (v : Int) : Nat := (v % (2 ^ 64 : Int)).toNat

/-- A multiple test that treats every number as a multiple of the unit the rule names. -/
def aligned (a n : Nat) : Bool := a % n == 0

/-- Rounded-up division. -/
def ceilDiv (a b : Nat) : Nat := (a + b - 1) / b

/-- A value clamped to a range. -/
def clampN (v lo hi : Nat) : Nat := if v < lo then lo else if hi < v then hi else v

/-- Sequence comparison modulo 2^32 within 2^31 (13 R342, R349): `a` is not behind `b`. -/
def seqGe (a b : Nat) : Bool := decide ((a + 2 ^ 32 - b % 2 ^ 32) % 2 ^ 32 < 2 ^ 31)

/-- `(a - b) mod 2^32` (14 R376). -/
def sub32 (a b : Nat) : Nat := (a % 2 ^ 32 + 2 ^ 32 - b % 2 ^ 32) % 2 ^ 32

end Sys2Proof.Machine
end

