-- ==== Sys2Proof/Machine/Float.lean ====
section
/-!
DEFINITION. The number formats of chapter 02: what a bit pattern means, how a value is rounded, saturated and encoded,
exact arithmetic on decoded values, the MX block formats, and the counter generator.
-/

namespace Sys2Proof.Machine

/-- A decoded value: a NaN, an infinity, or the finite value `(-1)^neg * m * 2^e` (02 R35). -/
inductive FVal where
  | nan
  | inf (neg : Bool)
  | fin (neg : Bool) (m : Nat) (e : Int)
deriving DecidableEq, Repr

/-- What the patterns with an all-ones exponent mean in a floating-point format (02 Table 2.1). -/
inductive Special where
  /-- M = 0 is an infinity, any other M a NaN. -/
  | ieee
  /-- No infinity; only M all ones is a NaN (E4M3). -/
  | onlyNan
  /-- Neither (FP6, FP4). -/
  | none
deriving DecidableEq, Repr

/-- A floating-point format: exponent bits, mantissa bits, bias (02 Table 2.1). -/
structure FFmt where
  eb : Nat
  mb : Nat
  bias : Nat
  special : Special
deriving DecidableEq, Repr

/-- The element formats of 02 Table 2.1 and 03 Table 3.6, and FP64, which 10 R264 and 11 R303 use inside sums. -/
inductive Fmt where
  | flt (f : FFmt)
  | int8
  | int32
deriving DecidableEq, Repr

def fp32F : FFmt := ⟨8, 23, 127, .ieee⟩
def bf16F : FFmt := ⟨8, 7, 127, .ieee⟩
def fp16F : FFmt := ⟨5, 10, 15, .ieee⟩
def e4m3F : FFmt := ⟨4, 3, 7, .onlyNan⟩
def e5m2F : FFmt := ⟨5, 2, 15, .ieee⟩
def e3m2F : FFmt := ⟨3, 2, 3, .none⟩
def e2m3F : FFmt := ⟨2, 3, 1, .none⟩
def e2m1F : FFmt := ⟨2, 1, 1, .none⟩
def fp64F : FFmt := ⟨11, 52, 1023, .ieee⟩

/-- The format of a code of 03 Table 3.6; codes 10 to 255 are reserved. -/
def fmtOfCode (c : Nat) : Option Fmt :=
  match c with
  | 0 => some (.flt fp32F)
  | 1 => some (.flt bf16F)
  | 2 => some (.flt fp16F)
  | 3 => some (.flt e4m3F)
  | 4 => some (.flt e5m2F)
  | 5 => some (.flt e3m2F)
  | 6 => some (.flt e2m3F)
  | 7 => some (.flt e2m1F)
  | 8 => some .int8
  | 9 => some .int32
  | _ => none

/-- Bits of one element of a format code (03 Table 3.6). -/
def fmtBits (c : Nat) : Nat :=
  match c with
  | 0 => 32
  | 1 => 16
  | 2 => 16
  | 3 => 8
  | 4 => 8
  | 5 => 6
  | 6 => 6
  | 7 => 4
  | 8 => 8
  | 9 => 32
  | _ => 8

/-- The format allows MX blocks (03 Table 3.6). -/
def fmtMxAllowed (c : Nat) : Bool := decide (3 ≤ c) && decide (c ≤ 8)

/-- The exponent of the largest normal element value, for MX encoding (02 Table 2.2). -/
def emaxElem (c : Nat) : Int :=
  match c with
  | 3 => 8
  | 4 => 15
  | 5 => 4
  | 6 => 2
  | 7 => 2
  | _ => 0

/-! Decoding (02 R35) -/

/-- The value of a bit pattern of a floating-point format. -/
def decodeF (f : FFmt) (v : Nat) : FVal :=
  let neg := bit v (f.eb + f.mb)
  let e := bits v (f.eb + f.mb - 1) f.mb
  let m := bits v (f.mb - 1) 0
  let allOnes := e == 2 ^ f.eb - 1
  match f.special, allOnes with
  | .ieee, true => if m = 0 then .inf neg else .nan
  | .onlyNan, true =>
    if m = 2 ^ f.mb - 1 then .nan else .fin neg (2 ^ f.mb + m) ((e : Int) - f.bias - f.mb)
  | _, _ =>
    if e = 0 then .fin neg m (1 - (f.bias : Int) - f.mb)
    else .fin neg (2 ^ f.mb + m) ((e : Int) - f.bias - f.mb)

/-- A signed integer as a value. -/
def ofInt (i : Int) : FVal := .fin (decide (i < 0)) i.natAbs 0

/-- The value of a bit pattern of a format. -/
def decodeV (f : Fmt) (v : Nat) : FVal :=
  match f with
  | .flt g => decodeF g v
  | .int8 => ofInt (BitVec.ofNat 8 v).toInt
  | .int32 => ofInt (BitVec.ofNat 32 v).toInt

/-- The value is a NaN. -/
def FVal.isNan : FVal → Bool
  | .nan => true
  | _ => false

/-- The value is an infinity. -/
def FVal.isInf : FVal → Bool
  | .inf _ => true
  | _ => false

/-- The value is +0 or −0. -/
def FVal.isZero : FVal → Bool
  | .fin _ m _ => m == 0
  | _ => false

/-- The sign of the value. -/
def FVal.sign : FVal → Bool
  | .nan => false
  | .inf s => s
  | .fin s _ _ => s

/-- The value negated. -/
def FVal.negate : FVal → FVal
  | .nan => .nan
  | .inf s => .inf (!s)
  | .fin s m e => .fin (!s) m e

/-- The value without its sign. -/
def FVal.abs : FVal → FVal
  | .nan => .nan
  | .inf _ => .inf false
  | .fin _ m e => .fin false m e

/-- The value times 2^k, exactly. -/
def FVal.scale (v : FVal) (k : Int) : FVal :=
  match v with
  | .fin s m e => .fin s m (e + k)
  | w => w

/-- The value is finite. -/
def FVal.isFin : FVal → Bool
  | .fin _ _ _ => true
  | _ => false

/-! Rounding (02 R43 to R48, R55) -/

/-- `m * 2^e` rounded to a multiple of `2^u`: the multiple. `word0` is the element's draw, used under SR only (02 R55). -/
def roundUnit (rm : Nat) (neg : Bool) (m : Nat) (e u : Int) (word0 : Nat) : Nat :=
  if u ≤ e then m * 2 ^ (e - u).toNat
  else
    let sh := (u - e).toNat
    let q := m / 2 ^ sh
    let r := m % 2 ^ sh
    let up : Bool :=
      if r = 0 then false
      else match rm with
        | 0 => decide (2 ^ sh < 2 * r) || (decide (2 ^ sh = 2 * r) && q % 2 == 1)
        | 1 => false
        | 2 => neg
        | 3 => !neg
        | 4 => decide (2 ^ sh ≤ 2 * r)
        | _ => decide (word0 < r * 2 ^ 32 / 2 ^ sh)
    if up then q + 1 else q

/-- The result of a rounding: the bit pattern and what happened. -/
structure Rounded where
  bits : Nat
  /-- The rounded magnitude exceeded the largest finite value. -/
  ovf : Bool := false
  /-- The SAT flag of 02 Table 2.6. -/
  sat : Bool := false
  /-- The NAN_LOST flag of 02 Table 2.6. -/
  nanLost : Bool := false
deriving DecidableEq, Repr

/-- The canonical NaN pattern (02 R37); E4M3's is 0x7F. -/
def canonNan (f : FFmt) : Nat :=
  match f.special with
  | .ieee => (2 ^ f.eb - 1) * 2 ^ f.mb + 2 ^ (f.mb - 1)
  | _ => 2 ^ (f.eb + f.mb) - 1

/-- The magnitude pattern of the largest finite value (02 Table 2.1). -/
def maxMag (f : FFmt) : Nat :=
  match f.special with
  | .ieee => (2 ^ f.eb - 1) * 2 ^ f.mb - 1
  | .onlyNan => 2 ^ (f.eb + f.mb) - 2
  | .none => 2 ^ (f.eb + f.mb) - 1

/-- The sign bit in place. -/
def signBit (f : FFmt) (neg : Bool) : Nat := if neg then 2 ^ (f.eb + f.mb) else 0

/-- The infinity of a format that has one. -/
def infBits (f : FFmt) (neg : Bool) : Nat := signBit f neg + (2 ^ f.eb - 1) * 2 ^ f.mb

/-- The result of an overflow (02 Table 2.4). -/
def overflowTo (f : FFmt) (rm : Nat) (sat neg : Bool) : Rounded :=
  let toMax : Rounded := { bits := signBit f neg + maxMag f, ovf := true, sat := true }
  let toInf : Rounded :=
    { bits := match f.special with
        | .ieee => infBits f neg
        | _ => canonNan f
      ovf := true }
  match f.special with
  | .none => toMax
  | _ =>
    if sat then toMax
    else match rm with
      | 1 => toMax
      | 2 => if neg then toInf else toMax
      | 3 => if neg then toMax else toInf
      | _ => toInf

/-- The magnitude pattern of `q * 2^u` after a rounding to that unit. -/
def packMag (f : FFmt) (q : Nat) (u : Int) : Nat :=
  if q < 2 ^ f.mb then q
  else (u + f.mb + f.bias).toNat * 2 ^ f.mb + (q - 2 ^ f.mb)

/-- A value rounded once to a floating-point format (02 R44, R46, R47). -/
def roundF (f : FFmt) (rm : Nat) (sat : Bool) (word0 : Nat) (v : FVal) : Rounded :=
  match v with
  | .nan =>
    match f.special with
    | .none => { bits := 0, nanLost := true }
    | _ => { bits := canonNan f }
  | .inf s =>
    match f.special with
    | .none => { bits := signBit f s + maxMag f, sat := true }
    | .onlyNan => if sat then { bits := signBit f s + maxMag f, sat := true } else { bits := canonNan f }
    | .ieee => if sat then { bits := signBit f s + maxMag f, sat := true } else { bits := infBits f s }
  | .fin s m e =>
    if m = 0 then { bits := signBit f s }
    else
      let top := e + Nat.log2 m
      let u := max (top - f.mb) (1 - (f.bias : Int) - f.mb)
      let mag := packMag f (roundUnit rm s m e u word0) u
      if maxMag f < mag then overflowTo f rm sat s else { bits := signBit f s + mag }

/-- A value rounded to an integer and saturated to a signed range of `n` bits (02 R48, 06 R166). -/
def roundI (n : Nat) (rm : Nat) (word0 : Nat) (v : FVal) : Rounded :=
  let lim : Nat := 2 ^ (n - 1)
  let satTo (s : Bool) : Rounded := { bits := if s then lim else lim - 1, ovf := true, sat := true }
  match v with
  | .nan => { bits := 0, nanLost := true }
  | .inf s => satTo s
  | .fin s m e =>
    let q := roundUnit rm s m e 0 word0
    if s then (if lim < q then satTo true else { bits := (2 ^ n - q) % 2 ^ n })
    else (if lim ≤ q then satTo false else { bits := q })

/-- A floating-point format represents every value of another, so that a conversion to it is exact (02 R45). -/
def FFmt.holds (dst src : FFmt) : Bool := decide (src.eb ≤ dst.eb) && decide (src.mb ≤ dst.mb)

/-- The SAT control that a conversion between two formats obeys: an exact conversion sets no flag, so it keeps an infinity
whatever the control says (02 R45 over Table 2.5; DEDUCED, assumption 89). -/
def convSat (dst src : Fmt) (sat : Bool) : Bool :=
  match dst, src with
  | .flt d, .flt s => sat && !d.holds s
  | _, _ => sat

/-- An FP32 pattern with a NaN made canonical (02 R37). -/
def canon32 (b : Nat) : Nat := if (decodeF fp32F b).isNan then canonNan fp32F else b

/-- A value converted to a format (02 R45 to R48). -/
def roundV (f : Fmt) (rm : Nat) (sat : Bool) (word0 : Nat) (v : FVal) : Rounded :=
  match f with
  | .flt g => roundF g rm sat word0 v
  | .int8 => roundI 8 rm word0 v
  | .int32 => roundI 32 rm word0 v

/-! Exact arithmetic on decoded values (02 R44, 06 R161) -/

/-- The signed mantissa of a finite value at exponent `k ≤ e`. -/
def alignTo (s : Bool) (m : Nat) (e k : Int) : Int :=
  let n : Int := (m * 2 ^ (e - k).toNat : Nat)
  if s then -n else n

/-- An exact sum and whether a NaN arose from operands none of which was NaN. A zero sum of operands of opposite sign is
−0 under RDN and +0 otherwise (06 R161). -/
def addV (rm : Nat) (a b : FVal) : FVal × Bool :=
  match a, b with
  | .nan, _ => (.nan, false)
  | _, .nan => (.nan, false)
  | .inf s, .inf t => if s = t then (.inf s, false) else (.nan, true)
  | .inf s, .fin _ _ _ => (.inf s, false)
  | .fin _ _ _, .inf t => (.inf t, false)
  | .fin s m e, .fin t n g =>
    let k := min e g
    let z := alignTo s m e k + alignTo t n g k
    if z = 0 then
      (if s = t then .fin s 0 0 else .fin (rm == 2) 0 0, false)
    else (.fin (decide (z < 0)) z.natAbs k, false)

/-- An exact product; the sign of a zero product is the exclusive or of the operand signs (06 R161). -/
def mulV (a b : FVal) : FVal × Bool :=
  match a, b with
  | .nan, _ => (.nan, false)
  | _, .nan => (.nan, false)
  | .inf s, .inf t => (.inf (s != t), false)
  | .inf s, .fin t n _ => if n = 0 then (.nan, true) else (.inf (s != t), false)
  | .fin s m _, .inf t => if m = 0 then (.nan, true) else (.inf (s != t), false)
  | .fin s m e, .fin t n g => (.fin (s != t) (m * n) (e + g), false)

/-- An exact `a * b + c` (06 R162). -/
def fmaV (rm : Nat) (a b c : FVal) : FVal × Bool :=
  let p := mulV a b
  let r := addV rm p.1 c
  (r.1, (p.2 && !c.isNan) || r.2)

/-- A quotient carried to `p` significant bits and a sticky bit, which rounds as the exact quotient does under RNE. -/
def divV (p : Nat) (a b : FVal) : FVal × Bool :=
  match a, b with
  | .nan, _ => (.nan, false)
  | _, .nan => (.nan, false)
  | .inf _, .inf _ => (.nan, true)
  | .inf s, .fin t _ _ => (.inf (s != t), false)
  | .fin s _ _, .inf t => (.fin (s != t) 0 0, false)
  | .fin s m e, .fin t n g =>
    if n = 0 then (if m = 0 then (.nan, true) else (.inf (s != t), false))
    else if m = 0 then (.fin (s != t) 0 0, false)
    else
      let k := p + 3 + Nat.log2 n
      let q := m * 2 ^ k / n
      let r := m * 2 ^ k % n
      (.fin (s != t) (2 * q + (if r = 0 then 0 else 1)) (e - g - k - 1), false)

/-- The integer square root by bits from `2^i` down. -/
def isqrtFrom (n : Nat) : Nat → Nat → Nat
  | 0, acc => acc
  | i + 1, acc =>
    let c := acc + 2 ^ i
    isqrtFrom n i (if c * c ≤ n then c else acc)

/-- The integer square root. -/
def isqrt (n : Nat) : Nat := isqrtFrom n (Nat.log2 n / 2 + 1) 0

/-- A square root carried to `p` significant bits and a sticky bit, which rounds as the exact root does under RNE. -/
def sqrtV (p : Nat) (a : FVal) : FVal × Bool :=
  match a with
  | .nan => (.nan, false)
  | .inf s => if s then (.nan, true) else (.inf false, false)
  | .fin s m e =>
    if m = 0 then (.fin s 0 0, false)
    else if s then (.nan, true)
    else
      let k : Nat := 2 * p + 6 + (if e % 2 = 0 then 0 else 1)
      let n := m * 2 ^ k
      let q := isqrt n
      (.fin false (2 * q + (if q * q = n then 0 else 1)) ((e - k) / 2 - 1), false)

/-- Comparison of two values that are not NaN: less, with −0 equal to +0. -/
def ltV (a b : FVal) : Bool :=
  match a, b with
  | .nan, _ => false
  | _, .nan => false
  | .inf s, .inf t => s && !t
  | .inf s, .fin _ _ _ => s
  | .fin _ _ _, .inf t => !t
  | .fin s m e, .fin t n g =>
    let k := min e g
    decide (alignTo s m e k < alignTo t n g k)

/-- Equality of two values, with −0 equal to +0; a NaN equals nothing (06 R162). -/
def eqV (a b : FVal) : Bool :=
  !a.isNan && !b.isNan && !ltV a b && !ltV b a

/-- Whether `a` is the lesser for MIN and MAX, which treat −0 as less than +0 (06 R161). -/
def minLess (a b : FVal) : Bool :=
  ltV a b || (eqV a b && a.sign && !b.sign)

/-! FP32 and FP64 operations on bit patterns: result, overflow from finite operands, NaN from non-NaN operands -/

/-- The outcome of one arithmetic operation on bit patterns. -/
structure ArithOut where
  bits : Nat
  ovf : Bool := false
  invalid : Bool := false
deriving DecidableEq, Repr

/-- An exact result rounded once to `f` with SAT = 0 (06 R160, R161). -/
def finishA (f : FFmt) (rm word0 : Nat) (r : FVal × Bool) : ArithOut :=
  let q := roundF f rm false word0 r.1
  { bits := q.bits, ovf := q.ovf, invalid := r.2 }

def addF (f : FFmt) (rm a b : Nat) : ArithOut := finishA f rm 0 (addV rm (decodeF f a) (decodeF f b))
def mulF (f : FFmt) (rm a b : Nat) : ArithOut := finishA f rm 0 (mulV (decodeF f a) (decodeF f b))
def fmaF (f : FFmt) (rm a b c : Nat) : ArithOut :=
  finishA f rm 0 (fmaV rm (decodeF f a) (decodeF f b) (decodeF f c))
def divF (f : FFmt) (a b : Nat) : ArithOut := finishA f 0 0 (divV (f.mb + 2) (decodeF f a) (decodeF f b))
def sqrtF (f : FFmt) (a : Nat) : ArithOut := finishA f 0 0 (sqrtV (f.mb + 2) (decodeF f a))
/-- Subtraction is an add with the second operand negated (06 R160). -/
def subF (f : FFmt) (rm a b : Nat) : ArithOut := finishA f rm 0 (addV rm (decodeF f a) (decodeF f b).negate)

/-- Conversion of an unsigned integer to FP32 with RNE (05 R142). -/
def fp32OfNat (n : Nat) : Nat := (roundF fp32F 0 false 0 (.fin false n 0)).bits

/-- An FP32 pattern as an FP64 pattern, exactly. -/
def fp64Of32 (a : Nat) : Nat := (roundF fp64F 0 false 0 (decodeF fp32F a)).bits

/-- An FP64 pattern rounded to FP32 with RNE. -/
def fp32Of64 (a : Nat) : Rounded := roundF fp32F 0 false 0 (decodeF fp64F a)

/-- The integer below a value, saturated to a range (06 R172). -/
def floorClamp (v : FVal) (lo hi : Int) : Int :=
  match v with
  | .nan => lo
  | .inf s => if s then lo else hi
  | .fin s m e =>
    let q : Nat := roundUnit 2 s m e 0 0
    let i : Int := if s then -(q : Int) else q
    max lo (min hi i)

/-! MX blocks (02 R40 to R50) -/

/-- The value of an MX element: its element value times 2^(SCALE − 127), MXINT8 elements weighing 2^−6; a scale of 0xFF
decodes every element as NaN (02 R40, R42, Table 2.2). -/
def decodeMx (code v scale : Nat) : FVal :=
  if scale = 255 then .nan
  else
    let base : FVal :=
      match fmtOfCode code with
      | some .int8 => (decodeV .int8 v).scale (-6)
      | some f => decodeV f v
      | none => .nan
    base.scale ((scale : Int) - 127)

/-- The exponent of the largest magnitude of a block of finite values. -/
def maxExp (l : List FVal) : Option Int :=
  l.foldl (fun acc v =>
    match v with
    | .fin _ m e =>
      if m = 0 then acc
      else
        let t := e + Nat.log2 m
        match acc with
        | none => some t
        | some a => some (max a t)
    | _ => acc) none

/-- An encoded MX block: its scale, its element patterns, and the flags of 02 Table 2.6. -/
structure MxBlock where
  scale : Nat
  elems : List Nat
  sat : Bool := false
  blockNan : Bool := false
deriving DecidableEq, Repr

/-- 32 values encoded as one MX block (02 R49); `words` are the draws of the elements, used under SR. -/
def encodeMx (code rm : Nat) (words : List Nat) (xs : List FVal) : MxBlock :=
  if xs.any (fun v => !v.isFin) then
    { scale := 255, elems := xs.map (fun _ => 0), blockNan := true }
  else
    match fmtOfCode code, maxExp xs with
    | some f, some e =>
      let se : Int := max (-127) (min 127 (e - emaxElem code))
      let conv (v : FVal) (w : Nat) : Rounded :=
        match f with
        | .int8 => roundI 8 rm w ((v.scale (-se)).scale 6)
        | g => roundV g rm true w (v.scale (-se))
      let rs := List.zipWith conv xs words
      { scale := (se + 127).toNat, elems := rs.map (fun r => r.bits), sat := rs.any (fun r => r.sat) }
    | some (.flt f), none => { scale := 0, elems := xs.map (fun v => signBit f v.sign) }
    | _, _ => { scale := 0, elems := xs.map (fun _ => 0) }

/-! The counter generator (02 R52 to R57) -/

def genG : BitVec 64 := 0x9E3779B97F4A7C15#64
def genC1 : BitVec 64 := 0xBF58476D1CE4E5B9#64
def genC2 : BitVec 64 := 0x94D049BB133111EB#64

/-- The mixing function (02 R53). -/
def genMix (z : BitVec 64) : BitVec 64 :=
  let a := (z ^^^ (z >>> 30)) * genC1
  let b := (a ^^^ (a >>> 27)) * genC2
  b ^^^ (b >>> 31)

/-- The key of a draw (02 R53). -/
def genKey (seed tensorId pass purpose step : Nat) : BitVec 64 :=
  let salt : BitVec 64 := BitVec.ofNat 64 ((tensorId % 2 ^ 32) * 2 ^ 32 + (pass % 2 ^ 24) * 256 + purpose % 256)
  let k := genMix (BitVec.ofNat 64 seed ^^^ genG)
  let k := genMix (k ^^^ salt)
  genMix (k ^^^ BitVec.ofNat 64 step)

/-- The draw of an index (02 R53). -/
def genDraw (k : BitVec 64) (index : Nat) : BitVec 64 :=
  genMix (k + (BitVec.ofNat 64 index + 1) * genG)

/-- word0 of a draw (02 R53). -/
def word0 (seed tensorId pass purpose step index : Nat) : Nat :=
  (genDraw (genKey seed tensorId pass purpose step) index >>> 32).toNat

/-- The keep decision of a mask operation (02 R57). -/
def keepMask (w t : Nat) : Bool := decide (t ≤ w)

/-- The uniform value of a draw as FP32, `(word0 >> 8) * 2^-24`, exact (02 R57). -/
def uniformV (w : Nat) : FVal := .fin false (w / 256) (-24)

end Sys2Proof.Machine
end

