-- ==== Sys2Proof/Machine/Types.lean ====
section
/-!
DEFINITION. The parts of the machine's state as plain data, one structure for each unit of the package; the whole is
`Chip` in Machine/Chip.lean.
-/

namespace Sys2Proof.Machine

/-! Clock islands (01 R24 to R29) -/

/-- One clock island: its 64-bit counter is `base` at the moment `since` of model time and runs at `mhz` while the
island has power (R26). -/
structure Island where
  base : Nat
  since : Nat
  mhz : Nat
  restarts : Nat
  on : Bool
  stretched : Bool
deriving DecidableEq, Repr

/-- The power of one supply group (20 Table 20.1) as its islands feel it: when power last came, when it went, and the
restarts since the last cold reset. -/
structure GroupClk where
  born : Nat
  stop : Option Nat
  restarts : Nat
  used : Bool
deriving DecidableEq, Repr

/-- The island counters. `now` is the model's own clock in steps of 40 ns (assumption 7); an island that is not listed
runs at its nominal rate since its supply group got power. -/
structure Clocks where
  now : Nat
  isl : Tab Island
  grp : Tab GroupClk
deriving DecidableEq, Repr

/-! Events (18 R479, 00 R545, 20 R510, 21 R519) -/

/-- The events of the package that the specification names. -/
inductive Ev where
  | laneRepaired | linkDegraded | linkLost
  | addrUnbacked | memCe | memUe | memLinkErr | rowSuspect | scrubBehind | raaThrottle | ddrPopulation
  | cacheUe | snoopTimeout | corePoison
  | pcieUnreg | pcieXlate | pcieMsiDenied | pcieConfig
  | ledgeAhead | ledgeOverrun | ledgeHwFault
  | bucketRefused | bucketLate | bucketWriteFailed
  | portDown | portDisabled | haulMalformed | haulStale | haulConnLost | haulWindow | haulDup | creditOverrun | rawDropped
  | doorbellBad | doorbellAhead | doorbellDenied | ringOverrun
  | commanderLost | driverLost | handover | fpReset | fpFailed | pcopyWrite | imageFallback | ctxFault
  | cxhRefused | domainSlotBad | roleFallback
  | tileRepaired | repairFailed | dieDegraded | correlatedFeed | partnerStale | riskChanged
  | snapHoldExpired | snapAbandoned | shardStale
  | envUnmet | envPeriodDropped | protectTrip | railFail | configReport
  | mgmtRefused | cxlTrain | fatal | signingFailed
deriving DecidableEq, Repr

/-- The number that stands for an event where `Config.eventCode` is applied. -/
def Ev.index (e : Ev) : Nat := e.ctorIdx

/-- One event entry: its code, the island that logged it with its restart count and counter (R29), the fields its rule
names, and the number of events that R545 suppressed before it. -/
structure Event where
  code : Ev
  src : Nat
  restarts : Nat
  count : Nat
  args : List Nat
  suppressed : Nat
deriving DecidableEq, Repr

/-- One key of windowed logging (R545): the window of its last entry and the events suppressed since. -/
structure LogWin where
  code : Ev
  key : List Nat
  window : Nat
  suppressed : Nat
deriving DecidableEq, Repr

/-- One entry of the configuration report log (20 R510, Table 20.9). -/
structure CfgEntry where
  address : Nat
  written : Nat
  applied : Nat
  counter : Nat
  restarts : Nat
  reason : Nat
  lsb : Nat
  width : Nat
  seq : Nat
  writer : Nat
deriving DecidableEq, Repr

/-- Event log, configuration report log and event flags. `held` is the management controller's list of the latest 1,024
entries, newest first. -/
structure LogState where
  held : List Event
  wins : List LogWin
  logBase : Nat
  logEn : Bool
  logLog2 : Nat
  tail : Nat
  head : Nat
  lost : Nat
  lostReported : Nat
  cfg : List CfgEntry
  cfgNext : Nat
  gevent : Nat
  geventEn : Nat
  gevcnt : Tab Nat
  gintCore : Nat
  gintId : Nat
  period : Nat
deriving DecidableEq, Repr

/-! Package memory, homes and snoop filters (08, 09) -/

/-- The state of the owner that a filter entry records (09 R227). -/
inductive OwnSt where
  | m | e | o
deriving DecidableEq, Repr

/-- One snoop-filter entry (09 R228, R233): the owner in M, E or O, the holders in S, the owner's bytes where they may
differ from memory (an empty list: they equal memory), its poison, the order of allocation, the holders whose copies are good although
memory's line was found uncorrectable after they had read it (R232), and whether the owner was offered the line by a write hint (R238). -/
structure DirEnt where
  owner : Option Nat
  st : OwnSt
  sharers : List Nat
  data : List Byte
  poison : Bool
  order : Nat
  clean : List Nat
  offered : Bool
deriving DecidableEq, Repr

/-- The entry of a line that one cache holds, with no sharers. -/
def DirEnt.sole (h : Nat) (st : OwnSt) (data : List Byte) (poison : Bool) : DirEnt :=
  { owner := some h, st := st, sharers := [], data := data, poison := poison, order := 0, clean := [], offered := false }

/-- The requests of Table 9.3; `posted`: a write of the power controller's own (log entries, telemetry), which ends as soon as its turn has come; `held`:
the place of a command that waits with all its accesses (assumption 103). -/
inductive TxnKind where
  | readShared | readUnique | upgrade | writeBack | evict | readOnce | writeFull | writePartial | ledgeOp | posted | held
deriving DecidableEq, Repr

/-- A request at a home: the cache (holder index of 09 R233) or the agent (SRCID) that sends it, the bytes it writes with
their offsets, its poison and its write hint, what the owner answers when it is snooped (`none`: what the home has on
record), what the channel's check finds, the operation of a LedgeOp, the core's access behind it, and the holders that it snooped. -/
structure Txn where
  kind : TxnKind
  agent : Nat
  data : List (Nat × Byte)
  poison : Bool
  hint : Nat
  own : Option LineCopy
  err : MemErr
  op : Option LineOp
  use : Option CoreUse
  snooped : List Nat
deriving DecidableEq, Repr

/-- Package memory: bytes and poisoned lines, snoop-filter entries by line, transactions in progress and waiting by
line, the DDR5 population, the counters of dropped hints and back-invalidations by home, and the lines that cores hold load
reservations on (09 R234; a core's own instructions, which set them, are no commands of this block: assumption 35). The model's own: the
number of the next answer of an owner that has written its line (assumption 104), the lines at which the command in progress has to wait,
and the number of the waiting command that is tried again (assumption 103). -/
structure Mem where
  bytes : Memory
  poison : List Nat
  dir : Tab DirEnt
  dirSeq : Nat
  busy : Tab Txn
  waitq : Tab (List Txn)
  ddrMods : Nat
  ddrModGB : Nat
  hintDropped : Tab Nat
  sfBackinv : Tab Nat
  resv : Tab Nat
  serial : Nat
  met : List Nat
  retry : Option Nat
deriving DecidableEq, Repr

/-! Interrupt files (12 R326) and host cores (18 R461) -/

/-- The state of a host core (18 Table 18.1); `held`: in reset, as self-test failed it (20 Table 20.4). -/
inductive CoreSt where
  | active | gated | off | held
deriving DecidableEq, Repr

/-- Pending interrupt identities by file (index 8 × core + file), the state of each core, its pending timer interrupts
(bit 0 stimecmp, bit 1 mtimecmp), and the MSIs dropped while it was OFF (18 R463). -/
structure Irq where
  pending : Tab (List Nat)
  core : Tab CoreSt
  timer : Tab Nat
  dropped : Tab Nat
deriving DecidableEq, Repr

/-- A host core's own state (12 R312): one hart of the RVA23S64 profile. Its general, floating-point and vector registers (256 bits), its
program counter, privilege mode (0 user, 1 supervisor, 3 machine) and virtualisation mode, its control and status registers by number
(satp, PMP, counters, stimecmp and the rest), mtimecmp, and the lines in its L1 instruction and data caches (12 R317). -/
structure Hart where
  x : Tab Nat
  f : Tab Nat
  v : Tab Nat
  pc : Nat
  priv : Nat
  virt : Bool
  csr : Tab Nat
  mtimecmp : Nat
  l1i : List Nat
  l1d : List Nat
deriving DecidableEq, Repr

/-- The host cores that differ from a core at reset, by core number. -/
abbrev Harts := Tab Hart

/-! Synchronisation objects (03 R85 to R89) -/

/-- Who waits on an object: a tile, or a firmware wait by its key (the unique number of its descriptor). -/
inductive Waiter where
  | tile (t : Nat)
  | fw (key : Nat)
deriving DecidableEq, Repr

/-- A registered wait (R88). -/
structure SoWait where
  so : Nat
  target : Nat
  who : Waiter
deriving DecidableEq, Repr

/-- The synchronisation objects: counters, owners (64: owned by no context), registered waits in order of arrival, the
firmware waits whose wake is committed with the satisfying value, the count of refused Haul signals, and the last action
identifier that each home applied for each firmware processor (15 R416). -/
structure SoState where
  value : Tab Nat
  owner : Tab Nat
  waits : List SoWait
  woken : Tab Nat
  haulDropped : Nat
  lastAction : Tab Nat
deriving DecidableEq, Repr

/-! Address translation (03 R82 to R84, R546) -/

/-- A translation held by a TLB: context, first virtual page, page size in bytes, physical base, permissions. -/
structure TlbEnt where
  ctx : Nat
  va : Nat
  size : Nat
  pa : Nat
  flags : Nat
deriving DecidableEq, Repr

/-- The TLBs of the package, oldest entry first: tiles 0 to 199 (64 entries each), 200 + die (4,096, shared by a die's
movers), 210 + front-end (1,024), 230 the root complex's IOTLB (2,048), 231 FD (8,192). -/
structure Mmu where
  tlb : Tab (List TlbEnt)
deriving DecidableEq, Repr

/-! Tiles (03 to 07) -/

/-- The state of a physical tile (03 Table 3.2). -/
inductive TileSt where
  | service | maintenance | parked | fenced
deriving DecidableEq, Repr

/-- A decoded tensor descriptor (03 Table 3.5); strides and scale strides are indexed by dimension, index 0 unused. -/
structure TDesc where
  off : Nat
  base : Nat
  tid : Nat
  fmt : Nat
  rank : Nat
  mx : Bool
  tmem : Bool
  layout : Nat
  ext : List Nat
  str : List Int
  sbase : Nat
  sstr : List Int
  raw : List Byte
deriving DecidableEq, Repr

/-- What holds the issue of a tile's controller (03 R68). -/
inductive Blocked where
  | sowait (rd so issued timeout : Nat)
  | mwait
  | await
  | vwait
deriving DecidableEq, Repr

/-- A signal held in the tile (07 R186): its place in issue order, object, operand, and SET or SIGNAL. -/
structure HeldSig where
  serial : Nat
  so : Nat
  value : Nat
  isSet : Bool
  pc : Nat
deriving DecidableEq, Repr

/-- An outstanding mover operation (03 R80): its token, its place in issue order, its opcode, the operand registers'
values, the descriptors read at issue, the object it signals with its increment, and whether it has started. -/
structure MoverOp where
  token : Nat
  serial : Nat
  op : Nat
  pc : Nat
  rd : Nat
  rs : Nat
  rx : Nat
  src : Option TDesc
  dst : Option TDesc
  so : Option Nat
  sval : Nat
  started : Bool
deriving DecidableEq, Repr

/-- An operand of a vector instruction in its memory forms. -/
inductive VOpnd where
  | none
  | reg (v : Nat)
  | scalar (x : Nat)
  | tensor (d : TDesc)
  | region (row bank rows : Nat)
  | flat (off len : Nat)
deriving DecidableEq, Repr

/-- An entry of the vector queue (06 R150): the instruction (or a WSR in queue order), the values of its X operands and
the descriptors read at issue, and whether it has executed. -/
structure VqEnt where
  serial : Nat
  pc : Nat
  w : Nat
  wsr : Option (Nat × Nat)
  xs : List Nat
  opnds : List VOpnd
  done : Bool
  ftOld : Option Nat
deriving DecidableEq, Repr

/-- A function table (06 R171 to R175): its banks, its generation, whether the back bank is closed, whether a flip is
requested, and the writes held while a running instruction still reads the back bank. -/
structure FTab where
  front : Memory
  back : Memory
  gen : Nat
  closed : Bool
  asked : Bool
  held : List (Nat × List Byte)
deriving DecidableEq, Repr

/-- The vector engine (06): registers keyed register × 128 + lane, mask registers as 128-bit numbers, state registers
of Table 6.1, queue and function tables. -/
structure Vec where
  v : Tab Nat
  m : Tab Nat
  vl : Nat
  vstatus : Nat
  vtid : Nat
  vpass : Nat
  vstep : Nat
  vibase : Nat
  vfill : Nat
  q : List VqEnt
  ft : Tab FTab
deriving DecidableEq, Repr

/-- The accumulators (05): columns keyed (bank × 512 + row) × 128 + column, poisoned granules keyed
(bank × 512 + row) × 8 + granule, chunk counts keyed bank × 512 + row, ASTATUS and the key registers of Table 5.2. -/
structure Acc where
  col : Tab Nat
  poison : List Nat
  count : Tab Nat
  astatus : Nat
  atid : Nat
  astep : Nat
  abase0 : Nat
  abase1 : Nat
  astride0 : Nat
  astride1 : Nat
deriving DecidableEq, Repr

/-- The kinds of array-queue entries (04 R96). -/
inductive ArrKind where
  | load | pass | mvmul
deriving DecidableEq, Repr

/-- An array-queue entry: its place in issue order, instruction and operands (07 R192), descriptors read at issue, the
step it issued at, whether its wavefront or stream has a start and where (04 R98), the block a pass multiplies by (the
serial of the load that brought it), the rows that may still enter and those written, and what it has read so far:
image or region bytes keyed line × 256 + byte, scale bytes keyed line × 256 + byte. -/
structure ArrEnt where
  kind : ArrKind
  serial : Nat
  pc : Nat
  instr : Nat
  opa : Nat
  opb : Nat
  dA : TDesc
  dW : Option TDesc
  row0 : Nat
  m : Nat
  bank : Nat
  arow : Nat
  n : Nat
  acc : Bool
  compat : Bool
  isNew : Bool
  issue : Nat
  started : Bool
  start : Nat
  blk : Nat
  limit : Nat
  written : Nat
  lines : Memory
  scales : Memory
deriving DecidableEq, Repr

/-- A stationary block held by a plane: the MLOAD that named it, its image descriptor and what the load latched (04 R101,
R105). -/
structure Block where
  pc : Nat
  img : Nat
  desc : TDesc
  lines : Memory
  scales : Memory
deriving DecidableEq, Repr

/-- The matrix array and matrix-vector path (04): the array queue, the count of advancing steps and the hold steps
already taken at this one, the blocks by serial, the block of the active plane, the block that the next pass without NEW
will use, the pending load and whether a pass has claimed it, that load once it has latched its last value and left the
queue, the running reload of the active plane (R110, R114), the previous load and pass starts (R99), the largest completion
step, the accumulator rows that a fault has discarded (bank, first row, rows, columns; R115), the bank and the tc for which
rows of an MVMUL still take its array port (R123), whether the array has stopped and whether it drains for a pre-emption,
and AFAULT. -/
structure Arr where
  q : List ArrEnt
  step : Nat
  held : Nat
  blocks : Tab Block
  active : Option Nat
  use : Option Nat
  pending : Option Nat
  claimed : Bool
  latched : Option ArrEnt
  reload : Option ArrEnt
  lastLoad : Option Nat
  lastE : Option Nat
  lastM : Nat
  lastLen : Nat
  lastDone : Nat
  marks : List (Nat × Nat × Nat × Nat)
  port : Option (Nat × Nat)
  stopped : Bool
  drain : Bool
  afault : Nat
deriving DecidableEq, Repr

/-- How a work item stands on a tile; one that an exception ends drains first (03 R69 steps 2 to 5). -/
inductive ItemSt where
  | none
  | running
  | halting
  | ending (status detail : Nat)
  | ended (status : Nat)
  | saving
  | saved
deriving DecidableEq, Repr

/-- A physical tile (03 R60 to R72), with what its fence record adds (17 R444): SENT; whether its group is clock-gated
(18 R462); and whether a pre-emption request waits for the end of a pause (04 R111). -/
structure Tile where
  st : TileSt
  failed : Bool
  spare : Bool
  listed : Bool
  mvpFenced : Bool
  fences : Nat
  powered : Bool
  paused : Bool
  x : Tab Nat
  pc : Nat
  imem : Memory
  mem : Memory
  poison : List Nat
  ctx : Nat
  item : ItemSt
  work : Nat
  blocked : Option Blocked
  pend : Option (Nat × Nat)
  tcause : Nat
  tepc : Nat
  tval : Nat
  serial : Nat
  mover : List MoverOp
  held : List HeldSig
  cancelFrom : Option Nat
  vec : Vec
  acc : Acc
  arr : Arr
  hold : Nat
  sent : Bool
  gated : Bool
  preAsk : Bool
deriving DecidableEq, Repr

/-- The physical tiles; one that is not listed is as reset leaves it. -/
abbrev TileTab := Tab Tile

/-- The tile map (01 R21, R22, 03 R62): the physical tile of each logical tile (200: ABSENT), the generations, and the
context resident on each physical tile (15 R402). -/
structure TMap where
  phys : Tab Nat
  gen : Tab Nat
  resident : Tab Nat
deriving DecidableEq, Repr

/-! Commanders and rings (14) -/

/-- The state of a commander entry; BUSY is shown while a registration or deregistration is under way (14 R364, R367). -/
inductive CmSt where
  | free | active | lost
deriving DecidableEq, Repr

/-- A commander entry: state, KEY, EPOCH, requester ID, the refusal code that STATUS shows (0: none), whether it was ever
ACTIVE, REG_ADDR, the heartbeat (15 R412: address, last COUNT, LIMIT, the dispatch count of the last change, failed reads
in succession), the dispatch count of its loss, whether it is deregistering or a
registration is undecided, its ignored doorbells (14 R387), the CQ of its
latest registration, and the requester ID of a registration under way. -/
structure Cmdr where
  st : CmSt
  key : Nat
  epoch : Nat
  reqid : Nat
  refusal : Nat
  ever : Bool
  regAddr : Nat
  hbAddr : Nat
  hbCount : Nat
  hbLimit : Nat
  hbSince : Nat
  hbFails : Nat
  lostAt : Nat
  dereg : Bool
  asking : Bool
  ignored : Nat
  cq0 : Nat
  asker : Nat
deriving DecidableEq, Repr

/-- The state of a ring (14 R369). -/
inductive RingSt where
  | free | active | lost
deriving DecidableEq, Repr

/-- A submission ring (14 R369, R376) with its period (15 R410): the dispatch count at which the period began and the
descriptors consumed in it; `miss` holds the dispatch count and the SEQ of the first mismatch of the slot being read again,
`ahead` is set while the ring waits for a doorbell after DOORBELL_AHEAD, `unbinding` is the RING_UNBIND that waits. -/
structure Sq where
  st : RingSt
  cm : Nat
  log2 : Nat
  base : Nat
  cq : Nat
  prio : Nat
  tail : Nat
  head : Nat
  miss : Option (Nat × Nat)
  ahead : Bool
  unbinding : Option Nat
  perSince : Nat
  perUsed : Nat
deriving DecidableEq, Repr

/-- A completion ring (14 R380, R383, R384). -/
structure Cq where
  st : RingSt
  cm : Nat
  log2 : Nat
  base : Nat
  msi : Nat
  hint : Nat
  int : Bool
  recv : Bool
  w : Nat
  head : Nat
  armed : Bool
deriving DecidableEq, Repr

/-- How a consumed descriptor stands. -/
inductive DescSt where
  /-- Consumed and not started (14 R378). -/
  | fetched
  /-- A RUN that waits for a tile (15 R406). -/
  | ready
  /-- Started, its effect still to end. -/
  | started
deriving DecidableEq, Repr

/-- A consumed descriptor: a unique key, its ring, the commander entry and epoch it was consumed under, the continuation
slots still to come and the first bad byte of those that came, its bytes and its inline data, its priority, the dispatch
count of its consumption, its deadline as a dispatch count, and scratch numbers of its operation in progress. -/
structure Desc where
  key : Nat
  sq : Nat
  cm : Nat
  epoch : Nat
  more : Nat
  contBad : Option Nat
  bytes : List Byte
  data : List Byte
  prio : Nat
  at_ : Nat
  deadline : Option Nat
  st : DescSt
  aux : List Nat
deriving DecidableEq, Repr

/-- A finished descriptor whose record is still to be written, or an event: the record's fields (14 Table 14.6), the
commander entry and epoch it belongs to, its CQ, and the object to signal afterwards with the context. -/
structure Fin_ where
  ev : Bool
  sq : Nat
  cq : Nat
  cm : Nat
  epoch : Nat
  tag : Nat
  op : Nat
  status : Nat
  ctxf : Nat
  detail : Nat
  src : Nat
  restarts : Nat
  count : Nat
  dso : Option (Nat × Nat)
  key : Nat
deriving DecidableEq, Repr

/-- A record in the completion log (14 R385). -/
structure LogRec where
  rcd : Fin_
  prior : Bool
deriving DecidableEq, Repr

/-- What a read or write of a remote commander's memory is for (14 R362, R365, R377, 15 R412): a payload slot of a message names the
transaction of the message's first slot, and the record that follows the payload with its address and PHASE (14 R383). -/
inductive CxlUse where
  | block (cm : Nat)
  | slot (sq n : Nat)
  | heartbeat (cm : Nat)
  | record (r : LogRec)
  | done (key : Nat)
  | payload (first addr : Nat) (r : LogRec) (phase : Bool)
deriving DecidableEq, Repr

/-- An outstanding CXL.cache transaction to commander memory: number, commander, address, bytes written (none for a
read), and purpose. -/
structure CxlTxn where
  id : Nat
  cm : Nat
  addr : Nat
  data : Option (List Byte)
  use : CxlUse
deriving DecidableEq, Repr

/-- A downstream device of a manager in its domain slot (16 R422): its SLOT_ID strap and requester ID. -/
structure DomSlot where
  strap : Nat
  reqid : Nat
deriving DecidableEq, Repr

/-- The CXL port (14 R360, 16 R422, 21 Table 21.14). -/
structure Cxl where
  l0 : Bool
  rate : Nat
  width : Nat
  out : List CxlTxn
  next : Nat
  sent : List (List Nat)
  slots : Tab DomSlot
deriving DecidableEq, Repr

/-- A doorbell write: an SQ's (or a CQ's head), the ring, the offset in its page, the width in bytes, the value, and the
CXL.io requester when it came through BAR2. -/
structure Bell where
  isSq : Bool
  ring : Nat
  off : Nat
  width : Nat
  value : Nat
  req : Option Nat
deriving DecidableEq, Repr

/-- Commanders, rings, consumed descriptors and finished ones, the completion log, the events discarded by CQ (14 R385),
the records discarded by CM_RELEASE, and the doorbells and registrations that wait for firmware (20 R511). -/
structure Cm where
  ent : Tab Cmdr
  sq : Tab Sq
  cq : Tab Cq
  descs : List Desc
  fin : List Fin_
  log : List LogRec
  lostEvents : Tab Nat
  dropped : Nat
  nextKey : Nat
  latched : List Bell
  asks : List (Nat × Nat)
deriving DecidableEq, Repr

/-! Contexts and dispatch firmware (15) -/

/-- The state of a context (15 Table 15.3). -/
inductive CtxSt where
  | free | active | parked | ending
deriving DecidableEq, Repr

/-- A context (15 R399): the fields that CTX_CREATE records, the KEYs it is granted to, by commander entry the dispatch
count at which the GRACE of a loss ends (no limit under HANDOVER: not listed), and the generation of each logical tile when the context
last saved it (R402). -/
structure CtxEnt where
  st : CtxSt
  root : Nat
  seed : Nat
  save : Nat
  ftimg : Nat
  hint : Nat
  eventCq : Nat
  park : Bool
  grace : Nat
  grants : List Nat
  graceDue : Tab Nat
  saved : Tab Nat
deriving DecidableEq, Repr

/-- The contexts; CTX0 is always ACTIVE (15 R398). -/
abbrev CtxTab := Tab CtxEnt

/-- A firmware processor (15 R415 to R419): in service, held failed, the processor that serves its rings, the dispatch
counts of its latest watchdog expiries, and its latest action identifier. -/
structure Fp where
  service : Bool
  failed : Bool
  server : Nat
  expiries : List Nat
  action : Nat
deriving DecidableEq, Repr

/-- A SIGNAL or SET in the journal: the latest that a processor sent to a home (15 R416); every other journalled action is
carried out by the command that journals it. -/
structure JAct where
  fp : Nat
  so : Nat
  value : Nat
  isSet : Bool
  ident : Nat
deriving DecidableEq, Repr

/-- A work item (15 R405 to R407): the descriptor's key, context, logical tile and generation, entry, argument block,
image, priority, the dispatch count of its consumption and of its start, whether a pre-empted image of it is saved, the physical tile that it is
on (200: none), its commander entry, whether a switch or its images are under way, the status and DETAIL with which a
stopped item ends (R411), whether its RUN named a tile, SENT of a pre-empted item, and whether it restarts after a fence
(17 R446). -/
structure Work where
  key : Nat
  ctx : Nat
  tile : Nat
  gen : Nat
  entry : Nat
  args : Nat
  image : Nat
  imageLen : Nat
  prio : Nat
  at_ : Nat
  begun : Nat
  preempted : Bool
  phys : Nat
  cm : Nat
  switching : Bool
  drop : Option (Nat × Nat)
  named : Bool
  sent : Bool
  restart : Bool
deriving DecidableEq, Repr

/-- The dispatch mailbox (21 Table 21.4). -/
structure Mailbox where
  last : Nat
  result : Nat
  arg0 : Nat
  arg1 : Nat
  arg2 : Nat
deriving DecidableEq, Repr

/-- The dispatch complex and its firmware; `images` holds, by context × 192 + logical tile, the address and length of the latest
IMAGE (17 R446); `drops` counts DROPPED (18 Table 18.5). -/
structure Fw where
  running : Bool
  version : Nat
  digest : Nat
  pcopy : Option Nat
  fp : Tab Fp
  journal : List JAct
  mbox : Mailbox
  work : List Work
  images : Tab (Nat × Nat)
  drops : Nat
deriving DecidableEq, Repr

end Sys2Proof.Machine
end

