-- ==== Sys2Proof/Machine/Platform.lean ====
section
/-!
DEFINITION. The parts of the package's state outside tiles, memory and rings: supplies and self-test, die-to-die links and
paired captures.
-/

namespace Sys2Proof.Machine

/-! Supplies and self-test (20) -/

/-- The self-test report (20 Table 20.5). -/
structure Report where
  outcome : Nat
  phase : Nat
  code : Nat
  detail : Nat
  counter : Nat
  straps : Nat
  ddrRate : Nat
  goodTiles : Nat
  hbmOk : Nat
  ddrOk : Nat
  linkOk : Nat
  fpOk : Nat
  portsOk : Nat
  ledgeFenced : Nat
  coresFailed : Nat
  images : Nat
  deviceId : Nat
deriving DecidableEq, Repr

/-- Supplies, self-test and straps: AON_GOOD, the enabled groups and those whose PWR_GOOD stands (bit g), the step of
self-test under way (0: none, 7: passed, in service), whether the safe, talkative state holds, the reports, what the self-test under way
has found, the management count at which the latest group was enabled, the straps as
sampled, the applied role, the outputs THERM_ALERT_N and PKG_TRIP_N of 22 R540 with the dies above 105 °C, and the arrangement of each
PCIe controller (12 R320): 0 ×8, 1 2 × ×4, 2 joined as ×16, 3 its partner's, 4 disabled. -/
structure Boot where
  aon : Bool
  en : Nat
  good : Nat
  step : Nat
  safe : Bool
  report : Report
  prev : Report
  draft : Report
  enAt : Nat
  slotId : Nat
  feedId : Nat
  roleStrap : Bool
  manager : Bool
  thermAlert : Bool
  thermDies : List Nat
  pcie : List Nat
  tripOut : Bool
deriving DecidableEq, Repr

/-! Die-to-die links (01 R15 to R20) -/

/-- One direction of a lane group: whether a repair runs, the failing lanes with the spares that replace them, the lanes of
the running repair, and by lane the receiving counter's values at its latest attributed errors. -/
structure LinkGrp where
  down : Bool
  spares : List (Nat × Nat)
  repairing : List Nat
  errs : Tab (List Nat)
deriving DecidableEq, Repr

/-- The receiver of one direction of a link: the next sequence number it delivers, the flits that came early, and those
returned for replay. -/
structure LinkRx where
  next : Nat
  early : List Nat
  retry : List Nat
deriving DecidableEq, Repr

/-- The links: groups keyed (link × 2 + direction) × 5 + group, receivers keyed link × 2 + direction, and the withdrawn
groups, link × 5 + group. -/
structure Links where
  grp : Tab LinkGrp
  rx : Tab LinkRx
  withdrawn : List Nat
deriving DecidableEq, Repr

/-! Paired capture (01 R30 to R33) -/

/-- A capture request: its identifier, the named islands, where its record goes, and the descriptor that waits for it. -/
structure CapReq where
  reqId : Nat
  srcs : List Nat
  record : Nat
  key : Option Nat
deriving DecidableEq, Repr

/-- The capture queue of the dispatch complex: the request under way, then at most 16 that wait (R31). -/
structure Cap where
  queue : List CapReq
deriving DecidableEq, Repr

/-! Pairing, health and snapshots (17) -/

/-- The latest snapshot (17 R456, R457): its identifier, whether it is outstanding, the power count of its due, its triggers, how
far it is (0 taking holds, 1 waiting after mismatched holds, 2 held, 3 released), the holds taken (entry, context, address and
VERSION), the entries' VERSION words found, attempts, when the next attempt or the record came, and its COUNTER. -/
structure Snap where
  id : Nat
  out : Bool
  due : Nat
  trig : Nat
  phase : Nat
  holds : List (Nat × Nat)
  found : Tab Nat
  tries : Nat
  retryAt : Nat
  recordAt : Nat
  counter : Nat
deriving DecidableEq, Repr

/-- Pairing, risk, snapshots, checkpoint and repair: PAIR_STATE, PARTNER_STALE, the version blocks mirrored since it was set,
RISK with its five points, the power counts of corrected channel errors (last 60 s) and of droops (last 1 s), the latest due and
snapshot, the counters that the flash and store ages run from, RUN_EPOCH, whether a comparison runs, and the tile under repair. -/
structure Resil where
  pair : Nat
  stale : Bool
  mirrored : List Nat
  risk : Nat
  points : List Nat
  ceAt : List Nat
  droopAt : List Nat
  lastId : Nat
  lastDue : Option Nat
  snap : Option Snap
  flashFrom : Option Nat
  storeFrom : Option Nat
  epoch : Nat
  ckpt : Bool
  repair : Option Nat
deriving DecidableEq, Repr

/-! Power (18) -/

/-- The grants of the envelope controller (18 R466): clocks and core ceiling in MHz, pause fraction in per cent. -/
structure Grants where
  tile : Nat
  core : Nat
  ledge : Nat
  pause : Nat
deriving DecidableEq, Repr

/-- The power controller (18): the grants in force and those computed for the next period, the envelope in force, the control
periods since it came into force, ENV_STATE, the mean power of the latest complete period and by domain, the energies of Table 18.3
in mJ, droops in progress by rail with the islands they stretch, the power of the control periods of this telemetry period
added up and how many they are, droops of this telemetry period, dropped control periods, the facility cap request, the telemetry ring in force, its sequence and period numbers, the power count at which the
period began, and dropped records by source (R477; DESIGN CHOICE, assumption 111). -/
structure Power where
  now : Grants
  next : Grants
  env : Nat
  envAge : Nat
  state : Nat
  pkg : Nat
  dom : List Nat
  energy : List Nat
  drooping : Tab (List Nat)
  sum : List Nat
  sums : Nat
  droops : Nat
  dropped : Nat
  capW : Nat
  capId : Nat
  capAnswer : Nat
  teleBase : Nat
  teleLog2 : Nat
  telePeriod : Nat
  teleSeq : Nat
  teleAt : Nat
  teleDrops : Tab Nat
deriving DecidableEq, Repr

/-! Management controller and security block (19) -/

/-- An SPDM connection (19 R489, R491): whether both extended algorithms are negotiated, and the measurements as the previous
GET_MEASUREMENTS of its transcript found them. -/
structure SpdmConn where
  algs : Bool
  meas : Option (List (List Nat))
deriving DecidableEq, Repr

/-- A response to sign (19 R491, R492): its number, transport, the values it returns as taken at acceptance, the management count of
its arrival, and whether it was answered with ResponseNotReady. -/
structure SignReq where
  id : Nat
  tr : Nat
  values : List Nat
  since : Nat
  late : Bool
deriving DecidableEq, Repr

/-- The management controller and the security block: SPDM connections by transport (0 SMBus, 1 I3C, 2 management port, 3 DOE),
responses to sign with the one being signed first, those kept for RESPOND_IF_READY, the next number, the latch of sensor 3 by
interface, the update in progress, the digest and slot of each running flash image by TYPE, and whether the security block works. -/
structure Mgmt where
  conn : Tab SpdmConn
  queue : List SignReq
  kept : List SignReq
  next : Nat
  latch : Tab Nat
  update : Option (Nat × Nat)
  run : Tab (Nat × Nat)
  secure : Bool
deriving DecidableEq, Repr

/-! Management flash (19 R481 to R486, 17 R449, 20 Table 20.7) -/

/-- A copy of the counter record (19 R484): whether its tag verifies, WRITE_NO, the flash device's write counter, and the five
counters. -/
structure CtrRec where
  valid : Bool
  writeNo : Nat
  flashNo : Nat
  mgmt : Nat
  hostboot : Nat
  dispatch : Nat
  microcode : Nat
  keyGen : Nat
deriving DecidableEq, Repr

/-- An image in a flash slot, by the fields of its header that matter once it is judged (19 Table 19.2): whether everything but
its versions verifies, VERSION, SVN, KEY_GEN, ADVANCE and DIGEST. -/
structure FlashImg where
  good : Bool
  version : Nat
  svn : Nat
  keyGen : Nat
  advance : Bool
  digest : Nat
deriving DecidableEq, Repr

/-- What management flash keeps across every reset: both copies of the counter record, the image slots (2 × TYPE + slot), the
ACTIVE indicators by TYPE, the fence list, the tile map as last written, and whether the helper data of the PUF can be read. -/
structure Secure where
  recA : CtrRec
  recB : CtrRec
  img : Tab FlashImg
  active : Tab Nat
  fenceList : List Nat
  map : Tab Nat
  helper : Bool
deriving DecidableEq, Repr

/-- Setup registers by offset (21): the values of their fields that hold what was last applied to them; one that is not
listed holds its reset value. -/
abbrev RegTab := Tab Nat

end Sys2Proof.Machine
end

