-- ==== Sys2Proof/Machine/Net.lean ====
section
/-!
DEFINITION. The parts of the package's state beside memory and at its edges: memory channels, ledge queues and commands,
gradient buckets, PCIe regions, Ethernet sub-ports, Haul connections and RoCEv2 queue pairs.
-/

namespace Sys2Proof.Machine

/-! Memory channels (08) -/

/-- A memory channel: the corrected-error count and that of its latest 1 ms window (R212, R222), interface retries (R211),
the next scrub address, the power count at which the pass began and its corrected errors by line (R213 to R215), the
rolling activation counts, the RFMs that wait for the next window, the time that background work has used in this window
by Table 8.6 row, the number of the window, whether activations were held in it, the activations that are held by bank, whether the hottest
device is above 85 °C (R216 to R219), the lines whose rows are offered for repair, and those repaired (R214). -/
structure Chan where
  ce : Nat
  ceWin : Nat
  ceAt : Nat
  retries : Nat
  scrubAt : Nat
  scrubFrom : Nat
  scrubErrs : Tab Nat
  scrubLate : Bool
  acts : Tab Nat
  rfmWait : List Nat
  used : Tab Nat
  window : Nat
  throttled : Bool
  want : Tab Nat
  hot : Bool
  repair : List Nat
  repaired : List Nat
deriving DecidableEq, Repr

/-- The memory channels by index (21 R529). -/
abbrev Chans := Tab Chan

/-! Ledge queues and engines (10) -/

/-- A ledge queue (Table 10.1); `miss` is the NoC count of the first SEQ mismatch with its cause (0 SEQ, 1 poisoned,
2 not translated, 3 unbacked), `unbind` the descriptor that waits for it. -/
structure Lq where
  bound : Bool
  ctx : Nat
  base : Nat
  log2 : Nat
  so : Nat
  weight : Nat
  consumed : Nat
  overrun : Bool
  ahead : Bool
  miss : Option (Nat × Nat)
  unbind : Option Nat
deriving DecidableEq, Repr

/-- An OPTSTEP or MIRROR in execution: the optimiser and mirror descriptors as read, the FP32 constants of R305 and the
clip's NaN flag, the next bench (line for MIRROR) and the one after the last, whether the version block is BUSY by it
and whether its end step is done, benches skipped, the version left, mirror pieces sent and not acknowledged as numbers, those acknowledged, whether the mirror failed, whether the version write is sent, and whether the step stopped
before its last bench. -/
structure OptRun where
  desc : List Byte
  mir : List Byte
  s : Nat
  a1 : Nat
  a2 : Nat
  d : Nat
  next : Nat
  last : Nat
  begun : Bool
  ended : Bool
  torn : Bool
  version : Nat
  open_ : List Nat
  acked : List Nat
  failed : Bool
  verSent : Bool
  stopped : Bool
deriving DecidableEq, Repr

/-- A ledge command that is fetched and not complete (R257): its key, queue, context, bytes, whether it has run, its
statuses with DETAIL and COUNT, its record FLAGS, the count of what it has applied, its OPTSTEP or MIRROR run, the next of its lines, and
the lines that a SUMSQ has read (address, elements). -/
structure LCmd where
  key : Nat
  lq : Nat
  ctx : Nat
  bytes : List Byte
  ran : Bool
  stats : List (Nat × Nat × Nat)
  flags : Nat
  count : Nat
  run : Option OptRun
  next : Nat
  got : List (Nat × List Nat)
deriving DecidableEq, Repr

/-- The turns of a front-end's queues (R257): the queue that issues, how many line operations its turn still has, and the queues that have
had their turn in this round. -/
structure LedgeTurn where
  queue : Nat
  left : Nat
  done : List Nat
deriving DecidableEq, Repr

/-- The ledge queues, the commands in execution, the fenced engines, and the turns by front-end. -/
structure Ledge where
  lq : Tab Lq
  cmds : List LCmd
  next : Nat
  fenced : List Nat
  turns : Tab LedgeTurn
deriving DecidableEq, Repr

/-! Gradient buckets (11) -/

/-- The state of a bucket entry (Table 11.2). -/
inductive BucketSt where
  | free | filling | open_ | closing | aborting
deriving DecidableEq, Repr

/-- A bucket entry (Table 11.1), with the dispatch count at its opening and the pages of its region as the home knows them
(virtual address, physical address, length), how many bytes of it are zero-filled (R291), and the descriptor of its abort (R299). -/
structure Bucket where
  st : BucketSt
  ctx : Nat
  base : Nat
  len : Nat
  expect : Nat
  applied : Nat
  refused : Nat
  so : Nat
  sval : Nat
  record : Nat
  rhint : Nat
  norm : Nat
  timeout : Nat
  nosq : Bool
  late : Bool
  ovf : Bool
  invalid : Bool
  poison : Bool
  since : Nat
  pages : List (Nat × Nat × Nat)
  filled : Nat
  abort : Option Nat
deriving DecidableEq, Repr

/-- The bucket entries by tag. -/
abbrev Buckets := Tab Bucket

/-! PCIe regions (12) -/

/-- A PCIe region entry (12 Table 12.5). -/
structure PcieRegion where
  valid : Bool
  msi : Bool
  port : Nat
  reqid : Nat
  reqmask : Nat
  ctx : Nat
  vbase : Nat
  len : Nat
  perm : Nat
  hint : Nat
  hart : Nat
  file : Nat
deriving DecidableEq, Repr

/-- The PCIe region entries. -/
abbrev PcieTab := Tab PcieRegion

/-! Fabric (13) -/

/-- A sub-port: up (R333), the dispatch count since when, and what it counts. -/
structure SubPort where
  up : Bool
  since : Nat
  frames : Nat
  badFcs : Nat
  paused : Nat
  dropped : Nat
  malformed : Nat
  stale : Nat
  dup : Nat
  window : Nat
  overrun : Nat
  quarantines : Nat
deriving DecidableEq, Repr

/-- A registered region of FD (Table 13.7); `check` is kept when the entry is withdrawn, and `closing` is the descriptor
that waits for the packets which still use the entry. -/
structure FdRegion where
  valid : Bool
  ctx : Nat
  vbase : Nat
  len : Nat
  perm : Nat
  check : Nat
  hint : Nat
  version : Nat
  closing : Option Nat
deriving DecidableEq, Repr

/-- What a Haul message is sent for: a ring descriptor, a bench or line of a ledge command's mirror, a ledge command's
version write, or the READ of the peer that it answers. -/
inductive HOwner where
  | desc (key : Nat)
  | mirror (key bench : Nat)
  | version (key : Nat)
  | resp (psn : Nat)
deriving DecidableEq, Repr

/-- What a connection has still to send: the operation, its owner, the context and virtual address of the bytes or the
bytes themselves, how many are left, and the header values for the first of them. -/
structure HMsg where
  owner : HOwner
  op : Nat
  ctx : Nat
  va : Nat
  data : Option (List Byte)
  left : Nat
  key : Nat
  off : Nat
  val : Nat
  poison : Bool
deriving DecidableEq, Repr

/-- A sequenced packet without final status: its number, operation, operation header, payload and POISON, its owner, the
sub-port, address index and entropy of its last transmission, the fabric counts of its first and last transmissions, the
dispatch count of the first, its timeout and when it expires, whether an RNR delays it, its retransmissions, and whether the
next one carries ACKNOW. -/
structure HTx where
  psn : Nat
  op : Nat
  hdr : List Byte
  payload : List Byte
  poison : Bool
  owner : HOwner
  sub : Nat
  addr : Nat
  ent : Nat
  at0 : Nat
  at_ : Nat
  disp0 : Nat
  rto : Nat
  due : Nat
  rnr : Bool
  tries : Nat
  now : Bool
deriving DecidableEq, Repr

/-- A status slot of a receive window (R342 to R344): the packet waits its turn (R346) or is placed and its effects not
yet all visible, with the outcome it will have; or it is complete with a status code (0: DONE). `region` is the region
entry it uses and `units` its payload. -/
inductive RxSt where
  | waiting | placed | complete
deriving DecidableEq, Repr

/-- A slot of a receive window; `report`: an ACK is sent as soon as it completes (R342, R345). -/
structure RxSlot where
  st : RxSt
  report : Bool
  op : Nat
  hdr : List Byte
  payload : List Byte
  poison : Bool
  code : Nat
  detail : Nat
  region : Option Nat
  units : Nat
deriving DecidableEq, Repr

/-- A READ that this end has sent: its packet number, descriptor, local key, length, and the bytes placed (R354). -/
structure HRead where
  psn : Nat
  key : Nat
  lkey : Nat
  len : Nat
  got : Nat
deriving DecidableEq, Repr

/-- The state of a connection (Table 13.5). -/
inductive ConnSt where
  | idle | connecting | open_ | lost
deriving DecidableEq, Repr

/-- What a connection receives: W, the slots, payload units accepted and left, the credit limit granted, CE-marked units,
completions since the last ACK with the fabric count of the first, and the holds of version-checked gathers by the READ
that took them, as context and version block (R342 to R355). -/
structure HRecv where
  w : Nat
  slots : Tab RxSlot
  acc : Nat
  left : Nat
  limit : Nat
  ce : Nat
  unrep : Nat
  unrepAt : Option Nat
  holds : Tab (Nat × Nat)
  last : Nat
deriving DecidableEq, Repr

/-- What a connection sends: the next packet number, units sent, the peer's credit limit, messages, unsettled packets,
those to retransmit first, the last path with whether the paths were formed anew since, quarantined paths with their ends,
strikes by path, the smoothed round trip and variation, failures by owner, READs outstanding, and the dispatch count of
the last ACK or CONNECT (R338 to R349). -/
structure HSend where
  next : Nat
  sent : Nat
  limit : Nat
  msgs : List HMsg
  tx : List HTx
  retx : List Nat
  pos : Option (Nat × Nat)
  changed : Bool
  quar : List (Nat × Nat × Nat)
  strikes : Tab Nat
  rtt : Option (Nat × Nat)
  fails : List (HOwner × Nat × Nat)
  reads : List HRead
  beat : Nat
deriving DecidableEq, Repr

/-- The rate control of R351, FP32 values in Gb/s, with the counts of this period, the last CE64 received, the tokens of
the bucket in bytes and the fabric count at which they stood, and the fabric count at which the period began. -/
structure Rate where
  alpha : Nat
  rc : Nat
  rt : Nat
  ce : Nat
  units : Nat
  seen : Nat
  tokens : Nat
  at_ : Nat
  per : Nat
deriving DecidableEq, Repr

/-- A Haul connection (Table 13.5): the epoch used last, the proposals of both ends, the creating and closing descriptors,
the dispatch count at its opening, the peer sub-ports that PATHDOWN names down, and the local ones that went down and have
not rejoined (R352). -/
structure Conn where
  st : ConnSt
  ctx : Nat
  cookie : Nat
  peers : List Nat
  mask : Nat
  peerConn : Nat
  epoch : Nat
  rxring : Nat
  creditMax : Nat
  timeout : Nat
  proposal : Nat
  peerProp : Nat
  creator : Option Nat
  since : Nat
  peerDown : Nat
  away : Nat
  rx : HRecv
  tx : HSend
  rate : Rate
deriving DecidableEq, Repr

/-- A frame that FD sent, by the fields that the specification gives: sub-port, destination MAC (from the neighbour table
for IP packets), the control word of its 802.1Q tag if it has one, addresses as 128-bit numbers (zero for a frame without IP), TTL or hop
limit, DSCP, ECN field (2: ECT(0)), UDP ports, and the payload from the Haul base header, or the frame's own payload, on. -/
structure Sent where
  sub : Nat
  mac : Nat
  tag : Option Nat
  dscp : Nat
  src : Nat
  dst : Nat
  ttl : Nat
  ecn : Nat
  sport : Nat
  dport : Nat
  bytes : List Byte
deriving DecidableEq, Repr

/-- The fabric's ports, neighbour table (keyed in order of writing), regions, connections, raw frame queue with the frames that did
not fit, responses that matched no READ (R354), and what was sent. -/
structure Fabric where
  port : Tab SubPort
  neigh : List (Nat × Nat × Nat)
  region : Tab FdRegion
  conn : Tab Conn
  rawq : Option Nat
  raw : Nat
  stray : Nat
  sent : List Sent
deriving DecidableEq, Repr

/-- A receive buffer of a queue pair. -/
structure RecvBuf where
  key : Nat
  va : Nat
  len : Nat
deriving DecidableEq, Repr

/-- A work request of a queue pair: its descriptor, verb, local and remote addresses, length, key, immediate, its first
packet number and the number of its packets, the packets acknowledged or the bytes of a READ received, and its poison. -/
structure Wqe where
  key : Nat
  verb : Nat
  lva : Nat
  len : Nat
  rkey : Nat
  rva : Nat
  imm : Nat
  psn : Nat
  pkts : Nat
  got : Nat
deriving DecidableEq, Repr

/-- The state of a queue pair. -/
inductive QpSt where
  | none | ready | error
deriving DecidableEq, Repr

/-- A message being received: its operation (0 SEND, 2 WRITE), place, key and the bytes so far. -/
structure RoceIn where
  op : Nat
  va : Nat
  rkey : Nat
  len : Nat
  got : Nat
deriving DecidableEq, Repr

/-- A RoCEv2 queue pair (13 R358, 14 Table 14.5): its binding, the next packet number to send and to expect, work requests
in order, receive buffers, the message in reception, retries used, the fabric count at which it last sent, whether it waits after
an RNR, and its rate control. -/
structure Qp where
  st : QpSt
  ctx : Nat
  mtu : Nat
  sub : Nat
  cq : Nat
  retry : Nat
  rnr : Nat
  peer : Nat
  peerQpn : Nat
  texp : Nat
  psn : Nat
  unacked : Nat
  epsn : Nat
  msn : Nat
  wqes : List Wqe
  recvs : List RecvBuf
  rx : Option RoceIn
  tries : Nat
  rnrTries : Nat
  sentAt : Nat
  rnrWait : Bool
  nakSent : Bool
  cnpAt : Option Nat
  badIcrc : Nat
  rate : Rate
deriving DecidableEq, Repr

/-- What a queue pair sent: its kind (the operation, 16 acknowledgement, 17 negative acknowledgement, 18 read response,
19 CNP), packet number, fields and payload. -/
structure RoceSent where
  qpn : Nat
  kind : Nat
  psn : Nat
  fields : List Nat
  payload : List Byte
deriving DecidableEq, Repr

/-- The queue pairs and what they sent. -/
structure Roce where
  qp : Tab Qp
  sent : List RoceSent
deriving DecidableEq, Repr

end Sys2Proof.Machine
end

