-- ==== Sys2Proof/Machine/Chip.lean ====
section
/-!
DEFINITION. The whole package as plain data: one field for each group of state, with one update function for each.
-/

namespace Sys2Proof.Machine

/-- Everything the specification gives the package; the model's own fields are `reply` (the data that the last command
returned to its sender) and `free` (how many free values have been taken, assumption 1). -/
structure Chip where
  /-- Island counters (01 R24 to R29). -/
  clk : Clocks
  /-- Event log, configuration report log and event flags (18 R479, 20 R510, 21 R519). -/
  log : LogState
  /-- Package memory, homes and snoop filters (08, 09). -/
  mem : Mem
  /-- Interrupt files and host cores (12 R326, 18 R461). -/
  irq : Irq
  /-- Host cores (12 R312). -/
  hart : Harts
  /-- Synchronisation objects (03 R85 to R89). -/
  so : SoState
  /-- TLBs (03 R82). -/
  mmu : Mmu
  /-- Physical tiles by die code × 50 + pp (03 to 07). -/
  tile : TileTab
  /-- Tile map and generations (01 R21, 03 R62). -/
  tmap : TMap
  /-- CXL port (14 R360). -/
  cxl : Cxl
  /-- Commanders, rings, descriptors and the completion log (14). -/
  cm : Cm
  /-- Contexts (15 R398 to R404). -/
  ctx : CtxTab
  /-- Dispatch complex and its firmware (15). -/
  fw : Fw
  /-- Supplies, self-test and straps (20). -/
  boot : Boot
  /-- Die-to-die links (01 R15 to R20). -/
  links : Links
  /-- Paired captures (01 R30 to R33). -/
  cap : Cap
  /-- The fields of setup registers that have no named place of their own (21 R513). -/
  regs : RegTab
  /-- Memory channels by index (08). -/
  chan : Chans
  /-- Ledge queues and engines (10). -/
  ledge : Ledge
  /-- Gradient buckets by tag (11). -/
  bucket : Buckets
  /-- PCIe region entries (12). -/
  pcie : PcieTab
  /-- Ethernet ports, regions and Haul connections (13). -/
  fab : Fabric
  /-- RoCEv2 queue pairs (13 R358). -/
  roce : Roce
  /-- Pairing, health and snapshots (17). -/
  res : Resil
  /-- Power controller (18). -/
  pow : Power
  /-- Management controller and security block (19). -/
  mgmt : Mgmt
  /-- The data that the last command with an answer returned (the model's own field, assumption 10). -/
  reply : List Nat
  /-- How many free values have been taken (the model's own field, assumption 1). -/
  free : Nat
deriving DecidableEq, Repr

/-- The package with its `clk` part changed. -/
def Chip.modClk (c : Chip) (f : Clocks → Clocks) : Chip := { c with clk := f c.clk }

/-- The package with its `log` part changed. -/
def Chip.modLog (c : Chip) (f : LogState → LogState) : Chip := { c with log := f c.log }

/-- The package with its `mem` part changed. -/
def Chip.modMem (c : Chip) (f : Mem → Mem) : Chip := { c with mem := f c.mem }

/-- The package with its `irq` part changed. -/
def Chip.modIrq (c : Chip) (f : Irq → Irq) : Chip := { c with irq := f c.irq }

/-- The package with its `hart` part changed. -/
def Chip.modHart (c : Chip) (f : Harts → Harts) : Chip := { c with hart := f c.hart }

/-- The package with its `so` part changed. -/
def Chip.modSo (c : Chip) (f : SoState → SoState) : Chip := { c with so := f c.so }

/-- The package with its `mmu` part changed. -/
def Chip.modMmu (c : Chip) (f : Mmu → Mmu) : Chip := { c with mmu := f c.mmu }

/-- The package with its `tile` part changed. -/
def Chip.modTile (c : Chip) (f : TileTab → TileTab) : Chip := { c with tile := f c.tile }

/-- The package with its `tmap` part changed. -/
def Chip.modTmap (c : Chip) (f : TMap → TMap) : Chip := { c with tmap := f c.tmap }

/-- The package with its `cxl` part changed. -/
def Chip.modCxl (c : Chip) (f : Cxl → Cxl) : Chip := { c with cxl := f c.cxl }

/-- The package with its `cm` part changed. -/
def Chip.modCm (c : Chip) (f : Cm → Cm) : Chip := { c with cm := f c.cm }

/-- The package with its `ctx` part changed. -/
def Chip.modCtx (c : Chip) (f : CtxTab → CtxTab) : Chip := { c with ctx := f c.ctx }

/-- The package with its `fw` part changed. -/
def Chip.modFw (c : Chip) (f : Fw → Fw) : Chip := { c with fw := f c.fw }

/-- The package with its `boot` part changed. -/
def Chip.modBoot (c : Chip) (f : Boot → Boot) : Chip := { c with boot := f c.boot }

/-- The package with its `links` part changed. -/
def Chip.modLinks (c : Chip) (f : Links → Links) : Chip := { c with links := f c.links }

/-- The package with its `cap` part changed. -/
def Chip.modCap (c : Chip) (f : Cap → Cap) : Chip := { c with cap := f c.cap }

/-- The package with its `regs` part changed. -/
def Chip.modRegs (c : Chip) (f : RegTab → RegTab) : Chip := { c with regs := f c.regs }

/-- The package with its `chan` part changed. -/
def Chip.modChan (c : Chip) (f : Chans → Chans) : Chip := { c with chan := f c.chan }

/-- The package with its `ledge` part changed. -/
def Chip.modLedge (c : Chip) (f : Ledge → Ledge) : Chip := { c with ledge := f c.ledge }

/-- The package with its `bucket` part changed. -/
def Chip.modBucket (c : Chip) (f : Buckets → Buckets) : Chip := { c with bucket := f c.bucket }

/-- The package with its `pcie` part changed. -/
def Chip.modPcie (c : Chip) (f : PcieTab → PcieTab) : Chip := { c with pcie := f c.pcie }

/-- The package with its `fab` part changed. -/
def Chip.modFab (c : Chip) (f : Fabric → Fabric) : Chip := { c with fab := f c.fab }

/-- The package with its `roce` part changed. -/
def Chip.modRoce (c : Chip) (f : Roce → Roce) : Chip := { c with roce := f c.roce }

/-- The package with its `res` part changed. -/
def Chip.modRes (c : Chip) (f : Resil → Resil) : Chip := { c with res := f c.res }

/-- The package with its `pow` part changed. -/
def Chip.modPow (c : Chip) (f : Power → Power) : Chip := { c with pow := f c.pow }

/-- The package with its `mgmt` part changed. -/
def Chip.modMgmt (c : Chip) (f : Mgmt → Mgmt) : Chip := { c with mgmt := f c.mgmt }

/-- The package with an answer for the sender of the command. -/
def Chip.answer (c : Chip) (l : List Nat) : Chip := { c with reply := l }

/-- The next free value (assumption 1). -/
def Chip.freeVal (c : Chip) : Nat := Config.freeValue c.free

/-- The package with `n` free values taken. -/
def Chip.took (c : Chip) (n : Nat) : Chip := { c with free := c.free + n }

end Sys2Proof.Machine
end

