-- ==== Sys2Proof/Machine/Fresh.lean ====
section
/-!
DEFINITION. What an entry of a table that is not listed holds: each unit as reset leaves it. A register that the
specification gives no reset value holds zero (assumption 2).
-/

namespace Sys2Proof.Machine

/-- The nominal clock of an island by its SRCID class, in MHz (01 Table 1.4, Table 1.5). -/
def nominalMhz (src : Nat) : Nat :=
  match src / 4096 with
  | 1 => 1600
  | 2 => 2000
  | 3 => 1250
  | 4 => 3000
  | 5 => 1500
  | 6 => 40000
  | 7 => 1000
  | 8 => 100
  | 9 => 500
  | _ => 0

/-- The supply group of an island (20 Table 20.1). -/
def islandGroup (src : Nat) : Nat :=
  match src / 4096 with
  | 1 => 4
  | 2 => if src % 4096 < 4 then 4 else if src % 4096 = 4 then 2 else 3
  | 3 => if src % 4096 < 192 then 3 else 2
  | 4 => 2
  | 5 => 3
  | 6 => 1
  | 7 => 2
  | 8 => 2
  | _ => 0

/-- A supply group since reset. -/
def GroupClk.fresh : GroupClk := { born := 0, stop := none, restarts := 0, used := true }

/-- Where an island's counter stands at the moment of model time at which its power has come: each island starts in its own time, and no
counter is aligned to another (01 R34); the dispatch complex's is the one by which model time is told (assumptions 7 and 117). -/
def islandStart (src restarts : Nat) : Nat := if src / 4096 = 7 then 0 else Config.phase src restarts

/-- An island at its nominal rate since its group got power (01 R26). -/
def Island.fresh (src : Nat) (g : GroupClk) : Island :=
  { base := islandStart src g.restarts, since := g.born, mhz := nominalMhz src, restarts := g.restarts, on := true, stretched := false }

/-- A tile map without entries gives index i of a die to its i-th physical tile (01 R21). -/
def freshPhys (j : Nat) : Nat := j / 48 * 50 + j % 48

/-- An empty function table. -/
def FTab.fresh : FTab := { front := [], back := [], gen := 0, closed := true, asked := false, held := [] }

/-- The vector engine at the start of a work item (06 Table 6.1). -/
def Vec.fresh : Vec :=
  { v := [], m := [], vl := 128, vstatus := 0, vtid := 0, vpass := 0, vstep := 0, vibase := 0, vfill := 0, q := [],
    ft := [] }

/-- Empty accumulators with zero key registers (05 R133, R137). -/
def Acc.fresh : Acc :=
  { col := [], poison := [], count := [], astatus := 0, atid := 0, astep := 0, abase0 := 0, abase1 := 0,
    astride0 := 0, astride1 := 0 }

/-- An idle array with empty planes (04 R101, R119). -/
def Arr.fresh : Arr :=
  { q := [], step := 0, held := 0, blocks := [], active := none, use := none, pending := none, claimed := false,
    latched := none, reload := none, marks := [], port := none, lastLoad := none, lastE := none, lastM := 0, lastLen := 1, lastDone := 0, stopped := false, drain := false, afault := 0 }

/-- A physical tile after a self-test that found it good: a rated tile is in SERVICE, a spare in MAINTENANCE
(assumption 5). -/
def Tile.fresh (t : Nat) : Tile :=
  { st := if t % 50 < 48 then .service else .maintenance
    failed := false, spare := decide (48 ≤ t % 50), listed := false, mvpFenced := false, fences := 0, powered := true
    paused := false, x := [], pc := 0, imem := [], mem := [], poison := [], ctx := 0, item := .none, work := 0
    blocked := none, pend := none, tcause := 0, tepc := 0, tval := 0, serial := 0, mover := [], held := []
    cancelFrom := none, vec := Vec.fresh, acc := Acc.fresh, arr := Arr.fresh, hold := 0, sent := false, gated := false
    preAsk := false }

/-- A commander entry since reset: FREE (14 R367). -/
def Cmdr.fresh : Cmdr :=
  { st := .free, key := 0, epoch := 0, reqid := 0, refusal := 0, ever := false, regAddr := 0, hbAddr := 0, hbCount := 0,
    hbLimit := 0, hbSince := 0, hbFails := 0, lostAt := 0, dereg := false, asking := false, ignored := 0, cq0 := 0,
    asker := 0 }

/-- A submission ring since reset: FREE (14 R369). -/
def Sq.fresh : Sq :=
  { st := .free, cm := 0, log2 := 4, base := 0, cq := 0, prio := 0, tail := 0, head := 0, miss := none, ahead := false,
    unbinding := none, perSince := 0, perUsed := 0 }

/-- A completion ring since reset: FREE (14 R369). -/
def Cq.fresh : Cq :=
  { st := .free, cm := 0, log2 := 4, base := 0, msi := 0, hint := 0, int := false, recv := false, w := 0, head := 0,
    armed := false }

/-- A context since reset: FREE, but CTX0, which is always ACTIVE (15 R398). -/
def CtxEnt.fresh (k : Nat) : CtxEnt :=
  { st := if k = 0 then .active else .free, root := 0, seed := 0, save := 0, ftimg := 0, hint := 0, eventCq := 0,
    park := false, grace := 0, grants := [], graceDue := [], saved := [] }

/-- A firmware processor before LOAD starts it (15 R394): each serves its own rings. -/
def Fp.fresh (k : Nat) : Fp := { service := false, failed := false, server := k, expiries := [], action := 0 }

/-! Setup registers (21) -/

/-- The reset value of a register of the bank, by offset (21 Tables 21.7 to 21.15). -/
def regReset (off : Nat) : Nat :=
  if off = 0x400000 then 3000
  else if off = 0x400008 then 1500
  else if off = 0x500008 then 10 * 2 ^ 16 + 10
  else if off = 0x600000 then 2 * 2 ^ 48
  else if off = 0x600008 then 3 * 2 ^ 4
  else if off = 0x600010 then 300 * 2 ^ 32 + 600
  else if off = 0x600018 then 10000 * 2 ^ 32 + 60
  else if 0x900000 ≤ off ∧ off < 0x901000 then 4 * 2 ^ 8 + 8
  else if off = 0xA00000 then 46170
  else if off = 0xA00008 then 10 * 2 ^ 48 + 50 * 2 ^ 32 + 4 * 2 ^ 20 + 15000
  else if 0xA01000 ≤ off ∧ off < 0xA01800 ∧ off % 0x40 = 8 then 1
  else if 0xC00000 ≤ off ∧ off < 0xC02000 then 255 * 2 ^ 32
  else 0

/-- A self-test report with nothing in it. -/
def Report.empty : Report :=
  { outcome := 0, phase := 0, code := 0, detail := 0, counter := 0, straps := 0, ddrRate := 0, goodTiles := 0, hbmOk := 0,
    ddrOk := 0, linkOk := 0, fpOk := 0, portsOk := 0, ledgeFenced := 0, coresFailed := 0, images := 0, deviceId := 0 }

/-- The report of a self-test that found everything good: 50 tiles on each die, all stacks, channels, links, firmware
processors and ports, and 16 MRDIMMs at 8,800 MT/s (20 Table 20.5, assumption 4). -/
def Report.good : Report :=
  { Report.empty with
    ddrRate := 8800
    outcome := 0, phase := 6, goodTiles := 0x32323232, hbmOk := 0xFFF, ddrOk := 0xFFFF, linkOk := 0x1FFF, fpOk := 0xF
    portsOk := 0xFF, images := 0x0F, deviceId := Config.deviceId % 2 ^ 64 }

/-- Supplies and self-test when the package has come up (assumption 4). -/
def Boot.fresh : Boot :=
  { aon := true, en := 0x3E, good := 0x3E, step := 7, safe := false, report := Report.good, prev := Report.empty, draft := Report.empty
    enAt := 0, slotId := 0
    feedId := 0, roleStrap := false, manager := false, thermAlert := false, thermDies := [], pcie := [0, 0, 0, 0], tripOut := false }

/-- A lane group at reset: both spares unused. -/
def LinkGrp.fresh : LinkGrp := { down := false, spares := [], repairing := [], errs := [] }

/-- A link receiver before its first flit (assumption 3). -/
def LinkRx.fresh : LinkRx := { next := 0, early := [], retry := [] }

/-- The value of a control and status register of a host core at reset, by number: misa names the extensions of RVA23S64, vlenb is VLEN / 8
(12 Table 12.1), no compare value has been reached, and every other register is zero (PRESUMED, assumption 106). -/
def csrReset (n : Nat) : Nat :=
  if n = 0x301 then 2 ^ 63 + 0x3411AF else if n = 0xC22 then 32 else if n = 0x14D ∨ n = 0x24D then 2 ^ 64 - 1 else 0

/-- A host core at reset: machine mode, every register zero, no timer compare value reached (PRESUMED, assumption 106). -/
def Hart.fresh : Hart :=
  { x := [], f := [], v := [], pc := 0, priv := 3, virt := false, csr := [], mtimecmp := 2 ^ 64 - 1, l1i := [], l1d := [] }

/-- A memory channel at reset. -/
def Chan.fresh : Chan :=
  { ce := 0, ceWin := 0, ceAt := 0, retries := 0, scrubAt := 0, scrubFrom := 0, scrubErrs := [], scrubLate := false
    acts := [], rfmWait := [], used := [], window := 0, throttled := false, want := [], hot := false, repair := [], repaired := [] }

/-- A ledge queue without a binding. -/
def Lq.fresh : Lq :=
  { bound := false, ctx := 0, base := 0, log2 := 6, so := 0, weight := 1, consumed := 0, overrun := false, ahead := false
    miss := none, unbind := none }

/-- The queues of a front-end before any has issued. -/
def LedgeTurn.fresh : LedgeTurn := { queue := 320, left := 0, done := [] }

/-- A bucket entry at reset: FREE (20 Table 20.7). -/
def Bucket.fresh : Bucket :=
  { st := .free, ctx := 0, base := 0, len := 0, expect := 0, applied := 0, refused := 0, so := 0, sval := 0, record := 0
    rhint := 0, norm := 0, timeout := 0, nosq := false, late := false, ovf := false, invalid := false, poison := false
    since := 0, pages := [], filled := 0, abort := none }

/-- A PCIe region entry that is not in use. -/
def PcieRegion.fresh : PcieRegion :=
  { valid := false, msi := false, port := 0, reqid := 0, reqmask := 0, ctx := 0, vbase := 0, len := 0, perm := 0, hint := 0
    hart := 0, file := 0 }

/-- A sub-port before its link has trained (21 Table 21.13). -/
def SubPort.fresh : SubPort :=
  { up := false, since := 0, frames := 0, badFcs := 0, paused := 0, dropped := 0, malformed := 0, stale := 0
    dup := 0, window := 0, overrun := 0, quarantines := 0 }

/-- A region of FD that is not in use. -/
def FdRegion.fresh : FdRegion :=
  { valid := false, ctx := 0, vbase := 0, len := 0, perm := 0, check := 0, hint := 0, version := 0, closing := none }

/-- A connection's receive side before it opens. -/
def HRecv.fresh : HRecv :=
  { w := 0, slots := [], acc := 0, left := 0, limit := 0, ce := 0, unrep := 0, unrepAt := none, holds := [], last := 0 }

/-- A connection's send side before it opens. -/
def HSend.fresh : HSend :=
  { next := 0, sent := 0, limit := 0, msgs := [], tx := [], retx := [], pos := none, changed := false, quar := [], strikes := []
    rtt := none, fails := [], reads := [], beat := 0 }

/-- A rate control that has not started. -/
def Rate.fresh : Rate := { alpha := 0, rc := 0, rt := 0, ce := 0, units := 0, seen := 0, tokens := 65536, at_ := 0
                           per := 0 }

/-- A connection at reset: IDLE, never opened. -/
def Conn.fresh : Conn :=
  { st := .idle, ctx := 0, cookie := 0, peers := [], mask := 0, peerConn := 0, epoch := 0, rxring := 0xFFFF, creditMax := 0
    timeout := 0, proposal := 0, peerProp := 0, creator := none, since := 0, peerDown := 0, away := 0, rx := HRecv.fresh
    tx := HSend.fresh, rate := Rate.fresh }

/-- A queue pair that is not created. -/
def Qp.fresh : Qp :=
  { st := .none, ctx := 0, mtu := 1, sub := 0, cq := 0, retry := 0, rnr := 0, peer := 0, peerQpn := 0, texp := 0, psn := 0
    unacked := 0, epsn := 0, msn := 0, wqes := [], recvs := [], rx := none, tries := 0, rnrTries := 0, sentAt := 0
    rnrWait := false, nakSent := false, cnpAt := none, badIcrc := 0, rate := Rate.fresh }

/-! Pairing, health and power (17, 18) -/

/-- Pairing, risk and snapshots at reset: unpaired, nothing due, and no flash snapshot, so that P_age is 3 at the first
evaluation (17 Table 17.3). -/
def Resil.fresh : Resil :=
  { pair := 0, stale := false, mirrored := [], risk := 0, points := [0, 0, 0, 0, 0], ceAt := [], droopAt := [], lastId := 0, lastDue := none
    snap := none, flashFrom := none, storeFrom := none, epoch := 0, ckpt := false, repair := none }

/-- Every actuator at its top (21 Table 21.7). -/
def Grants.top : Grants := { tile := 1600, core := 3000, ledge := 1250, pause := 0 }

/-- The power controller at reset (21 Tables 21.7 and 21.8). -/
def Power.fresh : Power :=
  { now := Grants.top, next := Grants.top, env := 3000, envAge := 2, state := 0, pkg := 0, dom := List.replicate 8 0
    energy := List.replicate 8 0, drooping := [], sum := List.replicate 8 0, sums := 0, droops := 0, dropped := 0, capW := 0, capId := 0, capAnswer := 0
    teleBase := 0, teleLog2 := 10, telePeriod := 10, teleSeq := 0, teleAt := 0, teleDrops := [] }

/-! Management -/

/-- An SPDM connection before its first request. -/
def SpdmConn.fresh : SpdmConn := { algs := false, meas := none }

/-! Management flash -/

/-- A counter record with every counter at zero. -/
def CtrRec.fresh (n : Nat) : CtrRec :=
  { valid := true, writeNo := n, flashNo := 0, mgmt := 0, hostboot := 0, dispatch := 0, microcode := 0, keyGen := 0 }

/-- An empty slot. -/
def FlashImg.fresh : FlashImg := { good := false, version := 0, svn := 0, keyGen := 0, advance := false, digest := 0 }

/-- Management flash of a package that has never raised a counter or listed a tile: slot A of each type holds a good image and
is active (assumption 24). -/
def Secure.fresh : Secure :=
  { recA := CtrRec.fresh 1, recB := CtrRec.fresh 0, img := [1, 2, 4].map (fun t => (2 * t, { FlashImg.fresh with good := true, digest := Config.imageDigest t }))
    active := [], fenceList := [], map := [], helper := true }

/-- The management controller after a self-test that ran slot A of every flash image (assumption 4). -/
def Mgmt.fresh : Mgmt :=
  { conn := [], queue := [], kept := [], next := 0, latch := [], update := none
    run := [1, 2, 4].map (fun t => (t, (0, Config.imageDigest t))), secure := true }

/-! The package -/

/-- The package after reset. -/
def Chip.reset : Chip := {
  clk := { now := 0, isl := [], grp := [] }
  log := { held := [], wins := [], logBase := 0, logEn := false, logLog2 := 8, tail := 0, head := 0, lost := 0,
           lostReported := 0, cfg := [], cfgNext := 0, gevent := 0, geventEn := 0, gevcnt := [], gintCore := 0, gintId := 0,
           period := 0 }
  mem := { bytes := [], poison := [], dir := [], dirSeq := 0, busy := [], waitq := [], ddrMods := 16, ddrModGB := 256,
           hintDropped := [], sfBackinv := [], resv := [], serial := 0, met := [], retry := none }
  irq := { pending := [], core := [], timer := [], dropped := [] }
  hart := []
  so := { value := [], owner := [], waits := [], woken := [], haulDropped := 0, lastAction := [] }
  mmu := { tlb := [] }
  tile := []
  tmap := { phys := [], gen := [], resident := [] }
  cxl := { l0 := false, rate := 0, width := 0, out := [], next := 0, sent := [], slots := [] }
  cm := { ent := [], sq := [], cq := [], descs := [], fin := [], log := [], lostEvents := [], dropped := 0, nextKey := 0,
          latched := [], asks := [] }
  ctx := []
  fw := { running := false, version := 0, digest := 0, pcopy := none, fp := [], journal := [],
          mbox := { last := 0, result := 0, arg0 := 0, arg1 := 0, arg2 := 0 }, work := [], images := [], drops := 0 }
  boot := Boot.fresh
  links := { grp := [], rx := [], withdrawn := [] }
  cap := { queue := [] }
  regs := []
  chan := []
  ledge := { lq := [], cmds := [], next := 0, fenced := [], turns := [] }
  bucket := []
  pcie := []
  fab := { port := [], neigh := [], region := [], conn := [], rawq := none, raw := 0, stray := 0, sent := [] }
  roce := { qp := [], sent := [] }
  res := Resil.fresh
  pow := Power.fresh
  mgmt := Mgmt.fresh
  reply := []
  free := 0 }

end Sys2Proof.Machine
end

