-- ==== Sys2Proof/Machine/Ops.lean ====
section
/-!
DEFINITION. The named operations that every family shares: clock islands, the event log and event flags, message-signalled
interrupts, the physical address map, coherent reads and writes of package memory, and synchronisation objects.
-/

namespace Sys2Proof.Machine

/-! Clock islands (01 R26 to R29) -/

/-- The supply group of an island. -/
def Chip.groupOf (c : Chip) (src : Nat) : GroupClk := tabGet GroupClk.fresh c.clk.grp (islandGroup src)

/-- The island of a source identifier. -/
def Chip.island (c : Chip) (src : Nat) : Island := tabGet (Island.fresh src (c.groupOf src)) c.clk.isl src

/-- Model time as an island sees it: it stands while the island's supply group has no power. -/
def Chip.nowFor (c : Chip) (src : Nat) : Nat :=
  match (c.groupOf src).stop with
  | some t => min c.clk.now t
  | none => c.clk.now

/-- The counter of an island (R26): it runs while the island has power; in a supply droop its clock is stretched by an amount that the
specification does not give (18 R470). -/
def Chip.count (c : Chip) (src : Nat) : Nat :=
  let i := c.island src
  let n := i.mhz * (c.nowFor src - i.since) / 25
  if i.on then (i.base + (if i.stretched then min n (Config.stretched src i.base n) else n)) % 2 ^ 64 else i.base

/-- The restart count of an island. -/
def Chip.restarts (c : Chip) (src : Nat) : Nat := (c.island src).restarts

/-- One island changed. -/
def Chip.setIsland (c : Chip) (src : Nat) (i : Island) : Chip :=
  c.modClk (fun k => { k with isl := tabSet k.isl src i })

/-- An island's clock moved to another frequency; its counter goes on from where it stands (01 R26). -/
def Chip.setClock (c : Chip) (src mhz : Nat) : Chip :=
  c.setIsland src { c.island src with base := c.count src, since := c.clk.now, mhz := mhz }

/-- Power removed from an island: its counter stops (01 R26). -/
def Chip.islandOff (c : Chip) (src : Nat) : Chip :=
  if (c.island src).on then c.setIsland src { c.island src with base := c.count src, on := false } else c

/-- Power returned to an island: its counter restarts and its restart count rises by one modulo 256 (01 R26). -/
def Chip.islandOn (c : Chip) (src : Nat) : Chip :=
  let n := ((c.island src).restarts + 1) % 256
  if (c.island src).on then c
  else c.setIsland src { c.island src with base := islandStart src n, since := c.clk.now, on := true, restarts := n }

/-- Time passes until an island's counter stands at `due` or beyond (assumption 11). -/
def Chip.passTo (c : Chip) (src due : Nat) : Chip :=
  let i := c.island src
  if i.on && decide (c.count src < due) && decide (0 < i.mhz) then
    c.modClk (fun k => { k with now := k.now + ceilDiv ((due - c.count src) * 25) i.mhz })
  else c

/-- The dispatch complex (01 Table 1.5). -/
def srcDispatch : Nat := 0x7000
/-- The power controller. -/
def srcPower : Nat := 0x8000
/-- The management controller. -/
def srcMgmt : Nat := 0x9000
/-- The fabric die. -/
def srcFabric : Nat := 0x5000
/-- The network-on-chip of a die. -/
def srcNoc (die : Nat) : Nat := 0x2000 + die
/-- A physical tile. -/
def srcTile (t : Nat) : Nat := 0x1000 + t
/-- A ledge engine. -/
def srcLedge (e : Nat) : Nat := 0x3000 + e
/-- A host core. -/
def srcCore (k : Nat) : Nat := 0x4000 + k
/-- A die-to-die link PHY. -/
def srcPhy (l : Nat) : Nat := 0x6000 + l

/-- The dispatch complex counter. -/
def Chip.dispatch (c : Chip) : Nat := c.count srcDispatch

/-! Setup registers (21 R513) -/

/-- A register of the bank. -/
def Chip.rw (c : Chip) (off : Nat) : Nat := tabGet (regReset off) c.regs off

/-- A field of a register of the bank. -/
def Chip.rf (c : Chip) (off hi lo : Nat) : Nat := bits (c.rw off) hi lo

/-- A register of the bank set. -/
def Chip.setReg (c : Chip) (off x : Nat) : Chip := c.modRegs (fun r => tabSet r off (x % 2 ^ 64))

/-- A field of a register of the bank set. -/
def Chip.setRf (c : Chip) (off hi lo x : Nat) : Chip := c.setReg off (putBits (c.rw off) lo (hi + 1 - lo) x)

/-! Message-signalled interrupts (12 R326) -/

/-- The state of a host core. -/
def Chip.coreSt (c : Chip) (k : Nat) : CoreSt := tabGet .active c.irq.core k

/-- The identities pending in an interrupt file. -/
def Chip.pendingIds (c : Chip) (core file : Nat) : List Nat := tabGet [] c.irq.pending (8 * core + file)

/-- A write of an identity to seteipnum of a file (12 R326): identity 0 and those above 2,047 have no effect, page 7 is
reserved. An interrupt wakes a GATED core (18 Table 18.1); the files of a core in OFF drop it and count it (18 R463). -/
def Chip.msi (c : Chip) (core file ident : Nat) : Chip :=
  if ident = 0 ∨ 2047 < ident ∨ 63 < core ∨ 6 < file then c
  else if c.coreSt core = .off then
    c.modIrq (fun q => { q with dropped := tabSet q.dropped core (tabGet 0 q.dropped core + 1) })
  else c.modIrq (fun q =>
    { q with
      pending := tabSet q.pending (8 * core + file) (setIns (tabGet [] q.pending (8 * core + file)) ident)
      core := if tabGet .active q.core core = .gated then tabSet q.core core .active else q.core })

/-! Event flags (21 R519, R520) -/

/-- The flags that are set and enabled. -/
def LogState.live (l : LogState) : Nat := l.gevent &&& l.geventEn

/-- The MSI of GINT to the machine file of its core (21 R520). -/
def Chip.gint (c : Chip) : Chip := c.msi c.log.gintCore 0 c.log.gintId

/-- Flag `e` of GEVENT set: its count rises, and an MSI goes out when GEVENT AND GEVENT_EN leaves zero
(21 R519, R520). -/
def Chip.setGevent (c : Chip) (e : Nat) : Chip :=
  let d := c.modLog (fun l =>
    { l with gevent := l.gevent ||| 2 ^ e, gevcnt := tabSet l.gevcnt e ((tabGet 0 l.gevcnt e + 1) % 2 ^ 32) })
  if c.log.live = 0 ∧ d.log.live ≠ 0 then d.gint else d

/-! The physical address map (08 R199, R200) -/

/-- The capacity of the DDR5 tier (08 R200). -/
def Mem.ddrCap (m : Mem) : Nat := m.ddrMods * m.ddrModGB * 2 ^ 30

/-- The address lies in the window of an HBM stack. -/
def inHbm (pa : Nat) : Bool := decide (0x100000000000 ≤ pa) && decide (pa < 0x118000000000)

/-- The stack of an address in the HBM windows. -/
def stackOf (pa : Nat) : Nat := (pa - 0x100000000000) / 0x2000000000

/-- The offset of an address in its stack's window. -/
def stackOff (pa : Nat) : Nat := (pa - 0x100000000000) % 0x2000000000

/-- The address is backed by memory (08 Table 8.1). -/
def Mem.backed (m : Mem) (pa : Nat) : Bool :=
  (decide (pa < m.ddrCap) && decide (pa < 0x040000000000)) || (inHbm pa && decide (stackOff pa < 0x1400000000))

/-- A byte range is backed throughout. -/
def Mem.backedN (m : Mem) (pa n : Nat) : Bool :=
  n == 0 || (m.backed pa && m.backed (pa + n - 1) && (inHbm pa == inHbm (pa + n - 1)) &&
    (!inHbm pa || stackOf pa == stackOf (pa + n - 1)))

/-- What lies at a physical address (08 Table 8.1, 12 Table 12.2 and R320). -/
inductive AddrPlace where
  | memory | setup | pcie (port : Nat) | ecam (port : Nat) | ecamIdle | imsic | bar | unbacked
deriving DecidableEq, Repr

/-- The root port whose part of a controller's window or configuration range an offset falls in, by the controller's arrangement
(12 R320; 0: ×8, 1: 2 × ×4, 2: ×16 on the lower-numbered controller, 3: joined partner, 4: disabled): `none` where no port uses it. -/
def pciePort (arr : List Nat) (k off size : Nat) : Option Nat :=
  match arr.getD k 4 with
  | 0 | 2 => some (2 * k)
  | 1 => some (2 * k + if off < size / 2 then 0 else 1)
  | _ => none

/-- What lies at an address of the upper ranges. -/
def Chip.windowOf (c : Chip) (pa : Nat) : AddrPlace :=
  if pa < 0xF00000000000 ∨ 2 ^ 48 ≤ pa then .unbacked
  else if pa < 0xF80000000000 then .setup
  else if pa < 0xFC0000000000 then
    match pciePort c.boot.pcie ((pa - 0xF80000000000) / 2 ^ 40) (pa % 2 ^ 40) (2 ^ 40) with
    | some p => .pcie p
    | none => .pcie (2 * ((pa - 0xF80000000000) / 2 ^ 40))
  else if pa < 0xFC0040000000 then
    match pciePort c.boot.pcie ((pa - 0xFC0000000000) / 2 ^ 28) (pa % 2 ^ 28) (2 ^ 28) with
    | some p => .ecam p
    | none => .ecamIdle
  else if 0xFD0000000000 ≤ pa ∧ pa < 0xFD0000200000 then .imsic
  else if 0xFE0000000000 ≤ pa ∧ pa < 0xFE0020000000 ∧ c.boot.manager then .bar
  else .unbacked

/-- What lies at a physical address. -/
def Chip.placeOf (c : Chip) (pa : Nat) : AddrPlace := if c.mem.backed pa then .memory else c.windowOf pa

/-- The die code of a backed line's home (08 R202). -/
def homeOf (pa : Nat) : Nat := if inHbm pa then stackOf pa / 3 else 4

/-- The xor fold of 08 R203, over `fuel` fields. -/
def foldXor (w : Nat) : Nat → Nat → Nat → Nat
  | 0, _, acc => acc
  | fuel + 1, x, acc => foldXor w fuel (x / 2 ^ w) (acc ^^^ (x % 2 ^ w))

/-- The channel field of an offset (08 R203). -/
def chanField (o w : Nat) : Nat := foldXor w 20 (o / 256) 0

/-- The channel index of a backed address: 32s + c for HSs.Cc, 384 + c for DCc (21 R529, 08 Table 8.2). -/
def Mem.chanOf (m : Mem) (pa : Nat) : Nat :=
  if inHbm pa then 32 * stackOf pa + chanField (stackOff pa) 5
  else if m.ddrMods = 8 then 384 + 2 * chanField pa 3 else 384 + chanField pa 4

/-- The channel-local address of a backed address (08 R203). -/
def Mem.localOf (m : Mem) (pa : Nat) : Nat :=
  let o := if inHbm pa then stackOff pa else pa
  let w := if inHbm pa then 5 else if m.ddrMods = 8 then 3 else 4
  o / 2 ^ (8 + w) * 256 + o % 256

/-- The ledge engine of a channel (08 R202). -/
def ledgeOfChan (ch : Nat) : Nat := if ch < 384 then ch / 32 * 16 + ch % 32 / 2 else 192 + (ch - 384)

/-! Memory channels (08) -/

/-- A memory channel. -/
def Chip.chanAt (c : Chip) (ch : Nat) : Chan := tabGet Chan.fresh c.chan ch

/-- A memory channel set. -/
def Chip.setChan (c : Chip) (ch : Nat) (x : Chan) : Chip := c.modChan (fun t => tabSet t ch x)

/-- The island that logs a channel's events: its ledge engine (R222). -/
def chanSrc (ch : Nat) : Nat := srcLedge (ledgeOfChan ch)

/-- The channel's banks (R217). -/
def chanBanks (ch : Nat) : Nat := if ch < 384 then 32 else 64

/-- The stack or tier of a channel is in self-refresh (18 Table 18.1, 21 Table 21.7). -/
def Chip.asleep (c : Chip) (ch : Nat) : Bool := if ch < 384 then bit (c.rw 0x400070) (ch / 32) else bit (c.rw 0x400070) 12

/-- The bank of a line has reached RAAMMT: it accepts no activation until an RFM has lowered its count (08 R216, R219). -/
def Chip.bankFull (c : Chip) (ch bank : Nat) : Bool :=
  let n := tabGet 0 (c.chanAt ch).acts bank
  decide (0 < n) && decide (Config.raammt ch ≤ n)

/-- The bank of a line. -/
def Mem.bankOf (m : Mem) (ln : Nat) : Nat :=
  let ch := m.chanOf (64 * ln)
  Config.bankOf ch (m.localOf (64 * ln) / 64) % chanBanks ch

/-- The channel of a line accepts a request for it now (08 R219, R220). -/
def Chip.accepts (c : Chip) (ln : Nat) : Bool :=
  let ch := c.mem.chanOf (64 * ln)
  !c.asleep ch && !c.bankFull ch (c.mem.bankOf ln)

/-! The event log (18 R479, 00 R545, 01 R29) -/

/-- The bytes of an event entry: the first 16 bytes of Table 18.4 with KIND 0xE0, the code at bytes 20–21, and a payload
whose places the specification leaves open (assumption 8). -/
def Event.bytes (e : Event) (period : Nat) : List Byte :=
  leBytes 2 e.src ++ leBytes 1 e.restarts ++ leBytes 1 0xE0 ++ leBytes 4 period ++ leBytes 8 e.count ++
  (List.range 4).map (fun i => BitVec.ofNat 8 (Config.eventByte e.code.index (e.suppressed :: e.args) (16 + i))) ++
  leBytes 2 (Config.eventCode e.code.index) ++
  (List.range 42).map (fun i => BitVec.ofNat 8 (Config.eventByte e.code.index (e.suppressed :: e.args) (22 + i)))

/-- Plain bytes stored in memory itself, below every cache: full lines lose their poison. -/
def Mem.storeRaw (m : Mem) (pa : Nat) (bs : List Byte) : Mem :=
  { m with bytes := m.bytes.writeN pa bs }

/-- The latest 1,024 entries, newest first (18 R479). -/
def keepLatest (e : Event) (l : List Event) : List Event := (e :: l).take 1024

/-! Coherent access to package memory (09 R227 to R238) -/

/-- The owner's copy was read before memory's line was found uncorrectable (09 R232). -/
def DirEnt.ownerClean (e : DirEnt) : Bool := match e.owner with | some o => e.clean.contains o | none => false

/-- The bytes of a line as every reader sees them, and its poison: the owner's copy where there is one. -/
def Mem.line (m : Mem) (ln : Nat) : List Byte × Bool :=
  match tabFind m.dir ln with
  | some e => if e.data.isEmpty then (m.bytes.readN (64 * ln) 64, setHas m.poison ln && !e.ownerClean) else (e.data, e.poison)
  | none => (m.bytes.readN (64 * ln) 64, setHas m.poison ln)

/-- One byte as every reader sees it (09 R229 ReadOnce). -/
def Mem.readB (m : Mem) (pa : Nat) : Byte :=
  match tabFind m.dir (pa / 64) with
  | some e => if e.data.isEmpty then m.bytes.read pa else e.data.getD (pa % 64) 0
  | none => m.bytes.read pa

/-- `n` bytes as every reader sees them. -/
def Mem.readN (m : Mem) (pa : Nat) : Nat → List Byte
  | 0 => []
  | n + 1 => m.readB pa :: Mem.readN m (pa + 1) n

/-- A little-endian field read coherently. -/
def Mem.readLE (m : Mem) (pa n : Nat) : Nat := leVal (m.readN pa n)

/-- The line is poisoned as every reader sees it. -/
def Mem.poisonedLine (m : Mem) (ln : Nat) : Bool := (m.line ln).2

/-- Some line of a byte range is poisoned. -/
def Mem.poisonedN (m : Mem) (pa n : Nat) : Bool :=
  n != 0 && (List.range ((pa + n - 1) / 64 - pa / 64 + 1)).any (fun i => m.poisonedLine (pa / 64 + i))

/-- The owner's data returned to memory (09 R228 WriteBack, R229 recall); the filter entry stays. -/
def Mem.flush (m : Mem) (ln : Nat) : Mem :=
  match tabFind m.dir ln with
  | some e =>
    if e.data.isEmpty then (if e.ownerClean then { m with poison := setDel m.poison ln } else m)
    else { m with bytes := m.bytes.writeN (64 * ln) e.data, poison := setPut m.poison [ln] e.poison }
  | none => m

/-- What the core that owns a line in M or E has made of it by now: a store into a line that it owns is no transaction at the home, so
whether it has stored, its bytes and their poison are free (09 R227; DESIGN CHOICE, assumption 104). -/
def Mem.driftLine (m : Mem) (ln : Nat) : Mem :=
  match tabFind m.dir ln with
  | some e =>
    if e.owner.any (fun o => decide (o < 64)) && (e.st == .m || (e.st == .e && Config.ownerWrote m.serial ln)) then
      { m with
        dir := tabSet m.dir ln
          { e with st := .m, data := (List.range 64).map (Config.ownerByte m.serial ln), poison := Config.ownerPoison m.serial ln }
        serial := m.serial + 1 }
    else m
  | none => m

/-- The same for every line that a core owns. -/
def Mem.drift (m : Mem) : Mem := m.dir.foldl (fun d p => d.driftLine p.1) m

/-- Every cached copy of a line goes to I, without data. -/
def Mem.drop (m : Mem) (ln : Nat) : Mem := { m with dir := tabDel m.dir ln }

/-- A WriteFull of a line at its home, without a hint (09 Table 9.4, 08 R212). -/
def Mem.putLine (m : Mem) (ln : Nat) (bs : List Byte) (poison : Bool) : Mem :=
  let d := m.drop ln
  { d with bytes := d.bytes.writeN (64 * ln) bs, poison := setPut d.poison [ln] poison }

/-- A WritePartial of bytes within a line at its home, without a hint: the owner's data is recalled and merged, and the
line stays poisoned if it was (09 Table 9.4, 08 R212). -/
def Mem.mergeLine (m : Mem) (pa : Nat) (bs : List Byte) (poison : Bool) : Mem :=
  let d := (m.flush (pa / 64)).drop (pa / 64)
  { d with bytes := d.bytes.writeN pa bs, poison := if poison then setIns d.poison (pa / 64) else d.poison }

/-- One write within one line. -/
def Mem.putChunk (m : Mem) (pa : Nat) (bs : List Byte) (poison : Bool) : Mem :=
  if bs.length = 64 then m.putLine (pa / 64) bs poison else m.mergeLine pa bs poison

/-- The pieces of a write, line by line. -/
def lineChunks : Nat → Nat → List Byte → List (Nat × List Byte)
  | 0, _, _ => []
  | fuel + 1, pa, bs =>
    if bs.isEmpty then []
    else
      let k := 64 - pa % 64
      (pa, bs.take k) :: lineChunks fuel (pa + k) (bs.drop k)

/-- The pieces of a write of `bs` at `pa`. -/
def chunksOf (pa : Nat) (bs : List Byte) : List (Nat × List Byte) := lineChunks (bs.length / 64 + 2) pa bs

/-- A coherent write without a hint. -/
def Mem.store (m : Mem) (pa : Nat) (bs : List Byte) (poison : Bool) : Mem :=
  (chunksOf pa bs).foldl (fun d ch => d.putChunk ch.1 ch.2 poison) m

/-- The slice of the last-level cache that a line lies in (12 R318): LS0 to LS31. -/
def sliceOf (pa : Nat) : Nat := foldXor 5 10 (pa % 2 ^ 52 / 64) 0

/-- The lines that a cache holds at most (09 Table 9.1): an L2 2 MiB, a slice 4 MiB, a die cache 32 MiB. -/
def cacheLines (h : Nat) : Nat := if h < 64 then 32768 else if h = 64 then 65536 else 524288

/-- A cache holds a line. -/
def DirEnt.heldBy (e : DirEnt) (h : Nat) : Bool := e.owner == some h || e.sharers.contains h

/-- The lines that compete for the room of a cache with a line: all that it holds, or those of the same slice (12 R318). -/
def Mem.cached (m : Mem) (h ln : Nat) : List Nat :=
  (m.dir.filter (fun p => p.2.heldBy h && (h != 64 || sliceOf (64 * p.1) == sliceOf (64 * ln)))).map (·.1)

/-- The oldest idle entry among some lines (09 R234). -/
def Mem.victim (m : Mem) (lines : List Nat) : Option Nat :=
  lines.foldl (fun best ln =>
    if (tabFind m.busy ln).isSome then best
    else match best with
      | none => some ln
      | some b =>
        match tabFind m.dir ln, tabFind m.dir b with
        | some x, some y => if x.order < y.order then some ln else best
        | _, _ => best) none

/-- The sets of a home's snoop filter (09 Table 9.5). -/
def filterSets (home : Nat) : Nat := if home < 4 then 131072 else 262144

/-- The lines with an entry in the filter set of a line (09 R233). -/
def Mem.sameSet (m : Mem) (ln : Nat) : List Nat :=
  let h := homeOf (64 * ln)
  let set := fun (l : Nat) => Config.filterSet h l % filterSets h
  (m.dir.filter (fun e => homeOf (64 * e.1) == h && set e.1 == set ln)).map (·.1)

/-- The filter set of a line has its entry, a free way, or an entry that can be evicted (09 R234). -/
def Mem.hasRoom (m : Mem) (ln : Nat) : Bool :=
  (tabFind m.dir ln).isSome || decide ((m.sameSet ln).length < 16) || (m.victim (m.sameSet ln)).isSome

/-- Room made in the filter set of a line: a full set evicts its least recently allocated idle entry and back-invalidates
that line, whose owner's data returns to memory (09 R233, R234). -/
def Mem.makeRoom (m : Mem) (ln : Nat) : Mem :=
  let h := homeOf (64 * ln)
  if (tabFind m.dir ln).isSome || decide ((m.sameSet ln).length < 16) then m
  else match m.victim (m.sameSet ln) with
    | none => m
    | some v =>
      let d := ((m.driftLine v).flush v).drop v
      { d with sfBackinv := tabSet d.sfBackinv h (tabGet 0 d.sfBackinv h + 1), resv := d.resv.filter (fun p => p.2 != v) }

/-- A holder of a line gone to I without data (09 R228). -/
def Mem.leave (m : Mem) (ln h : Nat) : Mem :=
  match tabFind m.dir ln with
  | some e =>
    let o := if e.owner = some h then none else e.owner
    let s := e.sharers.filter (· != h)
    if o.isNone ∧ s.isEmpty then m.drop ln
    else { m with dir := tabSet m.dir ln { e with owner := o, sharers := s, data := if o.isNone then [] else e.data } }
  | none => m

/-- Room made in a cache for a line that it does not hold: a full cache evicts an idle line by its own replacement policy (09 R228, R237),
which the specification leaves to it. -/
def Mem.evictFor (m : Mem) (ln h : Nat) : Mem :=
  let held := (m.cached h ln).filter (fun l => (tabFind m.busy l).isNone)
  if (m.cached h ln).contains ln || decide ((m.cached h ln).length < cacheLines h) then m
  else match held[Config.cacheVictim h m.dirSeq % held.length]? with
    | none => m
    | some v => (if (tabFind m.dir v).any (fun e => e.owner == some h) then (m.driftLine v).flush v else m).leave v h

/-- A filter entry set, allocated if it is new (09 R233). -/
def Mem.setEnt (m : Mem) (ln : Nat) (e : DirEnt) : Mem :=
  match tabFind m.dir ln with
  | some old => { m with dir := tabSet m.dir ln { e with order := old.order } }
  | none =>
    let d := m.makeRoom ln
    { d with dir := tabSet d.dir ln { e with order := d.dirSeq }, dirSeq := d.dirSeq + 1 }

/-- A write hint that Table 9.6 gives a meaning: its KIND and the holder index of its target. -/
def hintTarget (hint : Nat) : Option (Nat × Nat) :=
  let kind := bits hint 15 14
  let tgt := bits hint 9 0
  if kind = 0 ∨ kind = 3 ∨ bits hint 13 10 ≠ 0 then none
  else if tgt ≤ 0x40 then some (kind, tgt)
  else if 0x80 ≤ tgt ∧ tgt ≤ 0x83 then some (kind, 65 + (tgt - 0x80))
  else none

/-- A line whose new content and poison are known delivered to a hint's target (09 R237). -/
def Mem.deliver (m : Mem) (ln : Nat) (new : List Byte) (np : Bool) (kind target : Nat) : Mem :=
  let keeps := (tabFind m.dir ln).any (fun e => e.heldBy target)
  let x := (if keeps then m else m.drop ln).evictFor ln target
  if kind = 1 then x.setEnt ln { DirEnt.sole target .m new np with offered := true }
  else
    { x with bytes := x.bytes.writeN (64 * ln) new, poison := setPut x.poison [ln] np }.setEnt ln
      { DirEnt.sole target .e [] np with offered := true }

/-- A hinted write within one line (09 R237): the new line goes to the target in M without memory being written, or is
written to memory and goes to the target in E. -/
def Mem.hintChunk (m : Mem) (pa : Nat) (bs : List Byte) (poison : Bool) (kind target : Nat) : Mem :=
  let ln := pa / 64
  let old := m.line ln
  let off := pa % 64
  let new := if bs.length = 64 then bs else old.1.take off ++ bs ++ old.1.drop (off + bs.length)
  let np := if bs.length = 64 then poison else poison || old.2
  m.deliver ln new np kind target

/-- The new content of a line after a masked write: the offsets and bytes written, later ones winning. -/
def maskLine (old : List Byte) (ps : List (Nat × Byte)) : List Byte := ps.foldl (fun l p => l.set p.1 p.2) old

/-- A masked write writes every byte of its line. -/
def maskFull (ps : List (Nat × Byte)) : Bool := (List.range 64).all (fun i => ps.any (fun p => p.1 == i))

/-- A masked write of a line, with or without a hint. -/
def Mem.maskWrite (m : Mem) (ln : Nat) (ps : List (Nat × Byte)) (poison : Bool) (hint : Option (Nat × Nat)) : Mem :=
  let old := m.line ln
  let new := maskLine old.1 ps
  let np := poison || (!maskFull ps && old.2)
  match hint with
  | some (k, t) => m.deliver ln new np k t
  | none => m.putLine ln new np

/-- A read by a cache through ReadShared (09 Table 9.4): the requester ends in E when nobody else holds the line, and in S
otherwise; an owner in M goes to O and one in E to S. -/
def Mem.share (m : Mem) (ln h : Nat) : Mem :=
  let x := m.evictFor ln h
  match tabFind x.dir ln with
  | none => x.setEnt ln (DirEnt.sole h .e [] false)
  | some e =>
    if e.heldBy h then m
    else
      match e.owner, e.st with
      | some o, .e =>
        x.setEnt ln { e with owner := none, sharers := setIns (setIns e.sharers o) h, clean := if e.clean.contains o then setIns e.clean h else e.clean }
      | some _, _ => x.setEnt ln { e with st := .o, sharers := setIns e.sharers h }
      | none, _ => x.setEnt ln { e with sharers := setIns e.sharers h }

/-- The targets that can take a line: not the L2 of a core whose power is removed (09 R238). -/
def Chip.hintUsable (c : Chip) (hint : Nat) : Option (Nat × Nat) :=
  match hintTarget hint with
  | some (k, t) => if t < 64 ∧ c.coreSt t = .off then none else some (k, t)
  | none => none

/-- The command in progress is the one that waits first for a line (assumption 103), or none waits for it. -/
def Mem.turn (m : Mem) (ln : Nat) : Bool :=
  match tabGet [] m.waitq ln with
  | [] => true
  | q :: _ => q.kind == .held && m.retry == some q.agent

/-- The home of a line can serve an access now: no transaction is in progress or waits on it (09 R225), its channel accepts requests
(08 R219, R220), and the filter has room where the access allocates an entry (09 R234). -/
def Chip.ready (c : Chip) (ln : Nat) (alloc : Bool) : Bool :=
  (tabFind c.mem.busy ln).isNone && c.mem.turn ln && c.accepts ln && (!alloc || c.mem.hasRoom ln)

/-- The command in progress accesses some lines: those that their homes cannot serve now are noted, and the command waits (assumption
103). -/
def Chip.meet (c : Chip) (lines : List Nat) (alloc : Bool) : Chip :=
  match lines.filter (fun ln => !c.ready ln alloc) with
  | [] => c
  | l => c.modMem (fun m => { m with met := l.foldl setIns m.met })

/-- The lines of a byte range. -/
def rangeLines (pa n : Nat) : List Nat := if n = 0 then [] else (List.range ((pa + n - 1) / 64 - pa / 64 + 1)).map (fun i => pa / 64 + i)

/-- A hint that is dropped for a write of a line is counted at the line's home (09 R238). -/
def Mem.hintLost (m : Mem) (ln hint : Nat) : Mem :=
  if bits hint 15 14 = 0 then m
  else
    let h := homeOf (64 * ln)
    { m with hintDropped := tabSet m.hintDropped h (tabGet 0 m.hintDropped h + 1) }

/-- A coherent write with a hint, line by line; a hint that cannot be used is dropped and counted (09 R237, R238). -/
def Chip.storeHint (c : Chip) (pa : Nat) (bs : List Byte) (poison : Bool) (hint : Nat) : Chip :=
  let d := c.meet (rangeLines pa bs.length) (c.hintUsable hint).isSome
  match c.hintUsable hint with
  | some (k, t) => d.modMem (fun m => (chunksOf pa bs).foldl (fun d ch => d.hintChunk ch.1 ch.2 poison k t) m)
  | none => d.modMem (fun m => (rangeLines pa bs.length).foldl (fun x ln => x.hintLost ln hint) (m.store pa bs poison))

/-- Bytes read by an agent without a cache, and whether some line of them is poisoned: an owner answers with what it has (09 R229
ReadOnce). -/
def Chip.fetchN (c : Chip) (pa n : Nat) : Chip × List Byte × Bool :=
  let d := (c.meet (rangeLines pa n) false).modMem (fun m => (rangeLines pa n).foldl Mem.driftLine m)
  (d, d.mem.readN pa n, d.mem.poisonedN pa n)

/-- A write of the power controller's own within a line: made now, or queued at the home behind the line's earlier requests (09 R225). -/
def Chip.postChunk (c : Chip) (pa : Nat) (bs : List Byte) : Chip :=
  let ln := pa / 64
  if (tabFind c.mem.busy ln).isNone && (tabGet [] c.mem.waitq ln).isEmpty && c.accepts ln then c.modMem (fun m => m.putChunk pa bs false)
  else
    let q : Txn := { kind := .posted, agent := srcPower, data := bs.zipIdx.map (fun p => (pa % 64 + p.2, p.1)), poison := false
                     hint := 0, own := none, err := .none, op := none, use := none, snooped := [] }
    c.modMem (fun m => { m with waitq := tabSet m.waitq ln (tabGet [] m.waitq ln ++ [q]) })

/-- A write of the power controller's own: log entries and telemetry (18 R476, R479). -/
def Chip.post (c : Chip) (pa : Nat) (bs : List Byte) : Chip := (chunksOf pa bs).foldl (fun d ch => d.postChunk ch.1 ch.2) c

/-! Logging -/

/-- The entry's bytes appended to the event log ring, or the entry counted as lost (18 R479); and whether the entry fell on an unbacked
address, where it is dropped (21 R525). -/
def Chip.ringPut (c : Chip) (e : Event) : Chip × Option Nat :=
  let l := c.log
  if l.logBase = 0 ∨ l.logEn = false then (c, none)
  else if sub32 l.tail l.head = 2 ^ l.logLog2 then
    ((c.modLog (fun k => { k with lost := min (k.lost + 1) (2 ^ 32 - 1) })).setGevent 8, none)
  else
    let pa := l.logBase + 64 * (l.tail % 2 ^ l.logLog2)
    let rep : Event := { e with args := e.args ++ (if l.lost = l.lostReported then [] else [l.lost - l.lostReported]) }
    let d := c.modLog (fun k => { k with tail := (k.tail + 1) % 2 ^ 32, lostReported := k.lost })
    if c.mem.backed pa then (d.post pa (rep.bytes l.period), none) else (d, some pa)

/-- The window of an event that is logged at most once for its key in each interval (00 R545): a later event of the window is counted;
the first one is to be logged, with the number of those that were suppressed before it. -/
def Chip.winNote (c : Chip) (code : Ev) (key : List Nat) (w : Nat) : Chip × Option Nat :=
  match c.log.wins.find? (fun x => x.code == code && x.key == key) with
  | some x =>
    let rest := c.log.wins.filter (fun y => !(y.code == code && y.key == key))
    if x.window = w then
      (c.modLog (fun l => { l with wins := { x with suppressed := x.suppressed + 1 } :: rest }), none)
    else (c.modLog (fun l => { l with wins := { x with window := w, suppressed := 0 } :: rest }), some x.suppressed)
  | none => (c.modLog (fun l => { l with wins := { code := code, key := key, window := w, suppressed := 0 } :: l.wins }), some 0)

/-- An entry formed by an island (01 R29). -/
def Chip.eventOf (c : Chip) (code : Ev) (src : Nat) (args : List Nat) (suppressed : Nat) : Event :=
  { code := code, src := src, restarts := c.restarts src, count := c.count src, args := args, suppressed := suppressed }

/-- An entry that the management controller keeps (18 R479). -/
def Chip.hold (c : Chip) (e : Event) : Chip := c.modLog (fun l => { l with held := keepLatest e l.held })

/-- An entry written to the ring; one that falls on an unbacked address is dropped and logs ADDR_UNBACKED for the power controller, whose
own entry goes to the next slot (21 R525, 08 R201). -/
def Chip.ringEvent (c : Chip) (e : Event) : Chip :=
  let p := c.ringPut e
  match p.2 with
  | none => p.1
  | some pa =>
    let n := p.1.winNote .addrUnbacked [srcPower] (c.dispatch / 1000000)
    match n.2 with
    | none => n.1
    | some k =>
      let x := n.1.eventOf .addrUnbacked (srcNoc (if inHbm pa then stackOf pa / 3 else 4)) [pa, srcPower] k
      ((n.1.hold x).ringPut x).1

/-- An event entry written by an island (18 R479, 01 R29). -/
def Chip.emit (c : Chip) (code : Ev) (src : Nat) (args : List Nat) (suppressed : Nat) : Chip :=
  (c.hold (c.eventOf code src args suppressed)).ringEvent (c.eventOf code src args suppressed)

/-- An event logged by an island. -/
def Chip.logEv (c : Chip) (code : Ev) (src : Nat) (args : List Nat) : Chip := c.emit code src args 0

/-- An event logged at most once for its key in each interval of `len` counts of an island's counter (00 R545). -/
def Chip.logWin (c : Chip) (code : Ev) (key : List Nat) (clockSrc len src : Nat) (args : List Nat) : Chip :=
  let n := c.winNote code key (c.count clockSrc / len)
  match n.2 with
  | none => n.1
  | some k => n.1.emit code src args k

/-- One millisecond of the dispatch complex counter. -/
def msDispatch : Nat := 1000000

/-- The refusal of an access to an unbacked address (08 R201): logged at most once per requester in each 1 ms. An access of an agent
without a cache to a window that is no memory is refused as well, and is no ADDR_UNBACKED: the specification gives it no other outcome
(DESIGN CHOICE, assumption 107). -/
def Chip.logUnbacked (c : Chip) (requester pa : Nat) : Chip :=
  if c.windowOf pa != .unbacked then c
  else c.logWin .addrUnbacked [requester] srcDispatch msDispatch (srcNoc (if inHbm pa then stackOf pa / 3 else 4)) [pa, requester]

/-- An entry of the configuration report log, also written to the event log, with its event flag (20 R510, 21 R519). -/
def Chip.cfgReport (c : Chip) (address written applied reason lsb width writer : Nat) : Chip :=
  let e : CfgEntry :=
    { address := address, written := written, applied := applied, counter := c.count (srcNoc 4),
      restarts := c.restarts (srcNoc 4), reason := reason, lsb := lsb, width := width, seq := c.log.cfgNext,
      writer := writer }
  let d := c.modLog (fun l => { l with cfg := (e :: l.cfg).take 1024, cfgNext := (l.cfgNext + 1) % 2 ^ 32 })
  let d := if c.log.logBase = 0 then d
    else d.ringEvent { code := .configReport, src := srcNoc 4, restarts := e.restarts, count := e.counter,
                       args := [address, written, applied, reason, lsb, width, e.seq, writer], suppressed := 0 }
  d.setGevent 7

/-! Checked writes of the device's own agents -/

/-- Some line of a range lies in the protected copy of the dispatch image, whose home refuses every write but the
loader's (15 R394). -/
def Chip.protectedN (c : Chip) (pa n : Nat) : Bool :=
  match c.fw.pcopy with
  | some b => decide (pa < b + 0x2000000) && decide (b < pa + n)
  | none => false

/-- Whether a write is carried out at its home: backed, and not into the protected copy. -/
def Chip.writable (c : Chip) (pa n : Nat) : Bool := c.mem.backedN pa n && !c.protectedN pa n

/-- The log entry of a refused write. -/
def Chip.logRefused (c : Chip) (requester pa n : Nat) : Chip :=
  if c.protectedN pa n then c.logEv .pcopyWrite (srcNoc 4) [pa, requester] else c.logUnbacked requester pa

/-- A write by an agent without a cache, refused and logged where no write is carried out. -/
def Chip.devWrite (c : Chip) (requester pa : Nat) (bs : List Byte) (hint : Nat) : Chip :=
  if c.writable pa bs.length then c.storeHint pa bs false hint else c.logRefused requester pa bs.length

/-! Synchronisation objects (03 R85 to R88) -/

/-- The counter of an object. -/
def Chip.soValue (c : Chip) (n : Nat) : Nat := tabGet 0 c.so.value n

/-- The owner of an object (64: none, assumption 6). -/
def Chip.soOwner (c : Chip) (n : Nat) : Nat := tabGet 64 c.so.owner n

/-- The context may operate on the object (03 R85): CTX0 on every one. -/
def Chip.soAllowed (c : Chip) (ctx n : Nat) : Bool := decide (n < 16384) && (ctx == 0 || c.soOwner n == ctx)

/-- The wait condition: s32(counter − t) ≥ 0 (03 Table 3.9). -/
def waitHolds (counter target : Nat) : Bool := decide (sub32 counter target < 2 ^ 31)

/-- A physical tile as it stands. -/
def Chip.tileAt (c : Chip) (t : Nat) : Tile := tabGet (Tile.fresh t) c.tile t

/-- One physical tile set. -/
def Chip.setTile (c : Chip) (t : Nat) (v : Tile) : Chip := c.modTile (fun k => tabSet k t v)

/-- A general register; X0 reads as zero (03 R64). -/
def Tile.xr (v : Tile) (r : Nat) : Nat := if r = 0 then 0 else tabGet 0 v.x r

/-- A general register written; a write of X0 is discarded (03 R64). -/
def Tile.setX (v : Tile) (r n : Nat) : Tile := if r = 0 then v else { v with x := tabSet v.x r (n % 2 ^ 64) }

/-- The wake of a waiting tile (07 R187): SOWAIT returns with the satisfying value and issue goes on. -/
def Tile.wake (v : Tile) (value : Nat) (timedOut : Bool) : Tile :=
  match v.blocked with
  | some (.sowait rd _ _ _) =>
    let w := v.setX rd (value % 2 ^ 32 + if timedOut then 2 ^ 63 else 0)
    { w with blocked := none, pc := v.pc + 8 }
  | _ => v

/-- The committed wake of one waiter (03 R87). -/
def Chip.wakeOne (c : Chip) (value : Nat) (w : SoWait) : Chip :=
  match w.who with
  | .tile t => c.setTile t ((c.tileAt t).wake value false)
  | .fw key => c.modSo (fun s => { s with woken := tabSet s.woken key value })

/-- An object's counter set, and every registered wait evaluated: those whose condition holds wake (03 R87). -/
def Chip.soPut (c : Chip) (n v : Nat) : Chip :=
  let value := v % 2 ^ 32
  let sat := c.so.waits.filter (fun w => w.so == n && waitHolds value w.target)
  let d := c.modSo (fun s =>
    { s with value := tabSet s.value n value
             waits := s.waits.filter (fun w => !(w.so == n && waitHolds value w.target)) })
  sat.foldl (fun e w => e.wakeOne value w) d

/-- SIGNAL v at the home (03 Table 3.9). -/
def Chip.soSignal (c : Chip) (n v : Nat) : Chip := c.soPut n (c.soValue n + v)

/-- SIGNAL or SET at the home, which a context that does not own the object is refused (03 R85, R86). -/
def Chip.soApply (c : Chip) (ctx n v : Nat) (set : Bool) : Chip :=
  if c.soAllowed ctx n then (if set then c.soPut n v else c.soSignal n v) else c

/-- An object assigned to a context, or unassigned (64), with its counter reset as a SET 0 (03 R85). -/
def Chip.soAssign (c : Chip) (n ctx : Nat) : Chip :=
  (c.modSo (fun s => { s with owner := tabSet s.owner n ctx })).soPut n 0

/-- The registrations of a waiter withdrawn (03 R88). -/
def Chip.soWithdraw (c : Chip) (w : Waiter) : Chip :=
  c.modSo (fun s => { s with waits := s.waits.filter (fun x => x.who != w) })

/-- The firmware waits registered at a home (03 R88: at most 256). -/
def Chip.fwWaits (c : Chip) (die : Nat) : Nat :=
  (c.so.waits.filter (fun w => w.so / 4096 == die && (match w.who with | .fw _ => true | .tile _ => false))).length

/-! The tile map and contexts -/

/-- The physical tile of a logical tile; 200 means ABSENT (01 R22). -/
def Chip.physOf (c : Chip) (j : Nat) : Nat := tabGet (freshPhys j) c.tmap.phys j

/-- The logical tile that a physical tile serves, if any. -/
def Chip.logicalOf (c : Chip) (t : Nat) : Option Nat :=
  ((List.range 48).map (fun i => t / 50 * 48 + i)).find? (fun j => c.physOf j == t)

/-- The generation of a logical tile (03 R62). -/
def Chip.genOf (c : Chip) (j : Nat) : Nat := tabGet 0 c.tmap.gen j

/-- The generation of the logical tile that a physical tile serves. -/
def Chip.tileGen (c : Chip) (t : Nat) : Nat :=
  match c.logicalOf t with
  | some j => c.genOf j
  | none => 0

/-- A context as it stands. -/
def Chip.ctxAt (c : Chip) (k : Nat) : CtxEnt := tabGet (CtxEnt.fresh k) c.ctx k

/-- A context set. -/
def Chip.setCtx (c : Chip) (k : Nat) (e : CtxEnt) : Chip := c.modCtx (fun t => tabSet t k e)

/-! Supply groups and the safe, talkative state (20 R500 to R506) -/

/-- Power removed from a supply group: its islands' counters stop (01 R26). -/
def Chip.groupOff (c : Chip) (g : Nat) : Chip :=
  c.modClk (fun k =>
    let s := tabGet GroupClk.fresh k.grp g
    { k with grp := tabSet k.grp g { s with stop := some (s.stop.getD k.now) } })

/-- Power returned to a supply group: its islands' counters restart from zero and their restart counts rise (01 R26); power that comes
for the first time since a cold reset is no restart (20 Table 20.7). -/
def Chip.groupOn (c : Chip) (g : Nat) : Chip :=
  c.modClk (fun k =>
    let s := tabGet GroupClk.fresh k.grp g
    let r := if s.used then 1 else 0
    let gc : GroupClk := { born := k.now, stop := none, restarts := (s.restarts + r) % 256, used := true }
    { k with
      grp := tabSet k.grp g gc
      isl := k.isl.map (fun p =>
        if islandGroup p.1 = g then (p.1, Island.fresh p.1 { gc with restarts := (p.2.restarts + r) % 256 }) else p) })

/-- The package does its work: self-test has passed and no fatal result has stopped it. -/
def Chip.live (c : Chip) : Bool := c.boot.step == 7 && !c.boot.safe

/-- The safe, talkative state (20 R505): groups 5 to 1 lose power, the ports stop signalling, and the report is rewritten.
The phase is the self-test step, or 7 in service (R506); before service the report is that of the self-test that ends here, and the
former one is kept beside it. -/
def Chip.enterSafe (c : Chip) (code detail : Nat) : Chip :=
  let d := [5, 4, 3, 2, 1].foldl (fun (e : Chip) g => e.groupOff g) c
  (d.modBoot (fun b =>
    { b with
      safe := true, en := 0, good := 0, prev := if b.step = 7 then b.prev else b.report
      report := { (if b.step = 7 then b.report else b.draft) with outcome := 2, phase := b.step, code := code, detail := detail, counter := c.count srcMgmt } })).modCxl
    (fun x => { x with l0 := false })

/-- A fatal event: logged by the island that meets it, then by the management controller with its code, and the package
enters the safe, talkative state. -/
def Chip.fatal (c : Chip) (ev : Ev) (src : Nat) (args : List Nat) (code detail : Nat) : Chip :=
  ((c.logEv ev src args).logEv .fatal srcMgmt [code, detail]).enterSafe code detail

end Sys2Proof.Machine
end

