-- ==== Sys2Proof/Machine/Operands.lean ====
section
/-!
DEFINITION. Operands: virtual addresses and their translation by Sv48 tables and TLBs, and tensor descriptors: their
layout, their rules, the places of their elements and scales, and their footprints.
-/

namespace Sys2Proof.Machine

/-! Translation (03 R82 to R84, R546) -/

/-- The outcome of a translation. -/
inductive Xlat where
  /-- The physical address, the translation used, and the table entries read on a walk. -/
  | ok (pa : Nat) (e : TlbEnt) (ptes : List Nat)
  /-- No valid translation, or A or D not set (03 Table 3.4 XLATE_FAULT); the table entries read. -/
  | invalid (ptes : List Nat)
  /-- The permission bits forbid the access (03 Table 3.4 ACCESS_FAULT); the table entries read. -/
  | denied (ptes : List Nat)
  /-- A table entry lies at an unbacked physical address (03 R546); the table entries read before it. -/
  | unbacked (pte : Nat) (ptes : List Nat)
  /-- A table entry is poisoned (03 R546); the table entries read, with that one. -/
  | poisoned (pte : Nat) (ptes : List Nat)
deriving DecidableEq, Repr

/-- The table entries that a translation has read, latest first. -/
def Xlat.ptes : Xlat → List Nat
  | .ok _ _ l => l
  | .invalid l => l
  | .denied l => l
  | .unbacked _ l => l
  | .poisoned _ l => l

/-- Bits [63:47] of a virtual address are all equal (03 Table 3.7). -/
def canonicalVa (va : Nat) : Bool := va / 2 ^ 47 == 0 || va / 2 ^ 47 == 2 ^ 17 - 1

/-- The bytes that a leaf at a level maps: 4 KiB, 2 MiB, 1 GiB, 512 GiB (03 R82). -/
def pageSize (level : Nat) : Nat := 2 ^ (12 + 9 * level)

/-- The access that a leaf's flags allow (03 R83): U and R or W, then A, and D for a write. Bit numbers are those of the
RISC-V privileged architecture (assumption 12). -/
def leafCheck (flags : Nat) (wr : Bool) (good : Xlat) : Xlat :=
  if !bit flags 4 || (if wr then !bit flags 2 else !bit flags 1) then .denied good.ptes
  else if !bit flags 6 || (wr && !bit flags 7) then .invalid good.ptes
  else good

/-- A walk from a table at `table`, level `level`, over `fuel` levels (03 R82, R83, R546). -/
def Mem.walk (m : Mem) (ctx va : Nat) (wr : Bool) : Nat → Nat → List Nat → Xlat
  | 0, _, ptes => .invalid ptes
  | level + 1, table, ptes =>
    let pa := table + 8 * bits va (20 + 9 * level) (12 + 9 * level)
    if !m.backed pa then .unbacked pa ptes
    else if m.poisonedLine (pa / 64) then .poisoned pa (pa :: ptes)
    else
      let e := m.readLE pa 8
      let ppn := bits e 53 10
      let n := bit e 63
      if !bit e 0 || bits e 60 54 ≠ 0 || (bit e 2 && !bit e 1) then .invalid (pa :: ptes)
      else if bit e 1 || bit e 2 || bit e 3 then
        let flags := bits e 7 0
        if n then
          if level = 0 ∧ ppn % 16 = 8 then
            let base := ppn / 16 * 65536
            let ent : TlbEnt := { ctx := ctx, va := va / 65536 * 65536, size := 65536, pa := base, flags := flags }
            leafCheck flags wr (.ok (base + va % 65536) ent (pa :: ptes))
          else .invalid (pa :: ptes)
        else if ppn % 2 ^ (9 * level) ≠ 0 then .invalid (pa :: ptes)
        else
          let size := pageSize level
          let ent : TlbEnt := { ctx := ctx, va := va / size * size, size := size, pa := ppn * 4096, flags := flags }
          leafCheck flags wr (.ok (ppn * 4096 + va % size) ent (pa :: ptes))
      else if n then .invalid (pa :: ptes)
      else Mem.walk m ctx va wr level (ppn * 4096) (pa :: ptes)

/-- A translation held by one of the TLBs of a unit. -/
def Chip.tlbFind (c : Chip) (units : List Nat) (ctx va : Nat) : Option TlbEnt :=
  (units.flatMap (fun u => tabGet [] c.mmu.tlb u)).find?
    (fun e => e.ctx == ctx && decide (e.va ≤ va) && decide (va < e.va + e.size))

/-- The translation of a virtual address of a context for a unit (03 R82, R83). -/
def Chip.xlate (c : Chip) (units : List Nat) (ctx va : Nat) (wr : Bool) : Xlat :=
  if !canonicalVa va then .invalid []
  else
    match c.tlbFind units ctx va with
    | some e => leafCheck e.flags wr (.ok (e.pa + (va - e.va)) e [])
    | none => c.mem.walk ctx va wr 4 (c.ctxAt ctx).root []

/-- The capacity of a TLB (03 R82, 10 R270, 12 R323, 13 R356). -/
def tlbCap (u : Nat) : Nat := if u < 200 then 64 else if u < 210 then 4096 else if u < 230 then 1024 else if u = 230 then 2048 else 8192

/-- A translation entered in a TLB; the oldest leaves a full one (assumption 13). -/
def Mmu.fill (m : Mmu) (u : Nat) (e : TlbEnt) : Mmu :=
  let l := tabGet [] m.tlb u
  if l.contains e then m
  else { m with tlb := tabSet m.tlb u ((l ++ [e]).drop (if l.length < tlbCap u then 0 else 1)) }

/-- Translations entered in the TLBs of a unit. -/
def Chip.tlbFill (c : Chip) (units : List Nat) (es : List TlbEnt) : Chip :=
  c.modMmu (fun m => units.foldl (fun a u => es.foldl (fun b e => b.fill u e) a) m)

/-- Every TLB drops its mappings of a range of a context; length 0 means the whole context (03 R84). -/
def Chip.tlbDrop (c : Chip) (ctx va len : Nat) : Chip :=
  c.modMmu (fun m => { m with tlb := m.tlb.map (fun p =>
    (p.1, p.2.filter (fun e => !(e.ctx == ctx && (len == 0 || (decide (e.va < va + len) && decide (va < e.va + e.size))))))) })

/-- The TLBs of a tile's mover: its own, and the one its die shares (03 R82). -/
def moverTlbs (t : Nat) : List Nat := [t, 200 + t / 50]

/-- A ledge front-end's TLB (10 R270). -/
def ledgeTlb (fe : Nat) : List Nat := [210 + fe]
/-- The root complex's IOTLB (12 R323). -/
def iotlb : List Nat := [230]
/-- FD's TLB (13 R356). -/
def fdTlb : List Nat := [231]

/-! Tensor descriptors (03 R73 to R76) -/

/-- The descriptor in 128 bytes read at tile-memory offset `off` (03 Table 3.5). -/
def parseDesc (off : Nat) (r : List Byte) : TDesc :=
  let flags := fieldLE r 14 1
  { off := off, base := fieldLE r 0 8, tid := fieldLE r 8 4, fmt := fieldLE r 12 1, rank := fieldLE r 13 1
    mx := bit flags 0, tmem := bit flags 1, layout := bits flags 3 2
    ext := (List.range 6).map (fun d => fieldLE r (16 + 4 * d) 4)
    str := 0 :: (List.range 5).map (fun d => s64 (fieldLE r (40 + 8 * d) 8))
    sbase := fieldLE r 80 8
    sstr := 0 :: (List.range 5).map (fun d => s32 (fieldLE r (88 + 4 * d) 4))
    raw := r }

/-- The extent of a dimension; those at or above RANK are 1 (03 R74). -/
def TDesc.extent (d : TDesc) (i : Nat) : Nat := if i < d.rank then d.ext.getD i 1 else 1

/-- K of a skewed region or stationary image: 128, or 256 for FP4 (03 R78, R79). -/
def TDesc.kSize (d : TDesc) : Nat := if d.fmt = 7 then 256 else 128

/-- The slot width in bytes of a skewed region or stationary image (03 R78). -/
def TDesc.slot (d : TDesc) : Nat := if d.fmt = 1 ∨ d.fmt = 2 then 2 else 1

/-- The unit that BASE and every stride are multiples of (03 Table 3.7). -/
def fmtAlign (fmt : Nat) : Nat := if fmt = 5 ∨ fmt = 6 then 3 else if fmt = 7 then 1 else fmtBits fmt / 8

/-- The rules of 03 Table 3.7, with the scale fields zero when MX = 0 (03 Table 3.5) and a skewed region starting on a
multiple of its line's width (03 R78) (assumption 29). -/
def TDesc.wellFormed (d : TDesc) : Bool :=
  let a := fmtAlign d.fmt
  let dims := List.range 6
  (decide (1 ≤ d.rank) && decide (d.rank ≤ 6)) &&
  dims.all (fun i => if i < d.rank then decide (1 ≤ d.ext.getD i 0) else
    d.ext.getD i 0 == 0 && d.str.getD i 0 == 0 && d.sstr.getD i 0 == 0) &&
  decide (d.fmt ≤ 9) && (if d.mx then fmtMxAllowed d.fmt && d.extent 0 % 32 == 0 else d.sbase == 0 && d.sstr.all (· == 0)) &&
  (d.base % a == 0) && dims.all (fun i => d.str.getD i 0 % (a : Int) == 0) &&
  (d.tmem || (canonicalVa d.base && (!d.mx || canonicalVa d.sbase))) &&
  (match d.layout with
   | 0 => true
   | 1 => d.tmem && d.rank == 2 && d.fmt != 0 && d.fmt != 9 && d.extent 0 == d.kSize && decide (d.extent 1 ≤ 8192) &&
       d.base % (128 * d.slot) == 0
   | 2 => d.tmem && d.rank == 2 && d.fmt != 0 && d.fmt != 9 && d.extent 0 == 128 && d.extent 1 == d.kSize
   | _ => false) &&
  zeroAt d.raw 15 1 && zeroAt d.raw 108 20 && decide (bits (fieldLE d.raw 14 1) 7 4 = 0)

/-- The coordinates i1 to i5 of every row, i1 varying fastest (06 R154). -/
def TDesc.rows (d : TDesc) : List (List Nat) :=
  (List.range (d.extent 5)).flatMap fun i5 => (List.range (d.extent 4)).flatMap fun i4 =>
    (List.range (d.extent 3)).flatMap fun i3 => (List.range (d.extent 2)).flatMap fun i2 =>
      (List.range (d.extent 1)).map fun i1 => [i1, i2, i3, i4, i5]

/-- The displacement of a row: the sum of coordinate × stride. -/
def rowDisp (str : List Int) (cs : List Nat) : Int :=
  (List.zipWith (fun (c : Nat) (s : Int) => (c : Int) * s) cs (str.drop 1)).foldl (· + ·) 0

/-- The byte of a row's element 0 (03 R74), as a signed address. -/
def TDesc.rowAddr (d : TDesc) (cs : List Nat) : Int := (d.base : Int) + rowDisp d.str cs

/-- The place of an element of a plain tensor: its byte and its first bit within it (03 R74, 02 R38). -/
def TDesc.elemAt (d : TDesc) (cs : List Nat) (i0 : Nat) : Nat × Nat :=
  let b := i0 * fmtBits d.fmt
  (u64 (d.rowAddr cs + (b / 8 : Nat)), b % 8)

/-- The byte of the scale of an element's block (03 R74). -/
def TDesc.scaleAt (d : TDesc) (cs : List Nat) (i0 : Nat) : Nat :=
  u64 ((d.sbase : Int) + rowDisp d.sstr cs + (i0 / 32 : Nat))

/-- The logical index of an element (02 R54). -/
def TDesc.index (d : TDesc) (cs : List Nat) (i0 : Nat) : Nat :=
  let e := fun i => d.extent i
  (i0 + e 0 * (cs.getD 0 0 + e 1 * (cs.getD 1 0 + e 2 * (cs.getD 2 0 + e 3 * (cs.getD 3 0 + e 4 * cs.getD 4 0))))) % 2 ^ 64

/-- The least and greatest displacement of a row under a list of strides. -/
def TDesc.dispRange (d : TDesc) (str : List Int) : Int × Int :=
  (List.range 5).foldl (fun (acc : Int × Int) i =>
    let x : Int := ((d.extent (i + 1) : Int) - 1) * str.getD (i + 1) 0
    if x < 0 then (acc.1 + x, acc.2) else (acc.1, acc.2 + x)) (0, 0)

/-- The byte ranges, lowest byte and first byte beyond, that a tensor's elements and scales occupy (03 Table 3.4
TMEM_BOUNDS, 06 R151). -/
def TDesc.ranges (d : TDesc) : List (Int × Int) :=
  match d.layout with
  | 0 =>
    let r := d.dispRange d.str
    let s := d.dispRange d.sstr
    let row : Int := (d.extent 0 * fmtBits d.fmt + 7) / 8
    ((d.base : Int) + r.1, (d.base : Int) + r.2 + row) ::
      (if d.mx then [((d.sbase : Int) + s.1, (d.sbase : Int) + s.2 + (d.extent 0 / 32 : Nat))] else [])
  | 1 =>
    let n := d.extent 1 + 127
    ((d.base : Int), (d.base : Int) + n * 128 * d.slot) ::
      (if d.mx then [((d.sbase : Int), (d.sbase : Int) + n * 8)] else [])
  | _ =>
    ((d.base : Int), (d.base : Int) + 128 * 128 * d.slot) ::
      (if d.mx then [((d.sbase : Int), (d.sbase : Int) + (d.kSize / 32 : Nat) * 128)] else [])

/-- The first byte beyond tile memory (03 R70). -/
def tmemSize : Nat := 0x600000

/-- TVAL of TMEM_BOUNDS for a byte range of tile memory, if it leaves tile memory (03 Table 3.4). -/
def boundsOf (lo hi : Int) : Option Nat :=
  if lo < 0 then some (u64 lo)
  else if (tmemSize : Int) < hi then some (max lo tmemSize).toNat
  else none

/-- TVAL of TMEM_BOUNDS for a descriptor with TMEM = 1 whose footprint, elements and scales together, leaves tile memory: its
lowest offset when that is below 0, otherwise the first byte beyond (03 Table 3.4). -/
def TDesc.bounds (d : TDesc) : Option Nat :=
  let low : Int := d.ranges.foldl (fun (m : Int) r => min m r.1) 0
  let outs := d.ranges.filterMap (fun r => boundsOf r.1 r.2)
  if !d.tmem then none
  else if low < 0 then some (u64 low)
  else outs.foldl (fun (m : Option Nat) x => some (match m with | some y => min x y | none => x)) none

/-- Two lists of ranges overlap. -/
def overlaps (a b : List (Int × Int)) : Bool :=
  a.any (fun x => b.any (fun y => decide (x.1 < y.2) && decide (y.1 < x.2)))

/-! Tile memory (03 R70, R72) -/

/-- A granule of tile memory is poisoned. -/
def Tile.poisonedN (v : Tile) (a n : Nat) : Bool :=
  n != 0 && (List.range ((a + n - 1) / 64 - a / 64 + 1)).any (fun i => setHas v.poison (a / 64 + i))

/-- The first poisoned granule that a byte range touches. -/
def Tile.poisonAt (v : Tile) (a n : Nat) : Option Nat :=
  if n = 0 then none
  else ((List.range ((a + n - 1) / 64 - a / 64 + 1)).map (fun i => a / 64 + i)).find? (fun g => setHas v.poison g)

/-- `nb` bits at a byte and bit of tile memory. -/
def Memory.bitsAt (m : Memory) (a b nb : Nat) : Nat := (m.readLE a ((b + nb + 7) / 8)) / 2 ^ b % 2 ^ nb

/-- The exceptions of 03 Table 3.4. -/
def exIllegal : Nat := 0x01
def exMisaligned : Nat := 0x02
def exBounds : Nat := 0x03
def exDesc : Nat := 0x04
def exXlate : Nat := 0x05
def exAccess : Nat := 0x06
def exPoison : Nat := 0x07
def exStale : Nat := 0x08
def exSoDenied : Nat := 0x09
def exImem : Nat := 0x0A
def exBreak : Nat := 0x0B
def exHwFault : Nat := 0x10

/-- A descriptor read from tile memory at an operand value: the checks of 07 R188 and R193 on its offset, poison of what
is read (07 R190), and its footprint when it lies in tile memory. The rules of Table 3.7 are the instruction's. -/
def Tile.readDesc (v : Tile) (off : Nat) : Except (Nat × Nat) TDesc :=
  if off % 128 ≠ 0 then .error (exMisaligned, off)
  else if tmemSize < off + 128 then .error (exBounds, max off tmemSize)
  else match v.poisonAt off 128 with
    | some g => .error (exPoison, 64 * g + 2 ^ 63)
    | none => .ok (parseDesc off (v.mem.readN off 128))

/-- A descriptor that must be well formed and, with TMEM = 1, lie in tile memory. -/
def Tile.goodDesc (v : Tile) (off : Nat) : Except (Nat × Nat) TDesc :=
  match v.readDesc off with
  | .error e => .error e
  | .ok d =>
    if !d.wellFormed then .error (exDesc, off)
    else match d.bounds with
      | some b => .error (exBounds, b)
      | none => .ok d

end Sys2Proof.Machine
end

