-- ==== Sys2Proof/Machine/Rings.lean ====
section
/-!
DEFINITION. Rings and descriptors as every family uses them: the header of a descriptor, its end, and what ends with it.
-/

namespace Sys2Proof.Machine

/-- The opcode of a descriptor (14 Table 14.4). -/
def Desc.op (d : Desc) : Nat := fieldLE d.bytes 2 1
/-- Its flags. -/
def Desc.flags (d : Desc) : Nat := fieldLE d.bytes 3 1
/-- Its context. -/
def Desc.ctx (d : Desc) : Nat := fieldLE d.bytes 4 1
/-- The object it signals when SIGNAL_ON_DONE is set. -/
def Desc.dso (d : Desc) : Nat := fieldLE d.bytes 6 2
/-- Its correlation tag. -/
def Desc.tag (d : Desc) : Nat := fieldLE d.bytes 8 8
/-- A little-endian operand field. -/
def Desc.f (d : Desc) (off n : Nat) : Nat := fieldLE d.bytes off n

/-- A submission ring. -/
def Chip.sqAt (c : Chip) (r : Nat) : Sq := tabGet Sq.fresh c.cm.sq r
/-- A completion ring. -/
def Chip.cqAt (c : Chip) (r : Nat) : Cq := tabGet Cq.fresh c.cm.cq r
/-- A commander entry. -/
def Chip.cmAt (c : Chip) (k : Nat) : Cmdr := tabGet Cmdr.fresh c.cm.ent k
/-- A submission ring set. -/
def Chip.setSq (c : Chip) (r : Nat) (q : Sq) : Chip := c.modCm (fun m => { m with sq := tabSet m.sq r q })
/-- A completion ring set. -/
def Chip.setCq (c : Chip) (r : Nat) (q : Cq) : Chip := c.modCm (fun m => { m with cq := tabSet m.cq r q })
/-- A commander entry set. -/
def Chip.setCm (c : Chip) (k : Nat) (e : Cmdr) : Chip := c.modCm (fun m => { m with ent := tabSet m.ent k e })

/-- A consumed descriptor by its key. -/
def Chip.descAt (c : Chip) (key : Nat) : Option Desc := c.cm.descs.find? (fun d => d.key == key)

/-- A consumed descriptor changed. -/
def Chip.setDesc (c : Chip) (d : Desc) : Chip :=
  c.modCm (fun m => { m with descs := m.descs.map (fun e => if e.key = d.key then d else e) })

/-- The record that a descriptor's end forms (14 Table 14.6), with the island whose counter it carries (14 R405). -/
def Chip.finOf (c : Chip) (d : Desc) (status detail src : Nat) : Fin_ :=
  { ev := false, sq := d.sq, cq := (c.sqAt d.sq).cq, cm := d.cm, epoch := d.epoch, tag := d.tag, op := d.op, status := status,
    ctxf := d.ctx % 64, detail := detail % 2 ^ 64, src := src, restarts := c.restarts src, count := c.count src,
    dso := if bit d.flags 2 && !([0x01, 0x07, 0x08] : List Nat).contains status then some (d.dso, d.ctx) else none, key := d.key }

/-- A descriptor ends: its record is formed and waits to be written (14 R378, R379). -/
def Chip.finishSrc (c : Chip) (key status detail src : Nat) : Chip :=
  match c.descAt key with
  | some d =>
    (c.modCm (fun m =>
      { m with descs := m.descs.filter (fun e => e.key != key), fin := m.fin ++ [c.finOf d status detail src] })).modFw (fun f =>
        if status = 0x11 then { f with drops := f.drops + 1 } else f)
  | none => c

/-- A descriptor ends in the dispatch complex. -/
def Chip.finish (c : Chip) (key status detail : Nat) : Chip := c.finishSrc key status detail srcDispatch

/-! Tiles between work items -/

/-- A tile with memory, accumulators and vector registers cleared, and its poison with them (R402 step 2). -/
def Tile.wipe (v : Tile) : Tile :=
  { v with x := [], pc := 0, imem := [], mem := [], poison := [], tcause := 0, tepc := 0, tval := 0, vec := Vec.fresh, acc := Acc.fresh
           arr := Arr.fresh, mover := [], held := [], cancelFrom := none, blocked := none, pend := none, preAsk := false, item := .none }

/-! Tile groups (18 R461, R462, 03 R62) -/

/-- The state commanded for a tile's group: 0 ACTIVE, 1 GATED, 2 PARKED (21 R524). -/
def Chip.groupCmd (c : Chip) (t : Nat) : Nat := let b := 2 * (t / 50 * 5 + t % 50 / 10); bits (c.rw 0x400060) (b + 1) b

/-- A tile is at a work-item boundary: nothing runs on it or is bound for it, and no pre-empted item waits for it. -/
def Chip.atBoundary (c : Chip) (t : Nat) : Bool :=
  let v := c.tileAt t
  (match v.item with | .running => false | .halting => false | .ending _ _ => false | .saving => false | _ => true) &&
    !c.fw.work.any (fun w => w.phys == t || (w.preempted && c.logicalOf t == some w.tile)) && c.res.repair != some t

/-- The generation of a tile's logical index raised by one (03 R62). -/
def Chip.raiseGen (c : Chip) (t : Nat) : Chip :=
  match c.logicalOf t with
  | some j => c.modTmap (fun m => { m with gen := tabSet m.gen j ((c.genOf j + 1) % 2 ^ 32) })
  | none => c

/-- A parked tile is woken into MAINTENANCE, with power, and scrubbed (03 R61, R62). -/
def Chip.wakeTile (c : Chip) (t : Nat) : Chip :=
  (c.setTile t { (c.tileAt t).wipe with st := .maintenance, powered := true, gated := false }).islandOn (srcTile t)

/-- Firmware releases a tile that serves a logical index from MAINTENANCE, its generation raised first (03 R61, R62). It has no resident
context; the function tables of the one that it will serve are loaded when it takes that up (15 R402 step 2). -/
def Chip.releaseTile (c : Chip) (t : Nat) : Chip :=
  if (c.logicalOf t).isSome then let d := c.raiseGen t; d.setTile t { d.tileAt t with st := .service } else c

/-- A parked tile has power again: woken, and released unless it is a spare. -/
def Chip.unpark (c : Chip) (t : Nat) : Chip := (c.wakeTile t).releaseTile t

/-- A tile loses its clock gating or its power at a work-item boundary; a parked tile's residency ends (18 R462). -/
def Chip.park (c : Chip) (t : Nat) : Chip :=
  ((c.setTile t { (c.tileAt t).wipe with st := .parked, powered := false, gated := false }).modTmap (fun m =>
    { m with resident := tabDel m.resident t })).islandOff (srcTile t)

/-- The commanded state of its group applied to a tile that is at a work-item boundary; a fenced tile stays FENCED. -/
def Chip.groupApply (c : Chip) (t : Nat) : Chip :=
  let cmd := c.groupCmd t
  let v := c.tileAt t
  if v.st = .fenced ∨ !c.atBoundary t then c
  else if cmd = 2 then (if v.st = .parked then c else c.park t)
  else
    let d := if v.st = .parked then c.unpark t else c
    if (d.tileAt t).gated = (cmd == 1) then d else d.setTile t { d.tileAt t with gated := cmd == 1 }

/-- The work item of a tile has ended with a status: its RUN completes with the physical tile's counter (15 R405), and
the item leaves the allocation table. -/
def Chip.workEnded (c : Chip) (t status detail : Nat) : Chip :=
  let key := (c.tileAt t).work
  let d := c.finishSrc key status detail (srcTile t)
  (d.modFw (fun f => { f with work := f.work.filter (fun w => w.key != key) })).groupApply t

end Sys2Proof.Machine
end

