-- ==== Sys2Proof/Machine/TileCtl.lean ====
section
/-!
DEFINITION. The tile controller: issue, exceptions, the controller instructions of 07 Table 7.3, and the events that end
a wait or a work item.
-/

namespace Sys2Proof.Machine

/-! Fields of the controller layout (07 Table 7.2) -/

/-- CLASS. -/
def iClass (w : Nat) : Nat := bits w 63 62
/-- OP of every class but the vector class. -/
def iOp (w : Nat) : Nat := bits w 61 56
/-- RD. -/
def iRd (w : Nat) : Nat := bits w 55 51
/-- RS1. -/
def iRs1 (w : Nat) : Nat := bits w 50 46
/-- RS2. -/
def iRs2 (w : Nat) : Nat := bits w 45 41
/-- FUNC. -/
def iFunc (w : Nat) : Nat := bits w 35 32
/-- IMM32 sign-extended to 64 bits (07 R180). -/
def iImm (w : Nat) : Nat := u64 (s32 (bits w 31 0))
/-- The reserved bits [40:36]. -/
def iRsv (w : Nat) : Nat := bits w 40 36

/-! Exceptions (03 R68, R69) -/

/-- The array stops: the feed enters no further row, entered rows drain, a running load and MVMUL are abandoned and every
other entry is discarded (03 R69 step 3). -/
def Arr.stop (a : Arr) : Arr :=
  if a.stopped && !a.drain then a
  else
    { a with
      stopped := true, drain := false, pending := none, latched := none, reload := none
      q := (a.q.map (fun e => { e with limit := if e.started ∧ e.start ≤ a.step then min e.limit (a.step - e.start + 1) else 0 })).filter
        (fun e => e.kind == .pass && decide (e.written < e.limit)) }

/-- The mover cancels what has not started (03 R69 step 2); held signals behind a cancelled operation are discarded. -/
def Tile.cancelMover (v : Tile) : Tile :=
  let first := (v.mover.filter (fun o => !o.started)).map (·.serial) |>.head?
  let from_ := match v.cancelFrom, first with
    | some a, some b => some (min a b)
    | some a, none => some a
    | none, b => b
  { v with mover := v.mover.filter (·.started), cancelFrom := from_ }

/-- The tile part of an exception: issue stops, the units stop, TCAUSE, TEPC and TVAL are recorded, and the work item is
ending (03 R69); HW_FAULT discards the held signals (17 R444). TEPC is the instruction at the program counter: the offending one of a precise exception, the blocked one,
or the next one, which after HALT is the one behind it. -/
def Tile.raise (v : Tile) (cause tval : Nat) : Tile :=
  let w := v.cancelMover
  { w with
    item := if cause = exHwFault then .ended (0x40 + cause) else .ending (0x40 + cause) (tval % 2 ^ 64)
    blocked := none, pend := none, preAsk := false, tcause := cause, held := if cause = exHwFault then [] else w.held
    tepc := (if v.item = .halting then v.pc + 8 else v.pc) % 2 ^ 32
    tval := tval % 2 ^ 64, arr := v.arr.stop, vec := { v.vec with q := v.vec.q.filter (·.done) } }

/-- Held signals that stand behind a cancelled or faulted operation (03 R69 step 2). -/
def Tile.discards (v : Tile) (h : HeldSig) : Bool :=
  match v.cancelFrom with
  | some k => decide (k < h.serial)
  | none => false

/-- An entry of the array queue that goes on to its end: in an array that has stopped, a pass with entered rows still to be
written, and after a fault of the array an MVMUL issued before it (03 R69 step 3, 04 R112, R115). -/
def Arr.going (a : Arr) (e : ArrEnt) : Bool :=
  match e.kind with
  | .pass => !a.stopped || decide (e.written < e.limit)
  | .mvmul => !(a.stopped && a.drain)
  | .load => !a.stopped

/-- Nothing of a stopping item is left in the tile: entered rows are written, and vector queue, mover and held signals are empty. -/
def Tile.drained (v : Tile) : Bool :=
  !v.arr.q.any v.arr.going && v.vec.q.isEmpty && v.mover.isEmpty && v.held.isEmpty

/-- Steps 2, 3 and 5 of 03 R69: the first held signal behind a cancelled or faulted operation is discarded, and every one
after it; once nothing of the item is left in the tile, the item ends with the exception's status. -/
def Chip.settleEnd (c : Chip) (t : Nat) : Chip :=
  let v := c.tileAt t
  match v.item with
  | .ending status detail =>
    let u := { v with held := v.held.takeWhile (fun h => !v.discards h) }
    if u.drained then (c.setTile t { u with item := .ended status }).workEnded t status detail else c.setTile t u
  | _ => c

/-- The item of a tile that is fenced while it ends takes the status of its own exception (03 R69, 17 R444). -/
def Chip.endNow (c : Chip) (t : Nat) : Chip :=
  match (c.tileAt t).item with
  | .ending status detail => (c.setTile t { c.tileAt t with item := .ended status }).workEnded t status detail
  | _ => c

/-- An exception taken by a tile (03 R68, R69): any registered wait is withdrawn, what has started drains, and the RUN
completes with TILE_EXCEPTION (14 R381). After HW_FAULT the item waits for what fencing decides (17 R446). -/
def Chip.takeExc (c : Chip) (t cause tval : Nat) : Chip :=
  ((c.setTile t ((c.tileAt t).raise cause tval)).soWithdraw (.tile t)).settleEnd t

/-- An exception detected after issue (03 R68): taken at once when the controller is blocked or has halted, otherwise at
its next instruction boundary. -/
def Chip.detect (c : Chip) (t cause tval : Nat) : Chip :=
  let v := c.tileAt t
  match v.item with
  | .running =>
    if v.blocked.isSome then c.takeExc t cause tval
    else if v.pend.isSome then c
    else c.setTile t { v with pend := some (cause, tval) }
  | .halting => c.takeExc t cause tval
  | .saving => c.takeExc t cause tval
  | _ => c

/-! Issue (07 R178, R179) -/

/-- A fetch from a range that an incomplete LOADI writes (07 R191). -/
def Tile.loading (v : Tile) : Bool :=
  v.mover.any (fun o => o.op == 6 && decide (o.rd ≤ v.pc) && decide (v.pc < o.rd + o.rx))

/-- The controller can issue: a work item runs, nothing blocks it, no exception waits and its clock runs. -/
def Tile.ready (v : Tile) : Bool :=
  v.item == .running && v.blocked.isNone && v.pend.isNone && !v.paused && v.powered && !v.loading && decide (v.pc < 0x10000)

/-- The instruction at the program counter. -/
def Tile.fetch (v : Tile) : Nat := v.imem.readLE v.pc 8

/-- The X registers that a vector instruction in the queue has still to write (06 R150): those of VEXT, MGET and
SETVL. -/
def VqEnt.xDest (e : VqEnt) : List Nat :=
  if e.done || e.wsr.isSome then []
  else
    let vop := bits e.w 59 55
    let sub := bits e.w 54 52
    if vop = 0x15 ∧ sub = 1 then [bits e.w 51 47]
    else if vop = 0x17 ∧ sub = 1 then [bits e.w 51 47, bits e.w 36 32]
    else if vop = 0x18 then [bits e.w 51 47]
    else []

/-- An X register whose value is still to come (07 R179). -/
def Tile.xBusy (v : Tile) (r : Nat) : Bool := r != 0 && v.vec.q.any (fun e => e.xDest.contains r)

/-- The instruction `w` is the one at the program counter, its registers are ready, and the controller can issue. -/
def Tile.issues (v : Tile) (w : BitVec 64) (regs : List Nat) : Bool :=
  v.ready && v.fetch == w.toNat && !regs.any v.xBusy

/-- The program counter moved; the next fetch is made, and one outside instruction memory raises IMEM_BOUNDS
(03 R65). -/
def Chip.goto (c : Chip) (t pc : Nat) : Chip :=
  let v := c.tileAt t
  let d := c.setTile t { v with pc := pc }
  if 0x10000 ≤ pc then d.takeExc t exImem pc else d

/-- The tile changed and the program counter moved past the instruction. -/
def Chip.retire (c : Chip) (t : Nat) (v : Tile) : Chip := (c.setTile t v).goto t (v.pc + 8)

/-- The registers of a controller instruction. -/
def ctlRegs (w : Nat) : List Nat := [iRd w, iRs1 w, iRs2 w]

/-- A controller instruction of an opcode issues: reserved fields that are set, or fields its operation does not use,
make it illegal (07 R178). -/
def Chip.ctl (c : Chip) (t : Nat) (w : BitVec 64) (op : Nat) (legal : Bool) (f : Tile → Chip) : Chip :=
  let v := c.tileAt t
  let n := w.toNat
  if v.issues w (ctlRegs n) && iClass n == 0 && iOp n == op then
    (if iRsv n = 0 ∧ legal then f v else c.takeExc t exIllegal n)
  else c

/-- The opcodes of 07 Table 7.3. -/
def ctlOps : List Nat := [0x00, 0x01, 0x02, 0x03, 0x04, 0x08, 0x09, 0x10, 0x11, 0x12, 0x18, 0x19, 0x20, 0x21, 0x28, 0x29, 0x2A, 0x2B]

/-- NOP (07 R181). It also stands for the controller opcodes that the table does not list, which raise ILLEGAL_INSTR
(07 R178). -/
def Chip.doNop (c : Chip) (t : Nat) (w : BitVec 64) : Chip :=
  let v := c.tileAt t
  let n := w.toNat
  if v.issues w [] && iClass n == 0 then
    (if n = 0 then c.retire t v
     else if iOp n = 0 || !ctlOps.contains (iOp n) then c.takeExc t exIllegal n
     else c)
  else c

/-- The ALU functions (07 Table 7.4). -/
def aluF (func a b : Nat) : Nat :=
  let sh := b % 64
  match func with
  | 0 => (a + b) % 2 ^ 64
  | 1 => (a + 2 ^ 64 - b) % 2 ^ 64
  | 2 => a &&& b
  | 3 => a ||| b
  | 4 => a ^^^ b
  | 5 => a * 2 ^ sh % 2 ^ 64
  | 6 => a / 2 ^ sh
  | 7 => ((BitVec.ofNat 64 a).sshiftRight sh).toNat
  | 8 => a * b % 2 ^ 64
  | 9 => a * b / 2 ^ 64
  | 10 => b2n (decide (s64 a < s64 b))
  | 11 => b2n (decide (a < b))
  | 12 => if s64 a < s64 b then a else b
  | 13 => if s64 a < s64 b then b else a
  | 14 => min a b
  | _ => max a b

/-- ALU: X[RD] = X[RS1] f X[RS2] (07 Table 7.3). -/
def Chip.doAlu (c : Chip) (t : Nat) (w : BitVec 64) : Chip :=
  let n := w.toNat
  c.ctl t w 0x01 (bits n 31 0 == 0) (fun v =>
    c.retire t (v.setX (iRd n) (aluF (iFunc n) (v.xr (iRs1 n)) (v.xr (iRs2 n)))))

/-- ALUI: X[RD] = X[RS1] f IMM32. -/
def Chip.doAlui (c : Chip) (t : Nat) (w : BitVec 64) : Chip :=
  let n := w.toNat
  c.ctl t w 0x02 (iRs2 n == 0) (fun v => c.retire t (v.setX (iRd n) (aluF (iFunc n) (v.xr (iRs1 n)) (iImm n))))

/-- LI: X[RD] = IMM32. -/
def Chip.doLi (c : Chip) (t : Nat) (w : BitVec 64) : Chip :=
  let n := w.toNat
  c.ctl t w 0x03 (iRs1 n == 0 && iRs2 n == 0 && iFunc n == 0) (fun v => c.retire t (v.setX (iRd n) (iImm n)))

/-- LIH: X[RD] = (IMM32 << 32) | (X[RD] & 0xFFFF_FFFF). -/
def Chip.doLih (c : Chip) (t : Nat) (w : BitVec 64) : Chip :=
  let n := w.toNat
  c.ctl t w 0x04 (iRs1 n == 0 && iRs2 n == 0 && iFunc n == 0) (fun v =>
    c.retire t (v.setX (iRd n) (bits n 31 0 * 2 ^ 32 + v.xr (iRd n) % 2 ^ 32)))

/-- The tile-memory ranges that a vector-queue entry has still to write: those of its destination, the first operand
(06 R151). -/
def VqEnt.writes (e : VqEnt) : List (Int × Int) :=
  if e.done || e.wsr.isSome then []
  else match e.opnds.head? with
    | some (.tensor d) => d.ranges
    | some (.flat off len) => [((off : Int), ((off + len : Nat) : Int))]
    | _ => []

/-- A scalar access overlaps an earlier vector write that has not been made (06 R151). -/
def VqEnt.writesTmem (e : VqEnt) (lo hi : Nat) : Bool := overlaps e.writes [((lo : Int), (hi : Int))]

/-- LD (07 R182): MISALIGNED, then TMEM_BOUNDS, then POISON. -/
def Chip.doLd (c : Chip) (t : Nat) (w : BitVec 64) : Chip :=
  let n := w.toNat
  c.ctl t w 0x08 (iRs2 n == 0 && bit (iFunc n) 3 == false && !(bits (iFunc n) 1 0 == 3 && bit (iFunc n) 2)) (fun v =>
    let size := 2 ^ bits (iFunc n) 1 0
    let a := (v.xr (iRs1 n) + iImm n) % 2 ^ 64
    if a % size ≠ 0 then c.takeExc t exMisaligned a
    else if tmemSize < a + size then c.takeExc t exBounds (max a tmemSize)
    else if v.vec.q.any (fun e => e.writesTmem a (a + size)) then c
    else if v.poisonedN a size then c.takeExc t exPoison (a + 2 ^ 63)
    else
      let r := v.mem.readLE a size
      let x := if bit (iFunc n) 2 && bit r (8 * size - 1) then r + (2 ^ 64 - 2 ^ (8 * size)) else r
      c.retire t (v.setX (iRd n) x))

/-- ST (07 R182); it never clears poison. -/
def Chip.doSt (c : Chip) (t : Nat) (w : BitVec 64) : Chip :=
  let n := w.toNat
  c.ctl t w 0x09 (iRd n == 0 && bits (iFunc n) 3 2 == 0) (fun v =>
    let size := 2 ^ bits (iFunc n) 1 0
    let a := (v.xr (iRs1 n) + iImm n) % 2 ^ 64
    if a % size ≠ 0 then c.takeExc t exMisaligned a
    else if tmemSize < a + size then c.takeExc t exBounds (max a tmemSize)
    else if v.vec.q.any (fun e => e.writesTmem a (a + size)) then c
    else c.retire t { v with mem := v.mem.writeLE a size (v.xr (iRs2 n)) })

/-- The branch conditions (07 Table 7.3). -/
def brTaken (func a b : Nat) : Bool :=
  match func with
  | 0 => a == b
  | 1 => a != b
  | 2 => decide (s64 a < s64 b)
  | 3 => decide (s64 b ≤ s64 a)
  | 4 => decide (a < b)
  | _ => decide (b ≤ a)

/-- BR (07 R181). -/
def Chip.doBr (c : Chip) (t : Nat) (w : BitVec 64) : Chip :=
  let n := w.toNat
  c.ctl t w 0x10 (iRd n == 0 && decide (iFunc n ≤ 5) && iImm n % 8 == 0) (fun v =>
    if brTaken (iFunc n) (v.xr (iRs1 n)) (v.xr (iRs2 n)) then c.goto t ((v.pc + iImm n) % 2 ^ 64) else c.retire t v)

/-- JAL (07 R181). -/
def Chip.doJal (c : Chip) (t : Nat) (w : BitVec 64) : Chip :=
  let n := w.toNat
  c.ctl t w 0x11 (iRs1 n == 0 && iRs2 n == 0 && iFunc n == 0 && iImm n % 8 == 0) (fun v =>
    (c.setTile t (v.setX (iRd n) (v.pc + 8))).goto t ((v.pc + iImm n) % 2 ^ 64))

/-- JALR (07 R181); the target is read before the link is written. -/
def Chip.doJalr (c : Chip) (t : Nat) (w : BitVec 64) : Chip :=
  let n := w.toNat
  c.ctl t w 0x12 (iRs2 n == 0 && iFunc n == 0) (fun v =>
    (c.setTile t (v.setX (iRd n) (v.pc + 8))).goto t ((v.xr (iRs1 n) + iImm n) % 2 ^ 64 / 8 * 8))

/-- A load that is still pending is discarded and has no effect (07 R184). -/
def Arr.dropPending (a : Arr) : Arr :=
  match a.pending with
  | some k => if a.claimed then a else { a with q := a.q.filter (fun e => e.serial != k), pending := none, latched := none }
  | none => a

/-- HALT (07 R184): issue stops; WORK_ITEM_DONE ends the item. -/
def Chip.doHalt (c : Chip) (t : Nat) (w : BitVec 64) : Chip :=
  let n := w.toNat
  c.ctl t w 0x18 (n == 0x18 * 2 ^ 56) (fun v => c.setTile t { v with item := .halting, arr := v.arr.dropPending })

/-- BREAK (07 R181): TVAL is IMM32 zero-extended. -/
def Chip.doBrk (c : Chip) (t : Nat) (w : BitVec 64) : Chip :=
  let n := w.toNat
  c.ctl t w 0x19 (iRd n == 0 && iRs1 n == 0 && iRs2 n == 0 && iFunc n == 0) (fun _ => c.takeExc t exBreak (bits n 31 0))

/-! State registers (07 R183, Table 7.5) -/

/-- When an access to a state register takes effect. -/
inductive RegPoint where
  | issue | arrayEmpty | vectorEmpty | vectorOrder | never
deriving DecidableEq, Repr

/-- The points of RSR and WSR of each register (07 Table 7.5); `never` marks a register that the access cannot name. -/
def regPoints (r : Nat) : RegPoint × RegPoint :=
  if r ≤ 6 then (.issue, .never)
  else if r = 0x10 then (.arrayEmpty, .never)
  else if r = 0x11 then (.arrayEmpty, .arrayEmpty)
  else if 0x12 ≤ r ∧ r ≤ 0x17 then (.issue, .arrayEmpty)
  else if 0x20 ≤ r ∧ r ≤ 0x26 then (.vectorEmpty, .vectorOrder)
  else if 0x28 ≤ r ∧ r ≤ 0x2B then (.vectorEmpty, .never)
  else (.never, .never)

/-- A function table. -/
def Vec.table (v : Vec) (k : Nat) : FTab := tabGet FTab.fresh v.ft k

/-- TID: bits [31:16] SRCID, bits [7:0] the logical index within the die, 0xFF for a tile that serves none
(03 Table 3.3, assumption 14). -/
def Chip.tid (c : Chip) (t : Nat) : Nat :=
  srcTile t * 65536 + (match c.logicalOf t with | some j => j % 48 | none => 0xFF)

/-- The value of a state register (07 Table 7.5). -/
def Chip.readReg (c : Chip) (t r : Nat) : Nat :=
  let v := c.tileAt t
  match r with
  | 0x00 => c.tid t
  | 0x01 => c.tileGen t
  | 0x02 => v.ctx
  | 0x03 => c.count (srcTile t)
  | 0x04 => v.tcause
  | 0x05 => v.tepc
  | 0x06 => v.tval
  | 0x10 => v.arr.afault
  | 0x11 => v.acc.astatus
  | 0x12 => v.acc.atid
  | 0x13 => v.acc.astep
  | 0x14 => v.acc.abase0
  | 0x15 => v.acc.abase1
  | 0x16 => v.acc.astride0
  | 0x17 => v.acc.astride1
  | 0x20 => v.vec.vl
  | 0x21 => v.vec.vstatus
  | 0x22 => v.vec.vtid
  | 0x23 => v.vec.vpass
  | 0x24 => v.vec.vstep
  | 0x25 => v.vec.vibase
  | 0x26 => v.vec.vfill
  | 0x28 => (v.vec.table 0).gen
  | 0x29 => (v.vec.table 1).gen
  | 0x2A => (v.vec.table 2).gen
  | 0x2B => (v.vec.table 3).gen
  | _ => 0

/-- RSR (07 R183). -/
def Chip.doRsr (c : Chip) (t : Nat) (w : BitVec 64) : Chip :=
  let n := w.toNat
  let r := bits n 11 0
  c.ctl t w 0x20 (iRs1 n == 0 && iRs2 n == 0 && iFunc n == 0 && bits n 31 12 == 0 && (regPoints r).1 != .never) (fun v =>
    let wait := ((regPoints r).1 == .arrayEmpty && !v.arr.q.isEmpty) || ((regPoints r).1 == .vectorEmpty && !v.vec.q.isEmpty)
    if wait then c else c.retire t (v.setX (iRd n) (c.readReg t r)))

/-- The accumulator registers written (05 Table 5.2, 07 R183); ASTATUS is W1C. -/
def Acc.writeReg (a : Acc) (r x : Nat) : Acc :=
  match r with
  | 0x11 => { a with astatus := a.astatus - (a.astatus &&& x) }
  | 0x12 => { a with atid := x % 2 ^ 32 }
  | 0x13 => { a with astep := x }
  | 0x14 => { a with abase0 := x }
  | 0x15 => { a with abase1 := x }
  | 0x16 => { a with astride0 := x % 2 ^ 32 }
  | 0x17 => { a with astride1 := x % 2 ^ 32 }
  | _ => a

/-- The vector registers written (06 Table 6.1, 07 R183): VL is clamped, VSTATUS is W1C. -/
def Vec.writeReg (v : Vec) (r x : Nat) : Vec :=
  match r with
  | 0x20 => { v with vl := clampN x 1 128 }
  | 0x21 => { v with vstatus := v.vstatus - (v.vstatus &&& x) }
  | 0x22 => { v with vtid := x % 2 ^ 32 }
  | 0x23 => { v with vpass := x % 2 ^ 24 }
  | 0x24 => { v with vstep := x }
  | 0x25 => { v with vibase := x }
  | 0x26 => { v with vfill := x % 2 ^ 32 }
  | _ => v

/-- WSR (07 R183): an accumulator register is written when the array queue is empty, a vector register takes an entry of
the vector queue, in whose order it takes effect. -/
def Chip.doWsr (c : Chip) (t : Nat) (w : BitVec 64) : Chip :=
  let n := w.toNat
  let r := bits n 11 0
  c.ctl t w 0x21 (iRd n == 0 && iRs2 n == 0 && iFunc n == 0 && bits n 31 12 == 0 && (regPoints r).2 != .never) (fun v =>
    let x := v.xr (iRs1 n)
    if (regPoints r).2 = .arrayEmpty then
      (if v.arr.q.isEmpty then c.retire t { v with acc := v.acc.writeReg r x } else c)
    else if 4 ≤ v.vec.q.length then c
    else
      let idle := v.vec.q.all (·.done)
      let e : VqEnt := { serial := v.serial, pc := v.pc, w := n, wsr := some (r, x), xs := [], opnds := [], done := idle,
                         ftOld := none }
      let u := if idle then v.vec.writeReg r x else v.vec
      c.retire t { v with serial := v.serial + 1, vec := { u with q := u.q ++ [e] } })

/-! Synchronisation objects (07 R185 to R187) -/

/-- SOSIGNAL and SOSET: the signal is held until HELD_SIGNAL_SEND; a full set of 8 stalls issue (07 R186). -/
def Chip.holdSig (c : Chip) (t : Nat) (w : BitVec 64) (op : Nat) (isSet : Bool) : Chip :=
  let n := w.toNat
  c.ctl t w op (iRd n == 0 && iFunc n == 0 && bits n 31 0 == 0) (fun v =>
    let so := v.xr (iRs1 n)
    let x := if !isSet && iRs2 n == 0 then 1 else v.xr (iRs2 n) % 2 ^ 32
    if 16384 ≤ so then c.takeExc t exSoDenied so
    else if 8 ≤ v.held.length then c
    else
      let h : HeldSig := { serial := v.serial, so := so, value := x, isSet := isSet, pc := v.pc }
      c.retire t { v with serial := v.serial + 1, held := v.held ++ [h] })

/-- SOSIGNAL. -/
def Chip.doSosignal (c : Chip) (t : Nat) (w : BitVec 64) : Chip := c.holdSig t w 0x28 false

/-- SOSET. -/
def Chip.doSoset (c : Chip) (t : Nat) (w : BitVec 64) : Chip := c.holdSig t w 0x29 true

/-- SOWAIT (07 R187, 03 R88): a wait whose condition holds returns at once, another is registered and blocks issue; a
refusal by the home is taken while the controller is blocked, so TEPC holds the SOWAIT. -/
def Chip.doSowait (c : Chip) (t : Nat) (w : BitVec 64) : Chip :=
  let n := w.toNat
  c.ctl t w 0x2A (iFunc n == 0) (fun v =>
    let so := v.xr (iRs1 n)
    let target := v.xr (iRs2 n) % 2 ^ 32
    if 16384 ≤ so then c.takeExc t exSoDenied so
    else if !c.soAllowed v.ctx so then c.takeExc t exSoDenied so
    else if waitHolds (c.soValue so) target then c.retire t (v.setX (iRd n) (c.soValue so))
    else
      (c.setTile t { v with blocked := some (.sowait (iRd n) so (c.count (srcTile t)) (bits n 31 0)) }).modSo
        (fun s => { s with waits := s.waits ++ [{ so := so, target := target, who := .tile t }] }))

/-- SOREAD (07 R187). A refusal by the home is reported at the next instruction boundary (07 R185). -/
def Chip.doSoread (c : Chip) (t : Nat) (w : BitVec 64) : Chip :=
  let n := w.toNat
  c.ctl t w 0x2B (iRs2 n == 0 && iFunc n == 0 && bits n 31 0 == 0) (fun v =>
    let so := v.xr (iRs1 n)
    if 16384 ≤ so then c.takeExc t exSoDenied so
    else if c.soAllowed v.ctx so then c.retire t (v.setX (iRd n) (c.soValue so))
    else (c.retire t v).detect t exSoDenied so)

/-- HELD_SIGNAL_SEND (07 R186, 03 R89): the oldest held signal leaves once every earlier mover operation has completed;
one that stands behind a cancelled or faulted operation is discarded, with all after it. -/
def Chip.doHeldSignalSend (c : Chip) (t : Nat) : Chip :=
  let v := c.tileAt t
  match v.held with
  | [] => c
  | h :: rest =>
    if v.paused then c
    else if v.discards h then (c.setTile t { v with held := [] }).settleEnd t
    else if v.mover.any (fun o => decide (o.serial < h.serial)) then c
    else
      let d := c.setTile t { v with held := rest, sent := true }
      if c.soAllowed v.ctx h.so then (d.soApply v.ctx h.so h.value h.isSet).settleEnd t
      else (d.detect t exSoDenied h.so).settleEnd t

/-- SOWAIT_TIMEOUT (07 R187, 03 R88): the registration is removed, and the wait returns with bit 63 set and the counter
at that moment. A wait whose wake was committed has already returned. -/
def Chip.doSowaitTimeout (c : Chip) (t : Nat) : Chip :=
  let v := c.tileAt t
  match v.blocked with
  | some (.sowait _ so issued timeout) =>
    if timeout = 0 then c
    else
      let d := (c.passTo (srcTile t) (issued + timeout)).soWithdraw (.tile t)
      let x := v.wake (c.soValue so) true
      (d.setTile t { x with pc := v.pc }).goto t (v.pc + 8)
  | _ => c

/-- WORK_ITEM_DONE (07 R184): everything a halted item queued has drained. -/
def Chip.doWorkItemDone (c : Chip) (t : Nat) : Chip :=
  let v := c.tileAt t
  if v.item = .halting ∧ v.arr.q.isEmpty ∧ v.vec.q.isEmpty ∧ v.mover.isEmpty ∧ v.held.isEmpty then
    (c.setTile t { v with item := .ended 0 }).workEnded t 0 0
  else c

/-- ASYNC_EXCEPTION (03 R68): a detected exception is taken at the next instruction boundary, where a fetch outside
instruction memory after a returned wait is taken too (03 R65). -/
def Chip.doAsyncException (c : Chip) (t : Nat) : Chip :=
  let v := c.tileAt t
  if v.paused then c
  else match v.pend with
  | some (cause, tval) => if v.item = .running then c.takeExc t cause tval else c
  | none => if v.item = .running ∧ v.blocked.isNone ∧ 0x10000 ≤ v.pc then c.takeExc t exImem v.pc else c

end Sys2Proof.Machine
end

