-- ==== Sys2Proof/Machine/Mover.lean ====
section
/-!
DEFINITION. The tile mover: issue and its checks, and what an operation does when it completes.
-/

namespace Sys2Proof.Machine

/-! Fields of the mover layout (07 Table 7.6) -/

/-- RT. -/
def mRt (w : Nat) : Nat := bits w 55 51
/-- RD. -/
def mRd (w : Nat) : Nat := bits w 50 46
/-- RS. -/
def mRs (w : Nat) : Nat := bits w 45 41
/-- RX. -/
def mRx (w : Nat) : Nat := bits w 40 36
/-- RSO. -/
def mRso (w : Nat) : Nat := bits w 35 31
/-- SIG. -/
def mSig (w : Nat) : Bool := bit w 30
/-- ALL. -/
def mAll (w : Nat) : Bool := bit w 29
/-- SVAL. -/
def mSval (w : Nat) : Nat := bits w 15 0

/-- The field rules of a mover operation (07 R178, R188). -/
def moverLegal (w : Nat) : Bool :=
  bits w 28 16 == 0 && !mAll w && (if mSig w then mSval w != 0 else mSval w == 0 && mRso w == 0)

/-- The opcodes of 07 Table 7.7. -/
def moverOps : List Nat := [0x00, 0x01, 0x02, 0x03, 0x04, 0x05, 0x06, 0x07, 0x08, 0x10]

/-! Ranges of tile memory (03 R80) -/

/-- The ranges of tile memory that an operation reads. -/
def MoverOp.reads (o : MoverOp) : List (Int × Int) :=
  match o.src with
  | some d => if d.tmem then d.ranges else []
  | none => []

/-- The ranges of tile memory that an operation writes. -/
def MoverOp.writes (o : MoverOp) : List (Int × Int) :=
  match o.dst with
  | some d => if d.tmem then d.ranges else []
  | none => if o.op = 5 then [((o.rd : Int), (o.rd : Int) + o.rs)] else []

/-- Two operations whose tile-memory ranges overlap, where at least one writes, complete in issue order (03 R80). -/
def MoverOp.conflicts (a b : MoverOp) : Bool :=
  overlaps a.writes b.writes || overlaps a.writes b.reads || overlaps a.reads b.writes

/-- An operation stands behind an earlier one it must not overtake. -/
def MoverOp.waits (o : MoverOp) (l : List MoverOp) : Bool := l.any (fun p => decide (p.serial < o.serial) && p.conflicts o)

/-- The operations that can start are started. -/
def startMover (l : List MoverOp) : List MoverOp := l.map (fun o => { o with started := o.started || !o.waits l })

/-- The lowest token that no outstanding operation holds (07 R189). -/
def freeToken (l : List MoverOp) : Nat :=
  ((List.range 16).find? (fun k => !l.any (fun o => o.token == k))).getD 0

/-- The registers of a mover instruction. -/
def movRegs (w : Nat) : List Nat := [mRt w, mRd w, mRs w, mRx w, mRso w]

/-- A mover operation issues (07 R188, R189, 03 R80): its field rules, its object number, the checks of the operation on
its operands, and then a slot and a token. -/
def Chip.mov (c : Chip) (t : Nat) (w : BitVec 64) (op : Nat) (legal : Bool)
    (checks : Tile → Except (Nat × Nat) (Option TDesc × Option TDesc)) : Chip :=
  let v := c.tileAt t
  let n := w.toNat
  if v.issues w (movRegs n) && iClass n == 1 && iOp n == op then
    if !(moverLegal n && legal) then c.takeExc t exIllegal n
    else if mSig n ∧ 16384 ≤ v.xr (mRso n) then c.takeExc t exSoDenied (v.xr (mRso n))
    else match checks v with
      | .error (cause, tval) => c.takeExc t cause tval
      | .ok (dst, src) =>
        if 16 ≤ v.mover.length then c
        else
          let o : MoverOp :=
            { token := freeToken v.mover, serial := v.serial, op := op, pc := v.pc, rd := v.xr (mRd n), rs := v.xr (mRs n)
              rx := v.xr (mRx n), src := src, dst := dst, so := if mSig n then some (v.xr (mRso n)) else none
              sval := mSval n, started := false }
          c.retire t { v.setX (mRt n) o.token with serial := v.serial + 1, mover := startMover (v.mover ++ [o]), sent := v.sent || o.so.isSome }
  else c

/-! Checks at issue (03 R77 to R79, R549, 07 Table 7.7) -/

/-- Destination and source descriptors: both well formed and in bounds, of one FORMAT and MX bit (03 R75, R77). -/
def Tile.pairDescs (v : Tile) (rd rs : Nat) : Except (Nat × Nat) (TDesc × TDesc) :=
  match v.goodDesc rd, v.goodDesc rs with
  | .error e, _ => .error e
  | .ok _, .error e => .error e
  | .ok d, .ok s => if d.fmt = s.fmt ∧ d.mx = s.mx then .ok (d, s) else .error (exDesc, rd)

/-- COPY: equal extents (03 Table 3.8). -/
def checkCopy (n : Nat) (v : Tile) : Except (Nat × Nat) (Option TDesc × Option TDesc) :=
  match v.pairDescs (v.xr (mRd n)) (v.xr (mRs n)) with
  | .error e => .error e
  | .ok (d, s) =>
    if (List.range 6).all (fun i => d.extent i == s.extent i) then .ok (some d, some s) else .error (exDesc, d.off)

/-- SKEW and SKEWT: a skewed destination, a plain source of rank 1 or 2 within the block, and no SKEWT of MX blocks
(03 R78, R549). -/
def checkSkew (n : Nat) (transposed : Bool) (v : Tile) : Except (Nat × Nat) (Option TDesc × Option TDesc) :=
  match v.pairDescs (v.xr (mRd n)) (v.xr (mRs n)) with
  | .error e => .error e
  | .ok (d, s) =>
    let k := d.kSize
    let r := d.extent 1
    if d.layout ≠ 1 then .error (exDesc, d.off)
    else if transposed ∧ d.mx then .error (exDesc, d.off)
    else if s.layout ≠ 0 ∨ 2 < s.rank then .error (exDesc, s.off)
    else if (if transposed then r < s.extent 0 ∨ k < s.extent 1 else k < s.extent 0 ∨ r < s.extent 1) then .error (exDesc, s.off)
    else .ok (some d, some s)

/-- STAT and STATT: a stationary image as destination and a plain source; no MX STAT, and no MX STATT whose k0 is not a
multiple of 32 (03 R79, R549). -/
def checkStat (n : Nat) (transposed : Bool) (v : Tile) : Except (Nat × Nat) (Option TDesc × Option TDesc) :=
  match v.pairDescs (v.xr (mRd n)) (v.xr (mRs n)) with
  | .error e => .error e
  | .ok (d, s) =>
    let k0 := v.xr (mRx n) % 2 ^ 32
    if d.layout ≠ 2 then .error (exDesc, d.off)
    else if d.mx ∧ (!transposed ∨ k0 % 32 ≠ 0) then .error (exDesc, d.off)
    else if s.layout ≠ 0 then .error (exDesc, s.off)
    else .ok (some d, some s)

/-- FILL: offset and length multiples of 4, a length of 4 or more, within tile memory (07 Table 7.7). -/
def checkFill (n : Nat) (v : Tile) : Except (Nat × Nat) (Option TDesc × Option TDesc) :=
  let a := v.xr (mRd n)
  let len := v.xr (mRs n)
  if a % 4 ≠ 0 then .error (exMisaligned, a)
  else if len % 4 ≠ 0 ∨ len < 4 then .error (exMisaligned, len)
  else if tmemSize < a + len then .error (exBounds, max a tmemSize)
  else .ok (none, none)

/-- LOADI: offset, address and length multiples of 8, a length of 8 or more, within instruction memory
(07 Table 7.7). -/
def checkLoadi (n : Nat) (v : Tile) : Except (Nat × Nat) (Option TDesc × Option TDesc) :=
  let a := v.xr (mRd n)
  let va := v.xr (mRs n)
  let len := v.xr (mRx n)
  if a % 8 ≠ 0 then .error (exMisaligned, a)
  else if va % 8 ≠ 0 then .error (exMisaligned, va)
  else if len % 8 ≠ 0 ∨ len < 8 then .error (exMisaligned, len)
  else if 0x10000 < a + len then .error (exImem, max a 0x10000)
  else .ok (none, none)

/-- ACCSAVE and ACCRESTORE: a virtual address that is a multiple of 64 (07 Table 7.7). -/
def checkAcc (va : Nat) : Except (Nat × Nat) (Option TDesc × Option TDesc) :=
  if va % 64 ≠ 0 then .error (exMisaligned, va) else .ok (none, none)

/-! The mover instructions (03 Table 3.8, 07 Table 7.7) -/

/-- COPY. It also stands for the mover opcodes that the table does not list, which raise ILLEGAL_INSTR (07 R178). -/
def Chip.doCopy (c : Chip) (t : Nat) (w : BitVec 64) : Chip :=
  let n := w.toNat
  if (c.tileAt t).issues w [] && iClass n == 1 && !moverOps.contains (iOp n) then c.takeExc t exIllegal n
  else c.mov t w 0x00 (mRx n == 0) (checkCopy n)

/-- SKEW. -/
def Chip.doSkew (c : Chip) (t : Nat) (w : BitVec 64) : Chip := c.mov t w 0x01 (mRx w.toNat == 0) (checkSkew w.toNat false)
/-- SKEWT. -/
def Chip.doSkewt (c : Chip) (t : Nat) (w : BitVec 64) : Chip := c.mov t w 0x02 (mRx w.toNat == 0) (checkSkew w.toNat true)
/-- STAT. -/
def Chip.doStat (c : Chip) (t : Nat) (w : BitVec 64) : Chip := c.mov t w 0x03 true (checkStat w.toNat false)
/-- STATT. -/
def Chip.doStatt (c : Chip) (t : Nat) (w : BitVec 64) : Chip := c.mov t w 0x04 true (checkStat w.toNat true)
/-- FILL. -/
def Chip.doFill (c : Chip) (t : Nat) (w : BitVec 64) : Chip := c.mov t w 0x05 true (checkFill w.toNat)
/-- LOADI. -/
def Chip.doLoadi (c : Chip) (t : Nat) (w : BitVec 64) : Chip := c.mov t w 0x06 true (checkLoadi w.toNat)
/-- ACCSAVE. -/
def Chip.doAccsave (c : Chip) (t : Nat) (w : BitVec 64) : Chip :=
  let n := w.toNat
  c.mov t w 0x07 (mRs n == 0 && mRx n == 0) (fun v => checkAcc (v.xr (mRd n)))
/-- ACCRESTORE. -/
def Chip.doAccrestore (c : Chip) (t : Nat) (w : BitVec 64) : Chip :=
  let n := w.toNat
  c.mov t w 0x08 (mRd n == 0 && mRx n == 0) (fun v => checkAcc (v.xr (mRs n)))

/-- What the MWAIT `n` waits for is no longer outstanding (07 R189). -/
def Tile.mwaitOver (v : Tile) (n : Nat) : Bool :=
  if mAll n then v.mover.isEmpty else !v.mover.any (fun o => o.token == v.xr (mRs n) % 16)

/-- What blocks the controller is over; the end of a SOWAIT comes from its object's home. -/
def Tile.waitOver (v : Tile) : Bool :=
  match v.blocked with
  | some .mwait => v.mwaitOver v.fetch
  | some .await => v.arr.q.isEmpty
  | some .vwait => v.vec.q.isEmpty
  | _ => false

/-- A blocked instruction whose wait is over returns, and issue goes on behind it. -/
def Chip.unblock (c : Chip) (t : Nat) : Chip :=
  let v := c.tileAt t
  if v.waitOver then (c.setTile t { v with blocked := none }).goto t (v.pc + 8) else c

/-- MWAIT (07 R189): it returns at once when what it waits for is not outstanding, and otherwise blocks issue until the
operation has completed. -/
def Chip.doMwait (c : Chip) (t : Nat) (w : BitVec 64) : Chip :=
  let v := c.tileAt t
  let n := w.toNat
  if v.issues w [mRs n] && iClass n == 1 && iOp n == 0x10 then
    if mRt n ≠ 0 ∨ mRd n ≠ 0 ∨ mRx n ≠ 0 ∨ mRso n ≠ 0 ∨ mSig n ∨ mSval n ≠ 0 ∨ bits n 28 16 ≠ 0 ∨ (mAll n ∧ mRs n ≠ 0) then
      c.takeExc t exIllegal n
    else if v.mwaitOver n then c.retire t v
    else c.setTile t { v with blocked := some .mwait }
  else c

/-! What an operation moves -/

/-- One field moved: its source (byte, bit, width), or none for a constant, and its destination. -/
structure Mv where
  src : Option (Nat × Nat × Nat)
  konst : Nat
  dst : Nat × Nat × Nat
deriving DecidableEq, Repr

/-- The place of an element of a tensor of any layout (03 R74, R78, R79): for a skewed region i0 = k and i1 = r, for a
stationary image i0 = n and i1 = k. -/
def TDesc.place (d : TDesc) (cs : List Nat) (i0 : Nat) : Nat × Nat × Nat :=
  let i1 := cs.getD 0 0
  match d.layout with
  | 0 => ((d.elemAt cs i0).1, (d.elemAt cs i0).2, fmtBits d.fmt)
  | 1 => (d.base + (i1 + i0 % 128) * 128 * d.slot + i0 % 128 * d.slot, if d.fmt = 7 then i0 / 128 * 4 else 0,
          if d.fmt = 7 then 4 else 8 * d.slot)
  | _ => (d.base + i1 % 128 * 128 * d.slot + i0 * d.slot, if d.fmt = 7 then i1 / 128 * 4 else 0,
          if d.fmt = 7 then 4 else 8 * d.slot)

/-- The scale byte of a block of a tensor of any layout (03 R74, R78, 04 R93). -/
def TDesc.scalePlace (d : TDesc) (cs : List Nat) (i0 : Nat) : Nat :=
  let i1 := cs.getD 0 0
  match d.layout with
  | 0 => d.scaleAt cs i0
  | 1 => d.sbase + 8 * (i1 + 32 * (i0 / 32 % 4)) + i0 / 32
  | _ => d.sbase + 128 * (i1 / 32) + i0

/-- A stationary image: its blocks run along dimension 1, k, and otherwise along dimension 0 (02 R40, 03 R79, 04 R93). -/
def TDesc.imaged (d : TDesc) : Bool := d.layout == 2

/-- The first element of every block of an MX tensor, as coordinates: where COPY changes the layout, the scale of each goes to the place of its
coordinates (DESIGN CHOICE, assumption 102). -/
def copyBlocks (s : TDesc) : List (List Nat × Nat) :=
  if s.imaged then
    (List.range (s.extent 1 / 32)).flatMap (fun b => (List.range (s.extent 0)).map (fun n => ([32 * b, 0, 0, 0, 0], n)))
  else s.rows.flatMap (fun cs => (List.range (s.extent 0 / 32)).map (fun b => (cs, 32 * b)))

/-- COPY: every element, then every scale, in traversal order. -/
def copyMoves (d s : TDesc) : List Mv :=
  d.rows.flatMap (fun cs => (List.range (d.extent 0)).map (fun i =>
    let p := s.place cs i
    { src := some p, konst := 0, dst := d.place cs i })) ++
  (if d.mx then
    (copyBlocks s).map (fun p => { src := some (s.scalePlace p.1 p.2, 0, 8), konst := 0, dst := (d.scalePlace p.1 p.2, 0, 8) })
   else [])

/-- The source element of position (r, k) of a skewed block, if the source's extents reach it (03 R78). -/
def skewSrc (s : TDesc) (transposed : Bool) (r k : Nat) : Option (Nat × Nat × Nat) :=
  let i0 := if transposed then r else k
  let i1 := if transposed then k else r
  if i0 < s.extent 0 ∧ i1 < s.extent 1 then some (s.place [i1] i0) else none

/-- SKEW and SKEWT: every slot of the region, with zero where it holds no element, and the whole scale plane
(03 R78). -/
def skewMoves (d s : TDesc) (transposed : Bool) : List Mv :=
  let r := d.extent 1
  let nib := if d.fmt = 7 then 2 else 1
  (List.range (r + 127)).flatMap (fun l => (List.range 128).flatMap (fun k => (List.range nib).map (fun h =>
    let a := d.base + l * 128 * d.slot + k * d.slot
    let dst := if d.fmt = 7 then (a, 4 * h, 4) else (a, 0, 8 * d.slot)
    let row := l - k
    { src := if k ≤ l ∧ row < r then skewSrc s transposed row (k + 128 * h) else none, konst := 0, dst := dst }))) ++
  (if d.mx then
    (List.range (r + 127)).flatMap (fun l => (List.range 8).map (fun b =>
      let row := l - 32 * (b % 4)
      let holds := decide (32 * (b % 4) ≤ l) && decide (row < r) && decide (b < d.kSize / 32)
      let inside := decide (32 * b < s.extent 0) && decide (row < s.extent 1)
      { src := if holds && inside then some (s.scalePlace [row] (32 * b), 0, 8) else none
        konst := if holds then 0x7F else 0
        dst := (d.sbase + 8 * l + b, 0, 8) }))
   else [])

/-- STAT and STATT: B(k, n) for every line and slot, zero beyond the source's extents, and the scale image (03 R79,
04 R93). -/
def statMoves (d s : TDesc) (transposed : Bool) (k0 n0 : Nat) : List Mv :=
  (List.range d.kSize).flatMap (fun k => (List.range 128).map (fun n =>
    let i1 := if transposed then n0 + n else k0 + k
    let i0 := if transposed then k0 + k else n0 + n
    { src := if i0 < s.extent 0 ∧ i1 < s.extent 1 then some (s.place [i1] i0) else none, konst := 0
      dst := d.place [k] n })) ++
  (if d.mx then
    (List.range (d.kSize / 32)).flatMap (fun b => (List.range 128).map (fun n =>
      let i0 := k0 + 32 * b
      { src := if i0 < s.extent 0 ∧ n0 + n < s.extent 1 then some (s.scalePlace [n0 + n] i0, 0, 8) else none
        konst := 0x7F, dst := (d.sbase + 128 * b + n, 0, 8) }))
   else [])

/-- What the descriptors of an operation move. -/
def MoverOp.moves (o : MoverOp) : List Mv :=
  match o.dst, o.src with
  | some d, some s =>
    match o.op with
    | 0 => copyMoves d s
    | 1 => skewMoves d s false
    | 2 => skewMoves d s true
    | 3 => statMoves d s false (o.rx % 2 ^ 32) (o.rx / 2 ^ 32)
    | 4 => statMoves d s true (o.rx % 2 ^ 32) (o.rx / 2 ^ 32)
    | _ => []
  | _, _ => []

/-! Carrying it out -/

/-- What became of a mover's access to a byte: where it lies (tile memory, or package memory), or a fault. -/
inductive Place where
  | tmem (a : Nat)
  | phys (pa : Nat)
  | fault (cause tval : Nat) (refused : Option Nat)
deriving DecidableEq, Repr

/-- The place of a byte that a tile's mover reads or writes (03 R82, R83, R546, 08 R201, 15 R394). -/
def Chip.moverPlace (c : Chip) (t ctx : Nat) (tmem : Bool) (a : Nat) (wr : Bool) : Place :=
  if tmem then .tmem a
  else match c.xlate (moverTlbs t) ctx a wr with
    | .ok pa _ _ =>
      if !c.mem.backed pa || (wr && !c.writable pa 1) then .fault exAccess a (some pa) else .phys pa
    | .invalid _ => .fault exXlate a none
    | .denied _ => .fault exAccess a none
    | .unbacked p _ => .fault exAccess a (some p)
    | .poisoned p _ => .fault exPoison p none

/-- The translations and the lines of table entries that a mover's accesses to some addresses use, up to and with the first that
faults (09 R226). -/
def Chip.usedXlate (c : Chip) (t ctx : Nat) (vas : List (Nat × Bool)) : List TlbEnt × List Nat :=
  let r := vas.foldl (fun (acc : List TlbEnt × List Nat × Bool) p =>
    if acc.2.2 then acc
    else
      let x := c.xlate (moverTlbs t) ctx p.1 p.2
      let lines := x.ptes.foldl (fun l q => setIns l (q / 64)) acc.2.1
      match x with
      | .ok _ e _ => (if acc.1.contains e then acc.1 else acc.1 ++ [e], lines, false)
      | _ => (acc.1, lines, true)) ([], [], false)
  (r.1, r.2.1)

/-- A byte of the two memories at a place. -/
def byteAt (m : Mem) (tm : Memory) : Place → Byte
  | .tmem a => tm.read a
  | .phys pa => m.readB pa
  | .fault _ _ _ => 0

/-- The poison of the granule or line at a place. -/
def poisonAt (m : Mem) (v : Tile) : Place → Bool
  | .tmem a => setHas v.poison (a / 64)
  | .phys pa => m.poisonedLine (pa / 64)
  | .fault _ _ _ => false

/-- The bytes that a field of `nb` bits at bit `b` of byte `a` touches. -/
def fieldBytes (p : Nat × Nat × Nat) : List Nat := (List.range ((p.2.1 + p.2.2 + 7) / 8)).map (fun i => (p.1 + i) % 2 ^ 64)

/-- The die cache of a tile's die holds a line. -/
def Mem.dieHolds (m : Mem) (t ln : Nat) : Bool := (tabFind m.dir ln).any (fun e => e.heldBy (65 + t / 50))

/-- Memory as the die cache of a tile's die shows it: a copy that it holds is good where it was read before memory's line was found
uncorrectable (09 R232). -/
def Mem.seenBy (m : Mem) (t : Nat) : Mem :=
  { m with poison := m.poison.filter (fun ln => !(tabFind m.dir ln).any (fun e => e.clean.contains (65 + t / 50))) }

/-- One byte written by an operation: its place, its value, and whether it came from poison. -/
structure Wr where
  at_ : Place
  val : Byte
  poison : Bool
deriving DecidableEq, Repr

/-- The latest write of an operation to a byte, if it has written it. -/
def written (l : List Wr) (p : Place) : Option Wr := l.find? (fun w => w.at_ == p)

/-- A byte as an operation has written it so far, or another value. -/
def writtenOr (l : List Wr) (p : Place) (old : Byte) : Byte := match written l p with | some w => w.val | none => old

/-- The outcome of the fields moved so far: bytes written (newest first), a fault, and free values taken. -/
structure Moved where
  out : List Wr
  fault : Option (Nat × Nat × Option Nat)
  taken : Nat
deriving DecidableEq, Repr

/-- The first fault among some places. -/
def firstFault (l : List Place) : Option (Nat × Nat × Option Nat) :=
  l.findSome? (fun p => match p with | .fault k v r => some (k, v, r) | _ => none)

/-- One field moved: its source bytes are those that stood before the operation, or, where the operation has already
written one of them, either those or the written ones, as a free value decides, and the poison is that of the value taken
(03 R77, 07 R190). Faults end the operation. -/
def Chip.moveOne (c : Chip) (t : Nat) (v : Tile) (stm dtm : Bool) (st : Moved) (m : Mv) : Moved :=
  if st.fault.isSome then st
  else
    let sp := match m.src with
      | some p => (fieldBytes p).map (fun a => c.moverPlace t v.ctx stm a false)
      | none => []
    let dp := (fieldBytes m.dst).map (fun a => c.moverPlace t v.ctx dtm a true)
    match firstFault (sp ++ dp) with
    | some f => { st with fault := some f }
    | none =>
      let crossed := sp.any (fun p => (written st.out p).isSome)
      let late := crossed && Config.freeValue (c.free + st.taken) % 2 == 1
      let seen := if late then st.out else []
      let byte := fun p => writtenOr seen p (byteAt c.mem v.mem p)
      let poison := sp.any (fun p => match written seen p with | some w => w.poison | none => poisonAt (c.mem.seenBy t) v p)
      let val := match m.src with
        | some p => leVal (sp.map byte) / 2 ^ p.2.1 % 2 ^ p.2.2
        | none => m.konst
      let old := leVal (dp.map (fun p => writtenOr st.out p (byteAt c.mem v.mem p)))
      let new := putBits old m.dst.2.1 m.dst.2.2 val
      let ws := List.zipWith (fun p b => ({ at_ := p, val := b, poison := poison } : Wr)) dp (leBytes dp.length new)
      { out := ws.reverse ++ st.out, fault := none, taken := if crossed then st.taken + 1 else st.taken }

/-- All the fields moved, in order. -/
def Chip.moveAll (c : Chip) (t : Nat) (v : Tile) (stm dtm : Bool) (ms : List Mv) : Moved :=
  ms.foldl (c.moveOne t v stm dtm) { out := [], fault := none, taken := 0 }

/-- The granules of tile memory that bytes fall in. -/
def granulesOf (l : List Nat) : List Nat := l.foldl (fun s a => setIns s (a / 64)) []

/-- Poison of granules after bytes are written over them (03 R72, 07 R190): set where poison came in, cleared where all 64
bytes were written without it. -/
def rePoison (old : List Nat) (bytes : List Nat) (bad : List Nat) : List Nat :=
  (granulesOf bytes).foldl (fun s g =>
    if bad.contains g then setIns s g
    else if setHas s g && (List.range 64).all (fun i => bytes.contains (64 * g + i)) then setDel s g
    else s) old

/-- The tile-memory part of what an operation wrote. -/
def Tile.commit (v : Tile) (ws : List Wr) : Tile :=
  let here := ws.filterMap (fun w => match w.at_ with | .tmem a => some (a, w.val, w.poison) | _ => none)
  { v with
    mem := here.reverse.foldl (fun m p => m.write p.1 p.2.1) v.mem
    poison := rePoison v.poison (here.map (·.1)) ((here.filter (fun p => p.2.2)).map (fun p => p.1 / 64)) }

/-- The package-memory part, line by line, with the mover hint of the context (09 R239). -/
def Chip.commitPhys (c : Chip) (ws : List Wr) (hint : Nat) : Chip :=
  let here := ws.filterMap (fun w => match w.at_ with | .phys a => some (a, w.val, w.poison) | _ => none)
  let lines := granulesOf (here.map (·.1))
  lines.foldl (fun c0 ln =>
    let d := c0.meet [ln] (c0.hintUsable hint).isSome
    let mine := (here.filter (fun p => p.1 / 64 == ln)).reverse
    let ps := mine.map (fun p => (p.1 % 64, p.2.1))
    let bad := mine.any (fun p => p.2.2)
    match d.hintUsable hint with
    | some k => d.modMem (fun m => m.maskWrite ln ps bad (some k))
    | none => d.modMem (fun m => (m.maskWrite ln ps bad none).hintLost ln hint)) c

/-- Lines read through the die cache of a tile's die (09 R226): a hit is served there, a miss goes to the line's home. -/
def Chip.dieRead (c : Chip) (t : Nat) (lines : List Nat) : Chip :=
  (c.meet (lines.filter (fun ln => !c.mem.dieHolds t ln)) true).modMem (fun m => lines.foldl (fun d ln => d.share ln (65 + t / 50)) m)

/-- The operation leaves the mover: its token is free, others may start, and it signals its object with release when it
ended without fault (03 R80). The signal is sent at once: the specification does not say whether the release of 03 R86 makes it
wait for operations that were issued earlier and are still outstanding (DESIGN CHOICE, assumption 93). -/
def Chip.moverDone (c : Chip) (t : Nat) (o : MoverOp) : Chip :=
  let v := c.tileAt t
  let d := c.setTile t { v with mover := startMover (v.mover.filter (fun p => p.token != o.token)) }
  match o.so with
  | some so => if d.soAllowed v.ctx so then ((d.soSignal so o.sval).unblock t).settleEnd t else ((d.detect t exSoDenied so).unblock t).settleEnd t
  | none => (d.unblock t).settleEnd t

/-- The operation ends in a fault: it sends no signal, and what stands behind it is discarded (03 R69, R80). -/
def Chip.moverFault (c : Chip) (t : Nat) (o : MoverOp) (cause tval : Nat) (refused : Option Nat) : Chip :=
  let v := c.tileAt t
  let d := c.setTile t
    { v with mover := startMover (v.mover.filter (fun p => p.token != o.token))
             cancelFrom := some (match v.cancelFrom with | some k => min k o.serial | none => o.serial) }
  let d := match refused with
    | some pa => d.logRefused (srcTile t) pa 1
    | none => d
  (d.detect t cause tval).settleEnd t

/-- The source of an operation lies in tile memory. -/
def MoverOp.fromTile (o : MoverOp) : Bool := match o.src with | some d => d.tmem | none => true
/-- The destination of an operation lies in tile memory. -/
def MoverOp.toTile (o : MoverOp) : Bool := match o.dst with | some d => d.tmem | none => true

/-- The package-memory bytes that some moves of an operation read. -/
def MoverOp.readsOf (o : MoverOp) (l : List Mv) : List Nat :=
  if o.fromTile then [] else l.flatMap (fun m => match m.src with | some p => fieldBytes p | none => [])
/-- The package-memory bytes that some moves of an operation write. -/
def MoverOp.writesOf (o : MoverOp) (l : List Mv) : List Nat := if o.toTile then [] else l.flatMap (fun m => fieldBytes m.dst)

/-- The outcome of some moves of an operation. -/
def Chip.outcome (c : Chip) (t : Nat) (o : MoverOp) (ms : List Mv) : Moved := c.moveAll t (c.tileAt t) o.fromTile o.toTile ms

/-- The package after the accesses that some moves of an operation make before they write: translations kept, table entries and source
lines in the die cache (09 R226); `bad` are moves whose access ends in a fault. -/
def Chip.movesRead (c : Chip) (t : Nat) (o : MoverOp) (good bad : List Mv) : Chip :=
  let ctx := (c.tileAt t).ctx
  let tries := fun (l : List Mv) => (o.readsOf l).map (fun a => (a, false)) ++ (o.writesOf l).map (fun a => (a, true))
  let used := c.usedXlate t ctx (tries good ++ tries bad)
  let lines := (o.readsOf good).foldl
    (fun l a => match c.moverPlace t ctx o.fromTile a false with | .phys p => setIns l (p / 64) | _ => l) used.2
  (c.tlbFill (moverTlbs t) used.1).dieRead t lines

/-- What some moves have written put in its places. -/
def Chip.wrote (c : Chip) (t : Nat) (out : List Wr) (hint : Nat) : Chip :=
  (c.setTile t ((c.tileAt t).commit out)).commitPhys out hint

/-- COPY, SKEW, SKEWT, STAT and STATT carried out. An operation that faults has moved a free number of the fields before
the faulting one (assumption 15). -/
def Chip.runMoves (c : Chip) (t : Nat) (o : MoverOp) : Chip :=
  let ctx := (c.tileAt t).ctx
  let hint := (c.ctxAt ctx).hint
  let ms := o.moves
  let r := c.outcome t o ms
  match r.fault with
  | none => (((c.movesRead t o ms []).wrote t r.out hint).took (r.taken + 1)).moverDone t o
  | some (k, tv, ref) =>
    let ok := ms.takeWhile (fun m =>
      (firstFault ((o.readsOf [m]).map (fun a => c.moverPlace t ctx o.fromTile a false) ++
        (o.writesOf [m]).map (fun a => c.moverPlace t ctx o.toTile a true))).isNone)
    let good := ok.take (Config.freeValue (c.free + r.taken) % (ok.length + 1))
    (((c.movesRead t o good ((ms.drop ok.length).take 1)).wrote t (c.outcome t o good).out hint).took (r.taken + 1)).moverFault t o k tv ref

/-- FILL: the pattern repeated over the range; whole granules lose their poison (03 Table 3.8, R72). -/
def Chip.runFill (c : Chip) (t : Nat) (o : MoverOp) : Chip :=
  let v := c.tileAt t
  let pat := leBytes 4 (o.rx % 2 ^ 32)
  let bs := (List.range o.rs).map (fun i => pat.getD (i % 4) 0)
  (c.setTile t
    { v with mem := v.mem.writeN o.rd bs, poison := rePoison v.poison ((List.range o.rs).map (fun i => o.rd + i)) [] }).moverDone t o

/-- The places of the bytes of a virtual range. -/
def Chip.rangePlaces (c : Chip) (t ctx va n : Nat) (wr : Bool) : List Place :=
  (List.range n).map (fun i => c.moverPlace t ctx false (va + i) wr)

/-- The package after the accesses to a virtual range: translations kept, table entries and, for a read, the range's lines in the die
cache (09 R226). -/
def Chip.rangeUsed (c : Chip) (t ctx va n : Nat) (wr : Bool) : Chip :=
  let used := c.usedXlate t ctx ((List.range n).map (fun i => (va + i, wr)))
  let lines := if wr then used.2 else (c.rangePlaces t ctx va n wr).foldl (fun l p => match p with | .phys a => setIns l (a / 64) | _ => l) used.2
  (c.tlbFill (moverTlbs t) used.1).dieRead t lines

/-- LOADI: the image is copied into instruction memory; a poisoned line raises POISON and nothing is written
(07 R190). -/
def Chip.runLoadi (c : Chip) (t : Nat) (o : MoverOp) : Chip :=
  let v := c.tileAt t
  let ps := c.rangePlaces t v.ctx o.rs o.rx false
  let d := c.rangeUsed t v.ctx o.rs o.rx false
  match firstFault ps with
  | some (k, tv, ref) => d.moverFault t o k tv ref
  | none =>
    match ps.find? (poisonAt (c.mem.seenBy t) v) with
    | some (.phys pa) => d.moverFault t o exPoison (pa / 64 * 64) none
    | _ => (d.setTile t { v with imem := v.imem.writeN o.rd (ps.map (byteAt c.mem v.mem)) }).moverDone t o

/-! The accumulator save image (05 Table 5.4) -/

/-- A stored column. -/
def Acc.get (a : Acc) (bank row n : Nat) : Nat := tabGet 0 a.col ((bank * 512 + row) * 128 + n)
/-- A column set. -/
def Acc.put (a : Acc) (bank row n v : Nat) : Acc := { a with col := tabSet a.col ((bank * 512 + row) * 128 + n) v }
/-- The chunk count of a row. -/
def Acc.countOf (a : Acc) (bank row : Nat) : Nat := tabGet 0 a.count (bank * 512 + row)

/-- The bytes of the image. -/
def Acc.image (a : Acc) : List Byte :=
  (List.range 131072).flatMap (fun i => leBytes 4 (tabGet 0 a.col i)) ++
  (List.range 1024).flatMap (fun i => leBytes 4 (tabGet 0 a.count i)) ++
  leBytes 4 a.atid ++ leBytes 4 a.astride0 ++ leBytes 4 a.astride1 ++ leBytes 4 a.astatus ++ leBytes 8 a.astep ++
  leBytes 8 a.abase0 ++ leBytes 8 a.abase1 ++ zeros 24

/-- The length of the image. -/
def accImageLen : Nat := 528448

/-- The bank contents, counts and key registers read back from an image, with the poison of its lines (05 R135, R138). The
specification gives a poisoned line of the counts and registers no effect; its bytes are taken as they stand (DESIGN CHOICE,
assumption 94). -/
def Acc.ofImage (bs : List Byte) (bad : List Nat) : Acc :=
  let col := ((List.range 131072).map (fun i => (i, fieldLE bs (4 * i) 4))).filter (fun p => p.2 != 0)
  let cnt := ((List.range 1024).map (fun i => (i, fieldLE bs (524288 + 4 * i) 3))).filter (fun p => p.2 != 0)
  let pz := bad.filter (fun l => decide (l < 8192))
  { col := col, poison := pz, count := cnt
    astatus := (fieldLE bs 528396 4) % 32 ||| (if pz.isEmpty then 0 else 16)
    atid := fieldLE bs 528384 4, astride0 := fieldLE bs 528388 4, astride1 := fieldLE bs 528392 4
    astep := fieldLE bs 528400 8, abase0 := fieldLE bs 528408 8, abase1 := fieldLE bs 528416 8 }

/-- The writes of the image to its places, poison with each line. -/
def Acc.saveWrites (a : Acc) (ps : List Place) : List Wr :=
  List.zipWith (fun (p : Place) (ib : Nat × Byte) => ({ at_ := p, val := ib.2, poison := setHas a.poison (ib.1 / 64) } : Wr)) ps
    (List.zip (List.range accImageLen) a.image)

/-- ACCSAVE: the image is written to package memory, poison with each line (05 R136, R138). -/
def Chip.runAccsave (c : Chip) (t : Nat) (o : MoverOp) : Chip :=
  let v := c.tileAt t
  let ps := c.rangePlaces t v.ctx o.rd accImageLen true
  let d := c.rangeUsed t v.ctx o.rd accImageLen true
  match firstFault ps with
  | some (k, tv, ref) => d.moverFault t o k tv ref
  | none =>
    (d.commitPhys (v.acc.saveWrites ps).reverse (c.ctxAt v.ctx).hint).moverDone t o

/-- The poisoned lines of an image, by index. -/
def Mem.badOf (m : Mem) (ps : List Place) : List Nat :=
  (List.range (accImageLen / 64)).filter (fun l => match ps.getD (64 * l) (.tmem 0) with | .phys pa => m.poisonedLine (pa / 64) | _ => false)

/-- ACCRESTORE: the image is read back; a poisoned line marks its granule poisoned (05 R135, R138). -/
def Chip.runAccrestore (c : Chip) (t : Nat) (o : MoverOp) : Chip :=
  let v := c.tileAt t
  let ps := c.rangePlaces t v.ctx o.rs accImageLen false
  let d := c.rangeUsed t v.ctx o.rs accImageLen false
  match firstFault ps with
  | some (k, tv, ref) => d.moverFault t o k tv ref
  | none =>
    (d.setTile t { v with acc := Acc.ofImage (ps.map (byteAt c.mem v.mem)) ((c.mem.seenBy t).badOf ps) }).moverDone t o

/-- An accumulator image moves only when every earlier array-queue entry has written, as far as it still goes on, and every
earlier vector instruction has executed (05 R139, 07 R198; DEDUCED, assumption 95). -/
def Tile.accFree (v : Tile) (serial : Nat) : Bool :=
  !v.arr.q.any (fun e => e.kind != .load && v.arr.going e && decide (e.serial < serial)) &&
  !v.vec.q.any (fun e => !e.done && decide (e.serial < serial))

/-- MOVER_OP_COMPLETE (03 R80): the operation that holds the token completes or ends in a fault. An operation that has
to wait for an earlier one, or for the accumulators, does not complete yet. -/
def Chip.doMoverOpComplete (c : Chip) (t tok : Nat) : Chip :=
  let v := c.tileAt t
  match v.mover.find? (fun o => o.token == tok) with
  | some o =>
    if v.paused || !o.started || o.waits v.mover then c
    else match o.op with
      | 5 => c.runFill t o
      | 6 => c.runLoadi t o
      | 7 => if v.accFree o.serial then c.runAccsave t o else c
      | 8 => if v.accFree o.serial then c.runAccrestore t o else c
      | _ => c.runMoves t o
  | none => c

end Sys2Proof.Machine
end

