-- ==== Sys2Proof/Machine/Array.lean ====
section
/-!
DEFINITION. The matrix array and the matrix-vector path: issue into the array queue, the start of loads and passes, the
step of the array, chunk sums and accumulator writes, faults, pauses and the stop for pre-emption.
-/

namespace Sys2Proof.Machine

/-! Chunk sums (05 R125 to R128) -/

/-- A chunk total and the flags of 05 Table 5.3 that it sets. -/
structure Chunk where
  bits : Nat
  loss : Bool := false
  nanIn : Bool := false
  nan : Bool := false
  ovf : Bool := false
deriving DecidableEq, Repr

/-- The exponent floor(log2 |p|) of a nonzero finite value. -/
def FVal.expo : FVal → Option Int
  | .fin _ m e => if m = 0 then none else some (e + Nat.log2 m)
  | _ => none

/-- One product in the window whose least significant bit weighs 2^(emax − 54): its signed value and whether bits were
lost (05 R126). -/
def windowQ (emax : Int) (p : FVal) : Int × Bool :=
  match p with
  | .fin s m e =>
    let sh := e + 54 - emax
    let q : Nat := if 0 ≤ sh then m * 2 ^ sh.toNat else m / 2 ^ (-sh).toNat
    let lost := decide (sh < 0) && decide (m % 2 ^ (-sh).toNat ≠ 0)
    (if s then -(q : Int) else q, lost)
  | _ => (0, false)

/-- The chunk total of two operand lists (05 R125, R126, R128). -/
def chunkTotal (as bs : List FVal) : Chunk :=
  let ps := List.zipWith (fun a b => (mulV a b).1) as bs
  let inNan := (List.zipWith (fun (a b : FVal) => a.isNan || b.isNan) as bs).any id
  let posInf := ps.any (fun p => p == .inf false)
  let negInf := ps.any (fun p => p == .inf true)
  if inNan then { bits := canonNan fp32F, nanIn := true }
  else if ps.any FVal.isNan || (posInf && negInf) then { bits := canonNan fp32F, nan := true }
  else if posInf || negInf then { bits := infBits fp32F negInf }
  else
    match maxExp ps with
    | none => { bits := 0 }
    | some emax =>
      let qs := ps.map (windowQ emax)
      let t : Int := qs.foldl (fun a q => a + q.1) 0
      let r := roundF fp32F 0 false 0 (.fin (decide (t < 0)) t.natAbs (emax - 54))
      { bits := r.bits, loss := qs.any (·.2), ovf := r.ovf }

/-! Accumulator writes (05 R124, R129 to R132) -/

/-- ASTATUS with flags set (05 Table 5.3). -/
def Acc.flag (a : Acc) (loss ovf nan nanIn mark : Bool) : Acc :=
  { a with astatus := a.astatus ||| (b2n loss + 2 * b2n ovf + 4 * b2n nan + 8 * b2n nanIn + 16 * b2n mark) }

/-- How a pass or MVMUL writes: bank, overwrite or add, native or compatibility. -/
structure AccMode where
  bank : Nat
  add : Bool
  compat : Bool
  seed : Nat
deriving DecidableEq, Repr

/-- The draw of a compatibility rounding (05 R132). -/
def Acc.draw (a : Acc) (md : AccMode) (row count n : Nat) : Nat :=
  let base := if md.bank = 0 then a.abase0 else a.abase1
  let stride := if md.bank = 0 then a.astride0 else a.astride1
  word0 md.seed a.atid count 1 a.astep ((base + row * stride + n) % 2 ^ 64)

/-- One column written with a chunk total; `count` is the row's chunk count after the write (05 R124, R129, R131). -/
def Acc.writeCol (a : Acc) (md : AccMode) (row count n : Nat) (t : Chunk) : Acc :=
  let c := a.get md.bank row n
  let a := a.flag t.loss t.ovf t.nan t.nanIn false
  if md.compat then
    let x := if md.add then addV 5 (decodeF fp32F c) (decodeF fp32F t.bits) else (decodeF fp32F t.bits, false)
    let r := roundF bf16F 5 false (a.draw md row count n) x.1
    (a.put md.bank row n (r.bits * 65536)).flag false r.ovf x.2 false false
  else if md.add then
    let r := addF fp32F 0 c t.bits
    (a.put md.bank row n r.bits).flag false r.ovf r.invalid false false
  else a.put md.bank row n t.bits

/-- The granules that a write of columns 0 to n − 1 covers whole. -/
def wholeGranules (bank row n : Nat) : List Nat := (List.range (n / 16)).map (fun g => (bank * 512 + row) * 8 + g)

/-- A row written with its chunk totals: an overwrite clears the poison of the granules it covers and the chunk count, an
add raises the count (05 R124, R135). -/
def Acc.writeRow (a : Acc) (md : AccMode) (row : Nat) (ts : List Chunk) : Acc :=
  let count := if md.add then (a.countOf md.bank row + 1) % 2 ^ 24 else 0
  let b := (List.zip (List.range ts.length) ts).foldl (fun acc p => acc.writeCol md row count p.1 p.2) a
  { b with count := tabSet b.count (md.bank * 512 + row) count
           poison := if md.add then b.poison else setPut b.poison (wholeGranules md.bank row ts.length) false }

/-- The granules of the columns below n of some rows marked poisoned (05 R135). -/
def Acc.mark (a : Acc) (bank row rows n : Nat) : Acc :=
  let gs := (List.range rows).flatMap (fun i => (List.range ((n + 15) / 16)).map (fun g => (bank * 512 + row + i) * 8 + g))
  if gs.isEmpty then a else { a with poison := setPut a.poison gs true }.flag false false false false true

/-! Operands of passes and MVMUL (04 R92 to R94, R106) -/

/-- The formats and MX bits form a pair of 04 Table 4.1. -/
def pairOk (fa : Nat) (ma : Bool) (fb : Nat) (mb : Bool) : Bool :=
  (decide (3 ≤ fa) && decide (fa ≤ 6) && decide (3 ≤ fb) && decide (fb ≤ 6)) || (fa == 8 && fb == 8) ||
  (fa == 1 && fb == 1) || (fa == 2 && fb == 2) || (fa == 7 && fb == 7 && ma && mb)

/-- The steps of a format last 2 tc for BF16 and FP16 (04 Table 4.1); two lengths differ in this number. -/
def stepLen (fmt : Nat) : Nat := if fmt = 1 ∨ fmt = 2 then 2 else 1

/-- The value of an operand element: scaled by its block when its tensor is MX, as it stands otherwise (04 R92). -/
def operandV (fmt : Nat) (mx : Bool) (v scale : Nat) : FVal :=
  if mx then decodeMx fmt v scale
  else match fmtOfCode fmt with
    | some f => decodeV f v
    | none => .nan

/-- An element of a slot of a captured line. -/
def slotV (d : TDesc) (m : Memory) (line k : Nat) : Nat :=
  let a := line * 256 + k % 128 * d.slot
  let w := m.readLE a d.slot
  if d.fmt = 7 then w / 2 ^ (4 * (k / 128)) % 16 else w % 2 ^ fmtBits d.fmt

/-- Element k of row r of a pass, from the lines it has read (04 R94). -/
def ArrEnt.aV (e : ArrEnt) (r k : Nat) : FVal :=
  let b := k / 32
  operandV e.dA.fmt e.dA.mx (slotV e.dA e.lines (r + k % 128) k) (e.scales.read ((r + 32 * (b % 4)) * 8 + b)).toNat

/-- B(k, n) of a block (04 R90, R93). -/
def Block.bV (b : Block) (k n : Nat) : FVal :=
  let s := b.desc.slot
  let w := b.lines.readLE (k % 128 * 256 + n * s) s
  let v := if b.desc.fmt = 7 then w / 2 ^ (4 * (k / 128)) % 16 else w % 2 ^ fmtBits b.desc.fmt
  operandV b.desc.fmt b.desc.mx v (b.scales.read (k / 32 * 128 + n)).toNat

/-- The chunk total of row r and column n of a pass. -/
def ArrEnt.total (e : ArrEnt) (b : Block) (r n : Nat) : Chunk :=
  let ks := List.range e.dA.kSize
  chunkTotal (ks.map (e.aV r)) (ks.map (fun k => b.bV k n))

/-- An element of a plain operand of MVMUL in tile memory. -/
def plainV (m : Memory) (d : TDesc) (i1 i0 : Nat) : FVal :=
  if i0 < d.extent 0 then
    let p := d.elemAt [i1] i0
    operandV d.fmt d.mx (m.bitsAt p.1 p.2 (fmtBits d.fmt)) (if d.mx then (m.read (d.scaleAt [i1] i0)).toNat else 127)
  else .fin false 0 0

/-- The chunk total of chunk q of row i and column n of an MVMUL: part-chunks are padded with zeros (04 R107). -/
def mvChunk (m : Memory) (a w : TDesc) (i n q : Nat) : Chunk :=
  let k := a.kSize
  let ks := (List.range k).map (fun j => q * k + j)
  chunkTotal (ks.map (plainV m a i)) (ks.map (plainV m w n))

/-! Issue (07 R192, R193, 04 R95 to R104) -/

/-- The registers of an array instruction. -/
def arrRegs (w : Nat) : List Nat := [iRs1 w, iRs2 w]

/-- An array instruction issues: its field rules, then its checks, which give what the queue and the tile become; `none`
stalls issue. -/
def Chip.arr (c : Chip) (t : Nat) (w : BitVec 64) (op : Nat) (legal : Bool)
    (f : Tile → Except (Nat × Nat) (Option Tile)) : Chip :=
  let v := c.tileAt t
  let n := w.toNat
  if v.issues w (arrRegs n) && iClass n == 2 && iOp n == op then
    if !legal then c.takeExc t exIllegal n
    else match f v with
      | .error (cause, tval) => c.takeExc t cause tval
      | .ok none => c
      | .ok (some u) => c.retire t u
  else c

/-- The entry of an instruction of the array queue. -/
def mkEntry (kind : ArrKind) (v : Tile) (w : Nat) (opa opb : Nat) (dA : TDesc) (dW : Option TDesc) : ArrEnt :=
  { kind := kind, serial := v.serial, pc := v.pc, instr := w, opa := opa % 2 ^ 32, opb := opb % 2 ^ 32, dA := dA, dW := dW
    row0 := opb, m := bits w 40 32 + 1, bank := bits w 31 31, arow := bits w 30 22, n := bits w 21 15 + 1
    acc := bit w 14, compat := bit w 13, isNew := bit w 12, issue := v.arr.step, started := false, start := 0, blk := 0
    limit := bits w 40 32 + 1, written := 0, lines := [], scales := [] }

/-- The array queue takes no further entry: it holds 8, with a pending load that has latched its last value, which the
pre-emption record still has to hold (04 R96, R113; DEDUCED, assumption 96). -/
def Arr.full (a : Arr) : Bool := decide (8 ≤ a.q.length + (if a.latched.isSome then 1 else 0))

/-- MLOAD of the image descriptor at an offset (04 R101, R104, 07 R193). -/
def Tile.enqMload (v : Tile) (w off : Nat) : Except (Nat × Nat) (Option Tile) :=
  match v.goodDesc off with
  | .error e => .error e
  | .ok d =>
    if d.layout ≠ 2 then .error (exDesc, off)
    else if v.arr.pending.isSome then
      (if v.arr.q.any (fun e => e.kind == .pass && e.isNew) then .ok none else .error (exIllegal, w))
    else if v.arr.full then .ok none
    else
      let e := { mkEntry .load v w off 0 d none with row0 := 0, m := 0, limit := 0, blk := v.serial }
      let b : Block := { pc := v.pc, img := off, desc := d, lines := [], scales := [] }
      .ok (some { v with serial := v.serial + 1
                         arr := { v.arr with q := v.arr.q ++ [e], pending := some v.serial, claimed := false
                                             blocks := tabSet v.arr.blocks v.serial b } })

/-- MMUL of the region at an offset from a first row (04 R94, R95, R101, R103, 07 R193). -/
def Tile.enqMmul (v : Tile) (w off row0 : Nat) : Except (Nat × Nat) (Option Tile) :=
  match v.goodDesc off with
  | .error e => .error e
  | .ok d =>
    let e := mkEntry .pass v w off row0 d none
    if d.layout ≠ 1 ∨ 8191 < row0 ∨ d.extent 1 < row0 + e.m ∨ 512 < e.arow + e.m then .error (exDesc, off)
    else
      let blk := if e.isNew then (if v.arr.claimed then none else v.arr.pending) else v.arr.use
      match blk with
      | none => .error (exIllegal, w)
      | some k =>
        match tabFind v.arr.blocks k with
        | none => .error (exIllegal, w)
        | some b =>
          if !pairOk d.fmt d.mx b.desc.fmt b.desc.mx then .error (exDesc, off)
          else if v.arr.full then .ok none
          else
            .ok (some { v with serial := v.serial + 1
                               arr := { v.arr with q := v.arr.q ++ [{ e with blk := k }], use := some k
                                                   claimed := v.arr.claimed || e.isNew } })

/-- MVMUL of the operands at two offsets (04 R106, 07 R193). 04 R95 gives TVAL the offset of A's descriptor and does not say
which offset a fault of W's descriptor reports; W's is reported when W itself breaks a rule, and A's when the two do not fit
each other (DESIGN CHOICE, assumption 97). -/
def Tile.enqMvmul (v : Tile) (w oa ow : Nat) : Except (Nat × Nat) (Option Tile) :=
  match v.goodDesc oa, v.goodDesc ow with
  | .error e, _ => .error e
  | .ok _, .error e => .error e
  | .ok a, .ok d =>
    let plain := fun (x : TDesc) => x.tmem && x.layout == 0 && x.rank == 2
    if !plain d then .error (exDesc, ow)
    else if !plain a ∨ a.extent 0 ≠ d.extent 0 ∨ 16384 < a.extent 0 ∨ 8 < a.extent 1 ∨ 128 < d.extent 1 ∨
        512 < bits w 30 22 + a.extent 1 ∨ !pairOk a.fmt a.mx d.fmt d.mx then .error (exDesc, oa)
    else if v.arr.full then .ok none
    else
      let e := { mkEntry .mvmul v w oa ow a (some d) with row0 := 0, m := a.extent 1, n := d.extent 1, limit := a.extent 1 }
      .ok (some { v with serial := v.serial + 1, arr := { v.arr with q := v.arr.q ++ [e] } })

/-- An MLOAD with its operand registers. -/
def Tile.issueMload (v : Tile) (w : Nat) : Except (Nat × Nat) (Option Tile) := v.enqMload w (v.xr (iRs1 w))
/-- An MMUL with its operand registers. -/
def Tile.issueMmul (v : Tile) (w : Nat) : Except (Nat × Nat) (Option Tile) := v.enqMmul w (v.xr (iRs1 w)) (v.xr (iRs2 w))
/-- An MVMUL with its operand registers. -/
def Tile.issueMvmul (v : Tile) (w : Nat) : Except (Nat × Nat) (Option Tile) := v.enqMvmul w (v.xr (iRs1 w)) (v.xr (iRs2 w))

/-- MLOAD. -/
def Chip.doMload (c : Chip) (t : Nat) (w : BitVec 64) : Chip :=
  let n := w.toNat
  c.arr t w 0x00 (bits n 55 51 == 0 && bits n 45 0 == 0) (fun v => v.issueMload n)

/-- The array opcodes of 07 R192. -/
def arrOps : List Nat := [0x00, 0x01, 0x02, 0x08]

/-- MMUL. It also stands for the array opcodes that are not listed, which raise ILLEGAL_INSTR (07 R178). -/
def Chip.doMmul (c : Chip) (t : Nat) (w : BitVec 64) : Chip :=
  let n := w.toNat
  if (c.tileAt t).issues w [] && iClass n == 2 && !arrOps.contains (iOp n) then c.takeExc t exIllegal n
  else c.arr t w 0x01 (bits n 55 51 == 0 && bits n 11 0 == 0) (fun v => v.issueMmul n)

/-- MVMUL. -/
def Chip.doMvmul (c : Chip) (t : Nat) (w : BitVec 64) : Chip :=
  let n := w.toNat
  c.arr t w 0x02 (bits n 55 51 == 0 && bits n 40 32 == 0 && bits n 21 15 == 0 && bits n 12 0 == 0) (fun v => v.issueMvmul n)

/-- AWAIT (07 R192): it blocks issue until every array-queue entry has completed. -/
def Chip.doAwait (c : Chip) (t : Nat) (w : BitVec 64) : Chip :=
  let n := w.toNat
  let v := c.tileAt t
  if v.issues w [] && iClass n == 2 && iOp n == 0x08 then
    if bits n 55 0 ≠ 0 then c.takeExc t exIllegal n
    else if v.arr.q.isEmpty then c.retire t v
    else c.setTile t { v with blocked := some .await }
  else c

/-! Order against the vector engine and the mover (05 R139, 06 R151) -/

/-- The accumulator rows that an array entry writes: bank, first row, rows. -/
def ArrEnt.rows (e : ArrEnt) : Nat × Nat × Nat := (e.bank, e.arow, if e.kind = .load then 0 else e.m)

/-- The tile memory that an array entry reads. -/
def ArrEnt.reads (e : ArrEnt) : List (Int × Int) :=
  e.dA.ranges ++ (match e.dW with | some d => d.ranges | none => [])

/-- Two groups of accumulator rows overlap. -/
def rowsMeet (a b : Nat × Nat × Nat) : Bool :=
  a.1 == b.1 && decide (a.2.1 < b.2.1 + b.2.2) && decide (b.2.1 < a.2.1 + a.2.2)

/-- The accumulator rows that a vector-queue entry accesses. -/
def VqEnt.rows (e : VqEnt) : List (Nat × Nat × Nat) :=
  e.opnds.filterMap (fun o => match o with | .region row bank rows => some (bank, row, rows) | _ => none)

/-- An array entry has to wait for an earlier vector instruction that has not executed, or for an earlier accumulator
save or restore. -/
def Tile.arrWaits (v : Tile) (e : ArrEnt) : Bool :=
  v.vec.q.any (fun q => !q.done && decide (q.serial < e.serial) &&
    (q.rows.any (rowsMeet e.rows) || overlaps q.writes e.reads)) ||
  (e.kind != .load && v.mover.any (fun o => (o.op == 7 || o.op == 8) && decide (o.serial < e.serial)))

/-! Starts (04 R96 to R99, R103) -/

/-- The pending load has been consumed once the stream of its pass has started, and its block is then the active plane
(04 R101, R102). -/
def Arr.settle (a : Arr) : Arr :=
  let ps := a.q.filter (fun e => e.kind == .pass && e.started && decide (e.start ≤ a.step) && e.isNew)
  let act := match ps.getLast? with | some e => some e.blk | none => a.active
  let pend := match a.pending with
    | some k => if ps.any (fun e => e.blk == k) then none else some k
    | none => none
  { a with active := act, pending := pend, claimed := a.claimed && pend.isSome, latched := if pend.isSome then a.latched else none }

/-- The smallest start that the constraints allow a load (04 R99). -/
def Arr.loadStart (a : Arr) (e : ArrEnt) : Nat :=
  let base := max (e.issue + 3) (a.step + 1)
  let base := match a.lastLoad with | some l => max base (l + 128) | none => base
  let actLen := match a.active.bind (tabFind a.blocks) with | some b => some (stepLen b.desc.fmt) | none => none
  match actLen with
  | some n => if n = stepLen e.dA.fmt then base else max base a.lastDone
  | none => base

/-- The smallest start that the constraints allow a pass (04 R99); `load` is the wavefront start of the load it
consumes. -/
def Arr.passStart (a : Arr) (e : ArrEnt) (load : Option Nat) : Nat :=
  let base := max (e.issue + 3) (a.step + 1)
  let base := match a.lastE with | some l => max base (l + a.lastM) | none => base
  let base := match load with | some l => max base (l + 1) | none => base
  if a.lastE.isSome ∧ a.lastLen ≠ stepLen e.dA.fmt then max base a.lastDone else base

/-- A load whose step length differs from that of the active plane waits for every earlier pass, also for those that have not
started, and every load waits for an earlier MVMUL in the wide, shallow form (04 R99, R110 step 6). -/
def Tile.loadWaits (v : Tile) (e : ArrEnt) : Bool :=
  let other := match v.arr.active.bind (tabFind v.arr.blocks) with | some b => stepLen b.desc.fmt != stepLen e.dA.fmt | none => false
  v.arr.q.any (fun x => decide (x.serial < e.serial) &&
    ((other && x.kind == .pass && !x.started) || (v.mvpFenced && x.kind == .mvmul)))

/-- A load started at a step. -/
def Arr.startLoad (a : Arr) (e : ArrEnt) (s : Nat) : Arr :=
  { a with q := a.q.map (fun x => if x.serial = e.serial then { x with started := true, start := s } else x), lastLoad := some s }

/-- LOAD_START (04 R99): the first queued load that has not started. -/
def Chip.doLoadStart (c : Chip) (t : Nat) : Chip :=
  let v := c.tileAt t
  match v.arr.q.find? (fun e => e.kind == .load && !e.started) with
  | some e =>
    if v.paused || v.arr.stopped || v.loadWaits e || v.arrWaits e then c
    else c.setTile t { v with arr := v.arr.startLoad e (v.arr.loadStart e) }
  | none => c

/-- The steps at which a pass is in the feed: from its first line read to its last (04 R96). -/
def ArrEnt.inFeed (e : ArrEnt) (s : Nat) : Bool :=
  e.kind == .pass && e.started && decide (e.start ≤ s + 1) && decide (s + 1 ≤ e.start + e.m + 126)

/-- The wavefront start of the load that a pass with NEW consumes: that of the load in the queue, or of the last one started. -/
def Arr.waveStart (a : Arr) (e : ArrEnt) : Option Nat :=
  if e.isNew then ((a.q.find? (fun x => x.kind == .load && x.serial == e.blk)).map (·.start)).or a.lastLoad else none

/-- What a pass has still to wait for: the start of its load, earlier vector work and accumulator images, earlier MVMULs on its rows,
and a place in the feed, which holds four (04 R97). -/
def Tile.passWaits (v : Tile) (e : ArrEnt) : Bool :=
  let a := v.arr
  (e.isNew && a.q.any (fun x => x.kind == .load && x.serial == e.blk && !x.started)) || v.arrWaits e ||
    a.q.any (fun x => x.kind == .mvmul && decide (x.serial < e.serial) && (v.mvpFenced || rowsMeet x.rows e.rows)) ||
    decide (4 ≤ (a.q.filter (fun x => x.inFeed (a.passStart e (a.waveStart e) - 1))).length)

/-- A pass started at a step. -/
def Arr.startPass (a : Arr) (e : ArrEnt) (s : Nat) : Arr :=
  { a with
    q := a.q.map (fun x => if x.serial = e.serial then { x with started := true, start := s } else x)
    lastE := some s, lastM := e.m, lastLen := stepLen e.dA.fmt, lastDone := max a.lastDone (s + e.m + 255) }

/-- PASS_START (04 R96, R97, R99): the first queued pass that has not started, in issue order; it waits for its load's
start, for a place in the feed, and for earlier MVMULs on its rows. -/
def Chip.doPassStart (c : Chip) (t : Nat) : Chip :=
  let v := c.tileAt t
  let a := v.arr
  match a.q.find? (fun e => e.kind == .pass && !e.started) with
  | some e =>
    if v.paused || a.stopped || v.passWaits e then c
    else c.setTile t { v with arr := a.startPass e (a.passStart e (a.waveStart e)) }
  | none => c

/-! Faults of the array (04 R115 to R118) -/

/-- The AFAULT value of a fault (04 Table 4.7). -/
def afaultOf (cause unit row pc : Nat) : Nat := cause * 2 ^ 56 + unit * 2 ^ 48 + row % 512 * 2 ^ 32 + pc % 65536

/-- The granules of discarded rows marked poisoned; a row that drains after the fault clears none of them (05 R135). -/
def Tile.markRows (v : Tile) : Tile := { v with acc := v.arr.marks.foldl (fun a k => a.mark k.1 k.2.1 k.2.2.1 k.2.2.2) v.acc }

/-- What a fault leaves of a pass that stands in the queue with the faulting instruction: of that pass the rows before `f`, of later
passes none, of earlier ones all (04 R115). -/
def faultKeep (at_ f : Nat) (e : ArrEnt) : Nat := if e.serial = at_ then f else if at_ < e.serial then 0 else e.m

/-- The rows of a pass that have entered by a step (04 R112 step 2). -/
def ArrEnt.entered (e : ArrEnt) (s : Nat) : Nat := if e.started ∧ e.start ≤ s then min e.limit (s - e.start + 1) else 0

/-- The array after a fault: of each pass the first `keep` rows drain, and the others are discarded and their granules marked
poisoned; loads and MVMULs from the serial `from_` on are discarded, the MVMULs with their rows marked (04 R115 to R117). -/
def Tile.arrDiscard (v : Tile) (keep : ArrEnt → Nat) (from_ : Nat) : Tile :=
  let a := v.arr
  let lim := fun (e : ArrEnt) => if e.kind = .pass then min e.limit (keep e) else e.limit
  let marks := a.q.filterMap (fun e =>
    match e.kind with
    | .pass => if keep e < e.m then some (e.bank, e.arow + keep e, e.m - keep e, e.n) else none
    | .mvmul => if from_ ≤ e.serial then some (e.bank, e.arow, e.m, e.n) else none
    | .load => none)
  Tile.markRows { v with
    arr := { a with
      stopped := true, drain := false, pending := none, latched := none, reload := none, marks := a.marks ++ marks
      q := (a.q.map (fun e => { e with limit := lim e })).filter (fun e =>
        match e.kind with
        | .pass => decide (e.written < e.limit)
        | .mvmul => decide (e.serial < from_)
        | .load => decide (e.serial < from_) && a.q.any (fun x => x.kind == .pass && x.blk == e.serial && decide (0 < lim x))) } }

/-- A fault of the array taken: AFAULT is set and the exception detected (04 R115 step 4). -/
def Chip.arrFault (c : Chip) (t : Nat) (v : Tile) (cause unit row pc tval : Nat) : Chip :=
  (c.setTile t { v with arr := { v.arr with afault := if v.arr.afault = 0 then afaultOf cause unit row pc else v.arr.afault } }).detect
    t cause tval

/-! The step of the array (04 R91, R98, R100, R102) -/

/-- The line that a pass reads at a step, if any, relative to its first row's first line. -/
def ArrEnt.lineAt (e : ArrEnt) (s : Nat) : Option Nat :=
  if e.started ∧ e.start ≤ s + 1 then
    let l := s + 1 - e.start
    match e.kind with
    | .pass => if 0 < e.limit ∧ l < e.limit + 127 then some l else none
    | .load => if l < 128 then some l else none
    | .mvmul => none
  else none

/-- The tile-memory address of a line. -/
def ArrEnt.lineAddr (e : ArrEnt) (l : Nat) : Nat :=
  e.dA.base + (if e.kind = .pass then e.row0 + l else l) * 128 * e.dA.slot

/-- The banks that a line occupies (03 R70, 04 R100). -/
def lineBanks (a slot : Nat) : List Nat := (List.range slot).map (fun i => (a / 128 + i) % 8)

/-- What reads lines of tile memory: the entries of the queue and a reload of the active plane. -/
def Arr.readers (a : Arr) : List ArrEnt := a.q ++ a.reload.toList

/-- The hold steps that the lines read at a step need: each tc a bank serves one of them (04 R100). -/
def Arr.holds (a : Arr) : Nat :=
  let banks := a.readers.flatMap (fun e => match e.lineAt a.step with | some l => lineBanks (e.lineAddr l) e.dA.slot | none => [])
  ((List.range 8).foldl (fun m b => max m (banks.filter (· == b)).length) 0) - 1

/-- Bytes copied between two byte memories. -/
def copyBytes (dst : Memory) (at_ : Nat) (src : Memory) (a n : Nat) : Memory := dst.writeN at_ (src.readN a n)

/-- The rows of a pass that have an element in slots `k0` to `k1` of line `l`: the lowest, if any. -/
def lowestRow (limit l k0 k1 : Nat) : Option Nat :=
  ((List.range (k1 + 1 - k0)).map (fun i => k1 - i)).findSome? (fun k => if k ≤ l ∧ l - k < limit then some (l - k) else none)

/-- The poisoned granule that a pass's read of a line uses, with the faulting row: of the granules of the line and, for an MX operand,
of its 8 scale bytes, the one with the lowest row that has an element in it (04 R115). -/
def Tile.feedPoison (v : Tile) (e : ArrEnt) (l : Nat) : Option (Nat × Nat) :=
  let a := e.lineAddr l
  let s := e.dA.slot
  let per := 64 / s
  let hits := (List.range (2 * s)).filterMap (fun g =>
    if setHas v.poison (a / 64 + g) then (lowestRow e.limit l (g * per) (g * per + per - 1)).map (fun r => (a / 64 + g, r)) else none)
  let sg := (e.dA.sbase + 8 * (e.row0 + l)) / 64
  let scale := if e.dA.mx && setHas v.poison sg then
      ((List.range 4).map (fun i => 3 - i)).findSome? (fun b => if 32 * b ≤ l ∧ l - 32 * b < e.limit then some (sg, l - 32 * b) else none)
    else none
  (hits ++ scale.toList).foldl (fun (m : Option (Nat × Nat)) h => match m with | some k => if h.2 < k.2 then some h else m | none => some h) none

/-- The first poisoned granule that a load's read of a line uses: the line, and at its first line the scale image
(04 R116). -/
def Tile.loadPoison (v : Tile) (e : ArrEnt) (l : Nat) : Option Nat :=
  match v.poisonAt (e.lineAddr l) (128 * e.dA.slot) with
  | some g => some g
  | none => if l = 0 ∧ e.dA.mx then v.poisonAt e.dA.sbase (e.dA.kSize / 32 * 128) else none

/-- One pass reads its line of this step. -/
def Tile.feedLine (v : Tile) (e : ArrEnt) (l : Nat) : ArrEnt :=
  { e with
    lines := copyBytes e.lines (l * 256) v.mem (e.lineAddr l) (128 * e.dA.slot)
    scales := if e.dA.mx then copyBytes e.scales (l * 8) v.mem (e.dA.sbase + 8 * (e.row0 + l)) 8 else e.scales }

/-- One load reads its line of this step into its block (04 R98). The specification gives no step to the scale lines of 04 R93;
all of them are read with image line 0 (DESIGN CHOICE, assumption 98). -/
def Tile.loadLine (v : Tile) (e : ArrEnt) (l : Nat) (b : Block) : Block :=
  { b with
    lines := copyBytes b.lines (l * 256) v.mem (e.lineAddr l) (128 * e.dA.slot)
    scales := if l = 0 ∧ e.dA.mx then copyBytes b.scales 0 v.mem e.dA.sbase (e.dA.kSize / 32 * 128) else b.scales }

/-- Every line of this step read. -/
def Tile.readLines (v : Tile) : Tile :=
  let a := v.arr
  let q := a.q.map (fun e =>
    match e.kind, e.lineAt a.step with
    | .pass, some l => v.feedLine e l
    | _, _ => e)
  let blocks := a.readers.foldl (fun bs e =>
    match e.kind, e.lineAt a.step, tabFind bs e.serial with
    | .load, some l, some b => tabSet bs e.serial (v.loadLine e l b)
    | _, _, _ => bs) a.blocks
  { v with arr := { a with q := q, blocks := blocks } }

/-- The row of a pass that is written at this step (04 Table 4.3), if any. -/
def ArrEnt.rowAt (e : ArrEnt) (s : Nat) : Option Nat :=
  if e.kind = .pass ∧ e.started ∧ e.start + 255 ≤ s ∧ s - e.start - 255 < e.limit then some (s - e.start - 255) else none

/-- The rows that leave the array at this step promoted and written (05 R124). -/
def Tile.writeRows (v : Tile) (seed : Nat) : Tile :=
  let a := v.arr
  a.q.foldl (fun u e =>
    match e.rowAt a.step, tabFind a.blocks e.blk with
    | some r, some b =>
      let ts := (List.range e.n).map (e.total b r)
      { u with
        acc := u.acc.writeRow { bank := e.bank, add := e.acc, compat := e.compat, seed := seed } (e.arow + r) ts
        arr := { u.arr with q := u.arr.q.map (fun x => if x.serial = e.serial then { x with written := r + 1 } else x) } }
    | _, _ => u) v

/-- A load has latched its last value by a step (04 Table 4.3). -/
def ArrEnt.latchedBy (e : ArrEnt) (s : Nat) : Bool := e.kind == .load && e.started && decide (e.start + 254 ≤ s)

/-- The entries that have ended at this step leave: loads whose last value is latched, of which the pending one is remembered, and,
once the array has stopped, passes whose entered rows are written. -/
def Arr.retireEnts (a : Arr) (s : Nat) : Arr :=
  { a with
    q := a.q.filter (fun e =>
      !(e.latchedBy s || (a.stopped && !a.drain && e.kind == .pass && decide (e.limit ≤ e.written))))
    latched := match a.q.find? (fun e => e.latchedBy s && a.pending == some e.serial) with | some e => some e | none => a.latched
    reload := a.reload.filter (fun e => !e.latchedBy s) }

/-- The first poison that this step's reads meet: a pass with its row, or a load. -/
def Tile.stepPoison (v : Tile) : Option (ArrEnt × Nat × Nat) :=
  v.arr.readers.findSome? (fun e =>
    match e.lineAt v.arr.step with
    | some l =>
      (match e.kind with
       | .pass => (v.feedPoison e l).map (fun p => (e, p.1, p.2))
       | .load => (v.loadPoison e l).map (fun g => (e, g, 0))
       | .mvmul => none)
    | none => none)

/-- The tile after poison met by a reader of this step: for a load, row 0 of the pass that uses its block is at fault, and without
such a pass the entered rows of later passes still drain (04 R115, R116). -/
def Tile.poisonStop (v : Tile) (e : ArrEnt) (row : Nat) : Tile :=
  match e.kind with
  | .load =>
    let u := match v.arr.q.find? (fun x => x.kind == .pass && x.blk == e.serial) with
      | some p => v.arrDiscard (faultKeep p.serial 0) (p.serial + 1)
      | none => v.arrDiscard (fun x => if e.serial < x.serial then x.entered v.arr.step else x.m) (e.serial + 1)
    { u with arr := { u.arr with q := u.arr.q.filter (fun x => x.serial != e.serial) } }
  | _ => v.arrDiscard (faultKeep e.serial row) (e.serial + 1)

/-- The tc of the present step: 2 while a BF16 or FP16 pass is in the array (04 R91). -/
def Arr.stepTc (a : Arr) : Nat := if a.q.any (fun e => e.kind == .pass && e.started && stepLen e.dA.fmt == 2) then 2 else 1

/-- A row of an MVMUL and a row of a pass need the array port of one bank at this step (05 R123). -/
def Arr.portMeets (a : Arr) : Bool :=
  match a.port with
  | some (b, _) => a.q.any (fun e => (e.rowAt a.step).isSome && e.bank == b)
  | none => false

/-- One step of tc passes at the array ports. -/
def Arr.portPass (a : Arr) : Arr :=
  { a with port := match a.port with | some (b, k) => if k ≤ a.stepTc then none else some (b, k - a.stepTc) | none => none }

/-- A hold step: every position is kept, and the step is counted (04 R100, 05 R123). -/
def Tile.holdStep (v : Tile) : Tile := { v with arr := { v.arr.portPass with held := v.arr.held + 1 }, hold := v.hold + 1 }

/-- The array reads lines while another unit has work that may ask for their banks: a vector instruction, a mover operation or an
MVMUL. -/
def Tile.contended (v : Tile) : Bool :=
  v.arr.readers.any (fun e => (e.lineAt v.arr.step).isSome) &&
    (v.vec.q.any (fun e => !e.done) || !v.mover.isEmpty || v.arr.q.any (fun e => e.kind == .mvmul))

/-- A step without hold: the lines are read, the rows that leave are written, a poisoned line stops the array, and every event
moves on. -/
def Tile.advance (v : Tile) (seed : Nat) (hit : Option (ArrEnt × Nat × Nat)) : Tile :=
  let u := (v.readLines).writeRows seed
  let u := { u with arr := u.arr.retireEnts v.arr.step }
  let u := match hit with | some h => u.poisonStop h.1 h.2.2 | none => u.markRows
  { u with arr := ({ u.arr.portPass with step := v.arr.step + 1, held := 0 } : Arr).settle }

/-- ARRAY_STEP (04 R91, R98, R100, 05 R123): a hold step when the lines cannot all be read in one tc, when a row of an MVMUL takes
the port that a pass row needs, or when another requester takes a bank under 03 R71, which a free value decides; otherwise the
lines are read, a poisoned one raises the fault, the rows that leave are written, and every event moves on by one step. -/
def Chip.doArrayStep (c : Chip) (t : Nat) : Chip :=
  let v := c.tileAt t
  if v.paused || !v.powered then c
  else if v.arr.held < v.arr.holds || v.arr.portMeets then c.setTile t v.holdStep
  else
    let d := if v.contended then c.took 1 else c
    if v.contended && Config.freeValue c.free % 2 == 1 then d.setTile t v.holdStep
    else
      let hit := v.stepPoison
      let u := v.advance (c.ctxAt v.ctx).seed hit
      let e := match hit with
        | some h => d.arrFault t u exPoison (if h.1.kind = ArrKind.load then 1 else 0) h.2.2 h.1.pc (64 * h.2.1 + 2 ^ 63)
        | none => d.setTile t u
      (e.unblock t).settleEnd t

/-- PASS_COMPLETE (04 R96, R98): the oldest pass whose last row is written leaves the queue. -/
def Chip.doPassComplete (c : Chip) (t : Nat) : Chip :=
  let v := c.tileAt t
  if v.paused then c
  else match v.arr.q.find? (fun e => e.kind == .pass && e.started && e.written == e.m && decide (e.start + e.m + 255 ≤ v.arr.step)) with
  | some e => ((c.setTile t { v with arr := { v.arr with q := v.arr.q.filter (fun x => x.serial != e.serial) } }).unblock t).settleEnd t
  | none => c

/-! MVMUL (04 R106 to R110) -/

/-- The first poisoned granule that row i of an MVMUL depends on: those of A's row i and of W. -/
def Tile.mvPoison (v : Tile) (e : ArrEnt) : Option (Nat × Nat) :=
  match e.dW with
  | some w =>
    let span := fun (d : TDesc) (i : Nat) =>
      let p := d.elemAt [i] 0
      let n := (d.extent 0 * fmtBits d.fmt + 7) / 8
      match v.poisonAt p.1 n with
      | some g => some g
      | none => if d.mx then v.poisonAt (d.scaleAt [i] 0) (d.extent 0 / 32) else none
    match (List.range (w.extent 1)).findSome? (span w) with
    | some g => some (0, g)
    | none => (List.range e.m).findSome? (fun i => (span e.dA i).map (fun g => (i, g)))
  | none => none

/-- The rows of an MVMUL written in order: each chunk after the first is added (04 R107). -/
def Tile.mvWrite (v : Tile) (e : ArrEnt) (seed rows : Nat) : Acc :=
  match e.dW with
  | some w =>
    let chunks := ceilDiv (e.dA.extent 0) e.dA.kSize
    (List.range rows).foldl (fun acc i =>
      (List.range chunks).foldl (fun a q =>
        let ts := (List.range e.n).map (fun n => mvChunk v.mem e.dA w i n q)
        a.writeRow { bank := e.bank, add := e.acc || decide (0 < q), compat := e.compat, seed := seed } (e.arow + i) ts) acc) v.acc
  | none => v.acc

/-- An entry put back in its place in issue order. -/
def insertEnt (q : List ArrEnt) (e : ArrEnt) : List ArrEnt :=
  q.filter (fun x => decide (x.serial < e.serial)) ++ e :: q.filter (fun x => decide (e.serial < x.serial))

/-- The reload of a block into the active plane from its recorded image, beginning at a step: it reads the image lines as a load
with its wavefront start three steps later, and a pass that uses it starts one step after that (04 R110 step 5, R114). -/
def Tile.startReload (v : Tile) (k : Nat) (b : Block) : Tile :=
  let a := v.arr
  let e := mkEntry .load { v with pc := b.pc, serial := k } 0 b.img 0 b.desc none
  { v with arr := { a with
    blocks := tabSet a.blocks k b, reload := some { e with row0 := 0, m := 0, limit := 0, blk := k, started := true, start := a.step + 3 }
    lastLoad := some (a.step + 3), lastE := some (a.step + 4), lastM := 0 } }

/-- After a fallback MVMUL the active plane is reloaded from its recorded image, and a pending load is issued again
(04 R110 steps 5 and 6). -/
def Tile.reload (v : Tile) : Tile :=
  let u := match v.arr.active with
    | some k => (match tabFind v.arr.blocks k with | some b => v.startReload k b | none => v)
    | none => v
  match u.arr.latched with
  | some e =>
    { u with arr := { u.arr with latched := none, q := insertEnt u.arr.q { e with started := false, start := 0, issue := u.arr.step } } }
  | none => u

/-- MVMUL_COMPLETE (04 R97, R107, R110, R116): the first MVMUL in the queue computes and writes its rows and completes; a
poisoned operand makes the rows that depend on it poisoned. Its row writes take the array port of its bank for one tc each, which
the following array steps meet (05 R123, assumption 69). -/
def Chip.doMvmulComplete (c : Chip) (t : Nat) : Chip :=
  let v := c.tileAt t
  match v.arr.q.find? (fun e => e.kind == .mvmul) with
  | some e =>
    let earlier := v.arr.q.filter (fun x => decide (x.serial < e.serial))
    if v.paused || !v.arr.going e || v.arrWaits e || earlier.any (fun x => x.kind == .pass && rowsMeet x.rows e.rows) ||
        (v.mvpFenced && !earlier.isEmpty) then c
    else
      let seed := (c.ctxAt v.ctx).seed
      let out := fun (acc : Acc) => { v with acc := acc, arr := { v.arr with q := v.arr.q.filter (fun x => x.serial != e.serial) } }
      match v.mvPoison e with
      | some (i, g) =>
        let u := out (v.mvWrite e seed i)
        let u := { u with arr := { u.arr with marks := u.arr.marks ++ [(e.bank, e.arow + i, e.m - i, e.n)] } }
        ((c.arrFault t (u.arrDiscard (faultKeep e.serial 0) (e.serial + 1)) exPoison (if v.mvpFenced then 3 else 2) i e.pc
          (64 * g + 2 ^ 63)).unblock t).settleEnd t
      | none =>
        let u := (out (v.mvWrite e seed e.m)).markRows
        let u := if v.mvpFenced then (if v.arr.stopped then u else u.reload) else { u with arr := { u.arr with port := some (e.bank, e.m) } }
        ((c.setTile t u).unblock t).settleEnd t
  | none => c

/-- ARRAY_HW_FAULT (04 R117): an uncorrectable fault of the array, or of the matrix-vector path. Rows still in the array are not
written, and their granules are marked with those of the rows behind them (DEDUCED, assumption 100); the tile takes HW_FAULT with the unit's code (03 R547), and
TILE_HW_FAULT fences it. Where no entry of the faulting unit is in the queue, AFAULT.PC is the controller's (DEDUCED, assumption
27). -/
def Chip.doArrayHwFault (c : Chip) (t : Nat) (mvp : Bool) : Chip :=
  let v := c.tileAt t
  let a := v.arr
  let unit := if v.mvpFenced then 3 else 2
  let code := if v.mvpFenced then 0x03 else 0x04
  let stop := fun (u : Tile) => { u with arr := { u.arr with q := [] } }
  if mvp then
    match a.q.find? (fun e => e.kind == .mvmul) with
    | some e =>
      let u := v.arrDiscard (fun x => if e.serial < x.serial then 0 else x.written) e.serial
      c.arrFault t { stop u with mvpFenced := true } exHwFault unit 0 e.pc code
    | none => c.arrFault t { stop (v.arrDiscard (fun x => x.written) v.serial) with mvpFenced := true } exHwFault unit 0 v.pc code
  else
    match a.q.find? (fun e => e.kind == .pass && decide (e.written < e.m)), (a.q.find? (fun e => e.kind == .load)).or a.reload with
    | some e, _ => c.arrFault t (stop (v.arrDiscard (faultKeep e.serial e.written) (e.serial + 1))) exHwFault 0 e.written e.pc 0x03
    | none, some e => c.arrFault t (stop (v.arrDiscard (fun x => x.m) (e.serial + 1))) exHwFault 1 0 e.pc 0x03
    | none, none => c.arrFault t (stop (v.arrDiscard (fun x => x.m) v.serial)) exHwFault 0 0 v.pc 0x03

/-! Pauses (04 R111) -/

/-- PAUSE_SEGMENT_START (18 R466, 04 R111): the clock of the tile's island is gated at a step boundary. -/
def Chip.doPauseSegmentStart (c : Chip) (t : Nat) : Chip :=
  let v := c.tileAt t
  if v.powered then c.setTile t { v with paused := true } else c

/-! The stop for pre-emption (04 R112, 07 R198) -/

/-- The array stops for pre-emption: entered rows go on, a running load whose pass has entered no row and a running MVMUL
are abandoned without effect, and every entry stays for the record. -/
def Arr.preempt (a : Arr) : Arr :=
  let entered := fun (e : ArrEnt) => e.entered a.step
  let used := fun (k : Nat) => a.q.any (fun e => e.kind == .pass && e.isNew && e.blk == k && decide (0 < entered e))
  { a with
    stopped := true, drain := true, reload := none
    q := a.q.map (fun e =>
      match e.kind with
      | .pass => { e with limit := entered e }
      | .load => if used e.serial then e else { e with started := false }
      | .mvmul => e) }

/-- PREEMPT_REQUEST (04 R112, 07 R198): issue stops, a registered SOWAIT is withdrawn, and the drain starts. An exception that has
been detected is taken instead, since the stop is an instruction boundary (03 R68, 04 R118); in a pause the request waits for the
clock (R111). -/
def Chip.doPreemptRequest (c : Chip) (t : Nat) : Chip :=
  let v := c.tileAt t
  if v.item ≠ .running then c
  else if v.paused then c.setTile t { v with preAsk := true }
  else match v.pend with
    | some (cause, tval) => c.takeExc t cause tval
    | none => (c.setTile t { v with item := .saving, blocked := none, arr := v.arr.preempt }).soWithdraw (.tile t)

/-- PAUSE_SEGMENT_END (04 R111): the clock returns with all state held, and a pre-emption request that came meanwhile reaches the
tile. -/
def Chip.doPauseSegmentEnd (c : Chip) (t : Nat) : Chip :=
  let v := c.tileAt t
  let d := c.setTile t { v with paused := false, preAsk := false }
  if v.preAsk then d.doPreemptRequest t else d

end Sys2Proof.Machine
end

