-- ==== Sys2Proof/Machine/Links.lean ====
section
/-!
DEFINITION. Die-to-die links: flits, lane repair and withdrawn groups (01 R15 to R20); the recalibration of 18 R480; and
paired captures (01 R30 to R33).
-/

namespace Sys2Proof.Machine

/-! Links -/

/-- The die codes that a link joins (01 Table 1.2). -/
def linkEnds (l : Nat) : Nat × Nat :=
  match l with
  | 0 => (0, 1)
  | 1 => (2, 3)
  | 2 => (0, 2)
  | 3 => (1, 3)
  | 12 => (5, 4)
  | _ => if l < 8 then (4, l - 4) else (5, l - 8)

/-- The intermediate die of a pair of tensor dies that share no link (01 R16): the other die of the sender's row. -/
def dieBetween (a b : Nat) : Option Nat :=
  match a, b with
  | 0, 3 => some 1
  | 3, 0 => some 2
  | 1, 2 => some 0
  | 2, 1 => some 3
  | _, _ => none

/-- The link that joins two dies, and whether it is run from its second end to its first. -/
def linkBetween (a b : Nat) : Option (Nat × Bool) :=
  ((List.range 13).find? (fun l => linkEnds l == (a, b) || linkEnds l == (b, a))).map (fun l => (l, linkEnds l != (a, b)))

/-- The route of traffic between two dies (01 R16): the one path that every flit of the pair takes, as links with their direction. -/
def routeOf (a b : Nat) : List (Nat × Bool) :=
  let hops := match dieBetween a b with
    | some m => [(a, m), (m, b)]
    | none => [(a, b)]
  hops.filterMap (fun p => linkBetween p.1 p.2)

/-- Lane groups that a link is built with. -/
def linkGroups (l : Nat) : Nat := if l < 4 then 5 else 3

/-- The network-on-chip island that receives a direction of a link: the second end, or the first when it runs back. -/
def linkReceiver (l : Nat) (rev : Bool) : Nat := srcNoc (if rev then (linkEnds l).1 else (linkEnds l).2)

/-- The key of a direction of a link. -/
def linkDir (l : Nat) (rev : Bool) : Nat := 2 * l + b2n rev

/-- A direction of a lane group. -/
def Chip.linkGrp (c : Chip) (l : Nat) (rev : Bool) (g : Nat) : LinkGrp := tabGet LinkGrp.fresh c.links.grp (linkDir l rev * 5 + g)

/-- A direction of a lane group set. -/
def Chip.setLinkGrp (c : Chip) (l : Nat) (rev : Bool) (g : Nat) (x : LinkGrp) : Chip :=
  c.modLinks (fun k => { k with grp := tabSet k.grp (linkDir l rev * 5 + g) x })

/-- The group is built and not withdrawn. -/
def Chip.groupIn (c : Chip) (l g : Nat) : Bool := decide (g < linkGroups l) && !c.links.withdrawn.contains (5 * l + g)

/-- Early flits that follow on without a gap: the next number to deliver, and those still early. -/
def absorb : Nat → Nat → List Nat → Nat × List Nat
  | 0, n, e => (n, e)
  | k + 1, n, e => if e.contains n then absorb k (n + 1) (e.filter (· != n)) else (n, e)

/-- A flit without error at a receiver: delivered in sequence order (01 R17). -/
def LinkRx.take (r : LinkRx) (seq : Nat) : LinkRx :=
  let retry := r.retry.filter (· != seq)
  if seq < r.next then { r with retry := retry }
  else if seq = r.next then
    let a := absorb r.early.length (r.next + 1) r.early
    { next := a.1, early := a.2, retry := retry }
  else { r with early := setIns r.early seq, retry := retry }

/-- FLIT_RECEIVE (01 R17): a flit with a CRC error goes back to the sender's retry buffer, and its lane, when the parity
names one, is charged with the error at the receiving island's count; any other flit is delivered in order. -/
def Chip.doFlitReceive (c : Chip) (l : Nat) (rev : Bool) (g seq : Nat) (crc : Bool) (lane : Option (Fin 66)) : Chip :=
  let d := linkDir l rev
  let rx := tabGet LinkRx.fresh c.links.rx d
  let grp := c.linkGrp l rev g
  if !c.groupIn l g || grp.down then c
  else if crc then
    let e := c.modLinks (fun k => { k with rx := tabSet k.rx d { rx with retry := setIns rx.retry seq } })
    match lane with
    | some n =>
      let at_ := c.count (linkReceiver l rev) :: tabGet [] grp.errs n.val
      e.setLinkGrp l rev g { grp with errs := tabSet grp.errs n.val (at_.take 17) }
    | none => e
  else c.modLinks (fun k => { k with rx := tabSet k.rx d (rx.take seq) })

/-- 1 ms of a network-on-chip counter. -/
def msNoc : Nat := 2000000

/-- A lane has more than 16 attributed errors within 1 ms (01 R18). -/
def laneFailing (at_ : List Nat) : Bool :=
  at_.length == 17 && decide (at_.headD 0 - at_.getLastD 0 < msNoc)

/-- The lowest-numbered spare that no lane of the group uses (01 R18). -/
def LinkGrp.spare (x : LinkGrp) : Option Nat := [64, 65].find? (fun s => !x.spares.any (fun p => p.2 == s))

/-- A lane carries data: an original lane that no spare replaces, or a spare in use that is not itself replaced. -/
def LinkGrp.carries (x : LinkGrp) (lane : Nat) : Bool :=
  (decide (lane < 64) || x.spares.any (fun p => p.2 == lane)) && !x.spares.any (fun p => p.1 == lane)

/-- A group withdrawn from service; the last one of a link is fatal (01 R19, R20). -/
def Chip.withdraw (c : Chip) (l g : Nat) : Chip :=
  let d := (c.modLinks (fun k => { k with withdrawn := setIns k.withdrawn (5 * l + g) })).logEv .linkDegraded (srcPhy l) [l, g]
  if (List.range (linkGroups l)).all (fun i => !d.groupIn l i) then d.fatal .linkLost (srcPhy l) [l, g] 0x10 (Config.linkDetail l g)
  else d

/-- LANE_REPAIR (01 R18 to R20): the group stops in the direction of the failing lane, and the lane is replaced by a spare; with no spare
left the group is withdrawn. Spares are of a group and direction, and so the other direction goes on (DEDUCED, assumption 86). -/
def Chip.doLaneRepair (c : Chip) (l : Nat) (rev : Bool) (g lane : Nat) : Chip :=
  let x := c.linkGrp l rev g
  if c.groupIn l g && x.carries lane && laneFailing (tabGet [] x.errs lane) then
    match x.spare with
    | some s =>
      c.setLinkGrp l rev g { x with down := true, spares := x.spares ++ [(lane, s)], repairing := setIns x.repairing lane
                                    errs := tabDel x.errs lane }
    | none => (c.setLinkGrp l rev g { x with errs := tabDel x.errs lane }).withdraw l g
  else c

/-- LANE_REPAIR_DONE (01 R18): the group has retrained and replayed, is in service again, and the link logs each lane that
was repaired. -/
def Chip.doLaneRepairDone (c : Chip) (l : Nat) (rev : Bool) (g : Nat) : Chip :=
  let x := c.linkGrp l rev g
  if x.down && c.groupIn l g then
    x.repairing.foldl (fun (d : Chip) lane => d.logEv .laneRepaired (srcPhy l) [l, b2n rev, g, lane])
      (c.setLinkGrp l rev g { x with down := false, repairing := [] })
  else c

/-- GROUP_RECALIBRATION (18 R480): one group of a link rests for at most 5 µs; neither its lanes nor its flits change. -/
def Chip.doGroupRecalibration (c : Chip) (_l _g : Nat) : Chip := c

/-! Paired captures -/

/-- The index of a source identifier is in range for its class (01 Table 1.5). -/
def srcOk (src : Nat) : Bool :=
  let i := src % 4096
  match src / 4096 with
  | 1 => decide (i < 200)
  | 2 => decide (i < 6)
  | 3 => decide (i < 208)
  | 4 => decide (i < 64)
  | 5 => i == 0
  | 6 => decide (i < 13)
  | 7 => i == 0
  | 8 => i == 0
  | 9 => i == 0
  | _ => false

/-- The die on which an island lies: a die code, 16 + s for the base die of stack s, or 32 + l for the PHYs of a link, which
lie on two dies, one at each end, so that a PHY is on no single die; an identifier that names no island counts as on HD, where the dispatch
complex answers for it (DESIGN CHOICE, assumption 87). -/
def srcDie (src : Nat) : Nat :=
  let i := src % 4096
  match src / 4096 with
  | 1 => i / 50
  | 2 => i
  | 3 => if i < 192 then 16 + i / 16 else 4
  | 5 => 5
  | 6 => 32 + i
  | _ => 4

/-- The island has power. -/
def Chip.powered (c : Chip) (src : Nat) : Bool := (c.island src).on && (c.groupOf src).stop.isNone

/-- One entry of a capture record (01 Table 1.6, R32). -/
def Chip.capEntry (c : Chip) (src : Nat) : List Byte :=
  let ok := srcOk src && c.powered src
  leBytes 2 src ++ leBytes 1 (b2n ok) ++ leBytes 1 (if srcOk src then c.restarts src else 0) ++ zeros 4 ++
    leBytes 8 (if ok then c.count src else 0)

/-- All islands lie on one die (01 R30). -/
def oneDie (l : List Nat) : Bool :=
  match l.map srcDie with
  | [] => true
  | d :: r => decide (d < 32) && r.all (· == d)

/-- A capture record: BAD_SOURCE for an identifier that names no island, and the span bound that applies (01 R30, R32,
R33). -/
def Chip.capRecord (c : Chip) (q : CapReq) : List Byte :=
  let bad := q.srcs.any (fun s => !srcOk s)
  leBytes 2 q.reqId ++ leBytes 1 q.srcs.length ++ leBytes 1 (1 + 2 * b2n bad) ++ leBytes 4 (if oneDie q.srcs then 60 else 160) ++ zeros 8 ++
    q.srcs.flatMap c.capEntry

/-- The record of a request that finds the queue full: it captures nothing, so that every entry has VALID = 0 (01 R31, R33). -/
def capBusyRecord (q : CapReq) : List Byte :=
  leBytes 2 q.reqId ++ leBytes 1 q.srcs.length ++ leBytes 1 4 ++ leBytes 4 (if oneDie q.srcs then 60 else 160) ++ zeros 8 ++
    q.srcs.flatMap (fun s => leBytes 2 s ++ zeros 14)

/-- A capture request taken (01 R31): the first of the list is the one under way, and up to 16 wait behind it; a further one is refused,
and a refused register request writes a record that says so. -/
def Chip.capAsk (c : Chip) (q : CapReq) : Chip :=
  if c.cap.queue.length < 17 then c.modCap (fun k => { k with queue := k.queue ++ [q] })
  else match q.key with
    | some key => c.finish key 0x0F q.reqId
    | none => c.devWrite srcDispatch q.record (capBusyRecord q) 0

end Sys2Proof.Machine
end

