-- ==== Sys2Proof/Machine/Commander.lean ====
section
/-!
DEFINITION. Commanders and rings (14): the CXL port, doorbells and the consumption of descriptors, completion records and
the completion log, registration, loss and return.
-/

namespace Sys2Proof.Machine

/-! Firmware processors that serve rings (15 R390, R417, R419) -/

/-- A firmware processor. -/
def Chip.fpAt (c : Chip) (k : Nat) : Fp := tabGet (Fp.fresh k) c.fw.fp k
/-- A firmware processor set. -/
def Chip.setFp (c : Chip) (k : Nat) (f : Fp) : Chip := c.modFw (fun w => { w with fp := tabSet w.fp k f })

/-- The processor that serves a ring, if one in service does. -/
def Chip.serving (c : Chip) (r : Nat) : Option Nat :=
  let s := (c.fpAt (r % 4)).server
  if c.fw.running && (c.fpAt s).service then some s else none

/-! CXL.cache transactions to commander memory (14 R362, R365, R377) -/

/-- A read or write of a remote commander's memory begun. -/
def Chip.cxlAsk (c : Chip) (cm addr : Nat) (data : Option (List Byte)) (use : CxlUse) : Chip :=
  c.modCxl (fun x => { x with out := x.out ++ [{ id := x.next, cm := cm, addr := addr, data := data, use := use }]
                              next := x.next + 1 })

/-! Completion records (14 R379 to R385) -/

/-- A size of a ring in slots. -/
def ringSize (log2 : Nat) : Nat := 2 ^ log2

/-- Slots that a completion ring can take (14 R380). -/
def Cq.room (q : Cq) : Nat := ringSize q.log2 - sub32 q.w q.head

/-- The PHASE of the record with count w (14 R380). -/
def Cq.phase (q : Cq) : Bool := (q.w / ringSize q.log2 + 1) % 2 == 1

/-- The bytes of a record (14 Table 14.6). -/
def Fin_.bytes (f : Fin_) (prior phase : Bool) : List Byte :=
  leBytes 8 f.tag ++ leBytes 1 f.op ++ leBytes 1 f.status ++
  leBytes 2 ((if f.ev then 0 else f.sq) + 2 ^ 14 * b2n prior + 2 ^ 15 * b2n phase) ++
  leBytes 1 (f.ctxf % 64 + 64 * b2n f.ev) ++ leBytes 1 f.restarts ++ leBytes 2 f.src ++ leBytes 8 f.detail ++ leBytes 8 f.count

/-- Records that hold an entry of the completion log: those in it, those of finished descriptors, and one reserved by each
started descriptor (14 R385). -/
def Cm.used (m : Cm) : Nat :=
  m.log.length + (m.fin.filter (fun f => !f.ev)).length + (m.descs.filter (fun d => d.st == .started)).length

/-- The completion log has a free entry. -/
def Cm.free (m : Cm) : Bool := decide (m.used < 16384)

/-- An interrupt target reached: an interrupt file of a core for CM0, an MSI-X write for a remote commander (14 R373,
R384). -/
def Chip.ringMsi (c : Chip) (cm msi : Nat) : Chip :=
  if cm = 0 then c.msi (bits msi 16 11) (bits msi 19 17) (bits msi 10 0)
  else c.modCxl (fun x => { x with sent := x.sent ++ [[cm, msi]] })

/-- A processor's operation on an object reaches its home: one that repeats the last identifier that the home applied from that
processor has no effect (15 R416). -/
def Chip.fwSoOp (c : Chip) (fp ident so value : Nat) (isSet : Bool) : Chip :=
  let h := so / 4096
  if tabGet 0 c.so.lastAction (4 * h + fp) = ident ∧ ident ≠ 0 then c
  else
    let d := c.modSo (fun s => { s with lastAction := tabSet s.lastAction (4 * h + fp) ident })
    if isSet then d.soPut so value else d.soSignal so value

/-- A processor signals or sets an object: the action gets the next identifier and stands in the journal, as the latest of that
processor for that home, before it is sent (15 R416). -/
def Chip.fwAct (c : Chip) (fp so value : Nat) (isSet : Bool) : Chip :=
  let ident := ((c.fpAt fp).action + 1) % 2 ^ 32
  let a : JAct := { fp := fp, so := so, value := value, isSet := isSet, ident := ident }
  let d := (c.setFp fp { c.fpAt fp with action := ident }).modFw (fun f =>
    { f with journal := f.journal.filter (fun x => !(x.fp == fp && x.so / 4096 == so / 4096)) ++ [a] })
  d.fwSoOp fp ident so value isSet

/-- A record has become visible: the object of SIGNAL_ON_DONE is signalled, then an armed CQ sends its MSI (14 R371,
R384). -/
def Chip.recordSeen (c : Chip) (cqn : Nat) (f : Fin_) : Chip :=
  let d := match f.dso with
    | some (so, ctx) => if c.soAllowed ctx so then c.fwAct ((c.serving f.sq).getD (f.sq % 4)) so 1 false else c
    | none => c
  let q := d.cqAt cqn
  if q.int && q.armed then (d.setCq cqn { q with armed := false }).ringMsi q.cm q.msi else d

/-- The CQ that a record of a commander goes to: its own, while it is bound to that commander, otherwise the CQ of the
commander's latest registration (14 R388). -/
def Chip.recordCq (c : Chip) (f : Fin_) : Nat :=
  let q := c.cqAt f.cq
  if q.st ≠ .free ∧ q.cm = f.cm then f.cq else (c.cmAt f.cm).cq0

/-- A record can be written to its CQ now: the commander and the ring are there, a slot is free, and the slot can be written
(14 R380, R385). -/
def Chip.recordFits (c : Chip) (f : Fin_) : Bool :=
  let n := c.recordCq f
  let q := c.cqAt n
  let e := c.cmAt f.cm
  e.st == .active && q.st == .active && q.cm == f.cm && decide (0 < q.room) &&
    (f.cm != 0 || c.writable (q.base + 32 * (q.w % ringSize q.log2)) 32)

/-- A record written to its slot: seen at once in package memory, and when its transaction completes in a remote
commander's (14 R362). -/
def Chip.writeRecord (c : Chip) (r : LogRec) : Chip :=
  let f := r.rcd
  let n := c.recordCq f
  let q := c.cqAt n
  let prior := r.prior || (!f.ev && f.epoch != (c.cmAt f.cm).epoch)
  let bs := f.bytes prior q.phase
  let a := q.base + 32 * (q.w % ringSize q.log2)
  let d := c.setCq n { q with w := (q.w + 1) % 2 ^ 32 }
  if f.cm = 0 then (d.devWrite srcDispatch a bs q.hint).recordSeen n f
  else d.cxlAsk f.cm a (some bs) (.record { rcd := { f with cq := n }, prior := prior })

/-- A record or event handed over: written, or kept in the completion log; one of a commander whose entry was freed is
discarded (14 R385, R389), and an event that finds no free entry is counted. -/
def Chip.deliver (c : Chip) (r : LogRec) : Chip :=
  let f := r.rcd
  if (c.cmAt f.cm).st = .free then c.modCm (fun m => { m with dropped := m.dropped + 1 })
  else if !c.cm.log.any (fun x => c.recordCq x.rcd == c.recordCq f && x.rcd.cm == f.cm) && c.recordFits f then c.writeRecord r
  else if f.ev && !c.cm.free then
    c.modCm (fun m => { m with lostEvents := tabSet m.lostEvents f.cq (tabGet 0 m.lostEvents f.cq + 1) })
  else c.modCm (fun m => { m with log := m.log ++ [r] })

/-- An event for a CQ (14 R382). -/
def Chip.event (c : Chip) (cq op ctx detail tag : Nat) : Chip :=
  let q := c.cqAt cq
  if q.st = .free then c
  else c.deliver { prior := false, rcd :=
    { ev := true, sq := 0, cq := cq, cm := q.cm, epoch := (c.cmAt q.cm).epoch, tag := tag, op := op, status := 0
      ctxf := ctx % 64, detail := detail % 2 ^ 64, src := srcDispatch, restarts := c.restarts srcDispatch
      count := c.dispatch, dso := none, key := 0 } }

/-- LOG_OVERFLOW events written now that an entry of the log is free (14 R385). -/
def Chip.overflowEvents (c : Chip) : Chip :=
  if c.cm.free then
    c.cm.lostEvents.foldl (fun (d : Chip) p =>
      if p.2 = 0 then d
      else (d.modCm (fun m => { m with lostEvents := tabDel m.lostEvents p.1 })).event p.1 0x84 0 p.2 0) c
  else c

/-- The first record of a CQ leaves the completion log, when it fits (14 R385). -/
def Chip.drainOne (c : Chip) (cqn : Nat) : Chip :=
  match c.cm.log.find? (fun r => c.recordCq r.rcd == cqn) with
  | some r =>
    if c.recordFits r.rcd then
      ((c.modCm (fun m => { m with log := m.log.erase r })).writeRecord r).overflowEvents
    else c
  | none => c

/-- LOG_DRAIN (14 R385): the first logged record of a CQ that has room and is ACTIVE is written. -/
def Chip.doLogDrain (c : Chip) (cqn : Nat) : Chip := c.drainOne cqn

/-! Consumption of slots (14 R374, R376 to R378, 15 R410) -/

/-- The expected SEQ of the slot with count n (14 R377). -/
def seqOf (n : Nat) : Nat := (n + n / 65536) % 65536

/-- PERIOD of an SQ in µs; 0: not periodic (15 R410, 21 R532). -/
def Chip.sqPeriod (c : Chip) (r : Nat) : Nat := c.rf (0xC00000 + 8 * r) 31 0
/-- ITEMS of an SQ. -/
def Chip.sqItems (c : Chip) (r : Nat) : Nat := c.rf (0xC00000 + 8 * r) 39 32

/-- Descriptors of a ring's present binding that are consumed. -/
def Chip.mine (c : Chip) (r : Nat) : List Desc :=
  c.cm.descs.filter (fun d => d.sq == r && d.cm == (c.sqAt r).cm && d.epoch == (c.cmAt (c.sqAt r).cm).epoch)

/-- A descriptor of the ring that still lacks continuation slots. -/
def Chip.partialDesc (c : Chip) (r : Nat) : Option Desc := (c.mine r).find? (fun d => decide (0 < d.more))

/-- The ring may consume another slot (14 R376 to R378, 15 R410, R419). -/
def Chip.mayConsume (c : Chip) (r : Nat) : Bool :=
  let q := c.sqAt r
  (c.serving r).isSome && q.st == .active && (c.cmAt q.cm).st == .active && !(c.cmAt q.cm).dereg && q.unbinding.isNone && !q.ahead && q.head != q.tail &&
    ((c.partialDesc r).isSome ||
      (decide (((c.mine r).filter (fun d => d.st != .started)).length < 8) &&
        (c.sqPeriod r == 0 || decide (q.perUsed < c.sqItems r))))

/-- The earlier of two deadlines. -/
def earlier (a b : Option Nat) : Option Nat :=
  match a, b with
  | some x, some y => some (min x y)
  | some x, none => some x
  | none, y => y

/-- A slot whose SEQ matched consumed: a continuation of the descriptor before it, or a new descriptor; a CONT slot where a
descriptor is expected is one of one slot (14 R374, R377). -/
def Chip.takeSlot (c : Chip) (r : Nat) (bs : List Byte) : Chip :=
  let q := c.sqAt r
  let c1 := c.setSq r { q with head := (q.head + 1) % 2 ^ 32, miss := none }
  match c.partialDesc r with
  | some d =>
    let i := fieldLE d.bytes 5 1 % 4 - d.more + 1
    let bad := if fieldLE bs 2 1 ≠ 0xFF then some (128 * i + 2) else if !zeroAt bs 3 5 then some (128 * i + 3) else none
    c1.setDesc { d with more := d.more - 1, data := d.data ++ (bs.drop 8).take 120, contBad := earlier d.contBad bad }
  | none =>
    let now := c.dispatch
    let own := if fieldLE bs 2 1 = 0x10 ∧ fieldLE bs 56 8 ≠ 0 then some (now + fieldLE bs 56 8) else none
    let per := if c.sqPeriod r = 0 then none else some (q.perSince + 1000 * c.sqPeriod r)
    let d : Desc :=
      { key := c.cm.nextKey, sq := r, cm := q.cm, epoch := (c.cmAt q.cm).epoch
        more := if fieldLE bs 2 1 ≠ 0xFF ∧ bit (fieldLE bs 3 1) 0 then fieldLE bs 5 1 % 4 else 0
        contBad := none, bytes := bs.take 128, data := (bs.drop 32).take 96, prio := q.prio, at_ := now
        deadline := earlier own per, st := .fetched, aux := [] }
    (c1.modCm (fun m => { m with descs := m.descs ++ [d], nextKey := m.nextKey + 1 })).setSq r
      { c1.sqAt r with perUsed := q.perUsed + (if c.sqPeriod r = 0 then 0 else 1) }

/-- A slot read whose SEQ did not match, or that failed: it is read again, and the first such reading is remembered
(14 R377). -/
def Chip.missSlot (c : Chip) (r found : Nat) : Chip :=
  let q := c.sqAt r
  if q.miss.isSome then c else c.setSq r { q with miss := some (c.dispatch, found) }

/-- The slots that can be consumed are: a local ring's by coherent reads, which wait while the home of their line cannot serve them (09
R225), a remote one's by one RdCurr at a time (14 R369, R377). The SEQ read from an unbacked address is free
(DESIGN CHOICE, assumption 113). -/
def Chip.consume (c : Chip) (r : Nat) : Nat → Chip
  | 0 => c
  | fuel + 1 =>
    if !c.mayConsume r then c
    else
      let q := c.sqAt r
      let a := q.base + 128 * (q.head % ringSize q.log2)
      if q.cm = 0 then
        if !c.mem.backedN a 128 then (((c.logUnbacked srcDispatch a).took 1).missSlot r (c.freeVal % 2 ^ 16))
        else if !(c.ready (a / 64) false && c.ready (a / 64 + 1) false) then c
        else
          let g := c.fetchN a 128
          if !g.2.2 && fieldLE g.2.1 0 2 == seqOf q.head then Chip.consume (g.1.takeSlot r g.2.1) r fuel
          else g.1.missSlot r (fieldLE g.2.1 0 2)
      else if c.cxl.out.any (fun x => match x.use with | .slot s _ => s == r | _ => false) then c
      else c.cxlAsk q.cm a none (.slot r q.head)

/-- A ring consumes what it can; 40 slots are more than 8 descriptors with their continuations. -/
def Chip.pump (c : Chip) (r : Nat) : Chip := c.consume r 40

/-- Every ring that has slots to consume does so. -/
def Chip.pumpAll (c : Chip) : Chip := c.cm.sq.foldl (fun (d : Chip) p => d.pump p.1) c

/-! Doorbells (14 R375, R376, R380) -/

/-- DOORBELL_BAD. -/
def Chip.bellBad (c : Chip) (b : Bell) : Chip := c.logEv .doorbellBad srcDispatch [b2n b.isSq, b.ring]

/-- A doorbell judged (14 R375, R376, R380). -/
def Chip.judgeBell (c : Chip) (b : Bell) : Chip :=
  if b.width ≠ 4 ∨ b.off ≠ 0 then c.bellBad b
  else
    let st := if b.isSq then (c.sqAt b.ring).st else (c.cqAt b.ring).st
    let cm := if b.isSq then (c.sqAt b.ring).cm else (c.cqAt b.ring).cm
    match st with
    | .free => c.logWin .doorbellBad [b2n b.isSq, b.ring] srcDispatch msDispatch srcDispatch [b2n b.isSq, b.ring]
    | .lost => c.setCm cm { c.cmAt cm with ignored := (c.cmAt cm).ignored + 1 }
    | .active =>
      if (match b.req with | some q => decide (cm = 0) || (c.cmAt cm).reqid != q | none => false) then
        c.logEv .doorbellDenied srcDispatch [b2n b.isSq, b.ring, b.req.getD 0]
      else
        let x := b.value % 2 ^ 32
        if b.isSq then
          let q := c.sqAt b.ring
          if sub32 x q.head ≤ ringSize q.log2 ∧ sub32 q.tail q.head ≤ sub32 x q.head then
            (c.setSq b.ring { q with tail := x, ahead := false }).pump b.ring
          else c.logEv .ringOverrun srcDispatch [b.ring, x, q.head]
        else
          let q := c.cqAt b.ring
          if sub32 x q.head ≤ sub32 q.w q.head then c.setCq b.ring { q with head := x, armed := q.int } else c.bellBad b

/-- A doorbell taken: latched while no processor serves the ring (15 R419, 20 R511). -/
def Chip.bell (c : Chip) (b : Bell) : Chip :=
  if (c.serving b.ring).isSome then c.judgeBell b
  else c.modCm (fun m => { m with latched := m.latched ++ [b] })

/-- The latched doorbells whose ring is served again are judged in order of arrival (20 R511). -/
def Chip.unlatch (c : Chip) : Chip :=
  let go := c.cm.latched.filter (fun b => (c.serving b.ring).isSome)
  let d := c.modCm (fun m => { m with latched := m.latched.filter (fun b => !(c.serving b.ring).isSome) })
  (go.foldl (fun (e : Chip) b => e.judgeBell b) d).pumpAll

/-- SQ_DOORBELL (14 R375, R376). -/
def Chip.doSqDoorbell (c : Chip) (r off width : Nat) (value : BitVec 64) (req : Option (BitVec 16)) : Chip :=
  c.bell { isSq := true, ring := r, off := off, width := width, value := value.toNat, req := req.map (·.toNat) }

/-- CQ_HEAD_DOORBELL (14 R380). -/
def Chip.doCqHeadDoorbell (c : Chip) (r off width : Nat) (value : BitVec 64) (req : Option (BitVec 16)) : Chip :=
  c.bell { isSq := false, ring := r, off := off, width := width, value := value.toNat, req := req.map (·.toNat) }

/-- DOORBELL_AHEAD (14 R377, R382): 2 µs after the first mismatch the slot still does not match. The last reading of a
local slot may still find it; otherwise the event is written, and the ring waits for its next doorbell. -/
def Chip.doDoorbellAhead (c : Chip) (r : Nat) : Chip :=
  match (c.sqAt r).miss with
  | some (since, found) =>
    let d := (c.passTo srcDispatch (since + 2000)).pump r
    let q := d.sqAt r
    if q.miss = some (since, found) then
      let e := d.modCxl (fun x => { x with out := x.out.filter (fun o => match o.use with | .slot s _ => s != r | _ => true) })
      ((e.setSq r { q with miss := none, ahead := true }).logEv .doorbellAhead srcDispatch [r, q.head, seqOf q.head, found]).event
        q.cq 0x83 0 (q.head + 2 ^ 32 * seqOf q.head + 2 ^ 48 * found) 0
    else d
  | none => c

/-! Completion (14 R379, 15 R416) -/

/-! Loss of a commander (14 R387, 15 R413, R414) -/

/-- The descriptors of a commander that no tile or engine has begun. -/
def Chip.unstarted (c : Chip) (cm ctx : Nat) : List Desc :=
  c.cm.descs.filter (fun d => d.cm == cm && d.ctx == ctx && d.st != .started)

/-- A context is of a commander: created by it, as every context is by CM0, or granted to its KEY (14 R368). -/
def Chip.ctxOf (c : Chip) (cm k : Nat) : Bool :=
  let x := c.ctxAt k
  x.st != .free && (cm == 0 || x.grants.contains (c.cmAt cm).key)

/-- Descriptors that are cancelled (14 R387). -/
def Chip.cancelAll (c : Chip) (ds : List Desc) : Chip :=
  ds.foldl (fun (e : Chip) d =>
    (e.modFw (fun f => { f with work := f.work.filter (fun w => w.key != d.key) })).finish d.key 0x12 0) c

/-- What the loss of a commander does to one context: under park it parks at once and the commander's descriptors that have
not started are cancelled; under continue its GRACE begins; under HANDOVER it goes on (14 R387, 15 R414). -/
def Chip.loseCtx (c : Chip) (cm : Nat) (handover : Bool) (k : Nat) : Chip :=
  let x := c.ctxAt k
  if !c.ctxOf cm k || handover then c
  else if x.park then
    (if x.st = .active then c.setCtx k { x with st := .parked } else c).cancelAll (c.unstarted cm k)
  else if (tabFind x.graceDue cm).isSome then c
  else c.setCtx k { x with graceDue := tabSet x.graceDue cm (c.dispatch + x.grace * msDispatch) }

/-- Reads of registration blocks that will not come back: each request ends as READ_FAILED (14 R366). -/
def Chip.failBlocks (c : Chip) (gone : List CxlTxn) : Chip :=
  gone.foldl (fun (d : Chip) x => match x.use with
    | .block cm => d.setCm cm { d.cmAt cm with asking := false, refusal := 11 }
    | _ => d) c

/-- A commander is lost (14 R387): its memory is no longer accessed, unacknowledged records return to the log, its entry
and rings are LOST, and its contexts follow their policy. A descriptor that lacks continuation slots, or whose own write to the
commander's memory has stopped, is cancelled (assumption 23). -/
def Chip.lose (c : Chip) (cm : Nat) (ev : Ev) : Chip :=
  let e := c.cmAt cm
  if e.st = .active then
    let back := c.cxl.out.filterMap (fun x => if x.cm = cm then (match x.use with | .record r => some r | _ => none) else none)
    let gone := c.cxl.out.filter (fun o => o.cm == cm)
    let c1 := c.modCxl (fun x => { x with out := x.out.filter (fun o => o.cm != cm) })
    let c2 := c1.modCm (fun m =>
      { m with
        log := back ++ m.log
        ent := tabSet m.ent cm { e with st := .lost, refusal := 0, dereg := false, lostAt := c.dispatch }
        sq := m.sq.map (fun p => if p.2.cm = cm ∧ p.2.st = .active then (p.1, { p.2 with st := .lost, miss := none, ahead := false }) else p)
        cq := m.cq.map (fun p => if p.2.cm = cm ∧ p.2.st = .active then (p.1, { p.2 with st := .lost }) else p) })
    let c3 := (c2.failBlocks gone).logEv ev srcDispatch [cm, e.epoch]
    let halted := c.cxl.out.filterMap (fun x => match x.use with | .done key => if x.cm = cm then some key else none | _ => none)
    let c4 := c3.cancelAll (c3.cm.descs.filter (fun d => d.cm == cm && (decide (0 < d.more) || halted.contains d.key)))
    ((List.range 63).map (· + 1)).foldl (fun (d : Chip) k => d.loseCtx cm (ev == .handover) k) c4
  else c

/-- Every remote commander is lost, and nothing is outstanding at CX0 (14 R387). -/
def Chip.loseRemote (c : Chip) : Chip :=
  let d := ((List.range 31).map (· + 1)).foldl (fun (d : Chip) k => d.lose k .commanderLost) c
  (d.failBlocks d.cxl.out).modCxl (fun x => { x with out := [] })

/-- CXL_LINK_DOWN (14 R387): CX0 reports DL_Down. -/
def Chip.doCxlLinkDown (c : Chip) : Chip :=
  (c.modCxl (fun x => { x with l0 := false, rate := 0, width := 0 })).loseRemote

/-- LINK_RESET (20 R507): the link and function state of CX0 is reset, and every remote commander is lost. -/
def Chip.doLinkReset (c : Chip) : Chip :=
  (c.modCxl (fun x => { x with l0 := false, rate := 0, width := 0, sent := [], slots := [] })).loseRemote

/-- CXL_REQUEST_TIMEOUT (14 R387): a request to a commander's memory has ended in an error, or 50 ms have passed without a
completion; only that commander is lost. -/
def Chip.doCxlRequestTimeout (c : Chip) (id : Nat) : Chip :=
  match c.cxl.out.find? (fun x => x.id == id) with
  | some x =>
    if (c.cmAt x.cm).st = .active then c.lose x.cm .commanderLost
    else (c.modCxl (fun k => { k with out := k.out.filter (fun o => o.id != id) })).failBlocks [x]
  | none => c

/-- CXL_LINK_UP (14 R360): CX0 trains into L0 at a width and rate of Table 14.1; any other leaves the link down and logs
CXL_TRAIN. A retrain that returns to L0 is no loss (R386). -/
def Chip.doCxlLinkUp (c : Chip) (width rate : Nat) : Chip :=
  if (width = 8 ∨ width = 16) ∧ (rate = 32 ∨ rate = 64) then
    c.modCxl (fun x => { x with l0 := true, rate := rate, width := width })
  else (c.modCxl (fun x => { x with l0 := false, rate := 0, width := 0 })).logEv .cxlTrain srcDispatch [width, rate]

/-- CXL_CACHE_SNOOP (14 R360): the device holds no line of host memory, and answers as invalid (0). -/
def Chip.doCxlCacheSnoop (c : Chip) (_addr : BitVec 52) : Chip := c.answer [0]

/-! Registration (14 R364 to R368, R388) -/

/-- The REG_ADDR register of an entry as the configuration report names it (20 Table 20.9, 21 R522). -/
def regAddrOf (k : Nat) : Nat := if k = 0 then 0xF00000200000 else k * 0x1000 + 2 ^ 63

/-- An interrupt target in the form of 14 R373; the file is checked only where interrupts are used. -/
def msiOk (cm msi : Nat) (int : Bool) : Bool :=
  if cm = 0 then decide (msi < 2 ^ 20) && decide (bits msi 19 17 ≤ 6) && (!int || decide (1 ≤ bits msi 19 17))
  else decide (msi ≤ 2047)

/-- A registration block keeps the rules of 14 Table 14.2 and 15 R412. -/
def blockOk (cm : Nat) (b : List Byte) : Bool :=
  let f := fieldLE b
  f 0 8 != 0 && f 8 2 != 0 && decide (f 10 2 < 1024) && decide (f 12 2 < 1024) &&
  decide (4 ≤ f 14 1) && decide (f 14 1 ≤ 16) && decide (4 ≤ f 15 1) && decide (f 15 1 ≤ 16) &&
  f 16 8 % 4096 == 0 && f 24 8 % 4096 == 0 && msiOk cm (f 32 4) (bit (f 37 1) 0) && decide (f 36 1 ≤ 7) &&
  decide (f 37 1 ≤ 1) && (cm == 0 || f 38 2 == 0) && f 40 8 % 8 == 0 && zeroAt b 48 16

/-- `s16(new - old) > 0` (14 R366). -/
def epochNewer (new old : Nat) : Bool :=
  let d := (new % 65536 + 65536 - old % 65536) % 65536
  decide (0 < d) && decide (d < 32768)

/-- The outcome of a registration, the first refusal in the order of 14 R366; `none` when the block was not read. -/
def Chip.regJudge (c : Chip) (cm : Nat) (blk : Option (List Byte)) : Nat :=
  match blk with
  | none => 11
  | some b =>
    let e := c.cmAt cm
    let key := fieldLE b 0 8
    let taken := fun (st : RingSt) (owner : Nat) => st != .free && owner != cm
    if !blockOk cm b then 10
    else if (e.st = .active ∨ e.st = .lost) ∧ e.key ≠ key then 9
    else if e.key = key ∧ e.ever ∧ !epochNewer (fieldLE b 8 2) e.epoch then 8
    else if taken (c.sqAt (fieldLE b 10 2)).st (c.sqAt (fieldLE b 10 2)).cm ||
        taken (c.cqAt (fieldLE b 12 2)).st (c.cqAt (fieldLE b 12 2)).cm then 12
    else 2

/-- Every ring of an entry unbound (14 R388, R389). -/
def Chip.freeRings (c : Chip) (cm : Nat) : Chip :=
  c.modCm (fun m =>
    { m with
      sq := m.sq.map (fun p => if p.2.cm = cm ∧ p.2.st ≠ .free then (p.1, Sq.fresh) else p)
      cq := m.cq.map (fun p => if p.2.cm = cm ∧ p.2.st ≠ .free then (p.1, Cq.fresh) else p) })

/-- A submission ring bound, with its counts at zero; its period begins (14 R388, 21 R532). -/
def Chip.bindSq (c : Chip) (r cm log2 base cq prio : Nat) : Chip :=
  c.setSq r { Sq.fresh with st := .active, cm := cm, log2 := log2, base := base, cq := cq, prio := prio
                            perSince := c.dispatch }

/-- A completion ring bound, armed when it has INT (14 R384). -/
def Chip.bindCq (c : Chip) (r cm log2 base msi flags hint : Nat) : Chip :=
  c.setCq r { Cq.fresh with st := .active, cm := cm, log2 := log2, base := base, msi := msi, hint := hint
                            int := bit flags 0, recv := bit flags 1, armed := bit flags 0 }

/-- The commander's logged records delivered in log order, each marked PRIOR (14 R388 step 3). -/
def Chip.drainAll (c : Chip) (cm : Nat) : Nat → Chip
  | 0 => c
  | n + 1 =>
    match c.cm.log.find? (fun r => r.rcd.cm == cm && c.recordFits r.rcd &&
        (c.cm.log.find? (fun x => c.recordCq x.rcd == c.recordCq r.rcd)) == some r) with
    | some r => Chip.drainAll ((c.modCm (fun m => { m with log := m.log.erase r })).writeRecord r) cm n
    | none => c

/-- A registration accepted (14 R366, R388): an ACTIVE entry is lost first, old rings are unbound, the new ones bound, the
logged records follow, and pending parks are cancelled. -/
def Chip.regAccept (c : Chip) (cm : Nat) (b : List Byte) : Chip :=
  let f := fieldLE b
  let c1 := c.lose cm .commanderLost
  let c2 := c1.freeRings cm
  let c3 := c2.bindSq (f 10 2) cm (f 14 1) (f 16 8) (f 12 2) (f 36 1)
  let c4 := c3.bindCq (f 12 2) cm (f 15 1) (f 24 8) (f 32 4) (f 37 1) (f 38 2)
  let e := c4.cmAt cm
  let c5 := c4.setCm cm
    { e with st := .active, key := f 0 8, epoch := f 8 2, reqid := e.asker, refusal := 0, ever := true, dereg := false
             hbAddr := f 40 8, hbCount := 0, hbLimit := 0, hbSince := c.dispatch, hbFails := 0, cq0 := f 12 2 }
  let c6 := c5.modCm (fun m => { m with log := m.log.map (fun r => if r.rcd.cm = cm then { r with prior := true } else r) })
  let c7 := c6.drainAll cm c6.cm.log.length
  c7.modCtx (fun t => t.map (fun p => (p.1, { p.2 with graceDue := tabDel p.2.graceDue cm })))

/-- A registration decided (14 R366). -/
def Chip.regDecide (c : Chip) (cm : Nat) (blk : Option (List Byte)) : Chip :=
  let back := c.setCm cm { c.cmAt cm with asking := false }
  let r := back.regJudge cm blk
  match r, blk with
  | 2, some b => back.regAccept cm b
  | k, _ => back.setCm cm { back.cmAt cm with refusal := k }

/-- A registration begins: the block is read, by ReadOnce for CM0 and by RdCurr otherwise (14 R365). -/
def Chip.regBegin (c : Chip) (cm addr : Nat) : Chip :=
  if cm = 0 then
    (if !c.mem.backedN addr 64 then (c.logUnbacked srcDispatch addr).regDecide 0 none
     else
       let g := c.fetchN addr 64
       g.1.regDecide 0 (if g.2.2 then none else some g.2.1))
  else c.cxlAsk cm addr none (.block cm)

/-- The value that a write leaves in a 64-bit register: a 4-byte write covers one half. -/
def accValue (old : Nat) (a : SetupAcc) : Nat :=
  match a.half with
  | none => a.value.toNat
  | some false => old / 2 ^ 32 * 2 ^ 32 + a.value.toNat % 2 ^ 32
  | some true => old % 2 ^ 32 + a.value.toNat % 2 ^ 32 * 2 ^ 32

/-- A write of REG_ADDR (14 R365, R367, 21 R522): zero deregisters an ACTIVE entry, any other address requests
registration; a busy entry takes none. -/
def Chip.regWrite (c : Chip) (cm : Nat) (a : SetupAcc) (req : Nat) : Chip :=
  let e := c.cmAt cm
  let v := a.value.toNat
  let at_ := regAddrOf cm
  if a.half.isSome then c.cfgReport at_ v e.regAddr 8 6 58 a.writer.toNat
  else
    let addr := v / 64 * 64
    let busy := e.asking || e.dereg
    let refused := busy || (addr == 0 && (e.st == .free || e.st == .lost))
    let applied := if refused then e.regAddr else addr
    let c1 := if refused then c.cfgReport at_ v applied 7 6 58 a.writer.toNat else c
    let c2 := if v % 64 = 0 then c1 else c1.cfgReport at_ v applied 6 0 6 a.writer.toNat
    if refused then c2
    else if addr = 0 then c2.setCm cm { e with regAddr := 0, refusal := 0, dereg := true }
    else
      let c3 := c2.setCm cm { e with regAddr := addr, refusal := 0, asking := true, asker := req }
      if c.fw.running then c3.regBegin cm addr else c3.modCm (fun m => { m with asks := m.asks ++ [(cm, addr)] })

/-- REGISTRATION (14 R365, R366). -/
def Chip.doRegistration (c : Chip) (k : Nat) (a : SetupAcc) (req : BitVec 16) : Chip := c.regWrite k a req.toNat

/-- DEREGISTRATION (14 R367): a write of zero to REG_ADDR. -/
def Chip.doDeregistration (c : Chip) (k : Nat) (writer : BitVec 32) : Chip :=
  c.regWrite k { value := 0, half := none, writer := writer } 0

/-- DEREGISTRATION_DONE (14 R367): no descriptor of the entry is fetched and incomplete, and all its records are written;
the entry and its rings become FREE, and its grants end. -/
def Chip.doDeregistrationDone (c : Chip) (k : Nat) : Chip :=
  let e := c.cmAt k
  if e.dereg && !c.cm.descs.any (fun d => d.cm == k) && !c.cm.fin.any (fun f => f.cm == k) &&
      !c.cm.log.any (fun r => r.rcd.cm == k) && !c.cxl.out.any (fun x => x.cm == k) then
    let d := (c.freeRings k).setCm k { e with st := .free, key := 0, dereg := false, refusal := 0, hbAddr := 0 }
    d.modCtx (fun t => t.map (fun p => (p.1, { p.2 with grants := p.2.grants.filter (· != e.key) })))
  else c

/-- GRACE_EXPIRY (14 R387): GRACE has passed since the loss of a commander, and the context parks; its work items run on. -/
def Chip.doGraceExpiry (c : Chip) (cm k : Nat) : Chip :=
  let x := c.ctxAt k
  match tabFind x.graceDue cm with
  | some due =>
    let d := c.passTo srcDispatch due
    d.setCtx k { x with graceDue := tabDel x.graceDue cm, st := if x.st = .active then .parked else x.st }
  | none => c

/-! Responses (14 R362, R377, R387) -/

/-- A slot read of a remote ring has come back. -/
def Chip.slotBack (c : Chip) (r n : Nat) (bs : List Byte) (res : CxlRes) : Chip :=
  let q := c.sqAt r
  if q.head ≠ n ∨ !c.mayConsume r then c
  else if res = .ok ∧ fieldLE bs 0 2 = seqOf n then (c.takeSlot r bs).pump r
  else (c.missSlot r (fieldLE bs 0 2)).pump r

/-- A read of a heartbeat word decided (15 R412, R413): COUNT changed, unchanged for LIMIT, or not read. -/
def Chip.heartbeat (c : Chip) (k : Nat) (word : Option Nat) : Chip :=
  let e := c.cmAt k
  let now := c.dispatch
  match word with
  | none =>
    let d := c.setCm k { e with hbFails := e.hbFails + 1 }
    if 1 ≤ e.hbFails then d.lose k .driverLost else d
  | some w =>
    let count := w % 2 ^ 48
    let limit := if w / 2 ^ 48 = 0 then 100 else w / 2 ^ 48
    if count ≠ e.hbCount ∨ e.hbLimit = 0 then
      c.setCm k { e with hbCount := count, hbLimit := limit, hbSince := now, hbFails := 0 }
    else
      let d := c.setCm k { e with hbLimit := limit, hbFails := 0 }
      if e.hbSince + limit * msDispatch ≤ now then d.lose k .driverLost else d

/-- CXL_CACHE_RESPONSE (14 R362): a transaction to commander memory completes: a block, slot or heartbeat word arrives, or
a record becomes visible; an error loses the commander (R387). -/
def Chip.doCxlCacheResponse (c : Chip) (id : Nat) (res : CxlRes) (bs : List Byte) : Chip :=
  match c.cxl.out.find? (fun x => x.id == id) with
  | none => c
  | some x =>
    let d := c.modCxl (fun k => { k with out := k.out.filter (fun o => o.id != id) })
    match x.use with
    | .block cm => d.regDecide cm (if res = .ok then some bs else none)
    | .slot r n => if res = .error then c.lose x.cm .commanderLost else d.slotBack r n bs res
    | .heartbeat cm => if res = .error then c.lose x.cm .commanderLost else d.heartbeat cm (if res = .ok then some (fieldLE bs 0 8) else none)
    | .record r => if res = .ok then d.recordSeen r.rcd.cq r.rcd else c.lose x.cm .commanderLost
    | .done key => if res = .error then c.lose x.cm .commanderLost else d.finish key 0 0
    | .payload n a r phase =>
      if res ≠ .ok then c.lose x.cm .commanderLost
      else if d.cxl.out.any (fun o => match o.use with | .payload i _ _ _ => i == n | _ => false) then d
      else d.cxlAsk x.cm a (some (r.rcd.bytes r.prior phase)) (.record r)

/-! Requests at BAR0 and BAR2 (14 R361, 21 R522) -/

/-- STATUS of an entry (21 R522). -/
def Cmdr.status (e : Cmdr) : Nat :=
  if e.refusal ≠ 0 then e.refusal
  else if e.asking || e.dereg then 1
  else match e.st with | .free => 0 | .active => 2 | .lost => 3

/-- A register of a registration set (21 Table 21.5). -/
def Chip.regSetRead (c : Chip) (k off : Nat) : Nat :=
  let e := c.cmAt k
  if off = 0 then e.regAddr else if off = 8 then e.epoch * 2 ^ 32 + e.status else if off = 16 then e.key else 0

/-- CXLIO_REQUEST (14 R361): a read of BAR0 returns the registration registers, a read of BAR2 zero; a write of REG_ADDR
and doorbells have rows of their own, any other write changes nothing; outside the two BARs the request is unsupported.
The answer is 1 for Unsupported Request, otherwise 0 and the data. -/
def Chip.doCxlioRequest (c : Chip) (bar : Nat) (off : BitVec 64) (write : Bool) (bytes : Nat) : Chip :=
  let o := off.toNat
  if bar = 0 ∧ o < 0x100000 then
    if write then c.answer [0]
    else
      let v := if 0x1000 ≤ o ∧ o < 0x20000 then c.regSetRead (o / 0x1000) (o % 0x1000 / 8 * 8) else 0
      c.answer [0, v / 2 ^ (8 * (o % 8)) % 2 ^ (8 * bytes)]
  else if bar = 2 ∧ o < 0x800000 then c.answer [0, 0]
  else c.answer [1]

end Sys2Proof.Machine
end

