-- ==== Sys2Proof/Machine/Channel.lean ====
section
/-!
DEFINITION. Memory channels (08): corrected and uncorrectable errors, interface retries, patrol scrubbing, refresh,
refresh management and the windows of background work.
-/

namespace Sys2Proof.Machine

/-- The bytes that a channel holds (08 Table 8.2); an unpopulated one holds none. -/
def Mem.chanBytes (m : Mem) (ch : Nat) : Nat :=
  if ch < 384 then 0xA0000000 else if m.ddrMods = 8 ∧ ch % 2 = 1 then 0 else m.ddrModGB * 2 ^ 30

/-- The physical address of a channel-local address: the inverse of 08 R203. -/
def Mem.globalOf (m : Mem) (ch a : Nat) : Nat :=
  let w := if ch < 384 then 5 else if m.ddrMods = 8 then 3 else 4
  let c := if ch < 384 then ch % 32 else if m.ddrMods = 8 then (ch - 384) / 2 else ch - 384
  let high := a / 256 * 2 ^ w
  let o := (high + (c ^^^ chanField (high * 256) w)) * 256 + a % 256
  if ch < 384 then 0x100000000000 + ch / 32 * 0x2000000000 + o else o

/-- 100 µs of the power controller counter: a window of background work (R217). -/
def windowCounts : Nat := 10000

/-- The entry that closes a 1 ms window in which the channel corrected errors (R222). -/
def Chip.flushCe (c : Chip) (ch : Nat) : Chip :=
  let x := c.chanAt ch
  if x.ceWin = 0 then c
  else (c.setChan ch { x with ceWin := 0 }).logEv .memCe (chanSrc ch) [ch, x.ceWin]

/-- A corrected error counted (R212, R222), by the health monitor too (17 R454). -/
def Chip.countCe (c : Chip) (ch : Nat) : Chip :=
  let w := c.dispatch / msDispatch
  let d := if (c.chanAt ch).ceAt = w then c else c.flushCe ch
  let x := d.chanAt ch
  (d.setChan ch { x with ce := min (x.ce + 1) (2 ^ 32 - 1), ceWin := x.ceWin + 1, ceAt := w }).modRes (fun r =>
    { r with ceAt := d.count srcPower :: r.ceAt })

/-- A line found uncorrectable: it takes the poison pattern, and MEM_UE is logged when it is first found (R212); the copies that caches
already hold stay good (09 R232). -/
def Chip.findUe (c : Chip) (ln : Nat) : Chip :=
  if setHas c.mem.poison ln then c
  else
    let ch := c.mem.chanOf (64 * ln)
    (c.modMem (fun m =>
      { m with
        poison := setIns m.poison ln
        dir := match tabFind m.dir ln with
          | some e => if e.data.isEmpty then tabSet m.dir ln { e with clean := e.owner.toList ++ e.sharers } else m.dir
          | none => m.dir })).logEv .memUe (chanSrc ch) [ch, 64 * ln]

/-- A corrected error of a line, on a demand read or a scrub; the eighth within one pass logs ROW_SUSPECT and offers the row for repair (R214). -/
def Chip.lineCe (c : Chip) (ch a : Nat) : Chip :=
  let d := c.countCe ch
  let x := d.chanAt ch
  let n := tabGet 0 x.scrubErrs a + 1
  let e := d.setChan ch { x with scrubErrs := tabSet x.scrubErrs a n, repair := if n = 8 then setIns x.repair a else x.repair }
  if n = 8 then e.logEv .rowSuspect (chanSrc ch) [ch, c.mem.globalOf ch a] else e

/-- What the channel's check of a line that it reads brings with it (R212). -/
def Chip.chanRead (c : Chip) (ln : Nat) (err : MemErr) : Chip :=
  match err with
  | .none => c
  | .ce => c.lineCe (c.mem.chanOf (64 * ln)) (c.mem.localOf (64 * ln))
  | .ue => c.findUe ln

/-- CHANNEL_RETRY (R211): a retry of a command on the interface of the channel that serves a line, the first, second or
third (`nth` 0, 1, 2); an error that persists through the third poisons the line and is logged. -/
def Chip.doChannelRetry (c : Chip) (pa : BitVec 52) (nth : Nat) (persists : Bool) : Chip :=
  let a := pa.toNat
  if c.mem.backed a then
    let ch := c.mem.chanOf a
    let d := c.setChan ch { c.chanAt ch with retries := (c.chanAt ch).retries + 1 }
    if nth = 2 ∧ persists then
      (d.modMem (fun m => { m with poison := setIns m.poison (a / 64) })).logEv .memLinkErr (chanSrc ch) [ch, a]
    else d
  else c

/-- Time charged to a row of 08 Table 8.6 (0 refresh, 1 RFM, 2 scrub, 3 calibration), in nanoseconds × banks (R217). -/
def Chan.charge (x : Chan) (row t : Nat) : Chan := { x with used := tabSet x.used row (tabGet 0 x.used row + t) }

/-- The share of a row in one window, in nanoseconds × banks (08 Table 8.6). -/
def shareOf (ch row : Nat) (hot : Bool) : Nat :=
  let perMille : Nat :=
    match row with
    | 0 => if ch < 384 then (if hot then 70 else 35) else (if hot then 100 else 50)
    | 1 => 10
    | 2 => if ch < 384 then 2 else 5
    | _ => if ch < 384 then 3 else 5
  perMille * 100 * chanBanks ch

/-- Scrub and calibration leave the channel to a waiting foreground request up to the midpoint of the window (R218). -/
def Chip.yields (c : Chip) (waiting : Bool) : Bool := waiting && decide (c.count srcPower % windowCounts < windowCounts / 2)

/-- Background work of a row that takes `t` nanoseconds × banks fits into what is left of its share (R217). -/
def Chan.fits (x : Chan) (ch row t : Nat) : Bool := decide (tabGet 0 x.used row + t ≤ shareOf ch row x.hot)

/-- SCRUB_READ (R213, R214, R217, R218): within the scrub share, and when no foreground request has to come first, the next line of the
pass is read, which blocks one bank for `ns` nanoseconds, and checked; the pass ends after the last line. -/
def Chip.doScrubRead (c : Chip) (ch : Nat) (err : MemErr) (ns : Nat) (waiting : Bool) : Chip :=
  let x := c.chanAt ch
  let a := x.scrubAt
  let ln := c.mem.globalOf ch a / 64
  if c.mem.chanBytes ch ≤ x.scrubAt ∨ c.asleep ch ∨ c.bankFull ch (c.mem.bankOf ln) ∨ c.yields waiting ∨ !x.fits ch 2 ns then c
  else
    let c := c.setChan ch (x.charge 2 ns)
    let d := match err with
      | .none => c
      | .ce => c.lineCe ch a
      | .ue => c.findUe ln
    let y := d.chanAt ch
    if a + 64 < c.mem.chanBytes ch then d.setChan ch { y with scrubAt := a + 64 }
    else d.setChan ch { y with scrubAt := 0, scrubFrom := d.count srcPower, scrubErrs := [], scrubLate := false }

/-- SCRUB_BEHIND (R215): the pass has exceeded its period by more than 10 %; logged once for the pass. -/
def Chip.doScrubBehind (c : Chip) (ch : Nat) : Chip :=
  let x := c.chanAt ch
  if x.scrubLate ∨ c.mem.chanBytes ch = 0 then c
  else
    let period := c.rf (0x900000 + 8 * ch) 14 8 * 360000000000
    let d := c.passTo srcPower (x.scrubFrom + period * 11 / 10 + 1)
    (d.setChan ch { d.chanAt ch with scrubLate := true }).logEv .scrubBehind (chanSrc ch) [ch]

/-- REFRESH (R218, R219): a per-bank refresh that is due runs before every other request, is never withheld, and is charged its part. An
all-bank refresh belongs to self-test alone (Table 8.3), so in service it is not made. -/
def Chip.doRefresh (c : Chip) (ch : Nat) (allBanks : Bool) (ns : Nat) : Chip :=
  if allBanks ∨ c.asleep ch ∨ c.mem.chanBytes ch = 0 then c
  else c.setChan ch ((c.chanAt ch).charge 0 ns)

/-- Activations that wait for a bank accepted as far as its count stays within RAAMMT (R216). -/
def Chan.letIn (x : Chan) (ch bank : Nat) : Chan :=
  let n := tabGet 0 x.acts bank
  let k := min (tabGet 0 x.want bank) (Config.raammt ch - n)
  { x with acts := tabSet x.acts bank (n + k), want := tabSet x.want bank (tabGet 0 x.want bank - k) }

/-- An RFM to a bank: charged, and the bank's count lowered by RAAIMT (R216). -/
def Chan.issueRfm (x : Chan) (ch bank ns : Nat) : Chan :=
  { x.charge 1 ns with acts := tabSet x.acts bank (tabGet 0 x.acts bank - Config.raaimt ch) }

/-- The RFMs that a bank asks for, as far as the share goes; a bank that asks for a further one waits for the next window (R216, R219). -/
def Chan.rfms (x : Chan) (ch bank ns : Nat) : Nat → Chan
  | 0 => x
  | fuel + 1 =>
    if Config.raaimt ch = 0 ∨ tabGet 0 x.acts bank < Config.raaimt ch then x
    else if x.fits ch 1 ns then Chan.rfms ((x.issueRfm ch bank ns).letIn ch bank) ch bank ns fuel
    else { x with rfmWait := if x.rfmWait.contains bank then x.rfmWait else x.rfmWait ++ [bank] }

/-- A bank's activations and RFMs taken as far as they go: each RFM lowers what is left, so there are no more of them than activations. -/
def Chan.settle (x : Chan) (ch bank ns : Nat) : Chan :=
  let y := x.letIn ch bank
  y.rfms ch bank ns (tabGet 0 y.acts bank + tabGet 0 y.want bank + 1)

/-- An activation held for a bank at RAAMMT, logged once in the window (R219). -/
def Chip.throttle (c : Chip) (ch bank : Nat) : Chip :=
  let x := c.chanAt ch
  if x.throttled then c else (c.setChan ch { x with throttled := true }).logEv .raaThrottle (chanSrc ch) [ch, bank]

/-- The banks of a channel for which an activation is held, logged once in the window. -/
def Chip.throttleHeld (c : Chip) (ch : Nat) : Chip :=
  match (c.chanAt ch).want.find? (fun p => decide (0 < p.2)) with
  | some p => c.throttle ch p.1
  | none => c

/-- CALIBRATION (R217, R218): a burst of at most 1 µs that blocks the channel, within its share of the window, and when no foreground
request has to come first. -/
def Chip.doCalibration (c : Chip) (ch : Nat) (ns : Nat) (waiting : Bool) : Chip :=
  let x := c.chanAt ch
  if c.asleep ch ∨ 1000 < ns ∨ c.mem.chanBytes ch = 0 ∨ c.yields waiting ∨ !x.fits ch 3 (ns * chanBanks ch) then c
  else c.setChan ch (x.charge 3 (ns * chanBanks ch))

/-- MEM_CE (R222): a 1 ms window in which the channel corrected errors ends. -/
def Chip.doMemCe (c : Chip) (ch : Nat) : Chip :=
  let x := c.chanAt ch
  if x.ceWin = 0 then c else (c.passTo srcDispatch ((x.ceAt + 1) * msDispatch)).flushCe ch

end Sys2Proof.Machine
end

