-- ==== Sys2Proof/Machine/Coherence.lean ====
section
/-!
DEFINITION. Coherence (09): the requests of caches and agents at the home of a line, their completion, snoops that go
unanswered, and hints that are dropped; and operations at the home of a synchronisation object (03 R86 to R88).
-/

namespace Sys2Proof.Machine

/-! Synchronisation objects -/

/-- HOME_SIGNAL (03 R85 to R87): SIGNAL v of a context; the answer is 1 for SO_DENIED. A Haul packet that is refused is
counted. -/
def Chip.doHomeSignal (c : Chip) (ctx n : Nat) (v : BitVec 32) (haul : Bool) : Chip :=
  if c.soAllowed ctx n then (c.soSignal n v.toNat).answer [0]
  else (if haul then c.modSo (fun s => { s with haulDropped := s.haulDropped + 1 }) else c).answer [1]

/-- HOME_SET (03 R85 to R87): SET v of a context. -/
def Chip.doHomeSet (c : Chip) (ctx n : Nat) (v : BitVec 32) : Chip :=
  if c.soAllowed ctx n then (c.soPut n v.toNat).answer [0] else c.answer [1]

/-- HOME_READ (03 R86): the counter. -/
def Chip.doHomeRead (c : Chip) (ctx n : Nat) : Chip :=
  if c.soAllowed ctx n then c.answer [0, c.soValue n] else c.answer [1]

/-- HOME_WAIT (03 R86, R88): a wait of a tile or of firmware under its key. It returns at once with the value (0), is
refused to a context that does not own the object (1), is registered (2), or is refused with SO_BUSY when the home holds
256 firmware waits (3). A tile with a wait outstanding sends no other. -/
def Chip.doHomeWait (c : Chip) (ctx n : Nat) (target : BitVec 32) (t : Option (Fin 200)) (key : Nat) : Chip :=
  let who := match t with | some p => Waiter.tile p.val | none => Waiter.fw key
  if !c.soAllowed ctx n then c.answer [1]
  else if waitHolds (c.soValue n) target.toNat then c.answer [0, c.soValue n]
  else if c.so.waits.any (fun w => w.who == who) then c
  else if t.isNone && decide (256 ≤ c.fwWaits (n / 4096)) then c.answer [3]
  else (c.modSo (fun s => { s with waits := s.waits ++ [{ so := n, target := target.toNat, who := who }] })).answer [2]

/-! Requests at a home -/

/-- The number of a requester without a cache, beyond those of the caches. -/
def agentOf (src : Nat) : Nat := 0x10000 + src

/-- The source identifier of a caching agent (09 R233, 01 Table 1.5); slices lie on the host die. -/
def cacheSrc (h : Nat) : Nat := if h < 64 then srcCore h else if h = 64 then srcNoc 4 else srcNoc (h - 65)

/-- The holders of a line that are not `h`. -/
def Mem.others (m : Mem) (ln h : Nat) : List Nat :=
  match tabFind m.dir ln with
  | some e => (e.owner.toList ++ e.sharers).filter (· != h)
  | none => []

/-- The owner's answer to a snoop taken into the filter entry: its data, which is then dirty, and its poison (09 R227,
R232). -/
def Mem.answerOwn (m : Mem) (ln : Nat) (own : Option LineCopy) : Mem :=
  match own, tabFind m.dir ln with
  | some y, some e =>
    if e.owner.isSome && y.bytes.length == 64 then
      let st := if e.st = .e then OwnSt.m else e.st
      { m with dir := tabSet m.dir ln { e with data := y.bytes, poison := y.poison || y.ue, st := st } }
    else m
  | _, _ => m

/-- An error of the owning cache's array is logged by that cache (09 R232). -/
def Chip.cacheUe (c : Chip) (ln : Nat) (own : Option LineCopy) : Chip :=
  match own, tabFind c.mem.dir ln with
  | some y, some e => if y.ue && e.owner.isSome then c.logEv .cacheUe (cacheSrc (e.owner.getD 0)) [64 * ln] else c
  | _, _ => c

/-- The channel's check applies when memory supplies the line: no other cache owns it (09 Table 9.4). -/
def Chip.supply (c : Chip) (ln h : Nat) (err : MemErr) : Chip :=
  match tabFind c.mem.dir ln with
  | some e => if e.owner.isSome && e.owner != some h then c else c.chanRead ln err
  | none => c.chanRead ln err

/-- The only copy given to a cache, with the owner's data if that was dirty (09 Table 9.4 ReadUnique). -/
def Mem.takeUnique (m : Mem) (ln h : Nat) : Mem :=
  let x := m.evictFor ln h
  match tabFind x.dir ln with
  | none => x.setEnt ln (DirEnt.sole h .e [] false)
  | some e =>
    let good := if e.ownerClean then [h] else []
    if e.owner.isSome ∧ e.st ≠ .e then x.setEnt ln { e with owner := some h, st := .m, sharers := [], clean := good, offered := false }
    else x.setEnt ln { e with owner := some h, st := .e, sharers := [], data := [], poison := false, clean := good, offered := false }

/-- Write permission for a copy that a cache holds (09 Table 9.4 Upgrade). -/
def Mem.upgrade (m : Mem) (ln h : Nat) : Mem :=
  match tabFind m.dir ln with
  | some e => m.setEnt ln { e with owner := some h, st := .m, sharers := [] }
  | none => m

/-- A cache holds a line in S or O. -/
def Mem.holdsShared (m : Mem) (ln h : Nat) : Bool :=
  match tabFind m.dir ln with
  | some e => e.sharers.contains h || (e.owner == some h && e.st == .o)
  | none => false

/-- The data of an evicted owner returned to memory; the line's sharers stay (09 R228, R230). -/
def Mem.writeBack (m : Mem) (ln : Nat) (y : LineCopy) : Mem :=
  let d := { m with bytes := m.bytes.writeN (64 * ln) y.bytes, poison := setPut m.poison [ln] (y.poison || y.ue) }
  match tabFind d.dir ln with
  | some e =>
    if e.sharers.isEmpty then d.drop ln
    else { d with dir := tabSet d.dir ln { e with owner := none, data := [], poison := false } }
  | none => d

/-- One FP32 operation of a line on an element's four bytes (10 R261, R262). -/
def lineElem (l : List Byte) (i : Nat) (f : Nat → Nat) : List Byte :=
  l.take (4 * i) ++ leBytes 4 (f (fieldLE l (4 * i) 4)) ++ l.drop (4 * i + 4)

/-- The new content of a line after a ledge operation (10 R260 to R262). -/
def lineApply (op : LineOp) (l : List Byte) : List Byte :=
  match op with
  | .put off bs => (l.take off ++ bs ++ l.drop (off + bs.length)).take 64
  | .add mask xs =>
    (List.range 16).foldl (fun a i =>
      if bit mask.toNat i then lineElem a i (fun d => (addF fp32F 0 d ((xs.getD i 0).toNat)).bits) else a) l
  | .scale s rm => (List.range 16).foldl (fun a i => lineElem a i (fun d => (mulF fp32F rm.val d s.toNat).bits)) l

/-- A line operation that writes all 64 bytes without reading. -/
def lineWhole : LineOp → Bool
  | .put off bs => off == 0 && bs.length == 64
  | _ => false

/-- A ledge operation on a line: recalled, computed and written, poison kept unless the whole line is written
(09 R240, 08 R212). -/
def Mem.ledgeLine (m : Mem) (ln : Nat) (op : LineOp) : Mem :=
  let old := m.line ln
  m.putLine ln (lineApply op old.1) (old.2 && !lineWhole op)

/-! Host cores (12 R312 to R317) -/

/-- A host core. -/
def Chip.hartAt (c : Chip) (k : Nat) : Hart := tabGet Hart.fresh c.hart k

/-- A host core set. -/
def Chip.setHart (c : Chip) (k : Nat) (x : Hart) : Chip := c.modHart (fun t => tabSet t k x)

/-- A control and status register of a core, as it is held. -/
def Hart.csrAt (x : Hart) (n : Nat) : Nat := tabGet (csrReset n) x.csr n

/-- A control and status register of a core as it is read: mhartid is the core's number, time the power controller counter (12 R312,
R314). -/
def Chip.csrRead (c : Chip) (k n : Nat) : Nat :=
  if n = 0xF14 then k else if n = 0xC01 then c.count srcPower else (c.hartAt k).csrAt n

/-- The registers of a trap into one mode: xepc, xcause, xtval and xtvec, with the status register and the place of the former mode. -/
def Hart.enter (x : Hart) (epc cause tval tvec status : Nat) (st : Nat) (code va mode : Nat) : Hart :=
  { x with
    csr := tabSet (tabSet (tabSet (tabSet x.csr epc x.pc) cause code) tval va) status st
    pc := x.csrAt tvec / 4 * 4, priv := mode, virt := false }

/-- A precise exception of a core: to supervisor mode where medeleg delegates it, else to machine mode. The entry is that of the RISC-V
privileged architecture (PRESUMED, assumption 106). -/
def Hart.trap (x : Hart) (code va : Nat) : Hart :=
  let s := x.csrAt 0x300
  if x.priv ≤ 1 ∧ bit (x.csrAt 0x302) code then
    x.enter 0x141 0x142 0x143 0x105 0x300 (putBits (putBits (putBits s 8 1 x.priv) 5 1 (bits s 1 1)) 1 1 0) code va 1
  else
    x.enter 0x341 0x342 0x343 0x305 0x300
      (putBits (putBits (putBits (putBits s 11 2 x.priv) 7 1 (bits s 3 3)) 3 1 0) 39 1 (b2n x.virt)) code va 3

/-- The access fault of an access (12 R313, R316): instruction, load, or store/AMO. -/
def coreFault : CoreKind → Nat
  | .fetch => 1
  | .load => 5
  | .amo | .store => 7

/-- An access of a core that retires takes its access fault, with the virtual address in xtval. -/
def Chip.coreTrap (c : Chip) (k : Nat) (use : Option CoreUse) : Chip :=
  match use with
  | some u => if k < 64 ∧ u.retires then c.setHart k ((c.hartAt k).trap (coreFault u.kind) u.va.toNat) else c
  | none => c

/-- A core consumes a poisoned line (12 R316): a load, AMO or fetch that retires takes its access fault, and the core logs CORE_POISON; a
speculative access and a store do not. -/
def Chip.corePoison (c : Chip) (ln k : Nat) (poison : Bool) (use : Option CoreUse) : Chip :=
  match use with
  | some u =>
    if k < 64 ∧ u.retires ∧ poison ∧ u.kind ≠ .store then
      (c.coreTrap k use).logEv .corePoison (srcCore k) [64 * ln + u.va.toNat % 64, srcCore k]
    else c
  | none => c

/-- A line that its L2 has newly filled enters the L1 that asked for it, 64 KiB each, and no other (12 R317). -/
def Chip.fillL1 (c : Chip) (ln k : Nat) (use : Option CoreUse) : Chip :=
  if 64 ≤ k then c
  else
    let x := c.hartAt k
    let put := fun (l : List Nat) (yes : Bool) => if yes then (ln :: l.filter (· != ln)).take 1024 else l.filter (· != ln)
    c.setHart k { x with l1i := put x.l1i (use.any (fun u => u.kind == .fetch)), l1d := put x.l1d (use.any (fun u => u.kind != .fetch)) }

/-- A line lies in a core's L1: it was filled there and its L2 has held it since (09 R223, 12 R317). -/
def Chip.inL1 (c : Chip) (k ln : Nat) (instr : Bool) : Bool :=
  (if instr then (c.hartAt k).l1i else (c.hartAt k).l1d).contains ln &&
    (match tabFind c.mem.dir ln with | some e => e.heldBy k && !e.offered | none => false)

/-- What a request does at its home once its turn has come (09 Table 9.4). -/
def Chip.homeAct (c : Chip) (ln : Nat) (q : Txn) : Chip :=
  let h := q.agent
  let c1 := match q.kind with
    | .readShared | .readUnique | .readOnce | .writePartial | .ledgeOp => (c.cacheUe ln q.own).supply ln h q.err
    | .upgrade => if c.mem.holdsShared ln h then c else (c.cacheUe ln q.own).supply ln h q.err
    | _ => c
  let m := c1.mem.answerOwn ln q.own
  let bad := (m.line ln).2
  let reply := fun (d : Chip) =>
    ((d.fillL1 ln h q.use).corePoison ln h bad q.use).answer (0 :: b2n bad :: (m.line ln).1.map (·.toNat))
  match q.kind with
  | .readShared => reply (c1.modMem (fun _ => m.share ln h))
  | .readUnique => reply (c1.modMem (fun _ => m.takeUnique ln h))
  | .upgrade =>
    if c.mem.holdsShared ln h then (c1.modMem (fun x => x.upgrade ln h)).answer [0]
    else reply (c1.modMem (fun _ => m.takeUnique ln h))
  | .writeBack =>
    match q.own with
    | some y =>
      if (tabFind c1.mem.dir ln).any (fun e => e.owner == some h) then (c1.cacheUe ln q.own).modMem (fun x => x.writeBack ln y) else c1
    | none => c1
  | .evict => c1.modMem (fun x => x.leave ln h)
  | .readOnce => reply (c1.modMem (fun _ => m))
  | .writeFull | .writePartial =>
    let t := c1.hintUsable q.hint
    let d := m.maskWrite ln q.data q.poison t
    c1.modMem (fun _ => if t.isNone then d.hintLost ln q.hint else d)
  | .posted => c1.modMem (fun _ => m.maskWrite ln q.data q.poison none)
  | .held => c1
  | .ledgeOp =>
    match q.op with
    | some op => c1.modMem (fun _ => m.ledgeLine ln op)
    | none => c1

/-- The holders that a request snoops (09 Table 9.4). -/
def Mem.snoops (m : Mem) (ln : Nat) (q : Txn) : List Nat :=
  match q.kind with
  | .readShared | .readOnce => (match tabFind m.dir ln with | some e => e.owner.toList.filter (· != q.agent) | none => [])
  | .writeBack | .evict | .held => []
  | .writeFull | .writePartial | .ledgeOp | .posted => m.others ln 999
  | _ => m.others ln q.agent

/-- The bytes of a line that a masked write did not write take the data of a snoop, and its poison stays with them. -/
def Mem.underlay (m : Mem) (ln : Nat) (written : List (Nat × Byte)) (poison : Bool) (y : LineCopy) : Mem :=
  let now := (m.line ln).1
  let new := (List.range 64).map (fun i => if written.any (fun p => p.1 == i) then now.getD i 0 else y.bytes.getD i 0)
  let bad := poison || (!maskFull written && (y.poison || y.ue))
  match tabFind m.dir ln with
  | some e => if e.data.isEmpty then { m with bytes := m.bytes.writeN (64 * ln) new, poison := setPut m.poison [ln] bad }
      else { m with dir := tabSet m.dir ln { e with data := new, poison := bad } }
  | none => { m with bytes := m.bytes.writeN (64 * ln) new, poison := setPut m.poison [ln] bad }

/-- A WriteBack that meets a snoop of the transaction in progress: its data is the snoop's data, and goes to memory when the
transaction leaves no owner (09 R230). -/
def Mem.crossBack (m : Mem) (ln h : Nat) (q : Txn) (y : LineCopy) : Mem :=
  let bad := y.poison || y.ue
  match q.kind with
  | .readShared | .readOnce =>
    match tabFind m.dir ln with
    | some e =>
      if e.owner = some h then m.writeBack ln y
      else if e.owner.isNone ∧ e.sharers.contains h then
        { m with bytes := m.bytes.writeN (64 * ln) y.bytes, poison := setPut m.poison [ln] bad }.leave ln h
      else m
    | none => m
  | .readUnique | .upgrade =>
    match tabFind m.dir ln with
    | some e => { m with dir := tabSet m.dir ln { e with st := .m, data := y.bytes, poison := bad } }
    | none => m
  | .writePartial | .posted => m.underlay ln q.data q.poison y
  | .ledgeOp =>
    match q.op with
    | some op => m.putLine ln (lineApply op y.bytes) (bad && !lineWhole op)
    | none => m
  | .writeFull | .writeBack | .evict | .held => m

/-- A WriteBack or Evict of a cache that answers a snoop of the transaction in progress as invalid (09 R230). -/
def Chip.crossed (c : Chip) (ln : Nat) (q w : Txn) : Chip :=
  let d := match w.kind, w.own with
    | .writeBack, some y =>
      let e := if y.ue then c.logEv .cacheUe (cacheSrc w.agent) [64 * ln] else c
      e.modMem (fun m => m.crossBack ln w.agent q y)
    | _, _ => c.modMem (fun m => if q.kind == TxnKind.readShared || q.kind == TxnKind.readOnce then m.leave ln w.agent else m)
  d.modMem (fun m => match tabFind m.busy ln with
    | some b => { m with busy := tabSet m.busy ln { b with snooped := b.snooped.filter (· != w.agent) } }
    | none => m)

/-- A request may begin: its line is idle, its channel accepts requests (08 R219, R220), and its set of the snoop filter can make
room for the entry it needs (09 R234). -/
def Chip.canServe (c : Chip) (ln : Nat) (q : Txn) : Bool :=
  let needs := match q.kind with
    | .readShared | .readUnique | .upgrade => true
    | .writeFull | .writePartial => (c.hintUsable q.hint).isSome
    | _ => false
  q.kind != .held && (tabFind c.mem.busy ln).isNone && c.accepts ln && (!needs || c.mem.hasRoom ln)

/-- A LedgeOp finds its engine fenced when its turn comes (10 R286). -/
def Chip.opFenced (c : Chip) (ln : Nat) (q : Txn) : Bool :=
  q.kind == .ledgeOp && c.ledge.fenced.contains (ledgeOfChan (c.mem.chanOf (64 * ln)))

/-- A request begun: its effect takes place, and the line is busy until the transaction completes (09 R225, R231). -/
def Chip.serve (c : Chip) (ln : Nat) (q : Txn) : Chip :=
  let snooped := c.mem.snoops ln q
  (c.homeAct ln q).modMem (fun m => { m with busy := tabSet m.busy ln { q with snooped := snooped } })

/-- A waiting WriteBack or Evict of a cache that the transaction has just snooped meets that snoop (09 R230). -/
def Chip.meetBacks (c : Chip) (ln : Nat) : Chip :=
  match tabFind c.mem.busy ln with
  | some b =>
    let l := tabGet [] c.mem.waitq ln
    let hit := fun (w : Txn) => (w.kind == .writeBack || w.kind == .evict) && b.snooped.contains w.agent
    let rest := l.filter (fun w => !hit w)
    if rest.length = l.length then c
    else (l.filter hit).foldl (fun (d : Chip) w => d.crossed ln b w)
      (c.modMem (fun m => { m with waitq := if rest.isEmpty then tabDel m.waitq ln else tabSet m.waitq ln rest }))
  | none => c

/-- The transactions that wait at a home, its queue (09 R225): 512 on a tensor die and 1,024 on the host die. -/
def Mem.queued (m : Mem) (home : Nat) : Nat :=
  (m.waitq.map (fun p => if homeOf (64 * p.1) = home then (p.2.filter (fun q => q.kind != .held)).length else 0)).sum

/-- The home of a line has no room for a further waiting transaction: link credits hold it at its sender (09 R225). -/
def Mem.queueFull (m : Mem) (ln : Nat) : Bool :=
  let h := homeOf (64 * ln)
  decide ((if h < 4 then 512 else 1024) ≤ m.queued h)

/-- A request at its home: begun, or in the line's queue behind the earlier ones (09 R225); one that a bank at RAAMMT holds is logged
(08 R219). -/
def Chip.request (c : Chip) (ln : Nat) (q : Txn) : Chip :=
  if (tabGet [] c.mem.waitq ln).isEmpty && c.canServe ln q then c.serve ln q
  else
    let ch := c.mem.chanOf (64 * ln)
    let d := if c.bankFull ch (c.mem.bankOf ln) then c.throttle ch (c.mem.bankOf ln) else c
    d.modMem (fun m => { m with waitq := tabSet m.waitq ln (tabGet [] m.waitq ln ++ [q]) })

/-- The waiting requests of a line taken in order as far as they can begin: writes of the power controller's own and LedgeOps of a fenced
engine end at once. -/
def Chip.serveList (c : Chip) (ln : Nat) : List Txn → Chip
  | [] => c.modMem (fun m => { m with waitq := tabDel m.waitq ln })
  | q :: rest =>
    if !c.canServe ln q then c.modMem (fun m => { m with waitq := tabSet m.waitq ln (q :: rest) })
    else if q.kind = .posted then Chip.serveList (c.homeAct ln q) ln rest
    else if c.opFenced ln q then Chip.serveList (c.answer [2]) ln rest
    else ((c.modMem (fun m => { m with waitq := if rest.isEmpty then tabDel m.waitq ln else tabSet m.waitq ln rest })).serve ln q).meetBacks ln

/-- The waiting requests of a line that can begin do so. -/
def Chip.serveNext (c : Chip) (ln : Nat) : Chip :=
  match tabGet [] c.mem.waitq ln with
  | [] => c
  | q :: rest => if c.canServe ln q then c.serveList ln (q :: rest) else c

/-- Every request that can begin now does so, and the rings whose slots' lines were busy are read on (14 R377). -/
def Chip.serveAll (c : Chip) : Chip := (c.mem.waitq.foldl (fun (d : Chip) p => d.serveNext p.1) c).pumpAll

/-- A plain request of a kind. -/
def Txn.of (kind : TxnKind) (agent : Nat) (own : Option LineCopy) (err : MemErr) : Txn :=
  { kind := kind, agent := agent, data := [], poison := false, hint := 0, own := own, err := err, op := none, use := none, snooped := [] }

/-- A request by a physical address (08 R199, R201): memory takes it at the line's home; an unbacked address refuses it, answer 1, logs it,
and gives the core behind it its access fault (12 R313); the configuration range of a joined partner reads as all ones, an interrupt file
takes a 4-byte write of an identity, and a cache's request for a window that is not cacheable is refused in the same way. What another
window answers is its device's. -/
def Chip.requestAt (c : Chip) (src pa : Nat) (q : Txn) : Chip :=
  match c.placeOf pa with
  | .memory => c.request (pa / 64) q
  | .unbacked => ((c.logUnbacked src pa).coreTrap q.agent q.use).answer [1]
  | w =>
    match q.kind with
    | .readShared | .readUnique | .upgrade => (c.coreTrap q.agent q.use).answer [1]
    | .readOnce => if w = .ecamIdle then c.answer (0 :: 0 :: List.replicate 64 255) else c
    | .writePartial =>
      let o := pa - 0xFD0000000000
      if w = .imsic ∧ pa % 0x1000 < 64 ∧ (q.data.map (·.1)) = [0, 1, 2, 3] then
        c.msi (o / 0x8000) (o % 0x8000 / 0x1000) (leVal (q.data.map (·.2)))
      else c
    | _ => c

/-- READ_SHARED (09 R229): a readable copy for a cache that holds none. -/
def Chip.doReadShared (c : Chip) (h : Nat) (pa : BitVec 52) (own : Option LineCopy) (err : MemErr) (use : Option CoreUse) : Chip :=
  c.requestAt (cacheSrc h) pa.toNat { Txn.of .readShared h own err with use := use }

/-- READ_UNIQUE (09 R229): the only copy. -/
def Chip.doReadUnique (c : Chip) (h : Nat) (pa : BitVec 52) (own : Option LineCopy) (err : MemErr) (use : Option CoreUse) : Chip :=
  c.requestAt (cacheSrc h) pa.toNat { Txn.of .readUnique h own err with use := use }

/-- UPGRADE (09 R229, R230): write permission, or a ReadUnique when the copy is gone. -/
def Chip.doUpgrade (c : Chip) (h : Nat) (pa : BitVec 52) (own : Option LineCopy) (err : MemErr) : Chip :=
  c.requestAt (cacheSrc h) pa.toNat (Txn.of .upgrade h own err)

/-- The transaction in progress on a line has snooped this cache and has not had its answer. -/
def Mem.crossing (m : Mem) (ln h : Nat) : Option Txn :=
  match tabFind m.busy ln with
  | some q => if q.snooped.contains h then some q else none
  | none => none

/-- WRITE_BACK (09 R228, R230): a cache returns a line that it owns; it answers a snoop that it meets as invalid. A line that no memory
backs is refused (08 R201). -/
def Chip.doWriteBack (c : Chip) (h : Nat) (pa : BitVec 52) (y : LineCopy) : Chip :=
  let ln := pa.toNat / 64
  let w := Txn.of .writeBack h (some y) .none
  if y.bytes.length ≠ 64 then c
  else if !c.mem.backed pa.toNat then c.requestAt (cacheSrc h) pa.toNat w
  else match c.mem.crossing ln h with
    | some q => c.crossed ln q w
    | none => if (tabFind c.mem.dir ln).any (fun e => e.owner == some h) then c.request ln w else c

/-- EVICT (09 R228, R230): a cache drops a line that it holds in E or S. -/
def Chip.doEvict (c : Chip) (h : Nat) (pa : BitVec 52) : Chip :=
  let ln := pa.toNat / 64
  let w := Txn.of .evict h none .none
  match c.mem.crossing ln h with
  | some q => c.crossed ln q w
  | none =>
    if (tabFind c.mem.dir ln).any (fun e => e.sharers.contains h || (e.owner == some h && e.st == .e)) then c.request ln w else c

/-- READ_ONCE (09 R229): the current value of a line for an agent without a cache. -/
def Chip.doReadOnce (c : Chip) (src : BitVec 16) (pa : BitVec 52) (own : Option LineCopy) (err : MemErr) : Chip :=
  c.requestAt src.toNat pa.toNat (Txn.of .readOnce (agentOf src.toNat) own err)

/-- A write of an agent without a cache, refused into the protected copy of the dispatch image (15 R394). -/
def Chip.requestWrite (c : Chip) (src pa : Nat) (q : Txn) : Chip :=
  if c.protectedN (pa / 64 * 64) 64 then (c.logEv .pcopyWrite (srcNoc 4) [pa, src]).answer [1] else c.requestAt src pa q

/-- WRITE_FULL (09 R229, R237): all 64 bytes of a line, with an optional hint. -/
def Chip.doWriteFull (c : Chip) (src : BitVec 16) (pa : BitVec 52) (d : BitVec 512) (poison : Bool) (hint : BitVec 16) : Chip :=
  c.requestWrite src.toNat pa.toNat
    { Txn.of .writeFull (agentOf src.toNat) none .none with
      data := (lineBytes d).zipIdx.map (fun p => (p.2, p.1)), poison := poison, hint := hint.toNat }

/-- WRITE_PARTIAL (09 R229, R237): the bytes of a line that a mask selects, with an optional hint. -/
def Chip.doWritePartial (c : Chip) (src : BitVec 16) (pa : BitVec 52) (d : BitVec 512) (mask : BitVec 64) (poison : Bool)
    (hint : BitVec 16) (own : Option LineCopy) (err : MemErr) : Chip :=
  c.requestWrite src.toNat pa.toNat
    { Txn.of .writePartial (agentOf src.toNat) own err with
      data := ((lineBytes d).zipIdx.filter (fun p => bit mask.toNat p.2)).map (fun p => (p.2, p.1)), poison := poison
      hint := hint.toNat }

/-- LEDGE_OP (09 R240, 10 R286): an operation of the line's ledge engine; a fenced engine's is refused, answer 2. -/
def Chip.doLedgeOp (c : Chip) (pa : BitVec 52) (op : LineOp) (own : Option LineCopy) (err : MemErr) : Chip :=
  let a := pa.toNat
  let e := ledgeOfChan (c.mem.chanOf a)
  if c.mem.backed a && c.ledge.fenced.contains e then c.answer [2]
  else c.requestAt (srcLedge e) a { Txn.of .ledgeOp (agentOf (srcLedge e)) own err with op := some op }

/-- TRANSACTION_COMPLETE (09 R231): the transaction in progress on a line ends, and the next request proceeds; so does one
that waited for room in the snoop filter (R234). -/
def Chip.doTransactionComplete (c : Chip) (pa : BitVec 52) : Chip :=
  let ln := pa.toNat / 64
  if (tabFind c.mem.busy ln).isSome then
    ((c.modMem (fun m => { m with busy := tabDel m.busy ln })).serveNext ln).serveAll
  else c

/-- SNOOP_TIMEOUT (09 R235): a cache that was snooped has not answered; the home logs it, and the event is fatal with the
code of 20 Table 20.3. The snoop is one of the transaction in progress, or, where none is, of an access or a back-invalidation that the
model makes in one step, which snoops the holders of its line (DESIGN CHOICE, assumption 108). -/
def Chip.doSnoopTimeout (c : Chip) (pa : BitVec 52) (h : Nat) : Chip :=
  let ln := pa.toNat / 64
  let owes : Bool := match tabFind c.mem.busy ln with
    | some q => q.snooped.contains h
    | none => (tabFind c.mem.dir ln).any (fun e => e.heldBy h)
  if owes then c.fatal .snoopTimeout (srcNoc (homeOf (64 * ln))) [64 * ln, cacheSrc h] 0x11 (cacheSrc h) else c

/-- The line that a hinted write has delivered written to memory as without the hint, and the hint counted (09 R238). -/
def Mem.unhint (m : Mem) (ln hint : Nat) : Mem :=
  let l := m.line ln
  (m.putLine ln l.1 l.2).hintLost ln hint

/-- HINT_DROPPED (09 R238): the target of the write in progress, or of a device's write that the model makes in one step, does not take the
line that it was offered, so the write is made without its hint, and counted. -/
def Chip.doHintDropped (c : Chip) (pa : BitVec 52) : Chip :=
  let ln := pa.toNat / 64
  match tabFind c.mem.busy ln with
  | some q =>
    if (q.kind = .writeFull ∨ q.kind = .writePartial) ∧ (c.hintUsable q.hint).isSome then
      c.modMem (fun m => { m.unhint ln q.hint with busy := tabSet m.busy ln { q with hint := 0 } })
    else c
  | none =>
    if (tabFind c.mem.dir ln).any (fun e => e.offered && e.owner.isSome && e.sharers.isEmpty) then c.modMem (fun m => m.unhint ln 0x4000) else c

/-- RFM (08 R216, R219): a bank is asked for `acts` more activations, which it accepts up to RAAMMT. When its count reaches RAAIMT RFMs of
`ns` nanoseconds each are issued within the share, or wait for the next window; what it cannot accept is held, which is logged once in the
window. Requests that a lower count lets through proceed. -/
def Chip.doRfm (c : Chip) (ch bank acts ns : Nat) : Chip :=
  if c.asleep ch ∨ c.mem.chanBytes ch = 0 ∨ chanBanks ch ≤ bank then c
  else
    let x := c.chanAt ch
    let y := { x with want := tabSet x.want bank (tabGet 0 x.want bank + acts) }
    ((c.setChan ch (y.settle ch bank ns)).throttleHeld ch).serveAll

/-- BACKGROUND_WINDOW (08 R217, R219): a window ends, the shares begin anew, at the temperature of the hottest device, and the RFMs that
waited are issued first, each charged `ns` nanoseconds, as far as the new share goes. -/
def Chip.doBackgroundWindow (c : Chip) (ch ns : Nat) (hot : Bool) : Chip :=
  let w := min (c.chanAt ch).window (c.count srcPower / windowCounts)
  let d := c.passTo srcPower ((w + 1) * windowCounts)
  let x := d.chanAt ch
  let y := { x with used := [], throttled := false, rfmWait := [], window := d.count srcPower / windowCounts, hot := hot }
  ((d.setChan ch (x.rfmWait.foldl (fun z bank => z.settle ch bank ns) y)).throttleHeld ch).serveAll

end Sys2Proof.Machine
end

