-- ==== Sys2Proof/Machine/Virtual.lean ====
section
/-!
DEFINITION. Virtual ranges as the agents outside tiles read and write them: ledge front-ends, FD, the root complex and the
firmware's checks (03 R82, R83, R546, 08 R201).
-/

namespace Sys2Proof.Machine

/-- Why a translation did not serve. -/
inductive VKind where
  /-- No valid translation (XLATE_FAULT). -/
  | xlate
  /-- Forbidden, or an unbacked address (ACCESS_FAULT). -/
  | access
  /-- A poisoned table entry. -/
  | poison
  /-- Memory in self-refresh, where a line operation of a ledge engine waits (08 R220, 10 R282). -/
  | held
deriving DecidableEq, Repr

/-- A translation that failed: why, the detail that is reported (the virtual address, or the physical address of a poisoned
entry), and the unbacked or refused physical address. -/
structure VFault where
  kind : VKind
  detail : Nat
  refused : Option Nat
deriving DecidableEq, Repr

/-- A virtual range as far as it translates: its pieces (virtual address, physical address, length), the translations used,
and the fault that ends it. -/
structure Span where
  pieces : List (Nat × Nat × Nat)
  ents : List TlbEnt
  fault : Option VFault
deriving DecidableEq, Repr

/-- The translation of one address, which must be backed, and not in the protected copy for a write. -/
def Chip.place (c : Chip) (units : List Nat) (ctx va : Nat) (wr : Bool) : Except VFault (Nat × TlbEnt) :=
  match c.xlate units ctx va wr with
  | .ok pa e _ =>
    if !c.mem.backed pa || (wr && !c.writable pa 1) then .error { kind := .access, detail := va, refused := some pa } else .ok (pa, e)
  | .invalid _ => .error { kind := .xlate, detail := va, refused := none }
  | .denied _ => .error { kind := .access, detail := va, refused := none }
  | .unbacked p _ => .error { kind := .access, detail := va, refused := some p }
  | .poisoned p _ => .error { kind := .poison, detail := p, refused := none }

/-- A range of `n` bytes from `va`, in pieces that do not cross a multiple of `unit` (a power of two up to 4 KiB). -/
def Chip.span (c : Chip) (units : List Nat) (ctx : Nat) (wr : Bool) (unit : Nat) : Nat → Nat → Nat → Span
  | 0, _, _ => { pieces := [], ents := [], fault := none }
  | fuel + 1, va, n =>
    if n = 0 then { pieces := [], ents := [], fault := none }
    else
      let k := min n (unit - va % unit)
      match c.place units ctx (va % 2 ^ 64) wr with
      | .error f => { pieces := [], ents := [], fault := some f }
      | .ok (pa, e) =>
        let r := Chip.span c units ctx wr unit fuel (va + k) (n - k)
        { r with pieces := (va, pa, k) :: r.pieces, ents := if r.ents.contains e then r.ents else e :: r.ents }

/-- A range in pieces within lines. -/
def Chip.spanLines (c : Chip) (units : List Nat) (ctx va n : Nat) (wr : Bool) : Span := c.span units ctx wr 64 (n / 64 + 2) va n

/-- A range in pieces within 4 KiB pages. -/
def Chip.spanPages (c : Chip) (units : List Nat) (ctx va n : Nat) (wr : Bool) : Span :=
  c.span units ctx wr 4096 (n / 4096 + 2) va n

/-- The lines of the pieces of a range. -/
def Span.lines (s : Span) : List Nat := s.pieces.flatMap (fun p => rangeLines p.2.1 p.2.2)

/-- A range that an agent accesses: its translations enter the TLB, its lines' homes are met (09 R225), and what is refused is logged (08
R201). -/
def Chip.used (c : Chip) (units : List Nat) (src : Nat) (s : Span) : Chip :=
  let d := (c.tlbFill units s.ents).meet s.lines false
  match s.fault with
  | some f => match f.refused with
    | some pa => d.logRefused src pa 1
    | none => d
  | none => d

/-- The bytes of the pieces of a range, and the first poisoned virtual address. -/
def Mem.gather (m : Mem) (s : Span) : List Byte × Option Nat :=
  (s.pieces.flatMap (fun p => m.readN p.2.1 p.2.2), (s.pieces.find? (fun p => m.poisonedN p.2.1 p.2.2)).map (·.1))

/-- Bytes stored at the pieces of a range with a hint; `bad` writes the poison pattern to every line that it touches. -/
def Chip.scatter (c : Chip) (s : Span) (bs : List Byte) (bad : Bool) (hint : Nat) : Chip :=
  (s.pieces.foldl (fun (acc : Chip × List Byte) p =>
    (acc.1.storeHint p.2.1 (acc.2.take p.2.2) bad hint, acc.2.drop p.2.2)) (c, bs)).1

/-- The status code of a fault in 10 Table 10.5 and in 14 Table 14.7: XLATE_FAULT 3, ACCESS_FAULT 4, POISON 5. A held operation
is not a fault and ends nothing: its number is no status. -/
def VKind.code : VKind → Nat
  | .xlate => 3
  | .access => 4
  | .poison => 5
  | .held => 0xFF

end Sys2Proof.Machine
end

