-- ==== Sys2Proof/Machine/Bucket.lean ====
section
/-!
DEFINITION. Gradient buckets (11): opening, contributions, completion, lateness and abort; and the sums of squares that
buckets and ledge commands form (10 R264).
-/

namespace Sys2Proof.Machine

/-! Sums of squares -/

/-- The elements of a line. -/
def lineElems (l : List Byte) : List Nat := (List.range 16).map (fun i => fieldLE l (4 * i) 4)

/-- `rne64(s + x·x)` for an FP32 element (10 R264). -/
def foldSquare (s x : Nat) : Nat := (fmaF fp64F 0 (fp64Of32 x) (fp64Of32 x) s).bits

/-- The ledge engine that serves an address. -/
def Mem.engineOf (m : Mem) (pa : Nat) : Nat := ledgeOfChan (m.chanOf pa)

/-- A list sorted in ascending order without repeats. -/
def ascending (l : List Nat) : List Nat := l.foldl setIns []

/-- A line put among lines in ascending order of their addresses, behind those of its own address. -/
def insLine (x : Nat × List Nat) : List (Nat × List Nat) → List (Nat × List Nat)
  | [] => [x]
  | y :: r => if x.1 < y.1 then x :: y :: r else y :: insLine x r

/-- Lines in ascending order of their addresses; a line that a range reaches twice stays twice. -/
def sortLines (l : List (Nat × List Nat)) : List (Nat × List Nat) := l.foldl (fun a x => insLine x a) []

/-- Partials combined in FP64 with RNE, in the order of the list. -/
def combine64 (l : List Nat) : Nat := l.foldl (fun s p => (addF fp64F 0 s p).bits) 0

/-- The FP64 sum of squares of some lines (address, elements), each engine's folded in ascending physical address (10 R264). -/
def Mem.sumSquares (m : Mem) (ls : List (Nat × List Nat)) : Nat :=
  let lines := sortLines ls
  combine64 ((ascending (lines.map (fun x => homeOf x.1))).map (fun h =>
    let mine := lines.filter (fun x => homeOf x.1 == h)
    combine64 ((ascending (mine.map (fun x => m.engineOf x.1))).map (fun e =>
      (mine.filter (fun x => m.engineOf x.1 == e)).foldl (fun s x => x.2.foldl foldSquare s) 0))))

/-- Lines recalled by ledge operations (09 R240 step 2). -/
def Mem.recall (m : Mem) (pas : List Nat) : Mem := pas.foldl (fun x pa => (x.flush (pa / 64)).drop (pa / 64)) m

/-- The lines of some pieces of memory. -/
def linesOf (ps : List (Nat × Nat × Nat)) : List Nat :=
  ps.flatMap (fun p => (List.range ((p.2.2 + 63) / 64)).map (fun i => p.2.1 + 64 * i))

/-! Entries -/

/-- A bucket entry. -/
def Chip.bucketAt (c : Chip) (tag : Nat) : Bucket := tabGet Bucket.fresh c.bucket tag
/-- A bucket entry set. -/
def Chip.setBucket (c : Chip) (tag : Nat) (b : Bucket) : Chip := c.modBucket (fun t => tabSet t tag b)

/-- The die code of a bucket's home. -/
def Bucket.home (b : Bucket) : Nat :=
  match b.pages with
  | p :: _ => homeOf p.2.1
  | [] => 4

/-- An entry that accepts contributions. -/
def Bucket.accepting (b : Bucket) : Bool := b.st == .filling || b.st == .open_

/-- An OPEN entry whose count is full enters CLOSING (R300). -/
def Bucket.settle (b : Bucket) : Bucket := if b.st = .open_ ∧ b.applied = b.expect then { b with st := .closing } else b

/-- The binding fields of an open, as the entry takes them (R290). -/
def Bucket.opened (b : Bucket) (now : Nat) (pages : List (Nat × Nat × Nat)) : Bucket :=
  { b with st := .filling, applied := 0, refused := 0, late := false, ovf := false, invalid := false, poison := false
           since := now, pages := pages, filled := 0, abort := none }

/-- The check of an open of an entry with the fields of `b`, in the order of R290: its status and DETAIL, the pages of the
region, and the translations used. -/
def Chip.openCheck (c : Chip) (tag : Nat) (b : Bucket) : Nat × Nat × Span :=
  let s := c.spanPages [] b.ctx b.base b.len true
  if (c.bucketAt tag).st ≠ .free then (0x0A, tag, { s with ents := [], fault := none })
  else if !c.soAllowed b.ctx b.so || c.soOwner b.so != b.ctx then (0x02, b.so, { s with ents := [], fault := none })
  else match s.fault with
    | some f => (f.kind.code, f.detail, s)
    | none =>
      match s.pieces with
      | [] => (0, 0, s)
      | p :: r => match r.find? (fun q => homeOf q.2.1 != homeOf p.2.1) with
        | some q => (0x06, q.1, s)
        | none => (0, 0, s)

/-- An open carried out: accepted, the entry enters FILLING (R290, R291). The answer is the status and DETAIL. -/
def Chip.bucketOpen (c : Chip) (tag : Nat) (b : Bucket) : Chip × Nat × Nat :=
  let r := c.openCheck tag b
  let d := c.used [] srcDispatch r.2.2
  if r.1 = 0 then (d.setBucket tag (b.opened c.dispatch r.2.2.pieces), 0, 0) else (d, r.1, r.2.1)

/-- The lines of a bucket's region that are not zero-filled yet, in ascending address. -/
def Bucket.unfilled (b : Bucket) : List Nat := (linesOf b.pages).drop (b.filled / 64)

/-- The zero-fill of a region goes on over at most `n` lines, each a WriteFull at its home (R291, 10 R260), up to one whose home cannot
serve it now. -/
def Chip.fillOn (c : Chip) (tag n : Nat) : Chip :=
  let b := c.bucketAt tag
  let lines := (b.unfilled.take n).takeWhile (fun pa => c.ready (pa / 64) false)
  (c.modMem (fun m => lines.foldl (fun x pa => x.putLine (pa / 64) (zeros 64) false) m)).setBucket tag
    { b with filled := b.filled + 64 * lines.length }

/-- BUCKET_FILLED (R291): the zero-fill reaches the end of the region. -/
def Chip.doBucketFilled (c : Chip) (tag : Nat) : Chip :=
  let b := c.bucketAt tag
  if b.st ≠ .filling then c
  else
    let d := c.fillOn tag (b.len / 64)
    let x := d.bucketAt tag
    match x.unfilled with
    | [] => d.setBucket tag { x with st := .open_ }.settle
    | l => d.meet (l.map (· / 64)) false

/-! Contributions (R293 to R295) -/

/-- The number of elements that a mask selects. -/
def maskCount (mask : Nat) : Nat := ((List.range 16).filter (fun i => bit mask i)).length

/-- The reason why a contribution is refused, in the order STATE, RANGE, CONTEXT, OVER (1 to 4); 0: it is accepted. A
queue command's context is given, FD's is not. -/
def Bucket.refuses (b : Bucket) (pa mask : Nat) (ctx : Option Nat) : Nat :=
  if !b.accepting then 1
  else if !b.pages.any (fun p => decide (p.2.1 ≤ pa) && decide (pa < p.2.1 + p.2.2)) then 2
  else if ctx.isSome && ctx != some b.ctx then 3
  else if b.expect < b.applied + maskCount mask then 4
  else 0

/-- FP32 addends added to the elements of a line that a mask selects: the new line, and whether an addition overflowed or
raised INVALID (10 R261). -/
def accLine (l : List Byte) (mask : Nat) (xs : List Nat) : List Byte × Bool × Bool :=
  (List.range 16).foldl (fun (acc : List Byte × Bool × Bool) i =>
    if bit mask i then
      let r := addF fp32F 0 (fieldLE acc.1 (4 * i) 4) (xs.getD i 0)
      (lineElem acc.1 i (fun _ => r.bits), acc.2.1 || r.ovf, acc.2.2 || r.invalid)
    else acc) (l, false, false)

/-- The region of a FILLING bucket as far as the fill has got when an operation for a line comes: it has passed a free number of lines, at
the pace of Table 8.8 (R291, assumption 57). -/
def Chip.fillSome (c : Chip) (tag pa : Nat) : Chip :=
  let b := c.bucketAt tag
  if b.st = .filling ∧ b.unfilled.contains pa then (c.fillOn tag (c.freeVal % (b.len / 64 + 1))).took 1 else c

/-- An operation for a line of a FILLING bucket that is not zero-filled yet: it waits at the home (R289, R291). -/
def Chip.fillWaits (c : Chip) (tag pa : Nat) : Bool :=
  (c.bucketAt tag).st == .filling && (c.bucketAt tag).unfilled.contains pa

/-- One tagged ACCUM line operation at the bucket's home: 0 applied, 1 refused under R293, 2 refused by a fenced engine
(10 R286), 3 waiting for the fill of its line or for its home. -/
def Chip.contribute (c : Chip) (tag pa mask : Nat) (xs : List Nat) (bad : Bool) (ctx : Option Nat) (src hint : Nat) :
    Chip × Nat :=
  let c := c.fillSome tag pa
  let b := c.bucketAt tag
  let why := b.refuses pa mask ctx
  if why ≠ 0 then
    let d := c.setBucket tag { b with refused := min (b.refused + 1) (2 ^ 32 - 1) }
    (d.logWin .bucketRefused [tag, why] srcDispatch msDispatch (srcNoc b.home) [tag, why, src], 1)
  else if c.ledge.fenced.contains (c.mem.engineOf pa) then (c, 2)
  else if c.fillWaits tag pa ∨ !c.ready (pa / 64) (c.hintUsable hint).isSome then
    (c.modMem (fun m => { m with met := setIns m.met (pa / 64) }), 3)
  else
    let old := c.mem.line (pa / 64)
    let r := accLine old.1 mask xs
    let p := old.2 || bad
    let d := c.storeHint (pa / 64 * 64) r.1 p hint
    (d.setBucket tag { b with applied := b.applied + maskCount mask, ovf := b.ovf || r.2.1, invalid := b.invalid || r.2.2
                              poison := b.poison || p }.settle, 0)

/-- CONTRIBUTION (R293, R294): a tagged line operation reaches its home; the answer is 0 applied, 1 refused, 2 refused by a
fenced engine. -/
def Chip.doContribution (c : Chip) (tag : Nat) (pa : BitVec 52) (mask : BitVec 16) (xs : List (BitVec 32)) (bad : Bool)
    (ctx : Option (Fin 64)) (src : BitVec 16) : Chip :=
  let r := c.contribute tag (pa.toNat / 64 * 64) mask.toNat (xs.map (·.toNat)) bad (ctx.map (·.val)) src.toNat 0
  r.1.answer [r.2]

/-! Completion and abort (R297 to R301) -/

/-- The bucket record (Table 11.3). -/
def Bucket.recordBytes (b : Bucket) (tag status sum : Nat) : List Byte :=
  leBytes 2 tag ++ leBytes 1 status ++ leBytes 1 (b2n b.late + 2 * b2n b.ovf + 4 * b2n b.invalid + 8 * b2n b.nosq) ++
    leBytes 4 sum ++ leBytes 8 b.applied ++ leBytes 4 b.refused ++ zeros 12

/-- A write of a completing bucket; one whose address does not translate is skipped and logged (R300). -/
def Chip.bucketWrite (c : Chip) (tag field va : Nat) (bs : List Byte) (hint : Nat) : Chip :=
  let b := c.bucketAt tag
  let u := ledgeTlb b.home
  let s := c.spanLines u b.ctx va bs.length true
  let d := c.used u (srcNoc b.home) s
  if s.fault.isSome then d.logEv .bucketWriteFailed (srcNoc b.home) [tag, field, va] else d.scatter s bs false hint

/-- The record, the norm slot and the signal of a bucket's end, and the entry FREE. -/
def Chip.bucketEnd (c : Chip) (tag status sum : Nat) : Chip :=
  let b := c.bucketAt tag
  let d := c.bucketWrite tag 0 b.record (b.recordBytes tag status sum) b.rhint
  let e := if b.norm = 0 then d else d.bucketWrite tag 1 b.norm (leBytes 4 sum) 0
  (e.soApply b.ctx b.so b.sval false).setBucket tag { b with st := .free }

/-- The canonical NaN of FP32 (02 R37). -/
def nan32 : Nat := 0x7FC00000

/-- BUCKET_COMPLETE (R300): the sum of squares is formed, the record and the norm slot are written, the object is signalled
and the entry becomes FREE. -/
def Chip.doBucketComplete (c : Chip) (tag : Nat) : Chip :=
  let b := c.bucketAt tag
  if b.st = .closing then
    if b.nosq then c.bucketEnd tag (if b.poison then 2 else 0) (if b.poison then nan32 else 0)
    else
      let lines := linesOf b.pages
      let bad := lines.any (fun pa => c.mem.poisonedLine (pa / 64))
      let sum := fp32Of64 (c.mem.sumSquares (lines.map (fun pa => (pa, lineElems (c.mem.line (pa / 64)).1))))
      let d := ((c.meet (lines.map (· / 64)) false).modMem (fun m => m.recall lines)).setBucket tag
        { b with poison := b.poison || bad, ovf := b.ovf || (sum.ovf && !b.poison && !bad) }
      d.bucketEnd tag (if b.poison || bad then 2 else 0) (if b.poison || bad then nan32 else sum.bits)
  else c

/-- BUCKET_LATE (R298): TIMEOUT has passed since the open and the bucket still waits. -/
def Chip.doBucketLate (c : Chip) (tag : Nat) : Chip :=
  let b := c.bucketAt tag
  if b.accepting && b.timeout != 0 && !b.late then
    let d := c.passTo srcDispatch (b.since + 1000 * b.timeout)
    ((d.setBucket tag { b with late := true }).logEv .bucketLate srcDispatch [tag, b.applied, b.expect]).event
      (c.ctxAt b.ctx).eventCq 0x80 b.ctx (tag + 2 ^ 16 * (b.applied % 2 ^ 48)) 0
  else c

/-- An abort at the home (R299): the status and DETAIL of its descriptor, and whether it ends only with the abort that it begins. -/
def Chip.bucketAbort (c : Chip) (tag ctx : Nat) (key : Option Nat) : Chip × Nat × Nat × Bool :=
  let b := c.bucketAt tag
  if b.st = .free then (c, 0x0B, tag, false)
  else if ctx ≠ b.ctx ∧ ctx ≠ 0 then (c, 0x02, b.so, false)
  else match b.st with
    | .closing => (c, 0x0C, tag, false)
    | .aborting => (c, 0, 0, false)
    | _ => (c.setBucket tag { b with st := .aborting, abort := key }, 0, 0, true)


/-! Versions (R308 to R310) -/

/-- A version block found: its physical address, VERSION and HOLDS. -/
def Chip.versionAt (c : Chip) (units : List Nat) (ctx va : Nat) : Except VFault (Nat × Nat × Nat) :=
  match c.place units ctx va true with
  | .ok (pa, _) => .ok (pa, c.mem.readLE pa 8, c.mem.readLE (pa + 8) 4)
  | .error f => .error f

/-- The access that reads a version block: its lines' homes are met (09 R225). -/
def Chip.versionMet (c : Chip) (units : List Nat) (ctx va : Nat) : Chip :=
  match c.place units ctx va true with
  | .ok (pa, _) => c.meet (rangeLines pa 12) false
  | .error _ => c

/-- The count of a VERSION raised by one, with TORN as given and BUSY clear (R309). -/
def versionNext (v : Nat) (torn : Bool) : Nat := (v % 2 ^ 62 + 1) % 2 ^ 62 + (if torn then 2 ^ 62 else 0)

/-- HOLDS lowered by one (R310). -/
def Chip.holdDown (c : Chip) (ctx va : Nat) : Chip :=
  match c.versionAt fdTlb ctx va with
  | .ok (pa, _, h) => if h = 0 then c else c.storeHint (pa + 8) (leBytes 4 (h - 1)) false 0
  | .error _ => c

end Sys2Proof.Machine
end

