-- ==== Sys2Proof/Machine/Fabric.lean ====
section
/-!
DEFINITION. The fabric's tables as every family uses them: sub-ports, regions and connections, and messages posted on a
connection (13).
-/

namespace Sys2Proof.Machine

/-- A sub-port. -/
def Chip.portAt (c : Chip) (p : Nat) : SubPort := tabGet SubPort.fresh c.fab.port p
/-- A sub-port set. -/
def Chip.setPort (c : Chip) (p : Nat) (x : SubPort) : Chip := c.modFab (fun f => { f with port := tabSet f.port p x })
/-- A region entry. -/
def Chip.regionAt (c : Chip) (k : Nat) : FdRegion := tabGet FdRegion.fresh c.fab.region k
/-- A region entry set. -/
def Chip.setRegion (c : Chip) (k : Nat) (x : FdRegion) : Chip := c.modFab (fun f => { f with region := tabSet f.region k x })
/-- A connection. -/
def Chip.connAt (c : Chip) (k : Nat) : Conn := tabGet Conn.fresh c.fab.conn k
/-- A connection set. -/
def Chip.setConn (c : Chip) (k : Nat) (x : Conn) : Chip := c.modFab (fun f => { f with conn := tabSet f.conn k x })

/-- One millisecond of the dispatch complex counter, and the fabric die's cycles. -/
def Chip.fabric (c : Chip) : Nat := c.count srcFabric

/-- A message posted on a connection: its packets follow in order (13 R340). -/
def Chip.haulPost (c : Chip) (k : Nat) (m : HMsg) : Chip :=
  let x := c.connAt k
  c.setConn k { x with tx := { x.tx with msgs := x.tx.msgs ++ [m] } }

/-- Something of an owner is still to be sent or settled on a connection. -/
def HSend.holds (s : HSend) (o : HOwner) : Bool := s.msgs.any (fun m => m.owner == o) || s.tx.any (fun p => p.owner == o)

/-- A connection that carries the mirror writes of a context. -/
def Chip.mirrorConn (c : Chip) (k ctx : Nat) : Bool := (c.connAt k).st == .open_ && (c.connAt k).ctx == ctx

end Sys2Proof.Machine
end

