-- ==== Sys2Proof/Machine/Snapshot.lean ====
section
/-!
DEFINITION. Partner pairing and snapshots as the ledge engines and the fabric drive them (17 R453, R456, R457).
-/

namespace Sys2Proof.Machine

/-! Pairing (R453) -/

/-- A setup field of pairing and snapshots (21 Table 21.9). -/
def Chip.snapCtx (c : Chip) : Nat := c.rf 0x600008 15 8

/-- The entry table: each entry's virtual address and PARTNER bit; one that cannot be read is `none`. -/
def Chip.snapEntries (c : Chip) : List (Option (Nat × Bool)) :=
  (List.range (c.rf 0x600008 22 16)).map (fun e =>
    let s := c.spanLines [] c.snapCtx (c.rf 0x600020 63 4 * 16 + 16 * e) 16 false
    match s.fault with
    | some _ => none
    | none => let b := (c.mem.gather s).1; some (fieldLE b 0 8, bit (fieldLE b 8 1) 0))

/-- PARTNER_STALE is set, and logged (R453). -/
def Chip.setStale (c : Chip) : Chip :=
  ((c.modRes (fun r => { r with stale := true, mirrored := [] })).logEv .partnerStale srcDispatch []).setGevent 4

/-- A connection of a standing pairing has entered LOST. -/
def Chip.pairLost (c : Chip) (k : Nat) : Chip :=
  if (c.res.pair = 1 ∨ c.res.pair = 2) ∧ c.rf 0x600000 31 16 = k then (c.modRes (fun r => { r with pair := 3 })).setStale else c

/-- A mirrored OPTSTEP on a connection has completed with a status for a version block of a context (R453). -/
def Chip.pairStep (c : Chip) (k ctx version status : Nat) : Chip :=
  if (c.res.pair ≠ 1 ∧ c.res.pair ≠ 2) ∨ c.rf 0x600000 31 16 ≠ k then c
  else if status = 9 then c.setStale
  else if status = 0 ∧ c.res.stale ∧ ctx = c.snapCtx then
    let d := c.modRes (fun r => { r with mirrored := setIns r.mirrored version })
    let all := c.snapEntries.all (fun e => match e with | some (va, p) => p || d.res.mirrored.contains va | none => false)
    if all then d.modRes (fun r => { r with stale := false, mirrored := [] }) else d
  else c

/-! Snapshots (R456) -/

/-- The latest snapshot set. -/
def Chip.setSnap (c : Chip) (s : Snap) : Chip := c.modRes (fun r => { r with snap := some s })

/-- The holds of a snapshot released (R457). -/
def Chip.dropHolds (c : Chip) (s : Snap) : Chip :=
  (s.holds.foldl (fun (d : Chip) h => d.holdDown c.snapCtx h.2) c).setSnap { s with holds := [], phase := 3 }

/-- Holds taken in table order from an entry on, in the way of a gather (11 R310), with the version found: a version block that is
torn takes none; the answer says whether a block with BUSY set, or with no hold left, stopped it. -/
def Chip.takeHolds (c : Chip) (s : Snap) : List (Nat × Option (Nat × Bool)) → Chip × Snap × Bool
  | [] => (c, s, false)
  | (e, ent) :: rest =>
    match ent with
    | none => c.takeHolds s rest
    | some (va, partner) =>
      if partner || s.holds.any (fun h => h.1 == e) then c.takeHolds s rest
      else match c.versionAt [] c.snapCtx va with
        | .error _ => c.takeHolds s rest
        | .ok (pa, v, h) =>
          if bit v 63 ∨ h = 2 ^ 32 - 1 then (c.meet (rangeLines pa 12) false, s, true)
          else
            let x := { s with found := tabSet s.found e v, counter := c.count srcPower }
            if bit v 62 then (c.meet (rangeLines pa 12) false).takeHolds x rest
            else (c.storeHint (pa + 8) (leBytes 4 (h + 1)) false 0).takeHolds { x with holds := x.holds ++ [(e, va)] } rest

/-- The snapshot record (Table 17.5). -/
def Chip.snapRecord (c : Chip) (s : Snap) (mixed : Bool) : List Byte :=
  leBytes 4 s.id ++ leBytes 2 c.res.epoch ++ leBytes 1 s.holds.length ++ leBytes 1 (s.trig + 4 * b2n mixed) ++ leBytes 1 c.res.risk ++
    zeros 7 ++ leBytes 8 s.counter ++ zeros 8 ++ (List.range (c.rf 0x600008 22 16)).flatMap (fun e => leBytes 8 (tabGet 0 s.found e))

/-- The holds stand: the record is written uncached, and SNAP_SO is signalled (R456 steps 3 and 4). -/
def Chip.snapHeld (c : Chip) (s : Snap) (mixed : Bool) : Chip :=
  let bs := c.snapRecord s mixed
  let w := c.spanLines [] c.snapCtx (c.rf 0x600028 63 5 * 32) bs.length true
  let d := if w.fault.isSome then c.used [] srcDispatch w else (c.scatter w bs false 0).setGevent 3
  (d.setSnap { s with phase := 2, recordAt := c.count srcPower }).soApply c.snapCtx (c.rf 0x600008 47 32) 1 false

/-- One attempt to hold every entry (R456 steps 1 and 2): it waits for a running step; counts that differ release every hold for
1 ms, and after 64 attempts the holds are kept as MIXED. -/
def Chip.snapTry (c : Chip) : Chip :=
  match c.res.snap with
  | some s =>
    if s.phase ≠ 0 then c
    else
      let r := c.takeHolds s (c.snapEntries.zipIdx.map (fun p => (p.2, p.1)))
      let d := r.1
      let x := r.2.1
      if r.2.2 then d.setSnap x
      else
        let counts := x.holds.map (fun h => tabGet 0 x.found h.1 % 2 ^ 62)
        let same := counts.all (fun n => n == counts.headD 0)
        if same then d.snapHeld x false
        else if 63 ≤ x.tries then d.snapHeld { x with tries := x.tries + 1 } true
        else (d.dropHolds x).setSnap { x with holds := [], found := [], phase := 1, tries := x.tries + 1, retryAt := c.dispatch + msDispatch }
  | none => c

/-- A snapshot falls due (R456): it receives the next SNAP_ID and begins to take its holds. -/
def Chip.snapDue (c : Chip) (trig : Nat) : Chip :=
  let now := c.count srcPower
  let id := (c.res.lastId + 1) % 2 ^ 32
  ((c.modRes (fun r => { r with lastId := id, lastDue := some now })).setSnap
    { id := id, out := true, due := now, trig := trig, phase := 0, holds := [], found := [], tries := 0, retryAt := 0, recordAt := 0
      counter := now }).snapTry

/-- One second of the power controller counter. -/
def secPower : Nat := 100000000

/-- A snapshot may become due: SNAP_MODE is on, none is outstanding, and SNAP_MIN has passed since the last due (R456). -/
def Chip.snapMay (c : Chip) (now : Nat) : Bool :=
  c.rf 0x600008 1 0 != 0 && (match c.res.snap with | some s => !s.out | none => true) &&
    (match c.res.lastDue with | some d => decide (d + c.rf 0x600018 31 0 * secPower ≤ now) | none => true)

end Sys2Proof.Machine
end

