-- ==== Sys2Proof/Machine/Ledge.lean ====
section
/-!
DEFINITION. Ledge queues and engines (10): notification and fetching of commands, the checks of their format, each
operation, benches and the optimiser formulas (11 R303 to R309), mirror writes, completion, faults and cancellation.
-/

namespace Sys2Proof.Machine

/-! Queues (R252 to R257) -/

/-- A ledge queue. -/
def Chip.lqAt (c : Chip) (q : Nat) : Lq := tabGet Lq.fresh c.ledge.lq q
/-- A ledge queue set. -/
def Chip.setLq (c : Chip) (q : Nat) (x : Lq) : Chip := c.modLedge (fun l => { l with lq := tabSet l.lq q x })

/-- The island of a queue's front-end. -/
def lqSrc (q : Nat) : Nat := srcNoc (q / 64)
/-- The TLB of a queue's front-end. -/
def lqTlb (q : Nat) : List Nat := ledgeTlb (q / 64)

/-- The commands of a queue in execution. -/
def Chip.lqCmds (c : Chip) (q : Nat) : List LCmd := c.ledge.cmds.filter (fun k => k.lq == q)

/-- Commands submitted and not fetched (R253). -/
def Chip.lqPending (c : Chip) (q : Nat) : Nat := sub32 (c.soValue (c.lqAt q).so) (c.lqAt q).consumed

/-- The slot of a queue's next command as the front-end reads it: its bytes when the SEQ matches, else the cause of the
mismatch (0 SEQ, 1 poisoned, 2 not translated, 3 unbacked), with its virtual address and the range's translation
(R253, R254). -/
def Chip.lqSlot (c : Chip) (q : Nat) : Except Nat (List Byte) × Nat × Span :=
  let x := c.lqAt q
  let va := x.base + 64 * (x.consumed % 2 ^ x.log2)
  let s := c.spanLines (lqTlb q) x.ctx va 64 false
  let g := c.mem.gather s
  match s.fault with
  | some f => (.error (if f.refused.isSome then 3 else 2), va, s)
  | none =>
    if g.2.isSome then (.error 1, va, s)
    else if fieldLE g.1 0 2 = x.consumed % 65536 then (.ok g.1, va, s) else (.error 0, va, s)

/-- The queue may fetch a command. -/
def Chip.lqMay (c : Chip) (q : Nat) : Bool :=
  let x := c.lqAt q
  x.bound && !x.overrun && !x.ahead && x.unbind.isNone && decide (0 < c.lqPending q) && decide ((c.lqCmds q).length < 8)

/-- Commands fetched while they are pending, at most 8 in execution (R253 to R257). -/
def Chip.lqFetch (c : Chip) (q : Nat) : Nat → Chip
  | 0 => c
  | fuel + 1 =>
    if !c.lqMay q then c
    else
      let x := c.lqAt q
      if 2 ^ x.log2 < c.lqPending q then
        (c.setLq q { x with overrun := true }).logEv .ledgeOverrun (lqSrc q) [q]
      else
        let r := c.lqSlot q
        let d := c.used (lqTlb q) (lqSrc q) r.2.2
        if r.2.2.lines.any (fun ln => !c.ready ln false) then d
        else match r.1 with
        | .ok bs =>
          let k : LCmd := { key := d.ledge.next, lq := q, ctx := x.ctx, bytes := bs, ran := false, stats := [], flags := 0
                            count := 0, run := none, next := 0, got := [] }
          Chip.lqFetch ((d.setLq q { x with consumed := (x.consumed + 1) % 2 ^ 32, miss := none }).modLedge (fun l =>
            { l with cmds := l.cmds ++ [k], next := l.next + 1 })) q fuel
        | .error cause => if x.miss.isSome then d else d.setLq q { x with miss := some (d.count (lqSrc q), cause) }

/-- LEDGE_NOTIFY (R253, R255): the object of a queue has been updated, and pending commands are fetched. -/
def Chip.doLedgeNotify (c : Chip) (q : Nat) : Chip :=
  if (c.lqAt q).bound then (c.setLq q { c.lqAt q with ahead := false }).lqFetch q 9 else c

/-- LEDGE_AHEAD (R254): the mismatch has persisted for 4,000 cycles of the front-end's island; it is logged, and the queue
waits for the next update. -/
def Chip.doLedgeAhead (c : Chip) (q : Nat) : Chip :=
  match (c.lqAt q).miss with
  | some (since, cause) =>
    let d := (c.passTo (lqSrc q) (since + 4000)).lqFetch q 9
    let x := d.lqAt q
    if x.miss = some (since, cause) then
      let r := d.lqSlot q
      let now := match r.1 with | .error k => k | .ok _ => cause
      (d.setLq q { x with miss := none, ahead := true }).logEv .ledgeAhead (lqSrc q)
        ([q, x.consumed % 65536] ++ (if now = 0 then [] else [now, r.2.1]))
    else d
  | none => c

/-! The format of commands (R258, R259) -/

/-- The opcode. -/
def LCmd.op (k : LCmd) : Nat := fieldLE k.bytes 2 1
/-- The flags of the header. -/
def LCmd.hflags (k : LCmd) : Nat := fieldLE k.bytes 3 1
/-- The hint for result lines. -/
def LCmd.hint (k : LCmd) : Nat := fieldLE k.bytes 4 2
/-- An operand field. -/
def LCmd.f (k : LCmd) (off n : Nat) : Nat := fieldLE k.bytes off n

/-- The header's rules, as the offset of each field with whether it is broken. -/
def LCmd.headBad (k : LCmd) : List (Nat × Bool) :=
  let fl := k.hflags
  let sig := bit fl 1
  [(2, decide (7 < k.op)), (3, bits fl 7 4 != 0 || (bit fl 3 && k.op != 2)),
   (6, if sig then decide (16384 ≤ k.f 6 2) else k.f 6 2 != 0), (8, if sig then k.f 8 4 == 0 else k.f 8 4 != 0),
   (14, k.f 14 2 != 0), (16, if bit fl 2 then k.f 16 8 % 32 != 0 else k.f 16 8 != 0)]

/-- A length in bytes: a multiple of 64, 64 or more. -/
def lenBad (n : Nat) : Bool := n % 64 != 0 || n == 0

/-- The rules of an opcode's operands (Table 10.3). -/
def LCmd.opBad (k : LCmd) : List (Nat × Bool) :=
  match k.op with
  | 0 => [(24, !zeroAt k.bytes 24 40)]
  | 1 => [(24, k.f 24 8 % 64 != 0), (32, lenBad (k.f 32 8)), (44, !zeroAt k.bytes 44 20)]
  | 2 => [(24, k.f 24 8 % 64 != 0), (32, k.f 32 8 % 64 != 0), (40, lenBad (k.f 40 8)),
          (48, decide (4096 ≤ k.f 48 2)), (50, !zeroAt k.bytes 50 14)]
  | 3 => [(24, k.f 24 8 % 64 != 0), (32, lenBad (k.f 32 8)), (44, decide (4 < k.f 44 1)), (45, !zeroAt k.bytes 45 19)]
  | 4 => [(24, k.f 24 8 % 16 != 0), (32, k.f 32 8 % 256 != 0), (40, lenBad (k.f 40 8)),
          (48, k.f 48 1 == 0 || decide (8 < k.f 48 1)), (49, decide (4 < k.f 49 1 % 8) || bits (k.f 49 1) 7 4 != 0),
          (50, !zeroAt k.bytes 50 14)]
  | 5 => [(24, k.f 24 8 % 64 != 0), (32, lenBad (k.f 32 8)), (40, k.f 40 8 % 8 != 0), (48, decide (1 < k.f 48 1)),
          (49, !zeroAt k.bytes 49 15)]
  | 6 => [(24, k.f 24 8 % 128 != 0), (32, k.f 32 8 % 64 != 0), (48, k.f 48 8 == 0), (56, !zeroAt k.bytes 56 8)]
  | 7 => [(24, k.f 24 8 % 64 != 0), (32, lenBad (k.f 32 8)), (40, k.f 40 8 % 64 != 0 || k.f 40 8 == 0),
          (48, decide (3 < k.f 48 1)), (49, !zeroAt k.bytes 49 15)]
  | _ => []

/-- The first offending field of a list. -/
def firstBad (l : List (Nat × Bool)) : Option Nat := (l.find? (·.2)).map (·.1)

/-- The statuses that refuse a command before it runs: MALFORMED and SO_DENIED (R258, R273). -/
def Chip.lcmdRefusals (c : Chip) (k : LCmd) : List (Nat × Nat × Nat) :=
  (match firstBad (k.headBad ++ k.opBad) with | some o => [(1, o, 0)] | none => []) ++
    (if bit k.hflags 1 && decide (k.f 6 2 < 16384) && !c.soAllowed k.ctx (k.f 6 2) then [(2, k.f 6 2, 0)] else [])

/-! Running a command -/

/-- A command changed. -/
def Chip.setLcmd (c : Chip) (k : LCmd) : Chip :=
  c.modLedge (fun l => { l with cmds := l.cmds.map (fun x => if x.key = k.key then k else x) })

/-- A command has issued every line operation. -/
def LCmd.issued (k : LCmd) : Bool :=
  k.ran && (match k.run with | some r => decide (r.last ≤ r.next) && (!r.begun || r.ended) | none => true)

/-- The command of a queue that runs next: every earlier one has issued, and with FENCE every earlier one is complete
(R257). -/
def Chip.lqTurn (c : Chip) (q : Nat) : Option LCmd :=
  let l := c.lqCmds q
  match l.find? (fun k => !k.issued) with
  | some k => if k.ran || (bit k.hflags 0 && (l.headD k).key != k.key) then none else some k
  | none => none

/-- A queue of a front-end may issue (R257): the queues take turns, each of up to WEIGHT × 64 line operations; a queue whose turn has no room
for `cost` more begins another when no queue with commands still waits for its turn of the round. The package with the turn, and what the
turn has left. -/
def Chip.takeTurn (c : Chip) (q cost : Nat) : Option (Chip × Nat) :=
  let h := q / 64
  let t := tabGet LedgeTurn.fresh c.ledge.turns h
  if t.queue = q ∧ cost ≤ t.left then some (c, t.left)
  else
    let others := (c.ledge.cmds.filter (fun k => k.lq / 64 == h && k.lq != q && !k.issued)).map (·.lq)
    if t.done.contains q && others.any (fun x => !t.done.contains x) then none
    else
      let n := (c.lqAt q).weight * 64
      let x : LedgeTurn := { queue := q, left := n, done := if t.done.contains q then [q] else setIns t.done q }
      some (c.modLedge (fun l => { l with turns := tabSet l.turns h x }), n)

/-- Line operations issued in a queue's turn. -/
def Chip.spent (c : Chip) (q n : Nat) : Chip :=
  c.modLedge (fun l =>
    let t := tabGet LedgeTurn.fresh l.turns (q / 64)
    { l with turns := tabSet l.turns (q / 64) { t with left := t.left - n } })

/-- A status added to a command. -/
def LCmd.stat (k : LCmd) (code detail count : Nat) : LCmd := { k with stats := k.stats ++ [(code, detail, count)] }

/-- A status whose count rises by one, or that is added with its detail. -/
def LCmd.tally (k : LCmd) (code detail : Nat) : LCmd :=
  if k.stats.any (fun s => s.1 == code) then
    { k with stats := k.stats.map (fun s => if s.1 = code then (s.1, s.2.1, s.2.2 + 1) else s) }
  else k.stat code detail 1

/-- Flags set in the record. -/
def LCmd.flag (k : LCmd) (f : Nat) : LCmd := { k with flags := k.flags ||| f }

/-- A command's walk over its units (lines of a range): `step` carries one unit out from its number, a fault stops the command (R270), and a
unit whose lines their homes cannot serve now is tried again in the command's next turn (R282, 09 R225). -/
def ledgeWalk (step : Chip → LCmd → Nat → Except (Chip × LCmd × VFault) (Chip × LCmd)) : Nat → Nat → Chip → LCmd → Chip × LCmd
  | 0, _, c, k => (c, k)
  | n + 1, i, c, k =>
    match step c k i with
    | .ok (d, l) => ledgeWalk step n (i + 1) d { l with next := i + 1 }
    | .error (d, l, f) => if f.kind = .held then (c, k) else (d, { l.stat f.kind.code f.detail l.count with ran := true })

/-- A command of an opcode is carried out over `units` units of `cost` line operations each, as many as the queue's turn allows; `fin` ends
it after the last. It is refused before the first. -/
def Chip.lqLines (c : Chip) (q op : Nat) (units cost : LCmd → Nat)
    (step : LCmd → Chip → LCmd → Nat → Except (Chip × LCmd × VFault) (Chip × LCmd)) (fin : Chip → LCmd → Chip × LCmd) : Chip :=
  match c.lqTurn q with
  | none => c
  | some k =>
    if k.op ≠ op then c
    else
      let bad := c.lcmdRefusals k
      if !bad.isEmpty then c.setLcmd { k with ran := true, stats := bad }
      else match c.takeTurn q (cost k) with
        | none => c
        | some (d, left) =>
          let r := ledgeWalk (step k) (min (units k - k.next) (left / cost k)) k.next d k
          let e := if !r.2.ran && decide (units k ≤ r.2.next) then fin r.1 r.2 else r
          (e.1.spent q ((r.2.next - k.next) * cost k)).setLcmd e.2

/-- A command that ends with its last unit. -/
def LCmd.done (c : Chip) (k : LCmd) : Chip × LCmd := (c, { k with ran := true })

/-- A command that is carried out in one piece: refused, or done by `f`, which answers the package and the command after it; one that meets
a line that its home cannot serve now waits (R282). -/
def Chip.lqRun (c : Chip) (q op : Nat) (f : Chip → LCmd → Chip × LCmd) : Chip :=
  match c.lqTurn q with
  | some k =>
    if k.op ≠ op then c
    else
      let bad := c.lcmdRefusals k
      if bad.isEmpty then
        let r := f c k
        if r.2.stats.any (fun s => s.1 == VKind.held.code) then c else r.1.setLcmd { r.2 with ran := true }
      else c.setLcmd { k with ran := true, stats := bad }
  | none => c

/-- The physical line of a virtual line, with its translation cached; a refusal is logged, and a line that its home cannot serve now holds
the operation. -/
def Chip.ledgeLineAt (c : Chip) (k : LCmd) (va : Nat) (wr : Bool) : Except (Chip × VFault) (Chip × Nat) :=
  let u := lqTlb k.lq
  match c.place u k.ctx (va % 2 ^ 64) wr with
  | .ok (pa, e) =>
    if c.ready (pa / 64) (wr && (c.hintUsable k.hint).isSome) then .ok (c.tlbFill u [e], pa)
    else .error (c, { kind := .held, detail := 0, refused := none })
  | .error f => .error (c.used u (lqSrc k.lq) { pieces := [], ents := [], fault := some f }, f)

/-- The same as a step of a command's walk. -/
def Chip.ledgeStep (c : Chip) (k : LCmd) (va : Nat) (wr : Bool) : Except (Chip × LCmd × VFault) (Chip × Nat) :=
  match c.ledgeLineAt k va wr with
  | .ok x => .ok x
  | .error x => .error (x.1, k, x.2)

/-- The engine of a line is fenced: its line operations are refused (R286). -/
def Chip.fencedAt (c : Chip) (pa : Nat) : Bool := c.ledge.fenced.contains (c.mem.engineOf pa)

/-- A line that a command applied, with poison counted (R261). -/
def LCmd.applied (k : LCmd) (va : Nat) (bad : Bool) : LCmd :=
  let l := { k with count := k.count + 1 }
  if bad then l.tally 5 va else l

/-- LEDGE_NOP (R269). -/
def Chip.doLedgeNop (c : Chip) (q : Nat) : Chip := c.lqRun q 0 (fun d k => (d, k))

/-- A unit of LEDGE_FILL: a line written whole with the pattern, or refused by a fenced engine. -/
def ledgeFillStep (k : LCmd) (e : Chip) (l : LCmd) (i : Nat) : Except (Chip × LCmd × VFault) (Chip × LCmd) :=
  let va := k.f 24 8 + 64 * i
  match e.ledgeStep l va true with
  | .error x => .error x
  | .ok (g, pa) =>
    if g.fencedAt pa then .ok (g, l.tally 8 va)
    else .ok (g.storeHint pa (List.replicate 16 (leBytes 4 (k.f 40 4))).flatten false k.hint, l.applied va false)

/-- LEDGE_FILL (R260): each line written whole with the pattern. -/
def Chip.doLedgeFill (c : Chip) (q : Nat) : Chip :=
  c.lqLines q 1 (fun k => k.f 32 8 / 64) (fun _ => 1) ledgeFillStep LCmd.done

/-- A unit of ACCUM: a line of SRC added into its line of DST, as a contribution to a bucket when BUCKET is set (11 R293, R294). -/
def accumStep (k : LCmd) (e : Chip) (l : LCmd) (i : Nat) : Except (Chip × LCmd × VFault) (Chip × LCmd) :=
  let dst := k.f 24 8 + 64 * i
  let src := k.f 32 8 + 64 * i
  match e.ledgeStep l dst true with
  | .error x => .error x
  | .ok (e1, pd) => match e1.ledgeStep l src false with
    | .error x => .error x
    | .ok (e2, ps) =>
      let s := e2.mem.line (ps / 64)
      let done := fun (g : Chip) =>
        let old := g.mem.line (pd / 64)
        let sum := accLine old.1 0xFFFF (lineElems s.1)
        (sum.1, old.2 || s.2, (l.applied dst (old.2 || s.2)).flag (8 * b2n sum.2.1 + 16 * b2n sum.2.2))
      if bit k.hflags 3 then
        let r := e2.contribute (k.f 48 2) pd 0xFFFF (lineElems s.1) s.2 (some k.ctx) (lqSrc k.lq) k.hint
        match r.2 with
        | 0 => .ok (r.1, (done (e2.fillSome (k.f 48 2) pd)).2.2)
        | 1 => .ok (r.1, l.tally 7 (k.f 48 2))
        | 2 => .ok (r.1, l.tally 8 dst)
        | _ => .error (e2, l, { kind := .held, detail := 0, refused := none })
      else if e2.fencedAt pd then .ok (e2, l.tally 8 dst)
      else .ok (e2.storeHint pd (done e2).1 (done e2).2.1 k.hint, (done e2).2.2)

/-- ACCUM (R261): SRC added into DST. -/
def Chip.doAccum (c : Chip) (q : Nat) : Chip := c.lqLines q 2 (fun k => k.f 40 8 / 64) (fun _ => 2) accumStep LCmd.done

/-- The elements of a line multiplied by S (R262): the new line, and whether a result is infinite from finite operands or a
NaN arose. -/
def scaleLine (l : List Byte) (s rm : Nat) : List Byte × Bool × Bool :=
  (List.range 16).foldl (fun (acc : List Byte × Bool × Bool) i =>
    let r := mulF fp32F rm (fieldLE acc.1 (4 * i) 4) s
    (lineElem acc.1 i (fun _ => r.bits), acc.2.1 || (r.ovf && r.bits % 2 ^ 31 == 0x7F800000), acc.2.2 || r.invalid)) (l, false, false)

/-- A unit of SCALE. -/
def scaleStep (k : LCmd) (e : Chip) (l : LCmd) (i : Nat) : Except (Chip × LCmd × VFault) (Chip × LCmd) :=
  let va := k.f 24 8 + 64 * i
  match e.ledgeStep l va true with
  | .error x => .error x
  | .ok (g, pa) =>
    if g.fencedAt pa then .ok (g, l.tally 8 va)
    else
      let old := g.mem.line (pa / 64)
      let r := scaleLine old.1 (k.f 40 4) (k.f 44 1)
      .ok (g.storeHint pa r.1 old.2 k.hint, (l.applied va old.2).flag (8 * b2n r.2.1 + 16 * b2n r.2.2))

/-- SCALE (R262). -/
def Chip.doScale (c : Chip) (q : Nat) : Chip := c.lqLines q 3 (fun k => k.f 32 8 / 64) (fun _ => 1) scaleStep LCmd.done

/-- Bits packed into bytes from bit 0 (02 R38). -/
def packElems (nb : Nat) (xs : List Nat) : List Byte :=
  leBytes ((nb * xs.length + 7) / 8) (xs.foldr (fun x a => x % 2 ^ nb + a * 2 ^ nb) 0)

/-- FP32 elements converted to a format: the packed bytes, and the SAT and NAN_LOST flags (R263). -/
def convertElems (fmt rm : Nat) (sat : Bool) (words : List Nat) (xs : List Nat) : List Byte × Bool × Bool :=
  match fmtOfCode fmt with
  | some f =>
    let rs := xs.zipIdx.map (fun p => roundV f rm sat (words.getD p.2 0) (decodeF fp32F p.1))
    (packElems (fmtBits fmt) (rs.map (·.bits)), rs.any (·.sat), rs.any (·.nanLost))
  | none => ([], false, false)

/-- The bytes of a CONVERT's result. -/
def LCmd.cvtBytes (k : LCmd) : Nat := k.f 40 8 * fmtBits (k.f 48 1) / 8

/-- A unit of CONVERT: the line of DST with number `i`, from the elements of SRC that it takes, as far as SRC translates; whole or in part, one
write. It is poisoned where a line of SRC that it takes elements from is poisoned. -/
def convertStep (k : LCmd) (e : Chip) (l : LCmd) (i : Nat) : Except (Chip × LCmd × VFault) (Chip × LCmd) :=
  let nb := fmtBits (k.f 48 1)
  let ctl := k.f 49 1
  let lo := 64 * i - k.f 24 8 % 64
  let hi := min k.cvtBytes (64 * (i + 1) - k.f 24 8 % 64)
  let e0 := lo * 8 / nb
  let e1 := (hi * 8 + nb - 1) / nb
  match e.ledgeStep l (k.f 24 8 + lo) true with
  | .error x => .error x
  | .ok (g, pd) =>
    let sp := g.spanLines (lqTlb k.lq) k.ctx (k.f 32 8 + 4 * e0) (4 * (e1 - e0)) false
    let x := g.used (lqTlb k.lq) (lqSrc k.lq) sp
    let have_ := (sp.pieces.map (fun p => p.2.2)).sum / 4
    let top := if sp.fault.isSome then min hi ((e0 + have_) * nb / 8) else hi
    if sp.lines.any (fun ln => !g.ready ln false) then .error (g, l, { kind := .held, detail := 0, refused := none })
    else if top ≤ lo then
      match sp.fault with
      | some f => .error (x, l, f)
      | none => .ok (x, l)
    else if g.fencedAt pd then
      match sp.fault with
      | some f => .error (x, l.tally 8 (k.f 24 8 + lo), f)
      | none => .ok (x, l.tally 8 (k.f 24 8 + lo))
    else
      let src := (g.mem.gather sp).1
      let r := convertElems (k.f 48 1) (ctl % 8) (bit ctl 3) [] ((List.range have_).map (fun j => fieldLE src (4 * j) 4))
      let bs := leBytes (top - lo) (leVal r.1 / 2 ^ (8 * lo - nb * e0))
      let bad := sp.pieces.any (fun p => g.mem.poisonedN p.2.1 p.2.2)
      let y := x.storeHint pd bs bad k.hint
      let m := (l.applied (k.f 24 8 + lo) bad).flag (b2n r.2.1 + 2 * b2n r.2.2)
      match sp.fault with
      | some f => .error (y, m, f)
      | none => .ok (y, m)

/-- CONVERT (R263): SRC narrowed into DST, a line of DST at a time (assumption 58). -/
def Chip.doConvert (c : Chip) (q : Nat) : Chip :=
  c.lqLines q 4 (fun k => (k.f 24 8 % 64 + k.cvtBytes + 63) / 64) (fun k => 1 + (16 * 32 / fmtBits (k.f 48 1) + 15) / 16) convertStep LCmd.done

/-- A unit of SUMSQ: a line recalled and read by its engine, or refused by a fenced one. -/
def sumsqStep (k : LCmd) (e : Chip) (l : LCmd) (i : Nat) : Except (Chip × LCmd × VFault) (Chip × LCmd) :=
  let va := k.f 24 8 + 64 * i
  match e.ledgeStep l va false with
  | .error x => .error x
  | .ok (g, pa) =>
    if g.fencedAt pa then .ok (g, l.tally 8 va)
    else
      let s := g.mem.line (pa / 64)
      .ok (g.modMem (fun m => m.recall [pa]), { l.applied va s.2 with got := l.got ++ [(pa, lineElems s.1)] })

/-- The end of a SUMSQ that has read every line: RESULT is written (R264). -/
def sumsqEnd (c : Chip) (k : LCmd) : Chip × LCmd :=
  let bad := k.stats.any (fun s => s.1 == 5)
  if k.got.length < k.f 32 8 / 64 then (c, { k with ran := true })
  else
    let sum := c.mem.sumSquares k.got
    let wide := k.f 48 1 == 1
    let narrow := fp32Of64 sum
    let val := if wide then (if bad then 0x7FF8000000000000 else sum) else (if bad then nan32 else narrow.bits)
    let k1 := if !wide && !bad && narrow.ovf then k.flag 8 else k
    match c.ledgeLineAt k (k.f 40 8) true with
    | .ok (x, pa) => (x.storeHint pa (leBytes (if wide then 8 else 4) val) false k.hint, { k1 with ran := true, got := [] })
    | .error (x, f) => if f.kind = .held then (c, k) else (x, { k1.stat f.kind.code f.detail k.count with ran := true, got := [] })

/-- SUMSQ (R264): the deterministic sum of squares of a range, written to RESULT when every line has been read. -/
def Chip.doSumsq (c : Chip) (q : Nat) : Chip := c.lqLines q 5 (fun k => k.f 32 8 / 64) (fun _ => 1) sumsqStep sumsqEnd

/-! Optimiser steps (11 R303 to R309) -/

/-- A descriptor of a command read whole: a fault, or the first poisoned address, or its bytes. -/
def Chip.ledgeRead (c : Chip) (k : LCmd) (va n : Nat) : Chip × Except (Nat × Nat × Nat) (List Byte) :=
  let s := c.spanLines (lqTlb k.lq) k.ctx va n false
  let d := c.used (lqTlb k.lq) (lqSrc k.lq) s
  match s.fault with
  | some f => (d, .error (f.kind.code, f.detail, 0))
  | none =>
    let g := c.mem.gather s
    if s.lines.any (fun ln => !c.ready ln false) then (c, .error (VKind.held.code, 0, 0))
    else match g.2 with
      | some a => (d, .error (5, a / 64 * 64, 0))
      | none => (d, .ok g.1)

/-- The bytes of an element of the low-precision copy (11 Table 11.4 LOW_FMT). -/
def lowSize (fmt : Nat) : Nat := if fmt ≤ 2 then 2 else 1

/-- The format code of 03 Table 3.6 for LOW_FMT: BF16, FP16, E4M3, E5M2. -/
def lowCode (fmt : Nat) : Nat := fmt

/-- The rules of the optimiser descriptor (11 Table 11.5). -/
def optBad (o : List Byte) (first count : Nat) : List (Nat × Bool) :=
  let f := fieldLE o
  let algo := f 52 1
  let clip := f 55 1
  let place := fun a => !canonicalVa a || a % 256 != 0
  [(0, place (f 0 8)), (8, place (f 8 8)), (16, if algo = 0 then place (f 16 8) else f 16 8 != 0), (24, place (f 24 8)),
   (32, f 32 8 % (64 * lowSize (f 53 1)) != 0), (40, f 40 8 % 16 != 0),
   (48, f 48 4 == 0), (52, decide (1 < algo)),
   (53, if f 32 8 = 0 then f 53 1 != 0 else f 53 1 == 0 || decide (4 < f 53 1)),
   (54, decide (5 < f 54 1 % 8) || bits (f 54 1) 7 4 != 0), (55, decide (2 < clip)),
   (64, algo == 1 && f 64 4 != 0), (68, algo == 1 && f 68 4 != 0), (80, algo == 1 && f 80 4 != 0),
   (84, algo == 1 && f 84 4 != 0), (88, clip == 0 && f 88 4 != 0), (92, clip != 2 && f 92 4 != 0),
   (96, if clip = 2 then f 96 8 % 4 != 0 else f 96 8 != 0),
   (104, if clip = 2 then f 104 4 == 0 || decide (1048576 < f 104 4) else f 104 4 != 0),
   (120, !zeroAt o 120 8), (40, f 40 8 != 0 && (first != 0 || count != f 48 4))]

/-- The rules of the mirror descriptor (10 Table 10.8). -/
def mirBad (m : List Byte) : List (Nat × Bool) :=
  [(0, decide (16384 ≤ fieldLE m 0 4)), (8, decide (15 < fieldLE m 8 1)), (9, !zeroAt m 9 7), (48, fieldLE m 48 8 % 8 != 0),
   (56, !zeroAt m 56 8)]

/-- The flags of operations carried out so far (11 R306). -/
structure Acc32 where
  ovf : Bool
  inv : Bool

/-- The flags of an operation joined. -/
def Acc32.join (a : Acc32) (r : ArithOut) : Acc32 := { ovf := a.ovf || r.ovf, inv := a.inv || r.invalid }

/-- The clip from a norm array (11 R303 CLIP_MODE 2) and its flags; a NaN in the array sets INVALID too. -/
def clipOf (norms : List Nat) (maxNorm eps : Nat) : Nat × Acc32 :=
  let z : Acc32 := { ovf := false, inv := norms.any (fun x => (decodeF fp32F x).isNan) }
  let n2 := norms.foldl (fun (p : Nat × Acc32) x =>
    let r := addF fp64F 0 p.1 (fp64Of32 x)
    (r.bits, { p.2 with inv := p.2.inv || r.invalid })) (0, z)
  let r := sqrtF fp64F n2.1
  let den := addF fp64F 0 r.bits (fp64Of32 eps)
  let q := divF fp64F (fp64Of32 maxNorm) den.bits
  let one := fp64Of32 0x3F800000
  let lo := if ltV (decodeF fp64F one) (decodeF fp64F q.bits) then one else q.bits
  let f := fp32Of64 lo
  (f.bits, { ovf := f.ovf, inv := n2.2.inv || r.invalid || den.invalid || q.invalid })

/-- One, in FP32. -/
def one32 : Nat := 0x3F800000

/-- The operations that form a command's constants (11 R305): s, a1, a2, LR × WD and d. -/
def optConsts (o : List Byte) (clip : Nat) : List ArithOut :=
  let f := fieldLE o
  let p := mulF fp32F 0 (f 56 4) (f 72 4)
  [mulF fp32F 0 (f 76 4) clip, subF fp32F 0 one32 (f 60 4), subF fp32F 0 one32 (f 64 4), p, subF fp32F 0 one32 p.bits]

/-- The constants of a command (11 R305) from its descriptor and clip. -/
def OptRun.start (o m : List Byte) (clip first count : Nat) : OptRun :=
  let k := (optConsts o clip).map (·.bits)
  { desc := o, mir := m, s := k.getD 0 0, a1 := k.getD 1 0, a2 := k.getD 2 0, d := k.getD 4 0
    next := first, last := first + count, begun := false, ended := false, torn := false, version := 0, open_ := []
    acked := [], failed := false, verSent := false, stopped := false }

/-- OPTSTEP (10 R266, R268, R284, 11 R303 to R305): the descriptors are read and checked and the clip and constants formed;
BENCH_OP then updates its benches one by one. -/
def Chip.doOptstep (c : Chip) (q : Nat) : Chip :=
  c.lqRun q 6 (fun c0 k =>
    let first := k.f 40 8
    let count := k.f 48 8
    match c0.ledgeRead k (k.f 24 8) 128 with
    | (c1, .error s) => (c1, k.stat s.1 s.2.1 s.2.2)
    | (c1, .ok o) =>
      match firstBad (optBad o first count) with
      | some off => (c1, k.stat 1 (2 ^ 63 + off) 0)
      | none =>
        let benches := fieldLE o 48 4
        if benches ≤ first then (c1, k.stat 1 40 0)
        else if benches < first + count then (c1, k.stat 1 48 0)
        else if k.f 32 8 ≠ 0 ∧ first ≠ 0 then (c1, k.stat 1 40 0)
        else if k.f 32 8 ≠ 0 ∧ count ≠ benches then (c1, k.stat 1 48 0)
        else
          match (if k.f 32 8 = 0 then (c1, .ok (zeros 64)) else c1.ledgeRead k (k.f 32 8) 64) with
          | (c2, .error s) => (c2, k.stat s.1 s.2.1 s.2.2)
          | (c2, .ok m) =>
            match firstBad (mirBad m) with
            | some off => (c2, k.stat 1 (2 ^ 62 + off) 0)
            | none =>
              match (if fieldLE o 55 1 = 2 then c2.ledgeRead k (fieldLE o 96 8) (4 * fieldLE o 104 4) else (c2, .ok [])) with
              | (c3, .error s) => (c3, k.stat s.1 s.2.1 s.2.2)
              | (c3, .ok ns) =>
                let cl : Nat × Acc32 := match fieldLE o 55 1 with
                  | 0 => (one32, { ovf := false, inv := false })
                  | 1 => (fieldLE o 88 4, { ovf := false, inv := false })
                  | _ => clipOf ((List.range (fieldLE o 104 4)).map (fun i => fieldLE ns (4 * i) 4)) (fieldLE o 88 4) (fieldLE o 92 4)
                let run := OptRun.start o m cl.1 first count
                let fl := (optConsts o cl.1).foldl Acc32.join cl.2
                let lost := k.f 32 8 != 0 && !c3.mirrorConn (fieldLE m 0 4) k.ctx
                (c3, { k with run := some { run with failed := lost }, flags := k.flags ||| (8 * b2n fl.ovf + 16 * b2n fl.inv) }))

/-- FP32 negation. -/
def neg32 (x : Nat) : Nat := if x < 2 ^ 31 then x + 2 ^ 31 else x - 2 ^ 31

/-- The update of one element (11 R306): M, V and W after it, and the flags. -/
def optElem (r : OptRun) (g0 m0 v0 w0 : Nat) : (Nat × Nat × Nat) × Bool × Bool :=
  let f := fieldLE r.desc
  let z : Acc32 := { ovf := false, inv := false }
  let g := mulF fp32F 0 g0 r.s
  if f 52 1 = 0 then
    let p1 := mulF fp32F 0 r.a1 g.bits
    let m := fmaF fp32F 0 (f 60 4) m0 p1.bits
    let gg := mulF fp32F 0 g.bits g.bits
    let p2 := mulF fp32F 0 r.a2 gg.bits
    let v := fmaF fp32F 0 (f 64 4) v0 p2.bits
    let mb := mulF fp32F 0 m.bits (f 80 4)
    let vb := mulF fp32F 0 v.bits (f 84 4)
    let rt := sqrtF fp32F vb.bits
    let dn := addF fp32F 0 rt.bits (f 68 4)
    let u := divF fp32F mb.bits dn.bits
    let wd := mulF fp32F 0 w0 r.d
    let w := fmaF fp32F 0 (neg32 (f 56 4)) u.bits wd.bits
    let a := [g, p1, m, gg, p2, v, mb, vb, rt, dn, u, wd, w].foldl Acc32.join z
    ((m.bits, v.bits, w.bits), a.ovf, a.inv)
  else
    let m := fmaF fp32F 0 (f 60 4) m0 g.bits
    let wd := mulF fp32F 0 w0 r.d
    let w := fmaF fp32F 0 (neg32 (f 56 4)) m.bits wd.bits
    let a := [g, m, wd, w].foldl Acc32.join z
    ((m.bits, v0, w.bits), a.ovf, a.inv)

/-- The tensors of a bench, as virtual addresses: G, M, W, and V for ALGO 0. -/
def OptRun.tensors (r : OptRun) (b : Nat) : List (Nat × Bool) :=
  let f := fieldLE r.desc
  [(f 0 8 + 256 * b, false), (f 8 8 + 256 * b, true), (f 24 8 + 256 * b, true)] ++
    (if f 52 1 = 0 then [(f 16 8 + 256 * b, true)] else [])

/-- The places of addresses in order, or the first fault. -/
def Chip.placesOf (c : Chip) (k : LCmd) : List (Nat × Bool) → Except VFault (List (Nat × TlbEnt))
  | [] => .ok []
  | p :: r =>
    match c.place (lqTlb k.lq) k.ctx (p.1 % 2 ^ 64) p.2 with
    | .error f => .error f
    | .ok x => match Chip.placesOf c k r with
      | .error f => .error f
      | .ok l => .ok (x :: l)

/-- The FP32 elements of a bench of a tensor. -/
def Mem.bench (m : Mem) (pa : Nat) : List Nat := (List.range 64).map (fun j => m.readLE (pa + 4 * j) 4)

/-- The bytes of FP32 elements. -/
def benchBytes (xs : List Nat) : List Byte := xs.flatMap (leBytes 4)

/-- A bench computed (11 R306): M, V, W of each element and the flags. -/
def OptRun.compute (r : OptRun) (g m v w : List Nat) : List (Nat × Nat × Nat) × Bool × Bool :=
  let l := (List.range 64).map (fun j => optElem r (g.getD j 0) (m.getD j 0) (v.getD j 0) (w.getD j 0))
  (l.map (·.1), l.any (·.2.1), l.any (·.2.2))

/-- The low-precision copy of a bench (11 R307): its bytes and the SAT and NAN_LOST flags. -/
def OptRun.low (r : OptRun) (seed b : Nat) (ws : List Nat) : List Byte × Bool × Bool :=
  let f := fieldLE r.desc
  let words := (List.range 64).map (fun j => if f 54 1 % 8 = 5 then word0 seed (f 108 4) 0 1 (f 112 8) (64 * b + j) else 0)
  convertElems (lowCode (f 53 1)) (f 54 1 % 8) (bit (f 54 1) 3) words ws

/-- The mirror writes of a bench (10 R284): the tensors that MASK selects, at their offsets. -/
def OptRun.mirrorMsgs (r : OptRun) (key ctx b : Nat) (m v w : List Nat) (low : List Byte) : List HMsg :=
  let f := fieldLE r.mir
  let msg := fun (bs : List Byte) (off : Nat) =>
    ({ owner := .mirror key b, op := 1, ctx := ctx, va := 0, data := some bs, left := bs.length, key := f 4 4, off := off % 2 ^ 64
       val := 0, poison := false } : HMsg)
  (if bit (f 8 1) 0 then [msg (benchBytes w) (f 16 8 + 256 * b)] else []) ++
  (if bit (f 8 1) 1 then [msg (benchBytes m) (f 24 8 + 256 * b)] else []) ++
  (if bit (f 8 1) 2 && fieldLE r.desc 52 1 == 0 then [msg (benchBytes v) (f 32 8 + 256 * b)] else []) ++
  (if bit (f 8 1) 3 && fieldLE r.desc 32 8 != 0 then [msg low (f 40 8 + 64 * b * lowSize (fieldLE r.desc 53 1))] else [])

/-- The command names a mirror. -/
def LCmd.mirrored (k : LCmd) : Bool := (k.op == 6 && k.f 32 8 != 0) || k.op == 7

/-- A step that has issued its last bench or stopped: without a version block there is no end step to come. -/
def OptRun.stop (r : OptRun) : OptRun := { r with next := r.last, torn := true, stopped := true }

/-- The running OPTSTEP of a queue. -/
def Chip.lqStep (c : Chip) (q : Nat) : Option (LCmd × OptRun) :=
  (c.lqCmds q).findSome? (fun k => if k.op = 6 then k.run.map (fun r => (k, r)) else none)

/-- A bench passed over: counted under a status by `n`, and the version will be TORN. -/
def Chip.benchSkip (c : Chip) (k : LCmd) (r : OptRun) (code detail n : Nat) : Chip :=
  c.setLcmd { (List.range n).foldl (fun (l : LCmd) _ => l.tally code detail) k with run := some { r with next := r.next + 1, torn := true } }

/-- Benches of an engine whose mirror writes are not acknowledged, of every queue's step (10 R284). -/
def Chip.benchesOut (c : Chip) (e : Nat) : Nat :=
  (c.ledge.cmds.map (fun k => match k.run with
    | some r =>
      if k.op ≠ 6 ∨ r.failed then 0
      else (r.open_.filter (fun b =>
        match c.place (lqTlb k.lq) k.ctx (fieldLE r.desc 24 8 + 256 * b) true with
        | .ok (pa, _) => c.mem.engineOf pa == e
        | .error _ => false)).length
    | none => 0)).sum

/-- A bench computed from its tensors in memory, G, M, W and V for ALGO 0. -/
def Chip.benchOut (c : Chip) (r : OptRun) (pas : List Nat) : List (Nat × Nat × Nat) × Bool × Bool :=
  r.compute (c.mem.bench (pas.getD 0 0)) (c.mem.bench (pas.getD 1 0)) (if fieldLE r.desc 52 1 = 0 then c.mem.bench (pas.getD 3 0) else [])
    (c.mem.bench (pas.getD 2 0))

/-- The tensors of a bench written back whole: gradient lines recalled, then M, W and, for ALGO 0, V (10 R267, R274). -/
def Chip.benchStore (c : Chip) (k : LCmd) (r : OptRun) (pas : List Nat) (u : List (Nat × Nat × Nat)) : Chip :=
  let c1 := c.modMem (fun x => x.recall ((List.range 4).map (fun i => pas.getD 0 0 + 64 * i)))
  let c2 := (c1.storeHint (pas.getD 1 0) (benchBytes (u.map (·.1))) false k.hint).storeHint (pas.getD 2 0)
    (benchBytes (u.map (fun x => x.2.2))) false k.hint
  if fieldLE r.desc 52 1 = 0 then c2.storeHint (pas.getD 3 0) (benchBytes (u.map (fun x => x.2.1))) false k.hint else c2

/-- A bench carried out whole (10 R267, R284, 11 R306, R307): its tensors, its low-precision copy, and its mirror writes. -/
def Chip.benchRun (c : Chip) (k : LCmd) (r : OptRun) (pas : List Nat) (copy : Span) : Chip :=
  let f := fieldLE r.desc
  let u := c.benchOut r pas
  let ws := u.1.map (fun x => x.2.2)
  let low := r.low (c.ctxAt k.ctx).seed r.next ws
  let c1 := c.benchStore k r pas u.1
  let c2 := if f 32 8 = 0 then c1 else c1.scatter copy low.1 false k.hint
  let msgs := if k.mirrored && !r.failed then r.mirrorMsgs k.key k.ctx r.next (u.1.map (·.1)) (u.1.map (fun x => x.2.1)) ws low.1 else []
  let lf := if f 32 8 = 0 then 0 else b2n low.2.1 + 2 * b2n low.2.2
  (msgs.foldl (fun (x : Chip) g => x.haulPost (fieldLE r.mir 0 4) g) c2).setLcmd
    { k.flag (lf + 8 * b2n u.2.1 + 16 * b2n u.2.2) with
      count := k.count + 1
      run := some { r with next := r.next + 1, open_ := if msgs.isEmpty then r.open_ else r.open_ ++ [r.next] } }

/-- BENCH_OP (10 R266 to R268, R274, R284, 11 R306, R307): the next bench of the queue's OPTSTEP is updated whole by the
engine of its master granule; its copy and its mirror writes follow. -/
def Chip.doBenchOp (c : Chip) (q : Nat) : Chip :=
  match c.lqStep q with
  | none => c
  | some (k, r) =>
    let f := fieldLE r.desc
    let b := r.next
    if r.last ≤ b ∨ (f 40 8 ≠ 0 ∧ !r.begun) then c
    else
      let lowLen := 64 * lowSize (f 53 1)
      let lowSpan := c.spanLines (lqTlb q) k.ctx (f 32 8 + lowLen * b) lowLen true
      let places : Except VFault (List (Nat × TlbEnt)) := match c.placesOf k (r.tensors b) with
        | .error x => .error x
        | .ok l => if f 32 8 = 0 then .ok l else match lowSpan.fault with
          | some x => .error x
          | none => .ok l
      match places with
      | .error x =>
        let d := c.used (lqTlb q) (lqSrc q) { pieces := [], ents := [], fault := some x }
        d.setLcmd { k.stat x.kind.code x.detail k.count with run := some r.stop }
      | .ok l =>
        let pas := l.map (·.1)
        let pw := pas.getD 2 0
        let c1 := c.tlbFill (lqTlb q) (l.map (·.2) ++ (if f 32 8 = 0 then [] else lowSpan.ents))
        let e := c.mem.engineOf pw
        let copy := if f 32 8 = 0 then [] else lowSpan.lines
        if (pas.flatMap (fun p => rangeLines p 256) ++ copy).any (fun ln => !c.ready ln true) then c
        else if pas.any (fun p => homeOf p != homeOf pw) then c1.benchSkip k r 6 b 1
        else if c.fencedAt pw then c1.benchSkip k r 8 (f 24 8 + 256 * b) (4 * pas.length)
        else if pas.any (fun p => c.mem.poisonedN p 256) then c1.benchSkip k r 5 b 1
        else if 64 ≤ c.benchesOut e then c
        else match c1.takeTurn q (4 * pas.length) with
        | none => c
        | some (c1, _) => (c1.benchRun k r pas lowSpan).spent q (4 * pas.length)

/-- VERSION_BEGIN (11 R309): HOLDS is zero, and BUSY is set before the first bench; a step that finds holds waits. -/
def Chip.doVersionBegin (c : Chip) (q : Nat) : Chip :=
  match c.lqStep q with
  | some (k, r) =>
    let va := fieldLE r.desc 40 8
    if va = 0 ∨ r.begun ∨ r.last ≤ r.next then c
    else match c.versionAt (lqTlb q) k.ctx va with
      | .ok (pa, v, h) =>
        if h ≠ 0 then c
        else (c.storeHint pa (leBytes 8 (v % 2 ^ 63 + 2 ^ 63)) false 0).setLcmd { k with run := some { r with begun := true } }
      | .error f =>
        (c.used (lqTlb q) (lqSrc q) { pieces := [], ents := [], fault := some f }).setLcmd
          { k.stat f.kind.code f.detail 0 with run := some r.stop }
  | none => c

/-- The command failed before its last bench: a translation or access fault, or cancellation (11 R309 step 4). -/
def LCmd.stopped (k : LCmd) : Bool := match k.run with | some r => r.stopped | none => false

/-- The version write of a mirrored step, sent once every data write is acknowledged (10 R284). -/
def Chip.mirrorVersion (c : Chip) (k : LCmd) : Chip :=
  match k.run with
  | some r =>
    if k.op = 6 ∧ k.mirrored ∧ !r.failed ∧ r.open_.isEmpty ∧ r.last ≤ r.next ∧ r.ended ∧ !r.verSent ∧ !k.stopped then
      let m : HMsg := { owner := .version k.key, op := 1, ctx := k.ctx, va := 0, data := some (leBytes 8 r.version), left := 8
                        key := fieldLE r.mir 4 4, off := fieldLE r.mir 48 8, val := 0, poison := false }
      (c.setLcmd { k with run := some { r with verSent := true } }).haulPost (fieldLE r.mir 0 4) m
    else c
  | none => c

/-- VERSION_END (11 R309): every bench is released, and VERSION becomes count + 1, TORN if a bench was skipped or the step
stopped, with BUSY clear. -/
def Chip.doVersionEnd (c : Chip) (q : Nat) : Chip :=
  match c.lqStep q with
  | some (k, r) =>
    if r.begun ∧ !r.ended ∧ r.last ≤ r.next then
      match c.versionAt (lqTlb q) k.ctx (fieldLE r.desc 40 8) with
      | .ok (pa, v, _) =>
        let n := versionNext v (r.torn || k.stopped)
        let k1 := { k with run := some { r with ended := true, version := n } }
        (((c.storeHint pa (leBytes 8 n) false 0).setLcmd k1).mirrorVersion k1).snapTry
      | .error _ => c.setLcmd { k with run := some { r with ended := true, failed := true } }
    else c
  | none => c

/-- A line of a MIRROR command sent (10 R269). -/
def mirrorLine (k : LCmd) (m : List Byte) (i : Nat) (l : List Byte × Bool) : HMsg :=
  { owner := .mirror k.key i, op := 1, ctx := k.ctx, va := 0, data := some l.1, left := 64, key := fieldLE m 4 4
    off := (fieldLE m (16 + 8 * k.f 48 1) 8 + 64 * i) % 2 ^ 64, val := 0, poison := l.2 }

/-- The start of a MIRROR: its descriptor read and checked; its lines have then to be sent. -/
def Chip.mirrorOpen (c : Chip) (k : LCmd) : Chip × LCmd :=
  match c.ledgeRead k (k.f 40 8) 64 with
  | (c1, .error s) => (c1, { k.stat s.1 s.2.1 s.2.2 with ran := true })
  | (c1, .ok m) =>
    match firstBad (mirBad m) with
    | some off => (c1, { k.stat 1 (2 ^ 62 + off) 0 with ran := true })
    | none =>
      let n := k.f 32 8 / 64
      let run := { OptRun.start (zeros 128) m 0 0 n with next := n, failed := !c1.mirrorConn (fieldLE m 0 4) k.ctx }
      (c1, { k with run := some run })

/-- A unit of MIRROR: a line read by ReadOnce and sent, unless the mirror has failed (R285). -/
def mirrorStep (k : LCmd) (e : Chip) (l : LCmd) (i : Nat) : Except (Chip × LCmd × VFault) (Chip × LCmd) :=
  match e.ledgeStep l (k.f 24 8 + 64 * i) false with
  | .error x => .error x
  | .ok (g, pa) =>
    match l.run with
    | some r =>
      if r.failed then .ok (g, { l with count := l.count + 1 })
      else .ok (g.haulPost (fieldLE r.mir 0 4) (mirrorLine k r.mir i (g.mem.line (pa / 64))),
        { l with count := l.count + 1, run := some { r with open_ := r.open_ ++ [i] } })
    | none => .ok (g, l)

/-- MIRROR (10 R269): each line of SRC is read and sent as a Haul WRITE to the partner region. -/
def Chip.doMirror (c : Chip) (q : Nat) : Chip :=
  let lines := fun (d : Chip) => d.lqLines q 7 (fun k => k.f 32 8 / 64) (fun _ => 1) mirrorStep LCmd.done
  match c.lqTurn q with
  | some k =>
    if k.op ≠ 7 ∨ k.run.isSome ∨ !(c.lcmdRefusals k).isEmpty then lines c
    else
      let r := c.mirrorOpen k
      if r.2.stats.any (fun s => s.1 == VKind.held.code) then c
      else if r.2.ran then r.1.setLcmd r.2
      else lines (r.1.setLcmd r.2)
  | none => c

/-! Completion (10 R271 to R273, R285) -/

/-- The status of a command's record with its DETAIL and COUNT (R273): the highest code, the first of its conditions. -/
def LCmd.final (k : LCmd) : Nat × Nat × Nat :=
  let fails := match k.run with
    | some r =>
      if k.mirrored && r.failed && !k.stopped then
        [(9, ((List.range (r.acked.length + 1)).find? (fun b => !r.acked.contains b)).getD 0, r.acked.length)]
      else []
    | none => []
  (k.stats ++ fails).foldl (fun best s => if best.1 < s.1 then (s.1, s.2.1, s.2.2 % 2 ^ 64) else best) (0, 0, k.count)

/-- A command may complete: it has issued everything, and its mirror is acknowledged or failed (R271). -/
def LCmd.over (k : LCmd) : Bool :=
  k.issued && (match k.run with
    | some r => !k.mirrored || r.failed || (r.open_.isEmpty && (k.op == 7 || !r.ended || r.verSent || r.stopped))
    | none => true)

/-- The record of a command (Table 10.4). -/
def LCmd.recordBytes (k : LCmd) : List Byte :=
  let s := k.final
  k.bytes.take 3 ++ leBytes 1 s.1 ++ leBytes 1 k.flags ++ zeros 3 ++ leBytes 8 s.2.1 ++ leBytes 8 s.2.2 ++ zeros 8

/-- The version write of a step is still on its connection. -/
def Chip.versionOut (c : Chip) (k : LCmd) : Bool :=
  match k.run with
  | some r => r.verSent && !r.failed && (c.connAt (fieldLE r.mir 0 4)).tx.holds (.version k.key)
  | none => false

/-- A command whose reserved opcode is refused when its turn comes (R258). -/
def Chip.lqJudge (c : Chip) (q : Nat) : Chip :=
  match c.lqTurn q with
  | some k => if 7 < k.op then c.setLcmd { k with ran := true, stats := c.lcmdRefusals k } else c
  | none => c

/-- A queue whose LQ_UNBIND waits is unbound once no command of it is in execution (R287). -/
def Chip.settleLq (c : Chip) (q : Nat) : Chip :=
  match (c.lqAt q).unbind with
  | some key => if (c.lqCmds q).isEmpty then (c.setLq q Lq.fresh).finish key 0 0 else c
  | none => c

/-- LEDGE_COMMAND_COMPLETE (R271): the first command of a queue whose effects are visible and whose mirror is acknowledged
or failed writes its record and signals; the queue fetches on. -/
def Chip.doLedgeCommandComplete (c : Chip) (q : Nat) : Chip :=
  let c0 := c.lqJudge q
  match (c0.lqCmds q).find? (fun k => k.over && !c0.versionOut k) with
  | some k =>
    let c1 := c0.modLedge (fun l => { l with cmds := l.cmds.filter (fun x => x.key != k.key) })
    let s := c1.spanLines (lqTlb q) k.ctx (k.f 16 8) 32 true
    let c2 := if bit k.hflags 2 then
        (let d := c1.used (lqTlb q) (lqSrc q) s
         if s.fault.isSome then d else d.scatter s k.recordBytes false (k.f 12 2))
      else c1
    let c3 := if bit k.hflags 1 && decide (k.f 6 2 < 16384) then c2.soApply k.ctx (k.f 6 2) (k.f 8 4) false else c2
    let c4 := match k.run with
      | some r => if k.op = 6 ∧ k.mirrored then c3.pairStep (fieldLE r.mir 0 4) k.ctx (fieldLE r.desc 40 8) k.final.1 else c3
      | none => c3
    (c4.settleLq q).lqFetch q 9
  | none => c0

/-! Mirror acknowledgements (10 R284, R285) -/

/-- A bench or line of a command's mirror is acknowledged, or has failed. -/
def Chip.mirrorSettled (c : Chip) (key b : Nat) (ok : Bool) : Chip :=
  match c.ledge.cmds.find? (fun k => k.key == key) with
  | some k => match k.run with
    | some r =>
      let r1 := { r with open_ := r.open_.filter (· != b), acked := if ok then setIns r.acked b else r.acked, failed := r.failed || !ok }
      let k1 := { k with run := some r1 }
      (c.setLcmd k1).mirrorVersion k1
    | none => c
  | none => c

/-- A message is a bench or line of a command's mirror. -/
def HOwner.mirrors (o : HOwner) (key : Nat) : Bool := match o with
  | .mirror k _ => k == key
  | _ => false

/-- The partner has refused a write of a command's mirror: no further one is sent (R285). -/
def Chip.mirrorRefused (c : Chip) (conn key : Nat) : Chip :=
  let d := match c.ledge.cmds.find? (fun k => k.key == key) with
    | some k => c.setLcmd { k with run := k.run.map (fun (r : OptRun) => { r with failed := true }) }
    | none => c
  let x := d.connAt conn
  let left : List HMsg := x.tx.msgs.filter (fun m => !m.owner.mirrors key)
  d.setConn conn { x with tx := { x.tx with msgs := left } }

/-- The version write of a command is settled; a refusal is a failed mirror. -/
def Chip.versionSettled (c : Chip) (key : Nat) (ok : Bool) : Chip :=
  match c.ledge.cmds.find? (fun k => k.key == key) with
  | some k => match k.run with
    | some r => if ok then c else c.setLcmd { k with run := some { r with failed := true } }
    | none => c
  | none => c

/-! Faults and cancellation (10 R286, R287) -/

/-- LEDGE_HW_FAULT (R286): the engine is fenced until the next self-test, and logs its fault. -/
def Chip.doLedgeHwFault (c : Chip) (e : Nat) : Chip :=
  if c.ledge.fenced.contains e then c
  else (c.modLedge (fun l => { l with fenced := setIns l.fenced e })).logEv .ledgeHwFault (srcLedge e) [e]

/-- The commands of a queue in execution are cancelled: nothing further is issued, and each completes with CANCELLED
(R287). -/
def Chip.lqCancel (c : Chip) (q : Nat) : Chip :=
  (c.lqCmds q).foldl (fun (d : Chip) k =>
    if k.issued && k.over then d
    else d.setLcmd { k.stat 10 0 k.count with ran := true, run := k.run.map (·.stop) }) c

end Sys2Proof.Machine
end

