-- ==== Sys2Proof/Machine/HostComplex.lean ====
section
/-!
DEFINITION. The host complex (12): mtime and timers, WFI, PCIe transactions through registered regions, and interrupts.
-/

namespace Sys2Proof.Machine

/-! Cores -/

/-- MTIME_WRITE (R314): the write is ignored and entered in the configuration report log as a write of a field that is
read only (20 Table 20.8), with the power controller counter as the value that stands. -/
def Chip.doMtimeWrite (c : Chip) (addr : BitVec 52) (a : SetupAcc) : Chip :=
  c.cfgReport addr.toNat a.value.toNat (c.count srcPower) 5 0 64 a.writer.toNat

/-- A core's state set. -/
def Chip.setCore (c : Chip) (k : Nat) (s : CoreSt) : Chip := c.modIrq (fun q => { q with core := tabSet q.core k s })

/-- CORE_WFI (18 R461): a running core enters GATED. -/
def Chip.doCoreWfi (c : Chip) (k : Nat) : Chip := if c.coreSt k = .active then c.setCore k .gated else c

/-- TIMER_COMPARE (R314): the power controller counter reaches a core's stimecmp or mtimecmp, which holds the value `cmp` that its core
wrote; the timer interrupt is raised and wakes a GATED core. -/
def Chip.doTimerCompare (c : Chip) (k : Nat) (machine : Bool) (cmp : BitVec 64) : Chip :=
  if c.coreSt k = .off then c
  else
    let x := c.hartAt k
    let y := if machine then { x with mtimecmp := cmp.toNat } else { x with csr := tabSet x.csr 0x14D cmp.toNat }
    let d := (c.passTo srcPower cmp.toNat).setHart k y
    let e := d.modIrq (fun q => { q with timer := tabSet q.timer k (tabGet 0 q.timer k ||| (if machine then 2 else 1)) })
    if e.coreSt k = .gated then e.setCore k .active else e

/-- MSI_WRITE (R326): a 4-byte write of an identity to seteipnum of a file; page 7 of a core is reserved. -/
def Chip.doMsiWrite (c : Chip) (k file : Nat) (v : BitVec 32) : Chip := c.msi k file v.toNat

/-! PCIe (R322 to R327) -/

/-- A region entry. -/
def Chip.pcieAt (c : Chip) (k : Nat) : PcieRegion := tabGet PcieRegion.fresh c.pcie k

/-- A root port that the board record's arrangement gives (12 R320, Table 12.5 PORT). -/
def Chip.rootPort (c : Chip) (port : Nat) : Bool :=
  match c.boot.pcie.getD (port / 2) 4 with
  | 1 => true
  | 0 => port % 2 == 0
  | 2 => port % 2 == 0
  | _ => false

/-- The requester that an entry names (R323). -/
def PcieRegion.names (r : PcieRegion) (port reqid : Nat) : Bool :=
  r.valid && r.port == port && ((r.reqid ^^^ reqid) &&& r.reqmask) == 0

/-- The first entry of TYPE 0 that admits a memory TLP (R323). -/
def Chip.pcieMatch (c : Chip) (p : Tlp) (n : Nat) (wr : Bool) : Option PcieRegion :=
  (c.pcie.find? (fun x =>
    let r := x.2
    r.names p.port.val p.reqid.toNat && !r.msi && decide (r.vbase ≤ p.addr.toNat) &&
      decide (p.addr.toNat + n ≤ r.vbase + r.len) && bit r.perm (if wr then 1 else 0))).map (·.2)

/-- The island of the root complex. -/
def srcRoot : Nat := srcNoc 4

/-- A refused TLP's log entry, at most one per requester and cause in each 1 ms (R323). -/
def Chip.pcieLog (c : Chip) (ev : Ev) (p : Tlp) : Chip :=
  c.logWin ev [p.reqid.toNat] srcDispatch msDispatch srcRoot [p.reqid.toNat, p.addr.toNat]

/-- The log entry of a TLP whose translation fails: an unbacked address, or no translation (Table 12.6, 03 R546). -/
def Chip.pcieFault (c : Chip) (p : Tlp) (f : VFault) : Chip :=
  match f.refused with
  | some pa => if c.protectedN pa 1 then c.logRefused p.reqid.toNat pa 1 else c.pcieLog .addrUnbacked p
  | none => c.pcieLog .pcieXlate p

/-- A TLP addressed to a PCIe memory window: there is no routing between root ports, and it is refused with Unsupported Request (12
R321). -/
def tlpPeer (p : Tlp) (n : Nat) : Bool := decide (0xF80000000000 < p.addr.toNat + max n 1) && decide (p.addr.toNat < 0xFC0000000000)

/-- PCIE_WRITE_TLP (R323, R324): matched, translated and written line by line with the region's hint; otherwise discarded
and logged. -/
def Chip.doPcieWriteTlp (c : Chip) (p : Tlp) : Chip :=
  if !c.rootPort p.port.val then c
  else if tlpPeer p p.bytes.length then c.pcieLog .pcieUnreg p
  else match c.pcieMatch p p.bytes.length true with
  | none => c.pcieLog .pcieUnreg p
  | some r =>
    let s := c.spanLines iotlb r.ctx p.addr.toNat p.bytes.length true
    let d := (c.tlbFill iotlb s.ents).meet s.lines false
    match s.fault with
    | some f => d.pcieFault p f
    | none => d.scatter s p.bytes p.poison r.hint

/-- PCIE_READ_TLP (R323, R324): the answer is 0 with each line's poison, length and bytes; 1 for an Unsupported Request; 2
for a Completer Abort. -/
def Chip.doPcieReadTlp (c : Chip) (p : Tlp) (len : Nat) : Chip :=
  if !c.rootPort p.port.val then c
  else if tlpPeer p len then (c.pcieLog .pcieUnreg p).answer [1]
  else match c.pcieMatch p len false with
  | none => (c.pcieLog .pcieUnreg p).answer [1]
  | some r =>
    let s := c.spanLines iotlb r.ctx p.addr.toNat len false
    let d := (c.tlbFill iotlb s.ents).meet s.lines false
    match s.fault with
    | some f => (d.pcieFault p f).answer [2]
    | none => d.answer (0 :: s.pieces.flatMap (fun q =>
        b2n (c.mem.poisonedN q.2.1 q.2.2) :: q.2.2 :: (c.mem.readN q.2.1 q.2.2).map (·.toNat)))

/-- PCIE_MSI (R327): an MSI write is delivered only through a TYPE 1 entry of its requester that names the page written. -/
def Chip.doPcieMsi (c : Chip) (port : Nat) (reqid : BitVec 16) (addr : BitVec 64) (v : BitVec 32) : Chip :=
  let o := addr.toNat - 0xFD0000000000
  let core := o / 0x8000
  let file := o % 0x8000 / 0x1000
  let ok := decide (0xFD0000000000 ≤ addr.toNat) && o % 0x1000 == 0 &&
    c.pcie.any (fun x => x.2.names port reqid.toNat && x.2.msi && x.2.hart == core && x.2.file == file)
  if !c.rootPort port then c
  else if ok then c.msi core file v.toNat else c.logEv .pcieMsiDenied srcRoot [reqid.toNat, addr.toNat]

end Sys2Proof.Machine
end

