-- ==== Sys2Proof/Machine/HaulTx.lean ====
section
/-!
DEFINITION. What Haul sends (13): paths and spraying, packets and their credit and rate, settlement of packets and of what
they were sent for, and the loss of a connection.
-/

namespace Sys2Proof.Machine

/-! Paths (R340, R341) -/

/-- The local sub-ports of a connection's path set, in ascending bit order: those of LOCAL_MASK that are up and have not
gone away (R340, R352). -/
def Chip.subsOf (c : Chip) (x : Conn) : List Nat :=
  (List.range 32).filter (fun p => bit x.mask p && (c.portAt p).up && !bit x.away p)

/-- The peer addresses in use that the peer has not named down, by index. -/
def Conn.addrs (x : Conn) : List Nat := (List.range x.peers.length).filter (fun i => !bit x.peerDown i)

/-- The peer address that a sub-port of the path set is paired with (R340 step 3). -/
def Chip.addrOf (c : Chip) (x : Conn) (sub : Nat) : Option Nat :=
  let a := x.addrs
  match (c.subsOf x).findIdx? (· == sub) with
  | some j => a[j % a.length]?
  | none => none

/-- A connection keeps a path. -/
def Chip.hasPath (c : Chip) (x : Conn) : Bool := !(c.subsOf x).isEmpty && !x.addrs.isEmpty

/-- The first member of a list above a bound, else its first, with whether it wrapped. -/
def after (l : List Nat) (p : Nat) : Option (Nat × Bool) :=
  match l.find? (fun q => decide (p < q)) with
  | some q => some (q, false)
  | none => l.head?.map (fun q => (q, true))

/-- The round-robin position after a path, among the sub-ports of the set. -/
def nextPos (subs : List Nat) (pos : Option (Nat × Nat)) (changed : Bool) : Option (Nat × Nat) :=
  match pos with
  | none => subs.head?.map (fun s => (s, 0))
  | some (s, e) => (after subs s).map (fun q => (q.1, if q.2 && !changed then (e + 1) % 16 else e))

/-- A path is skipped: quarantined, or its sub-port's transmit queue is over-full (R340). -/
def Conn.skips (x : Conn) (full : Nat) (p : Nat × Nat) : Bool :=
  bit full p.1 || x.tx.quar.any (fun q => q.1 == p.1 && q.2.1 == p.2)

/-- The next eligible path from a position on. -/
def Conn.seek (x : Conn) (subs : List Nat) (full : Nat) : Nat → Option (Nat × Nat) → Bool → Option (Nat × Nat)
  | 0, _, _ => none
  | fuel + 1, pos, changed =>
    match nextPos subs pos changed with
    | none => none
    | some p => if x.skips full p then Conn.seek x subs full fuel (some p) false else some p

/-- Every path of a connection is quarantined (R341). -/
def Chip.allQuarantined (c : Chip) (x : Conn) : Bool :=
  (c.subsOf x).all (fun s => (List.range 16).all (fun e => x.tx.quar.any (fun q => q.1 == s && q.2.1 == e)))

/-- The path of the next new packet, acknowledgement or control packet (R340). -/
def Chip.newPath (c : Chip) (x : Conn) (full : Nat) : Option (Nat × Nat) :=
  if c.hasPath x then x.seek (c.subsOf x) full 512 x.tx.pos x.tx.changed else none

/-- The path of a retransmission: the next eligible sub-port after the last one, at the next entropy value (R340); when all are skipped, the
next one (DESIGN CHOICE, assumption 112). -/
def Chip.retxPath (c : Chip) (x : Conn) (p : HTx) (full : Nat) : Option (Nat × Nat) :=
  let subs := c.subsOf x
  let ent := (p.ent + 1) % 16
  let order := subs.filter (fun s => decide (p.sub < s)) ++ subs.filter (fun s => decide (s ≤ p.sub))
  if x.addrs.isEmpty then none
  else match order.find? (fun s => !x.skips full (s, ent)) with
    | some s => some (s, ent)
    | none => order.head?.map (fun s => (s, ent))

/-! Frames sent (R332, R334) -/

/-- The Haul UDP port. -/
def Chip.haulUdp (c : Chip) : Nat := c.rf 0xA00000 15 0

/-- An address is an IPv4 address in IPv4-mapped form. -/
def isV4 (a : Nat) : Bool := a / 2 ^ 32 == 0xFFFF

/-- A field of a sub-port's register set (21 Table 21.13). -/
def Chip.portReg (c : Chip) (sub off : Nat) : Nat :=
  if off = 0 then Config.boardMac sub % 2 ^ 48 else c.rw (0xA01000 + 0x40 * sub + off)

/-- A sub-port sends and accepts an 802.1Q tag (R331, 21 Table 21.13 TAG_EN). -/
def Chip.tagged (c : Chip) (sub : Nat) : Bool := bit (c.portReg sub 8) 16

/-- The control word of the tag that a sub-port sends: PCP in bits 15:13 and VID in bits 11:0. -/
def Chip.tagOf (c : Chip) (sub : Nat) : Option Nat :=
  if c.tagged sub then some (bits (c.portReg sub 8) 15 13 * 2 ^ 13 + bits (c.portReg sub 8) 11 0) else none

/-- The sub-port's own address of the family of a peer's. -/
def Chip.ownAddr (c : Chip) (sub peer : Nat) : Nat :=
  if isV4 peer then 0xFFFF * 2 ^ 32 + c.portReg sub 0x10 % 2 ^ 32 else c.portReg sub 0x18 * 2 ^ 64 + c.portReg sub 0x20

/-- The bytes that a frame takes on the wire, headers and FCS included (R351). -/
def Chip.frameLen (c : Chip) (sub peer n : Nat) : Nat :=
  18 + (if c.tagged sub then 4 else 0) + (if isV4 peer then 20 else 40) + 8 + n

/-- An IP packet sent: the next hop's MAC comes from the neighbour table; where it has no entry the specification states no
address, and the MAC is free (assumption 17); what a traffic class's DSCP is, it does not state either (DESIGN CHOICE, assumption 112). -/
def Chip.sendIp (c : Chip) (sub peer sport dport : Nat) (bs : List Byte) : Chip :=
  let mac := (c.fab.neigh.find? (fun n => n.1 == sub && n.2.1 == peer)).map (fun n => n.2.2)
  let d := if mac.isSome then c else c.took 1
  d.modFab (fun f => { f with sent := f.sent ++
    [{ sub := sub, mac := mac.getD (c.freeVal % 2 ^ 48), tag := c.tagOf sub, dscp := Config.dscp dport % 64, src := c.ownAddr sub peer
       dst := peer, ttl := 64, ecn := 2
       sport := sport, dport := dport, bytes := bs }] })

/-- The lowest PSN without final status (Table 13.2 SCUM). -/
def HSend.scum (s : HSend) : Nat :=
  s.tx.foldl (fun a p => if seqGe p.psn a then a else p.psn) s.next

/-- A Haul packet's bytes (Table 13.2). -/
def Conn.packet (x : Conn) (vf op psn : Nat) (hdr payload : List Byte) : List Byte :=
  beBytes 1 (16 + vf) ++ beBytes 1 op ++ beBytes 2 payload.length ++ beBytes 2 x.peerConn ++ beBytes 2 x.epoch ++
    beBytes 4 psn ++ beBytes 4 x.tx.scum ++ hdr ++ payload

/-- A packet sent on a path of a connection. -/
def Chip.sendOn (c : Chip) (k : Nat) (p : Nat × Nat) (bs : List Byte) : Chip :=
  let x := c.connAt k
  match c.addrOf x p.1 with
  | some i => c.sendIp p.1 (x.peers.getD i 0) (0xC000 + p.2) c.haulUdp bs
  | none => c

/-- A packet that is not sequenced, sent in turn on the next path (R340); without a path it is not sent. No command tells how full the
transmit queues are when one is sent, and none is taken as over-full (DESIGN CHOICE, assumption 112). -/
def Chip.sendControl (c : Chip) (k op : Nat) (hdr payload : List Byte) : Chip :=
  let x := c.connAt k
  match c.newPath x 0 with
  | some p =>
    (c.setConn k { x with tx := { x.tx with pos := some p, changed := false } }).sendOn k p (x.packet 0 op 0 hdr payload)
  | none => c

/-! Acknowledgements (R345) -/

/-- The state of a slot in an ACK: 0 pending, 1 DONE, 2 REFUSED. -/
def HRecv.state (r : HRecv) (psn : Nat) : Nat :=
  match tabFind r.slots psn with
  | some s => if s.st = .complete then (if s.code = 0 then 1 else 2) else 0
  | none => 0

/-- The number of states that an ACK reports: up to the highest completed slot, in whole bytes. -/
def HRecv.span (r : HRecv) : Nat :=
  let n := (List.range 1024).foldl (fun a i => if r.state ((r.w + i) % 2 ^ 32) = 0 then a else i + 1) 0
  (n + 3) / 4 * 4

/-- An ACK of a connection: everything from W to the highest completed slot (R345). -/
def Chip.sendAck (c : Chip) (k : Nat) (whole : Bool) : Chip :=
  let x := c.connAt k
  let n := if whole then x.rx.span else 0
  let states := (List.range (n / 4)).map (fun b =>
    BitVec.ofNat 8 ((List.range 4).foldl (fun a i => a + x.rx.state ((x.rx.w + 4 * b + i) % 2 ^ 32) * 4 ^ i) 0))
  let hdr := beBytes 4 x.rx.w ++ beBytes 4 x.rx.limit ++ beBytes 4 x.rx.ce ++ beBytes 2 n ++ zeros 2
  let d := c.setConn k { x with rx := { x.rx with unrep := if whole then 0 else x.rx.unrep
                                                  unrepAt := if whole then none else x.rx.unrepAt }
                                tx := { x.tx with beat := c.dispatch } }
  d.sendControl k 0x10 hdr states

/-- The NAK of a slot. -/
def Chip.sendNak (c : Chip) (k psn code detail : Nat) : Chip :=
  c.sendControl k 0x11 (beBytes 4 psn ++ beBytes 1 code ++ zeros 3 ++ beBytes 8 detail) []

/-- The PATHDOWN mask of a connection: its local sub-ports that carry none of its paths, by position in LOCAL_MASK. -/
def Chip.downMask (c : Chip) (x : Conn) : Nat :=
  ((List.range 32).filter (fun p => bit x.mask p)).zipIdx.foldl (fun a q =>
    if (c.subsOf x).contains q.1 then a else a + 2 ^ q.2) 0

/-- A PATHDOWN sent. -/
def Chip.sendPathdown (c : Chip) (k : Nat) : Chip := c.sendControl k 0x23 (beBytes 4 (c.downMask (c.connAt k) % 2 ^ 32)) []

/-! Rate (R351) -/

/-- The line rate of a sub-port in Gb/s under its port's mode (Table 13.1). -/
def Chip.lineRate (c : Chip) (sub : Nat) : Nat :=
  match bits (c.rw 0xA00010) (2 * (sub / 4) + 1) (2 * (sub / 4)) with
  | 0 => 800
  | 1 => 400
  | _ => 200

/-- R_MAX of a connection as FP32. -/
def Chip.rMax (c : Chip) (x : Conn) : Nat := fp32OfNat ((c.subsOf x).foldl (fun a p => a + c.lineRate p) 0)

/-- A rate control that starts at a rate (R351). -/
def Rate.start (rmax now : Nat) : Rate :=
  { alpha := one32, rc := rmax, rt := rmax, ce := 0, units := 0, seen := 0, tokens := 65536, at_ := now, per := now }

/-- The bytes that a rate in Gb/s lets pass in a number of fabric die cycles of 1.5 GHz, rounded down. -/
def rateBytes (rc cycles : Nat) : Nat :=
  match decodeF fp32F rc with
  | .fin false m e => if 0 ≤ e then m * 2 ^ e.toNat * cycles / 12 else m * cycles / (12 * 2 ^ (-e).toNat)
  | _ => 0

/-- The tokens of a bucket at a moment. -/
def Rate.fill (r : Rate) (now : Nat) : Rate :=
  { r with tokens := min 65536 (r.tokens + rateBytes r.rc (now - r.at_)), at_ := now }

/-- The fabric cycles until a bucket holds a number of bytes. -/
def Rate.waitFor (r : Rate) (n : Nat) : Nat :=
  if n ≤ r.tokens then 0
  else match decodeF fp32F r.rc with
    | .fin false m e =>
      if m = 0 then 0
      else if 0 ≤ e then ceilDiv ((n - r.tokens) * 12) (m * 2 ^ e.toNat) else ceilDiv ((n - r.tokens) * 12 * 2 ^ (-e).toNat) m
    | _ => 0

/-- Time passes until a connection's bucket holds the tokens of a frame, and they are taken (R351). -/
def Chip.takeTokens (c : Chip) (k n : Nat) : Chip :=
  let r := (c.connAt k).rate.fill c.fabric
  let d := c.passTo srcFabric (c.fabric + r.waitFor (min n 65536))
  let r1 := r.fill d.fabric
  let x := d.connAt k
  d.setConn k { x with rate := { r1 with tokens := r1.tokens - n } }

/-- A number of tenths of Gb/s as FP32. -/
def tenths (n : Nat) : Nat := (divF fp32F (fp32OfNat n) (fp32OfNat 10)).bits

/-- The greater of two FP32 values. -/
def max32 (a b : Nat) : Nat := if ltV (decodeF fp32F a) (decodeF fp32F b) then b else a
/-- The lesser of two FP32 values. -/
def min32 (a b : Nat) : Nat := if ltV (decodeF fp32F b) (decodeF fp32F a) then b else a

/-- The update of R351 with the period's marks and units. -/
def Chip.rateStep (c : Chip) (r : Rate) (rmax ce units now : Nat) : Rate :=
  let mul := fun a b => (mulF fp32F 0 a b).bits
  let add := fun a b => (addF fp32F 0 a b).bits
  let sub := fun a b => (subF fp32F 0 a b).bits
  let half := 0x3F000000
  let g := (127 - c.rf 0xA00008 23 20) * 2 ^ 23
  let f := (divF fp32F (fp32OfNat ce) (fp32OfNat (max units 1))).bits
  let alpha := add (mul (sub one32 g) r.alpha) (mul g f)
  let r1 := { r.fill now with alpha := alpha, ce := 0, units := 0, per := now }
  if 0 < ce then
    { r1 with rt := r.rc, rc := max32 (tenths (c.rf 0xA00008 57 48)) (mul r.rc (sub one32 (mul alpha half))) }
  else
    let rt := min32 rmax (add r.rt (tenths (c.rf 0xA00008 41 32)))
    { r1 with rt := rt, rc := mul (add r.rc rt) half }

/-! Timers (R348) -/

/-- RTO of a connection (R348). -/
def HSend.rto (s : HSend) : Nat :=
  match s.rtt with
  | some (srtt, var) => clampN (srtt + 4 * var) 15000 6000000
  | none => 30000

/-- A round trip sampled, with the gains 1/8 and 1/4; the first sample sets both (R348, assumption 18). -/
def HSend.sample (s : HSend) (r : Nat) : HSend :=
  match s.rtt with
  | none => { s with rtt := some (r, r / 2) }
  | some (srtt, var) =>
    let err := if srtt ≤ r then r - srtt else srtt - r
    { s with rtt := some ((7 * srtt + r) / 8, (3 * var + err) / 4) }

/-! Transmission (R340, R346 to R349) -/

/-- A packet transmitted again on its next path with RETX (R340, R348). -/
def Chip.retransmit (c : Chip) (k psn full : Nat) : Chip :=
  let x := c.connAt k
  match x.tx.tx.find? (fun p => p.psn == psn) with
  | none => c
  | some p =>
    match c.retxPath x p full with
    | none => c
    | some path =>
      let peer := x.peers.getD ((c.addrOf x path.1).getD 0) 0
      let d := c.takeTokens k (c.frameLen path.1 peer (16 + p.hdr.length + p.payload.length))
      let y := d.connAt k
      let bs := y.packet (8 * b2n p.poison + 4 + 2 * b2n p.now) p.op p.psn p.hdr p.payload
      let q := { p with sub := path.1, addr := (c.addrOf x path.1).getD 0, ent := path.2, at_ := d.fabric, due := d.fabric + p.rto
                        tries := p.tries + 1, rnr := false, now := false }
      (d.setConn k { y with tx := { y.tx with tx := y.tx.tx.map (fun t => if t.psn = psn then q else t)
                                              retx := y.tx.retx.filter (· != psn) } }).sendOn k path bs

/-- The operation header of the next packet of a message that carries `n` bytes (Table 13.3). -/
def HMsg.hdr (m : HMsg) : List Byte :=
  match m.op with
  | 0x01 => beBytes 4 m.key ++ zeros 4 ++ beBytes 8 m.off
  | 0x03 => beBytes 4 m.key ++ beBytes 4 m.val ++ beBytes 8 m.off
  | 0x04 => beBytes 2 m.key ++ zeros 6 ++ beBytes 8 m.off
  | 0x05 => beBytes 8 m.off
  | 0x06 => beBytes 2 m.key ++ zeros 2 ++ beBytes 4 m.val
  | _ => []

/-- The bytes that the next packet of a message carries: at most 4,096, not across a 4,096-byte boundary of the remote
offset (14 R548). -/
def HMsg.chunk (m : HMsg) : Nat :=
  match m.op with
  | 0x02 => 0
  | 0x05 => m.left
  | 0x06 => 0
  | _ => min m.left (4096 - m.off % 4096)

/-- A message whose next packet has been formed: what is left of it, if anything. -/
def HMsg.advance (m : HMsg) (n : Nat) : Option HMsg :=
  if m.left ≤ n then none
  else some { m with left := m.left - n, off := (m.off + n) % 2 ^ 64, va := m.va + n, data := m.data.map (·.drop n) }

/-- The failure of an owner remembered, the first one (14 R548, Table 14.7). -/
def HSend.fail (s : HSend) (o : HOwner) (status detail : Nat) : HSend :=
  if s.fails.any (fun f => f.1 == o) then s else { s with fails := s.fails ++ [(o, status, detail)] }

/-- What an owner was sent for has ended: a descriptor completes, with the status of its first failure, unless its READ
still waits for responses; a ledge command hears of its mirror write. -/
def Chip.ownerDone (c : Chip) (k : Nat) (o : HOwner) : Chip :=
  let x := c.connAt k
  if x.tx.holds o then c
  else
    let fail := (x.tx.fails.find? (fun f => f.1 == o)).map (·.2)
    let d := c.setConn k { x with tx := { x.tx with fails := x.tx.fails.filter (fun f => f.1 != o) } }
    match o with
    | .desc key =>
      match fail with
      | some f =>
        (d.setConn k { d.connAt k with tx := { (d.connAt k).tx with reads := (d.connAt k).tx.reads.filter (fun r => r.key != key) } }).finish
          key f.1 f.2
      | none => if x.tx.reads.any (fun r => r.key == key) then d else d.finish key 0 0
    | .mirror key b => d.mirrorSettled key b fail.isNone
    | .version key => d.versionSettled key fail.isNone
    | .resp _ => d

/-- A packet's final status: DONE, or a NAK status (R344), which fails its owner with NAK, or with VERSION_SKEW of its own (11 R310,
14 Table 14.7). -/
def Chip.settlePsn (c : Chip) (k psn code detail : Nat) : Chip :=
  let x := c.connAt k
  match x.tx.tx.find? (fun p => p.psn == psn) with
  | none => c
  | some p =>
    let s := { x.tx with tx := x.tx.tx.filter (fun t => t.psn != psn), retx := x.tx.retx.filter (· != psn) }
    let s1 := if code = 0 then s else if code = 9 then s.fail p.owner 0x0D detail else s.fail p.owner 0x15 (code + 2 ^ 8 * (detail % 2 ^ 56))
    let d := c.setConn k { x with tx := s1, rate := { x.rate with units := x.rate.units + (p.payload.length + 63) / 64 } }
    let e := match p.owner with
      | .mirror key _ => if code = 0 then d else d.mirrorRefused k key
      | _ => d
    e.ownerDone k p.owner

/-- A message whose bytes cannot be read ends with the fault's status (03 R546, R83). -/
def Chip.msgFails (c : Chip) (k : Nat) (m : HMsg) (f : VFault) : Chip :=
  let x := c.connAt k
  let s := { x.tx with msgs := x.tx.msgs.drop 1 }
  (c.setConn k { x with tx := s.fail m.owner f.kind.code f.detail }).ownerDone k m.owner

/-- The first message's next packet sent as a new one, when window, credit and a path allow (R340, R342, R349, R351). -/
def Chip.sendNew (c : Chip) (k full : Nat) : Chip :=
  let x := c.connAt k
  match x.tx.msgs, c.newPath x full with
  | m :: rest, some path =>
    let n := m.chunk
    let units := (n + 63) / 64
    if !seqGe ((x.tx.scum + 1023) % 2 ^ 32) x.tx.next || (n != 0 && !seqGe x.tx.limit ((x.tx.sent + units) % 2 ^ 32)) then c
    else
      let sp := c.spanLines fdTlb m.ctx m.va n false
      let got := match m.data with
        | some bs => (bs.take n, m.poison)
        | none => ((c.mem.gather sp).1, (c.mem.gather sp).2.isSome)
      let c1 := if m.data.isSome ∨ n = 0 then c else c.used fdTlb srcFabric sp
      if m.data.isNone && n != 0 && sp.fault.isSome then
        match sp.fault with
        | some f => c1.msgFails k m f
        | none => c1
      else
        let hdr := if m.op = 0x02 then m.data.getD [] else m.hdr
        let pay := if m.op = 0x02 ∨ m.op = 0x06 then [] else got.1
        let peer := x.peers.getD ((c.addrOf x path.1).getD 0) 0
        let c2 := c1.takeTokens k (c.frameLen path.1 peer (16 + hdr.length + pay.length))
        let y := c2.connAt k
        let now := c2.fabric
        let p : HTx :=
          { psn := y.tx.next, op := m.op, hdr := hdr, payload := pay, poison := got.2, owner := m.owner, sub := path.1
            addr := (c.addrOf x path.1).getD 0, ent := path.2, at0 := now, at_ := now, disp0 := c2.dispatch, rto := y.tx.rto
            due := now + y.tx.rto, rnr := false, tries := 0, now := false }
        let reads := match m.op, m.owner with
          | 0x02, .desc key => y.tx.reads ++ [{ psn := y.tx.next, key := key, lkey := m.key, len := m.val, got := 0 }]
          | _, _ => y.tx.reads
        let bs := y.packet (8 * b2n got.2) m.op y.tx.next hdr pay
        let z := { y with tx := { y.tx with
                     next := (y.tx.next + 1) % 2 ^ 32, sent := (y.tx.sent + units) % 2 ^ 32, tx := y.tx.tx ++ [p]
                     msgs := ((if m.op = 0x02 ∨ m.op = 0x06 then none else m.advance n).toList) ++ rest
                     pos := some path, changed := false, reads := reads } }
        (c2.setConn k z).sendOn k path bs
  | _, _ => c

/-- PACKET_SEND (R340, R348, R352): what is queued for retransmission goes first, then the next new packet. `full` names the
sub-ports whose transmit queue holds more than 256 KiB. -/
def Chip.doPacketSend (c : Chip) (k : Nat) (full : BitVec 32) : Chip :=
  let x := c.connAt k
  if x.st = .open_ then
    match x.tx.retx with
    | psn :: _ => c.retransmit k psn full.toNat
    | [] => c.sendNew k full.toNat
  else c

/-- A path that has timed out twice in succession quarantined for 1 ms; when every path is, all are lifted (R341). -/
def Chip.strike (c : Chip) (k sub ent : Nat) : Chip :=
  let x := c.connAt k
  let n := tabGet 0 x.tx.strikes (16 * sub + ent) + 1
  if n < 2 then c.setConn k { x with tx := { x.tx with strikes := tabSet x.tx.strikes (16 * sub + ent) n } }
  else
    let quar := x.tx.quar ++ [(sub, ent, c.dispatch + msDispatch)]
    let all := c.allQuarantined { x with tx := { x.tx with quar := quar } }
    let d := c.setConn k { x with tx := { x.tx with strikes := tabDel x.tx.strikes (16 * sub + ent), quar := if all then [] else quar } }
    d.setPort sub { d.portAt sub with quarantines := (d.portAt sub).quarantines + 1 }

/-- RETX_TIMEOUT (R341, R348): a packet's timer expires; it is retransmitted with RETX and its timeout doubles, unless an RNR
delayed it. -/
def Chip.doRetxTimeout (c : Chip) (k : Nat) (psn : BitVec 32) : Chip :=
  let x := c.connAt k
  match x.tx.tx.find? (fun p => p.psn == psn.toNat) with
  | none => c
  | some p =>
    if x.st ≠ .open_ then c
    else
      let d := c.passTo srcFabric p.due
      let e := if p.rnr then d else d.strike k p.sub p.ent
      let y := e.connAt k
      let rto := if p.rnr then p.rto else min (2 * p.rto) 6000000
      (e.setConn k { y with tx := { y.tx with tx := y.tx.tx.map (fun t => if t.psn = psn.toNat then { t with rto := rto } else t) } }).retransmit
        k psn.toNat 0

/-- QUARANTINE_END (R341): a path's 1 ms is over. -/
def Chip.doQuarantineEnd (c : Chip) (k sub ent : Nat) : Chip :=
  let x := c.connAt k
  match x.tx.quar.find? (fun q => q.1 == sub && q.2.1 == ent) with
  | some q =>
    let d := c.passTo srcDispatch q.2.2
    d.setConn k { x with tx := { x.tx with quar := x.tx.quar.filter (fun z => !(z.1 == sub && z.2.1 == ent)) } }
  | none => c

/-- The rate of a connection updated from its marks (R351). -/
def Chip.connRate (c : Chip) (k : Nat) : Chip :=
  let x := c.connAt k
  if x.st = .open_ then
    let d := c.passTo srcFabric (x.rate.per + c.rf 0xA00008 17 0)
    d.setConn k { x with rate := d.rateStep x.rate (d.rMax x) x.rate.ce x.rate.units d.fabric }
  else c

/-! Posting from descriptors (14 Table 14.5 HAUL_POST, SENDI, HAUL_READ) -/

/-- The message of a descriptor that a connection carries. -/
def Desc.message (d : Desc) : HMsg :=
  let base : HMsg := { owner := .desc d.key, op := 0, ctx := d.ctx, va := 0, data := none, left := 0, key := 0, off := 0, val := 0
                       poison := false }
  match d.op with
  | 0x33 =>
    { base with op := d.f 20 1, va := d.f 24 8, left := if d.f 20 1 = 6 then 1 else d.f 32 8, key := d.f 40 4, val := d.f 44 4
                off := d.f 48 8 }
  | 0x34 => { base with op := 0x05, data := some (d.data.take (d.f 20 2)), left := d.f 20 2, off := d.f 24 8 }
  | _ =>
    let hdr := beBytes 4 (d.f 24 4) ++ beBytes 4 (d.f 20 4) ++ beBytes 8 (d.f 32 8) ++ beBytes 4 (d.f 28 4) ++
      beBytes 4 (d.f 48 1 % 2) ++ beBytes 8 (d.f 40 8) ++ beBytes 8 (d.f 56 8)
    { base with op := 0x02, data := some hdr, left := 1, key := d.f 28 4, val := d.f 20 4 }

/-- A descriptor that waits for its connection to open (14 R548). -/
def Desc.awaits (d : Desc) (k : Nat) : Bool := d.st == .started && d.aux == [k]

/-- The descriptors that waited are carried out now that the connection is OPEN. -/
def Chip.postWaiting (c : Chip) (k : Nat) : Chip :=
  (c.cm.descs.filter (fun d => d.awaits k)).foldl (fun (x : Chip) d => (x.setDesc { d with aux := [] }).haulPost k d.message) c

/-- The descriptors that waited complete with CONN_LOST. -/
def Chip.dropWaiting (c : Chip) (k : Nat) : Chip :=
  (c.cm.descs.filter (fun d => d.awaits k)).foldl (fun (x : Chip) d => x.finish d.key 0x0E k) c

/-! Receive credit (R349) -/

/-- Payload units of FD's receive buffer. -/
def bufferUnits : Nat := 2 ^ 20

/-- The credit outstanding to a connection. -/
def Conn.outstanding (x : Conn) : Nat := if x.st = .open_ ∨ x.st = .connecting then sub32 x.rx.limit x.rx.acc else 0

/-- F for a connection: free units less the credit outstanding to every other. -/
def Chip.freeUnits (c : Chip) (k : Nat) : Nat :=
  let held := c.fab.conn.foldl (fun a p => a + sub32 p.2.rx.acc p.2.rx.left) 0
  let others := c.fab.conn.foldl (fun a p => if p.1 = k then a else a + p.2.outstanding) 0
  bufferUnits - held - others

/-- A connection's credit limit raised as R349 gives. -/
def Chip.raiseCredit (c : Chip) (k : Nat) : Chip :=
  let x := c.connAt k
  let a := (x.rx.left + x.creditMax / 64) % 2 ^ 32
  let b := (x.rx.acc + c.freeUnits k) % 2 ^ 32
  let t := if seqGe a b then b else a
  if seqGe t x.rx.limit then c.setConn k { x with rx := { x.rx with limit := t } } else c

/-- The limits of every OPEN connection raised, since D or F has changed (R349). -/
def Chip.raiseAll (c : Chip) : Chip := c.fab.conn.foldl (fun (d : Chip) p => if p.2.st = .open_ then d.raiseCredit p.1 else d) c

/-! Loss of a connection (R339) -/

/-- The owners of what a connection has not settled. -/
def HSend.owners (s : HSend) : List HOwner :=
  (s.msgs.map (·.owner) ++ s.tx.map (·.owner) ++ s.reads.map (fun r => HOwner.desc r.key)).foldl
    (fun l o => if l.contains o then l else l ++ [o]) []

/-- Everything that a connection has not settled ends with CONN_LOST. -/
def Chip.abandon (c : Chip) (k : Nat) : Chip :=
  let x := c.connAt k
  let d := c.setConn k { x with tx := { x.tx with msgs := [], tx := [], retx := [], reads := [], fails := [] } }
  x.tx.owners.foldl (fun (e : Chip) o =>
    match o with
    | .desc key => e.finish key 0x0E k
    | .mirror key b => e.mirrorSettled key b false
    | .version key => e.versionSettled key false
    | .resp _ => e) d

/-- A region entry whose withdrawal waits is free once no packet uses it (R357). -/
def Chip.settleRegion (c : Chip) (r : Nat) : Chip :=
  let e := c.regionAt r
  match e.closing with
  | some key =>
    if c.fab.conn.any (fun p => p.2.rx.slots.any (fun s => s.2.st != .complete && s.2.region == some r)) then c
    else (c.setRegion r { e with closing := none }).finish key 0 0
  | none => c

/-- Every withdrawal that waits looked at. -/
def Chip.settleRegions (c : Chip) : Chip := c.fab.region.foldl (fun (d : Chip) p => d.settleRegion p.1) c

end Sys2Proof.Machine
end

