-- ==== Sys2Proof/Machine/Haul.lean ====
section
/-!
DEFINITION. What the fabric receives (13): frames and their parsing, Haul packets by operation, their placement, completion
and acknowledgement, connections opening and closing, port failure and failover. The layouts of Ethernet, IPv4, IPv6, UDP, ARP
and neighbour discovery are those of their standards (assumption 19).
-/

namespace Sys2Proof.Machine

/-! Frames (R332, R334) -/

/-- A parsed IP packet: source and destination addresses (IPv4 as IPv4-mapped IPv6), CE mark, protocol, UDP ports, and the
bytes after the UDP header (or after the IP header when it is not UDP). -/
structure Pkt where
  src : Nat
  dst : Nat
  ce : Bool
  proto : Nat
  sport : Nat
  dport : Nat
  bytes : List Byte

/-- The EtherType of a frame and the bytes after it, an 802.1Q tag, whatever its VID, passed over where the sub-port accepts one
(DESIGN CHOICE, assumption 112). -/
def etherOf (tagged : Bool) (f : List Byte) : Nat × List Byte :=
  if tagged = true ∧ fieldBE f 12 2 = 0x8100 then (fieldBE f 16 2, f.drop 18) else (fieldBE f 12 2, f.drop 14)

/-- The source MAC of a frame. -/
def srcMac (f : List Byte) : Nat := fieldBE f 6 6

/-- The transport part of an IP packet. -/
def udpOf (src dst proto : Nat) (ce : Bool) (b : List Byte) : Pkt :=
  if proto = 17 then
    { src := src, dst := dst, ce := ce, proto := 17, sport := fieldBE b 0 2, dport := fieldBE b 2 2
      bytes := (b.take (fieldBE b 4 2)).drop 8 }
  else { src := src, dst := dst, ce := ce, proto := proto, sport := 0, dport := 0, bytes := b }

/-- The IP packet in a frame, if there is one. -/
def ipOf (tagged : Bool) (f : List Byte) : Option Pkt :=
  let e := etherOf tagged f
  let b := e.2
  if e.1 = 0x0800 ∧ fieldBE b 0 1 / 16 = 4 then
    some (udpOf (0xFFFF * 2 ^ 32 + fieldBE b 12 4) (0xFFFF * 2 ^ 32 + fieldBE b 16 4) (fieldBE b 9 1) (fieldBE b 1 1 % 4 == 3)
      (b.drop (4 * (fieldBE b 0 1 % 16))))
  else if e.1 = 0x86DD ∧ fieldBE b 0 1 / 16 = 6 then
    some (udpOf (fieldBE b 8 16) (fieldBE b 24 16) (fieldBE b 6 1) (bits (fieldBE b 1 1) 5 4 == 3) (b.drop 40))
  else none

/-- A frame arrives at a sub-port that is up: one with a bad FCS or over 9,216 bytes is discarded and counted (R332). -/
def Chip.frameIn (c : Chip) (sub : Nat) (f : Frame) : Chip × Bool :=
  let p := c.portAt sub
  if !p.up then (c, false)
  else if !f.fcsOk then (c.setPort sub { p with badFcs := p.badFcs + 1 }, false)
  else if 9216 < f.bytes.length then (c.setPort sub { p with dropped := p.dropped + 1 }, false)
  else (c.setPort sub { p with frames := p.frames + 1 }, true)

/-- The Haul packet in a frame: UDP to the Haul port (R334). -/
def Chip.haulOf (c : Chip) (sub : Nat) (f : Frame) : Option Pkt :=
  match ipOf (c.tagged sub) f.bytes with
  | some p => if p.proto = 17 ∧ p.dport = c.haulUdp then some p else none
  | none => none

/-! The format of packets (R334 to R336) -/

/-- The length of an operation's header; none for an operation that Table 13.3 does not list. -/
def hdrLen (op : Nat) : Option Nat :=
  match op with
  | 0x01 | 0x03 | 0x04 | 0x10 | 0x11 | 0x20 | 0x21 => some 16
  | 0x02 => some 40
  | 0x05 | 0x06 | 0x22 => some 8
  | 0x23 => some 4
  | _ => none

/-- The operation header's and PLEN's rules (Table 13.3). -/
def haulFieldsBad (op plen : Nat) (h : List Byte) : Bool :=
  match op with
  | 0x01 => fieldBE h 4 4 != 0 || plen == 0 || decide (4096 < plen)
  | 0x02 => fieldBE h 4 4 == 0 || decide (2 ^ 24 < fieldBE h 4 4) || decide (1 < fieldBE h 20 4) ||
      (fieldBE h 20 4 == 0 && fieldBE h 32 8 != 0) || plen != 0
  | 0x03 => plen == 0 || decide (4096 < plen)
  | 0x04 => decide (4096 ≤ fieldBE h 0 2) || !zeroAt h 2 6 || fieldBE h 8 8 % 4 != 0 || plen % 4 != 0 || plen == 0 ||
      decide (4096 < plen)
  | 0x05 => plen % 32 != 0 || plen == 0 || decide (4096 < plen)
  | 0x06 => fieldBE h 2 2 != 0 || fieldBE h 4 4 == 0 || plen != 0
  | 0x10 => fieldBE h 14 2 != 0 || decide (1024 < fieldBE h 12 2) || fieldBE h 12 2 % 4 != 0 || plen != fieldBE h 12 2 / 4
  | 0x11 => !zeroAt h 5 3 || plen != 0
  | _ => plen != 0

/-- A packet is malformed (R336). -/
def haulBad (b : List Byte) : Bool :=
  match hdrLen (fieldBE b 1 1) with
  | none => true
  | some n =>
    decide (b.length < 16 + n + fieldBE b 2 2) || fieldBE b 0 1 / 16 != 1 || fieldBE b 0 1 % 2 == 1 ||
      haulFieldsBad (fieldBE b 1 1) (fieldBE b 2 2) ((b.drop 16).take n)

/-- The operation header of a well-formed packet. -/
def haulHdr (b : List Byte) : List Byte := (b.drop 16).take ((hdrLen (fieldBE b 1 1)).getD 0)
/-- Its payload. -/
def haulPay (b : List Byte) : List Byte := (b.drop (16 + (hdrLen (fieldBE b 1 1)).getD 0)).take (fieldBE b 2 2)

/-- A malformed packet discarded and counted (R336). -/
def Chip.malformed (c : Chip) (sub : Nat) : Chip := c.setPort sub { c.portAt sub with malformed := (c.portAt sub).malformed + 1 }

/-- W moved up to a packet's SCUM; the slots below it are freed (R342). -/
def HRecv.slide (r : HRecv) (scum : Nat) : HRecv :=
  if scum = r.w ∨ !seqGe scum r.w then r
  else { r with w := scum, slots := r.slots.filter (fun s => seqGe s.1 scum) }

/-- A packet of an operation on an OPEN connection: counted when malformed or stale, else handed to `f` with its connection
(R336, R342). -/
def Chip.haulIn (c : Chip) (sub : Nat) (f : Frame) (op : Nat) (g : Chip → Nat → Pkt → Chip) : Chip :=
  match c.haulOf sub f with
  | none => c
  | some p =>
    if fieldBE p.bytes 1 1 ≠ op then c
    else
      let r := c.frameIn sub f
      if !r.2 then r.1
      else if haulBad p.bytes then r.1.malformed sub
      else
        let k := fieldBE p.bytes 4 2
        let x := r.1.connAt k
        if x.st ≠ .open_ ∨ 16384 ≤ k ∨ x.epoch ≠ fieldBE p.bytes 6 2 then
          r.1.setPort sub { r.1.portAt sub with stale := (r.1.portAt sub).stale + 1 }
        else
          let units := (fieldBE p.bytes 2 2 + 63) / 64
          let rx := { x.rx.slide (fieldBE p.bytes 12 4) with last := r.1.dispatch }
          g (r.1.setConn k { x with rx := if p.ce then { rx with ce := (rx.ce + units) % 2 ^ 32 } else rx }) k p

/-! Regions (R356, R357) -/

/-- A region named by a key, for Haul (`proto` 2) or RoCEv2 (3), with a permission (0 write, 1 read) and a range: the NAK code
and DETAIL of Table 13.4, or the entry's number and the entry. -/
def Chip.regionFor (c : Chip) (ctx key off len perm proto : Nat) : Except (Nat × Nat) (Nat × FdRegion) :=
  let n := key / 65536
  let e := c.regionAt n
  if !e.valid || e.closing.isSome || e.check != key % 65536 || e.ctx != ctx then .error (1, key)
  else if e.len < off + len then .error (2, off)
  else if !bit e.perm perm || !bit e.perm proto then .error (3, key)
  else .ok (n, e)

/-! Placement (R343 to R347, R354, R355, 11 R293) -/

/-- What a packet's effects come to: a final code and DETAIL (0: DONE), and the region entry it uses. -/
structure Outcome where
  code : Nat
  detail : Nat
  region : Option Nat

/-- A plain outcome. -/
def Outcome.of (code detail : Nat) : Outcome := { code := code, detail := detail, region := none }

/-- A payload placed through a region (R356, R357). -/
def Chip.placeRegion (c : Chip) (ctx key off : Nat) (bs : List Byte) (bad : Bool) (proto : Nat) : Chip × Outcome :=
  match c.regionFor ctx key off bs.length 0 proto with
  | .error e => (c, .of e.1 e.2)
  | .ok (n, e) =>
    let s := c.spanLines fdTlb e.ctx (e.vbase + off) bs.length true
    let d := c.used fdTlb srcFabric s
    match s.fault with
    | some f => (d, { code := 4, detail := if f.kind = .poison then e.vbase + off else f.detail, region := some n })
    | none => (d.scatter s bs bad e.hint, { code := 0, detail := 0, region := some n })

/-- The element mask of a payload line, and its addends. -/
def accMask (boff n : Nat) (bs : List Byte) (line : Nat) : Nat × List Nat :=
  (List.range 16).foldl (fun (acc : Nat × List Nat) i =>
    let a := 64 * line + 4 * i
    if boff ≤ a ∧ a < boff + n then (acc.1 + 2 ^ i, acc.2 ++ [fieldLE bs (a - boff) 4]) else (acc.1, acc.2 ++ [0])) (0, [])

/-- An ACCUMULATE-FP32 payload presented line by line to the bucket's home (10 R251, 11 R293; R344). -/
def Chip.placeAcc (c : Chip) (tag boff : Nat) (bs : List Byte) (bad : Bool) : Chip × Outcome :=
  let b := c.bucketAt tag
  let lines := (List.range ((boff + bs.length + 63) / 64 - boff / 64)).map (fun i => boff / 64 + i)
  let inside := fun (l : Nat) => b.accepting && decide (64 * l < b.len)
  let places := lines.map (fun l => if inside l then c.place fdTlb b.ctx (b.base + 64 * l) true else .ok (2 ^ 52, ⟨0, 0, 0, 0, 0⟩))
  match places.findSome? (fun p => match p with | .error f => some f | .ok _ => none) with
  | some f => (c.used fdTlb srcFabric { pieces := [], ents := [], fault := some f }, .of 4 (if f.kind = .poison then b.base + boff else f.detail))
  | none =>
    let ents := places.filterMap (fun p => match p with | .ok (pa, e) => if pa < 2 ^ 52 then some e else none | .error _ => none)
    let c1 := c.tlbFill fdTlb ents
    (lines.zip places).foldl (fun (acc : Chip × Outcome) q =>
      match q.2 with
      | .error _ => acc
      | .ok (pa, _) =>
        let m := accMask boff bs.length bs q.1
        let r := acc.1.contribute tag pa m.1 m.2 bad none srcFabric 0
        let o := acc.2
        (r.1, if r.2 = 2 then (if o.code = 7 then o else .of 7 (b.base + 64 * q.1))
              else if r.2 = 1 then (if o.code = 0 then .of 5 tag else o) else o)) (c1, .of 0 0)

/-- The free slots of a receive ring that is ACTIVE (14 R383). -/
def Chip.recvRoom (c : Chip) (cq : Nat) : Nat :=
  let q := c.cqAt cq
  if q.st = .active ∧ q.recv then q.room else 0

/-- The slots that a received message takes: its record and its payload (14 R383). -/
def recvSlots (n : Nat) : Nat := 1 + (n + 31) / 32

/-- A message written to a receive ring: the payload slots first, then its RECEIVED record, once the payload is visible: in a remote
commander's memory when the last of its transactions completes (14 R362, R382, R383). -/
def Chip.recvWrite (c : Chip) (cq tag detail ctx : Nat) (bs : List Byte) : Chip :=
  let q := c.cqAt cq
  let n := (bs.length + 31) / 32
  let f : Fin_ :=
    { ev := true, sq := 0, cq := cq, cm := q.cm, epoch := (c.cmAt q.cm).epoch, tag := tag, op := 0x82, status := 0
      ctxf := ctx % 64, detail := detail, src := srcDispatch, restarts := c.restarts srcDispatch, count := c.dispatch
      dso := none, key := 0 }
  let then_ : CxlUse := .payload c.cxl.next (q.base + 32 * (q.w % ringSize q.log2)) { rcd := f, prior := false } q.phase
  let put := fun (d : Chip) (i : Nat) =>
    let a := q.base + 32 * ((q.w + 1 + i) % ringSize q.log2)
    let part := (bs.drop (32 * i)).take 32
    let slot := part ++ zeros (32 - part.length)
    if q.cm = 0 then d.devWrite srcFabric a slot q.hint else d.cxlAsk q.cm a (some slot) then_
  let d := (List.range n).foldl put c
  let e := if q.cm = 0 ∨ n = 0 then d.writeRecord { rcd := f, prior := false } else d
  e.setCq cq { e.cqAt cq with w := (q.w + 1 + n) % 2 ^ 32 }

/-- A SEND-TO-RING payload to RXRING; RNR when it does not fit (14 R383). -/
def Chip.placeSend (c : Chip) (k tag : Nat) (bs : List Byte) : Chip × Outcome :=
  let x := c.connAt k
  if c.recvRoom x.rxring < recvSlots bs.length then (c, .of 8 0)
  else (c.recvWrite x.rxring tag (bs.length + 2 ^ 16 * k) x.ctx bs, .of 0 0)

/-- A SIGNAL applied to its object (03 R85, R346). -/
def Chip.placeSignal (c : Chip) (k so value : Nat) : Chip × Outcome :=
  if c.soAllowed (c.connAt k).ctx so then (c.soSignal so value, .of 0 0)
  else (c.modSo (fun s => { s with haulDropped := s.haulDropped + 1 }), .of 6 so)

/-- A READ served (R354, R355, 11 R310): the responses are posted; a version-checked one takes its hold first. -/
def Chip.placeRead (c : Chip) (k psn : Nat) (h : List Byte) : Chip × Outcome :=
  let x := c.connAt k
  let key := fieldBE h 0 4
  let len := fieldBE h 4 4
  let off := fieldBE h 8 8
  match c.regionFor x.ctx key off len 1 2 with
  | .error e => (c, .of e.1 e.2)
  | .ok (n, e) =>
    let s := c.spanPages fdTlb e.ctx (e.vbase + off) len false
    let d := c.used fdTlb srcFabric s
    let post := fun (d : Chip) => d.haulPost k
      { owner := .resp psn, op := 0x03, ctx := e.ctx, va := e.vbase + off, data := none, left := len, key := fieldBE h 16 4
        off := fieldBE h 24 8, val := psn, poison := false }
    match s.fault with
    | some f => (d, { code := 4, detail := if f.kind = .poison then e.vbase + off else f.detail, region := some n })
    | none =>
      if fieldBE h 20 4 = 0 then (post d, { code := 0, detail := 0, region := some n })
      else if e.version = 0 then (d, { code := 3, detail := key, region := some n })
      else match d.versionAt fdTlb e.ctx e.version with
        | .error _ => (d, { code := 4, detail := e.version, region := some n })
        | .ok (pa, v, holds) =>
          let want := fieldBE h 32 8
          if want < 2 ^ 62 ∧ v = want then
            let g := d.storeHint (pa + 8) (leBytes 4 (holds + 1)) false 0
            let y := g.connAt k
            (post (g.setConn k { y with rx := { y.rx with holds := tabSet y.rx.holds psn (e.ctx, e.version) } }),
              { code := 0, detail := 0, region := some n })
          else (d.meet (rangeLines pa 12) false, { code := 9, detail := v, region := some n })

/-- A version-checked READ meets HOLDS at its greatest value, and waits (11 R310). -/
def Chip.readWaits (c : Chip) (k : Nat) (h : List Byte) : Bool :=
  match c.regionFor (c.connAt k).ctx (fieldBE h 0 4) (fieldBE h 8 8) (fieldBE h 4 4) 1 2 with
  | .ok (_, e) =>
    if fieldBE h 20 4 = 1 ∧ e.version ≠ 0 then
      match c.versionAt fdTlb e.ctx e.version with
      | .ok (_, v, holds) => decide (v = fieldBE h 32 8) && decide (v < 2 ^ 62) && decide (holds = 2 ^ 32 - 1)
      | .error _ => false
    else false
  | .error _ => false

/-- A response placed through LKEY at the requester; one that matches no outstanding READ is discarded and counted (R354). -/
def Chip.placeResp (c : Chip) (k : Nat) (h bs : List Byte) (bad : Bool) : Chip × Outcome :=
  let x := c.connAt k
  match x.tx.reads.find? (fun r => r.psn == fieldBE h 4 4) with
  | none => (c.modFab (fun f => { f with stray := f.stray + 1 }), .of 0 0)
  | some r =>
    let res := c.placeRegion x.ctx (fieldBE h 0 4) (fieldBE h 8 8) bs bad 2
    if res.2.code ≠ 0 then res
    else
      let y := res.1.connAt k
      let got := r.got + bs.length
      let rest := y.tx.reads.filter (fun z => z.psn != r.psn)
      let all := decide (r.len ≤ got)
      let d := res.1.setConn k { y with tx := { y.tx with reads := if all then rest else rest ++ [{ r with got := got }] } }
      (if all && !(d.connAt k).tx.holds (.desc r.key) then d.finish r.key 0 0 else d, res.2)

/-- The effects of a sequenced packet. -/
def Chip.placePacket (c : Chip) (k psn op : Nat) (h bs : List Byte) (bad : Bool) : Chip × Outcome :=
  match op with
  | 0x01 => c.placeRegion (c.connAt k).ctx (fieldBE h 0 4) (fieldBE h 8 8) bs bad 2
  | 0x02 => c.placeRead k psn h
  | 0x03 => c.placeResp k h bs bad
  | 0x04 => c.placeAcc (fieldBE h 0 2) (fieldBE h 8 8) bs bad
  | 0x05 => c.placeSend k (fieldBE h 0 8) bs
  | _ => c.placeSignal k (fieldBE h 0 2) (fieldBE h 4 4)

/-- Every PSN of the window below one has completed at the receiver (R346). -/
def HRecv.allBelow (r : HRecv) (psn : Nat) : Bool :=
  (List.range (sub32 psn r.w)).all (fun i => r.state ((r.w + i) % 2 ^ 32) != 0)

/-- A packet must wait before it is applied: a SIGNAL or SEND-TO-RING for the PSNs below it (R346), a gather for a hold. -/
def Chip.mustWait (c : Chip) (k psn op : Nat) (h : List Byte) : Bool :=
  ((op == 0x05 || op == 0x06) && !(c.connAt k).rx.allBelow psn) || (op == 0x02 && c.readWaits k h)

/-- A slot of a connection set. -/
def Chip.setSlot (c : Chip) (k psn : Nat) (s : RxSlot) : Chip :=
  let x := c.connAt k
  c.setConn k { x with rx := { x.rx with slots := tabSet x.rx.slots psn s } }

/-- A waiting slot's packet applied. -/
def Chip.applySlot (c : Chip) (k psn : Nat) (s : RxSlot) : Chip :=
  let r := c.placePacket k psn s.op s.hdr s.payload s.poison
  r.1.setSlot k psn { s with st := .placed, code := r.2.code, detail := r.2.detail, region := r.2.region }

/-- The waiting packets of a connection whose turn has come are applied, in rising order of PSN. -/
def Chip.release (c : Chip) (k : Nat) : Chip :=
  (c.connAt k).rx.slots.foldl (fun (d : Chip) q =>
    match tabFind (d.connAt k).rx.slots q.1 with
    | some s => if s.st = .waiting ∧ !d.mustWait k q.1 s.op s.hdr then d.applySlot k q.1 s else d
    | none => d) c

/-- Every connection's waiting packets looked at: the HOLDS of some version block have fallen (11 R310). -/
def Chip.releaseAll (c : Chip) : Chip := c.fab.conn.foldl (fun (d : Chip) p => d.release p.1) c

/-- The gathers of a connection are abandoned: each hold that they took falls (11 R310). -/
def Chip.letGo (c : Chip) (k : Nat) : Chip :=
  let x := c.connAt k
  if x.rx.holds.isEmpty then c
  else (x.rx.holds.foldl (fun (d : Chip) h => d.holdDown h.2.1 h.2.2) (c.setConn k { x with rx := { x.rx with holds := [] } })).releaseAll

/-- A connection enters LOST (R339): logged, reported to its context's ring, everything without final status ends with
CONN_LOST, and its gathers are abandoned. -/
def Chip.connLose (c : Chip) (k : Nat) : Chip :=
  let x := c.connAt k
  if x.st = .open_ then
    let d := (c.setConn k { x with st := .lost, rx := { x.rx with slots := [], left := x.rx.acc } }).logEv .haulConnLost srcFabric [k, x.epoch]
    (((d.event (c.ctxAt x.ctx).eventCq 0x81 x.ctx (k + 2 ^ 16 * x.epoch) 0).abandon k).settleRegions).raiseAll.pairLost k |>.letGo k
  else c

/-- A sequenced packet by its place in the window (R342, R343, R349). -/
def Chip.sequenced (c : Chip) (sub k : Nat) (p : Pkt) : Chip :=
  let x := c.connAt k
  let b := p.bytes
  let psn := fieldBE b 8 4
  let units := (fieldBE b 2 2 + 63) / 64
  let dup := c.setPort sub { c.portAt sub with dup := (c.portAt sub).dup + 1 }
  if !seqGe psn x.rx.w then dup.sendAck k true
  else if 1024 ≤ sub32 psn x.rx.w then c.setPort sub { c.portAt sub with window := (c.portAt sub).window + 1 }
  else match tabFind x.rx.slots psn with
    | some s =>
      match s.st with
      | .complete =>
        if s.code = 0 then dup.sendAck k true
        else if bit (fieldBE b 0 1) 1 then (dup.sendNak k psn s.code s.detail).sendAck k true
        else dup.sendNak k psn s.code s.detail
      | _ =>
        let e := dup.setSlot k psn { s with report := true }
        if bit (fieldBE b 0 1) 1 then e.sendAck k true else e
    | none =>
      if !seqGe x.rx.limit ((x.rx.acc + units) % 2 ^ 32) then
        c.setPort sub { c.portAt sub with overrun := (c.portAt sub).overrun + 1 }
      else
        let slot : RxSlot :=
          { st := .waiting, report := bit (fieldBE b 0 1) 1, op := fieldBE b 1 1, hdr := haulHdr b, payload := haulPay b, poison := bit (fieldBE b 0 1) 3
            code := 0, detail := 0, region := none, units := units }
        let y := { x with rx := { x.rx with acc := (x.rx.acc + units) % 2 ^ 32 } }
        let d := (c.setConn k y).setSlot k psn slot
        let e := if d.mustWait k psn slot.op slot.hdr then d else d.applySlot k psn slot
        if bit (fieldBE b 0 1) 1 then e.sendAck k true else e

/-! Sequenced operations -/

/-- HAUL_WRITE (R342, R356). -/
def Chip.doHaulWrite (c : Chip) (sub : Nat) (f : Frame) : Chip := c.haulIn sub f 0x01 (fun d k p => d.sequenced sub k p)
/-- HAUL_READ_PACKET (R354, R355). -/
def Chip.doHaulReadPacket (c : Chip) (sub : Nat) (f : Frame) : Chip := c.haulIn sub f 0x02 (fun d k p => d.sequenced sub k p)
/-- READ_RESP (R354). -/
def Chip.doReadResp (c : Chip) (sub : Nat) (f : Frame) : Chip := c.haulIn sub f 0x03 (fun d k p => d.sequenced sub k p)
/-- ACCUMULATE_FP32 (10 R251, R344). -/
def Chip.doAccumulateFp32 (c : Chip) (sub : Nat) (f : Frame) : Chip := c.haulIn sub f 0x04 (fun d k p => d.sequenced sub k p)
/-- SEND_TO_RING (R346, 14 R383). -/
def Chip.doSendToRing (c : Chip) (sub : Nat) (f : Frame) : Chip := c.haulIn sub f 0x05 (fun d k p => d.sequenced sub k p)
/-- HAUL_SIGNAL (R346). -/
def Chip.doHaulSignal (c : Chip) (sub : Nat) (f : Frame) : Chip := c.haulIn sub f 0x06 (fun d k p => d.sequenced sub k p)

/-- PACKET_COMPLETE (R344 to R346, R349): a packet's effects are visible or refused. Its slot becomes DONE or takes a status,
which is sent at once, and its payload leaves the buffer; RNR empties it, as if the payload had not been accepted, since its
retransmission consumes no credit (R348; assumption 33). The credit may rise, and packets that waited for it are applied. -/
def Chip.doPacketComplete (c : Chip) (k : Nat) (psn : BitVec 32) : Chip :=
  let x := c.connAt k
  match tabFind x.rx.slots psn.toNat with
  | none => c
  | some s =>
    if s.st ≠ .placed ∨ x.st ≠ .open_ then c
    else
      let n := psn.toNat
      if s.code = 8 then
        (c.setConn k { x with rx := { x.rx with acc := sub32 x.rx.acc s.units, slots := tabDel x.rx.slots n } }).sendNak k n 8 0
      else
        let rx := { x.rx with left := (x.rx.left + s.units) % 2 ^ 32 }
        let rx1 := { rx with slots := tabSet rx.slots n { s with st := .complete, payload := [] }
                             unrep := rx.unrep + 1, unrepAt := some (rx.unrepAt.getD c.fabric) }
        let d := (c.setConn k { x with rx := rx1 }).raiseAll
        let e := if s.code = 0 then d else d.sendNak k n s.code s.detail
        let g := if 16 ≤ rx1.unrep ∨ s.report then e.sendAck k true else e
        (g.release k).settleRegions

/-- ACK_TIMER (R345): 3,000 fabric die cycles since the first unreported completion. -/
def Chip.doAckTimer (c : Chip) (k : Nat) : Chip :=
  let x := c.connAt k
  match x.rx.unrepAt with
  | some t => if x.st = .open_ then (c.passTo srcFabric (t + 3000)).sendAck k true else c
  | none => c

/-- HOLD_RELEASE (11 R310): the last response of a version-checked gather has been read, or the gather is abandoned. -/
def Chip.doHoldRelease (c : Chip) (k : Nat) (psn : BitVec 32) : Chip :=
  let x := c.connAt k
  match tabFind x.rx.holds psn.toNat with
  | some h =>
    if x.st = .open_ ∧ x.tx.msgs.any (fun m => m.owner == .resp psn.toNat) then c
    else ((c.setConn k { x with rx := { x.rx with holds := tabDel x.rx.holds psn.toNat } }).holdDown h.1 h.2).releaseAll
  | none => c

/-! Acknowledgements received (R344, R345, R348, R349) -/

/-- A packet reported DONE: its round trip is sampled if it was never retransmitted, and its path is in order (R341, R348). -/
def Chip.ackDone (c : Chip) (k psn : Nat) : Chip :=
  let x := c.connAt k
  match x.tx.tx.find? (fun p => p.psn == psn) with
  | some p =>
    let s := if p.tries = 0 then x.tx.sample (c.fabric - p.at_) else x.tx
    (c.setConn k { x with tx := { s with strikes := tabDel s.strikes (16 * p.sub + p.ent) } }).settlePsn k psn 0 0
  | none => c

/-- A packet reported REFUSED whose NAK is not held: it is retransmitted with ACKNOW (R345). -/
def Chip.ackRefused (c : Chip) (k psn : Nat) : Chip :=
  let x := c.connAt k
  if x.tx.tx.any (fun p => p.psn == psn) then
    c.setConn k { x with tx := { x.tx with tx := x.tx.tx.map (fun p => if p.psn = psn then { p with now := true } else p)
                                           retx := if x.tx.retx.contains psn then x.tx.retx else x.tx.retx ++ [psn] } }
  else c

/-- ACK (R345, R349, R351): credit, CE count, and the status of each PSN reported. -/
def Chip.doAck (c : Chip) (sub : Nat) (f : Frame) : Chip :=
  c.haulIn sub f 0x10 (fun d k p =>
    let h := haulHdr p.bytes
    let pay := haulPay p.bytes
    let x := d.connAt k
    let limit := if seqGe (fieldBE h 4 4) x.tx.limit then fieldBE h 4 4 else x.tx.limit
    let more := sub32 (fieldBE h 8 4) x.rate.seen
    let fresh := decide (more < 2 ^ 31)
    let e := d.setConn k
      { x with
        tx := { x.tx with limit := limit }
        rate := { x.rate with ce := if fresh then x.rate.ce + more else x.rate.ce
                              seen := if fresh then fieldBE h 8 4 else x.rate.seen } }
    (List.range (fieldBE h 12 2)).foldl (fun (y : Chip) i =>
      match fieldBE pay (i / 4) 1 / 4 ^ (i % 4) % 4 with
      | 1 => y.ackDone k ((fieldBE h 0 4 + i) % 2 ^ 32)
      | 2 => y.ackRefused k ((fieldBE h 0 4 + i) % 2 ^ 32)
      | _ => y) e)

/-- NAK (R344, R348): a final status settles its packet; RNR delays the retransmission by 30,000 cycles. -/
def Chip.doNak (c : Chip) (sub : Nat) (f : Frame) : Chip :=
  c.haulIn sub f 0x11 (fun d k p =>
    let h := haulHdr p.bytes
    let psn := fieldBE h 0 4
    let x := d.connAt k
    if fieldBE h 4 1 = 8 then
      d.setConn k { x with tx := { x.tx with tx := x.tx.tx.map (fun t =>
        if t.psn = psn then { t with due := d.fabric + 30000, rnr := true } else t) } }
    else if 1 ≤ fieldBE h 4 1 ∧ fieldBE h 4 1 ≤ 9 then d.settlePsn k psn (fieldBE h 4 1) (fieldBE h 8 8)
    else d)

/-! Opening and closing (R338, R339) -/

/-- The header of CONNECT and ACCEPT of a connection (Table 13.3). -/
def Conn.hello (x : Conn) (k : Nat) : List Byte := beBytes 8 x.cookie ++ beBytes 2 k ++ beBytes 2 x.proposal ++ beBytes 4 x.rx.limit

/-- A CONNECT or ACCEPT sent on the connection's next path (R338, R340): the receiver's connection number and epoch are not known,
and the fields that would hold them are free (assumption 20). -/
def Chip.sendHello (c : Chip) (k op : Nat) : Chip :=
  let x := c.connAt k
  match c.newPath x 0 with
  | none => c
  | some path =>
  let peer := x.peers.getD ((c.addrOf x path.1).getD 0) 0
  let bs := beBytes 1 16 ++ beBytes 1 op ++ beBytes 2 0 ++ beBytes 2 (c.freeVal % 2 ^ 16) ++ beBytes 2 ((c.took 1).freeVal % 2 ^ 16) ++
    beBytes 4 0 ++ beBytes 4 0 ++ x.hello k
  ((c.took 2).setConn k { x with tx := { x.tx with pos := some path, changed := false } }).sendIp path.1 peer (0xC000 + path.2) c.haulUdp bs

/-- A connection enters OPEN (R338, R351): the larger proposal is the epoch, counters start at zero, and what waited for it
goes on. -/
def Chip.connOpen (c : Chip) (k peerConn proposal credit : Nat) : Chip :=
  let x := c.connAt k
  let y := { x with
    st := .open_, peerConn := peerConn, epoch := max x.proposal proposal, peerProp := proposal, since := c.dispatch, peerDown := 0
    away := 0, rx := { HRecv.fresh with limit := x.rx.limit, last := c.dispatch }
    tx := { HSend.fresh with limit := credit, beat := c.dispatch }, rate := Rate.start (c.rMax { x with away := 0 }) c.fabric
    creator := none }
  let d := c.setConn k y
  let e := match x.creator with | some key => d.finish key 0 0 | none => d
  e.postWaiting k

/-- The connection that a CONNECT or ACCEPT names: in one of the states, with its COOKIE and its source among the peers. -/
def Chip.connFor (c : Chip) (st : ConnSt) (p : Pkt) : Option Nat :=
  (c.fab.conn.find? (fun q => q.2.st == st && q.2.cookie == fieldBE (haulHdr p.bytes) 0 8 && q.2.peers.contains p.src)).map (·.1)

/-- A CONNECT or ACCEPT parsed. -/
def Chip.helloIn (c : Chip) (sub : Nat) (f : Frame) (op : Nat) (g : Chip → Pkt → Chip) : Chip :=
  match c.haulOf sub f with
  | none => c
  | some p =>
    if fieldBE p.bytes 1 1 ≠ op then c
    else
      let r := c.frameIn sub f
      if !r.2 then r.1 else if haulBad p.bytes then r.1.malformed sub else g r.1 p

/-- CONNECT (R338): answered by a connection in CONNECTING, which opens; a late copy at an OPEN one is answered, and any other
there shows that the peer has restarted. -/
def Chip.doConnect (c : Chip) (sub : Nat) (f : Frame) : Chip :=
  c.helloIn sub f 0x20 (fun d p =>
    let h := haulHdr p.bytes
    let prop := fieldBE h 10 2
    match d.connFor .connecting p, d.connFor .open_ p with
    | some k, _ => (d.sendHello k 0x21).connOpen k (fieldBE h 8 2) prop (fieldBE h 12 4)
    | none, some k =>
      let x := d.connAt k
      if d.dispatch ≤ x.since + msDispatch ∧ (prop = x.epoch ∨ prop = x.peerProp) then d.sendHello k 0x21
      else d.connLose k
    | none, none => d)

/-- ACCEPT (R338): a matching one opens a connection in CONNECTING. -/
def Chip.doAccept (c : Chip) (sub : Nat) (f : Frame) : Chip :=
  c.helloIn sub f 0x21 (fun d p =>
    let h := haulHdr p.bytes
    match d.connFor .connecting p with
    | some k => d.connOpen k (fieldBE h 8 2) (fieldBE h 10 2) (fieldBE h 12 4)
    | none => d)

/-- CLOSE (R339). -/
def Chip.doClose (c : Chip) (sub : Nat) (f : Frame) : Chip :=
  c.haulIn sub f 0x22 (fun d k p => if (d.connAt k).cookie = fieldBE (haulHdr p.bytes) 0 8 then d.connLose k else d)

/-- Packets queued for retransmission ahead of new ones, with ACKNOW (R352). -/
def HSend.requeue (s : HSend) (ps : HTx → Bool) : HSend :=
  let l := (s.tx.filter ps).map (·.psn)
  { s with tx := s.tx.map (fun p => if ps p then { p with now := true } else p)
           retx := s.retx ++ l.filter (fun n => !s.retx.contains n), changed := true }

/-- A connection without a path is lost (R339); one whose remaining paths are all quarantined has them lifted (R341). -/
def Chip.checkPaths (c : Chip) (k : Nat) : Chip :=
  let x := c.connAt k
  if !c.hasPath x then c.connLose k
  else if c.allQuarantined x then c.setConn k { x with tx := { x.tx with quar := [] } }
  else c

/-- PATHDOWN (R335, R352): the paths to the addresses named are removed, and what was last sent on them is retransmitted. -/
def Chip.doPathdown (c : Chip) (sub : Nat) (f : Frame) : Chip :=
  c.haulIn sub f 0x23 (fun d k p =>
    let x := d.connAt k
    let mask := fieldBE (haulHdr p.bytes) 0 4 % 2 ^ x.peers.length
    let gone := fun (i : Nat) => bit mask i && !bit x.peerDown i
    (d.setConn k { x with peerDown := mask, tx := x.tx.requeue (fun t => gone t.addr) }).checkPaths k)

/-- CONNECT_RETRY (R338): a connection in CONNECTING sends CONNECT every 100 µs, on each path in turn, the first copy without a wait
(DEDUCED, assumption 26). -/
def Chip.doConnectRetry (c : Chip) (k : Nat) : Chip :=
  let x := c.connAt k
  if x.st = .connecting then
    let d := if x.tx.pos = none then c else c.passTo srcDispatch (x.tx.beat + 100000)
    (d.setConn k { x with tx := { x.tx with beat := d.dispatch } }).sendHello k 0x20
  else c

/-- KEEPALIVE (R339): an OPEN connection with nothing outstanding sends an ACK with COUNT 0 every 1 ms. -/
def Chip.doKeepalive (c : Chip) (k : Nat) : Chip :=
  let x := c.connAt k
  if x.st = .open_ ∧ x.tx.tx.isEmpty ∧ x.tx.msgs.isEmpty then (c.passTo srcDispatch (x.tx.beat + msDispatch)).sendAck k false
  else c

/-- CONN_TIMEOUT (R339): nothing received, or a packet without final status, for TIMEOUT. -/
def Chip.doConnTimeout (c : Chip) (k : Nat) : Chip :=
  let x := c.connAt k
  if x.st = .open_ then
    let since := x.tx.tx.foldl (fun a p => min a p.disp0) x.rx.last
    (c.passTo srcDispatch (since + x.timeout * msDispatch)).connLose k
  else c

/-! Ports (R331, R333, R352, 18 R464) -/

/-- A sub-port that its port's mode leaves in service (Table 13.1) and that is not DISABLED (18 R464, 21 Table 21.7). -/
def Chip.portUsed (c : Chip) (sub : Nat) : Bool :=
  let mode := bits (c.rw 0xA00010) (2 * (sub / 4) + 1) (2 * (sub / 4))
  (mode == 2 || (mode == 1 && sub % 2 == 0) || (mode == 0 && sub % 4 == 0)) && !bit (c.rw 0x400078) sub &&
    bit c.boot.report.portsOk (sub / 4)

/-- A sub-port goes down (R333, R352): logged, its paths removed, what was last sent on it queued for retransmission, and
PATHDOWN sent on every connection that has it. -/
def Chip.portFails (c : Chip) (sub : Nat) (ev : Ev) : Chip :=
  if (c.portAt sub).up then
    let d := (c.setPort sub { c.portAt sub with up := false }).logEv ev srcFabric [sub]
    d.fab.conn.foldl (fun (e : Chip) q =>
      let x := e.connAt q.1
      if x.st = .open_ ∧ bit x.mask sub then
        let g := e.setConn q.1 { x with away := x.away ||| 2 ^ sub, tx := x.tx.requeue (fun t => t.sub == sub) }
        (g.sendPathdown q.1).checkPaths q.1
      else e) d
  else c

/-- PORT_DOWN (R333): a sub-port is declared down. -/
def Chip.doPortDown (c : Chip) (sub : Nat) : Chip := c.portFails sub .portDown

/-- SUBPORT_UP (R331, R333): link training completes on a sub-port in service. -/
def Chip.doSubportUp (c : Chip) (sub : Nat) : Chip :=
  if c.portUsed sub ∧ !(c.portAt sub).up then c.setPort sub { c.portAt sub with up := true, since := c.dispatch } else c

/-- PATH_REJOIN (R352): a sub-port that has been up for 1 ms rejoins its connections' path sets, and PATHDOWN is sent with its
bit clear. -/
def Chip.doPathRejoin (c : Chip) (sub : Nat) : Chip :=
  let p := c.portAt sub
  if p.up then
    let d := c.passTo srcDispatch (p.since + msDispatch)
    d.fab.conn.foldl (fun (e : Chip) q =>
      let x := e.connAt q.1
      if x.st = .open_ ∧ bit x.mask sub ∧ bit x.away sub then
        (e.setConn q.1 { x with away := x.away - 2 ^ sub, tx := { x.tx with changed := true } }).sendPathdown q.1
      else e) d
  else c

/-! Frames that are not Haul (R332) -/

/-- The EtherType of a frame at a sub-port. -/
def Chip.frameEther (c : Chip) (sub : Nat) (f : Frame) : Nat := (etherOf (c.tagged sub) f.bytes).1
/-- What follows the EtherType. -/
def Chip.frameBody (c : Chip) (sub : Nat) (f : Frame) : List Byte := (etherOf (c.tagged sub) f.bytes).2

/-- A frame sent without IP. -/
def Chip.sendFrame (c : Chip) (sub mac : Nat) (bs : List Byte) : Chip :=
  c.modFab (fun f => { f with sent := f.sent ++
    [{ sub := sub, mac := mac, tag := c.tagOf sub, dscp := 0, src := 0, dst := 0, ttl := 0, ecn := 0, sport := 0, dport := 0
       bytes := bs }] })

/-- ARP_REQUEST (R332): a request for the sub-port's own IPv4 address is answered. -/
def Chip.doArpRequest (c : Chip) (sub : Nat) (f : Frame) : Chip :=
  let b := c.frameBody sub f
  let own := c.portReg sub 0x10 % 2 ^ 32
  if c.frameEther sub f = 0x0806 ∧ fieldBE b 6 2 = 1 then
    let r := c.frameIn sub f
    if r.2 && own != 0 && fieldBE b 24 4 == own then
      r.1.sendFrame sub (fieldBE b 8 6) (beBytes 2 0x0806 ++ b.take 6 ++ beBytes 2 2 ++ beBytes 6 (c.portReg sub 0 % 2 ^ 48) ++
        beBytes 4 own ++ (b.drop 8).take 10)
    else r.1
  else c

/-- The one's-complement sum of a list of bytes, big-endian. -/
def sum16 (bs : List Byte) : Nat :=
  let s := (List.range ((bs.length + 1) / 2)).foldl (fun a i => a + fieldBE (bs ++ [0]) (2 * i) 2) 0
  let t := s % 65536 + s / 65536
  t % 65536 + t / 65536

/-- A neighbour solicitation: ICMPv6 type 135. -/
def Chip.solicits (c : Chip) (sub : Nat) (f : Frame) : Option Pkt :=
  match ipOf (c.tagged sub) f.bytes with
  | some p => if p.proto = 58 ∧ fieldBE p.bytes 0 1 = 135 then some p else none
  | none => none

/-- NEIGHBOUR_SOLICITATION (R332): a solicitation of the sub-port's own IPv6 address is answered with an advertisement that
carries its MAC address, sent as R332 has every IPv6 packet sent (assumption 19). -/
def Chip.doNeighbourSolicitation (c : Chip) (sub : Nat) (f : Frame) : Chip :=
  match c.solicits sub f with
  | none => c
  | some p =>
    let own := c.portReg sub 0x18 * 2 ^ 64 + c.portReg sub 0x20
    let r := c.frameIn sub f
    if r.2 && own != 0 && fieldBE p.bytes 8 16 == own then
      let body := fun (sum : Nat) => beBytes 1 136 ++ beBytes 1 0 ++ beBytes 2 sum ++ beBytes 4 0x60000000 ++ beBytes 16 own ++
        beBytes 2 0x0201 ++ beBytes 6 (c.portReg sub 0 % 2 ^ 48)
      let pseudo := beBytes 16 own ++ beBytes 16 p.src ++ beBytes 4 32 ++ beBytes 4 58
      let sum := 65535 - sum16 (pseudo ++ body 0)
      r.1.modFab (fun g => { g with sent := g.sent ++
        [{ sub := sub, mac := srcMac f.bytes, tag := c.tagOf sub, dscp := Config.dscp 0 % 64, src := own, dst := p.src, ttl := 64, ecn := 2
           sport := 0, dport := 0, bytes := body sum }] })
    else r.1

/-- PAUSE_FRAME (R332): a PAUSE or PFC frame is counted and discarded. -/
def Chip.doPauseFrame (c : Chip) (sub : Nat) (f : Frame) : Chip :=
  if c.frameEther sub f = 0x8808 then
    let r := c.frameIn sub f
    if r.2 then r.1.setPort sub { r.1.portAt sub with paused := (r.1.portAt sub).paused + 1 } else r.1
  else c

/-- A frame is Haul, RoCEv2, ARP, neighbour discovery or flow control. -/
def Chip.known (c : Chip) (sub : Nat) (f : Frame) : Bool :=
  c.frameEther sub f == 0x0806 || c.frameEther sub f == 0x8808 ||
    (match ipOf (c.tagged sub) f.bytes with
     | some p => (p.proto == 17 && (p.dport == c.haulUdp || p.dport == 4791)) ||
         (p.proto == 58 && decide (133 ≤ fieldBE p.bytes 0 1) && decide (fieldBE p.bytes 0 1 ≤ 137))
     | none => false)

/-- RAW_FRAME (R332, 14 R383): any other frame goes to the raw frame queue; one that does not fit is counted, and without a
queue it is discarded. -/
def Chip.doRawFrame (c : Chip) (sub : Nat) (f : Frame) : Chip :=
  if c.known sub f then c
  else
    let r := c.frameIn sub f
    if !r.2 then r.1
    else match r.1.fab.rawq with
      | some cq =>
        let n := f.bytes.length
        if r.1.recvRoom cq < recvSlots n then r.1.modFab (fun g => { g with raw := g.raw + 1 })
        else r.1.recvWrite cq 0 (n + 2 ^ 16 * 0xFFFF) 0 f.bytes
      | none => r.1

/-- HAUL_MALFORMED (R336): a packet whose VER is wrong or whose OP is not listed is discarded and counted. -/
def Chip.doHaulMalformed (c : Chip) (sub : Nat) (f : Frame) : Chip :=
  match c.haulOf sub f with
  | none => c
  | some p =>
    if (hdrLen (fieldBE p.bytes 1 1)).isNone || fieldBE p.bytes 0 1 / 16 != 1 then
      let r := c.frameIn sub f
      if r.2 then r.1.malformed sub else r.1
    else c

end Sys2Proof.Machine
end

