-- ==== Sys2Proof/Machine/Roce.lean ====
section
/-!
DEFINITION. RoCEv2 queue pairs (13 R358, R359): what they send and acknowledge, and what they place. What the specification
takes from the InfiniBand Architecture Specification by name is marked in assumption 21.
-/

namespace Sys2Proof.Machine

/-- A queue pair. -/
def Chip.qpAt (c : Chip) (n : Nat) : Qp := tabGet Qp.fresh c.roce.qp n
/-- A queue pair set. -/
def Chip.setQp (c : Chip) (n : Nat) (q : Qp) : Chip := c.modRoce (fun r => { r with qp := tabSet r.qp n q })

/-- `(a - b) mod 2^24`: packet sequence numbers have 24 bits. -/
def sub24 (a b : Nat) : Nat := (a % 2 ^ 24 + 2 ^ 24 - b % 2 ^ 24) % 2 ^ 24
/-- Packet number `a` is not behind `b`. -/
def psnGe (a b : Nat) : Bool := decide (sub24 a b < 2 ^ 23)

/-- The payload of a full packet (Table 13.8 Path MTU). -/
def Qp.pmtu (q : Qp) : Nat := 1024 * q.mtu

/-- The packets of a message: at least one. -/
def Qp.count (q : Qp) (len : Nat) : Nat := max 1 (ceilDiv len q.pmtu)

/-! Sending -/

/-- A packet that a queue pair sends, when its sub-port is up. -/
def Chip.qpEmit (c : Chip) (n : Nat) (p : RoceSent) : Chip :=
  if (c.portAt (c.qpAt n).sub).up then c.modRoce (fun r => { r with sent := r.sent ++ [p] }) else c

/-- Tokens taken for a new packet of a queue pair; time passes until the bucket holds them (R351, R358). -/
def Chip.qpTokens (c : Chip) (n bytes : Nat) : Chip :=
  let q := c.qpAt n
  let r := q.rate.fill c.fabric
  let d := c.passTo srcFabric (c.fabric + r.waitFor (min bytes 65536))
  let r1 := r.fill d.fabric
  d.setQp n { q with rate := { r1 with tokens := r1.tokens - bytes } }

/-- One packet of a work request: packet `i` of a SEND or WRITE with its bytes read through the context's tables, or the
request of a READ for what it still lacks. A retransmission takes no tokens (R358). -/
def Chip.qpPacket (c : Chip) (n : Nat) (w : Wqe) (i : Nat) (anew : Bool) : Chip :=
  let q := c.qpAt n
  let off := i * q.pmtu
  let len := if w.verb = 4 then 0 else min q.pmtu (w.len - off)
  let last := decide (i + 1 = w.pkts) || w.verb == 4
  let bs := if len = 0 then [] else (c.mem.gather (c.spanLines fdTlb q.ctx (w.lva + off) len false)).1
  let hdr := (if (i = 0 ∧ 2 ≤ w.verb) ∨ w.verb = 4 then 16 else 0) + (if last ∧ (w.verb = 1 ∨ w.verb = 3) then 4 else 0)
  let d := if anew then c.qpTokens n (c.frameLen q.sub q.peer (16 + hdr + len)) else c
  let va := if w.verb = 4 then w.rva + w.got else if 2 ≤ w.verb then w.rva else 0
  (d.qpEmit n
    { qpn := n, kind := w.verb, psn := (w.psn + i) % 2 ^ 24
      fields := [b2n (i == 0), b2n last, va, w.rkey, if w.verb = 4 then w.len - w.got else w.len, w.imm], payload := bs }).setQp n
    { (d.qpAt n) with sentAt := d.fabric }

/-- The packets of a work request from number `i` on. -/
def Chip.qpSendWqe (c : Chip) (n : Nat) (w : Wqe) (i : Nat) (anew : Bool) : Chip :=
  if w.verb = 4 then c.qpPacket n w (w.got / (c.qpAt n).pmtu) anew
  else (List.range (w.pkts - i)).foldl (fun (d : Chip) j => d.qpPacket n w (i + j) anew) c

/-- Go-back-N: everything from a packet number on is sent again. -/
def Chip.qpBack (c : Chip) (n psn : Nat) : Chip :=
  (c.qpAt n).wqes.foldl (fun (d : Chip) w =>
    if psnGe psn (w.psn + w.pkts) then d
    else d.qpSendWqe n w (if psnGe psn w.psn then sub24 psn w.psn else 0) false) c

/-! Completions -/

/-- A queue pair's descriptor ends; its record goes to the queue pair's CQ (assumption 22). -/
def Chip.qpFinish (c : Chip) (n key status detail : Nat) : Chip :=
  match c.descAt key with
  | some d =>
    c.modCm (fun m =>
      { m with descs := m.descs.filter (fun e => e.key != key)
               fin := m.fin ++ [{ c.finOf d status detail srcDispatch with cq := (c.qpAt n).cq }] })
  | none => c

/-- The queue pair enters the error state: what it still holds completes in error, with a syndrome that the specification
does not give (assumption 1). -/
def Chip.qpError (c : Chip) (n : Nat) : Chip :=
  let q := c.qpAt n
  let keys := q.wqes.map (·.key) ++ q.recvs.map (·.key)
  let d := c.setQp n { q with st := .error, wqes := [], recvs := [], rx := none }
  keys.foldl (fun (e : Chip) k => (e.qpFinish n k 0x16 (e.freeVal % 256)).took 1) d

/-- The oldest work request fails with a syndrome, and the queue pair enters the error state. -/
def Chip.qpFail (c : Chip) (n syndrome : Nat) : Chip :=
  let q := c.qpAt n
  match q.wqes with
  | w :: r => ((c.setQp n { q with wqes := r }).qpFinish n w.key 0x16 syndrome).qpError n
  | [] => c.qpError n

/-- Work requests whose last packet number is not beyond `psn` complete in order; a READ completes with its last byte, and
holds back those after it. -/
def Chip.qpSettle (c : Chip) (n psn : Nat) : Nat → Chip
  | 0 => c
  | fuel + 1 =>
    let q := c.qpAt n
    match q.wqes with
    | w :: r =>
      if psnGe psn (w.psn + w.pkts - 1) && (w.verb != 4 || decide (w.len ≤ w.got)) then
        Chip.qpSettle ((c.setQp n { q with wqes := r, unacked := (w.psn + w.pkts) % 2 ^ 24, tries := 0, rnrTries := 0 }).qpFinish
          n w.key 0 0) n psn fuel
      else if w.verb != 4 && psnGe psn w.psn then c.setQp n { q with unacked := (psn + 1) % 2 ^ 24, tries := 0, rnrTries := 0 }
      else c
    | [] => c

/-- Everything up to a packet number acknowledged. -/
def Chip.qpAcked (c : Chip) (n psn : Nat) : Chip :=
  if psnGe psn (c.qpAt n).unacked then c.qpSettle n psn ((c.qpAt n).wqes.length + 1) else c

/-- A work request posted (14 Table 14.5 QP_POST, R359): its source is read; a poisoned line ends it and puts the queue
pair in the error state, and none of its packets is sent. -/
def Chip.qpPost (c : Chip) (n : Nat) (w0 : Wqe) : Chip :=
  let q := c.qpAt n
  let w := { w0 with psn := q.psn, pkts := q.count w0.len }
  let s := c.spanLines fdTlb q.ctx w.lva w.len (w.verb == 4)
  let d := c.used fdTlb srcFabric s
  match s.fault with
  | some f => (d.qpFinish n w.key f.kind.code f.detail).qpError n
  | none =>
    if w.verb ≠ 4 ∧ (d.mem.gather s).2.isSome then (d.qpFinish n w.key 0x16 0xFF).qpError n
    else (d.setQp n { q with psn := (q.psn + w.pkts) % 2 ^ 24, wqes := q.wqes ++ [w] }).qpSendWqe n w 0 true

/-! Responding -/

/-- A positive acknowledgement of everything that has been taken. -/
def Chip.qpAck (c : Chip) (n : Nat) : Chip :=
  let q := c.qpAt n
  c.qpEmit n { qpn := n, kind := 16, psn := (q.epsn + 2 ^ 24 - 1) % 2 ^ 24, fields := [q.msn], payload := [] }

/-- A negative acknowledgement with its syndrome. -/
def Chip.qpNak (c : Chip) (n psn syndrome : Nat) : Chip :=
  c.qpEmit n { qpn := n, kind := 17, psn := psn, fields := [syndrome, (c.qpAt n).msn], payload := [] }

/-- The most frequent CNP: 50 µs of the fabric die's 1.5 GHz. -/
def cnpCounts : Nat := 75000

/-- A packet that arrived for a queue pair that is ready: one whose ICRC fails is discarded and counted, and a marked one is
answered with CNP at most once in each 50 µs (Table 13.8). -/
def Chip.qpIn (c : Chip) (n : Nat) (icrcOk ce : Bool) (f : Chip → Chip) : Chip :=
  let q := c.qpAt n
  if q.st ≠ .ready then c
  else if !icrcOk then c.setQp n { q with badIcrc := q.badIcrc + 1 }
  else if ce && (match q.cnpAt with | some t => decide (t + cnpCounts ≤ c.fabric) | none => true) then
    f ((c.setQp n { q with cnpAt := some c.fabric }).qpEmit n { qpn := n, kind := 19, psn := 0, fields := [], payload := [] })
  else f c

/-- A request in sequence is carried out; one that is ahead draws one NAK for the expected number, and one that is behind is
acknowledged again, or served again when it is a READ (Table 13.8 Reliability). -/
def Chip.qpRequest (c : Chip) (n : Nat) (p : RocePkt) (again : Chip → Chip) (f : Chip → Chip) : Chip :=
  c.qpIn n p.icrcOk p.ce (fun d =>
    let q := d.qpAt n
    if p.psn.toNat = q.epsn then f (d.setQp n { q with nakSent := false })
    else if psnGe p.psn.toNat q.epsn then
      (if q.nakSent then d else (d.setQp n { q with nakSent := true }).qpNak n q.epsn 0x60)
    else again d)

/-- A request refused: NAK, and the error state. -/
def Chip.qpRefuse (c : Chip) (n syndrome : Nat) : Chip := (c.qpNak n (c.qpAt n).epsn syndrome).qpError n

/-- A packet of a message has been taken: the expected number advances, and an acknowledgement goes out when asked for. -/
def Chip.qpTaken (c : Chip) (n : Nat) (p : RocePkt) (rx : Option RoceIn) : Chip :=
  let q := c.qpAt n
  let d := c.setQp n { q with epsn := (q.epsn + 1) % 2 ^ 24, msn := if p.last then (q.msn + 1) % 2 ^ 24 else q.msn, rx := rx }
  if p.ackReq then d.qpAck n else d

/-- The oldest receive buffer completes (14 Table 14.5 RECV_POST). -/
def Chip.recvDone (c : Chip) (n status detail : Nat) : Chip :=
  let q := c.qpAt n
  match q.recvs with
  | b :: r => (c.setQp n { q with recvs := r }).qpFinish n b.key status detail
  | [] => c

/-- A packet without the buffer it needs: an RNR acknowledgement, whose timer the specification does not give. -/
def Chip.qpRnr (c : Chip) (n : Nat) : Chip := (c.qpNak n (c.qpAt n).epsn (0x20 + c.freeVal % 32)).took 1

/-- ROCE_SEND (R358, R359): the payload goes to the oldest receive buffer, which completes with the message's last packet. -/
def Chip.doRoceSend (c : Chip) (n : Nat) (p : RocePkt) : Chip :=
  c.qpRequest n p (fun d => d.qpAck n) (fun d =>
    let q := d.qpAt n
    match q.recvs with
    | [] => d.qpRnr n
    | b :: _ =>
      let got := if p.first then 0 else (q.rx.map (·.got)).getD 0
      if (match q.rx with | some x => p.first || x.op != 0 | none => !p.first) then d.qpRefuse n 0x61
      else if b.len < got + p.payload.length then d.qpRefuse n 0x61
      else
        let s := d.spanLines fdTlb q.ctx (b.va + got) p.payload.length true
        let e := d.used fdTlb srcFabric s
        match s.fault with
        | some f => (e.recvDone n f.kind.code f.detail).qpRefuse n 0x63
        | none =>
          let e1 := e.scatter s p.payload false 0
          if p.last then (e1.recvDone n 0 0).qpTaken n p none
          else e1.qpTaken n p (some { op := 0, va := b.va, rkey := 0, len := b.len, got := got + p.payload.length }))

/-- The region that a key of a queue pair reaches for a range, by its virtual address (Table 13.8 Keys). -/
def Chip.qpRegion (c : Chip) (n rkey va len perm : Nat) : Option FdRegion :=
  let e := c.regionAt (rkey / 65536)
  if va < e.vbase then none
  else match c.regionFor (c.qpAt n).ctx rkey (va - e.vbase) len perm 3 with
    | .ok r => some r.2
    | .error _ => none

/-- ROCE_RDMA_WRITE (R358, R359): the payload is placed through its region; with Immediate, the last packet completes a
receive buffer. -/
def Chip.doRoceRdmaWrite (c : Chip) (n : Nat) (p : RocePkt) : Chip :=
  c.qpRequest n p (fun d => d.qpAck n) (fun d =>
    let q := d.qpAt n
    let x : RoceIn :=
      if p.first then { op := 2, va := p.va.toNat, rkey := p.rkey.toNat, len := p.len.toNat, got := 0 }
      else q.rx.getD { op := 0, va := 0, rkey := 0, len := 0, got := 0 }
    let k := p.payload.length
    if x.op ≠ 2 ∨ (p.first ∧ q.rx.isSome) ∨ x.len < x.got + k then d.qpRefuse n 0x61
    else if p.last ∧ p.imm.isSome ∧ q.recvs.isEmpty then d.qpRnr n
    else
      let r := d.qpRegion n x.rkey x.va x.len 0
      if 0 < x.len ∧ r.isNone then d.qpRefuse n 0x62
      else
        let s := d.spanLines fdTlb q.ctx (x.va + x.got) k true
        let e := d.used fdTlb srcFabric s
        match s.fault with
        | some _ => e.qpRefuse n 0x63
        | none =>
          let e1 := e.scatter s p.payload false ((r.map (·.hint)).getD 0)
          let e2 := if p.last ∧ p.imm.isSome then e1.recvDone n 0 0 else e1
          e2.qpTaken n p (if p.last then none else some { x with got := x.got + k }))

/-- The responses of a READ sent. -/
def Chip.qpRespond (c : Chip) (n : Nat) (p : RocePkt) (bs : List Byte) : Chip :=
  let q := c.qpAt n
  let k := q.count p.len.toNat
  (List.range k).foldl (fun (d : Chip) i =>
    d.qpEmit n { qpn := n, kind := 18, psn := (p.psn.toNat + i) % 2 ^ 24, fields := [b2n (i == 0), b2n (i + 1 == k), q.msn]
                 payload := (bs.drop (i * q.pmtu)).take q.pmtu }) c

/-- A READ request served through its region. -/
def Chip.qpServe (c : Chip) (n : Nat) (p : RocePkt) (anew : Bool) : Chip :=
  let q := c.qpAt n
  let len := p.len.toNat
  if 0 < len ∧ (c.qpRegion n p.rkey.toNat p.va.toNat len 1).isNone then c.qpRefuse n 0x62
  else
    let s := c.spanLines fdTlb q.ctx p.va.toNat len false
    let d := c.used fdTlb srcFabric s
    let g := d.mem.gather s
    if s.fault.isSome ∨ g.2.isSome then d.qpRefuse n 0x63
    else
      let e := if anew then d.setQp n { q with epsn := (q.epsn + q.count len) % 2 ^ 24, msn := (q.msn + 1) % 2 ^ 24 } else d
      e.qpRespond n p g.1

/-- ROCE_RDMA_READ (R358): a READ request is answered with read responses; a repeated one is served again. -/
def Chip.doRoceRdmaRead (c : Chip) (n : Nat) (p : RocePkt) : Chip :=
  c.qpRequest n p (fun d => d.qpServe n p false) (fun d => d.qpServe n p true)

/-- ROCE_INVALID_REQUEST (R358): a request for what is not supported draws the Invalid Request NAK. -/
def Chip.doRoceInvalidRequest (c : Chip) (n : Nat) (p : RocePkt) : Chip :=
  c.qpRequest n p (fun d => d.qpAck n) (fun d => d.qpRefuse n 0x61)

/-! Responses at the requester -/

/-- The READ that waits for a response with a packet number. -/
def Qp.readFor (q : Qp) (psn : Nat) : Option Wqe :=
  q.wqes.find? (fun w => w.verb == 4 && (w.psn + w.got / q.pmtu) % 2 ^ 24 == psn)

/-- ROCE_READ_RESPONSE (R358): a response in sequence is placed, and acknowledges everything before its READ. -/
def Chip.doRoceReadResponse (c : Chip) (n : Nat) (p : RocePkt) : Chip :=
  c.qpIn n p.icrcOk p.ce (fun d0 =>
    match (d0.qpAt n).readFor p.psn.toNat with
    | none => d0
    | some w =>
      let d := d0.qpAcked n ((w.psn + 2 ^ 24 - 1) % 2 ^ 24)
      let q := d.qpAt n
      if (q.wqes.head?.map (·.key)) ≠ some w.key then d
      else
        let bs := p.payload.take (w.len - w.got)
        let s := d.spanLines fdTlb q.ctx (w.lva + w.got) bs.length true
        let e := d.used fdTlb srcFabric s
        match s.fault with
        | some f => ((e.setQp n { q with wqes := q.wqes.drop 1 }).qpFinish n w.key f.kind.code f.detail).qpError n
        | none =>
          let got := w.got + bs.length
          let e1 := (e.scatter s bs false 0).setQp n
            { q with wqes := q.wqes.map (fun x => if x.key = w.key then { x with got := got } else x), tries := 0, rnrTries := 0 }
          if w.len ≤ got then e1.qpAcked n ((w.psn + w.pkts - 1) % 2 ^ 24) else e1)

/-- A retry is used up, or what is not acknowledged is sent again. -/
def Chip.qpRetry (c : Chip) (n psn syndrome : Nat) : Chip :=
  let q := c.qpAt n
  if q.retry ≤ q.tries then c.qpFail n syndrome else (c.setQp n { q with tries := q.tries + 1 }).qpBack n psn

/-- ROCE_ACK (R358): an acknowledgement settles what it covers; a sequence error or an RNR leads to go-back-N within the retry
counts, and any other NAK ends the oldest request with its syndrome. -/
def Chip.doRoceAck (c : Chip) (n : Nat) (psn : BitVec 24) (syndrome : BitVec 8) (icrcOk : Bool) : Chip :=
  c.qpIn n icrcOk false (fun d =>
    let y := syndrome.toNat
    let before := (psn.toNat + 2 ^ 24 - 1) % 2 ^ 24
    if y / 32 = 0 then d.qpAcked n psn.toNat
    else
      let e := d.qpAcked n before
      let q := e.qpAt n
      if q.wqes.isEmpty then e
      else if y / 32 = 1 then
        (if q.rnr ≠ 7 ∧ q.rnr ≤ q.rnrTries then e.qpFail n y
         else e.setQp n { q with rnrTries := q.rnrTries + 1, rnrWait := true })
      else if y = 0x60 then e.qpRetry n psn.toNat y
      else e.qpFail n y)

/-- ROCE_TIMEOUT (R358): the retransmission timeout, 4.096 µs × 2^exponent after the last packet, or the delay of an RNR has
passed, and go-back-N follows while retries are left; a timeout exponent of 0 sets no timer. A failure by timeout has no
acknowledgement, and its syndrome is free. -/
def Chip.doRoceTimeout (c : Chip) (n : Nat) : Chip :=
  let q := c.qpAt n
  if q.st ≠ .ready ∨ q.wqes.isEmpty then c
  else if q.rnrWait then (c.setQp n { q with rnrWait := false }).qpBack n q.unacked
  else if q.texp = 0 then c
  else ((c.passTo srcFabric (q.sentAt + 6144 * 2 ^ q.texp)).took 1).qpRetry n q.unacked (c.freeVal % 256)

/-! Congestion (R351, R358) -/

/-- ROCE_CNP (R358): a CNP is counted for its period. -/
def Chip.doRoceCnp (c : Chip) (n : Nat) (icrcOk : Bool) : Chip :=
  c.qpIn n icrcOk false (fun d => d.setQp n { d.qpAt n with rate := { (d.qpAt n).rate with ce := (d.qpAt n).rate.ce + 1 } })

/-- RC_PERIOD (R351, R358): the rate of a connection is updated from its marks, or that of a queue pair from its CNPs. -/
def Chip.doRcPeriod (c : Chip) (k : Nat) (qp : Bool) : Chip :=
  if qp then
    let q := c.qpAt k
    if q.st ≠ .ready then c
    else
      let d := c.passTo srcFabric (q.rate.per + c.rf 0xA00008 17 0)
      d.setQp k { q with rate := d.rateStep q.rate (fp32OfNat (d.lineRate q.sub)) q.rate.ce (max q.rate.ce 1) d.fabric }
  else c.connRate k

end Sys2Proof.Machine
end

