-- ==== Sys2Proof/Machine/Flags.lean ====
section
/-!
DEFINITION. The status flags of the vector engine (06 Table 6.2) and the arithmetic that sets them: one element of every
floating-point and integer operation, the function tables, and the reductions.
-/

namespace Sys2Proof.Machine

/-! VSTATUS bits (06 Table 6.2) -/

/-- SAT. -/
def fSat : Nat := 1
/-- NAN_LOST. -/
def fNanLost : Nat := 2
/-- BLOCK_NAN. -/
def fBlockNan : Nat := 4
/-- PERM_RANGE. -/
def fPermRange : Nat := 8
/-- V_INVALID. -/
def fInvalid : Nat := 16
/-- V_OVF. -/
def fOvf : Nat := 32
/-- FT_RANGE. -/
def fFtRange : Nat := 64

/-- A flag when its condition holds. -/
def flagIf (b : Bool) (f : Nat) : Nat := if b then f else 0

/-- The flags of an arithmetic result: V_OVF and V_INVALID (06 R161). -/
def ArithOut.flags (r : ArithOut) : Nat := flagIf r.ovf fOvf ||| flagIf r.invalid fInvalid

/-- The flags of a conversion: SAT and NAN_LOST (02 R51). -/
def Rounded.flags (r : Rounded) : Nat := flagIf r.sat fSat ||| flagIf r.nanLost fNanLost

/-! Fields of the vector layout (07 Tables 7.9 and 7.10) -/

/-- FORM. -/
def vForm (n : Nat) : Nat := bits n 61 60
/-- VOP. -/
def vVop (n : Nat) : Nat := bits n 59 55
/-- SUB. -/
def vSub (n : Nat) : Nat := bits n 54 52
/-- The register fields D, A, B and C, by 0 to 3. -/
def vField (n i : Nat) : Nat := bits n (51 - 5 * i) (47 - 5 * i)
/-- RM. -/
def vRm (n : Nat) : Nat := bits n 25 23
/-- SAT. -/
def vSat (n : Nat) : Bool := bit n 22
/-- MSK. -/
def vMsk (n : Nat) : Nat := bits n 21 19
/-- P, which count form does not have. -/
def vP (n : Nat) : Bool := decide (vForm n < 2) && bit n 18
/-- T, which count form does not have. -/
def vT (n : Nat) : Bool := decide (vForm n < 2) && bit n 17
/-- ZM, which only register form has. -/
def vZm (n : Nat) : Bool := vForm n == 0 && bit n 16
/-- G, which only descriptor form has. -/
def vG (n : Nat) : Bool := vForm n == 1 && bit n 16
/-- LANE. -/
def vLane (n : Nat) : Nat := bits n 12 6
/-- The X bit of operand A, B or C (1 to 3) in register and count forms; D has none. -/
def vXbit (n i : Nat) : Bool :=
  if i = 0 then false else if vForm n = 0 then bit n (16 - i) else if vForm n = 2 then bit n (15 - i) else false
/-- The kind of an operand in descriptor form. -/
def vKind (n i : Nat) : Nat := bits n (15 - 2 * i) (14 - 2 * i)
/-- FMT of count form. -/
def vFmt (n : Nat) : Nat := bits n 18 15
/-- The element count of count form (06 R157). -/
def vCount (n : Nat) : Nat := bits n 11 0 + 1

/-- The operation has INT32 lanes: by T, or by FMT = 9 in count form (07 R194), for the operations of 06 R165. -/
def vInt (n : Nat) : Bool :=
  (vT n || (vForm n == 2 && vFmt n == 9)) &&
  ([0, 1, 2, 4, 5].contains (vVop n) || (vVop n == 3 && decide (vSub n ≤ 1)))

/-! One element (06 R160 to R165, R168, R172) -/

/-- What an operation's elements share: the instruction, the draw's inputs (06 R167, R168) and the function table. -/
structure VCtx where
  n : Nat
  seed : Nat
  tid : Nat
  pass : Nat
  step : Nat
  table : Memory
deriving DecidableEq, Repr

/-- word0 of an element under a purpose. -/
def VCtx.word (x : VCtx) (purpose idx : Nat) : Nat := word0 x.seed x.tid x.pass purpose x.step (idx % 2 ^ 64)

/-- The word that a rounding of an element uses: drawn under SR only. -/
def VCtx.sr (x : VCtx) (idx : Nat) : Nat := if vRm x.n = 5 then x.word 1 idx else 0

/-- ABS then NEG on operand A, B or C (0 to 2) (06 R160). -/
def modFp (n k : Nat) (v : FVal) : FVal :=
  let a := if bit n (31 - 2 * k) then v.abs else v
  if bit n (30 - 2 * k) then a.negate else a

/-- ABS then NEG on an INT32 lane, modulo 2^32 (06 R165). -/
def modInt (n k v : Nat) : Nat :=
  let a := if bit n (31 - 2 * k) && bit v 31 then (2 ^ 32 - v) % 2 ^ 32 else v
  if bit n (30 - 2 * k) then (2 ^ 32 - a) % 2 ^ 32 else a

/-- The comparisons (06 Table 6.5); `un` says that an operand is a NaN. -/
def cmpCc (cc : Nat) (un lt eq : Bool) : Bool :=
  match cc with
  | 0 => !un && eq
  | 1 => un || !eq
  | 2 => !un && lt
  | 3 => !un && (lt || eq)
  | 4 => !un && !(lt || eq)
  | 5 => !un && !lt
  | _ => un

/-- 1 or 0 as a value. -/
def boolV (b : Bool) : FVal := .fin false (b2n b) 0

/-- MIN, MAX, MINNUM and MAXNUM by SUB (06 Table 6.5). -/
def minMax (sub : Nat) (a b : FVal) : FVal :=
  if a.isNan || b.isNan then
    (if sub < 2 then .nan else if a.isNan then b else a)
  else if sub % 2 = 0 then (if minLess b a then b else a)
  else if minLess a b then b else a

/-- An FP32 field of a table. -/
def Memory.f32 (m : Memory) (off : Nat) : Nat := m.readLE off 4

/-- A table that FTEVAL may use (06 R171). -/
def tableOk (m : Memory) : Bool :=
  decide ((m.read 12).toNat ≤ 1) && decide ((m.read 13).toNat ≤ 2) && m.readLE 14 2 == 0 && m.readLE 24 8 == 0

/-- The cubic of a segment at v (06 R172). -/
def ftCubic (m : Memory) (v : Nat) : ArithOut :=
  let s := (floorClamp (decodeF fp32F v) 0 255).toNat
  let t := (finishA fp32F 0 0 (addV 0 (decodeF fp32F v) (ofInt (-(s : Int))))).bits
  let cf := fun (i : Nat) => m.f32 (32 + 16 * s + 4 * i)
  let p1 := fmaF fp32F 0 (cf 3) t (cf 2)
  let p2 := fmaF fp32F 0 p1.bits t (cf 1)
  let p3 := fmaF fp32F 0 p2.bits t (cf 0)
  { bits := p3.bits, ovf := p1.ovf || p2.ovf || p3.ovf, invalid := p1.invalid || p2.invalid || p3.invalid }

/-- An FP32 value limited to 0 .. 256 (06 R172). -/
def clamp256 (v : Nat) : Nat :=
  if ltV (decodeF fp32F v) (ofInt 0) then 0
  else if ltV (decodeF fp32F v) (ofInt 256) then v else if (decodeF fp32F v).isNan then v else fp32OfNat 256

/-- FTEVAL of an FP32 value: the FP32 result and its flags (06 R172). The specification does not say which of its inner
operations set V_OVF and V_INVALID; those of the cubic and of the final scaling do here, the reduction of x to the table's
domain does not (DESIGN CHOICE, assumption 91). -/
def ftEval (m : Memory) (x : FVal) : FVal × Nat :=
  if x.isNan then (.nan, 0)
  else if (m.read 12).toNat = 1 then
    match x with
    | .inf s => (if s then .fin false 0 0 else .inf false, 0)
    | _ =>
      let e := floorClamp x (-300) 300
      let d := finishA fp32F 0 0 (addV 0 x (ofInt (-e)))
      let v := clamp256 (mulF fp32F 0 d.bits (fp32OfNat 256)).bits
      let p := ftCubic m v
      let r := roundF fp32F 0 false 0 ((decodeF fp32F p.bits).scale e)
      (decodeF fp32F r.bits, flagIf (p.ovf || r.ovf) fOvf ||| flagIf p.invalid fInvalid)
  else
    let d := finishA fp32F 0 0 (addV 0 x (decodeF fp32F (m.f32 0)).negate)
    let v := (mulF fp32F 0 d.bits (m.f32 8)).bits
    let vv := decodeF fp32F v
    let low := ltV vv (ofInt 0)
    let out := low || (!vv.isNan && !ltV vv (ofInt 256))
    let ood := (m.read 13).toNat
    let fl := flagIf out fFtRange
    if out && ood == 2 then (decodeF fp32F (if low then m.f32 16 else m.f32 20), fl)
    else
      let u := if out && (ood == 0 || x.isInf) then clamp256 v else v
      let p := ftCubic m u
      (decodeF fp32F p.bits, fl ||| p.flags)

/-- One element of a floating-point operation, exactly, with the flags it raises before rounding; `cond` is SEL's
condition and `idx` the element's draw index. -/
def VCtx.fpOp (x : VCtx) (a b c : FVal) (cond : Bool) (thr idx : Nat) : FVal × Nat :=
  let rm := vRm x.n
  let inv := fun (r : FVal × Bool) => (r.1, flagIf r.2 fInvalid)
  match vVop x.n with
  | 0x00 => inv (addV rm a b)
  | 0x01 => inv (mulV a b)
  | 0x02 => inv (fmaV rm a b c)
  | 0x03 => (minMax (vSub x.n) a b, 0)
  | 0x04 => (boolV (cmpCc (vSub x.n) (a.isNan || b.isNan) (ltV a b) (eqV a b)), 0)
  | 0x05 => (if cond then a else b, 0)
  | 0x07 => ftEval x.table a
  | 0x0E => (boolV (keepMask (x.word 0 idx) thr), 0)
  | 0x0F => if keepMask (x.word 0 idx) thr then inv (mulV a c) else (.fin false 0 0, 0)
  | 0x10 => (uniformV (x.word 2 idx), 0)
  | _ => (a, 0)

/-- One element of an INT32 operation (06 R165): 32 bits, or 1 or 0 for CMP. -/
def intOp (n a b c : Nat) (cond : Bool) : Nat :=
  let lt := decide (s32 a < s32 b)
  match vVop n with
  | 0x00 => (a + b) % 2 ^ 32
  | 0x01 => a * b % 2 ^ 32
  | 0x02 => (a * b + c) % 2 ^ 32
  | 0x03 => if vSub n = 0 then (if lt then a else b) else if lt then b else a
  | 0x04 => b2n (cmpCc (vSub n) false lt (a == b))
  | _ => if cond then a else b

/-- The FP32 intermediate of an operation: rounded with RM, or with RNE when SR rounds a narrower destination (06 R160,
R167). -/
def VCtx.mid (x : VCtx) (wide : Bool) (r : FVal × Nat) (idx : Nat) : FVal × Nat × Nat :=
  let rm := if vRm x.n = 5 && !wide then 0 else vRm x.n
  let q := roundF fp32F rm false (x.sr idx) r.1
  (decodeF fp32F q.bits, q.bits, r.2 ||| flagIf q.ovf fOvf)

/-- An element's result in the destination format: CVT rounds once to it from the format of its source, any other operation
through FP32 (06 R160, R166). -/
def VCtx.finish (x : VCtx) (dst src : Fmt) (r : FVal × Nat) (idx : Nat) : Nat × Nat :=
  if vVop x.n = 0x06 then
    let q := roundV dst (vRm x.n) (convSat dst src (vSat x.n)) (x.sr idx) r.1
    (q.bits, r.2 ||| q.flags)
  else
    let wide := dst == .flt fp32F
    let m := x.mid wide r idx
    if wide then (m.2.1, m.2.2)
    else
      let q := roundV dst (vRm x.n) (vSat x.n) (x.sr idx) m.1
      (q.bits, m.2.2 ||| q.flags)

/-- A packed half's result: computed exactly and rounded once to BF16 (06 R160). -/
def VCtx.finishPacked (x : VCtx) (r : FVal × Nat) (idx : Nat) : Nat × Nat :=
  let q := roundF bf16F (vRm x.n) false (x.sr idx) r.1
  (q.bits, r.2 ||| flagIf q.ovf fOvf)

/-! Reductions (05 R140 to R143) -/

/-- A moment triple (05 R142); a sum keeps its partial in `m`. -/
structure Triple where
  n : Nat
  m : Nat
  q : Nat
deriving DecidableEq, Repr

/-- The identity of every reduction (05 R140). -/
def Triple.zero : Triple := { n := 0, m := 0, q := 0 }

/-- A result with the flags gathered on the way. -/
abbrev Flagged (α : Type) := α × Nat

/-- A triple with the NaNs of its mean and sum made canonical (02 R37). -/
def Triple.canon (t : Triple) : Triple := { t with m := canon32 t.m, q := canon32 t.q }

/-- The combine of two triples (05 R142), with the flags that its mean raises and those that its sum of squares raises. -/
def combineParts (a b : Triple) : Triple × Nat × Nat :=
  if b.n = 0 then (a.canon, 0, 0)
  else if a.n = 0 then (b.canon, 0, 0)
  else
    let n := (a.n + b.n) % 2 ^ 32
    let fn := fp32OfNat n
    let d := subF fp32F 0 b.m a.m
    let t := mulF fp32F 0 d.bits (fp32OfNat b.n)
    let tn := divF fp32F t.bits fn
    let m := addF fp32F 0 a.m tn.bits
    let s := addF fp32F 0 a.q b.q
    let dt := mulF fp32F 0 d.bits t.bits
    let dta := mulF fp32F 0 dt.bits (fp32OfNat a.n)
    let e := divF fp32F dta.bits fn
    let q := addF fp32F 0 s.bits e.bits
    ({ n := n, m := m.bits, q := q.bits }, d.flags ||| t.flags ||| tn.flags ||| m.flags,
      d.flags ||| t.flags ||| s.flags ||| dt.flags ||| dta.flags ||| e.flags ||| q.flags)

/-- The combine of two triples with all its flags. -/
def combine (a b : Triple) : Flagged Triple :=
  let c := combineParts a b
  (c.1, c.2.1 ||| c.2.2)

/-- The elements of a combine that are active, each with its value, and the flags they raise: element 0 is the count, which
raises none, 1 the mean and 2 the sum of squares (06 R149, R159, R169). -/
def combineOn (a b : Triple) (on : Nat → Bool) : List (Nat × Nat) × Nat :=
  let c := combineParts a b
  (([(0, c.1.n), (1, c.1.m), (2, c.1.q)] : List (Nat × Nat)).filter (fun p => on p.1),
    (if on 1 then c.2.1 else 0) ||| (if on 2 then c.2.2 else 0))

/-- The variance finish of a triple (05 R143); a NaN result sets V_INVALID. -/
def variance (sample : Bool) (t : Triple) : Flagged Nat :=
  if t.n = 0 ∨ (sample ∧ t.n = 1) then (canonNan fp32F, fInvalid)
  else
    let r := divF fp32F t.q (fp32OfNat (if sample then t.n - 1 else t.n))
    (r.bits, flagIf r.ovf fOvf ||| flagIf (decodeF fp32F r.bits).isNan fInvalid)

/-- One element folded into a lane's partial: RSUM 8, RSSQ 9, RMOM 10 (05 R141, R142). -/
def foldStep (vop : Nat) (p : Triple) (x : Nat) : Flagged Triple :=
  match vop with
  | 8 => let r := addF fp32F 0 p.m x; ({ p with m := r.bits }, r.flags)
  | 9 => let r := fmaF fp32F 0 x x p.m; ({ p with m := r.bits }, r.flags)
  | _ => combine p { n := 1, m := x, q := 0 }

/-- Two partials joined in the tree. -/
def joinStep (vop : Nat) (a b : Triple) : Flagged Triple :=
  if vop = 8 ∨ vop = 9 then
    let r := addF fp32F 0 a.m b.m
    ({ a with m := r.bits }, r.flags)
  else combine a b

/-- One level of the tree: partials 2i and 2i + 1 join into partial i (05 R141). -/
def treeLevel (vop : Nat) : List Triple → Flagged (List Triple)
  | a :: b :: r =>
    let j := joinStep vop a b
    let s := treeLevel vop r
    (j.1 :: s.1, j.2 ||| s.2)
  | _ => ([], 0)

/-- The levels of the tree. -/
def treeFold (vop : Nat) : Nat → List Triple → Flagged (List Triple)
  | 0, l => (l, 0)
  | k + 1, l =>
    let s := treeLevel vop l
    let r := treeFold vop k s.1
    (r.1, s.2 ||| r.2)

/-- The reduction of a group's elements, in traversal order: element q goes to lane q mod 128, and the 128 partials join
in a tree of 7 levels (05 R140 to R142). -/
def reduceGroup (vop : Nat) (xs : List Nat) : Flagged Triple :=
  let lanes := (List.zip (List.range xs.length) xs).foldl (fun (acc : Flagged (Tab Triple)) p =>
    let l := p.1 % 128
    let r := foldStep vop (tabGet Triple.zero acc.1 l) p.2
    (tabSet acc.1 l r.1, acc.2 ||| r.2)) ([], 0)
  let t := treeFold vop 7 ((List.range 128).map (tabGet Triple.zero lanes.1))
  (t.1.getD 0 Triple.zero, lanes.2 ||| t.2)

/-- The elements of a reduction's result: one, or n, m and q (06 R169). -/
def Triple.result (vop : Nat) (t : Triple) : List Nat := if vop = 10 then [t.n, t.m, t.q] else [t.m]

end Sys2Proof.Machine
end

