-- ==== Sys2Proof/Machine/Vector.lean ====
section
/-!
DEFINITION. The vector engine: the legality of its encodings, the operands of its three forms, execution in strips, the
vector queue and its order against the array, the mover and the controller, and the function tables.
-/

namespace Sys2Proof.Machine

/-! Operand columns of 07 Table 7.11 -/

/-- What an operand field names. -/
inductive VCol where
  | unused | v | m | x | src | dst | triple
deriving DecidableEq, Repr

/-- The operand columns of an operation, D, A, B, C, in register form or another. -/
def vCols (n : Nat) : List VCol :=
  let reg := vForm n == 0
  let sub := vSub n
  match vVop n with
  | 0x00 => [.dst, .src, .src, .unused]
  | 0x01 => [.dst, .src, .src, .unused]
  | 0x02 => [.dst, .src, .src, .src]
  | 0x03 => [.dst, .src, .src, .unused]
  | 0x04 => [if reg then .m else .dst, .src, .src, .unused]
  | 0x05 => [.dst, .src, .src, if reg then .m else .src]
  | 0x06 => [.dst, .src, if reg && sub == 2 then .src else .unused, .unused]
  | 0x07 => [.dst, .src, .unused, .unused]
  | 0x08 => [.dst, .src, .unused, .unused]
  | 0x09 => [.dst, .src, .unused, .unused]
  | 0x0A => [.dst, .src, .unused, .unused]
  | 0x0B => [.dst, .triple, .triple, .unused]
  | 0x0C => [.dst, .triple, .unused, .unused]
  | 0x0D => [.v, .v, .v, if bit sub 1 then .m else .unused]
  | 0x0E => [if reg then .m else .dst, .x, .unused, .unused]
  | 0x0F => [.dst, .src, .x, .x]
  | 0x10 => [.dst, .unused, .unused, .unused]
  | 0x11 => [.v, .x, .unused, .unused]
  | 0x12 => [.unused, .x, .v, .unused]
  | 0x13 => [.v, .x, .unused, .unused]
  | 0x14 => [.unused, .x, .v, .unused]
  | 0x15 => [if sub = 1 then .x else .v, if sub = 1 then .v else .x, .unused, .unused]
  | 0x16 => [.m, .m, .m, .unused]
  | 0x17 => if sub = 0 then [.m, .x, .x, .unused] else [.x, .m, .unused, .x]
  | _ => [.x, .x, .unused, .unused]

/-- The forms that 06 Table 6.5 gives an operation. -/
def vFormOk (n : Nat) : Bool :=
  let op := vVop n
  match vForm n with
  | 0 => true
  | 1 => decide (op ≤ 0x0C) || op == 0x0E || op == 0x0F || op == 0x10
  | 2 => decide (op ≤ 0x0A) || op == 0x0E || op == 0x0F || op == 0x10
  | _ => false

/-- The SUB values of an operation. -/
def vSubOk (n : Nat) : Bool :=
  let sub := vSub n
  match vVop n with
  | 0x03 => decide (sub ≤ 3)
  | 0x04 => decide (sub ≤ 6)
  | 0x06 => decide (sub ≤ (if vForm n = 0 then 4 else if vForm n = 1 then 0 else 1))
  | 0x07 => decide (sub ≤ 3)
  | 0x0C => decide (sub ≤ 1)
  | 0x0D => decide (sub ≤ 3)
  | 0x15 => decide (sub ≤ 2)
  | 0x16 => decide (sub ≤ 3)
  | 0x17 => decide (sub ≤ 1)
  | _ => sub == 0

/-- The rules of one operand field (07 R194, R196, R197). -/
def vFieldOk (n i : Nat) (k : VCol) : Bool :=
  let f := vField n i
  match vForm n with
  | 0 =>
    (match k with
     | .unused => f == 0 && !vXbit n i
     | .m => decide (f < 8) && !vXbit n i
     | .src => true
     | _ => !vXbit n i)
  | 1 =>
    let kind := vKind n i
    (match k with
     | .unused => f == 0 && kind == 0
     | .src => decide (kind ≤ 2)
     | .x => kind == 2
     | _ => decide (kind ≤ 1))
  | _ =>
    (match k with
     | .unused => f == 0 && !vXbit n i
     | .x => vXbit n i
     | _ => true)

/-- ABS and NEG of operand A, B or C (0 to 2) are set only where 07 R197 allows them. -/
def vModsOk (n : Nat) : Bool :=
  let op := vVop n
  let two := fun (i : Nat) => bits n (31 - 2 * i) (30 - 2 * i)
  (two 0 == 0 || decide (op ≤ 7) || op == 0x0F) &&
  (two 1 == 0 || decide (op ≤ 5) || (op == 6 && vForm n == 0 && vSub n == 2)) &&
  (two 2 == 0 || op == 2)

/-- The field rules of 07 R194 to R197 that need no operand. -/
def vLegal (n : Nat) : Bool :=
  let op := vVop n
  let cols := vCols n
  decide (op ≤ 0x18) && vFormOk n && vSubOk n &&
  (List.range 4).all (fun i => vFieldOk n i (cols.getD i .unused)) && vModsOk n &&
  (match vForm n with
   | 0 => bits n 5 0 == 0 && (vLane n == 0 || (op == 0x15 && decide (1 ≤ vSub n)))
   | 1 => bits n 7 0 == 0 && (!vG n || (decide (8 ≤ op) && decide (op ≤ 10)))
   | _ => vFmt n != 7 && decide (vFmt n < 10)) &&
  !(vP n && vT n) &&
  (!vT n || [0, 1, 2, 4, 5].contains op || (op == 3 && decide (vSub n ≤ 1))) &&
  (!vP n || [0, 1, 2, 3, 5, 7, 15, 16].contains op || (vForm n == 1 && (op == 6 || op == 14))) &&
  decide (vRm n < 6) && (vForm n != 0 || (vRm n == 0 && !vSat n) || [0, 1, 2, 6, 7, 15].contains op) &&
  (vRm n == 0 || !(decide (8 ≤ op) && decide (op ≤ 12))) &&
  (!vZm n || (match cols.getD 0 .unused with | .v => true | .dst => true | _ => false))

/-! Operands at issue (06 R152, R157, R163, 07 R195) -/

/-- The X registers that an operand field reads or writes. -/
def vXregs (n : Nat) : List Nat :=
  let cols := vCols n
  (List.range 4).filterMap (fun i =>
    let k := cols.getD i .unused
    if vForm n = 0 then (if k == .x || vXbit n i then some (vField n i) else none)
    else if k == .unused then none else some (vField n i))

/-- Bytes of `n` elements of a format that lie contiguously. -/
def flatBytes (fmt n : Nat) : Nat := (n * fmtBits fmt + 7) / 8

/-- The element formats of an operand of count form (06 R157, R166, R169). -/
def flatFmt (n i : Nat) : Nat :=
  match vVop n with
  | 0x06 => if (vSub n == 0) == (i == 0) then 0 else vFmt n
  | 0x08 => if i = 0 then 0 else vFmt n
  | 0x09 => if i = 0 then 0 else vFmt n
  | 0x0A => if i = 0 then 0 else vFmt n
  | _ => vFmt n

/-- The elements of an operand of count form. -/
def flatCount (n i : Nat) : Nat :=
  if i = 0 ∧ 8 ≤ vVop n ∧ vVop n ≤ 10 then (if vVop n = 10 then 3 else 1) else vCount n

/-- A region specification (07 R195). -/
def regionOf (x : Nat) : Except (Nat × Nat) VOpnd :=
  let row := bits x 8 0
  let rows := bits x 25 16
  if bits x 15 10 ≠ 0 ∨ bits x 63 26 ≠ 0 ∨ rows = 0 ∨ 512 < rows ∨ 512 < row + rows then .error (exDesc, x)
  else .ok (.region row (bits x 9 9) rows)

/-- An operand of descriptor form. -/
def Tile.descOpnd (v : Tile) (n i : Nat) (k : VCol) : Except (Nat × Nat) VOpnd :=
  let x := v.xr (vField n i)
  if k = .unused then .ok .none
  else if vKind n i = 2 then .ok (.scalar (x % 2 ^ 32))
  else if vKind n i = 1 then regionOf x
  else match v.goodDesc x with
    | .error e => .error e
    | .ok d => if d.tmem && d.layout == 0 then .ok (.tensor d) else .error (exDesc, x)

/-- An operand of count form: MISALIGNED, then TMEM_BOUNDS (06 R157). -/
def Tile.flatOpnd (v : Tile) (n i : Nat) (k : VCol) : Except (Nat × Nat) VOpnd :=
  let x := v.xr (vField n i)
  if k = .unused then .ok .none
  else if vXbit n i then .ok (.scalar (x % 2 ^ 32))
  else
    let len := flatBytes (flatFmt n i) (flatCount n i)
    if x % fmtAlign (flatFmt n i) ≠ 0 then .error (exMisaligned, x)
    else if tmemSize < x + len then .error (exBounds, max x tmemSize)
    else .ok (.flat x len)

/-- An operand of register form. -/
def Tile.regOpnd (v : Tile) (n i : Nat) (k : VCol) : VOpnd :=
  if k == .x || vXbit n i then .scalar (v.xr (vField n i)) else if k == .unused || k == .m then .none else .reg (vField n i)

/-- The operands of a list, or the first error. -/
def collect : List (Except (Nat × Nat) VOpnd) → Except (Nat × Nat) (List VOpnd)
  | [] => .ok []
  | .error e :: _ => .error e
  | .ok o :: r => match collect r with | .error e => .error e | .ok l => .ok (o :: l)

/-- The offset of VLD and VST (06 R163). -/
def regOffset (x : Nat) : Except (Nat × Nat) Unit :=
  if x % 4 ≠ 0 then .error (exMisaligned, x) else if tmemSize < x + 512 then .error (exBounds, x) else .ok ()

/-- The operands of an instruction as it issues; the first is the destination's place. -/
def Tile.vecOpnds (v : Tile) (n : Nat) : Except (Nat × Nat) (List VOpnd) :=
  let cols := vCols n
  let all := fun (f : Nat → VCol → Except (Nat × Nat) VOpnd) =>
    collect ((List.range 4).map (fun i => f i (cols.getD i .unused)))
  match vForm n with
  | 0 =>
    let os := (List.range 4).map (fun i => v.regOpnd n i (cols.getD i .unused))
    let x := v.xr (vField n 1)
    (match vVop n with
     | 0x11 => (match regOffset x with | .error e => .error e | .ok () => .ok [.reg (vField n 0), .flat x 512, .none, .none])
     | 0x12 => (match regOffset x with | .error e => .error e | .ok () => .ok [.flat x 512, .none, .reg (vField n 2), .none])
     | 0x13 => .ok [.reg (vField n 0), .region (bits x 8 0) (bits x 9 9) 1, .none, .none]
     | 0x14 => .ok [.region (bits x 8 0) (bits x 9 9) 1, .none, .reg (vField n 2), .none]
     | _ => .ok os)
  | 1 => all (v.descOpnd n)
  | _ => all (v.flatOpnd n)

/-! Views of operands -/

/-- An operand as a tensor: its descriptor, whose base a region does not use; its accumulator rows; or its scalar. -/
structure View where
  d : TDesc
  rows : Option (Nat × Nat)
  scalar : Option Nat
deriving DecidableEq, Repr

/-- A plain descriptor of a rank and extents. -/
def plainDesc (base fmt : Nat) (ext : List Nat) : TDesc :=
  { off := 0, base := base, tid := 0, fmt := fmt, rank := ext.length, mx := false, tmem := true, layout := 0, ext := ext,
    str := [0, 0, 0, 0, 0, 0], sbase := 0, sstr := [0, 0, 0, 0, 0, 0], raw := [] }

/-- The view of operand i of an instruction. -/
def viewOf (n i : Nat) (o : VOpnd) : View :=
  match o with
  | .tensor d => { d := d, rows := none, scalar := none }
  | .region row bank rows => { d := plainDesc 0 0 [128, rows], rows := some (bank, row), scalar := none }
  | .flat off _ => { d := plainDesc off (flatFmt n i) [flatCount n i], rows := none, scalar := none }
  | .scalar x =>
    { d := plainDesc 0 (if vForm n = 2 ∧ flatFmt n i = 9 then 9 else 0) [1], rows := none, scalar := some (x % 2 ^ 32) }
  | _ => { d := plainDesc 0 0 [1], rows := none, scalar := some 0 }

/-- Two tensors have the same rank and extents. -/
def sameShape (a b : TDesc) : Bool := a.rank == b.rank && (List.range 6).all (fun i => a.extent i == b.extent i)

/-- The extents above dimension 0 agree. -/
def sameRows (a b : TDesc) : Bool := a.rank == b.rank && (List.range 5).all (fun i => a.extent (i + 1) == b.extent (i + 1))

/-- The operand is a tensor or a region. -/
def VOpnd.shaped : VOpnd → Bool
  | .tensor _ => true
  | .region _ _ _ => true
  | _ => false

/-- The operand is a tensor of a format without MX. -/
def VOpnd.isFmt (o : VOpnd) (fmt : Nat) : Bool :=
  match o with
  | .tensor d => d.fmt == fmt && !d.mx
  | _ => false

/-- The number of elements of a tensor. -/
def TDesc.size (d : TDesc) : Nat := (List.range 6).foldl (fun k i => k * d.extent i) 1

/-- The shape rules of descriptor form and the formats of packed operation (06 R153, R160, R169): an operand index that
breaks them, or an illegal format. -/
def shapeError (n : Nat) (os : List VOpnd) : Option (Option Nat) :=
  let vw := fun (i : Nat) => (viewOf n i (os.getD i .none)).d
  let at_ := fun (i : Nat) => os.getD i .none
  let srcs := [1, 2, 3].filter (fun i => (at_ i).shaped)
  if vP n && ([0, 1, 2, 3].any (fun i => (at_ i).shaped && !(at_ i).isFmt 1)) then some none
  else
    let op := vVop n
    let dst := vw 0
    let f32 := (at_ 0).isFmt 0
    if op = 8 ∨ op = 9 ∨ op = 10 then
      let e0 := if op = 10 then 3 else 1
      let whole := dst.rank == 1 && dst.extent 0 == e0
      let byRow := dst.extent 0 == e0 && (!(at_ 1).shaped || sameRows dst (vw 1))
      if f32 && (if vG n then whole else byRow) then none else some (some 0)
    else if op = 11 then
      if !(f32 && dst.extent 0 == 3) then some (some 0)
      else (srcs.find? (fun i => !((at_ i).isFmt 0 && sameShape dst (vw i)))).map some
    else if op = 12 then
      if !(f32 && dst.extent 0 == 1) then some (some 0)
      else (srcs.find? (fun i => !((at_ i).isFmt 0 && (vw i).extent 0 == 3 && sameRows dst (vw i)))).map some
    else (srcs.find? (fun i => !sameShape dst (vw i))).map some

/-! Reads and writes of one element -/

/-- The granule of an accumulator column. -/
def accGranule (bank row col : Nat) : Nat := (bank * 512 + row) * 8 + col / 16

/-- TVAL of poison in an accumulator granule (06 R159). -/
def accTval (bank row col : Nat) : Nat := 2 ^ 63 + 2 ^ 62 + bank * 2 ^ 18 + row * 2 ^ 9 + col / 16 * 64

/-- The raw bits of an element of a view, in strip position `lane` of half `half` for a scalar, and its MX scale. -/
def View.raw (w : View) (v : Tile) (packed : Bool) (cs : List Nat) (i0 : Nat) : Nat × Nat :=
  match w.scalar, w.rows with
  | some x, _ => (if packed then (if i0 % 2 = 0 then x % 65536 else x / 65536) else x, 127)
  | none, some (bank, row) => (v.acc.get bank (row + cs.getD 0 0) i0, 127)
  | none, none =>
    let p := w.d.elemAt cs i0
    (v.mem.bitsAt p.1 p.2 (fmtBits w.d.fmt), if w.d.mx then (v.mem.read (w.d.scaleAt cs i0)).toNat else 127)

/-- TVAL of the first poisoned granule that an element of a view uses (06 R159). -/
def View.bad (w : View) (v : Tile) (cs : List Nat) (i0 : Nat) : Option Nat :=
  match w.scalar, w.rows with
  | some _, _ => none
  | none, some (bank, row) =>
    let r := row + cs.getD 0 0
    if setHas v.acc.poison (accGranule bank r i0) then some (accTval bank r i0) else none
  | none, none =>
    let p := w.d.elemAt cs i0
    match v.poisonAt p.1 ((p.2 + fmtBits w.d.fmt + 7) / 8) with
    | some g => some (64 * g + 2 ^ 63)
    | none =>
      if w.d.mx then (v.poisonAt (w.d.scaleAt cs i0) 1).map (fun g => 64 * g + 2 ^ 63) else none

/-- The format in which a view's raw bits are read: its own, or for a scalar in packed operation a BF16 pair. -/
def View.fmt (w : View) (n : Nat) : Nat := if w.scalar.isSome && vP n then 1 else w.d.fmt

/-- The format from which CVT converts a view's elements: MX values are decoded to FP32 first (02 R50). -/
def View.source (w : View) (n : Nat) : Fmt := if w.d.mx then .flt fp32F else (fmtOfCode (w.fmt n)).getD (.flt fp32F)

/-- A source converted to FP32 on reading, with the flag that decoding an MX value may set (02 R45, R50, 06 R160); CVT
takes an INT32 source as it is, for it rounds once. An MX infinity decodes to an infinity whatever SAT says (02 R50). -/
def VCtx.load (x : VCtx) (w : View) (raw : Nat × Nat) : FVal × Nat :=
  let f := w.fmt x.n
  let val := operandV f w.d.mx raw.1 raw.2
  let rm := if vRm x.n = 5 then 0 else vRm x.n
  if w.d.mx then
    let q := roundF fp32F rm (vSat x.n && val.isFin) 0 val
    (decodeF fp32F q.bits, q.flags)
  else if f = 9 ∧ vVop x.n ≠ 6 then (decodeF fp32F (roundF fp32F rm false 0 val).bits, 0)
  else (val, 0)

/-- `nb` bits stored at a byte and bit of tile memory. -/
def Memory.putBitsAt (m : Memory) (a b nb x : Nat) : Memory :=
  if b = 0 ∧ nb % 8 = 0 then m.writeLE a (nb / 8) x
  else
    let k := (b + nb + 7) / 8
    m.writeLE a k (putBits (m.readLE a k) b nb x)

/-- A granule all of whose bits are written by some fields (byte, bit, width) (03 R72). -/
def wroteGranule (fs : List (Nat × Nat × Nat)) (g : Nat) : Bool :=
  (List.range 512).all (fun k =>
    fs.any (fun f => decide (8 * f.1 + f.2.1 ≤ 512 * g + k) && decide (512 * g + k < 8 * f.1 + f.2.1 + f.2.2)))

/-- Fields written to tile memory in order, clearing the poison of each granule they write whole. -/
def Tile.putFields (v : Tile) (fs : List ((Nat × Nat × Nat) × Nat)) : Tile :=
  let places := fs.map (·.1)
  let touched := v.poison.filter (fun g => places.any (fun f => f.1 / 64 == g))
  { v with
    mem := fs.foldl (fun m f => m.putBitsAt f.1.1 f.1.2.1 f.1.2.2 f.2) v.mem
    poison := setPut v.poison (touched.filter (wroteGranule places)) false }

/-- Columns of an accumulator row written by the vector engine: the chunk count becomes 0, and the poison of each granule
whose 16 columns are written clears (05 R135, R139, 06 R152). -/
def Tile.putRow (v : Tile) (bank row : Nat) (cols : List (Nat × Nat)) : Tile :=
  if cols.isEmpty then v
  else
    let a := cols.foldl (fun (a : Acc) p => a.put bank row p.1 p.2) v.acc
    let whole := (List.range 8).filter (fun g => (List.range 16).all (fun i => cols.any (fun p => p.1 == 16 * g + i)))
    { v with acc := { a with
        count := tabSet a.count (bank * 512 + row) 0
        poison := setPut a.poison (whole.map (fun g => (bank * 512 + row) * 8 + g)) false } }

/-- Elements of one row of a tensor or region written: (i0, bits). -/
def Tile.putEls (v : Tile) (w : View) (cs : List Nat) (els : List (Nat × Nat)) : Tile :=
  match w.rows with
  | some (bank, row) => v.putRow bank (row + cs.getD 0 0) els
  | none => v.putFields (els.map (fun p => let q := w.d.elemAt cs p.1; ((q.1, q.2, fmtBits w.d.fmt), p.2)))

/-! Strips (06 R154, R158, R159) -/

/-- Elements in a strip. -/
def stripLen (n : Nat) : Nat := if vP n then 256 else 128

/-- The lane of an element (06 R154). -/
def laneOf (n i0 : Nat) : Nat := if vP n then i0 % 256 / 2 else i0 % 128

/-- The named mask lets a lane act (06 R158). -/
def maskOn (v : Tile) (n lane : Nat) : Bool := vMsk n == 0 || bit (tabGet 0 v.vec.m (vMsk n)) lane

/-- The strips of a tensor in traversal order: the coordinates of the row and its active elements. -/
def strips (v : Tile) (n : Nat) (d : TDesc) : List (List Nat × List Nat) :=
  let s := stripLen n
  d.rows.flatMap (fun cs =>
    (List.range (ceilDiv (d.extent 0) s)).map (fun k =>
      (cs, ((List.range (min s (d.extent 0 - k * s))).map (fun i => k * s + i)).filter (fun i0 => maskOn v n (laneOf n i0)))))

/-- How far an instruction has come: the tile, the TVAL of a poisoned granule that stopped it, and the values gathered for
a reduction. -/
structure VRun where
  v : Tile
  stop : Option Nat
  xs : List Nat
deriving DecidableEq, Repr

/-- Flags set in VSTATUS. -/
def Tile.vflag (v : Tile) (f : Nat) : Tile := { v with vec := { v.vec with vstatus := v.vec.vstatus ||| f } }

/-- Some source or destination of an INT32 operation has another format, where the result is not stated. -/
def intOpen (n : Nat) (ws : List View) : Bool :=
  vInt n && vForm n == 1 && ([0, 1, 2, 3].any (fun i =>
    let w := ws.getD i { d := plainDesc 0 9 [1], rows := none, scalar := none }
    w.scalar.isNone && w.d.fmt != 9 && !(i == 0 && vVop n == 4) && !(i == 3 && vVop n == 5)))

/-- The result of one element before its conversion, for the forms that address tensors. -/
def VCtx.element (x : VCtx) (v : Tile) (ws : List View) (thr : Nat) (cs : List Nat) (i0 idx : Nat) : FVal × Nat :=
  let w := fun (i : Nat) => ws.getD i { d := plainDesc 0 0 [1], rows := none, scalar := some 0 }
  let ld := fun (i : Nat) => x.load (w i) ((w i).raw v (vP x.n) cs i0)
  let a := ld 1
  let b := ld 2
  let c := ld 3
  let cond := vVop x.n == 5 && !(operandV ((w 3).fmt x.n) (w 3).d.mx ((w 3).raw v (vP x.n) cs i0).1 127).isZero
  let r := x.fpOp (modFp x.n 0 a.1) (modFp x.n 1 b.1) (modFp x.n 2 c.1) cond thr idx
  (r.1, r.2 ||| a.2 ||| b.2 ||| c.2)

/-- The INT32 result of one element, where an operand or the destination of another format leaves it free. -/
def VCtx.intElement (x : VCtx) (v : Tile) (ws : List View) (cs : List Nat) (i0 : Nat) : Nat :=
  let w := fun (i : Nat) => ws.getD i { d := plainDesc 0 9 [1], rows := none, scalar := some 0 }
  let ld := fun (i : Nat) => ((w i).raw v false cs i0).1
  let cond := vVop x.n == 5 && !(operandV ((w 3).fmt x.n) (w 3).d.mx (ld 3) 127).isZero
  intOp x.n (modInt x.n 0 (ld 1)) (modInt x.n 1 (ld 2)) (modInt x.n 2 (ld 3)) cond

/-- The first poison that the active elements of a strip use, lowest element first, then in operand order. -/
def stripBad (v : Tile) (ws : List View) (cs : List Nat) (els : List Nat) : Option Nat :=
  els.findSome? (fun i0 => (ws.drop 1).findSome? (fun w => w.bad v cs i0))

/-- The draw index of an element: its logical index, or in count form VIBASE plus its number (06 R167). -/
def elIndex (v : Tile) (n : Nat) (d : TDesc) (cs : List Nat) (i0 : Nat) : Nat :=
  if vForm n = 2 then v.vec.vibase + i0 else d.index cs i0

/-- The fields of one MX block of a strip, its elements and its scale, and its flags (02 R49, 06 R166). The specification
does not say what the scale of a block is when a mask leaves only some of its 32 elements active; here those alone form it,
and the scale byte is written with them (DESIGN CHOICE, assumption 90). -/
def blockFields (x : VCtx) (w : View) (cs : List Nat) (els : List (Nat × FVal × Nat × Nat)) (blk : Nat) :
    List ((Nat × Nat × Nat) × Nat) × Nat :=
  let mine := els.filter (fun e => e.1 / 32 == blk)
  let m := encodeMx w.d.fmt (vRm x.n) (mine.map (fun e => e.2.2.2)) (mine.map (fun e => e.2.1))
  ((List.zip mine m.elems).map (fun p => let q := w.d.elemAt cs p.1.1; ((q.1, q.2, fmtBits w.d.fmt), p.2)) ++
      [((w.d.scaleAt cs (32 * blk), 0, 8), m.scale)],
    flagIf m.sat fSat ||| flagIf m.blockNan fBlockNan ||| mine.foldl (fun f e => f ||| e.2.2.1) 0)

/-- The blocks of a strip in order. -/
def blocksOf (els : List Nat) : List Nat := els.foldl (fun l i0 => setIns l (i0 / 32)) []

/-- The MX blocks of one strip written as one write, so that a granule they fill loses its poison (03 R72). -/
def Tile.putBlocks (v : Tile) (x : VCtx) (w : View) (cs : List Nat) (els : List (Nat × FVal × Nat × Nat)) : Tile :=
  let bs := (blocksOf (els.map (·.1))).map (blockFields x w cs els)
  (v.putFields (bs.flatMap (·.1))).vflag (bs.foldl (fun f b => f ||| b.2) 0)

/-- The INT32 result of one element: a free value where an operand or the destination of another format leaves it open. -/
def VCtx.intOut (x : VCtx) (v : Tile) (ws : List View) (free : Nat) (cs : List Nat) (i0 idx : Nat) : Nat :=
  if intOpen x.n ws then Config.freeValue (free + idx) % (if vVop x.n = 4 then 2 else 2 ^ 32) else x.intElement v ws cs i0

/-- One strip of an elementwise operation. -/
def VCtx.strip (x : VCtx) (ws : List View) (thr free : Nat) (r : VRun) (s : List Nat × List Nat) : VRun :=
  if r.stop.isSome then r
  else
    let v := r.v
    let w := ws.getD 0 { d := plainDesc 0 0 [1], rows := none, scalar := none }
    match stripBad v ws s.1 s.2 with
    | some tv => { r with stop := some tv }
    | none =>
      if vInt x.n ∧ vVop x.n ≠ 4 then
        let u := v.putEls w s.1 (s.2.map (fun i0 => (i0, x.intOut v ws free s.1 i0 (w.d.index s.1 i0) % 2 ^ fmtBits w.d.fmt)))
        if w.d.mx then
          { r with v := u.putFields ((blocksOf s.2).map (fun k =>
              ((w.d.scaleAt s.1 (32 * k), 0, 8), Config.freeValue (free + w.d.size + w.d.index s.1 (32 * k)) % 256))) }
        else { r with v := u }
      else if vInt x.n then
        let bit := fun (i0 : Nat) => FVal.fin false (x.intOut v ws free s.1 i0 (w.d.index s.1 i0)) 0
        if w.d.mx then { r with v := v.putBlocks x w s.1 (s.2.map (fun i0 => (i0, bit i0, 0, 0))) }
        else
          { r with v := v.putEls w s.1 (s.2.map (fun i0 =>
              (i0, (roundV ((fmtOfCode w.d.fmt).getD .int32) 0 false 0 (bit i0)).bits))) }
      else if w.d.mx then
        { r with v := v.putBlocks x w s.1 (s.2.map (fun i0 =>
            let idx := elIndex v x.n w.d s.1 i0
            let m := x.mid false (x.element v ws thr s.1 i0 idx) idx
            (i0, m.1, m.2.2, x.sr idx))) }
      else
        let src := (ws.getD 1 { d := plainDesc 0 0 [1], rows := none, scalar := none }).source x.n
        let els := s.2.map (fun i0 =>
          let idx := elIndex v x.n w.d s.1 i0
          let e := x.element v ws thr s.1 i0 idx
          let q := if vP x.n then x.finishPacked e idx
            else match fmtOfCode w.d.fmt with
              | some f => x.finish f src e idx
              | none => (0, 0)
          (i0, q))
        let u := v.putEls w s.1 (els.map (fun p => (p.1, p.2.1)))
        { r with v := u.vflag (els.foldl (fun f p => f ||| p.2.2) 0) }

/-! Reductions of tensors (06 R169) -/

/-- A reduction's result written to the row of its group. -/
def Tile.putResult (v : Tile) (x : VCtx) (w : View) (cs : List Nat) (free : Option Nat) (xs : List Nat) : Tile :=
  let r := reduceGroup (vVop x.n) xs
  let vals := match free with
    | some k => (List.range (if vVop x.n = 10 then 3 else 1)).map (fun i => Config.freeValue (k + i) % 2 ^ 32)
    | none => r.1.result (vVop x.n)
  (v.putEls w cs (List.zip (List.range vals.length) vals)).vflag (if free.isSome then 0 else r.2)

/-- The active elements of one strip of a reduction's source gathered, unless a poisoned one stops it. -/
def VCtx.gather (x : VCtx) (src : View) (r : VRun) (s : List Nat × List Nat) : VRun :=
  if r.stop.isSome then r
  else match s.2.findSome? (src.bad r.v s.1) with
    | some tv => { r with stop := some tv }
    | none =>
      let els := s.2.map (fun i0 => x.load src (src.raw r.v false s.1 i0))
      let vals := els.map (fun e => (roundF fp32F 0 false 0 e.1).bits)
      { r with v := r.v.vflag (els.foldl (fun f e => f ||| e.2) 0), xs := r.xs ++ vals }

/-- A reduction in descriptor or count form. A scalar source in descriptor form has no shape, and its result is free. -/
def VCtx.reduce (x : VCtx) (ws : List View) (free : Nat) (v : Tile) : VRun :=
  let w := ws.getD 0 { d := plainDesc 0 0 [1], rows := none, scalar := none }
  let src := ws.getD 1 { d := plainDesc 0 0 [1], rows := none, scalar := some 0 }
  let start : VRun := { v := v, stop := none, xs := [] }
  if vForm x.n = 1 ∧ src.scalar.isSome then
    { start with v := w.d.rows.foldl (fun u cs => u.putResult x w cs (some (free + w.d.index cs 0)) []) v }
  else if vForm x.n = 2 then
    let sd := if src.scalar.isSome then { src with d := plainDesc 0 (vFmt x.n) [vCount x.n] } else src
    let r := (strips v x.n sd.d).foldl (x.gather sd) start
    if r.stop.isSome then r else { r with v := r.v.putResult x w [0, 0, 0, 0, 0] none r.xs }
  else if vG x.n then
    let r := (strips v x.n src.d).foldl (x.gather src) start
    if r.stop.isSome then r else { r with v := r.v.putResult x w [0, 0, 0, 0, 0] none r.xs }
  else
    src.d.rows.foldl (fun (r : VRun) cs =>
      if r.stop.isSome then r
      else
        let g := ((strips r.v x.n src.d).filter (fun s => s.1 == cs)).foldl (x.gather src) { r with xs := [] }
        if g.stop.isSome then g else { g with v := g.v.putResult x w cs none g.xs }) start

/-- A triple read from three consecutive elements of a row. -/
def View.triple (w : View) (v : Tile) (cs : List Nat) : Triple :=
  { n := (w.raw v false cs 0).1, m := (w.raw v false cs 1).1, q := (w.raw v false cs 2).1 }

/-- MCOMB and the variance finishes over tensors of triples. -/
def VCtx.triples (x : VCtx) (ws : List View) (v : Tile) : VRun :=
  let w := ws.getD 0 { d := plainDesc 0 0 [1], rows := none, scalar := none }
  let a := ws.getD 1 { d := plainDesc 0 0 [1], rows := none, scalar := some 0 }
  let b := ws.getD 2 { d := plainDesc 0 0 [1], rows := none, scalar := some 0 }
  w.d.rows.foldl (fun (r : VRun) cs =>
    if r.stop.isSome then r
    else
      let on := (List.range (w.d.extent 0)).filter (fun i0 => maskOn r.v x.n i0)
      let used := if vVop x.n = 11 then on else if on.isEmpty then [] else [0, 1, 2]
      match used.findSome? (fun i0 => match a.bad r.v cs i0 with | some t => some t | none => b.bad r.v cs i0) with
      | some tv => { r with stop := some tv }
      | none =>
        if on.isEmpty then r
        else
          let res : List (Nat × Nat) × Nat :=
            if vVop x.n = 11 then combineOn (a.triple r.v cs) (b.triple r.v cs) on.contains
            else
              let q := variance (vSub x.n == 1) (a.triple r.v cs)
              ([(0, q.1)], q.2)
          { r with v := (r.v.putEls w cs res.1).vflag res.2 })
    { v := v, stop := none, xs := [] }

/-! Register form -/

/-- A lane of a vector register. -/
def Vec.lane (v : Vec) (r j : Nat) : Nat := tabGet 0 v.v (r * 128 + j)
/-- A lane set. -/
def Vec.setLane (v : Vec) (r j x : Nat) : Vec := { v with v := tabSet v.v (r * 128 + j) (x % 2 ^ 32) }
/-- A mask register. -/
def Vec.mask (v : Vec) (k : Nat) : Nat := tabGet 0 v.m k
/-- A mask register set. -/
def Vec.setMask (v : Vec) (k x : Nat) : Vec := { v with m := tabSet v.m k (x % 2 ^ 128) }

/-- The active lanes of register form (06 R158). -/
def Tile.lanes (v : Tile) (n : Nat) : List Nat := (List.range v.vec.vl).filter (maskOn v n)

/-- A 128-bit number from the lanes that are set. -/
def maskOfLanes (l : List Nat) : Nat := l.foldl (fun m j => m ||| 2 ^ j) 0

/-- Results written to lanes of a register; inactive lanes keep their value, or are zero under ZM (06 R158). -/
def Tile.putLanes (v : Tile) (n d : Nat) (active : List Nat) (rs : List (Nat × Nat)) : Tile :=
  let base := if vZm n then
      ((List.range 128).filter (fun j => !active.contains j)).foldl (fun (u : Vec) j => u.setLane d j 0) v.vec
    else v.vec
  { v with vec := rs.foldl (fun (u : Vec) p => u.setLane d p.1 p.2) base }

/-- The 32 bits of an operand in a lane. -/
def laneRaw (v : Tile) (o : VOpnd) (j : Nat) : Nat :=
  match o with
  | .reg r => v.vec.lane r j
  | .scalar x => x % 2 ^ 32
  | _ => 0

/-- One lane of an elementwise operation in register form: 32 bits and flags (06 R160 to R168). -/
def VCtx.lane (x : VCtx) (v : Tile) (os : List VOpnd) (j : Nat) : Nat × Nat :=
  let n := x.n
  let raw := fun (i : Nat) => laneRaw v (os.getD i .none) j
  let cond := bit (v.vec.mask (vField n 3)) j
  let thr := match vVop n with | 0x0F => raw 2 | _ => raw 1
  let f32 := fun (i : Nat) => decodeF fp32F (raw i)
  let idx := v.vec.vibase + j
  if vVop n = 0x06 then
    let a := modFp n 0 (f32 1)
    match vSub n with
    | 0 => let q := roundI 32 (vRm n) (x.sr idx) a; (q.bits, q.flags)
    | 1 => let q := roundF fp32F (vRm n) false (x.sr idx) (modFp n 0 (decodeV .int32 (raw 1))); (q.bits, 0)
    | 2 =>
      let i2 := v.vec.vibase + 2 * j
      let lo := roundF bf16F (vRm n) (vSat n) (x.sr i2) a
      let hi := roundF bf16F (vRm n) (vSat n) (x.sr (i2 + 1)) (modFp n 1 (f32 2))
      (lo.bits + hi.bits * 65536, lo.flags ||| hi.flags)
    | k =>
      let h := if k = 3 then raw 1 % 65536 else raw 1 / 65536
      ((roundF fp32F 0 false 0 (modFp n 0 (decodeF bf16F h))).bits, 0)
  else if vInt n then (intOp n (modInt n 0 (raw 1)) (modInt n 1 (raw 2)) (modInt n 2 (raw 3)) cond, 0)
  else if vP n then
    let half := fun (h : Nat) =>
      let g := fun (i : Nat) => decodeF bf16F (if h = 0 then raw i % 65536 else raw i / 65536)
      let k := v.vec.vibase + 2 * j + h
      x.finishPacked (x.fpOp (modFp n 0 (g 1)) (modFp n 1 (g 2)) (modFp n 2 (g 3)) cond thr k) k
    let lo := half 0
    let hi := half 1
    (lo.1 + hi.1 * 65536, lo.2 ||| hi.2)
  else x.finish (.flt fp32F) (.flt fp32F) (x.fpOp (modFp n 0 (f32 1)) (modFp n 1 (f32 2)) (modFp n 2 (f32 3)) cond thr idx) idx

/-- The condition of CMP in a lane, or the keep decision of RMASK (06 R164, R168). -/
def VCtx.laneBit (x : VCtx) (v : Tile) (os : List VOpnd) (j : Nat) : Bool :=
  if vVop x.n = 0x0E then keepMask (x.word 0 (v.vec.vibase + j)) (laneRaw v (os.getD 1 .none) j)
  else
    let raw := fun (i : Nat) => laneRaw v (os.getD i .none) j
    if vInt x.n then intOp x.n (modInt x.n 0 (raw 1)) (modInt x.n 1 (raw 2)) 0 false == 1
    else (x.fpOp (modFp x.n 0 (decodeF fp32F (raw 1))) (modFp x.n 1 (decodeF fp32F (raw 2))) .nan false 0 0).1 == boolV true

/-- A triple in lanes 0 to 2 of an operand (06 R169). -/
def laneTriple (v : Tile) (o : VOpnd) : Triple := { n := laneRaw v o 0, m := laneRaw v o 1, q := laneRaw v o 2 }

/-- PERM and PERMF (06 R170). -/
def Tile.permute (v : Tile) (n : Nat) : Tile :=
  let act := v.lanes n
  let idx := fun (j : Nat) => v.vec.lane (vField n 2) j % 256
  let inRange := fun (j : Nat) => decide (idx j < v.vec.vl)
  let rs := act.map (fun j =>
    (j, if inRange j then v.vec.lane (vField n 1) (idx j) else if bit (vSub n) 0 then v.vec.vfill else 0))
  let u := v.putLanes n (vField n 0) act rs
  let u := if bit (vSub n) 1 then { u with vec := u.vec.setMask (vField n 3) (maskOfLanes (act.filter inRange)) } else u
  u.vflag (flagIf (act.any (fun j => !inRange j)) fPermRange)

/-- The bits of a mask register at active lanes taken from `x`, the others kept. -/
def mergeMask (old x : Nat) (act : List Nat) : Nat :=
  let m := maskOfLanes act
  (old - (old &&& m)) ||| (x &&& m)

/-- The bitwise mask operations (06 Table 6.5). -/
def maskOp (sub a b : Nat) : Nat :=
  match sub with
  | 0 => a &&& b
  | 1 => a ||| b
  | 2 => a ^^^ b
  | _ => a - (a &&& b)

/-- VLD, VST, VLDA and VSTA (06 R163); a poisoned granule stops a load. -/
def Tile.moveReg (v : Tile) (n : Nat) (os : List VOpnd) : VRun :=
  let done := fun (u : Tile) => ({ v := u, stop := none, xs := [] } : VRun)
  match os.getD 0 .none, os.getD 1 .none with
  | .reg r, .flat off _ =>
    (match v.poisonAt off 512 with
     | some g => { v := v, stop := some (64 * g + 2 ^ 63), xs := [] }
     | none => done { v with vec := (List.range 128).foldl (fun (u : Vec) j => u.setLane r j (v.mem.readLE (off + 4 * j) 4)) v.vec })
  | .reg r, .region row bank _ =>
    (match (List.range 8).find? (fun g => setHas v.acc.poison ((bank * 512 + row) * 8 + g)) with
     | some g => { v := v, stop := some (accTval bank row (16 * g)), xs := [] }
     | none => done { v with vec := (List.range 128).foldl (fun (u : Vec) j => u.setLane r j (v.acc.get bank row j)) v.vec })
  | .flat off _, _ =>
    let ls := if vMsk n = 0 then List.range 128 else v.lanes n
    done (v.putFields (ls.map (fun j => ((off + 4 * j, 0, 32), v.vec.lane (vField n 2) j))))
  | .region row bank _, _ =>
    let ls := if vMsk n = 0 then List.range 128 else v.lanes n
    done (v.putRow bank row (ls.map (fun j => (j, v.vec.lane (vField n 2) j))))
  | _, _ => done v

/-- The moves between X registers, lanes and masks, and SETVL (06 Table 6.5). The specification does not say what MGET writes
to the bits of its X registers whose lanes are inactive; they keep their values here, as an inactive lane of a register does
(DESIGN CHOICE, assumption 92). -/
def Tile.moveX (v : Tile) (n : Nat) (os : List VOpnd) : Tile :=
  let act := v.lanes n
  let d := vField n 0
  let x := fun (i : Nat) => match os.getD i .none with | .scalar k => k | _ => 0
  match vVop n, vSub n with
  | 0x15, 0 => v.putLanes n d act (act.map (fun j => (j, x 1)))
  | 0x15, 1 => if act.contains (vLane n) then v.setX d (v.vec.lane (vField n 1) (vLane n)) else v
  | 0x15, _ => v.putLanes n d act (if act.contains (vLane n) then [(vLane n, x 1)] else [])
  | 0x16, s =>
    { v with vec := v.vec.setMask d (mergeMask (v.vec.mask d) (maskOp s (v.vec.mask (vField n 1)) (v.vec.mask (vField n 2))) act) }
  | 0x17, 0 => { v with vec := v.vec.setMask d (mergeMask (v.vec.mask d) (x 1 + x 2 * 2 ^ 64) act) }
  | 0x17, _ =>
    let m := v.vec.mask (vField n 1)
    let lo := mergeMask (v.xr d) m (act.filter (· < 64))
    let hi := mergeMask (v.xr (vField n 3)) (m / 2 ^ 64) ((act.filter (64 ≤ ·)).map (· - 64))
    (v.setX d lo).setX (vField n 3) hi
  | _, _ =>
    let l := clampN (x 1) 1 128
    ({ v with vec := { v.vec with vl := l } } : Tile).setX d l

/-- An instruction of register form. -/
def VCtx.register (x : VCtx) (v : Tile) (os : List VOpnd) : VRun :=
  let n := x.n
  let d := vField n 0
  let act := v.lanes n
  let done := fun (u : Tile) => ({ v := u, stop := none, xs := [] } : VRun)
  let lanesTo := fun (rs : List (Nat × Nat)) (f : Nat) => done ((v.putLanes n d act rs).vflag f)
  match vVop n with
  | 0x0D => done (v.permute n)
  | 0x11 => v.moveReg n os
  | 0x12 => v.moveReg n os
  | 0x13 => v.moveReg n os
  | 0x14 => v.moveReg n os
  | 0x15 => done (v.moveX n os)
  | 0x16 => done (v.moveX n os)
  | 0x17 => done (v.moveX n os)
  | 0x18 => done (v.moveX n os)
  | 0x04 => done { v with vec := v.vec.setMask d (maskOfLanes (act.filter (x.laneBit v os))) }
  | 0x0E => done { v with vec := v.vec.setMask d (maskOfLanes (act.filter (x.laneBit v os))) }
  | 0x0B =>
    let c := combineOn (laneTriple v (os.getD 1 .none)) (laneTriple v (os.getD 2 .none)) act.contains
    lanesTo c.1 c.2
  | 0x0C =>
    let q := variance (vSub n == 1) (laneTriple v (os.getD 1 .none))
    lanesTo (if act.contains 0 then [(0, q.1)] else []) (if act.contains 0 then q.2 else 0)
  | op =>
    if op = 8 ∨ op = 9 ∨ op = 10 then
      let r := reduceGroup op (act.map (laneRaw v (os.getD 1 .none)))
      let vals := r.1.result op
      lanesTo (List.zip (List.range vals.length) vals) r.2
    else
      let rs := act.map (fun j => (j, x.lane v os j))
      lanesTo (rs.map (fun p => (p.1, p.2.1))) (rs.foldl (fun f p => f ||| p.2.2) 0)

/-! Execution and the vector queue (06 R150, R151, R159) -/

/-- The tensor identifier of an instruction's draws: the destination descriptor's, or VTID; a region has none, and its
draws take a free one (06 R167). -/
def vTid (v : Tile) (n free : Nat) (os : List VOpnd) : Nat :=
  match vForm n, os.getD 0 .none with
  | 1, .tensor d => d.tid
  | 1, _ => Config.freeValue free % 2 ^ 32
  | _, _ => v.vec.vtid

/-- What an instruction's draws and table are when it starts. -/
def vCtx (v : Tile) (seed free : Nat) (e : VqEnt) : VCtx :=
  { n := e.w, seed := seed, tid := vTid v e.w free e.opnds, pass := v.vec.vpass, step := v.vec.vstep
    table := (v.vec.table (vSub e.w % 4)).front }

/-- How many free values an instruction takes: one for a region's tensor identifier, and those of an open result. -/
def vTakes (n : Nat) (ws : List View) : Nat :=
  let d := (ws.getD 0 { d := plainDesc 0 0 [1], rows := none, scalar := none }).d
  let src := ws.getD 1 { d := plainDesc 0 0 [1], rows := none, scalar := none }
  let size := d.size
  if vForm n = 1 then
    1 + (if intOpen n ws || (decide (8 ≤ vVop n) && decide (vVop n ≤ 10) && src.scalar.isSome) then 2 * size + 3 else 0)
  else 0

/-- An instruction runs: the tile after it, the TVAL of poison that stopped it, and the free values it took. -/
def vecRun (seed free : Nat) (v : Tile) (e : VqEnt) : VRun × Nat :=
  let x := vCtx v seed free e
  let n := e.w
  let ws := (List.zip (List.range 4) e.opnds).map (fun p => viewOf n p.1 p.2)
  let thr := match vVop n, e.opnds.getD 1 .none, e.opnds.getD 2 .none with
    | 0x0E, .scalar k, _ => k % 2 ^ 32
    | 0x0F, _, .scalar k => k % 2 ^ 32
    | _, _, _ => 0
  let r : VRun :=
    if vForm n = 0 then x.register v e.opnds
    else if 8 ≤ vVop n ∧ vVop n ≤ 10 then x.reduce ws (free + 1) v
    else if vVop n = 11 ∨ vVop n = 12 then x.triples ws v
    else
      let d := (ws.getD 0 { d := plainDesc 0 0 [1], rows := none, scalar := none }).d
      (strips v n d).foldl (x.strip ws thr (free + 1)) { v := v, stop := none, xs := [] }
  (r, vTakes n ws)

/-- An instruction has to wait: for an earlier array entry that reads what it writes or writes rows it accesses, or for an
earlier accumulator save or restore (05 R139, 06 R151). While the array stops, an entry that enters no further row holds nothing,
so that the vector queue empties (06 R176; DEDUCED, assumption 95). -/
def Tile.vecWaits (v : Tile) (e : VqEnt) : Bool :=
  v.arr.q.any (fun a => decide (a.serial < e.serial) && v.arr.going a &&
    (overlaps e.writes a.reads || (a.kind != .load && e.rows.any (rowsMeet a.rows)))) ||
  v.mover.any (fun o => (o.op == 7 || o.op == 8) && decide (o.serial < e.serial) && !e.rows.isEmpty)

/-- The first entry that has not executed runs, when nothing holds it: poison stops it, and every later instruction in the
queue is discarded (06 R159). -/
def Chip.vecStep (c : Chip) (t : Nat) : Chip :=
  let v := c.tileAt t
  match v.vec.q.find? (fun e => !e.done) with
  | none => c
  | some e =>
    if v.paused || v.vecWaits e then c
    else
      let mark := fun (q : List VqEnt) => q.map (fun (y : VqEnt) => if y.serial = e.serial then { y with done := true } else y)
      match e.wsr with
      | some (r, x) =>
        let u := v.vec.writeReg r x
        c.setTile t { v with vec := { u with q := mark u.q } }
      | none =>
        let r := vecRun (c.ctxAt v.ctx).seed c.free v e
        let u := r.1.v
        match r.1.stop with
        | some tv =>
          let q := u.vec.q.filter (fun y => decide (y.serial < e.serial))
          ((c.setTile t { u with vec := { u.vec with q := q } }).took r.2).detect t exPoison tv
        | none => (c.setTile t { u with vec := { u.vec with q := mark u.vec.q } }).took r.2

/-- Every entry that can run does so, in program order; the queue holds 4 (06 R150). -/
def Chip.vecSettle (c : Chip) (t : Nat) : Chip := (((c.vecStep t).vecStep t).vecStep t).vecStep t

/-- A vector instruction's checks at issue: its operands, or the exception (06 R152, R153, R157, R171). -/
def Tile.vecCheck (v : Tile) (n : Nat) : Except (Nat × Nat) (List VOpnd) :=
  if !vLegal n || (vForm n == 2 && v.st != .maintenance) then .error (exIllegal, n)
  else if vVop n == 7 && !tableOk (v.vec.table (vSub n % 4)).front then .error (exIllegal, n)
  else match v.vecOpnds n with
    | .error e => .error e
    | .ok os =>
      if vForm n = 1 then
        (match shapeError n os with
         | some none => .error (exIllegal, n)
         | some (some i) => .error (exDesc, v.xr (vField n i))
         | none => .ok os)
      else .ok os

/-- A vector instruction issues into the queue and runs as soon as nothing holds it (06 R150, R151); a full queue
stalls. -/
def Chip.vecIssue (c : Chip) (t n : Nat) : Chip :=
  let v := c.tileAt t
  match v.vecCheck n with
  | .error e => c.takeExc t e.1 e.2
  | .ok os =>
    if 4 ≤ v.vec.q.length then c
    else
      let e : VqEnt := { serial := v.serial, pc := v.pc, w := n, wsr := none, xs := [], opnds := os, done := false, ftOld := none }
      let d := c.setTile t { v with serial := v.serial + 1, pc := v.pc + 8, vec := { v.vec with q := v.vec.q ++ [e] } }
      let f := d.vecSettle t
      if (f.tileAt t).item = .running then f.goto t (f.tileAt t).pc else f

/-- The row of the command table that an encoding belongs to: VOP × 8 plus its variant; encodings of no listed operation
go with ADD, whose meaning rejects them as illegal (07 R178). -/
def vRow (n : Nat) : Nat :=
  if 2 < vForm n ∨ 0x18 < vVop n then 0
  else
    let sub := vSub n
    match vVop n with
    | 0x03 => if sub ≤ 3 then 0x18 + sub else 0
    | 0x0C => if sub ≤ 1 then 0x60 + sub else 0
    | 0x0D => 0x68 + sub % 2
    | 0x15 => if sub ≤ 2 then 0xA8 + sub else 0
    | 0x16 => if sub ≤ 3 then 0xB0 + sub else 0
    | 0x17 => if sub ≤ 1 then 0xB8 + sub else 0
    | op => 8 * op

/-- A vector instruction of a row of the command table. -/
def Chip.vec (c : Chip) (t : Nat) (w : BitVec 64) (row : Nat) : Chip :=
  let n := w.toNat
  if (c.tileAt t).issues w (vXregs n) && iClass n == 3 && vRow n == row then c.vecIssue t n else c

/-- ADD (06 R162). -/
def Chip.doVadd (c : Chip) (t : Nat) (w : BitVec 64) : Chip := c.vec t w 0x00
/-- MUL. -/
def Chip.doVmul (c : Chip) (t : Nat) (w : BitVec 64) : Chip := c.vec t w 0x08
/-- FMA. -/
def Chip.doVfma (c : Chip) (t : Nat) (w : BitVec 64) : Chip := c.vec t w 0x10
/-- MIN. -/
def Chip.doVmin (c : Chip) (t : Nat) (w : BitVec 64) : Chip := c.vec t w 0x18
/-- MAX. -/
def Chip.doVmax (c : Chip) (t : Nat) (w : BitVec 64) : Chip := c.vec t w 0x19
/-- MINNUM. -/
def Chip.doVminnum (c : Chip) (t : Nat) (w : BitVec 64) : Chip := c.vec t w 0x1A
/-- MAXNUM. -/
def Chip.doVmaxnum (c : Chip) (t : Nat) (w : BitVec 64) : Chip := c.vec t w 0x1B
/-- CMP.cc. -/
def Chip.doVcmp (c : Chip) (t : Nat) (w : BitVec 64) : Chip := c.vec t w 0x20
/-- SEL. -/
def Chip.doVsel (c : Chip) (t : Nat) (w : BitVec 64) : Chip := c.vec t w 0x28
/-- CVT (06 R166). -/
def Chip.doVcvt (c : Chip) (t : Nat) (w : BitVec 64) : Chip := c.vec t w 0x30
/-- FTEVAL (06 R172). -/
def Chip.doFteval (c : Chip) (t : Nat) (w : BitVec 64) : Chip := c.vec t w 0x38
/-- RSUM (06 R169). -/
def Chip.doRsum (c : Chip) (t : Nat) (w : BitVec 64) : Chip := c.vec t w 0x40
/-- RSSQ. -/
def Chip.doRssq (c : Chip) (t : Nat) (w : BitVec 64) : Chip := c.vec t w 0x48
/-- RMOM. -/
def Chip.doRmom (c : Chip) (t : Nat) (w : BitVec 64) : Chip := c.vec t w 0x50
/-- MCOMB (05 R142). -/
def Chip.doMcomb (c : Chip) (t : Nat) (w : BitVec 64) : Chip := c.vec t w 0x58
/-- MVARP (05 R143). -/
def Chip.doMvarp (c : Chip) (t : Nat) (w : BitVec 64) : Chip := c.vec t w 0x60
/-- MVARS. -/
def Chip.doMvars (c : Chip) (t : Nat) (w : BitVec 64) : Chip := c.vec t w 0x61
/-- PERM (06 R170). -/
def Chip.doPerm (c : Chip) (t : Nat) (w : BitVec 64) : Chip := c.vec t w 0x68
/-- PERMF. -/
def Chip.doPermf (c : Chip) (t : Nat) (w : BitVec 64) : Chip := c.vec t w 0x69
/-- RMASK (06 R168). -/
def Chip.doRmask (c : Chip) (t : Nat) (w : BitVec 64) : Chip := c.vec t w 0x70
/-- RDROP. -/
def Chip.doRdrop (c : Chip) (t : Nat) (w : BitVec 64) : Chip := c.vec t w 0x78
/-- RUNIF. -/
def Chip.doRunif (c : Chip) (t : Nat) (w : BitVec 64) : Chip := c.vec t w 0x80
/-- VLD (06 R163). -/
def Chip.doVld (c : Chip) (t : Nat) (w : BitVec 64) : Chip := c.vec t w 0x88
/-- VST. -/
def Chip.doVst (c : Chip) (t : Nat) (w : BitVec 64) : Chip := c.vec t w 0x90
/-- VLDA. -/
def Chip.doVlda (c : Chip) (t : Nat) (w : BitVec 64) : Chip := c.vec t w 0x98
/-- VSTA. -/
def Chip.doVsta (c : Chip) (t : Nat) (w : BitVec 64) : Chip := c.vec t w 0xA0
/-- VBCAST. -/
def Chip.doVbcast (c : Chip) (t : Nat) (w : BitVec 64) : Chip := c.vec t w 0xA8
/-- VEXT. -/
def Chip.doVext (c : Chip) (t : Nat) (w : BitVec 64) : Chip := c.vec t w 0xA9
/-- VINS. -/
def Chip.doVins (c : Chip) (t : Nat) (w : BitVec 64) : Chip := c.vec t w 0xAA
/-- MAND. -/
def Chip.doMand (c : Chip) (t : Nat) (w : BitVec 64) : Chip := c.vec t w 0xB0
/-- MOR. -/
def Chip.doMor (c : Chip) (t : Nat) (w : BitVec 64) : Chip := c.vec t w 0xB1
/-- MXOR. -/
def Chip.doMxor (c : Chip) (t : Nat) (w : BitVec 64) : Chip := c.vec t w 0xB2
/-- MANDN. -/
def Chip.doMandn (c : Chip) (t : Nat) (w : BitVec 64) : Chip := c.vec t w 0xB3
/-- MSET. -/
def Chip.doMset (c : Chip) (t : Nat) (w : BitVec 64) : Chip := c.vec t w 0xB8
/-- MGET. -/
def Chip.doMget (c : Chip) (t : Nat) (w : BitVec 64) : Chip := c.vec t w 0xB9
/-- SETVL. -/
def Chip.doSetvl (c : Chip) (t : Nat) (w : BitVec 64) : Chip := c.vec t w 0xC0

/-- The vector-wait instruction (06 R150): it blocks until every earlier vector instruction has completed. The
specification gives it no encoding (assumption 16). -/
def Chip.doVectorWait (c : Chip) (t : Nat) : Chip :=
  let v := c.tileAt t
  if v.ready then
    (if v.vec.q.isEmpty then c.retire t v else c.setTile t { v with blocked := some .vwait })
  else c

/-! Function tables (06 R173, R174) -/

/-- A table set. -/
def Tile.setTable (v : Tile) (k : Nat) (f : FTab) : Tile := { v with vec := { v.vec with ft := tabSet v.vec.ft k f } }

/-- A running instruction still reads the back bank of a table. -/
def Vec.readsBack (v : Vec) (k : Nat) : Bool := v.q.any (fun e => e.ftOld == some k)

/-- The held writes of a table made, once no running instruction reads its back bank (06 R174). -/
def Tile.releaseHeld (v : Tile) (k : Nat) : Tile :=
  let f := v.vec.table k
  if f.held.isEmpty || v.vec.readsBack k then v
  else v.setTable k { f with back := f.held.foldl (fun m p => m.writeN p.1 p.2) f.back, held := [] }

/-- VECTOR_COMPLETE (06 R150): what can run has run, the oldest instruction has written its last result and leaves the
queue; held table writes are released, what waited for it runs, and a vector-wait whose queue is empty returns. -/
def Chip.doVectorComplete (c0 : Chip) (t : Nat) : Chip :=
  let c := c0.vecSettle t
  let v := c.tileAt t
  match v.vec.q with
  | [] => c
  | e :: rest =>
    if v.paused || !e.done then c
    else
      let u := { v with vec := { v.vec with q := rest } }
      let u := (((u.releaseHeld 0).releaseHeld 1).releaseHeld 2).releaseHeld 3
      (((c.setTile t u).vecSettle t).unblock t).settleEnd t

/-- FT_WRITE (06 R173): 16 bytes into the back bank of a table; between an accepted flip request and the flip the write is
refused with FT_BUSY; the first write after a table is loaded opens its back bank (06 R175). The answer is 0, or 1 for
FT_BUSY. -/
def Chip.doFtWrite (c : Chip) (t k i : Nat) (d : BitVec 128) : Chip :=
  let bs := leBytes 16 d.toNat
  let v := c.tileAt t
  let f := { v.vec.table k with closed := false }
  if f.asked then c.answer [1]
  else if v.vec.readsBack k then (c.setTile t (v.setTable k { f with held := f.held ++ [(16 * i, bs)] })).answer [0]
  else (c.setTile t (v.setTable k { f with back := f.back.writeN (16 * i) bs })).answer [0]

/-- FT_FLIP_REQUEST (06 R173): the back bank closes; one table at a time. The answer is 0, or 1 when another flip is
requested. -/
def Chip.doFtFlipRequest (c : Chip) (t k : Nat) : Chip :=
  let v := c.tileAt t
  if [0, 1, 2, 3].any (fun j => (v.vec.table j).asked) then c.answer [1]
  else (c.setTile t (v.setTable k { v.vec.table k with closed := true, asked := true })).answer [0]

/-- FT_FLIP (06 R174): once every earlier write has completed, the banks exchange roles at an instruction boundary and the
generation rises; an instruction that started before keeps its bank. -/
def Chip.doFtFlip (c : Chip) (t k : Nat) : Chip :=
  let v := c.tileAt t
  let f := v.vec.table k
  if f.asked && f.held.isEmpty then
    let u := v.setTable k { front := f.back, back := f.front, gen := (f.gen + 1) % 2 ^ 32, closed := false, asked := false, held := [] }
    let q := u.vec.q.map (fun (e : VqEnt) => if e.done && e.wsr.isNone && vVop e.w == 7 && vSub e.w % 4 == k && e.ftOld.isNone then { e with ftOld := some k } else e)
    c.setTile t { u with vec := { u.vec with q := q } }
  else c

end Sys2Proof.Machine
end

