-- ==== Sys2Proof/Machine/Descriptor.lean ====
section
/-!
DEFINITION. Ring descriptors (14 Table 14.5): their rules, when one starts, and what each does when it starts; their
completion records.
-/

namespace Sys2Proof.Machine

/-! The rules of a descriptor (14 R370, R372, Tables 14.4 and 14.5) -/

/-- The opcodes of Table 14.5 that a descriptor may carry. -/
def descOps : List Nat :=
  [0x00, 0x01, 0x02, 0x03, 0x04, 0x05, 0x06, 0x10, 0x11, 0x12, 0x20, 0x21, 0x22, 0x23, 0x24, 0x25, 0x30, 0x31, 0x32, 0x33, 0x34,
   0x35, 0x36, 0x37, 0x38, 0x39, 0x40, 0x41, 0x42]

/-- Opcodes whose data is inline. -/
def Desc.inl (d : Desc) : Bool := d.op == 0x06 || d.op == 0x34

/-- Opcodes of a commander-level descriptor: CTX is 0. -/
def ctxZeroOps : List Nat := [0x05, 0x32, 0x39, 0x40, 0x41, 0x42]

/-- Opcodes that act on objects, queues and buckets and may name CTX0, which may operate every object, own a command queue (10 Table
10.1) and abort any bucket (03 R85, 11 R299) (assumption 30). -/
def ctxAnyOps : List Nat := [0x11, 0x12, 0x20, 0x23]

/-- The operand bytes that an opcode lists, as offsets and lengths. -/
def Desc.listed (d : Desc) : List (Nat × Nat) :=
  match d.op with
  | 0x01 => [(16, 8), (24, 8), (32, 8), (40, 8), (48, 2), (50, 2), (52, 1), (56, 4)]
  | 0x03 => [(16, 8), (24, 1)]
  | 0x04 => [(16, 8), (24, 8)]
  | 0x05 => [(16, 2), (18, 1), (24, 2 * min 8 (d.f 18 1)), (40, 8)]
  | 0x06 => [(16, 8), (24, 2), (32, 96)]
  | 0x10 => [(16, 8), (24, 2), (28, 4), (32, 4), (40, 8), (48, 4), (56, 8)]
  | 0x11 => [(16, 2), (18, 1), (20, 4)]
  | 0x12 => [(16, 2), (20, 4), (24, 4)]
  | 0x20 => [(16, 2), (18, 1), (19, 1), (20, 2), (24, 8)]
  | 0x21 => [(16, 2)]
  | 0x22 => [(16, 2), (18, 1), (20, 2), (22, 2), (24, 8), (32, 8), (40, 8), (48, 4), (52, 4), (56, 8), (64, 8)]
  | 0x23 => [(16, 2)]
  | 0x24 => [(16, 2), (18, 1), (19, 1), (20, 2), (22, 2), (24, 8), (32, 8), (40, 1), (41, 1), (42, 1), (44, 2)]
  | 0x25 => [(16, 2), (18, 1), (19, 1), (20, 2), (24, 8), (32, 8), (40, 8)]
  | 0x30 => [(16, 2), (18, 1), (20, 4), (24, 8), (32, 2), (34, 2), (36, 4), (40, 8)]
  | 0x31 => [(16, 2)]
  | 0x32 => [(16, 1), (17, 1), (18, 6), (24, 16)]
  | 0x33 => [(16, 4), (20, 1), (24, 8), (32, 8), (40, 4), (44, 4), (48, 8)]
  | 0x34 => [(16, 4), (20, 2), (24, 8), (32, 96)]
  | 0x35 => [(16, 4), (20, 4), (24, 4), (28, 4), (32, 8), (40, 8), (48, 1), (56, 8)]
  | 0x36 => [(16, 2), (18, 1), (19, 1), (20, 2), (22, 1), (23, 1), (24, 16), (40, 4), (44, 4), (48, 1)]
  | 0x37 => [(16, 2), (18, 1), (20, 4), (24, 8), (32, 4), (36, 4), (40, 8)]
  | 0x38 => [(16, 2), (24, 8), (32, 4)]
  | 0x39 => [(16, 2)]
  | 0x40 => [(16, 1), (17, 1), (18, 2), (20, 2), (22, 1), (23, 1), (24, 8), (32, 4), (36, 2)]
  | 0x41 => [(16, 1), (18, 2)]
  | 0x42 => [(16, 1)]
  | _ => []

/-- A length of a region entry (12 Table 12.5, 13 Table 13.7). -/
def regionLenBad (n : Nat) : Bool := n < 4096 || 2 ^ 47 < n || n % 4096 != 0

/-- A write hint outside the ranges of 09 Table 9.6: a reserved KIND or TARGET, or a reserved bit (11 Table 11.1, 12 Table 12.5, 13 Table
13.7; for other hints assumption 114). -/
def hintBad (h : Nat) : Bool :=
  bits h 15 14 == 3 || bits h 13 10 != 0 || !(decide (bits h 9 0 ≤ 0x40) || (decide (0x80 ≤ bits h 9 0) && decide (bits h 9 0 ≤ 0x83)))

/-- A page-aligned canonical virtual address. -/
def pageBad (va : Nat) : Bool := !canonicalVa va || va % 4096 != 0

/-- The header fields that break Table 14.4, by their offset. -/
def Desc.headBad (d : Desc) : List (Nat × Bool) :=
  [(2, !descOps.contains d.op),
   (3, decide (bits d.flags 7 3 ≠ 0) || bit d.flags 0 != d.inl),
   (4, if ctxZeroOps.contains d.op then d.ctx != 0
       else if d.op = 0x00 ∨ d.op = 0x06 ∨ ctxAnyOps.contains d.op then decide (63 < d.ctx) else d.ctx == 0 || decide (63 < d.ctx)),
   (5, decide (bits (d.f 5 1) 7 2 ≠ 0) || (!bit d.flags 0 && d.f 5 1 != 0)),
   (6, if bit d.flags 2 then decide (16384 ≤ d.dso) else d.dso != 0)]

/-- The range rules of the opcodes that concern contexts, work and objects. -/
def Desc.coreBad (d : Desc) : List (Nat × Bool) :=
  match d.op with
  | 0x01 => [(16, d.f 16 8 % 4096 != 0 || decide (2 ^ 52 ≤ d.f 16 8)), (32, pageBad (d.f 32 8)),
             (40, !canonicalVa (d.f 40 8) || d.f 40 8 % 64 != 0), (50, decide (1024 ≤ d.f 50 2)), (52, decide (1 < d.f 52 1)),
             (56, decide (60000 < d.f 56 4))]
  | 0x03 => [(16, d.f 16 8 == 0), (24, decide (1 < d.f 24 1))]
  | 0x04 => [(16, d.f 16 8 % 4096 != 0), (24, d.f 24 8 % 4096 != 0)]
  | 0x05 => [(18, d.f 18 1 == 0 || decide (8 < d.f 18 1)), (40, d.f 40 8 % 16 != 0)]
  | 0x06 => [(24, d.f 24 2 == 0 || decide (96 + 120 * (d.f 5 1 % 4) < d.f 24 2))]
  | 0x10 => [(24, decide (192 ≤ d.f 24 2) && d.f 24 2 != 0xFFFF), (28, d.f 24 2 == 0xFFFF && d.f 28 4 != 0),
             (32, d.f 32 4 % 8 != 0 || decide (65536 ≤ d.f 32 4)),
             (48, d.f 40 8 != 0 && (d.f 48 4 % 8 != 0 || d.f 48 4 == 0 || decide (65536 < d.f 48 4)))]
  | 0x11 => [(16, decide (16384 ≤ d.f 16 2)), (18, decide (1 < d.f 18 1))]
  | 0x12 => [(16, decide (16384 ≤ d.f 16 2))]
  | _ => []

/-- The range rules of the opcodes that bind queues, buckets and regions (10 Table 10.1, 11 Table 11.1, 12 Table 12.5,
13 Table 13.7). -/
def Desc.bindBad (d : Desc) : List (Nat × Bool) :=
  match d.op with
  | 0x20 => [(16, decide (320 ≤ d.f 16 2)), (18, decide (d.f 18 1 < 6) || decide (12 < d.f 18 1)),
             (19, d.f 19 1 == 0 || decide (8 < d.f 19 1)), (20, decide (16384 ≤ d.f 20 2)), (24, pageBad (d.f 24 8))]
  | 0x21 => [(16, decide (320 ≤ d.f 16 2))]
  | 0x22 => [(16, decide (4096 ≤ d.f 16 2)), (18, decide (1 < d.f 18 1)), (20, decide (16384 ≤ d.f 20 2)),
             (22, hintBad (d.f 22 2)), (24, !canonicalVa (d.f 24 8) || d.f 24 8 % 256 != 0),
             (32, decide (d.f 32 8 < 256) || decide (2 ^ 34 < d.f 32 8) || d.f 32 8 % 256 != 0),
             (40, d.f 40 8 == 0 || decide (d.f 32 8 / 4 * 65535 < d.f 40 8)), (48, d.f 48 4 == 0),
             (52, d.f 52 4 != 0 && (decide (d.f 52 4 < 10) || decide (600000000 < d.f 52 4))), (56, d.f 56 8 % 32 != 0),
             (64, d.f 64 8 % 4 != 0)]
  | 0x23 => [(16, decide (4096 ≤ d.f 16 2))]
  | 0x24 =>
    let on := bit (d.f 18 1) 0
    let mem := on && !bit (d.f 18 1) 1
    let msi := on && bit (d.f 18 1) 1
    [(16, decide (4096 ≤ d.f 16 2)), (18, decide (3 < d.f 18 1)), (19, decide (7 < d.f 19 1)), (24, mem && pageBad (d.f 24 8)),
     (32, mem && regionLenBad (d.f 32 8)), (40, on && decide (3 < d.f 40 1)), (41, msi && decide (63 < d.f 41 1)),
     (42, msi && (d.f 42 1 == 0 || decide (6 < d.f 42 1))), (44, hintBad (d.f 44 2))]
  | 0x25 =>
    let on := bit (d.f 18 1) 0
    [(18, decide (1 < d.f 18 1)), (19, on && decide (15 < d.f 19 1)), (20, hintBad (d.f 20 2)), (24, on && pageBad (d.f 24 8)),
     (32, on && regionLenBad (d.f 32 8)), (40, on && d.f 40 8 % 16 != 0)]
  | 0x40 =>
    [(16, decide (1 < d.f 16 1)), (17, decide (d.f 17 1 < 4) || decide (16 < d.f 17 1)), (18, decide (1024 ≤ d.f 18 2)),
     (20, d.f 16 1 == 0 && decide (1024 ≤ d.f 20 2)), (22, decide (7 < d.f 22 1)), (23, decide (3 < d.f 23 1)),
     (24, d.f 24 8 % 4096 != 0), (32, d.f 16 1 == 1 && !msiOk d.cm (d.f 32 4) (bit (d.f 23 1) 0)),
     (36, d.cm != 0 && d.f 36 2 != 0)]
  | 0x41 => [(16, decide (1 < d.f 16 1)), (18, decide (1024 ≤ d.f 18 2))]
  | 0x42 => [(16, d.f 16 1 == 0 || decide (31 < d.f 16 1))]
  | _ => []

/-- The range rules of the fabric opcodes (13 Tables 13.3, 13.5, 13.8). -/
def Desc.netBad (d : Desc) : List (Nat × Bool) :=
  match d.op with
  | 0x30 =>
    [(16, decide (16384 ≤ d.f 16 2)), (18, d.f 18 1 == 0 || decide (8 < d.f 18 1)), (20, d.f 20 4 == 0), (24, d.f 24 8 == 0),
     (32, decide (1024 ≤ d.f 32 2) && d.f 32 2 != 0xFFFF)]
  | 0x31 => [(16, decide (16384 ≤ d.f 16 2))]
  | 0x32 => [(16, decide (32 ≤ d.f 16 1)), (17, decide (1 < d.f 17 1))]
  | 0x33 =>
    let hop := d.f 20 1
    let len := d.f 32 8
    [(16, decide (16384 ≤ d.f 16 4)), (20, !([1, 4, 5, 6] : List Nat).contains hop),
     (32, match hop with
          | 1 => len == 0
          | 4 => len == 0 || len % 4 != 0
          | 5 => len == 0 || len % 32 != 0 || decide (4096 < len)
          | _ => false),
     (40, (hop == 4 && decide (4096 ≤ d.f 40 4)) || (hop == 6 && decide (16384 ≤ d.f 40 4))), (44, hop == 6 && d.f 44 4 == 0),
     (48, hop == 4 && d.f 48 8 % 4 != 0)]
  | 0x34 =>
    [(16, decide (16384 ≤ d.f 16 4)),
     (20, d.f 20 2 == 0 || d.f 20 2 % 32 != 0 || decide (448 < d.f 20 2) || decide (96 + 120 * (d.f 5 1 % 4) < d.f 20 2))]
  | 0x35 =>
    [(16, decide (16384 ≤ d.f 16 4)), (20, d.f 20 4 == 0 || decide (2 ^ 24 < d.f 20 4)), (48, decide (1 < d.f 48 1)),
     (56, d.f 48 1 == 0 && d.f 56 8 != 0)]
  | 0x36 =>
    [(16, decide (4096 ≤ d.f 16 2)), (18, !([1, 2, 4] : List Nat).contains (d.f 18 1)), (19, decide (32 ≤ d.f 19 1)),
     (20, decide (1024 ≤ d.f 20 2)), (22, decide (7 < d.f 22 1)), (23, decide (7 < d.f 23 1)), (40, decide (2 ^ 24 ≤ d.f 40 4)),
     (44, decide (2 ^ 24 ≤ d.f 44 4)), (48, decide (31 < d.f 48 1))]
  | 0x37 => [(16, decide (4096 ≤ d.f 16 2)), (18, decide (4 < d.f 18 1)), (32, decide (2 ^ 31 < d.f 32 4))]
  | 0x38 => [(16, decide (4096 ≤ d.f 16 2))]
  | 0x39 => [(16, decide (1024 ≤ d.f 16 2) && d.f 16 2 != 0xFFFF)]
  | _ => []

/-- The first reserved operand byte that is not zero. -/
def Desc.reservedBad (d : Desc) : Option Nat :=
  ((List.range 112).map (· + 16)).find? (fun i =>
    fieldLE d.bytes i 1 != 0 && !d.listed.any (fun p => decide (p.1 ≤ i) && decide (i < p.1 + p.2)))

/-- The lower of two optional offsets. -/
def lowest (l : List (Option Nat)) : Option Nat := l.foldl earlier none

/-- The byte offset of the first field that makes a descriptor MALFORMED (R370, R372, R374). -/
def Desc.bad (d : Desc) : Option Nat :=
  lowest [lowest ((d.headBad ++ d.coreBad ++ d.bindBad ++ d.netBad).map (fun p => if p.2 then some p.1 else none)),
          d.reservedBad, d.contBad]

/-! Starting a descriptor (R368, R370, R371, R378, R385, 15 R398) -/

/-- The first descriptor of a ring that has not started, its continuations with it. -/
def Chip.headDesc (c : Chip) (r : Nat) : Option Desc :=
  match c.cm.descs.find? (fun d => d.sq == r && d.st == .fetched) with
  | some d => if d.more = 0 then some d else none
  | none => none

/-- The descriptors of a ring ahead of one. -/
def Chip.aheadOf (c : Chip) (d : Desc) : List Desc := (c.cm.descs.takeWhile (fun x => x.key != d.key)).filter (fun x => x.sq == d.sq)

/-- The state of its context lets a descriptor start (15 Table 15.3, R408). -/
def Chip.ctxLets (c : Chip) (d : Desc) : Bool :=
  match (c.ctxAt d.ctx).st with
  | .free => true
  | .active => true
  | .parked => decide (d.op ≤ 0x02)
  | .ending => d.op == 0x01

/-- A descriptor may start: a processor serves its ring, the log has an entry for its record, its FENCE and the waits before it
are satisfied, and its context lets it. -/
def Chip.mayStart (c : Chip) (d : Desc) : Bool :=
  (c.serving d.sq).isSome && c.cm.free && !(bit d.flags 1 && !(c.aheadOf d).isEmpty) &&
    !(c.aheadOf d).any (fun x => x.op == 0x12 && x.st == .started) && c.ctxLets d

/-- Opcodes accepted only from CM0. -/
def localOps : List Nat := [0x01, 0x02, 0x03, 0x42]

/-- Why a descriptor completes before it starts: its status and DETAIL. -/
def Chip.refusal (c : Chip) (d : Desc) : Option (Nat × Nat) :=
  match d.bad with
  | some off => some (0x01, off)
  | none =>
    if localOps.contains d.op && d.cm != 0 then some (0x08, 0)
    else if d.ctx ≠ 0 ∧ d.op ≠ 0x01 ∧ !c.ctxOf d.cm d.ctx then some (0x07, d.ctx)
    else if d.ctx = 0 ∧ d.cm ≠ 0 ∧ ctxAnyOps.contains d.op then some (0x07, 0)
    else if bit d.flags 2 && !c.soAllowed d.ctx d.dso then some (0x02, d.dso)
    else none

/-- A descriptor has started and its effect is still to end. -/
def Chip.starts (c : Chip) (d : Desc) (aux : List Nat) : Chip := c.setDesc { d with st := .started, aux := aux }

/-- The head descriptor of a ring, when it is of the kind that a row names and may start, is refused or carried out; the ring
consumes on. -/
def Chip.onDesc (c : Chip) (r : Nat) (kind : Desc → Bool) (f : Chip → Desc → Chip) : Chip :=
  match c.headDesc r with
  | some d =>
    if kind d && c.mayStart d then
      (match c.refusal d with
       | some e => c.finish d.key e.1 e.2
       | none => f c d).pump r
    else c
  | none => c

/-- The rows of one opcode. -/
def opIs (k : Nat) (d : Desc) : Bool := d.op == k

/-! Work items that stop (15 R409, R411) -/

/-- The work item of a descriptor. -/
def Chip.workOf (c : Chip) (key : Nat) : Option Work := c.fw.work.find? (fun w => w.key == key)

/-- A work item's entry changed. -/
def Chip.setWork (c : Chip) (w : Work) : Chip := c.modFw (fun f => { f with work := f.work.map (fun x => if x.key = w.key then w else x) })

/-- A tile stops the item that it runs: steps 1 to 4 of 04 R112 begin, and a registered SOWAIT is withdrawn. -/
def Chip.haltTile (c : Chip) (t : Nat) : Chip :=
  let v := c.tileAt t
  if v.item = .running ∨ v.item = .halting then
    (c.setTile t { v with item := .saving, blocked := none, arr := v.arr.preempt }).soWithdraw (.tile t)
  else c

/-- A descriptor that has not completed ends with a status: at once when it has not started or its item is saved, otherwise when
the running item has stopped or its switch is over (R411). -/
def Chip.dropDesc (c : Chip) (key status detail : Nat) : Chip :=
  match c.workOf key with
  | some w =>
    if w.phys = 200 then (c.modFw (fun f => { f with work := f.work.filter (fun x => x.key != key) })).finish key status detail
    else
      let d := c.setWork { w with drop := some (status, detail) }
      if w.switching then d else d.haltTile w.phys
  | none => c.finish key status detail

/-! Contexts (15 R398 to R404, R408, 14 R368) -/

/-- RING_NOP (15 R408): a PARKED context returns to ACTIVE. -/
def Chip.doRingNop (c : Chip) (r : Nat) : Chip :=
  c.onDesc r (opIs 0x00) (fun e d =>
    let x := e.ctxAt d.ctx
    (if x.st = .parked then e.setCtx d.ctx { x with st := .active } else e).finish d.key 0 0)

/-- Objects that no context owns assigned to one, each reset as a SET 0 (03 R85): which, the specification leaves open, and a free value
decides (assumption 6). -/
def Chip.assignObjects (c : Chip) (k : Nat) : Chip :=
  let l := (Config.objectsGiven c.free).filter (fun n => decide (n < 16384) && c.soOwner n == 64)
  let sat := c.so.waits.filter (fun w => l.contains w.so && waitHolds 0 w.target)
  let d := (c.took 1).modSo (fun s =>
    { s with
      owner := l.foldl (fun t n => tabSet t n k) s.owner
      value := l.foldl (fun t n => tabSet t n 0) s.value
      waits := s.waits.filter (fun w => !(l.contains w.so && waitHolds 0 w.target)) })
  sat.foldl (fun e w => e.wakeOne 0 w) d

/-- What firmware can see of a root that is no single-stage Sv48 table of host physical addresses (12 R315): its page is not backed, or a
core runs it as a table of another mode, in satp or in hgatp (DEDUCED, assumption 41). -/
def Chip.rootBad (c : Chip) (root : Nat) : Bool :=
  !c.mem.backedN root 4096 ||
    c.hart.any (fun p =>
      let satp := p.2.csrAt 0x180
      let hgatp := p.2.csrAt 0x680
      (bits satp 43 0 == root / 4096 && bits satp 63 60 != 0 && bits satp 63 60 != 9) ||
        (bits hgatp 43 0 == root / 4096 && bits hgatp 63 60 != 0))

/-- CTX_CREATE (15 R399); a root that is no single-stage Sv48 table of host physical addresses is refused (12 R315). -/
def Chip.doCtxCreate (c : Chip) (r : Nat) : Chip :=
  c.onDesc r (opIs 0x01) (fun e d =>
    if (e.ctxAt d.ctx).st ≠ .free then e.finish d.key 0x09 d.ctx
    else if e.rootBad (d.f 16 8) then e.finish d.key 0x01 16
    else
      ((e.setCtx d.ctx
        { st := .active, root := d.f 16 8, seed := d.f 24 8, save := d.f 32 8, ftimg := d.f 40 8, hint := d.f 48 2, eventCq := d.f 50 2
          park := bit (d.f 52 1) 0, grace := d.f 56 4, grants := [], graceDue := [], saved := [] }).assignObjects d.ctx).finish d.key 0 0)

/-- A connection closed by its commander: CLOSE is sent, unsettled operations end with CONN_LOST, its gathers are abandoned, and it is IDLE
(14 Table 14.5 CONN_CLOSE). -/
def Chip.connShut (c : Chip) (k : Nat) : Chip :=
  let x := c.connAt k
  if x.st = .idle then c
  else
    let c1 := if x.st = .open_ then c.sendControl k 0x22 (beBytes 8 x.cookie) [] else c
    let c2 := (c1.abandon k).dropWaiting k
    let c3 := match x.creator with | some key => c2.finish key 0x12 0 | none => c2
    let y := c3.connAt k
    ((c3.setConn k { y with st := .idle, creator := none, rx := { y.rx with slots := [], left := y.rx.acc } }).settleRegions.raiseAll).letGo k

/-- An entry of FD withdrawn, its descriptor to be completed when no packet uses it (13 R357). -/
def Chip.regionDrop (c : Chip) (k : Nat) (key : Option Nat) : Chip :=
  let e := c.regionAt k
  if !e.valid then (match key with | some n => c.finish n 0 0 | none => c)
  else
    let d := c.setRegion k { e with valid := false, closing := key }
    d.settleRegion k

/-- CTX_DESTROY (15 R404): the context is ENDING; what has not started is cancelled, running items stop, queues, buckets,
connections and regions are released. The rest follows when these have ended. -/
def Chip.doCtxDestroy (c : Chip) (r : Nat) : Chip :=
  c.onDesc r (opIs 0x02) (fun e d =>
    let k := d.ctx
    let e1 := (e.starts d [k]).setCtx k { e.ctxAt k with st := .ending }
    let mine := e1.cm.descs.filter (fun x => x.ctx == k && x.key != d.key && x.more == 0)
    let e2 := (mine.filter (fun x => x.st != .started)).foldl (fun (a : Chip) x =>
      if x.st = .ready then a.dropDesc x.key 0x12 0 else a.finish x.key 0x12 0) e1
    let e3 := (e2.fw.work.filter (fun w => w.ctx == k)).foldl (fun (a : Chip) w => a.dropDesc w.key 0x12 0) e2
    let e4 := (mine.filter (fun x => x.st == .started && x.op == 0x12)).foldl (fun (a : Chip) x =>
      (a.soWithdraw (.fw x.key)).finish x.key 0x12 0) e3
    let e5 := ((List.range 320).filter (fun q => (e4.lqAt q).bound && (e4.lqAt q).ctx == k)).foldl (fun (a : Chip) q =>
      let b := a.lqCancel q
      if (b.lqCmds q).isEmpty then b.setLq q Lq.fresh else b.setLq q { b.lqAt q with bound := false }) e4
    let e6 := e5.bucket.foldl (fun (a : Chip) p => if p.2.ctx = k then (a.bucketAbort p.1 k none).1 else a) e5
    let e7 := e6.fab.conn.foldl (fun (a : Chip) p => if p.2.ctx = k then a.connShut p.1 else a) e6
    let e8 := e7.modPcie (fun t => t.map (fun p => if p.2.ctx = k then (p.1, PcieRegion.fresh) else p))
    e8.fab.region.foldl (fun (a : Chip) p => if p.2.ctx = k ∧ p.2.valid then a.setRegion p.1 { p.2 with valid := false } else a) e8)

/-- Everything that the end of a context waits for has ended (15 R404). -/
def Chip.ctxOver (c : Chip) (k : Nat) : Bool :=
  !c.fw.work.any (fun w => w.ctx == k) && !c.ledge.cmds.any (fun x => x.ctx == k) &&
    !c.bucket.any (fun p => p.2.ctx == k && p.2.st != .free) &&
    !c.fab.conn.any (fun p => p.2.rx.slots.any (fun s => s.2.st != .complete &&
      (match s.2.region with | some n => (c.regionAt n).ctx == k | none => false)))

/-- The last steps of CTX_DESTROY: objects reset and unassigned, grants revoked, resident tiles cleared, the context FREE
(15 R404 steps 3 and 4). -/
def Chip.ctxEnd (c : Chip) (k key : Nat) : Chip :=
  let c1 := (c.so.owner.filter (fun p => p.2 == k)).foldl (fun (a : Chip) p => a.soAssign p.1 64) c
  let c2 := c1.setCtx k (CtxEnt.fresh k)
  let tiles := (c2.tmap.resident.filter (fun p => p.2 == k)).map (·.1)
  let c3 := tiles.foldl (fun (a : Chip) t => a.setTile t (a.tileAt t).wipe) c2
  (c3.modTmap (fun m => { m with resident := m.resident.filter (fun p => p.2 != k) })).finish key 0 0

/-- CTX_GRANT (14 R368). -/
def Chip.doCtxGrant (c : Chip) (r : Nat) : Chip :=
  c.onDesc r (fun d => d.op == 0x03 && d.f 24 1 != 0) (fun e d =>
    let x := e.ctxAt d.ctx
    (e.setCtx d.ctx { x with grants := setIns x.grants (d.f 16 8) }).finish d.key 0 0)

/-- CTX_REVOKE (14 R368): CTX_GRANT with bit 0 clear. -/
def Chip.doCtxRevoke (c : Chip) (r : Nat) : Chip :=
  c.onDesc r (fun d => d.op == 0x03 && d.f 24 1 == 0) (fun e d =>
    let x := e.ctxAt d.ctx
    (e.setCtx d.ctx { x with grants := setDel x.grants (d.f 16 8) }).finish d.key 0 0)

/-- The mover operations of a context under way, as tile × 2^40 + place in issue order. -/
def Chip.moverOps (c : Chip) (k : Nat) : List Nat :=
  c.tile.flatMap (fun p => if p.2.ctx = k then (p.2.mover.filter (·.started)).map (fun o => p.1 * 2 ^ 40 + o.serial) else [])

/-- TLB_INVAL (03 R84, 10 R270, 12 R325, 13 R357): every TLB drops the mappings; mover operations under way may have used
them, and the descriptor completes after them. -/
def Chip.doTlbInval (c : Chip) (r : Nat) : Chip :=
  c.onDesc r (opIs 0x04) (fun e d =>
    let x := e.tlbDrop d.ctx (d.f 16 8) (d.f 24 8)
    let ops := x.moverOps d.ctx
    if ops.isEmpty then x.finish d.key 0 0 else x.starts d ops)

/-- MEMWRITE (14 R371, R372): inline bytes written to DST: a virtual address of the context, or a physical address in the
commander's space. -/
def Chip.doMemwrite (c : Chip) (r : Nat) : Chip :=
  c.onDesc r (opIs 0x06) (fun e d =>
    let bs := d.data.take (d.f 24 2)
    let dst := d.f 16 8
    if d.ctx = 0 ∧ d.cm ≠ 0 then (e.starts d []).cxlAsk d.cm dst (some bs) (.done d.key)
    else if d.ctx = 0 then
      (if e.writable dst bs.length then (e.storeHint dst bs false 0).finish d.key 0 0
       else (e.logRefused srcDispatch dst bs.length).finish d.key 0x04 dst)
    else
      let s := e.spanLines [] d.ctx dst bs.length true
      let x := e.used [] srcDispatch s
      match s.fault with
      | some f => x.finish d.key f.kind.code f.detail
      | none => (x.scatter s bs false 0).finish d.key 0 0)

/-! Work and objects (15 R405, R406, 03 R85 to R88) -/

/-- RUN (15 R405, R406): the descriptor becomes a ready work item. -/
def Chip.doRun (c : Chip) (r : Nat) : Chip :=
  c.onDesc r (opIs 0x10) (fun e d =>
    (e.setDesc { d with st := .ready }).modFw (fun f => { f with work := f.work ++ [
      { key := d.key, ctx := d.ctx, tile := d.f 24 2, gen := d.f 28 4, entry := d.f 32 4, args := d.f 16 8, image := d.f 40 8
        imageLen := d.f 48 4, prio := d.prio, at_ := d.at_, begun := 0, preempted := false, phys := 200, cm := d.cm
        switching := false, drop := none, named := d.f 24 2 != 0xFFFF, sent := false, restart := false }] }))

/-- SO_OP (14 Table 14.5, 15 R416). -/
def Chip.soOp (c : Chip) (d : Desc) (isSet : Bool) : Chip :=
  let so := d.f 16 2
  if !c.soAllowed d.ctx so then c.finish d.key 0x02 so
  else ((c.fwAct ((c.serving d.sq).getD 0) so (d.f 20 4) isSet).finish d.key 0 0)

/-- SO_OP_SIGNAL. -/
def Chip.doSoOpSignal (c : Chip) (r : Nat) : Chip := c.onDesc r (fun d => d.op == 0x11 && d.f 18 1 != 1) (fun e d => e.soOp d false)
/-- SO_OP_SET. -/
def Chip.doSoOpSet (c : Chip) (r : Nat) : Chip := c.onDesc r (fun d => d.op == 0x11 && d.f 18 1 == 1) (fun e d => e.soOp d true)

/-- SO_WAIT (03 R86, R88): satisfied at once, registered, or refused; later descriptors of the ring wait for it. -/
def Chip.doSoWait (c : Chip) (r : Nat) : Chip :=
  c.onDesc r (opIs 0x12) (fun e d =>
    let so := d.f 16 2
    let target := d.f 20 4
    if !e.soAllowed d.ctx so then e.finish d.key 0x02 so
    else if waitHolds (e.soValue so) target then e.finish d.key 0 0
    else if 256 ≤ e.fwWaits (so / 4096) then e.finish d.key 0x14 so
    else (e.starts d [e.dispatch]).modSo (fun s => { s with waits := s.waits ++ [{ so := so, target := target, who := .fw d.key }] }))

/-- The started SO_WAIT of a ring. -/
def Chip.waitOf (c : Chip) (r : Nat) : Option Desc := c.cm.descs.find? (fun d => d.sq == r && d.op == 0x12 && d.st == .started)

/-- A satisfied SO_WAIT completes (03 R87). -/
def Chip.settleWait (c : Chip) (r : Nat) : Chip :=
  match c.waitOf r with
  | some d =>
    if (tabFind c.so.woken d.key).isSome then (c.modSo (fun s => { s with woken := tabDel s.woken d.key })).finish d.key 0 0 else c
  | none => c

/-- SO_WAIT_TIMEOUT (03 R88): the registration is removed and the descriptor completes with TIMEOUT and the counter's value; a
wake that the home committed before wins. -/
def Chip.doSoWaitTimeout (c : Chip) (r : Nat) : Chip :=
  match c.waitOf r with
  | some d =>
    let us := d.f 24 4
    if us = 0 ∨ (c.serving r).isNone then c
    else if (tabFind c.so.woken d.key).isSome then (c.settleWait r).pump r
    else
      let e := (c.passTo srcDispatch (d.aux.headD 0 + 1000 * us)).soWithdraw (.fw d.key)
      (e.finish d.key 0x13 (e.soValue (d.f 16 2))).pump r
  | none => c

/-! Ledge queues and buckets (10 R252, R287, 11 R290, R299) -/

/-- Whether a resource bound to context `owner` is another context's: a descriptor that names one completes with BAD_CONTEXT and its own
context (19 R493, 14 R368; DEDUCED, assumption 32). -/
def Desc.foreign (d : Desc) (bound : Bool) (owner : Nat) : Bool := bound && owner != d.ctx

/-- LQ_BIND (10 R252). -/
def Chip.doLqBind (c : Chip) (r : Nat) : Chip :=
  c.onDesc r (opIs 0x20) (fun e d =>
    let q := d.f 16 2
    let so := d.f 20 2
    if d.foreign (e.lqAt q).bound (e.lqAt q).ctx then e.finish d.key 0x07 d.ctx
    else if !(e.lqCmds q).isEmpty || (e.lqAt q).unbind.isSome then e.finish d.key 0x09 q
    else if e.soOwner so ≠ d.ctx then e.finish d.key 0x02 so
    else
      (e.setLq q { Lq.fresh with bound := true, ctx := d.ctx, base := d.f 24 8, log2 := d.f 18 1, so := so, weight := d.f 19 1 }).finish
        d.key 0 0)

/-- LQ_UNBIND (10 R287): commands in execution are cancelled, and the queue is unbound when they have completed. -/
def Chip.doLqUnbind (c : Chip) (r : Nat) : Chip :=
  c.onDesc r (opIs 0x21) (fun e d =>
    let q := d.f 16 2
    if d.foreign (e.lqAt q).bound (e.lqAt q).ctx then e.finish d.key 0x07 d.ctx
    else if (e.lqAt q).unbind.isSome then e.finish d.key 0x09 q
    else
      let x := (e.starts d []).lqCancel q
      (x.setLq q { x.lqAt q with unbind := some d.key }).settleLq q)

/-- BUCKET_OPEN (11 R290). -/
def Chip.doBucketOpen (c : Chip) (r : Nat) : Chip :=
  c.onDesc r (opIs 0x22) (fun e d =>
    let b : Bucket :=
      { Bucket.fresh with
        ctx := d.ctx, base := d.f 24 8, len := d.f 32 8, expect := d.f 40 8, so := d.f 20 2, sval := d.f 48 4, record := d.f 56 8
        rhint := d.f 22 2, norm := d.f 64 8, timeout := d.f 52 4, nosq := bit (d.f 18 1) 0 }
    let x := e.bucketOpen (d.f 16 2) b
    x.1.finish d.key x.2.1 x.2.2)

/-- BUCKET_ABORT (11 R299). -/
def Chip.doBucketAbort (c : Chip) (r : Nat) : Chip :=
  c.onDesc r (opIs 0x23) (fun e d =>
    let x := (e.starts d []).bucketAbort (d.f 16 2) d.ctx (some d.key)
    if x.2.2.2 then x.1 else (e.bucketAbort (d.f 16 2) d.ctx (some d.key)).1.finish d.key x.2.1 x.2.2.1)

/-- BUCKET_ABORT_DONE (R299): the contributions that an aborting bucket had accepted are applied; its record and NaN are written, its
object is signalled, the entry is FREE, and the descriptor that aborted it ends with DONE. -/
def Chip.doBucketAbortDone (c : Chip) (tag : Nat) : Chip :=
  let b := c.bucketAt tag
  if b.st = .aborting then
    let d := c.bucketEnd tag 1 nan32
    match b.abort with
    | some key => d.finish key 0 0
    | none => d
  else c

/-! Regions (12 R322, R325, 13 R356, R357) -/

/-- PCIE_REGION (12 R322). -/
def Chip.doPcieRegion (c : Chip) (r : Nat) : Chip :=
  c.onDesc r (fun d => d.op == 0x24 && bit (d.f 18 1) 0) (fun e d =>
    if d.foreign (e.pcieAt (d.f 16 2)).valid (e.pcieAt (d.f 16 2)).ctx then e.finish d.key 0x07 d.ctx
    else (e.modPcie (fun t => tabSet t (d.f 16 2)
      { valid := true, msi := bit (d.f 18 1) 1, port := d.f 19 1, reqid := d.f 20 2, reqmask := d.f 22 2, ctx := d.ctx, vbase := d.f 24 8
        len := d.f 32 8, perm := d.f 40 1, hint := d.f 44 2, hart := d.f 41 1, file := d.f 42 1 })).finish d.key 0 0)

/-- PCIE_REGION_WITHDRAW (12 R325). -/
def Chip.doPcieRegionWithdraw (c : Chip) (r : Nat) : Chip :=
  c.onDesc r (fun d => d.op == 0x24 && !bit (d.f 18 1) 0) (fun e d =>
    if d.foreign (e.pcieAt (d.f 16 2)).valid (e.pcieAt (d.f 16 2)).ctx then e.finish d.key 0x07 d.ctx
    else (e.modPcie (fun t => tabSet t (d.f 16 2) PcieRegion.fresh)).finish d.key 0 0)

/-- A new CHECK for an entry: non-zero and not the one before; which, the specification leaves open (13 R356). -/
def newCheck (old free : Nat) : Nat :=
  let v := free % 65534 + 1
  if old ≠ 0 ∧ old ≤ v then v + 1 else v

/-- FD_REGION (13 R356): the entry is registered under a new key, which DETAIL holds. -/
def Chip.doFdRegion (c : Chip) (r : Nat) : Chip :=
  c.onDesc r (fun d => d.op == 0x25 && bit (d.f 18 1) 0) (fun e d =>
    let k := d.f 16 2
    if d.foreign (e.regionAt k).valid (e.regionAt k).ctx then e.finish d.key 0x07 d.ctx
    else if (e.regionAt k).closing.isSome then e.finish d.key 0x09 k
    else
      let check := newCheck (e.regionAt k).check e.freeVal
      ((e.took 1).setRegion k
        { valid := true, ctx := d.ctx, vbase := d.f 24 8, len := d.f 32 8, perm := d.f 19 1, check := check, hint := d.f 20 2
          version := d.f 40 8, closing := none }).finish d.key 0 (k * 65536 + check))

/-- FD_REGION_WITHDRAW (13 R357). -/
def Chip.doFdRegionWithdraw (c : Chip) (r : Nat) : Chip :=
  c.onDesc r (fun d => d.op == 0x25 && !bit (d.f 18 1) 0) (fun e d =>
    if d.foreign (e.regionAt (d.f 16 2)).valid (e.regionAt (d.f 16 2)).ctx then e.finish d.key 0x07 d.ctx
    else if (e.regionAt (d.f 16 2)).closing.isSome then e.finish d.key 0x09 (d.f 16 2)
    else (e.starts d []).regionDrop (d.f 16 2) (some d.key))

/-! Connections (13 R337, R338, 14 R548) -/

/-- CONN_CREATE (13 R338). -/
def Chip.doConnCreate (c : Chip) (r : Nat) : Chip :=
  c.onDesc r (opIs 0x30) (fun e d =>
    let k := d.f 16 2
    let x := e.connAt k
    if x.st = .open_ ∨ x.st = .connecting then e.finish d.key 0x09 k
    else
      let n := d.f 18 1
      let s := e.spanLines [] d.ctx (d.f 40 8) (16 * n) false
      let e1 := e.used [] srcDispatch s
      let g := e1.mem.gather s
      match s.fault, g.2 with
      | some f, _ => e1.finish d.key f.kind.code f.detail
      | none, some a => e1.finish d.key 0x05 a
      | none, none =>
        let y : Conn :=
          { Conn.fresh with
            st := .connecting, ctx := d.ctx, cookie := d.f 24 8, peers := (List.range n).map (fun i => beVal ((g.1.drop (16 * i)).take 16))
            mask := d.f 20 4, epoch := x.epoch, rxring := d.f 32 2, creditMax := clampN (d.f 36 4) 65536 16777216
            timeout := clampN (d.f 34 2) 1 1000, proposal := if x.epoch = 0 then 1 else (x.epoch + 1) % 65536
            creator := some d.key, tx := { HSend.fresh with beat := e1.dispatch } }
        ((e1.starts d []).setConn k y).raiseCredit k)

/-- CONN_CLOSE (14 Table 14.5). -/
def Chip.doConnClose (c : Chip) (r : Nat) : Chip :=
  c.onDesc r (opIs 0x31) (fun e d =>
    let k := d.f 16 2
    if (e.connAt k).st ≠ .idle ∧ (e.connAt k).ctx ≠ d.ctx then e.finish d.key 0x07 d.ctx
    else (e.connShut k).finish d.key 0 0)

/-- NEIGH (14 Table 14.5): an entry of the neighbour table written, replaced or removed. -/
def Chip.doNeigh (c : Chip) (r : Nat) : Chip :=
  c.onDesc r (opIs 0x32) (fun e d =>
    let sub := d.f 16 1
    let ip := fieldBE d.bytes 24 16
    let rest := e.fab.neigh.filter (fun n => !(n.1 == sub && n.2.1 == ip))
    if d.f 17 1 = 0 then (e.modFab (fun f => { f with neigh := rest })).finish d.key 0 0
    else if 1024 ≤ rest.length then e.finish d.key 0x09 sub
    else (e.modFab (fun f => { f with neigh := rest ++ [(sub, ip, fieldBE d.bytes 18 6)] })).finish d.key 0 0)

/-- The connection check of HAUL_POST, SENDI and HAUL_READ (14 R548), then the message is posted. -/
def Chip.postTo (c : Chip) (d : Desc) : Chip :=
  let k := d.f 16 4
  let x := c.connAt k
  if x.st ≠ .idle ∧ x.ctx ≠ d.ctx then c.finish d.key 0x07 d.ctx
  else match x.st with
    | .idle => c.finish d.key 0x0E k
    | .lost => c.finish d.key 0x0E k
    | .connecting => c.starts d [k]
    | .open_ => (c.starts d []).haulPost k d.message

/-- HAUL_POST_WRITE. -/
def Chip.doHaulPostWrite (c : Chip) (r : Nat) : Chip :=
  c.onDesc r (fun d => d.op == 0x33 && !([4, 5, 6] : List Nat).contains (d.f 20 1)) Chip.postTo
/-- HAUL_POST_ACCUMULATE. -/
def Chip.doHaulPostAccumulate (c : Chip) (r : Nat) : Chip := c.onDesc r (fun d => d.op == 0x33 && d.f 20 1 == 4) Chip.postTo
/-- HAUL_POST_SEND. -/
def Chip.doHaulPostSend (c : Chip) (r : Nat) : Chip := c.onDesc r (fun d => d.op == 0x33 && d.f 20 1 == 5) Chip.postTo
/-- HAUL_POST_SIGNAL. -/
def Chip.doHaulPostSignal (c : Chip) (r : Nat) : Chip := c.onDesc r (fun d => d.op == 0x33 && d.f 20 1 == 6) Chip.postTo
/-- SENDI. -/
def Chip.doSendi (c : Chip) (r : Nat) : Chip := c.onDesc r (opIs 0x34) Chip.postTo
/-- HAUL_READ (13 R354). -/
def Chip.doHaulRead (c : Chip) (r : Nat) : Chip := c.onDesc r (opIs 0x35) Chip.postTo

/-! RoCEv2 (13 R358, R359) -/

/-- QP_CREATE (13 R358). -/
def Chip.doQpCreate (c : Chip) (r : Nat) : Chip :=
  c.onDesc r (opIs 0x36) (fun e d =>
    let n := d.f 16 2
    if (e.qpAt n).st = .ready then e.finish d.key 0x09 n
    else
      (e.setQp n
        { Qp.fresh with
          st := .ready, ctx := d.ctx, mtu := d.f 18 1, sub := d.f 19 1, cq := d.f 20 2, retry := d.f 22 1, rnr := d.f 23 1
          peer := fieldBE d.bytes 24 16, peerQpn := d.f 40 4, texp := d.f 48 1, psn := d.f 44 4, unacked := d.f 44 4
          epsn := d.f 44 4, rate := Rate.start (fp32OfNat (e.lineRate (d.f 19 1))) e.fabric }).finish d.key 0 0)

/-- A work request or buffer for a queue pair of the descriptor's context that is ready. -/
def Chip.onQp (c : Chip) (d : Desc) (f : Chip → Chip) : Chip :=
  let q := c.qpAt (d.f 16 2)
  if q.st = .none ∨ q.ctx ≠ d.ctx then c.finish d.key 0x07 d.ctx
  else if q.st = .error then (c.qpFinish (d.f 16 2) d.key 0x16 (c.freeVal % 256)).took 1
  else f c

/-- A work request posted (13 R359). -/
def Chip.qpDesc (c : Chip) (d : Desc) : Chip :=
  c.onQp d (fun e => (e.starts d []).qpPost (d.f 16 2)
    { key := d.key, verb := d.f 18 1, lva := d.f 24 8, len := d.f 32 4, rkey := d.f 36 4, rva := d.f 40 8, imm := d.f 20 4, psn := 0
      pkts := 0, got := 0 })

/-- QP_POST_SEND. -/
def Chip.doQpPostSend (c : Chip) (r : Nat) : Chip :=
  c.onDesc r (fun d => d.op == 0x37 && !([1, 2, 3, 4] : List Nat).contains (d.f 18 1)) Chip.qpDesc
/-- QP_POST_SEND_IMM. -/
def Chip.doQpPostSendImm (c : Chip) (r : Nat) : Chip := c.onDesc r (fun d => d.op == 0x37 && d.f 18 1 == 1) Chip.qpDesc
/-- QP_POST_WRITE. -/
def Chip.doQpPostWrite (c : Chip) (r : Nat) : Chip := c.onDesc r (fun d => d.op == 0x37 && d.f 18 1 == 2) Chip.qpDesc
/-- QP_POST_WRITE_IMM. -/
def Chip.doQpPostWriteImm (c : Chip) (r : Nat) : Chip := c.onDesc r (fun d => d.op == 0x37 && d.f 18 1 == 3) Chip.qpDesc
/-- QP_POST_READ. -/
def Chip.doQpPostRead (c : Chip) (r : Nat) : Chip := c.onDesc r (fun d => d.op == 0x37 && d.f 18 1 == 4) Chip.qpDesc

/-- RECV_POST: the descriptor completes when a message has used its buffer. -/
def Chip.doRecvPost (c : Chip) (r : Nat) : Chip :=
  c.onDesc r (opIs 0x38) (fun e d => e.onQp d (fun x =>
    let q := x.qpAt (d.f 16 2)
    (x.starts d []).setQp (d.f 16 2) { q with recvs := q.recvs ++ [{ key := d.key, va := d.f 24 8, len := d.f 32 4 }] }))

/-- RAWQ_BIND: the raw frame queue bound to a receive ring, or unbound. -/
def Chip.doRawqBind (c : Chip) (r : Nat) : Chip :=
  c.onDesc r (opIs 0x39) (fun e d =>
    let q := d.f 16 2
    if q = 0xFFFF then (e.modFab (fun f => { f with rawq := none })).finish d.key 0 0
    else if (e.cqAt q).recv ∧ (e.cqAt q).st ≠ .free then (e.modFab (fun f => { f with rawq := some q })).finish d.key 0 0
    else e.finish d.key 0x01 16)

/-! Rings and commanders (14 R369, R389) -/

/-- RING_BIND: a ring bound to the commander; an SQ names a CQ of the same commander that takes completions. -/
def Chip.doRingBind (c : Chip) (r : Nat) : Chip :=
  c.onDesc r (opIs 0x40) (fun e d =>
    let n := d.f 18 2
    if d.f 16 1 = 0 then
      let q := e.cqAt (d.f 20 2)
      if (e.sqAt n).st ≠ .free then e.finish d.key 0x09 n
      else if q.st = .free ∨ q.cm ≠ d.cm ∨ q.recv then e.finish d.key 0x01 20
      else (e.bindSq n d.cm (d.f 17 1) (d.f 24 8) (d.f 20 2) (d.f 22 1)).finish d.key 0 0
    else if (e.cqAt n).st ≠ .free then e.finish d.key 0x09 n
    else (e.bindCq n d.cm (d.f 17 1) (d.f 24 8) (d.f 32 4) (d.f 23 1) (d.f 36 2)).finish d.key 0 0)

/-- RING_UNBIND: a CQ is FREE at once; an SQ consumes nothing further and is FREE when what it has fetched is complete. -/
def Chip.doRingUnbind (c : Chip) (r : Nat) : Chip :=
  c.onDesc r (opIs 0x41) (fun e d =>
    let n := d.f 18 2
    if d.f 16 1 = 1 then
      (if (e.cqAt n).st = .free then e.finish d.key 0 0
       else if (e.cqAt n).cm ≠ d.cm then e.finish d.key 0x09 n
       else (e.setCq n Cq.fresh).finish d.key 0 0)
    else if (e.sqAt n).st = .free then e.finish d.key 0 0
    else if (e.sqAt n).cm ≠ d.cm then e.finish d.key 0x09 n
    else if (e.sqAt n).unbinding.isSome then e.finish d.key 0x09 n
    else (e.starts d [n]).setSq n { e.sqAt n with unbinding := some d.key })

/-- A submission ring whose unbinding waits is FREE once what it fetched is complete. -/
def Chip.settleRing (c : Chip) (n : Nat) : Chip :=
  match (c.sqAt n).unbinding with
  | some key =>
    if c.cm.descs.any (fun d => d.sq == n && d.key != key) then c else (c.finish key 0 0).setSq n Sq.fresh
  | none => c

/-- CM_RELEASE (14 R389): a LOST entry is freed; its rings are unbound, its logged records discarded and counted, its grants
revoked. What still runs for it belongs to no entry (32), and its records are discarded. -/
def Chip.doCmRelease (c : Chip) (r : Nat) : Chip :=
  c.onDesc r (opIs 0x42) (fun e d =>
    let k := d.f 16 1
    let x := e.cmAt k
    match x.st with
    | .active => e.finish d.key 0x09 k
    | .free => e.finish d.key 0 0
    | .lost =>
      let n := (e.cm.log.filter (fun l => l.rcd.cm == k)).length
      let e1 := (e.freeRings k).modCm (fun m =>
        { m with
          log := m.log.filter (fun l => l.rcd.cm != k), dropped := m.dropped + n
          descs := m.descs.map (fun z => if z.cm = k then { z with cm := 32 } else z)
          fin := m.fin.map (fun z => if z.cm = k then { z with cm := 32 } else z) })
      let e2 := e1.modCtx (fun t => t.map (fun p => (p.1, { p.2 with grants := p.2.grants.filter (· != x.key) })))
      (e2.setCm k { Cmdr.fresh with ignored := x.ignored, regAddr := x.regAddr }).finish d.key 0 n)

/-- CONT (14 R370, R374): a CONT slot where a descriptor is expected, or a reserved opcode, completes with MALFORMED. -/
def Chip.doCont (c : Chip) (r : Nat) : Chip := c.onDesc r (fun d => !descOps.contains d.op) (fun e d => e.finish d.key 0x01 2)

/-! Captures (01 R30 to R33) -/

/-- CAPTURE (01 R31). -/
def Chip.doCapture (c : Chip) (r : Nat) : Chip :=
  c.onDesc r (opIs 0x05) (fun e d =>
    (e.starts d []).capAsk
      { reqId := d.f 16 2, srcs := (List.range (d.f 18 1)).map (fun i => d.f (24 + 2 * i) 2), record := d.f 40 8, key := some d.key })

/-- CAPTURE_EXECUTE (01 R30, R31): the first request is carried out: the named islands latch their counters and the record is
written, to a commander's own memory for its descriptor. -/
def Chip.doCaptureExecute (c : Chip) : Chip :=
  match c.cap.queue with
  | [] => c
  | q :: rest =>
    let bs := c.capRecord q
    let d := c.modCap (fun k => { k with queue := rest })
    match q.key with
    | none => d.devWrite srcDispatch q.record bs 0
    | some key =>
      match d.descAt key with
      | some x =>
        if x.cm = 0 then
          (if d.writable q.record bs.length then (d.storeHint q.record bs false 0).finish key 0 0
           else (d.logRefused srcDispatch q.record bs.length).finish key 0x04 q.record)
        else if (d.cmAt x.cm).st = .active then d.cxlAsk x.cm q.record (some bs) (.done key)
        else d.finish key 0x12 0
      | none => d

/-- CAP_GO as applied (21 R527): one request from the capture registers. -/
def Chip.capStart (c : Chip) (v : Nat) : Chip :=
  let n := bits v 19 16
  if n = 0 ∨ 8 < n then c
  else c.capAsk
    { reqId := v % 65536, srcs := (List.range n).map (fun i => bits (c.rw (0x700000 + 8 * (i / 4))) (16 * (i % 4) + 15) (16 * (i % 4)))
      record := c.rw 0x700010, key := none }

/-! Completion (14 R379, R384, R385) -/

/-- Descriptors of a ring whose wait is over come to their end: SO_WAIT, TLB_INVAL, CTX_DESTROY and RING_UNBIND. -/
def Chip.settleDescs (c : Chip) (r : Nat) : Chip :=
  (c.cm.descs.filter (fun d => d.sq == r && d.st == .started)).foldl (fun (e : Chip) d =>
    match d.op with
    | 0x02 => if e.ctxOver (d.aux.headD 0) then e.ctxEnd (d.aux.headD 0) d.key else e
    | 0x04 => let ops := e.moverOps d.ctx
              if d.aux.any ops.contains then e else e.finish d.key 0 0
    | 0x12 => e.settleWait r
    | 0x41 => e.settleRing (d.aux.headD 0)
    | _ => e) c

/-- DESCRIPTOR_COMPLETE (14 R378, R379, R384, R385): the first descriptor of a ring to have ended has its record written, or
logged; then its object is signalled and an armed CQ sends its interrupt. -/
def Chip.doDescriptorComplete (c : Chip) (r : Nat) : Chip :=
  if (c.serving r).isNone then c
  else
    let d := c.settleDescs r
    match d.cm.fin.find? (fun f => f.sq == r) with
    | some f => ((((d.modCm (fun m => { m with fin := m.fin.erase f })).deliver { rcd := f, prior := false }).overflowEvents).pump r)
    | none => d.pump r

end Sys2Proof.Machine
end

