-- ==== Sys2Proof/Machine/Save.lean ====
section
/-!
DEFINITION. The context save area and the function-table images (15 R400 to R402, 04 R112 to R114, 05 R138, 06 R175, R177,
07 R198): what a switch and a pre-emption write and restore.
-/

namespace Sys2Proof.Machine

/-! Images in package memory -/

/-- A range of a context written line by line with the poison of each line, through the TLBs of a tile's mover, or the fault
that stops it. -/
def Chip.saveRange (c : Chip) (t ctx va : Nat) (bs : List Byte) (bad : Nat → Bool) (hint : Nat) : Except VFault Chip :=
  let s := c.spanLines (moverTlbs t) ctx va bs.length true
  match s.fault with
  | some f => .error f
  | none =>
    .ok ((s.pieces.zipIdx.foldl (fun (acc : Chip × List Byte) p =>
      (acc.1.storeHint p.1.2.1 (acc.2.take p.1.2.2) (bad p.2) hint, acc.2.drop p.1.2.2)) (c.used (moverTlbs t) (srcTile t) s, bs)).1)

/-- A range of a context read: its bytes and its poisoned lines, by index, or the fault that stops it. -/
def Chip.loadRange (c : Chip) (t ctx va n : Nat) : Except VFault (Chip × List Byte × List Nat) :=
  let s := c.spanLines (moverTlbs t) ctx va n false
  match s.fault with
  | some f => .error f
  | none =>
    .ok (c.used (moverTlbs t) (srcTile t) s, (c.mem.gather s).1,
      s.pieces.zipIdx.filterMap (fun p => if c.mem.poisonedN p.1.2.1 p.1.2.2 then some p.2 else none))

/-- A list of writes carried out in order until one faults. -/
def Chip.saveAll (c : Chip) (t ctx hint : Nat) : List (Nat × List Byte × (Nat → Bool)) → Except VFault Chip
  | [] => .ok c
  | (va, bs, bad) :: r =>
    match c.saveRange t ctx va bs bad hint with
    | .ok d => Chip.saveAll d t ctx hint r
    | .error f => .error f

/-- The save slot of a logical tile in a context (15 R400). -/
def Chip.slotOf (c : Chip) (ctx j : Nat) : Nat := (c.ctxAt ctx).save + j * 0x6A0000

/-- No poison. -/
def noPoison : Nat → Bool := fun _ => false

/-! The images of a tile (Tables 4.6, 5.4, 6.7, 7.13) -/

/-- The controller save image (07 Table 7.13). -/
def Tile.ctlImage (v : Tile) : List Byte := leBytes 8 v.pc ++ (List.range 31).flatMap (fun i => leBytes 8 (v.xr (i + 1)))

/-- The vector save image (06 Table 6.7). -/
def Vec.image (v : Vec) : List Byte :=
  (List.range 4096).flatMap (fun i => leBytes 4 (tabGet 0 v.v i)) ++ (List.range 8).flatMap (fun k => leBytes 16 (tabGet 0 v.m k)) ++
  leBytes 4 v.vl ++ leBytes 4 v.vstatus ++ leBytes 4 v.vtid ++ leBytes 4 v.vpass ++ leBytes 8 v.vstep ++ leBytes 8 v.vibase ++
  leBytes 4 v.vfill ++ zeros 28

/-- The vector engine read back from its image; function tables and queue as they are. -/
def Vec.ofImage (v : Vec) (b : List Byte) : Vec :=
  let f := fieldLE b
  { v with
    v := ((List.range 4096).map (fun i => (i, f (4 * i) 4))).filter (fun p => p.2 != 0)
    m := ((List.range 8).map (fun k => (k, f (16384 + 16 * k) 16))).filter (fun p => p.2 != 0)
    vl := clampN (f 16512 1) 1 128, vstatus := f 16516 4, vtid := f 16520 4, vpass := f 16524 3, vstep := f 16528 8
    vibase := f 16536 8, vfill := f 16544 4 }

/-- The array-queue entries that a pre-emption leaves, in issue order, with a pending load that has already latched its last value
(04 R113; DEDUCED, assumption 96). -/
def Arr.left (a : Arr) : List ArrEnt :=
  (a.latched.elim a.q (insertEnt a.q)).filter (fun (e : ArrEnt) =>
    match e.kind with
    | .pass => decide (e.written < e.m)
    | .load => !a.q.any (fun p => p.kind == .pass && p.isNew && p.blk == e.serial && decide (0 < p.written))
    | .mvmul => true)

/-- The array pre-emption record (04 Table 4.6). -/
def Arr.record (a : Arr) : List Byte :=
  let es := a.left
  let img := match a.active with | some k => (match tabFind a.blocks k with | some b => some b.img | none => none) | none => none
  let part := es.findIdx? (fun e => e.kind == .pass && decide (0 < e.written))
  let next := match part with | some i => (match es[i]? with | some e => e.written | none => 0) | none => 0
  leBytes 4 (img.getD 0) ++ leBytes 1 es.length ++ leBytes 1 (b2n img.isSome) ++ leBytes 2 next ++ leBytes 1 (part.getD 0xFF) ++ zeros 23 ++
    es.flatMap (fun e => leBytes 8 e.instr ++ leBytes 4 e.opa ++ leBytes 4 e.opb) ++ zeros (16 * (8 - es.length))

/-- What a pre-emption writes beside tile memory and instruction memory (04 R112 steps 5 and 6, 06 R176, 07 R198). -/
def Tile.stopImages (v : Tile) (slot : Nat) : List (Nat × List Byte × (Nat → Bool)) :=
  [(slot + 0x610000, v.ctlImage, noPoison), (slot + 0x610100, v.arr.record, noPoison), (slot + 0x610200, v.vec.image, noPoison),
   (slot + 0x614400, v.acc.image, fun l => setHas v.acc.poison l)]

/-- Tile memory and instruction memory as a slot holds them. -/
def Tile.memImages (v : Tile) (slot : Nat) : List (Nat × List Byte × (Nat → Bool)) :=
  [(slot, v.mem.readN 0 0x600000, fun g => setHas v.poison g), (slot + 0x600000, v.imem.readN 0 0x10000, noPoison)]

/-- The images at a work-item boundary: the array record is zero (15 R402). -/
def Tile.endImages (v : Tile) (slot : Nat) : List (Nat × List Byte × (Nat → Bool)) :=
  [(slot + 0x610000, v.ctlImage, noPoison), (slot + 0x610100, zeros 160, noPoison), (slot + 0x610200, v.vec.image, noPoison),
   (slot + 0x614400, v.acc.image, fun l => setHas v.acc.poison l)]

/-- A byte list as a memory. -/
def memOf (bs : List Byte) : Memory := Memory.writeN [] 0 bs

/-! Function tables (06 R175, 15 R401) -/

/-- The header of a context's function-table images: the generations and the VALID bits; an FTIMG of zero names no block, so no image
is present (DEDUCED, assumption 25). -/
def Chip.ftHeader (c : Chip) (ctx : Nat) : Except VFault (Chip × List Nat × Nat) :=
  let s := c.spanLines [] ctx (c.ctxAt ctx).ftimg 64 false
  if (c.ctxAt ctx).ftimg = 0 then .ok (c, [], 0) else
  match s.fault with
  | some f => .error f
  | none =>
    let g := c.mem.gather s
    match g.2 with
    | some a => .error { kind := .poison, detail := a, refused := none }
    | none => .ok (c.used [] srcDispatch s, (List.range 4).map (fun k => fieldLE g.1 (4 * k) 4), fieldLE g.1 16 1 % 16)

/-- The image of one table; zeros where it is not present. -/
def Chip.ftImage (c : Chip) (ctx valid k : Nat) : Except VFault (Chip × Memory) :=
  if !bit valid k then .ok (c, [])
  else
    let s := c.spanLines [] ctx ((c.ctxAt ctx).ftimg + 64 + 4128 * k) 4128 false
    match s.fault with
    | some f => .error f
    | none =>
      let g := c.mem.gather s
      match g.2 with
      | some a => .error { kind := .poison, detail := a, refused := none }
      | none => .ok (c.used [] srcDispatch s, memOf g.1)

/-- The generation of a table's image. -/
def ftGen (gens : List Nat) (valid k : Nat) : Nat := if bit valid k then gens.getD k 0 else 0

/-- The function tables of an idle tile and its context's images: all of them loaded when it takes the context up (06 R175),
or those whose generation differs rebuilt and flipped at once at the start of a work item (15 R401, 06 R174). -/
def Chip.ftLoad (c : Chip) (t ctx : Nat) (all : Bool) : Except VFault Chip :=
  match c.ftHeader ctx with
  | .error f => .error f
  | .ok (d, gens, valid) =>
    (List.range 4).foldl (fun acc k =>
      match acc with
      | .error f => .error f
      | .ok (e : Chip) =>
        let v := e.tileAt t
        if !all && (v.vec.table k).gen == ftGen gens valid k then .ok e
        else match e.ftImage ctx valid k with
          | .error f => .error f
          | .ok (x, m) =>
            let old := v.vec.table k
            .ok (x.setTile t ((x.tileAt t).setTable k
              (if all then { front := m, back := [], gen := ftGen gens valid k, closed := true, asked := false, held := [] }
               else { front := m, back := old.front, gen := (old.gen + 1) % 2 ^ 32, closed := false, asked := false, held := [] })))) (.ok d)

/-! Restoring (15 R402 step 2, 04 R114, 07 R198) -/

/-- Tile memory, instruction memory, accumulators and vector registers restored from a slot with their poison. -/
def Chip.restore (c : Chip) (t ctx slot : Nat) : Except VFault Chip :=
  match c.loadRange t ctx slot 0x600000 with
  | .error f => .error f
  | .ok (c1, tm, bad) =>
    match c1.loadRange t ctx (slot + 0x600000) 0x10000 with
    | .error f => .error f
    | .ok (c2, im, _) =>
      match c2.loadRange t ctx (slot + 0x610200) 16576 with
      | .error f => .error f
      | .ok (c3, vi, _) =>
        match c3.loadRange t ctx (slot + 0x614400) accImageLen with
        | .error f => .error f
        | .ok (c4, ai, abad) =>
          let v := (c4.tileAt t).wipe
          .ok (c4.setTile t { v with mem := memOf tm, poison := bad, imem := memOf im, vec := v.vec.ofImage vi, acc := Acc.ofImage ai abad })

/-- One entry of the pre-emption record re-issued with the operand values it had (04 R114 step 3): the answer is the tile, or
the exception that its checks now raise. The record does not hold the offset of the instruction, which AFAULT.PC would report; it
is the resume point here (DESIGN CHOICE, assumption 99). -/
def Tile.reissue (v : Tile) (w opa opb : Nat) : Except (Nat × Nat) Tile :=
  let r := if iOp w = 0x00 then v.enqMload w opa else if iOp w = 0x01 then v.enqMmul w opa opb else v.enqMvmul w opa opb
  match r with
  | .error e => .error e
  | .ok none => .ok v
  | .ok (some n) => .ok n

/-- The entries of a pre-emption record re-issued in issue order; the one in part goes on from its next row, without NEW. -/
def Tile.reissueAll (v : Tile) (r : List Byte) : Except (Nat × Nat) Tile :=
  (List.range (min 8 (fieldLE r 4 1))).foldl (fun acc i =>
    match acc with
    | .error e => .error e
    | .ok (u : Tile) =>
      let w := fieldLE r (32 + 16 * i) 8
      let opa := fieldLE r (40 + 16 * i) 4
      let opb := fieldLE r (44 + 16 * i) 4
      if fieldLE r 8 1 = i then
        let n := fieldLE r 6 2
        let w1 := putBits (putBits (putBits w 32 9 (bits w 40 32 + 512 - n)) 22 9 (bits w 30 22 + n)) 12 1 0
        u.reissue w1 opa (opb + n)
      else u.reissue w opa opb) (.ok v)

/-- The reload of the active plane begins from the image that the record names (04 R114 step 2). -/
def Tile.reloadActive (v : Tile) (r : List Byte) : Except (Nat × Nat) Tile :=
  if !bit (fieldLE r 5 1) 0 then .ok v
  else match v.goodDesc (fieldLE r 0 4) with
    | .error e => .error e
    | .ok d =>
      let u := v.startReload v.serial { pc := v.pc, img := fieldLE r 0 4, desc := d, lines := [], scales := [] }
      .ok { u with serial := v.serial + 1, arr := { u.arr with active := some v.serial, use := some v.serial } }

end Sys2Proof.Machine
end

