-- ==== Sys2Proof/Machine/Secure.lean ====
section
/-!
DEFINITION. Images and anti-rollback counters (19 R482 to R486): what makes an image acceptable, and how a counter rises.
-/

namespace Sys2Proof.Machine

/-- The record in force: the valid copy with the higher WRITE_NO (R485). -/
def Secure.rec_ (k : Secure) : CtrRec :=
  if k.recA.valid ∧ (!k.recB.valid ∨ k.recB.writeNo ≤ k.recA.writeNo) then k.recA else k.recB

/-- Some copy of the record is valid. -/
def Secure.recOk (k : Secure) : Bool := k.recA.valid || k.recB.valid

/-- The record written with new counters, to the copy with the lower WRITE_NO (R485). -/
def Secure.putRec (k : Secure) (r : CtrRec) : Secure :=
  let n := { r with valid := true, writeNo := max k.recA.writeNo k.recB.writeNo + 1, flashNo := r.flashNo + 1 }
  if k.recA.writeNo ≤ k.recB.writeNo then { k with recA := n } else { k with recB := n }

/-- The counter of an image type (R484). -/
def CtrRec.svn (r : CtrRec) (type : Nat) : Nat :=
  match type with
  | 1 => r.mgmt
  | 2 => r.hostboot
  | 3 => r.dispatch
  | _ => r.microcode

/-- The counters after an image of a type with ADVANCE is accepted: its own and KEY_GEN, never lowered (R486). -/
def CtrRec.raised (r : CtrRec) (type svn keyGen : Nat) : CtrRec :=
  let x := { r with keyGen := max r.keyGen keyGen }
  match type with
  | 1 => { x with mgmt := max r.mgmt svn }
  | 2 => { x with hostboot := max r.hostboot svn }
  | 3 => { x with dispatch := max r.dispatch svn }
  | _ => { x with microcode := max r.microcode svn }

/-- A raise that changes a counter written as a record (R486). -/
def Secure.raise (k : Secure) (type svn keyGen : Nat) : Secure :=
  let r := k.rec_
  if r.raised type svn keyGen = r then k else k.putRec (r.raised type svn keyGen)

/-- Bytes 0 to 31 and the reserved parts of an image header keep the rules of R483 for a type; the fields that R483 compares
with a counter are judged apart. -/
def headerOk (h : List Byte) (type : Nat) : Bool :=
  let f := fieldLE h
  f 0 4 == 0x4B524341 && f 4 1 == type && f 5 1 == 1 && decide (f 6 1 ≤ 1) && f 7 1 == 0 && decide (f 16 4 ≤ 3) && f 20 4 == 0 &&
    decide (1 ≤ f 24 8) && decide (f 24 8 ≤ 33550336) && zeroAt h 1889 31 && zeroAt h 3200 896

/-- The verdict on an image by its header (R483): 0 accepted, 4 BAD_IMAGE, 5 ROLLBACK, as 15 Table 15.2 numbers them. `crypto`
says that the root key digest, the signature and the payload digest verify. -/
def CtrRec.judge (r : CtrRec) (h : List Byte) (type : Nat) (crypto : Bool) : Nat :=
  if !headerOk h type || !crypto || decide (fieldLE h 16 4 < r.keyGen) then 4
  else if fieldLE h 12 4 < r.svn type then 5
  else 0

/-- An image as a flash slot holds it, once judged. -/
def FlashImg.of (h : List Byte) (type : Nat) (crypto : Bool) : FlashImg :=
  { good := headerOk h type && crypto, version := fieldLE h 8 4, svn := fieldLE h 12 4, keyGen := fieldLE h 16 4
    advance := bit (fieldLE h 6 1) 0, digest := fieldLE h 32 64 }

/-- A slot of an image type. -/
def Secure.slot (k : Secure) (type slot : Nat) : FlashImg := tabGet FlashImg.fresh k.img (2 * type + slot)

/-- A slot's image is accepted (R483). -/
def Secure.accepts (k : Secure) (type slot : Nat) : Bool :=
  let i := k.slot type slot
  i.good && decide (k.rec_.keyGen ≤ i.keyGen) && decide (k.rec_.svn type ≤ i.svn)

/-- The slot that runs at a start: the active one, else the other (R481). -/
def Secure.runs (k : Secure) (type : Nat) : Option Nat :=
  let a := tabGet 0 k.active type
  if k.accepts type a then some a else if k.accepts type (1 - a) then some (1 - a) else none

end Sys2Proof.Machine
end

