-- ==== Sys2Proof/Machine/Firmware.lean ====
section
/-!
DEFINITION. The dispatch complex (15): the driver's calls, the scheduling of work items on tiles, switches, deadlines and
periods, heartbeats, and the firmware processors' watchdogs.
-/

namespace Sys2Proof.Machine

/-! The firmware processors (15 R390, R415 to R419) -/

/-- The processors in service. -/
def Chip.inService (c : Chip) : List Nat := [0, 1, 2, 3].filter (fun k => (c.fpAt k).service)

/-- Some processor runs. -/
def Chip.fwRuns (c : Chip) : Bool := c.fw.running && !c.inService.isEmpty

/-- The first processor in service from a given one on, modulo 4 (R417). -/
def Chip.nextFp (c : Chip) (k : Nat) : Option Nat := ((List.range 4).map (fun i => (k + i) % 4)).find? (fun q => (c.fpAt q).service)

/-- The rings of each processor that is out of service, when the one that served them is out too, go to the next in service. -/
def Chip.rehome (c : Chip) : Chip :=
  [0, 1, 2, 3].foldl (fun (d : Chip) q =>
    if (d.fpAt (d.fpAt q).server).service then d else d.setFp q { d.fpAt q with server := (d.nextFp q).getD q }) c

/-- Every processor that is not held failed starts from the protected copy and serves its own rings (R394, R397). -/
def Chip.startFps (c : Chip) : Chip :=
  ([0, 1, 2, 3].foldl (fun (d : Chip) q =>
    d.setFp q { d.fpAt q with service := !(d.fpAt q).failed, server := if (d.fpAt q).failed then (d.fpAt q).server else q }) c).rehome

/-- WATCHDOG_EXPIRY (R415 to R419): the processor is held in reset; the third expiry within one second leaves it there. The next
processor in service takes over its rings and sends its journalled operations again, with the identifiers they had. -/
def Chip.doWatchdogExpiry (c : Chip) (k : Nat) : Chip :=
  let p := c.fpAt k
  if !c.fw.running || !p.service then c
  else
    let now := c.dispatch
    let es := p.expiries.filter (fun x => decide (now < x + 1000000000)) ++ [now]
    let failed := decide (3 ≤ es.length)
    let d := ((c.setFp k { p with service := false, failed := failed, expiries := es }).logEv .fpReset srcDispatch [k]).setGevent 6
    let d := (if failed then d.logEv .fpFailed srcDispatch [k] else d).rehome
    if (d.nextFp k).isNone then d
    else ((d.fw.journal.filter (fun a => a.fp == k)).foldl (fun (e : Chip) a => e.fwSoOp a.fp a.ident a.so a.value a.isSet) d).unlatch

/-- FP_REJOIN (R419): the processor has reloaded from the protected copy; its rings are handed back. -/
def Chip.doFpRejoin (c : Chip) (k : Nat) : Chip :=
  let p := c.fpAt k
  if c.fw.running && !p.service && !p.failed then ((c.setFp k { p with service := true, server := k }).rehome).unlatch else c

/-! The driver's calls (15 R393 to R397, R414, Table 15.1) -/

/-- A call decided: its code and result (Table 15.2). -/
def Chip.callEnd (c : Chip) (code result : Nat) : Chip :=
  c.modFw (fun f => { f with mbox := { f.mbox with last := code, result := result } })

/-- The code of a call written while RESULT is BUSY: ignored and logged with REASON 7; which core wrote it, the command does not say, and a
free value stands for it (R393, 21 R521). -/
def Chip.callIgnored (c : Chip) (code : Nat) : Chip :=
  (c.cfgReport 0xF00000100000 code 0 7 0 8 (srcCore (c.freeVal % 64))).took 1

/-- A call that is decided in one step, unless another is in progress (R393). -/
def Chip.call (c : Chip) (code : Nat) (f : Chip → Chip) : Chip := if c.fw.mbox.result = 1 then c.callIgnored code else f c

/-- The bytes of the image that the arguments name: its header and payload. -/
def Chip.imageLen (c : Chip) : Nat := 4096 + c.mem.readLE (c.fw.mbox.arg0 + 24) 8

/-- The verdict on the image and the place for its protected copy (R394, 19 R483): 0 OK, 4 BAD_IMAGE, 5 ROLLBACK. -/
def Chip.imageVerdict (c : Chip) (k : Secure) (crypto : Bool) : Nat :=
  let m := c.fw.mbox
  if m.arg1 < 4096 ∨ !c.mem.backedN m.arg0 m.arg1 ∨ m.arg1 < c.imageLen ∨ c.mem.poisonedN m.arg0 c.imageLen then 4
  else if m.arg2 % 0x200000 ≠ 0 ∨ inHbm m.arg2 ∨ !c.mem.backedN m.arg2 0x2000000 then 4
  else k.rec_.judge (c.mem.readN m.arg0 4096) 3 crypto

/-- The image copied to the protected copy, and the processors started from it (R394). -/
def Chip.install (c : Chip) : Chip :=
  let m := c.fw.mbox
  let bs := c.mem.readN m.arg0 c.imageLen
  (((c.meet (rangeLines m.arg0 c.imageLen) false).storeHint m.arg2 bs false 0).modFw (fun f =>
    { f with running := true, version := fieldLE bs 8 4, digest := fieldLE bs 32 64, pcopy := some m.arg2 })).startFps

/-- An accepted image with ADVANCE raises its counter (19 R486). -/
def Chip.raiseFor (c : Chip) (k : Secure) : Secure :=
  let h := c.mem.readN c.fw.mbox.arg0 32
  if bit (fieldLE h 6 1) 0 then k.raise 3 (fieldLE h 12 4) (fieldLE h 16 4) else k

/-- The registrations that came before firmware ran are decided in order (20 R511). -/
def Chip.answerAsks (c : Chip) : Chip :=
  c.cm.asks.foldl (fun (d : Chip) p => d.regBegin p.1 p.2) (c.modCm (fun m => { m with asks := [] }))

/-- LOAD (R394). `crypto` says that the image's root key digest, signature and payload digest verify. -/
def Chip.secLoad (c : Chip) (k : Secure) (crypto : Bool) : Chip × Secure :=
  if c.fw.running then (c.callEnd 1 3, k)
  else match c.imageVerdict k crypto with
    | 0 => ((c.install.answerAsks.unlatch).callEnd 1 0, c.raiseFor k)
    | r => (c.callEnd 1 r, k)

/-- A context holds live work (R396). -/
def Chip.liveWork (c : Chip) : Bool :=
  c.cm.descs.any (fun d => d.st == .started) || c.fw.work.any (fun w => w.phys != 200 || w.preempted) ||
    c.bucket.any (fun p => p.2.st != .free) || !c.ledge.cmds.isEmpty ||
    c.fab.conn.any (fun p => !p.2.tx.msgs.isEmpty || !p.2.tx.tx.isEmpty || !p.2.tx.reads.isEmpty) ||
    c.roce.qp.any (fun p => !p.2.wqes.isEmpty)

/-- Some context other than CTX0 exists. -/
def Chip.anyCtx (c : Chip) : Bool := c.ctx.any (fun p => p.1 != 0 && p.2.st != .free)

/-- The image's header can be read and names another major version (R396). -/
def Chip.otherMajor (c : Chip) : Bool :=
  let a := c.fw.mbox.arg0
  c.mem.backedN a 64 && !c.mem.poisonedN a 64 && decide (c.mem.readLE (a + 8) 4 / 2 ^ 24 ≠ c.fw.version / 2 ^ 24)

/-- UPDATE (R396, R397): between jobs, the running firmware is replaced; everything that dispatch SRAM holds stays. -/
def Chip.secUpdate (c : Chip) (k : Secure) (crypto : Bool) : Chip × Secure :=
  if !c.fw.running then (c.callEnd 4 2, k)
  else if c.liveWork ∨ (c.anyCtx ∧ c.otherMajor) then (c.callEnd 4 7, k)
  else match c.imageVerdict k crypto with
    | 0 => (c.install.unlatch.callEnd 4 0, c.raiseFor k)
    | r => (c.callEnd 4 r, k)

/-- The majors of a driver's and a firmware's version agree and the firmware's minor is at least the driver's (R395). -/
def versionsFit (driver firmware : Nat) : Bool :=
  bits driver 31 24 == bits firmware 31 24 && decide (bits driver 23 16 ≤ bits firmware 23 16)

/-- ATTACH (R395). -/
def Chip.doAttach (c : Chip) : Chip :=
  c.call 2 (fun c =>
    if !c.fw.running then c.callEnd 2 2
    else (c.modFw (fun f => { f with mbox := { f.mbox with arg0 := f.version } })).callEnd 2
      (if versionsFit c.fw.mbox.arg0 c.fw.version then 0 else 6))

/-- HANDOVER (R414): CM0 departs, its contexts run on without limit, and its heartbeat is no longer read. -/
def Chip.doHandover (c : Chip) : Chip :=
  c.call 3 (fun c =>
    if !c.fw.running then c.callEnd 3 2
    else if (c.cmAt 0).st ≠ .active then c.callEnd 3 8
    else (c.lose 0 .handover).callEnd 3 0)

/-- QUERY (Table 15.1). -/
def Chip.doQuery (c : Chip) : Chip :=
  c.call 5 (fun c =>
    if !c.fw.running then c.callEnd 5 2
    else
      let set := fun (p : Fp → Bool) => [0, 1, 2, 3].foldl (fun acc k => if p (c.fpAt k) then acc + 2 ^ k else acc) 0
      (c.modFw (fun f => { f with mbox :=
        { f.mbox with arg0 := f.version, arg1 := set (·.service) + 16 * set (·.failed), arg2 := 16384 - c.cm.used } })).callEnd 5 0)

/-- MAILBOX_BAD_CALL (21 R521): a code that Table 15.1 does not list. -/
def Chip.doMailboxBadCall (c : Chip) (code : BitVec 8) : Chip :=
  if 1 ≤ code.toNat ∧ code.toNat ≤ 5 then c else c.call code.toNat (fun c => c.callEnd code.toNat 9)

/-! Starting work items (15 R405 to R407, 03 R66) -/

/-- The resident context of a physical tile; 64 for none (R402). -/
def Chip.residentOf (c : Chip) (t : Nat) : Nat := tabGet 64 c.tmap.resident t

/-- The resident context of a tile set. -/
def Chip.setResident (c : Chip) (t k : Nat) : Chip := c.modTmap (fun m => { m with resident := tabSet m.resident t k })

/-- A tile in SERVICE on which no work item stands. -/
def Chip.freeTile (c : Chip) (t : Nat) : Bool :=
  let v := c.tileAt t
  v.st == .service && v.powered && !v.gated && !c.fw.work.any (fun w => w.phys == t) &&
    (match v.item with | .none => true | .ended _ => true | .saved => true | _ => false)

/-- A fault of the save area or image block while firmware uses it: logged against the context; the affected item completes with
TILE_EXCEPTION (R399). -/
def Chip.ctxFaulted (c : Chip) (ctx : Nat) (f : VFault) : Chip := c.logEv .ctxFault srcDispatch [ctx, f.detail]

/-- The status of a work item that such a fault ends. -/
def faultStatus (f : VFault) : Nat := 0x42 + f.kind.code

/-- A work item that does not run ends, and its tile is free. -/
def Chip.workGone (c : Chip) (key status detail : Nat) : Chip :=
  let d := (c.modFw (fun f => { f with work := f.work.filter (fun w => w.key != key) })).finish key status detail
  match c.workOf key with
  | some w => if w.phys = 200 then d else d.groupApply w.phys
  | none => d

/-- The state of a tile at the entry of a work item (03 R66, 04 R119, 05 R133, R137, 06 R148): registers zero but X1 to X3, the
accumulator, array and vector state registers at their reset values, memory as it stands. The record of the last exception
(03 Table 3.3) stays. -/
def Tile.enter (v : Tile) (key ctx entry args j gen : Nat) : Tile :=
  { v with
    x := tabSet (tabSet (tabSet [] 1 args) 2 j) 3 gen, pc := entry, ctx := ctx, item := .running, work := key, blocked := none
    pend := none, preAsk := false, mover := [], held := [], cancelFrom := none, arr := Arr.fresh, sent := false
    vec := { Vec.fresh with v := v.vec.v, m := v.vec.m, ft := v.vec.ft }
    acc := { Acc.fresh with col := v.acc.col, poison := v.acc.poison, count := v.acc.count } }

/-- The image of a RUN in the first bytes of a tile's instruction memory, or the status with which it cannot be read (R405). -/
def Chip.loadImage (c : Chip) (w : Work) : Except (Nat × Nat) Chip :=
  if w.image = 0 then .ok c
  else
    let s := c.spanLines (moverTlbs w.phys) w.ctx w.image w.imageLen false
    let d := c.used (moverTlbs w.phys) srcDispatch s
    match s.fault with
    | some f => .error (f.kind.code, f.detail)
    | none =>
      let g := c.mem.gather s
      match g.2 with
      | some a => .error (0x05, a)
      | none => .ok (d.setTile w.phys { d.tileAt w.phys with imem := (d.tileAt w.phys).imem.writeN 0 g.1 })

/-- A work item begins on its tile: the image is loaded, the function tables are brought up to date, and the tile enters it. -/
def Chip.beginItem (c : Chip) (w : Work) : Chip :=
  match c.loadImage w with
  | .error (status, detail) => c.workGone w.key status detail
  | .ok d =>
    match d.ftLoad w.phys w.ctx false with
    | .error f => (d.ctxFaulted w.ctx f).workGone w.key (faultStatus f) f.detail
    | .ok e => (e.modFw (fun f => if w.image = 0 then f else { f with images := tabSet f.images (w.ctx * 192 + w.tile) (w.image, w.imageLen) })).setTile w.phys ((e.tileAt w.phys).enter w.key w.ctx w.entry w.args w.tile w.gen)

/-- A ready RUN takes a free tile (R405): at once when its context is resident and nothing saved is in the way, otherwise by a
switch. -/
def Chip.startOn (c : Chip) (w : Work) (t : Nat) : Chip :=
  let j := (c.logicalOf t).getD 0
  let sw := w.preempted || w.restart || (c.tileAt t).item == .saved || c.residentOf t != w.ctx
  let x := { w with phys := t, tile := j, gen := c.genOf j, begun := c.dispatch, switching := sw }
  let d := c.setWork x
  let d := match d.descAt w.key with | some e => d.setDesc { e with st := .started } | none => d
  if sw then d else d.beginItem x

/-- The free tile that a RUN may use (R405). -/
def Chip.tileFor (c : Chip) (w : Work) : Option Nat :=
  if w.tile ≠ 0xFFFF then (if c.freeTile (c.physOf w.tile) then some (c.physOf w.tile) else none)
  else
    let ts := ((List.range 192).map c.physOf).filter (fun t => t != 200 && c.freeTile t)
    match ts.find? (fun t => c.residentOf t == w.ctx) with
    | some t => some t
    | none => match ts.find? (fun t => c.residentOf t == 64) with
      | some t => some t
      | none => ts.head?

/-- The items that a RUN may displace, those of lower priority on a tile it may use, the best victim last (R407). -/
def Chip.victims (c : Chip) (w : Work) : List Work :=
  let ok := c.fw.work.filter (fun x => x.phys != 200 && !x.switching && x.drop.isNone && decide (w.prio < x.prio) &&
    (w.tile == 0xFFFF || c.physOf w.tile == x.phys))
  ok.foldl (fun acc x =>
    match acc.getLast? with
    | some y => if y.prio < x.prio ∨ (y.prio = x.prio ∧ y.begun ≤ x.begun) then acc ++ [x] else x :: acc
    | none => [x]) []

/-- A work item put into a list behind those that firmware serves before it. -/
def insWork (w : Work) : List Work → List Work
  | [] => [w]
  | x :: r => if x.prio < w.prio ∨ (x.prio = w.prio ∧ x.at_ ≤ w.at_) then x :: insWork w r else w :: x :: r

/-- The RUNs that are ready, or saved and waiting to resume, in the order in which firmware serves them: priority, then time of
consumption (R406, R407). -/
def Chip.readyWork (c : Chip) : List Work :=
  (c.fw.work.filter (fun w => w.phys == 200 && w.drop.isNone && (c.ctxAt w.ctx).st == .active)).foldl (fun l w => insWork w l) []

/-- A RUN names a tile that is ABSENT, or another generation of it (03 R63). -/
def Chip.staleRun (c : Chip) (w : Work) : Bool := w.tile != 0xFFFF && (c.physOf w.tile == 200 || w.gen != c.genOf w.tile)

/-- The first RUN of the list for which something can be done: it completes with STALE, takes a free tile, or has a victim stopped;
a victim already being saved is left to the RUN that claims it. -/
def Chip.schedule (c : Chip) : List Nat → List Work → Chip
  | _, [] => c
  | claimed, w :: rest =>
    if c.staleRun w then c.workGone w.key 0x10 (c.genOf w.tile)
    else match c.tileFor w with
      | some t => if w.preempted || w.restart || c.cm.free then c.startOn w t else c.schedule claimed rest
      | none =>
        let vs := c.victims w
        match vs.find? (fun x => (c.tileAt x.phys).item == .saving && !claimed.contains x.phys) with
        | some x => c.schedule (x.phys :: claimed) rest
        | none =>
          match (vs.filter (fun x => (c.tileAt x.phys).item == .running)).getLast? with
          | some x => c.haltTile x.phys
          | none => c.schedule claimed rest

/-- RUN_START (R406, R407, R392). -/
def Chip.doRunStart (c : Chip) : Chip := if c.fwRuns then c.schedule [] c.readyWork else c

/-! Switches, pre-emption and resumption (15 R402, R407, 04 R112 to R114, 07 R198) -/

/-- The switch-out of a tile's resident context into its slot; what a pre-emption has already written is not written again. -/
def Chip.switchOut (c : Chip) (t j : Nat) (w : Work) : Chip :=
  let old := c.residentOf t
  let v := c.tileAt t
  if old = 64 ∨ (w.preempted ∧ old = w.ctx) then c
  else
    let slot := c.slotOf old j
    let ws := v.memImages slot ++ (if v.item = .saved then [] else v.endImages slot)
    match c.saveAll t old (c.ctxAt old).hint ws with
    | .ok d => d.setCtx old { d.ctxAt old with saved := tabSet (d.ctxAt old).saved j (d.genOf j) }
    | .error f =>
      let d := c.ctxFaulted old f
      (d.fw.work.filter (fun x => x.preempted && x.ctx == old && x.tile == j && x.key != w.key)).foldl (fun (e : Chip) x =>
        e.workGone x.key (faultStatus f) f.detail) d

/-- The switch-in: the slot restored when the context saved this generation of the tile, otherwise zeros; then the function
tables. -/
def Chip.switchIn (c : Chip) (t j : Nat) (w : Work) : Except VFault Chip :=
  let has := w.preempted || (!w.restart && tabFind (c.ctxAt w.ctx).saved j == some (c.genOf j))
  match (if has then c.restore t w.ctx (c.slotOf w.ctx j) else .ok (c.setTile t (c.tileAt t).wipe)) with
  | .ok d => d.ftLoad t w.ctx true
  | .error f => .error f

/-- SWITCH_COMPLETE (R402): the tile changes its resident context; the item that waits for it begins, waits to resume, or ends when it
was dropped meanwhile (R411). -/
def Chip.doSwitchComplete (c : Chip) (t : Nat) : Chip :=
  match c.fw.work.find? (fun w => w.phys == t && w.switching && (c.tileAt t).st == .service) with
  | none => c
  | some w =>
    let j := (c.logicalOf t).getD 0
    let out := c.switchOut t j w
    match out.switchIn t j w with
    | .error f =>
      (((out.setTile t (out.tileAt t).wipe).setResident t 64).ctxFaulted w.ctx f).workGone w.key (faultStatus f) f.detail
    | .ok d =>
      let x := { w with switching := false, restart := false }
      let e := (d.setResident t w.ctx).setWork x
      match w.drop with
      | some (status, detail) => e.workGone w.key status detail
      | none =>
        if w.preempted then e.setTile t { e.tileAt t with item := .saved, work := w.key, ctx := w.ctx }
        else e.beginItem x

/-- ARRAY_STOPPED (04 R112 steps 5 and 6, 06 R176, 07 R198): a dropped item ends without images (R411); a pre-empted one is written to
its slot and leaves the tile. -/
def Chip.doArrayStopped (c : Chip) (t : Nat) : Chip :=
  let v := c.tileAt t
  match c.workOf v.work with
  | none => c
  | some w =>
    if v.item ≠ .saving ∨ v.paused ∨ w.phys ≠ t ∨ !v.drained then c
    else match w.drop with
      | some (status, detail) => (c.setTile t { v with item := .ended status, arr := Arr.fresh }).workEnded t status detail
      | none =>
        let j := (c.logicalOf t).getD 0
        match c.saveAll t w.ctx (c.ctxAt w.ctx).hint (v.stopImages (c.slotOf w.ctx j)) with
        | .error f =>
          ((c.ctxFaulted w.ctx f).setTile t { v with item := .ended (faultStatus f), arr := Arr.fresh }).workEnded t (faultStatus f) f.detail
        | .ok d => (d.setTile t { d.tileAt t with item := .saved }).setWork { w with preempted := true, phys := 200, sent := v.sent }

/-- TILE_RESUME (04 R114, 07 R198): the controller, the active plane and the array queue of a pre-empted item are restored, and it runs
again; a re-issued entry that no longer passes its checks raises its exception. -/
def Chip.doTileResume (c : Chip) (t : Nat) : Chip :=
  match c.fw.work.find? (fun w => w.phys == t && w.preempted && !w.switching) with
  | none => c
  | some w =>
    let v := c.tileAt t
    let slot := c.slotOf w.ctx ((c.logicalOf t).getD 0)
    if v.item ≠ .saved ∨ v.work ≠ w.key then c
    else match c.loadRange t w.ctx (slot + 0x610000) 512 with
      | .error f =>
        ((c.ctxFaulted w.ctx f).setTile t { v with item := .ended (faultStatus f) }).workEnded t (faultStatus f) f.detail
      | .ok (d, b, _) =>
        let r := (b.drop 256).take 160
        let u := { d.tileAt t with
          pc := fieldLE b 0 8, item := .running, sent := w.sent
          x := ((List.range 31).map (fun i => (i + 1, fieldLE b (8 * i + 8) 8))).filter (fun p => p.2 != 0) }
        let e := (d.setTile t u).setWork { w with preempted := false }
        match u.reloadActive r with
        | .error (cause, tval) => e.takeExc t cause tval
        | .ok u1 => match u1.reissueAll r with
          | .error (cause, tval) => e.takeExc t cause tval
          | .ok u2 => e.setTile t u2

/-! Deadlines and periods (15 R409 to R411) -/

/-- DEADLINE_EXPIRY (R409): the RUN of a ring with the earliest deadline has not completed by it and is dropped. -/
def Chip.doDeadlineExpiry (c : Chip) (r : Nat) : Chip :=
  let marked := fun (d : Desc) => match c.workOf d.key with | some w => w.drop.isSome | none => false
  let ds := c.cm.descs.filter (fun d => d.sq == r && d.op == 0x10 && d.deadline.isSome && !marked d)
  let due := ds.foldl (fun acc d => earlier acc d.deadline) none
  if !c.fwRuns then c
  else match ds.find? (fun d => d.deadline == due), due with
  | some d, some x => (c.passTo srcDispatch x).dropDesc d.key 0x11 x
  | _, _ => c

/-- A descriptor whose period ends (R410, R411): it is dropped. What an engine has started for it ends by itself without a further
record; CTX_DESTROY and RING_UNBIND run to their end, and slots not yet consumed are waited for (assumption 31). -/
def Chip.periodDrop (c : Chip) (d : Desc) (due : Nat) : Chip :=
  if d.more ≠ 0 then c
  else if d.st ≠ .started ∨ d.op = 0x10 then c.dropDesc d.key 0x11 due
  else if d.op = 0x12 then (c.soWithdraw (.fw d.key)).finish d.key 0x11 due
  else if d.op = 0x02 ∨ d.op = 0x41 then c
  else c.finish d.key 0x11 due

/-- The present period of a ring ends at a dispatch count, and the next begins with nothing carried over. -/
def Chip.endPeriod (c : Chip) (r due : Nat) : Chip :=
  let d := (c.cm.descs.filter (fun x => x.sq == r)).foldl (fun (e : Chip) x => e.periodDrop x due) c
  (d.setSq r { d.sqAt r with perSince := due, perUsed := 0 }).pump r

/-- PERIOD_END (R410). -/
def Chip.doPeriodEnd (c : Chip) (r : Nat) : Chip :=
  let p := c.sqPeriod r
  if p = 0 ∨ !c.fwRuns then c
  else
    let due := (c.sqAt r).perSince + 1000 * p
    (c.passTo srcDispatch due).endPeriod r due

/-! Heartbeats and function-table images (15 R401, R412) -/

/-- HEARTBEAT_READ (R412, R413): ReadOnce for CM0, RdCurr otherwise. -/
def Chip.doHeartbeatRead (c : Chip) (k : Nat) : Chip :=
  let e := c.cmAt k
  if e.st ≠ .active ∨ e.hbAddr = 0 ∨ !c.fwRuns then c
  else if k = 0 then
    (if !c.mem.backedN e.hbAddr 8 then (c.logUnbacked srcDispatch e.hbAddr).heartbeat 0 none
     else
       let g := c.fetchN e.hbAddr 8
       g.1.heartbeat 0 (if g.2.2 then none else some (leVal g.2.1)))
  else if c.cxl.out.any (fun x => x.use == .heartbeat k) then c
  else c.cxlAsk k e.hbAddr none (.heartbeat k)

/-- A table whose generation differs is rebuilt in the back bank of a tile, and its flip is requested; one table at a time. -/
def Chip.ftRebuild (c : Chip) (t ctx valid : Nat) (gens : List Nat) : Except VFault Chip :=
  let v := c.tileAt t
  if [0, 1, 2, 3].any (fun k => (v.vec.table k).asked) then .ok c
  else match [0, 1, 2, 3].find? (fun k => (v.vec.table k).gen != ftGen gens valid k) with
    | none => .ok c
    | some k =>
      match c.ftImage ctx valid k with
      | .error f => .error f
      | .ok (d, m) =>
        let f := (d.tileAt t).vec.table k
        let g := if (d.tileAt t).vec.readsBack k then { f with held := [(0, m.readN 0 4128)], closed := true, asked := true }
          else { f with back := m, closed := true, asked := true }
        .ok (d.setTile t ((d.tileAt t).setTable k g))

/-- The tiles that serve a context. -/
def Chip.tilesOf (c : Chip) (ctx : Nat) : List Nat :=
  (c.tmap.resident.filter (fun p => p.2 == ctx && (c.tileAt p.1).st == .service && (c.tileAt p.1).powered)).map (·.1)

/-- A fault of the image block ends the items that run on the tiles given (R399). -/
def Chip.ftFaulted (c : Chip) (ctx : Nat) (f : VFault) (ts : List Nat) : Chip :=
  ts.foldl (fun (d : Chip) t => if (d.tileAt t).item = .running then d.takeExc t (2 + f.kind.code) f.detail else d) (c.ctxFaulted ctx f)

/-- FTIMG_POLL (R401). -/
def Chip.doFtimgPoll (c : Chip) (k : Nat) : Chip :=
  if !c.fwRuns ∨ k = 0 ∨ (c.ctxAt k).st = .free ∨ (c.tilesOf k).isEmpty then c
  else match c.ftHeader k with
    | .error f => c.ftFaulted k f (c.tilesOf k)
    | .ok (d, gens, valid) =>
      (c.tilesOf k).foldl (fun (e : Chip) t =>
        match e.ftRebuild t k valid gens with
        | .ok x => x
        | .error f => e.ftFaulted k f [t]) d

end Sys2Proof.Machine
end

