-- ==== Sys2Proof/Machine/Manager.lean ====
section
/-!
DEFINITION. CX0 as the host port of its domain (16 R420 to R422): workers' requests, domain slots, upstream CXL.io.
-/

namespace Sys2Proof.Machine

/-- The commander window (R421, 21 R531): CXH_BASE up to CXH_LIMIT, not included. -/
def Chip.inWindow (c : Chip) (pa : Nat) : Bool :=
  decide (c.rf 0xB00008 51 21 * 0x200000 ≤ pa) && decide (pa < c.rf 0xB00010 51 21 * 0x200000)

/-- A request outside the window: an error response, and CXH_REFUSED at most once per device in each 1 ms (R421). -/
def Chip.cxhRefuse (c : Chip) (slot pa : Nat) : Chip :=
  (c.logWin .cxhRefused [slot] srcDispatch msDispatch srcRoot [slot, pa]).answer [1]

/-- A worker's request carried into the home when the window admits it (R421). -/
def Chip.cxhCarry (c : Chip) (slot pa : Nat) (f : Chip → Nat → Chip) : Chip :=
  let a := pa / 64 * 64
  if !c.boot.manager then c else if c.inWindow a then f c a else c.cxhRefuse slot a

/-- RDCURR (Table 16.1): ReadOnce. The answer is 0, the line's poison and its bytes; 1 for an error response. -/
def Chip.doRdcurr (c : Chip) (slot : Nat) (addr : BitVec 52) : Chip :=
  c.cxhCarry slot addr.toNat (fun d a =>
    if d.mem.backedN a 64 then
      let g := d.fetchN a 64
      g.1.answer (0 :: b2n g.2.2 :: g.2.1.map (·.toNat))
    else (d.logUnbacked srcRoot a).answer [1])

/-- The bytes of a line that byte enables select. -/
def enabled (be : BitVec 64) (data : BitVec 512) : List (Nat × Byte) :=
  ((leBytes 64 data.toNat).zipIdx.map (fun p => (p.2, p.1))).filter (fun p => be.getLsbD p.1)

/-- A worker's write of a line (R421, without hint): refused where no write is carried out. -/
def Chip.cxhWrite (c : Chip) (slot : Nat) (addr : BitVec 52) (ps : List (Nat × Byte)) : Chip :=
  c.cxhCarry slot addr.toNat (fun d a =>
    if d.writable a 64 then ((d.meet [a / 64] false).modMem (fun m => m.maskWrite (a / 64) ps false none)).answer [0]
    else (d.logRefused srcRoot a 64).answer [1])

/-- ITOMWR (Table 16.1): WriteFull. -/
def Chip.doItomwr (c : Chip) (slot : Nat) (addr : BitVec 52) (data : BitVec 512) : Chip :=
  c.cxhWrite slot addr (enabled (BitVec.allOnes 64) data)

/-- WOWRINV (Table 16.1): WritePartial with the request's byte enables. -/
def Chip.doWowrinv (c : Chip) (slot : Nat) (addr : BitVec 52) (be : BitVec 64) (data : BitVec 512) : Chip :=
  c.cxhWrite slot addr (enabled be data)

/-- DOMAIN_SLOT_ASSIGN (R422): the device takes the slot of its SLOT_ID strap, unless that is 0 or taken. -/
def Chip.doDomainSlotAssign (c : Chip) (strap : BitVec 8) (reqid : BitVec 16) : Chip :=
  let n := strap.toNat % 32
  if !c.boot.manager then c
  else if n = 0 ∨ (tabFind c.cxl.slots n).isSome then c.logEv .domainSlotBad srcRoot [strap.toNat, reqid.toNat]
  else c.modCxl (fun x => { x with slots := tabSet x.slots n { strap := strap.toNat, reqid := reqid.toNat } })

/-- UPSTREAM_CXLIO (R422): a memory write into the interrupt files is delivered; every other request is unsupported. The answer is 0,
or 1 for Unsupported Request. -/
def Chip.doUpstreamCxlio (c : Chip) (write : Bool) (addr : BitVec 64) (v : BitVec 32) : Chip :=
  let o := addr.toNat - 0xFD0000000000
  if !c.boot.manager then c
  else if write ∧ 0xFD0000000000 ≤ addr.toNat ∧ o < 64 * 0x8000 then
    (if o % 0x1000 = 0 ∧ o % 0x8000 / 0x1000 < 7 then c.msi (o / 0x8000) (o % 0x8000 / 0x1000) v.toNat else c).answer [0]
  else c.answer [1]

end Sys2Proof.Machine
end

