-- ==== Sys2Proof/Machine/Setup.lean ====
section
/-!
DEFINITION. Setup registers (20 R509, R510, 21 R513 to R517): their fields, how a write is judged field by field, and what they read
as.
-/

namespace Sys2Proof.Machine

/-! Fields -/

/-- How a field is judged (20 Table 20.8). -/
inductive FldKind where
  /-- Numeric, from a minimum to a maximum. -/
  | num (lo hi : Nat)
  /-- Numeric in steps. -/
  | step (lo hi by_ : Nat)
  /-- Enumerated. -/
  | codes (l : List Nat)
  /-- A virtual address. -/
  | va
  /-- Write only. -/
  | wo
  /-- Read only. -/
  | ro
  /-- Reserved. -/
  | rsvd
deriving DecidableEq, Repr

/-- A field: its highest and lowest bit, and its kind. -/
structure Fld where
  hi : Nat
  lo : Nat
  kind : FldKind
deriving DecidableEq, Repr

/-- A field that takes every value of its width. -/
def fAny (hi lo : Nat) : Fld := { hi := hi, lo := lo, kind := .num 0 (2 ^ (hi + 1 - lo) - 1) }
/-- A numeric field. -/
def fNum (hi lo a b : Nat) : Fld := { hi := hi, lo := lo, kind := .num a b }
/-- A reserved field. -/
def fRsv (hi lo : Nat) : Fld := { hi := hi, lo := lo, kind := .rsvd }
/-- A read-only field. -/
def fRo (hi lo : Nat) : Fld := { hi := hi, lo := lo, kind := .ro }
/-- A write-only field. -/
def fWo (hi lo : Nat) : Fld := { hi := hi, lo := lo, kind := .wo }
/-- A virtual-address field. -/
def fVa (hi lo : Nat) : Fld := { hi := hi, lo := lo, kind := .va }

/-- Fields of the global block, the mailbox and the report log (21 Tables 21.2, 21.4, 21.6). -/
def globalFlds (off : Nat) : List Fld :=
  if off = 0x0 then [fRsv 63 32, fRo 31 16, fRo 15 8, fRsv 7 0]
  else if off = 0x8 then [fRo 63 0]
  else if off = 0x10 then [fRsv 63 16, fRo 15 15, fRo 14 14, fRo 13 6, fRo 5 0]
  else if off = 0x18 then [fRsv 63 16, fRo 15 12, fRo 11 11, fRo 10 10, fRsv 9 0]
  else if off = 0x20 then [fRsv 63 10]
  else if off = 0x28 then [fRsv 63 10, fAny 9 0]
  else if off = 0x30 then [fRsv 63 17, fAny 16 11, fAny 10 0]
  else if 0x100 ≤ off ∧ off < 0x150 then [fRsv 63 32, fRo 31 0]
  else if 0x200 ≤ off ∧ off < 0x280 then [fRo 63 0]
  else if off = 0x100000 then [fRsv 63 8, fWo 7 0]
  else if off = 0x100008 then [fRsv 63 16, fRo 15 8, fRo 7 0]
  else if off = 0x100010 ∨ off = 0x100018 ∨ off = 0x100020 then [fAny 63 0]
  else if off = 0x200008 then [fRsv 63 48, fRo 47 32, fRsv 31 8, fRo 7 0]
  else if off = 0x200010 then [fRo 63 0]
  else if off = 0x300000 then [fRsv 63 32, fRo 31 0]
  else if 0x310000 ≤ off ∧ off < 0x320000 then [fRo 63 0]
  else [fRsv 63 0]

/-- Fields of the power block (21 Table 21.7). -/
def powerFlds (off : Nat) : List Fld :=
  if off = 0x400000 then [fRsv 63 16, { hi := 15, lo := 0, kind := .step 1000 3000 5 }]
  else if off = 0x400008 then [fRsv 63 12, { hi := 11, lo := 0, kind := .step 800 3000 100 }]
  else if off = 0x400010 then
    [fRsv 63 63, fRo 62 56, fRsv 55 50, fRo 49 48, fRsv 47 44, fRo 43 32, fRsv 31 28, fRo 27 16, fRsv 15 12, fRo 11 0]
  else if off = 0x400018 then [fRsv 63 32, fRo 31 0]
  else if 0x400020 ≤ off ∧ off < 0x400060 then [fRo 63 0]
  else if off = 0x400060 then
    fRsv 63 40 :: (List.range 20).map (fun i => { hi := 39 - 2 * i, lo := 38 - 2 * i, kind := .codes [0, 1, 2] })
  else if off = 0x400068 then [fAny 63 0]
  else if off = 0x400070 then [fRsv 63 13, fAny 12 12, fAny 11 0]
  else if off = 0x400078 then [fRsv 63 32, fAny 31 0]
  else if off = 0x400080 then [fRsv 63 34, fRo 33 32, fRo 31 16, fRo 15 0]
  else if off = 0x400088 then [fRsv 63 17, fWo 16 16, fWo 15 0]
  else [fRsv 63 0]

/-- Fields of telemetry and event log (21 Table 21.8). The range of LOG_HEAD depends on the log. -/
def teleFlds (off : Nat) : List Fld :=
  if off = 0x500000 ∨ off = 0x500018 then [fRsv 63 42, fAny 41 12, fRsv 11 0]
  else if off = 0x500008 then [fAny 63 63, fRsv 62 26, fNum 25 16 1 1000, fRsv 15 5, fNum 4 0 10 20]
  else if off = 0x500020 then [fAny 63 63, fRsv 62 5, fNum 4 0 8 16]
  else if off = 0x500010 ∨ off = 0x500028 ∨ off = 0x500038 then [fRsv 63 32, fRo 31 0]
  else if off = 0x500030 then [fRsv 63 32, fAny 31 0]
  else [fRsv 63 0]

/-- Fields of pairing, snapshots, checkpoint and repair (21 Table 21.9) and of paired capture (Table 21.10). -/
def resilFlds (off : Nat) : List Fld :=
  if off = 0x600000 then
    [fRsv 63 59, fRo 58 58, fRo 57 56, fRsv 55 51, fAny 50 48, fAny 47 40, fRsv 39 38, fAny 37 32, fNum 31 16 0 16383, fNum 15 8 1 63,
     fRsv 7 1, fAny 0 0]
  else if off = 0x600008 then
    [fRsv 63 48, fNum 47 32 0 16383, fRsv 31 23, fNum 22 16 0 64, fNum 15 8 1 63, fRsv 7 7, fNum 6 4 0 6, fRsv 3 2,
     { hi := 1, lo := 0, kind := .codes [0, 1, 2] }]
  else if off = 0x600010 then [fNum 63 32 10 86400, fNum 31 0 10 86400]
  else if off = 0x600018 then [fNum 63 32 1 600000, fNum 31 0 1 3600]
  else if off = 0x600020 then [fVa 63 4, fRsv 3 0]
  else if off = 0x600028 then [fVa 63 5, fRsv 4 0]
  else if off = 0x600030 then [fRsv 63 34, fWo 33 33, fWo 32 32, fWo 31 0]
  else if off = 0x600038 then [fRo 63 32, fRsv 31 19, fRo 18 18, fRo 17 17, fRo 16 16, fRo 15 0]
  else if off = 0x600040 then [fRsv 63 20, fRo 19 16, fRo 15 14, fRo 13 12, fRo 11 10, fRo 9 8, fRsv 7 3, fRo 2 0]
  else if off = 0x600048 then [fRo 63 32, fRo 31 0]
  else if off = 0x600050 then [fVa 63 3, fRsv 2 0]
  else if off = 0x600058 then [fRsv 63 8, fNum 7 0 0 199]
  else if off = 0x700000 ∨ off = 0x700008 then [fAny 63 48, fAny 47 32, fAny 31 16, fAny 15 0]
  else if off = 0x700010 then [fRsv 63 52, fAny 51 4, fRsv 3 0]
  else if off = 0x700018 then [fRsv 63 20, fNum 19 16 1 8, fWo 15 0]
  else [fRsv 63 0]

/-- Fields of the tile map, memory channels and fabric (21 Tables 21.11 to 21.13). -/
def mapFlds (off : Nat) : List Fld :=
  if 0x800000 ≤ off ∧ off < 0x800640 then
    [fRo 63 32, fRsv 31 24, fRo 23 16, fRo 15 15, fRo 14 14, fRo 13 13, fRo 12 12, fRsv 11 10, fRo 9 8, fRsv 7 2, fRo 1 0]
  else if 0x800800 ≤ off ∧ off < 0x800820 then [fRsv 63 16, fRo 15 8, fRo 7 7, fRsv 6 6, fRo 5 0]
  else if 0x900000 ≤ off ∧ off < 0x900C80 then [fRsv 63 15, fNum 14 8 1 72, fRsv 7 4, fNum 3 0 1 15]
  else if 0x901000 ≤ off ∧ off < 0x901C80 then [fRsv 63 32, fRo 31 0]
  else if off = 0xA00000 then [fRsv 63 16, fNum 15 0 1024 65535]
  else if off = 0xA00008 then
    [fRsv 63 58, fNum 57 48 1 1000, fRsv 47 42, fNum 41 32 1 1000, fRsv 31 24, fNum 23 20 1 8, fRsv 19 18, fNum 17 0 1500 150000]
  else if off = 0xA00010 then fRsv 63 16 :: (List.range 8).map (fun i => { hi := 15 - 2 * i, lo := 14 - 2 * i, kind := .codes [0, 1, 2] })
  else if 0xA01000 ≤ off ∧ off < 0xA01800 then
    (match off % 0x40 with
     | 0x00 => [fRsv 63 48, fRo 47 0]
     | 0x08 => [fRsv 63 17, fAny 16 16, fAny 15 13, fRsv 12 12, fNum 11 0 1 4094]
     | 0x10 => [fRsv 63 32, fAny 31 0]
     | 0x18 => [fAny 63 0]
     | 0x20 => [fAny 63 0]
     | 0x28 => [fRsv 63 2, fRo 1 1, fRo 0 0]
     | _ => [fRsv 63 0])
  else [fRsv 63 0]

/-- Fields of the CXL port, ring scheduling and stall counters (21 Tables 21.14 to 21.16). -/
def portFlds (off : Nat) : List Fld :=
  if off = 0xB00000 then [fRsv 63 24, fRo 23 16, fRsv 15 13, fRo 12 8, fRsv 7 2, fRo 1 1, fRo 0 0]
  else if off = 0xB00008 ∨ off = 0xB00010 then [fRsv 63 52, fAny 51 21, fRsv 20 0]
  else if 0xB00108 ≤ off ∧ off < 0xB00200 then [fRsv 63 32, fRo 31 16, fRsv 15 9, fRo 8 8, fRo 7 0]
  else if 0xC00000 ≤ off ∧ off < 0xC02000 then
    [fRsv 63 40, fNum 39 32 1 255, fAny 31 0]
  else if 0xD00000 ≤ off ∧ off < 0xD0C800 then (if off % 0x100 < 0x88 then [fRo 63 0] else [fRsv 63 0])
  else if (0xD10000 ≤ off ∧ off < 0xD10028) ∨ off = 0xD10040 ∨ (0xD11000 ≤ off ∧ off < 0xD11D00) ∨ (0xD20000 ≤ off ∧ off < 0xD60000) then
    [fRo 63 0]
  else [fRsv 63 0]

/-- The fields of the register at an offset of the setup region, highest first; where no register lies, all is reserved. -/
def regFlds (off : Nat) : List Fld :=
  if off < 0x400000 then globalFlds off
  else if off < 0x500000 then powerFlds off
  else if off < 0x600000 then teleFlds off
  else if off < 0x800000 then resilFlds off
  else if off < 0xB00000 then mapFlds off
  else portFlds off

/-! Reading -/

/-- The fields given with their bits put together. -/
def pack (l : List (Nat × Nat)) : Nat := l.foldl (fun acc p => acc + p.2 * 2 ^ p.1) 0

/-- The self-test report (20 Table 20.5). -/
def Report.bytes (r : Report) : List Byte :=
  leBytes 1 r.outcome ++ leBytes 1 r.phase ++ leBytes 2 r.code ++ leBytes 4 r.detail ++ leBytes 8 r.counter ++ leBytes 2 r.straps ++
    leBytes 2 r.ddrRate ++ leBytes 4 r.goodTiles ++ leBytes 2 r.hbmOk ++ leBytes 2 r.ddrOk ++ leBytes 2 r.linkOk ++ leBytes 1 r.fpOk ++
    leBytes 1 r.portsOk ++ leBytes 2 r.ledgeFenced ++ leBytes 1 r.coresFailed ++ leBytes 1 r.images ++ leBytes 8 r.deviceId ++ zeros 20

/-- An entry of the configuration report log (20 Table 20.9). -/
def CfgEntry.bytes (e : CfgEntry) : List Byte :=
  leBytes 8 e.address ++ leBytes 8 e.written ++ leBytes 8 e.applied ++ leBytes 8 e.counter ++ leBytes 2 0x2004 ++ leBytes 1 e.restarts ++
    leBytes 1 e.reason ++ leBytes 1 e.lsb ++ leBytes 1 e.width ++ zeros 2 ++ leBytes 4 e.seq ++ leBytes 4 e.writer ++ zeros 16

/-- The logical indices of a die that have no physical tile. -/
def Chip.absent (c : Chip) (die : Nat) : Nat := ((List.range 48).filter (fun i => c.physOf (48 * die + i) == 200)).length

/-- The spares of a die that a fence may use (17 R447, 18 R462): in MAINTENANCE, not failed, in an ACTIVE group, in ascending order. -/
def Chip.sparesOf (c : Chip) (die : Nat) : List Nat :=
  ((List.range 50).map (fun p => 50 * die + p)).filter (fun t =>
    let v := c.tileAt t
    v.spare && v.st == .maintenance && !v.failed && v.powered && !v.gated && (c.logicalOf t).isNone)

/-- The straps and the applied role (21 Table 21.2). -/
def Chip.strapWord (c : Chip) : Nat :=
  pack [(0, c.boot.feedId), (6, c.boot.slotId), (14, b2n c.boot.roleStrap), (15, b2n c.boot.manager)]

/-- Bit k of each number below 4 for which `p` holds. -/
def nibble (p : Nat → Bool) : Nat := pack ([0, 1, 2, 3].map (fun k => (k, b2n (p k))))

/-- Registers of the global block, mailbox, registration set and report log. -/
def Chip.globalRead (c : Chip) (off : Nat) : Nat :=
  if off = 0x0 then pack [(16, 0x0960), (8, 0xB0)]
  else if off = 0x8 then c.boot.report.deviceId
  else if off = 0x10 then c.strapWord
  else if off = 0x18 then
    pack [(12, nibble (fun k => if c.fw.running then (c.fpAt k).service else !(c.fpAt k).failed)), (11, b2n c.fw.running),
          (10, b2n (c.boot.report.outcome == 1 || [0, 1, 2, 3].any (fun n => c.absent n != 0)))]
  else if off = 0x20 then c.log.gevent
  else if off = 0x28 then c.log.geventEn
  else if off = 0x30 then pack [(11, c.log.gintCore), (0, c.log.gintId)]
  else if 0x100 ≤ off ∧ off < 0x150 then tabGet 0 c.log.gevcnt ((off - 0x100) / 8)
  else if 0x200 ≤ off ∧ off < 0x240 then fieldLE c.boot.report.bytes (off - 0x200) 8
  else if 0x240 ≤ off ∧ off < 0x280 then fieldLE c.boot.prev.bytes (off - 0x240) 8
  else if off = 0x100008 then pack [(8, c.fw.mbox.last), (0, c.fw.mbox.result)]
  else if off = 0x100010 then c.fw.mbox.arg0
  else if off = 0x100018 then c.fw.mbox.arg1
  else if off = 0x100020 then c.fw.mbox.arg2
  else if 0x200000 ≤ off ∧ off < 0x200018 then c.regSetRead 0 (off - 0x200000)
  else if off = 0x300000 then c.log.cfgNext
  else if 0x310000 ≤ off ∧ off < 0x320000 then
    (match c.log.cfg.find? (fun e => e.seq % 1024 == (off - 0x310000) / 64) with
     | some e => fieldLE e.bytes (off % 64) 8
     | none => 0)
  else 0

/-- Seconds since a power count, all ones when there is none (21 Table 21.9). -/
def Chip.ageSec (c : Chip) (from_ : Option Nat) : Nat :=
  match from_ with
  | some x => min ((c.count srcPower - x) / secPower) (2 ^ 32 - 1)
  | none => 2 ^ 32 - 1

/-- Registers of power, telemetry, event log and resilience that hold state of their own. -/
def Chip.powerRead (c : Chip) (off : Nat) : Nat :=
  let p := c.pow
  let r := c.res
  if off = 0x400010 then pack [(56, p.now.pause), (48, p.state), (32, p.now.core), (16, p.now.ledge), (0, p.now.tile)]
  else if off = 0x400018 then p.pkg
  else if 0x400020 ≤ off ∧ off < 0x400060 then p.energy.getD ((off - 0x400020) / 8) 0
  else if off = 0x400080 then pack [(32, p.capAnswer), (16, p.capId), (0, p.capW)]
  else if off = 0x500010 then p.teleSeq
  else if off = 0x500018 then c.log.logBase
  else if off = 0x500020 then pack [(63, b2n c.log.logEn), (0, c.log.logLog2)]
  else if off = 0x500028 then c.log.tail
  else if off = 0x500030 then c.log.head
  else if off = 0x500038 then c.log.lost
  else if off = 0x600000 then c.rw off + pack [(58, b2n r.stale), (56, r.pair)]
  else if off = 0x600038 then
    pack [(32, r.lastId), (18, b2n r.ckpt), (17, b2n (match r.snap with | some s => !s.holds.isEmpty | none => false)),
          (16, b2n (match r.snap with | some s => s.out | none => false)), (0, r.epoch)]
  else if off = 0x600040 then
    pack [(16, r.points.getD 4 0), (14, r.points.getD 3 0), (12, r.points.getD 2 0), (10, r.points.getD 1 0), (8, r.points.getD 0 0),
          (0, r.risk)]
  else if off = 0x600048 then pack [(32, c.ageSec r.storeFrom), (0, c.ageSec r.flashFrom)]
  else c.rw off

/-- The code of a tile's state (21 Table 21.11). -/
def TileSt.code : TileSt → Nat
  | .service => 0
  | .maintenance => 1
  | .parked => 2
  | .fenced => 3

/-- Registers of the tile map, channels and fabric that hold state of their own. -/
def Chip.mapRead (c : Chip) (off : Nat) : Nat :=
  if 0x800000 ≤ off ∧ off < 0x800640 then
    let t := (off - 0x800000) / 8
    let v := c.tileAt t
    pack [(32, c.tileGen t), (16, match c.logicalOf t with | some j => j % 48 | none => 0xFF), (15, b2n v.listed), (14, b2n v.mvpFenced),
          (13, b2n v.failed), (12, b2n (v.spare && (c.logicalOf t).isNone)), (8, v.st.code), (0, min v.fences 3)]
  else if 0x800800 ≤ off ∧ off < 0x800820 then
    let n := (off - 0x800800) / 8
    pack [(8, ((List.range 50).filter (fun p => (c.tileAt (50 * n + p)).spare && !(c.tileAt (50 * n + p)).failed &&
            (c.tileAt (50 * n + p)).st != .fenced && (c.logicalOf (50 * n + p)).isNone)).length),
          (7, b2n (c.absent n != 0)), (0, 48 - c.absent n)]
  else if 0x901000 ≤ off ∧ off < 0x901C80 then (c.chanAt ((off - 0x901000) / 8)).ce
  else if 0xA01000 ≤ off ∧ off < 0xA01800 ∧ off % 0x40 = 0 then c.portReg ((off - 0xA01000) / 0x40) 0
  else if 0xA01000 ≤ off ∧ off < 0xA01800 ∧ off % 0x40 = 0x28 then
    let sub := (off - 0xA01000) / 0x40
    pack [(1, b2n (!c.portUsed sub)), (0, b2n (c.portAt sub).up)]
  else c.rw off

/-- A stall counter lies at an offset of the setup region (21 Table 21.16). -/
def stallReg (off : Nat) : Bool := off % 8 == 0 && decide (0xD00000 ≤ off) && decide (off < 0xD60000) && portFlds off == [fRo 63 0]

/-- Registers of the CXL port and stall counters. Of the stall counters the model keeps ARRAY_HOLD; the others are free values. -/
def Chip.portRead (c : Chip) (off : Nat) : Nat :=
  if off = 0xB00000 then pack [(16, c.cxl.rate), (8, c.cxl.width), (1, b2n c.boot.manager), (0, b2n c.cxl.l0)]
  else if 0xB00108 ≤ off ∧ off < 0xB00200 then
    (match tabFind c.cxl.slots ((off - 0xB00100) / 8) with
     | some d => pack [(16, d.reqid), (8, 1), (0, d.strap)]
     | none => 0)
  else if stallReg off then
    (if off < 0xD0C800 ∧ off % 0x100 = 0x28 then (c.tileAt ((off - 0xD00000) / 0x100)).hold else Config.freeValue c.free % 2 ^ 64)
  else c.rw off

/-- What the register at an offset reads as; write-only fields read as zero (R516). -/
def Chip.regRead (c : Chip) (off : Nat) : Nat :=
  if off < 0x400000 then c.globalRead off
  else if off < 0x800000 then c.powerRead off
  else if off < 0xB00000 then c.mapRead off
  else c.portRead off

/-! Judging a write (20 R509, 21 R514, R517) -/

/-- A field of a write judged on its own: the value applied and the reason it differs from the value written. -/
def FldKind.judge (k : FldKind) (lo old new : Nat) : Nat × Option Nat :=
  match k with
  | .num a b => if new < a then (a, some 1) else if b < new then (b, some 2) else (new, none)
  | .step a b n => if new < a then (a, some 1) else if b < new then (b, some 2) else if new % n ≠ 0 then (new - new % n, some 3) else (new, none)
  | .codes l => if l.contains new then (new, none) else (old, some 4)
  | .va => if canonicalVa (new * 2 ^ lo) then (new, none) else (old, some 4)
  | .wo => (new, none)
  | .ro => if new = old then (old, none) else (old, some 5)
  | .rsvd => if new = 0 then (0, none) else (0, some 6)

/-- A judged write: the value of the whole register as applied, and the fields not applied as written. -/
structure Judged where
  value : Nat
  logs : List (Nat × Nat × Nat)
deriving DecidableEq, Repr

/-- The fields that an access covers: all, or those of one half. -/
def covered (half : Option Bool) (f : Fld) : Bool :=
  match half with
  | none => true
  | some false => decide (f.lo < 32)
  | some true => decide (32 ≤ f.hi)

/-- A field wider than 32 bits that a 4-byte access covers in part (R514). -/
def splits (half : Option Bool) (f : Fld) : Bool := half.isSome && covered half f && decide (32 < f.hi + 1 - f.lo) && f.kind != .rsvd

/-- A write judged: `lock` answers, for a field and the value judged for it, the value and reason that a state or another rule of the
register imposes. -/
def judgeWrite (flds : List Fld) (cur new : Nat) (half : Option Bool) (lock : Fld → Nat → Option (Nat × Nat)) : Judged :=
  (flds.filter (covered half)).foldl (fun (j : Judged) f =>
    let old := bits cur f.hi f.lo
    let r := f.kind.judge f.lo old (bits new f.hi f.lo)
    let r := match lock f r.1 with | some (x, why) => (x, some why) | none => r
    { value := putBits j.value f.lo (f.hi + 1 - f.lo) r.1
      logs := match r.2 with | some why => j.logs ++ [(why, f.lo, f.hi + 1 - f.lo)] | none => j.logs }) { value := cur, logs := [] }

/-- The base of the setup region (21 R513). -/
def setupBase : Nat := 0xF00000000000

/-- The address and the value of a write as the report log records them. -/
def accShown (a : SetupAcc) (off : Nat) : Nat × Nat :=
  match a.half with
  | none => (setupBase + off, a.value.toNat)
  | some false => (setupBase + off, a.value.toNat % 2 ^ 32)
  | some true => (setupBase + off + 4, a.value.toNat % 2 ^ 32)

/-- Entries for the fields of a write that were not applied as written, with the register as it reads after the write. -/
def Chip.report (c : Chip) (off : Nat) (a : SetupAcc) (logs : List (Nat × Nat × Nat)) : Chip :=
  let applied := c.regRead off
  logs.foldl (fun (d : Chip) l => d.cfgReport (accShown a off).1 (accShown a off).2 applied l.1 l.2.1 l.2.2 a.writer.toNat) c

/-- The bits of the writable fields of a register: what the bank holds of it. -/
def bankPart (flds : List Fld) (x : Nat) : Nat :=
  flds.foldl (fun acc f => match f.kind with
    | .ro => acc
    | .rsvd => acc
    | .wo => acc
    | _ => putBits acc f.lo (f.hi + 1 - f.lo) (bits x f.hi f.lo)) 0

/-- Who reaches the setup region (R515): host cores and firmware processors, by SRCID class; the management controller writes only by
FAC_CAP_REQ. -/
def reachesSetup (writer : Nat) : Bool := writer / 4096 == 4 || writer / 4096 == 7

/-- A write of a register: judged, its value given to `apply`, and the fields that differ reported; an access that splits a wide field
changes nothing. -/
def Chip.regStore (c : Chip) (off : Nat) (a : SetupAcc) (lock : Fld → Nat → Option (Nat × Nat)) (apply : Chip → Nat → Chip) : Chip :=
  let flds := regFlds off
  let cur := c.regRead off % 2 ^ 64
  if !reachesSetup a.writer.toNat then c
  else match flds.find? (splits a.half) with
  | some f => c.report off a [(8, f.lo, f.hi + 1 - f.lo)]
  | none =>
    let j := judgeWrite flds cur (accValue cur a) a.half lock
    (apply c j.value).report off a j.logs

/-- No field is locked. -/
def noLock : Fld → Nat → Option (Nat × Nat) := fun _ _ => none

/-- A value put into the bank. -/
def toBank (off : Nat) : Chip → Nat → Chip := fun c x => c.setReg off (bankPart (regFlds off) x)

end Sys2Proof.Machine
end

