-- ==== Sys2Proof/Machine/Resilience.lean ====
section
/-!
DEFINITION. Fencing and repair of tiles, partner pairing, the health monitor, snapshots and checkpoint comparison (17).
-/

namespace Sys2Proof.Machine

/-! Fencing a tile (R444 to R449) -/

/-- A tile that sends nothing further; TCAUSE, TVAL, AFAULT and SENT stay as its fence record (R444). -/
def Tile.fenced (v : Tile) : Tile :=
  { v with
    st := .fenced, item := .none, work := 0, blocked := none, pend := none, mover := [], held := [], cancelFrom := none
    vec := { v.vec with q := [] }, arr := { v.arr with q := [], stopped := true }, spare := false, listed := true
    fences := min 3 (v.fences + 1) }

/-- The instruction image with which an item restarts: that of its RUN, or the latest one of its context on the same logical index
(R446). -/
def Chip.imageOf (c : Chip) (w : Work) (j : Nat) : Option (Nat × Nat) :=
  if w.image ≠ 0 then some (w.image, w.imageLen) else tabFind c.fw.images (w.ctx * 192 + j)

/-- The place to which a fenced logical index has moved: the spare with its new generation, or nowhere. -/
def Chip.refit (c : Chip) (t j : Nat) (spare : Option Nat) (sent : Bool) (w : Work) : Chip :=
  match w.drop with
  | some (status, detail) => c.workGone w.key status detail
  | none =>
    if spare.isNone && w.named then c.workGone w.key 0x10 (c.genOf j)
    else match (if sent then none else c.imageOf w j) with
      | none =>
        (c.modFw (fun f => { f with work := f.work.filter (fun x => x.key != w.key) })).finishSrc w.key 0x50 (c.tileAt t).tval (srcTile t)
      | some (a, n) =>
        let x := { w with image := a, imageLen := n, preempted := false, restart := true, switching := false, sent := false }
        match spare with
        | some sp =>
          if w.phys = t then c.setWork { x with phys := sp, tile := j, gen := c.genOf j, switching := true }
          else c.setWork { x with phys := 200, tile := j, gen := c.genOf j }
        | none => c.setWork { x with phys := 200, tile := 0xFFFF, gen := 0 }

/-- A tile fenced (R445 steps 1 to 3, R447 to R449): it is entered on the fence list; its logical index moves to the lowest-numbered
spare of its die with the generation raised, or becomes ABSENT; and the items bound to it restart, complete, or wait. -/
def Chip.fence (c : Chip) (k : Secure) (t : Nat) : Chip × Secure :=
  let v := c.tileAt t
  let ws : List Work := match c.logicalOf t with
    | some j => c.fw.work.filter (fun w => w.phys == t || (w.preempted && w.phys == 200 && w.tile == j))
    | none => []
  let c1 := ((c.setTile t v.fenced).soWithdraw (.tile t)).modTmap (fun m => { m with resident := tabDel m.resident t })
  let k1 := { k with fenceList := setIns k.fenceList t }
  match c.logicalOf t with
  | none => (c1, k1)
  | some j =>
    let sp := (c1.sparesOf (t / 50)).head?
    let c2 := match sp with
      | some s =>
        (c1.modTmap (fun m => { m with phys := tabSet m.phys j s, gen := tabSet m.gen j ((c.genOf j + 1) % 2 ^ 32) })).setTile s
          { c1.tileAt s with spare := false }
      | none =>
        let d := c1.modTmap (fun m => { m with phys := tabSet m.phys j 200 })
        (d.logEv .dieDegraded srcDispatch [t / 50, 48 - d.absent (t / 50)]).setGevent 5
    let c3 := ws.foldl (fun (d : Chip) w => d.refit t j sp (if w.phys = t ∧ !w.preempted ∧ !w.switching then v.sent else w.sent) w) c2
    (c3, { k1 with map := tabSet k1.map j (sp.getD 200) })

/-- TILE_HW_FAULT (R444, 03 R69, R547): the fault is taken, unless the tile has taken one, and the tile is fenced. -/
def Chip.secTileHwFault (c0 : Chip) (k : Secure) (t : Nat) (unit : BitVec 8) : Chip × Secure :=
  let c := c0.endNow t
  let v := c.tileAt t
  let tv := match v.pend with | some (cause, x) => if cause = exHwFault then x else unit.toNat | none => unit.toNat
  let d := if v.item = .ended (0x40 + exHwFault) then c else c.takeExc t exHwFault tv
  if v.st = .fenced then (c, k) else d.fence k t

/-- TILE_ECC_FENCE (R444): the tile corrected more than 64 errors in 1 ms, and firmware fences it. -/
def Chip.secTileEccFence (c : Chip) (k : Secure) (t : Nat) (corrected : BitVec 32) : Chip × Secure :=
  if (c.tileAt t).st = .fenced ∨ corrected.toNat ≤ 64 ∨ !c.fwRuns then (c, k) else (c.endNow t).fence k t

/-- WORK_ITEM_RESTART (R445 steps 4 to 7, R446): a spare that has taken a logical index is up, zero-filled, and in SERVICE; the item
that waits for it restarts at its entry. -/
def Chip.doWorkItemRestart (c : Chip) (t : Nat) : Chip :=
  let v := c.tileAt t
  if v.st ≠ .maintenance ∨ (c.logicalOf t).isNone ∨ c.res.repair = some t ∨ !v.powered then c
  else ((c.setTile t { v.wipe with st := .service, sent := false }).modTmap (fun m => { m with resident := tabDel m.resident t })).doSwitchComplete t

/-! Repair (R450, 21 R526) -/

/-- A tile that TILE_REPAIR may name now. -/
def Chip.repairable (c : Chip) (t : Nat) : Bool := (c.tileAt t).st == .fenced && c.res.repair.isNone

/-- TILE_REPAIR (R450, 21 R526): the tile goes to MAINTENANCE and its BIST starts. -/
def Chip.doTileRepair (c : Chip) (a : SetupAcc) : Chip :=
  let t := min 199 (a.value.toNat % 256)
  c.regStore 0x600058 a (fun f _ => if f.lo = 0 ∧ !c.repairable t then some (0, 7) else none) (fun d _ =>
    if a.half = some true ∨ !c.repairable t then d
    else (d.setTile t { d.tileAt t with st := .maintenance }).modRes (fun r => { r with repair := some t }))

/-- REPAIR_DONE (R450): a tile that passes takes the lowest ABSENT index of its die, or becomes a spare; one that fails, or was fenced
three times, stays FENCED. A matrix-vector path that has faulted stays fenced for later work items (04 R109, R117;
DEDUCED, assumption 101). -/
def Chip.secRepairDone (c : Chip) (k : Secure) (pass : Bool) : Chip × Secure :=
  match c.res.repair with
  | none => (c, k)
  | some t =>
    let d := c.modRes (fun r => { r with repair := none })
    let v := d.tileAt t
    if pass ∧ v.fences < 3 then
      let k1 := { k with fenceList := k.fenceList.filter (· != t) }
      match ((List.range 48).map (fun i => t / 50 * 48 + i)).find? (fun j => d.physOf j == 200) with
      | some j =>
        let u := { v.wipe with st := .service, listed := false, spare := false, failed := false }
        let e := (d.setTile t u).modTmap (fun m => { m with phys := tabSet m.phys j t, gen := tabSet m.gen j ((d.genOf j + 1) % 2 ^ 32) })
        ((e.logEv .tileRepaired srcDispatch [t]).groupApply t, { k1 with map := tabSet k1.map j t })
      | none =>
        let u := { v.wipe with st := .maintenance, listed := false, spare := true, failed := false }
        (((d.setTile t u).logEv .tileRepaired srcDispatch [t]).groupApply t, k1)
    else ((d.setTile t { v with st := .fenced }).logEv .repairFailed srcDispatch [t], k)

/-! Pairing (R451, R452) -/

/-- The pairing register with its fields applied: PAIR_VALID = 1 pairs when PAIR_CONN is OPEN and owned by PAIR_CTX, at the values that
the same access applies; 0 unpairs. -/
def Chip.pairStore (c : Chip) (a : SetupAcc) : Chip :=
  let flds := regFlds 0x600000
  let j := judgeWrite flds (c.regRead 0x600000 % 2 ^ 64) (accValue (c.regRead 0x600000 % 2 ^ 64) a) a.half noLock
  let conn := c.connAt (bits j.value 31 16)
  let ok := conn.st == .open_ && conn.ctx == bits j.value 15 8
  let writes := a.half != some true
  c.regStore 0x600000 a (fun f x => if f.lo = 0 ∧ x = 1 ∧ !ok then some (c.rf 0x600000 0 0, 7) else none) (fun d v =>
    let e := toBank 0x600000 d v
    if !writes then e
    else if bit j.value 0 then
      (if !ok then e
       else
         let same := bits v 37 32 == c.boot.feedId
         let g := (e.modRes (fun r => { r with pair := if same then 2 else 1 })).setStale
         if same then g.logEv .correlatedFeed srcPower [c.boot.feedId] else g)
    else e.modRes (fun r => { r with pair := 0 }))

/-- The value of PAIR_VALID that a write of the pairing register carries. -/
def pairBit (a : SetupAcc) : Bool := a.half != some true && bit a.value.toNat 0

/-- PAIR (R452): a write of PAIR_VALID = 1. -/
def Chip.doPair (c : Chip) (a : SetupAcc) : Chip := if pairBit a then c.pairStore a else c

/-- UNPAIR (R451, R452): a write that leaves PAIR_VALID at 0 or does not cover it. -/
def Chip.doUnpair (c : Chip) (a : SetupAcc) : Chip := if pairBit a then c else c.pairStore a

/-! The health monitor (R454) -/

/-- The points of Table 17.3: corrected errors, temperature, droops, flash age, partner. -/
def Chip.riskPoints (c : Chip) (now ce temp : Nat) : List Nat :=
  let r := c.res
  let t := c.rf 0x600010 31 0 * secPower
  let pce := if ce < 1000 then 0 else if ce < 100000 then 1 else 2
  let ptemp := if temp ≤ 85 then 0 else if temp < 95 then 1 else 2
  let dr := r.droopAt.length
  let pdroop := if dr = 0 then 0 else if dr < 16 then 1 else 2
  let page := match r.flashFrom with
    | none => 3
    | some x => let a := now - x; if 2 * a < t then 0 else if a < t then 1 else if a < 2 * t then 2 else 3
  [pce, ptemp, pdroop, page, 2 * b2n r.stale + (if r.pair = 2 then c.rf 0x600000 50 48 else 0)]

/-- HEALTH_EVAL (R454, R456): the evaluation at the next 10 ms of the power controller counter. `other` counts the corrected errors of
caches and tile memory in the last 60 s, `temp` is the temperature in °C of the hottest HBM stack. -/
def Chip.doHealthEval (c : Chip) (other temp : Nat) : Chip :=
  let now := (c.count srcPower / 1000000 + 1) * 1000000
  let c0 := c.passTo srcPower now
  let c1 := c0.modRes (fun r =>
    { r with ceAt := r.ceAt.filter (fun x => decide (now < x + 60 * secPower)), droopAt := r.droopAt.filter (fun x => decide (now < x + secPower)) })
  let ps := c1.riskPoints now (c1.res.ceAt.length + other) temp
  let risk := min 7 ps.sum
  let c2 := c1.modRes (fun r => { r with risk := risk, points := ps })
  let c3 := if risk = c.res.risk then c2 else (c2.logEv .riskChanged srcPower (risk :: ps)).setGevent 2
  let c4 := c3.snapTry
  if c4.snapMay now ∧ c4.rf 0x600008 6 4 < risk then c4.snapDue 1 else c4

/-! Snapshots (R456, R457) -/

/-- SNAP_INTERVAL_DUE (R456): in mode 2, SNAP_INTERVAL has passed since the last due. -/
def Chip.doSnapIntervalDue (c : Chip) : Chip :=
  if c.rf 0x600008 1 0 ≠ 2 then c
  else
    let due := c.res.lastDue.getD 0 + c.rf 0x600010 63 32 * secPower
    let d := c.passTo srcPower due
    if d.snapMay (d.count srcPower) then d.snapDue 2 else c

/-- SNAP_HOLD_RETRY (R456 step 2): 1 ms after mismatched holds were released, the device begins again. -/
def Chip.doSnapHoldRetry (c : Chip) : Chip :=
  match c.res.snap with
  | some s => if s.phase = 1 then ((c.passTo srcDispatch s.retryAt).setSnap { s with phase := 0 }).snapTry else c
  | none => c

/-- SNAP_DONE (R457): the answer for the latest SNAP_ID releases every hold; with a layer named, the snapshot is no longer outstanding
and the layer's age runs from its COUNTER. Any other identifier is ignored and reported. -/
def Chip.doSnapDone (c : Chip) (a : SetupAcc) : Chip :=
  let v := accValue 0 a
  let mine := match c.res.snap with | some s => s.id == v % 2 ^ 32 && s.phase != 0 && s.phase != 1 | none => false
  c.regStore 0x600030 a (fun f _ => if f.lo = 0 ∧ !mine then some (0, 7) else none) (fun d _ =>
    match d.res.snap with
    | none => d
    | some s =>
      if !mine then d
      else
        let e := if s.phase = 2 then (d.dropHolds s).releaseAll else d
        let x := { s with holds := [], phase := 3, out := s.out && !bit v 32 && !bit v 33 }
        (e.setSnap x).modRes (fun r =>
          { r with
            flashFrom := if bit v 32 then some s.counter else r.flashFrom
            storeFrom := if bit v 33 then some s.counter else r.storeFrom }))

/-- SNAP_HOLD_EXPIRED (R457): SNAP_HOLD_MAX has passed since the record without an answer; the snapshot stays outstanding. -/
def Chip.doSnapHoldExpired (c : Chip) : Chip :=
  match c.res.snap with
  | some s =>
    if s.phase = 2 then
      ((c.passTo srcPower (s.recordAt + c.rf 0x600018 63 32 * 100000)).dropHolds s).releaseAll.logEv .snapHoldExpired srcPower [s.id]
    else c
  | none => c

/-- SNAP_ABANDONED (R457): SNAP_TARGET has passed since the due, and no layer was reached. -/
def Chip.doSnapAbandoned (c : Chip) : Chip :=
  match c.res.snap with
  | some s =>
    if s.out then
      ((c.passTo srcPower (s.due + c.rf 0x600010 31 0 * secPower)).setSnap { s with out := false }).logEv .snapAbandoned srcPower [s.id]
    else c
  | none => c

/-! Checkpoints (R460) -/

/-- CKPT_ADDR (R460, 21 R526): the address of the checkpoint block, and the comparison starts; ignored while one runs. -/
def Chip.doCkptAddr (c : Chip) (a : SetupAcc) : Chip :=
  let old := c.rf 0x600050 63 3
  let good := a.half.isNone && canonicalVa (a.value.toNat / 8 * 8)
  c.regStore 0x600050 a (fun f _ => if f.lo = 3 ∧ c.res.ckpt then some (old, 7) else none) (fun d v =>
    if c.res.ckpt ∨ !good then d else (toBank 0x600050 d v).modRes (fun r => { r with ckpt := true }))

/-- One snapshot entry compared with its expected version: TORN is set, and SHARD_STALE logged, when counts or epochs differ. -/
def Chip.ckptEntry (c : Chip) (e va want : Nat) (sameEpoch : Bool) : Chip :=
  match c.versionAt [] c.snapCtx va with
  | .ok (pa, v, _) =>
    if sameEpoch ∧ v % 2 ^ 62 = want % 2 ^ 62 then c.meet (rangeLines pa 8) false
    else (c.storeHint pa (leBytes 8 (v ||| 2 ^ 62)) false 0).logEv .shardStale srcDispatch [e]
  | .error _ => c

/-- CKPT_DONE (R460): every entry has been compared, RUN_EPOCH is the block's epoch, and the event flag is set. -/
def Chip.doCkptDone (c : Chip) : Chip :=
  if !c.res.ckpt then c
  else
    let es := c.snapEntries
    let s := c.spanLines [] c.snapCtx (c.rf 0x600050 63 3 * 8) (8 + 8 * es.length) false
    let d := c.modRes (fun r => { r with ckpt := false })
    match s.fault with
    | some _ => (d.used [] srcDispatch s).setGevent 9
    | none =>
      let b := (c.mem.gather s).1
      let epoch := fieldLE b 0 2
      let e := es.zipIdx.foldl (fun (x : Chip) p =>
        match p.1 with
        | some (va, _) => x.ckptEntry p.2 va (fieldLE b (8 + 8 * p.2) 8) (decide (epoch = c.res.epoch))
        | none => x) d
      (e.modRes (fun r => { r with epoch := epoch })).setGevent 9

end Sys2Proof.Machine
end

