-- ==== Sys2Proof/Machine/Power.lean ====
section
/-!
DEFINITION. Power states, the envelope controller, energy, facility cap requests and telemetry (18).
-/

namespace Sys2Proof.Machine

/-! Commanded states (R461 to R464, 21 R524) -/

/-- ENVELOPE_W (R465): the register; the envelope itself changes at the next control-period boundary. -/
def Chip.doEnvelopeW (c : Chip) (a : SetupAcc) : Chip := c.regStore 0x400000 a noLock (toBank 0x400000)

/-- Every tile takes the state of its group at its next work-item boundary. -/
def Chip.groupsApply (c : Chip) : Chip := (List.range 200).foldl (fun (d : Chip) t => d.groupApply t) c

/-- TILE_GROUP (R461, R462). -/
def Chip.doTileGroup (c : Chip) (a : SetupAcc) : Chip := c.regStore 0x400060 a noLock (fun d v => (toBank 0x400060 d v).groupsApply)

/-- A core's L2 written back and emptied (09 R235). -/
def Mem.emptyCache (m : Mem) (h : Nat) : Mem :=
  m.dir.foldl (fun (d : Mem) p => if p.2.owner = some h then ((d.driftLine p.1).flush p.1).leave p.1 h else d.leave p.1 h) m

/-- A host core put into OFF, or out of it into its reset at the boot vector (Table 18.1, R463): its interrupt files hold nothing
while it has no power. -/
def Chip.corePower (c : Chip) (k : Nat) (off : Bool) : Chip :=
  if off then
    (if c.coreSt k = .off ∨ c.coreSt k = .held then c
     else ((c.modMem (fun m => m.emptyCache k)).modIrq (fun q =>
       { q with core := tabSet q.core k .off, timer := tabDel q.timer k, pending := q.pending.filter (fun p => p.1 / 8 != k) })).islandOff (srcCore k))
  else if c.coreSt k = .off then ((c.setCore k .active).islandOn (srcCore k)).setHart k Hart.fresh
  else c

/-- CORE_OFF (R463). -/
def Chip.doCoreOff (c : Chip) (a : SetupAcc) : Chip :=
  c.regStore 0x400068 a noLock (fun d v => (List.range 64).foldl (fun (e : Chip) k => e.corePower k (bit v k)) (toBank 0x400068 d v))

/-- The self-refresh register: requests held for memory that is back in service go on (R464, 08 R220). -/
def Chip.srStore (c : Chip) (a : SetupAcc) : Chip := c.regStore 0x400070 a noLock (fun d v => (toBank 0x400070 d v).serveAll)

/-- HBM_SR (R461). -/
def Chip.doHbmSr (c : Chip) (a : SetupAcc) : Chip := c.srStore a

/-- DDR_SR (R461). -/
def Chip.doDdrSr (c : Chip) (a : SetupAcc) : Chip := c.srStore a

/-- SUBPORT_DIS (R464): a sub-port that is disabled goes down, logged as PORT_DISABLED. -/
def Chip.doSubportDis (c : Chip) (a : SetupAcc) : Chip :=
  c.regStore 0x400078 a noLock (fun d v =>
    (List.range 32).foldl (fun (e : Chip) s => if bit v s then e.portFails s .portDisabled else e) (toBank 0x400078 d v))

/-! The envelope controller (R465 to R468) -/

/-- The grants one step lower (R466): tile clock, core ceiling, ledge clock, pause, each only once the one before it is at its
limit; `none` at the limit of every actuator. -/
def Grants.lower (g : Grants) (floor : Nat) : Option Grants :=
  if 400 < g.tile then some { g with tile := g.tile - 25 }
  else if floor < g.core then some { g with core := g.core - 100 }
  else if 625 < g.ledge then some { g with ledge := g.ledge - 25 }
  else if g.pause < 90 then some { g with pause := g.pause + 10 }
  else none

/-- The grants lowered by a number of steps, as far as they go. -/
def Grants.lowerBy (g : Grants) (floor : Nat) : Nat → Grants
  | 0 => g
  | n + 1 => match g.lower floor with
    | some x => x.lowerBy floor n
    | none => g

/-- The grants raised in the reverse order: the latest actuator that is below its top, by one step. -/
def Grants.raise (g : Grants) : Grants :=
  if 0 < g.pause then { g with pause := g.pause - 10 }
  else if g.ledge < 1250 then { g with ledge := g.ledge + 25 }
  else if g.core < 3000 then { g with core := min 3000 (g.core + 100) }
  else if g.tile < 1600 then { g with tile := g.tile + 25 }
  else g

/-- The grants with a core ceiling that is no lower than CORE_FLOOR (Table 18.2). -/
def Grants.above (g : Grants) (floor : Nat) : Grants := { g with core := max g.core floor }

/-- The grants put into force: the clocks of every tile and ledge engine island (R466), and of every core, whose supervisor runs it at its
ceiling (R463; DESIGN CHOICE, assumption 88). -/
def Chip.grant (c : Chip) (g : Grants) : Chip :=
  let d := c.modPow (fun p => { p with now := g })
  let e := if g.tile = c.pow.now.tile then d else (List.range 200).foldl (fun (x : Chip) t => x.setClock (srcTile t) g.tile) d
  let k := if g.core = c.pow.now.core then e else (List.range 64).foldl (fun (x : Chip) n => x.setClock (srcCore n) g.core) e
  if g.ledge = c.pow.now.ledge then k else (List.range 208).foldl (fun (x : Chip) n => x.setClock (srcLedge n) g.ledge) k

/-- CONTROL_PERIOD (R465 to R468): the boundary at the next 1 ms. The grants computed over the period that ends come into force,
unless that work is late and dropped, and so does an envelope written in it; `watts` is the measured mean power of that period in
0.1 W (package, TD0 to TD3, HBM, HD, FD), `mj` the energy of each counter. How far a lowering goes is a free value. -/
def Chip.doControlPeriod (c : Chip) (watts mj : List Nat) (late : Bool) : Chip :=
  let t := (c.count srcPower / 100000 + 1) * 100000
  let c0 := c.passTo srcPower t
  let c1 := if late then (c0.modPow (fun p => { p with dropped := p.dropped + 1 })).logEv .envPeriodDropped srcPower []
    else c0.grant c0.pow.next
  let p := c1.pow
  let env := c1.rf 0x400000 15 0
  let floor := c1.rf 0x400008 11 0
  let pkg := watts.headD 0
  let above := decide (10 * env < pkg)
  let stuck := above && (p.now.lower floor).isNone
  let next := if above then p.now.lowerBy floor (1 + c1.freeVal % 156) else if pkg * 100 < env * 950 then p.now.raise else p.now
  let age := if env = p.env then min 2 (p.envAge + 1) else 0
  let w := (List.range 8).map (fun i => watts.getD i 0)
  let c2 := (c1.took 1).modPow (fun q =>
    { q with
      next := next.above floor, env := env, envAge := age, state := if stuck then 2 else if age < 2 then 1 else 0, pkg := pkg, dom := w.drop 1
      energy := (List.range 8).map (fun i => (q.energy.getD i 0 + mj.getD i 0) % 2 ^ 64)
      sum := (List.range 8).map (fun i => q.sum.getD i 0 + w.getD i 0), sums := q.sums + 1 })
  if stuck then
    (let n := c2.winNote .envUnmet [] (t / secPower)
     match n.2 with
     | none => n.1
     | some k => (n.1.emit .envUnmet srcPower [env, pkg] k).setGevent 1)
  else c2

/-! Droops, trips and temperature (R470, R471, 22 R540) -/

/-- The islands whose counters bypass stretching (01 R27). -/
def steady (src : Nat) : Bool := src == srcDispatch || src == srcPower || src == srcMgmt

/-- SUPPLY_DROOP (R470): the islands that the rail supplies stretch their clocks, and the event is counted for the health monitor and
telemetry; no grant changes. -/
def Chip.doSupplyDroop (c : Chip) (rail : Nat) (isl : List (BitVec 16)) : Chip :=
  let l := (isl.map (·.toNat)).filter (fun s => !steady s)
  let d := l.foldl (fun (e : Chip) s =>
    if (e.island s).stretched then e else e.setIsland s { e.island s with base := e.count s, since := e.clk.now, stretched := true }) c
  (d.modPow (fun p => { p with drooping := tabSet p.drooping rail l, droops := p.droops + 1 })).modRes (fun r =>
    { r with droopAt := d.count srcPower :: r.droopAt })

/-- RAIL_RECOVERY (R470): the stretch ends for the islands that no other drooping rail supplies. -/
def Chip.doRailRecovery (c : Chip) (rail : Nat) : Chip :=
  let l := tabGet [] c.pow.drooping rail
  let d := c.modPow (fun p => { p with drooping := tabDel p.drooping rail })
  l.foldl (fun (e : Chip) s =>
    if e.pow.drooping.any (fun p => p.2.contains s) ∨ !(e.island s).stretched then e
    else e.setIsland s { e.island s with base := e.count s, since := e.clk.now, stretched := false }) d

/-- PROTECT_TRIP (R471): a rail beyond its rating, or a die at 115 °C; PKG_TRIP_N is asserted until the next reset. -/
def Chip.doProtectTrip (c : Chip) (rail : Bool) (n : Nat) : Chip :=
  if !c.boot.aon ∨ c.boot.safe ∨ c.boot.en = 0 then c else
  let d := c.fatal .protectTrip srcPower [b2n rail, n, c.count srcPower] 0x12 n
  d.modBoot (fun b => { b with tripOut := true })

/-- THERM_ALERT (22 R540): THERM_ALERT_N is asserted while any die is above 105 °C. -/
def Chip.doThermAlert (c : Chip) (die : Nat) (above : Bool) : Chip :=
  c.modBoot (fun b =>
    let l := if above then setIns b.thermDies die else b.thermDies.filter (· != die)
    { b with thermDies := l, thermAlert := !l.isEmpty })

/-! Facility cap requests (R474, R475) -/

/-- A power in W as ENVELOPE_W is clamped and rounded (R474). -/
def clampW (w : Nat) : Nat := let x := clampN w 1000 3000; x - x % 5

/-- FAC_CAP_REQ (R474): recorded under the next identifier; FAC_CAP_PENDING is set. -/
def Chip.doFacCapReq (c : Chip) (w : BitVec 32) : Chip :=
  if !c.boot.aon then c
  else
    let d := c.modPow (fun p => { p with capW := clampW w.toNat, capId := (p.capId + 1) % 2 ^ 16, capAnswer := 0 })
    if c.live then d.setGevent 0 else d

/-- FAC_CAP_ACK (R475, 21 R524): the answer to the current request; any other is ignored and reported. -/
def Chip.doFacCapAck (c : Chip) (a : SetupAcc) : Chip :=
  let v := accValue 0 a
  let mine := v % 2 ^ 16 = c.pow.capId
  c.regStore 0x400088 a (fun f _ => if f.lo = 0 ∧ !decide mine then some (0, 7) else none) (fun d _ =>
    if a.half = some true ∨ !decide mine then d else d.modPow (fun p => { p with capAnswer := if bit v 16 then 1 else 2 }))

/-! Telemetry (R476, R477) -/

/-- A value cut to 32 bits, little-endian. -/
def w32 (x : Nat) : List Byte := leBytes 4 (x % 2 ^ 32)

/-- `n` counters that the model does not keep: free values. -/
def Chip.freeWords (c : Chip) (base n : Nat) : List Byte := (List.range n).flatMap (fun i => w32 (Config.freeValue (c.free + base + i)))

/-- A record's source, kind, part and payload. -/
structure TeleRec where
  src : Nat
  kind : Nat
  part : Nat
  data : List Byte
deriving DecidableEq, Repr

/-- The records of the power controller (Table 18.5): `temps` are the hottest temperatures of TD0 to TD3, HD, FD and HS0 to HS11. -/
def Chip.powerRecs (c : Chip) (temps : List (BitVec 8)) : List TeleRec :=
  let p := c.pow
  let mean := fun (i : Nat) => if p.sums = 0 then 0 else p.sum.getD i 0 / p.sums
  [{ src := srcPower, kind := 0x01, part := 0, data := (List.range 8).flatMap (fun i => leBytes 2 (mean i % 2 ^ 16)) ++ leBytes 1 p.state },
   { src := srcPower, kind := 0x02, part := 0, data := (List.range 8).flatMap (fun i => leBytes 5 (p.energy.getD i 0 % 2 ^ 40)) },
   { src := srcPower, kind := 0x03, part := 0
     data := leBytes 2 p.now.tile ++ leBytes 2 p.now.ledge ++ leBytes 2 p.now.core ++ leBytes 1 p.now.pause ++ w32 p.droops ++ w32 p.dropped },
   { src := srcPower, kind := 0x04, part := 0
     data := (List.range 18).flatMap (fun i => leBytes 1 (temps.getD i 0).toNat) ++ leBytes 1 c.res.risk ++
       (List.range 5).flatMap (fun i => leBytes 1 (c.res.points.getD i 0)) }]

/-- The records of a tile in SERVICE: of its stall counters the model keeps ARRAY_HOLD. -/
def Chip.tileRecs (c : Chip) (t : Nat) : List TeleRec :=
  [{ src := srcTile t, kind := 0x05, part := 0, data := c.freeWords (16 * t) 5 ++ w32 (c.tileAt t).hold ++ c.freeWords (16 * t + 5) 2 },
   { src := srcTile t, kind := 0x05, part := 1, data := c.freeWords (16 * t + 7) 9 }]

/-- The records of homes, fabric die, dispatch complex and ledge engines; `fec` are the FEC corrections counted at
each port. -/
def Chip.unitRecs (c : Chip) (fec : List Nat) : List TeleRec :=
  let port := fun (p : Nat) (f : SubPort → Nat) => [0, 1, 2, 3].foldl (fun acc s => acc + f (c.portAt (4 * p + s))) 0
  (List.range 5).map (fun h =>
    { src := srcNoc h, kind := 0x06, part := 0
      data := c.freeWords (3200 + h) 1 ++ w32 (tabGet 0 c.mem.sfBackinv h) ++ w32 (tabGet 0 c.mem.hintDropped h) }) ++
  (List.range 8).map (fun p =>
    { src := srcFabric, kind := 0x07, part := p
      data := w32 (port p (·.frames)) ++ w32 (fec.getD p 0) ++ w32 (port p (·.dup)) ++ w32 (port p (·.window)) ++ w32 (port p (·.overrun)) ++
        w32 (port p (·.quarantines)) }) ++
  [{ src := srcDispatch, kind := 0x08, part := 0
     data := c.freeWords 3205 1 ++ w32 (16384 - c.cm.used) ++ w32 c.fw.drops ++ w32 c.inService.length }] ++
  ((List.range 208).filter (fun e => !c.ledge.fenced.contains e)).map (fun e =>
    { src := srcLedge e, kind := 0x09, part := 0, data := c.freeWords (3206 + 2 * e) 2 })

/-- A record written to the next slot of the ring (Table 18.4); one that falls on an unbacked address is dropped. -/
def Chip.teleWrite (c : Chip) (r : TeleRec) : Chip :=
  let p := c.pow
  let pa := p.teleBase + 64 * (p.teleSeq % 2 ^ p.teleLog2)
  let bs := leBytes 2 r.src ++ leBytes 1 (c.restarts r.src) ++ leBytes 1 r.kind ++ leBytes 4 c.log.period ++ leBytes 8 (c.count r.src) ++
    leBytes 4 p.teleSeq ++ zeros 3 ++ leBytes 1 r.part ++ r.data ++ zeros (40 - r.data.length)
  let d := c.modPow (fun q => { q with teleSeq := (q.teleSeq + 1) % 2 ^ 32 })
  if d.writable pa 64 then d.post pa bs
  else (d.modPow (fun q => { q with teleDrops := tabSet q.teleDrops r.src (tabGet 0 q.teleDrops r.src + 1) })).logRefused srcPower pa 64

/-- TELEMETRY_PERIOD (R476, R477): the period ends, and each source writes its records; a source that is late drops its own. The fields
written since come into force. -/
def Chip.doTelemetryPeriod (c : Chip) (temps : List (BitVec 8)) (fec : List Nat) (late : List (BitVec 16)) : Chip :=
  let t := c.pow.teleAt + c.pow.telePeriod * 100000
  let c0 := c.passTo srcPower t
  let tiles := (List.range 200).filter (fun x => (c0.tileAt x).st == .service)
  let recs := c0.powerRecs temps ++ tiles.flatMap c0.tileRecs ++ c0.unitRecs fec
  let lates := late.map (·.toNat)
  let drop := fun (d : Chip) (r : TeleRec) =>
    d.modPow (fun q => { q with teleDrops := tabSet q.teleDrops r.src (tabGet 0 q.teleDrops r.src + 1) })
  let c1 := if c0.rf 0x500008 63 63 = 0 ∨ c0.pow.teleBase = 0 then c0
    else recs.foldl (fun (d : Chip) r => if lates.contains r.src then drop d r else d.teleWrite r) c0
  ((c1.took 4096).modPow (fun q =>
    { q with
      teleAt := max t (c0.count srcPower - c0.count srcPower % 100000), droops := 0, sum := List.replicate 8 0, sums := 0
      teleBase := c1.rf 0x500000 41 12 * 4096, teleLog2 := c1.rf 0x500008 4 0, telePeriod := c1.rf 0x500008 25 16 })).modLog (fun l =>
    { l with period := (l.period + 1) % 2 ^ 32 })

/-! Work beneath the foreground (R480) -/

/-- FLASH_WEAR_LEVEL (R480): erased blocks are reclaimed; no image, record or list changes. -/
def Chip.doFlashWearLevel (c : Chip) : Chip := c

end Sys2Proof.Machine
end

