-- ==== Sys2Proof/Machine/Security.lean ====
section
/-!
DEFINITION. Attestation and the management interfaces (19 R488 to R499). Interfaces and transports: 0 SMBus, 1 I3C, 2 management port,
3 the DOE mailbox of CX0.
-/

namespace Sys2Proof.Machine

/-! Who answers -/

/-- The management controller runs: VAON stands, its firmware has started, and it is not in the recovery state (R496). -/
def Chip.mgmtUp (c : Chip) : Bool := c.boot.aon && decide (2 ≤ c.boot.step ∨ c.boot.safe)

/-- The recovery state of R496. -/
def Chip.recovery (c : Chip) : Bool := c.boot.aon && c.boot.step == 0 && !c.boot.safe && c.boot.report.outcome == 3

/-- A request that an interface does not accept (R495): answered as unsupported, and logged at most once per interface in each
second of the management controller's counter. -/
def Chip.mgmtRefuse (c : Chip) (iface : Nat) (l : List Nat) : Chip :=
  (c.logWin .mgmtRefused [iface] srcMgmt 500000000 srcMgmt [iface]).answer l

/-! SPDM (R488 to R492) -/

/-- SPDM error codes of DSP0274. -/
def spdmInvalid : Nat := 0x01
/-- Busy. -/
def spdmBusy : Nat := 0x03
/-- Unspecified. -/
def spdmUnspecified : Nat := 0x05
/-- UnsupportedRequest. -/
def spdmUnsupportedCode : Nat := 0x07
/-- ResponseNotReady. -/
def spdmNotReadyCode : Nat := 0x42

/-- An SPDM error response. -/
def Chip.spdmError (c : Chip) (code : Nat) : Chip := c.answer [1, code]

/-- A request on a transport: not answered while the controller is down, or over DOE once CX0 has stopped; an error when the security
block has failed (20 R505); otherwise answered by `f`. -/
def Chip.spdm (c : Chip) (tr : Nat) (f : Chip → Chip) : Chip :=
  if !c.mgmtUp ∨ (tr = 3 ∧ !c.live) then c
  else if !c.mgmt.secure ∨ (c.boot.safe ∧ c.boot.report.code = 0x03) then c.spdmError spdmUnspecified
  else f c

/-- A transport's connection. -/
def Chip.spdmConn (c : Chip) (tr : Nat) : SpdmConn := tabGet SpdmConn.fresh c.mgmt.conn tr

/-- A transport's connection set. -/
def Chip.setSpdm (c : Chip) (tr : Nat) (x : SpdmConn) : Chip := c.modMgmt (fun m => { m with conn := tabSet m.conn tr x })

/-- GET_VERSION (R489): versions 1.2 and 1.3; the transcript begins anew. -/
def Chip.doGetVersion (c : Chip) (tr : Nat) : Chip := c.spdm tr (fun d => (d.setSpdm tr SpdmConn.fresh).answer [0, 0x12, 0x13])

/-- GET_CAPABILITIES (R489): CERT_CAP, CHAL_CAP, and MEAS_CAP with signatures. -/
def Chip.doGetCapabilities (c : Chip) (tr : Nat) : Chip := c.spdm tr (fun d => d.answer [0, 0x16])

/-- NEGOTIATE_ALGORITHMS (R489): both extended entries must be offered. -/
def Chip.doNegotiateAlgorithms (c : Chip) (tr : Nat) (falcon shake : Bool) : Chip :=
  c.spdm tr (fun d =>
    if falcon && shake then (d.setSpdm tr { d.spdmConn tr with algs := true }).answer [0, 0x04, 102202, 0x0001, 0x04, 102202, 0x0002]
    else d.spdmError spdmInvalid)

/-- The digest of the running image of a TYPE; zero when none runs. -/
def Chip.runDigest (c : Chip) (type : Nat) : Nat := (tabGet (0, 0) c.mgmt.run type).2

/-- A 64-byte digest as the numbers of its bytes. -/
def digest64 (x : Nat) : List Nat := (leBytes 64 x).map (·.toNat)

/-- A number's 4 little-endian bytes as numbers. -/
def le4 (x : Nat) : List Nat := (leBytes 4 x).map (·.toNat)

/-- The measurement of an index (Table 19.4). -/
def Chip.measure (c : Chip) (k : Secure) (i : Nat) : List Nat :=
  let r := k.rec_
  match i with
  | 1 => digest64 Config.bootRomDigest
  | 2 => digest64 (c.runDigest 1)
  | 3 => digest64 (c.runDigest 2)
  | 4 => digest64 (c.runDigest 4)
  | 5 => digest64 (if c.fw.running then c.fw.digest else 0)
  | 6 => le4 r.mgmt ++ le4 r.hostboot ++ le4 r.dispatch ++ le4 r.microcode ++ le4 r.keyGen
  | 7 => le4 c.strapWord ++ digest64 Config.boardDigest
  | _ => []

/-- The certificate chain of slot 0. -/
def Chip.chain (c : Chip) (k : Secure) : List Nat := Config.certChain ([1, 2, 3, 4].flatMap (c.measure k))

/-- GET_DIGESTS (R488, R489): slot 0 is the only one. -/
def Chip.secGetDigests (c : Chip) (k : Secure) (tr : Nat) : Chip × Secure :=
  (c.spdm tr (fun d => d.answer (0 :: 0x01 :: digest64 (Config.shake256 (d.chain k)))), k)

/-- GET_CERTIFICATE (R488): a portion of the chain of slot 0 with the length of what remains. -/
def Chip.secGetCertificate (c : Chip) (k : Secure) (tr slot off len : Nat) : Chip × Secure :=
  (c.spdm tr (fun d =>
    let all := d.chain k
    if slot ≠ 0 ∨ all.length < off then d.spdmError spdmInvalid
    else
      let part := (all.drop off).take len
      d.answer (0 :: part.length :: (all.length - off - part.length) :: part)), k)

/-- A response that must be signed joins the queue: one is signed at a time, four wait, a fifth finds it busy (R492). -/
def Chip.sign (c : Chip) (tr : Nat) (values : List Nat) : Chip :=
  if 5 ≤ c.mgmt.queue.length then c.spdmError spdmBusy
  else
    let r : SignReq := { id := c.mgmt.next, tr := tr, values := values, since := c.count srcMgmt, late := false }
    (c.modMgmt (fun m => { m with queue := m.queue ++ [r], next := m.next + 1 })).answer [2, r.id]

/-- CHALLENGE (R489): answered with a signature of the alias key. -/
def Chip.secChallenge (c : Chip) (k : Secure) (tr slot : Nat) : Chip × Secure :=
  (c.spdm tr (fun d =>
    if slot ≠ 0 then d.spdmError spdmInvalid else d.sign tr (0x03 :: digest64 (Config.shake256 (d.chain k)))), k)

/-- GET_MEASUREMENTS (R491): operation 0 asks for the count, 255 for all, 1 to 7 for one. The values are those at acceptance;
ContentChanged is set when a returned index has changed since the transcript's previous request. -/
def Chip.secGetMeasurements (c : Chip) (k : Secure) (tr op : Nat) (signed : Bool) : Chip × Secure :=
  (c.spdm tr (fun d =>
    let idx := if op = 255 then [1, 2, 3, 4, 5, 6, 7] else if 1 ≤ op ∧ op ≤ 7 then [op] else []
    if op ≠ 0 ∧ idx.isEmpty then d.spdmError spdmInvalid
    else
      let all := (List.range 7).map (fun i => d.measure k (i + 1))
      let changed := match (d.spdmConn tr).meas with
        | some old => idx.any (fun i => old.getD (i - 1) [] != all.getD (i - 1) [])
        | none => false
      let e := d.setSpdm tr { d.spdmConn tr with meas := some all }
      let body := if op = 0 then [7] else b2n changed :: idx.flatMap (fun i => i :: all.getD (i - 1) [])
      if signed then e.sign tr (0x60 :: body) else e.answer (0 :: body)), k)

/-- SPDM_SIGN_DONE (R492): the signature of the first response is finished: it is sent, or kept for its RESPOND_IF_READY. -/
def Chip.doSpdmSignDone (c : Chip) : Chip :=
  match c.mgmt.queue with
  | [] => c
  | r :: rest =>
    let d := c.modMgmt (fun m => { m with queue := rest, kept := if r.late then m.kept ++ [r] else m.kept })
    if r.late then d else d.answer (0 :: r.tr :: r.values)

/-- SPDM_NOT_READY (R492): a signing request has waited longer than 1 ms: RDTExponent 14, RDTM 4. -/
def Chip.doSpdmNotReady (c : Chip) : Chip :=
  match c.mgmt.queue.find? (fun r => !r.late) with
  | some r =>
    ((c.passTo srcMgmt (r.since + 500000)).modMgmt (fun m =>
      { m with queue := m.queue.map (fun x => if x.id = r.id then { x with late := true } else x) })).answer [1, spdmNotReadyCode, 14, 4, r.id]
  | none => c

/-- RESPOND_IF_READY (R492): the kept response of this transport, or not ready yet. -/
def Chip.doRespondIfReady (c : Chip) (tr token : Nat) : Chip :=
  c.spdm tr (fun d =>
    match d.mgmt.kept.find? (fun r => r.id == token && r.tr == tr) with
    | some r => (d.modMgmt (fun m => { m with kept := m.kept.filter (fun x => x.id != token) })).answer (0 :: r.values)
    | none =>
      if d.mgmt.queue.any (fun r => r.id == token && r.tr == tr) then d.answer [1, spdmNotReadyCode, 14, 4, token]
      else d.spdmError spdmInvalid)

/-- SPDM_UNSUPPORTED (R489). -/
def Chip.doSpdmUnsupported (c : Chip) (tr : Nat) : Chip := c.spdm tr (fun d => d.spdmError spdmUnsupportedCode)

/-! MCTP and PLDM (R495 to R498) -/

/-- MCTP_CONTROL (R495): every MCTP binding answers, in the recovery state only SMBus and I3C. -/
def Chip.doMctpControl (c : Chip) (iface cmd : Nat) : Chip :=
  if c.recovery then (if iface ≤ 1 then c.answer [0, cmd] else c)
  else if !c.mgmtUp then c
  else if iface = 3 then c.mgmtRefuse iface [1]
  else c.answer [0, cmd]

/-- PLDM_DISCOVERY (R497): the types that an interface offers (Tables 19.5, 19.6). -/
def Chip.doPldmDiscovery (c : Chip) (iface : Nat) : Chip :=
  if !c.mgmtUp then c
  else if iface = 3 then c.mgmtRefuse iface [1]
  else c.answer (0 :: (if iface = 2 then [0, 2] else [0, 2, 5]))

/-- A numeric sensor (Table 19.6); `temp` is the temperature that a temperature sensor measures. -/
def Chip.sensor (c : Chip) (iface s : Nat) (temp : BitVec 8) : Option Nat :=
  if s = 1 then some (c.pow.pkg % 2 ^ 32)
  else if s = 2 then some (c.pow.energy.headD 0 % 2 ^ 32)
  else if s = 3 then some (tabGet 0 c.mgmt.latch iface)
  else if s = 4 then some (c.rf 0x400000 15 0)
  else if s = 5 then some c.pow.state
  else if s = 6 then some c.pow.capId
  else if s = 7 then some c.pow.capAnswer
  else if s = 8 then some c.res.risk
  else if 9 ≤ s ∧ s ≤ 26 then some temp.toNat
  else none

/-- PLDM_SENSOR_READ (R497, R498): reading sensor 2 latches the high half of the same value for sensor 3 of the interface. -/
def Chip.doPldmSensorRead (c : Chip) (iface s : Nat) (temp : BitVec 8) : Chip :=
  if !c.mgmtUp then c
  else if iface = 3 then c.mgmtRefuse iface [1]
  else match c.sensor iface s temp with
    | none => c.answer [1]
    | some x =>
      let d := if s = 2 then c.modMgmt (fun m => { m with latch := tabSet m.latch iface (c.pow.energy.headD 0 / 2 ^ 32) }) else c
      d.answer [0, x]

/-- PLDM_FIRMWARE_UPDATE (R496, R497): an update begins, or its image has arrived: it is written to the inactive slot, verified there,
and made active only if it verifies. Type 3 is refused; while one update is in progress another is refused as busy. The recovery
state takes only a type 1 image, into slot A. The answer is 0, 1 unsupported or refused, 2 busy, 3 with the verdict. -/
def Chip.secPldmFirmwareUpdate (c : Chip) (k : Secure) (iface type : Nat) (arrived : Bool) (header : List Byte) (crypto : Bool) :
    Chip × Secure :=
  if !c.mgmtUp && !c.recovery then (c, k)
  else if 2 ≤ iface then (if c.recovery then (c, k) else (c.mgmtRefuse iface [1], k))
  else if (type ≠ 1 ∧ type ≠ 2 ∧ type ≠ 4) ∨ (c.recovery ∧ type ≠ 1) then (c.answer [1], k)
  else if !arrived then
    (if c.mgmt.update.isSome then (c.answer [2], k) else ((c.modMgmt (fun m => { m with update := some (iface, type) })).answer [0], k))
  else if c.mgmt.update ≠ some (iface, type) then (c.answer [1], k)
  else
    let slot := if c.recovery then 0 else 1 - tabGet 0 k.active type
    let verdict := k.rec_.judge header type crypto
    let k1 := { k with img := tabSet k.img (2 * type + slot) (FlashImg.of header type crypto) }
    let d := c.modMgmt (fun m => { m with update := none })
    if verdict = 0 then (d.answer [0], { k1 with active := tabSet k1.active type slot }) else (d.answer [3, verdict], k1)

/-! Vendor messages (R499) -/

/-- READ_EVENTS (R499): entries held, newest first, counted back from the newest. -/
def Chip.doReadEvents (c : Chip) (iface start count : Nat) : Chip :=
  if !c.mgmtUp then c
  else if iface = 3 then c.mgmtRefuse iface [0x01, 3]
  else if 1023 < start ∨ count = 0 ∨ 15 < count then c.answer [0x01, 2]
  else c.answer (0x01 :: 0 :: ((c.log.held.drop start).take count).flatMap (fun e => (e.bytes c.log.period).map (·.toNat)))

/-- READ_REPORT (R499): the latest report, or the previous one. -/
def Chip.doReadReport (c : Chip) (iface which : Nat) : Chip :=
  if !c.mgmtUp then c
  else if iface = 3 then c.mgmtRefuse iface [0x02, 3]
  else if 1 < which then c.answer [0x02, 2]
  else c.answer (0x02 :: 0 :: ((if which = 0 then c.boot.report else c.boot.prev).bytes).map (·.toNat))

end Sys2Proof.Machine
end

