-- ==== Sys2Proof/Machine/Bringup.lean ====
section
/-!
DEFINITION. Supplies, self-test and resets (20 R500 to R508, 19 R481 to R486, R499, 16 R420, 08 R208, R209, 01 R21).
-/

namespace Sys2Proof.Machine

/-! Resets (R507, R508) -/

/-- The package with groups 1 to 5 without power and nothing in it. -/
def Chip.blank (c : Chip) : Chip :=
  { Chip.reset with
    boot := { Boot.fresh with
      en := 0, good := 0, step := 0, report := Report.empty, prev := Report.empty, thermDies := c.boot.thermDies
      thermAlert := c.boot.thermAlert }
    mgmt := { Mgmt.fresh with run := [], secure := false }
    reply := c.reply, free := c.free }

/-- A supply group that has had no power since the cold reset. -/
def GroupClk.unborn (now : Nat) : GroupClk := { born := now, stop := some now, restarts := 0, used := false }

/-- VAON lost: nothing is left but management flash (17 R443, Table 20.7). -/
def Chip.dark (c : Chip) : Chip :=
  { c.blank with
    boot := { c.blank.boot with aon := false, thermDies := [], thermAlert := false }
    clk := { now := c.clk.now, isl := [], grp := (List.range 6).map (fun g => (g, GroupClk.unborn c.clk.now)) } }

/-- An update under way leaves its slot failing verification (R507). -/
def Secure.tear (k : Secure) (u : Option (Nat × Nat)) : Secure :=
  match u with
  | some (_, type) => { k with img := tabSet k.img (2 * type + (1 - tabGet 0 k.active type)) FlashImg.fresh }
  | none => k

/-- POWER_LOSS (17 R443, 22 R544). -/
def Chip.secPowerLoss (c : Chip) (k : Secure) : Chip × Secure := (c.dark, k.tear c.mgmt.update)

/-- COLD_RESET (R507): AON_GOOD rises after the power was gone. -/
def Chip.secColdReset (c : Chip) (k : Secure) : Chip × Secure :=
  let d := c.dark
  ({ d with
     boot := { d.boot with aon := true }
     clk := { d.clk with grp := tabSet d.clk.grp 0 { born := c.clk.now, stop := none, restarts := 0, used := true } } }, k.tear c.mgmt.update)

/-- BOOT_ROM_START (R500): 1 ms of the management clock after AON_GOOD. -/
def Chip.doBootRomStart (c : Chip) : Chip :=
  if c.boot.aon && c.boot.step == 0 && !c.boot.safe && !c.recovery then
    (c.passTo srcMgmt 500000).modBoot (fun b => { b with step := 1 })
  else c

/-- A warm reset (R507, Table 20.7): groups 1 to 5 lose power; energies, held events, reports, the rows offered for repair and the management controller's own clock
stay (for the rows: DESIGN CHOICE, assumption 110). -/
def Chip.warm (c : Chip) : Chip :=
  let d := [5, 4, 3, 2, 1].foldl (fun (e : Chip) g => e.groupOff g) c
  let z := c.blank
  { z with
    clk := d.clk
    log := { z.log with held := c.log.held }
    pow := { z.pow with energy := c.pow.energy }
    chan := (c.chan.filter (fun p => !p.2.repair.isEmpty)).map (fun p => (p.1, { Chan.fresh with repair := p.2.repair }))
    mem := { z.mem with serial := c.mem.serial }
    boot := { z.boot with step := 1, report := c.boot.report, prev := c.boot.prev } }

/-- WARM_RESET (R507): WARM_RST_N held low for 10 µs. -/
def Chip.secWarmReset (c : Chip) (k : Secure) : Chip × Secure :=
  if c.boot.aon && (c.boot.step != 0 || c.boot.safe || c.recovery) then
    ((c.passTo srcMgmt (c.count srcMgmt + 5000)).warm, k.tear c.mgmt.update)
  else (c, k)

/-- PKG_RESET (19 R499): with the complement of the low half of DEVICE_ID it is answered, and the warm reset begins. -/
def Chip.secPkgReset (c : Chip) (k : Secure) (iface : Nat) (confirm : BitVec 32) : Chip × Secure :=
  if !c.mgmtUp then (c, k)
  else if 2 ≤ iface then (c.mgmtRefuse iface [0x10, 3], k)
  else if confirm.toNat ≠ 2 ^ 32 - 1 - c.boot.report.deviceId % 2 ^ 32 then (c.answer [0x10, 2], k)
  else ((c.answer [0x10, 0]).warm, k.tear c.mgmt.update)

/-! Supplies (R500 to R502) -/

/-- PWR_GOOD_RISE (R500): a group has power, and 100 µs later the next is enabled. -/
def Chip.doPwrGoodRise (c : Chip) (g : Nat) : Chip :=
  let b := c.boot
  if b.aon && !b.safe && b.step == 3 && bit b.en g && !bit b.good g then
    let d := (c.passTo srcMgmt b.enAt).groupOn g
    d.modBoot (fun b =>
      { b with
        good := b.good ||| 2 ^ g
        en := if g < 5 then b.en ||| 2 ^ (g + 1) else b.en
        enAt := d.count srcMgmt + 50000 })
  else c

/-- RAIL_FAIL (R501): PWR_GOOD has not risen within 10 ms of PWR_EN. -/
def Chip.doRailFail (c : Chip) (g : Nat) : Chip :=
  let b := c.boot
  if b.aon && !b.safe && bit b.en g && !bit b.good g then
    (c.passTo srcMgmt (b.enAt + 5000000)).fatal .railFail srcMgmt [g] 0x01 g
  else c

/-- PWR_GOOD_FALL (R501, 18 R471): the power block acts as for a protective trip and logs RAIL_FAIL in its place. -/
def Chip.doPwrGoodFall (c : Chip) (g : Nat) : Chip :=
  let b := c.boot
  if b.aon && !b.safe && bit b.en g && bit b.good g then
    (c.fatal .railFail srcPower [g, c.count srcPower] 0x01 g).modBoot (fun b => { b with tripOut := true })
  else c

/-! Self-test (R503 to R506) -/

/-- A fatal result of self-test: the management controller logs the code with its detail (R505). -/
def Chip.testFails (c : Chip) (code detail : Nat) : Chip := (c.logEv .fatal srcMgmt [code, detail]).enterSafe code detail

/-- What the self-test under way has found, changed. -/
def Chip.modDraft (c : Chip) (f : Report → Report) : Chip := c.modBoot (fun b => { b with draft := f b.draft })

/-- The next step begins. -/
def Chip.nextStep (c : Chip) : Chip := c.modBoot (fun b => { b with step := b.step + 1 })

/-- An image of flash is started (19 R481): the slot that runs, with IMAGE_FALLBACK when it is not the active one; nothing when neither
verifies. -/
def Chip.startImage (c : Chip) (k : Secure) (type : Nat) : Option Chip :=
  (k.runs type).map (fun slot =>
    let other := slot != tabGet 0 k.active type
    let d := (c.modMgmt (fun m => { m with run := tabSet m.run type (slot, (k.slot type slot).digest) })).modDraft (fun r =>
      { r with images := r.images ||| 2 ^ (type - 1) ||| (if other then 2 ^ (type + 3) else 0) })
    if other then d.logEv .imageFallback srcMgmt [type, slot] else d)

/-- The arrangement of a PCIe controller by its board record (12 R320): joining needs both partners. -/
def pcieArrange (l : List Nat) (p : Nat) : Nat :=
  let a := l.getD p 0
  if a = 2 then (if l.getD (p / 2 * 2 + (1 - p % 2)) 0 = 2 then (if p % 2 = 0 then 2 else 3) else 4) else if a = 3 then 4 else a

/-- Step 1 (R503, R541): management firmware, the controller's own test, the straps, the board record. -/
def Chip.stepOne (c : Chip) (k : Secure) (r : SelfTest) : Chip :=
  let c := c.modBoot (fun b => { b with draft := Report.empty })
  match c.startImage k 1 with
  | none =>
    c.modBoot (fun b =>
      { b with step := 0, prev := b.report, report := { Report.empty with outcome := 3, phase := 1, counter := c.count srcMgmt } })
  | some d =>
    if !r.mgmtOk then d.testFails 0x02 0
    else
      let e := d.modBoot (fun b =>
        { b with feedId := r.feedId.toNat, slotId := r.slotId.toNat, roleStrap := r.role, manager := false
                 pcie := [0, 1, 2, 3].map (pcieArrange (r.pcie.map (·.val))) })
      let e := e.setReg 0xA00010 (pack ((List.range 8).map (fun p => (2 * p, (r.modes.getD p 0).val))))
      ((e.modDraft (fun x => { x with straps := e.strapWord })).nextStep)

/-- Step 2 (R503, 19 R485, R487): identity and the counter record. -/
def Chip.stepTwo (c : Chip) (k : Secure) (r : SelfTest) : Chip :=
  if !r.puf ∨ !k.helper ∨ !k.recOk then c.testFails 0x03 0
  else
    (((c.modMgmt (fun m => { m with secure := true })).modDraft (fun x => { x with deviceId := Config.deviceId % 2 ^ 64 })).modBoot (fun b =>
      { b with en := 2, enAt := c.count srcMgmt })).nextStep

/-- The lowest bit that is set. -/
def lowBit (x n : Nat) : Nat := ((List.range n).find? (fun i => bit x i)).getD 0

/-- A lane replaced while a link trains (01 R18). -/
def Chip.trainSpare (c : Chip) (p : Fin 13 × Bool × Fin 5 × Fin 64) : Chip :=
  let x := c.linkGrp p.1.val p.2.1 p.2.2.1.val
  match x.spare with
  | some s => c.setLinkGrp p.1.val p.2.1 p.2.2.1.val { x with spares := x.spares ++ [(p.2.2.2.val, s)] }
  | none => c

/-- The links that are trained whole. -/
def linkMask (bad : List (Fin 13 × Fin 5)) : Nat :=
  pack ((List.range 13).map (fun l => (l, b2n (!bad.any (fun p => p.1.val == l)))))

/-- The role that strap and link partner give (16 R420). -/
def Chip.applyRole (c : Chip) (partnerRoot : Bool) : Chip :=
  if c.boot.roleStrap then
    (if partnerRoot then c.logEv .roleFallback srcDispatch [] else c.modBoot (fun b => { b with manager := true }))
  else c

/-- Step 3 (R503, R504): logic, cores, processors, ports and links. -/
def Chip.stepThree (c : Chip) (r : SelfTest) : Chip :=
  if c.boot.good ≠ 0x3E then c
  else
    let fp := r.fps.toNat
    let d := c.modDraft (fun x =>
      { x with fpOk := 15 - fp, portsOk := 255 - r.ports.toNat, coresFailed := ((List.range 64).filter (fun k => r.cores.getLsbD k)).length
               linkOk := linkMask r.links })
    if !r.hdOk ∨ fp = 15 ∨ r.cores.toNat = 2 ^ 64 - 1 then d.testFails 0x04 4
    else if r.tds.toNat ≠ 0 then d.testFails 0x05 (lowBit r.tds.toNat 4)
    else if !r.fdOk ∨ r.ports.toNat = 255 then d.testFails 0x06 5
    else match r.links with
      | p :: _ => d.testFails 0x07 (Config.linkDetail p.1.val p.2.val)
      | [] =>
        let d := r.spared.foldl Chip.trainSpare d
        let d := ([0, 1, 2, 3].filter (fun k => bit fp k)).foldl (fun (e : Chip) k => e.setFp k { e.fpAt k with failed := true }) d
        let d := ((List.range 64).filter (fun k => r.cores.getLsbD k)).foldl (fun (e : Chip) k => e.setCore k .held) d
        let d := ([0, 1, 2, 3].filter (fun p => d.boot.pcie.getD p 0 == 4)).foldl (fun (e : Chip) p => e.logEv .pcieConfig srcRoot [p]) d
        let d := d.applyRole r.partnerRoot
        (d.modDraft (fun x => { x with straps := d.strapWord })).nextStep

/-- A module of Table 8.4 (08 R207). -/
def dimmOk (d : Dimm) : Bool :=
  d.width == 4 && d.ecc == 80 && (d.ranks == 1 || d.ranks == 2) &&
    (if d.mrdimm then [64, 128, 256].contains d.gb && [8000, 8800].contains d.rate
     else [32, 64, 96, 128, 256].contains d.gb && [4800, 5600, 6400].contains d.rate)

/-- Modules alike in type, capacity, ranks and device width (08 R208). -/
def dimmLike (a b : Dimm) : Bool := a.mrdimm == b.mrdimm && a.gb == b.gb && a.ranks == b.ranks && a.width == b.width

/-- The population that self-test accepts (08 R208): the number of modules and the first of them. -/
def population (l : List (Option Dimm)) : Option (Nat × Dimm) :=
  match l.head? with
  | some (some d) =>
    let present := (List.range 16).filter (fun i => (l.getD i none).isSome)
    let fit := l.all (fun x => match x with | some e => dimmOk e && dimmLike d e | none => true)
    if l.length = 16 ∧ fit ∧ present = List.range 16 then some (16, d)
    else if l.length = 16 ∧ fit ∧ present = (List.range 8).map (2 * ·) then some (8, d)
    else none
  | _ => none

/-- The first channel whose module is no module of Table 8.4 or unlike the first, or channel 0: the one that DDR_POPULATION names (R222;
DESIGN CHOICE, assumption 109). -/
def oddSlot (l : List (Option Dimm)) : Nat :=
  ((List.range 16).find? (fun i => match l.getD i none, l.getD 0 none with
    | some d, some e => !dimmOk d || !dimmLike e d
    | some d, none => !dimmOk d
    | none, _ => false)).getD 0

/-- The tier's data rate: the lowest of the modules' and the board's (08 R209). -/
def tierRate (l : List (Option Dimm)) (board : Nat) : Nat := l.foldl (fun a x => match x with | some d => min a d.rate | none => a) board

/-- The stacks of which every channel is trained. -/
def stackMask (bad : List (Fin 384)) : Nat := pack ((List.range 12).map (fun s => (s, b2n (!bad.any (fun ch => ch.val / 32 == s)))))

/-- Step 4 (R503, R504): memory is trained, the rows offered for it get their soft repair (08 R214), every line is zeroed, and every ledge
engine is tested. -/
def Chip.stepFour (c : Chip) (r : SelfTest) : Chip :=
  let d := c.modDraft (fun x => { x with hbmOk := stackMask r.hbm })
  match r.hbm with
  | ch :: _ => d.testFails 0x08 (ch.val / 32)
  | [] =>
    match population r.dimms with
    | none => (d.logEv .ddrPopulation (chanSrc (384 + oddSlot r.dimms)) [384 + oddSlot r.dimms]).testFails 0x0A 0
    | some (n, m) =>
      let has := fun (ch : Nat) => n == 16 || ch % 2 == 0
      let bad := r.ddr.filter (fun ch => has ch.val)
      let d := d.modDraft (fun x =>
        { x with ddrRate := tierRate r.dimms r.boardRate
                 ddrOk := pack ((List.range 16).map (fun ch => (ch, b2n (has ch && !bad.any (fun q => q.val == ch))))) })
      match bad with
      | ch :: _ => d.testFails 0x09 ch.val
      | [] =>
        let d := (d.modMem (fun m0 => { Chip.reset.mem with ddrMods := n, ddrModGB := m.gb, serial := m0.serial })).modChan (fun t =>
          t.map (fun p => (p.1, { Chan.fresh with repaired := p.2.repair })))
        let fenced := r.ledge.foldl (fun l e => setIns l e.val) []
        let d := (d.modLedge (fun l => { l with fenced := fenced })).modDraft (fun x => { x with ledgeFenced := fenced.length })
        (fenced.foldl (fun (e : Chip) n => e.logEv .ledgeHwFault (srcLedge n) [n]) d).nextStep

/-- The good physical tiles of a die, in ascending order. -/
def goodTiles (bad : List Nat) (die : Nat) : List Nat := ((List.range 50).map (fun p => 50 * die + p)).filter (fun t => !bad.contains t)

/-- The tile map that self-test builds (01 R21, R22): the entries that differ from a map of good tiles; 200 is ABSENT. -/
def buildMap (bad : List Nat) : Tab Nat :=
  ((List.range 192).map (fun j => (j, (goodTiles bad (j / 48)).getD (j % 48) 200))).filter (fun p => p.2 != freshPhys p.1)

/-- A tile as self-test leaves it: assigned to a logical index, a spare, or failed. -/
def tileTested (bad listed : List Nat) (t : Nat) : Tile :=
  let x := Tile.fresh t
  if bad.contains t then { x with st := .fenced, failed := true, spare := false, listed := listed.contains t }
  else if ((goodTiles bad (t / 50)).take 48).contains t then { x with st := .service, spare := false }
  else { x with st := .maintenance, spare := true }

/-- Step 5 (R503, 01 R21, 17 R449): microcode, the tiles' BIST, and the tile map. -/
def Chip.stepFive (c : Chip) (k : Secure) (r : SelfTest) : Chip × Secure :=
  match c.startImage k 4 with
  | none => (c.testFails 0x0B 0, k)
  | some d =>
    let bad := r.tiles.foldl (fun l t => setIns l t.val) k.fenceList
    let map := buildMap bad
    let d := (d.modTmap (fun m => { m with phys := map })).modTile (fun _ =>
      ((List.range 200).map (fun t => (t, tileTested bad k.fenceList t))).filter (fun p => p.2 != Tile.fresh p.1))
    let d := d.modDraft (fun x =>
      { x with goodTiles := pack ([0, 1, 2, 3].map (fun n => (8 * n, (goodTiles bad n).length))) })
    (d.nextStep, { k with map := map })

/-- The anti-rollback counters after a completed self-test: those of the images that run from their active slot with ADVANCE, written
as one record (19 R486). -/
def Secure.raiseRun (k : Secure) (run : Tab (Nat × Nat)) : Secure :=
  let r := k.rec_
  let x := [1, 2, 4].foldl (fun (a : CtrRec) type =>
    match tabFind run type with
    | some (slot, _) =>
      let i := k.slot type slot
      if slot = tabGet 0 k.active type ∧ i.advance then a.raised type i.svn i.keyGen else a
    | none => a) r
  if x = r then k else k.putRec x

/-- Some unit was found that the package runs without (Table 20.4). -/
def Report.degraded (r : Report) : Bool :=
  [0, 1, 2, 3].any (fun n => decide (r.goodTiles / 2 ^ (8 * n) % 256 < 48)) || r.ledgeFenced != 0 || r.coresFailed != 0 || r.fpOk != 15 ||
    r.portsOk != 255

/-- Step 6 (R503, R506): the host boot image, the report, and service. -/
def Chip.stepSix (c : Chip) (k : Secure) : Chip × Secure :=
  match c.startImage k 2 with
  | none => (c.testFails 0x0C 0, k)
  | some d =>
    let r := { d.boot.draft with outcome := b2n d.boot.draft.degraded, phase := 6, counter := d.count srcMgmt }
    (d.modBoot (fun b => { b with step := 7, prev := b.report, report := r, draft := Report.empty }), k.raiseRun d.mgmt.run)

/-- SELF_TEST_STEP (R503): the step under way ends with what it found. -/
def Chip.secSelfTestStep (c : Chip) (k : Secure) (r : SelfTest) : Chip × Secure :=
  if !c.boot.aon || c.boot.safe then (c, k)
  else match c.boot.step with
    | 1 => (c.stepOne k r, k)
    | 2 => (c.stepTwo k r, k)
    | 3 => (c.stepThree r, k)
    | 4 => (c.stepFour r, k)
    | 5 => c.stepFive k r
    | 6 => c.stepSix k
    | _ => (c, k)

end Sys2Proof.Machine
end

