-- ==== Sys2Proof/Machine/State.lean ====
section
/-!
DEFINITION. The whole state of the block: the package, its one-time and non-volatile security state, and the queue of
waiting commands; the state after reset.
-/

namespace Sys2Proof.Machine

/-- A step stops with a fault: no command of this block does, so the type has one reason and nobody raises it. -/
inductive Fault where
  /-- Raised by no command; the specification gives every command an effect. Safe. -/
  | none
deriving DecidableEq, Repr

/-- Why a command has no meaning. -/
inductive Refusal where
  /-- The command of this mnemonic has no meaning in the model yet. Safe: nothing is claimed of it. -/
  | notModelled (mnemonic : String)
deriving DecidableEq, Repr

/-- A command that waits for memory (DESIGN CHOICE, assumption 103): its number in the order of arrival, its sender, and the command. -/
structure Held where
  id : Nat
  key : List Nat
  cmd : Instr
deriving DecidableEq, Repr

/-- The state of the block. -/
structure State where
  /-- The package. -/
  chip : Chip
  /-- What management flash keeps. -/
  sec : Secure
  /-- The commands that wait, first in first out. -/
  pending : List Instr
  /-- The commands that have begun and wait for memory, oldest first: the model's own (DESIGN CHOICE, assumption 103). -/
  held : List Held
  /-- The waiting command that was tried again last since model time passed: the model's own. -/
  tried : Nat
  /-- The waiting command that is being tried again, while it is: the model's own. -/
  retrying : Option Nat
deriving DecidableEq, Repr

/-- The machine right after reset. -/
def State.reset : State := { chip := Chip.reset, sec := Secure.fresh, pending := [], held := [], tried := 0, retrying := none }

end Sys2Proof.Machine
end

