-- ==== Sys2Proof/Machine/Held.lean ====
section
/-!
DEFINITION. Commands that have to wait: an access to memory waits at the home of its line behind the earlier transactions on it, while its
channel accepts nothing, and while the snoop filter has no way for the entry that it needs (09 R225, R231, R234, 08 R219, R220), and a
request to a home with a full queue waits at its sender (09 R225). A command with such an access waits as a whole, and is tried again when
the block has nothing else to do (DESIGN CHOICE, assumption 103).
-/

namespace Sys2Proof.Machine

/-- Nothing is under way that an access to memory could have to wait for, and no core owns a line that it may have written unseen. -/
def Chip.quiet (c : Chip) : Bool :=
  c.mem.busy.isEmpty && c.mem.waitq.isEmpty && bits (c.rw 0x400070) 12 0 == 0 &&
    !c.chan.any (fun p => p.2.acts.any (fun b => decide (0 < b.2) && decide (Config.raammt p.1 ≤ b.2))) &&
    !c.mem.dir.any (fun p => p.2.owner.any (fun o => decide (o < 64)) && p.2.st != .o) &&
    !c.bucket.any (fun p => p.2.st == .filling)

/-- No command waits, and nothing is under way that an access to memory could have to wait for. -/
def State.calm (s : State) : Bool := s.retrying.isNone && s.held.isEmpty && s.chip.quiet

/-- The number of the command in progress: that of the waiting command that is tried again, or the next one. -/
def State.ident (s : State) : Nat := s.retrying.getD (s.held.foldl (fun n h => max n h.id) s.tried + 1)

/-- An earlier command of the same sender still waits (09 R243). -/
def State.behind (s : State) (id : Nat) (key : List Nat) : Bool :=
  !key.isEmpty && s.held.any (fun h => decide (h.id < id) && h.key == key)

/-- A waiting command's place in the queue of a line, in the order in which the commands came. -/
def Mem.mark (m : Mem) (ln id : Nat) : Mem :=
  let l := tabGet [] m.waitq ln
  if l.any (fun q => q.kind == .held && q.agent == id) then m
  else
    let younger := fun (q : Txn) => q.kind == .held && decide (id < q.agent)
    { m with
      waitq := tabSet m.waitq ln
        (l.takeWhile (fun q => !younger q) ++ Txn.of .held id none .none :: l.dropWhile (fun q => !younger q)) }

/-- The places of a command that waits no longer given up, and what stood behind them begun. -/
def Chip.unmark (c : Chip) (id : Nat) : Chip :=
  let strip := fun (m : Mem) =>
    { m with
      met := [], retry := none
      waitq := (m.waitq.map (fun p => (p.1, p.2.filter (fun q => !(q.kind == .held && q.agent == id))))).filter (fun p => !p.2.isEmpty) }
  (c.modMem strip).serveAll

/-- A command waits for some lines: its places are taken, and an activation that a bank at RAAMMT holds is logged (08 R219). -/
def Chip.markAll (c : Chip) (id : Nat) (lines : List Nat) : Chip :=
  lines.foldl (fun d ln =>
    let ch := d.mem.chanOf (64 * ln)
    let e := if d.bankFull ch (d.mem.bankOf ln) then d.throttle ch (d.mem.bankOf ln) else d
    e.modMem (fun m => m.mark ln id)) c

/-- A command kept waiting, with its places at the lines that it has met; free values that its try has used stay used. -/
def State.keep (s : State) (id : Nat) (key : List Nat) (i : Instr) (lines : List Nat) (free : Nat) : State :=
  { s with
    chip := { s.chip.markAll id lines with free := free }
    held := s.held.filter (fun h => decide (h.id < id)) ++ { id := id, key := key, cmd := i } ::
      s.held.filter (fun h => decide (id < h.id)) }

/-- The package as a command finds it that may have to wait: what its cores own is what they have made of it. -/
def Chip.attempt (c : Chip) (id : Nat) : Chip := c.modMem (fun m => { m.drift with met := [], retry := some id })

/-- A command of a unit that works only in service and that accesses memory: it takes effect when the homes of its lines can serve it, and
waits otherwise. -/
def State.guardedBoth (s : State) (key : List Nat) (i : Instr) (f : Chip → Secure → Chip × Secure) : Host.Outcome State Fault Refusal :=
  if !s.chip.live then .next s
  else if s.calm then .next { s with chip := (f s.chip s.sec).1, sec := (f s.chip s.sec).2 }
  else
    let id := s.ident
    let r := f (s.chip.attempt id) s.sec
    if s.behind id key then .next (s.keep id key i [] s.chip.free)
    else if r.1.mem.met.isEmpty then .next { s with chip := r.1.unmark id, sec := r.2 }
    else .next (s.keep id key i r.1.mem.met r.1.free)

/-- The same without an effect on management flash. -/
def State.guarded (s : State) (key : List Nat) (i : Instr) (f : Chip → Chip) : Host.Outcome State Fault Refusal :=
  s.guardedBoth key i (fun c k => (f c, k))

/-- A request to the home of a line: one that finds the home's queue full waits at its sender, unless it answers a snoop (09 R225,
R230). -/
def State.toHome (s : State) (agent pa : Nat) (i : Instr) (f : Chip → Chip) : Host.Outcome State Fault Refusal :=
  if !s.chip.live then .next s
  else
    let key := [0, agent, homeOf pa]
    if s.behind s.ident key ||
        (s.chip.mem.backed pa && s.chip.mem.queueFull (pa / 64) && (s.chip.mem.crossing (pa / 64) agent).isNone) then
      .next (s.keep s.ident key i [] s.chip.free)
    else .next { s with chip := f s.chip }

end Sys2Proof.Machine
end

