-- ==== Sys2Proof/Machine/Registers.lean ====
section
/-!
DEFINITION. Writes of setup registers (20 R509, R510, 21 R513 to R534): those with behaviour of their own, and every other field.
-/

namespace Sys2Proof.Machine

/-! Event flags (R519, R520) -/

/-- The MSI after a write that leaves GEVENT AND GEVENT_EN non-zero (R520). -/
def Chip.gintAgain (c : Chip) : Chip := if c.log.live ≠ 0 then c.gint else c

/-- GEVENT (R520, 00 R10): the flags written as 1 are cleared. -/
def Chip.doGevent (c : Chip) (a : SetupAcc) : Chip :=
  c.regStore 0x20 a noLock (fun d _ =>
    if a.half = some true then d
    else (d.modLog (fun l => { l with gevent := (List.range 10).foldl (fun g e => if a.value.getLsbD e then g &&& (1023 - 2 ^ e) else g) l.gevent })).gintAgain)

/-- GEVENT_EN (R520). -/
def Chip.doGeventEn (c : Chip) (a : SetupAcc) : Chip :=
  c.regStore 0x28 a noLock (fun d v => if a.half = some true then d else (d.modLog (fun l => { l with geventEn := v % 1024 })).gintAgain)

/-! Telemetry and event-log rings (R525) -/

/-- TELE_BASE (R525): TELE_SEQ returns to zero; the ring moves at the next telemetry period. -/
def Chip.doTeleBase (c : Chip) (a : SetupAcc) : Chip :=
  c.regStore 0x500000 a noLock (fun d v => (toBank 0x500000 d v).modPow (fun p => { p with teleSeq := 0 }))

/-- LOG_BASE, or LOG_LOG2 with LOG_EN (R525): a write of the base or the size returns LOG_TAIL and LOG_HEAD to zero. -/
def Chip.doLogBase (c : Chip) (size : Bool) (a : SetupAcc) : Chip :=
  if size then
    c.regStore 0x500020 a noLock (fun d v => d.modLog (fun l =>
      let m := { l with logEn := bit v 63, logLog2 := v % 32 }
      if a.half = some true then m else { m with tail := 0, head := 0 }))
  else c.regStore 0x500018 a noLock (fun d v => d.modLog (fun l => { l with logBase := v, tail := 0, head := 0 }))

/-- LOG_HEAD (R525): from its previous value up to LOG_TAIL. -/
def Chip.doLogHead (c : Chip) (a : SetupAcc) : Chip :=
  let l := c.log
  c.regStore 0x500030 a (fun f x =>
      if f.lo ≠ 0 ∨ sub32 x l.head ≤ sub32 l.tail l.head then none else if x < l.head then some (l.head, 1) else some (l.tail, 2))
    (fun d v => d.modLog (fun k => { k with head := v % 2 ^ 32 }))

/-! Ports (R530) -/

/-- MODE (R530, 13 R331): a port's mode changes only while every sub-port of the port is down. -/
def Chip.doMode (c : Chip) (a : SetupAcc) : Chip :=
  c.regStore 0xA00010 a (fun f x =>
      let old := c.rf 0xA00010 f.hi f.lo
      if f.lo < 16 ∧ x ≠ old ∧ [0, 1, 2, 3].any (fun s => (c.portAt (2 * f.lo + s)).up) then some (old, 7) else none)
    (toBank 0xA00010)

/-- HAUL_UDP (R530): it changes only while every sub-port is down, and never to RoCEv2's port. -/
def Chip.doHaulUdp (c : Chip) (a : SetupAcc) : Chip :=
  c.regStore 0xA00000 a (fun f x =>
      if f.lo = 0 ∧ x ≠ c.haulUdp ∧ (x = 4791 ∨ (List.range 32).any (fun s => (c.portAt s).up)) then some (c.haulUdp, 7) else none)
    (toBank 0xA00000)

/-! Periodic queues (15 R410, R532) -/

/-- PERIOD and ITEMS of a submission ring (15 R410): the present period, if there is one, ends at once, and the next begins. -/
def Chip.doPeriod (c : Chip) (r : Nat) (a : SetupAcc) : Chip :=
  c.regStore (0xC00000 + 8 * r) a (fun f x =>
      if f.lo ≠ 0 then none else if 1 ≤ x ∧ x < 10 then some (10, 1) else if 10000000 < x then some (10000000, 2) else none)
    (fun d v =>
      let e := toBank (0xC00000 + 8 * r) d v
      if c.sqPeriod r ≠ 0 then e.endPeriod r d.dispatch
      else (e.setSq r { e.sqAt r with perSince := d.dispatch, perUsed := 0 }).pump r)

/-! Paired capture (R527) -/

/-- CAP_GO (R527). -/
def Chip.doCapGo (c : Chip) (a : SetupAcc) : Chip :=
  c.regStore 0x700018 a noLock (fun d v => if a.half = some true then d else d.capStart v)

/-! Every other field (R509, R513, R514) -/

/-- Some field of a register can be written. -/
def anyWritable (flds : List Fld) : Bool := flds.any (fun f => f.kind != .ro && f.kind != .rsvd && f.kind != .wo)

/-- Addresses that no table assigns (R513); REG_ADDR, which a command of its own writes, and the reserved words of a tile's stall block are
assigned (Tables 21.5, 21.16). -/
def unassigned (off : Nat) : Bool := regFlds off == [fRsv 63 0] && off != 0x200000 && !(decide (0xD00000 ≤ off) && decide (off < 0xD0C800))

/-- A field without behaviour of its own: judged and stored (R509). The management window's base is written by the domain's manager alone, and
the arguments of a call not while RESULT is BUSY (R521). -/
def Chip.plainWrite (c : Chip) (off : Nat) (a : SetupAcc) : Chip :=
  c.regStore off a
    (fun f x =>
      if (off = 0xB00008 ∨ off = 0xB00010) ∧ f.lo = 21 ∧ !c.boot.manager ∧ x ≠ c.rf off 51 21 then some (c.rf off 51 21, 7)
      else if (off = 0x100010 ∨ off = 0x100018 ∨ off = 0x100020) ∧ c.fw.mbox.result = 1 then some (c.regRead off, 7) else none)
    (fun d v =>
      if off = 0x30 then d.modLog (fun l => { l with gintCore := bits v 16 11, gintId := bits v 10 0 })
      else if off = 0x100010 then d.modFw (fun w => { w with mbox := { w.mbox with arg0 := v } })
      else if off = 0x100018 then d.modFw (fun w => { w with mbox := { w.mbox with arg1 := v } })
      else if off = 0x100020 then d.modFw (fun w => { w with mbox := { w.mbox with arg2 := v } })
      else if anyWritable (regFlds off) then toBank off d v
      else d)

/-- A write of CODE (R521, 15 Table 15.1): a value that is no call gives BAD_CALL. LOAD and UPDATE are commands of their own, which carry
what the cryptography finds. -/
def Chip.codeWrite (c : Chip) (a : SetupAcc) : Chip :=
  let busy := c.fw.mbox.result == 1
  c.regStore 0x100000 a (fun f _ => if busy && f.lo == 0 then some (0, 7) else none) (fun d v =>
    if a.half = some true ∨ busy then d
    else match v % 256 with
      | 1 => d
      | 2 => d.doAttach
      | 3 => d.doHandover
      | 4 => d
      | 5 => d.doQuery
      | n => d.callEnd n 9)

/-- A write of the register at an offset, whichever it is. -/
def Chip.regAnyWrite (c : Chip) (off : Nat) (a : SetupAcc) : Chip :=
  if off = 0x20 then c.doGevent a
  else if off = 0x28 then c.doGeventEn a
  else if off = 0x100000 then c.codeWrite a
  else if off = 0x200000 then c.doRegistration 0 a 0
  else if off = 0x400060 then c.doTileGroup a
  else if off = 0x400068 then c.doCoreOff a
  else if off = 0x400070 then c.srStore a
  else if off = 0x400078 then c.doSubportDis a
  else if off = 0x400088 then c.doFacCapAck a
  else if off = 0x500000 then c.doTeleBase a
  else if off = 0x500018 then c.doLogBase false a
  else if off = 0x500020 then c.doLogBase true a
  else if off = 0x500030 then c.doLogHead a
  else if off = 0x600000 then c.pairStore a
  else if off = 0x600030 then c.doSnapDone a
  else if off = 0x600050 then c.doCkptAddr a
  else if off = 0x600058 then c.doTileRepair a
  else if off = 0x700018 then c.doCapGo a
  else if off = 0xA00000 then c.doHaulUdp a
  else if off = 0xA00010 then c.doMode a
  else if 0xC00000 ≤ off ∧ off < 0xC02000 then c.doPeriod ((off - 0xC00000) / 8) a
  else c.plainWrite off a

/-- SETUP_WRITE (R509, R513, R514): a write anywhere in the setup region but the doorbells, which have commands of their own. An access of a width or alignment outside 12 Table 12.2 changes nothing and is reported once. -/
def Chip.doSetupWrite (c : Chip) (addr : BitVec 52) (bytes : BitVec 8) (value : BitVec 64) (writer : BitVec 32) : Chip :=
  let at_ := addr.toNat - setupBase
  let off := at_ / 8 * 8
  let n := bytes.toNat
  if addr.toNat < setupBase ∨ 0xF80000000000 ≤ addr.toNat ∨ (0x40000000 ≤ at_ ∧ at_ < 0x40800000) ∨
      !reachesSetup writer.toNat then c
  else if (n ≠ 4 ∧ n ≠ 8) ∨ addr.toNat % n ≠ 0 then
    (c.cfgReport addr.toNat (value.toNat % 2 ^ (8 * n)) (c.regRead off) 8 (c.freeVal % 64) (Config.freeValue (c.free + 1) % 256) writer.toNat).took 2
  else if unassigned off then c.cfgReport addr.toNat (value.toNat % 2 ^ (8 * n)) 0 6 0 64 writer.toNat
  else c.regAnyWrite off { value := value, half := if n = 8 then none else some (at_ % 8 == 4), writer := writer }

end Sys2Proof.Machine
end

