-- ==== Sys2Proof/Machine/Exec.lean ====
section
/-!
DEFINITION. The meaning of each command on the whole state: its family's operation on the package, the queue and whatever
the command does not name left as they are. A command of a unit that has power only in service acts only then (20 R503, R505).
-/

namespace Sys2Proof.Machine

/-- A command's effect on the package and on management flash, the queue left as it is. -/
def State.onBoth (s : State) (f : Chip → Secure → Chip × Secure) : Host.Outcome State Fault Refusal :=
  .next { s with chip := (f s.chip s.sec).1, sec := (f s.chip s.sec).2 }

/-- A command's effect on the package, everything else left as it is. -/
def State.onChip (s : State) (f : Chip → Chip) : Host.Outcome State Fault Refusal := .next { s with chip := f s.chip }

/-- A command of a unit that works only in service: before self-test has passed, in the safe state and without power nothing answers
it (20 R503, R505). -/
def State.liveChip (s : State) (f : Chip → Chip) : Host.Outcome State Fault Refusal := if s.chip.live then s.onChip f else .next s

/-- Such a command with an effect on management flash. -/
def State.liveBoth (s : State) (f : Chip → Secure → Chip × Secure) : Host.Outcome State Fault Refusal :=
  if s.chip.live then s.onBoth f else .next s

/-- FLIT_RECEIVE (R17): `Chip.doFlitReceive`. -/
def execFlitReceive (l : Fin 13) (rev : Bool) (g : Fin 5) (seq : Nat) (crc : Bool) (lane : Option (Fin 66)) (s : State) : Host.Outcome State Fault Refusal :=
  s.liveChip (fun c => c.doFlitReceive l.val rev g.val seq crc lane)

/-- LANE_REPAIR (R18): `Chip.doLaneRepair`. -/
def execLaneRepair (l : Fin 13) (rev : Bool) (g : Fin 5) (lane : Fin 66) (s : State) : Host.Outcome State Fault Refusal :=
  s.liveChip (fun c => c.doLaneRepair l.val rev g.val lane.val)

/-- LANE_REPAIR_DONE (R18): `Chip.doLaneRepairDone`. -/
def execLaneRepairDone (l : Fin 13) (rev : Bool) (g : Fin 5) (s : State) : Host.Outcome State Fault Refusal :=
  s.liveChip (fun c => c.doLaneRepairDone l.val rev g.val)

/-- CAPTURE (R31): `Chip.doCapture`. -/
def execCapture (sq : Fin 1024) (s : State) : Host.Outcome State Fault Refusal :=
  s.guarded [10, sq.val] (.capture sq) (fun c => c.doCapture sq.val)

/-- CAP_GO (R527): `Chip.doCapGo`. -/
def execCapGo (a : SetupAcc) (s : State) : Host.Outcome State Fault Refusal :=
  s.guarded [22] (.capGo a) (fun c => c.doCapGo a)

/-- CAPTURE_EXECUTE (R30): `Chip.doCaptureExecute`. -/
def execCaptureExecute (s : State) : Host.Outcome State Fault Refusal :=
  s.guarded [19] .captureExecute (fun c => c.doCaptureExecute)

/-- NOP (R181): `Chip.doNop`. -/
def execNop (t : Fin 200) (w : BitVec 64) (s : State) : Host.Outcome State Fault Refusal :=
  s.liveChip (fun c => c.doNop t.val w)

/-- ALU (R181): `Chip.doAlu`. -/
def execAlu (t : Fin 200) (w : BitVec 64) (s : State) : Host.Outcome State Fault Refusal :=
  s.liveChip (fun c => c.doAlu t.val w)

/-- ALUI (R181): `Chip.doAlui`. -/
def execAlui (t : Fin 200) (w : BitVec 64) (s : State) : Host.Outcome State Fault Refusal :=
  s.liveChip (fun c => c.doAlui t.val w)

/-- LI (R181): `Chip.doLi`. -/
def execLi (t : Fin 200) (w : BitVec 64) (s : State) : Host.Outcome State Fault Refusal :=
  s.liveChip (fun c => c.doLi t.val w)

/-- LIH (R181): `Chip.doLih`. -/
def execLih (t : Fin 200) (w : BitVec 64) (s : State) : Host.Outcome State Fault Refusal :=
  s.liveChip (fun c => c.doLih t.val w)

/-- LD (R182): `Chip.doLd`. -/
def execLd (t : Fin 200) (w : BitVec 64) (s : State) : Host.Outcome State Fault Refusal :=
  s.liveChip (fun c => c.doLd t.val w)

/-- ST (R182): `Chip.doSt`. -/
def execSt (t : Fin 200) (w : BitVec 64) (s : State) : Host.Outcome State Fault Refusal :=
  s.liveChip (fun c => c.doSt t.val w)

/-- BR (R181): `Chip.doBr`. -/
def execBr (t : Fin 200) (w : BitVec 64) (s : State) : Host.Outcome State Fault Refusal :=
  s.liveChip (fun c => c.doBr t.val w)

/-- JAL (R181): `Chip.doJal`. -/
def execJal (t : Fin 200) (w : BitVec 64) (s : State) : Host.Outcome State Fault Refusal :=
  s.liveChip (fun c => c.doJal t.val w)

/-- JALR (R181): `Chip.doJalr`. -/
def execJalr (t : Fin 200) (w : BitVec 64) (s : State) : Host.Outcome State Fault Refusal :=
  s.liveChip (fun c => c.doJalr t.val w)

/-- HALT (R184): `Chip.doHalt`. -/
def execHalt (t : Fin 200) (w : BitVec 64) (s : State) : Host.Outcome State Fault Refusal :=
  s.liveChip (fun c => c.doHalt t.val w)

/-- BREAK (R181): `Chip.doBrk`. -/
def execBrk (t : Fin 200) (w : BitVec 64) (s : State) : Host.Outcome State Fault Refusal :=
  s.liveChip (fun c => c.doBrk t.val w)

/-- RSR (R183): `Chip.doRsr`. -/
def execRsr (t : Fin 200) (w : BitVec 64) (s : State) : Host.Outcome State Fault Refusal :=
  s.liveChip (fun c => c.doRsr t.val w)

/-- WSR (R183): `Chip.doWsr`. -/
def execWsr (t : Fin 200) (w : BitVec 64) (s : State) : Host.Outcome State Fault Refusal :=
  s.liveChip (fun c => c.doWsr t.val w)

/-- SOSIGNAL (R186): `Chip.doSosignal`. -/
def execSosignal (t : Fin 200) (w : BitVec 64) (s : State) : Host.Outcome State Fault Refusal :=
  s.liveChip (fun c => c.doSosignal t.val w)

/-- SOSET (R186): `Chip.doSoset`. -/
def execSoset (t : Fin 200) (w : BitVec 64) (s : State) : Host.Outcome State Fault Refusal :=
  s.liveChip (fun c => c.doSoset t.val w)

/-- SOWAIT (R187): `Chip.doSowait`. -/
def execSowait (t : Fin 200) (w : BitVec 64) (s : State) : Host.Outcome State Fault Refusal :=
  s.liveChip (fun c => c.doSowait t.val w)

/-- SOREAD (R187): `Chip.doSoread`. -/
def execSoread (t : Fin 200) (w : BitVec 64) (s : State) : Host.Outcome State Fault Refusal :=
  s.liveChip (fun c => c.doSoread t.val w)

/-- HELD_SIGNAL_SEND (R186): `Chip.doHeldSignalSend`. -/
def execHeldSignalSend (t : Fin 200) (s : State) : Host.Outcome State Fault Refusal :=
  s.liveChip (fun c => c.doHeldSignalSend t.val)

/-- SOWAIT_TIMEOUT (R187): `Chip.doSowaitTimeout`. -/
def execSowaitTimeout (t : Fin 200) (s : State) : Host.Outcome State Fault Refusal :=
  s.liveChip (fun c => c.doSowaitTimeout t.val)

/-- WORK_ITEM_DONE (R184): `Chip.doWorkItemDone`. -/
def execWorkItemDone (t : Fin 200) (s : State) : Host.Outcome State Fault Refusal :=
  s.liveChip (fun c => c.doWorkItemDone t.val)

/-- ASYNC_EXCEPTION (R68): `Chip.doAsyncException`. -/
def execAsyncException (t : Fin 200) (s : State) : Host.Outcome State Fault Refusal :=
  s.liveChip (fun c => c.doAsyncException t.val)

/-- COPY (R77): `Chip.doCopy`. -/
def execCopy (t : Fin 200) (w : BitVec 64) (s : State) : Host.Outcome State Fault Refusal :=
  s.liveChip (fun c => c.doCopy t.val w)

/-- SKEW (R78): `Chip.doSkew`. -/
def execSkew (t : Fin 200) (w : BitVec 64) (s : State) : Host.Outcome State Fault Refusal :=
  s.liveChip (fun c => c.doSkew t.val w)

/-- SKEWT (R78): `Chip.doSkewt`. -/
def execSkewt (t : Fin 200) (w : BitVec 64) (s : State) : Host.Outcome State Fault Refusal :=
  s.liveChip (fun c => c.doSkewt t.val w)

/-- STAT (R79): `Chip.doStat`. -/
def execStat (t : Fin 200) (w : BitVec 64) (s : State) : Host.Outcome State Fault Refusal :=
  s.liveChip (fun c => c.doStat t.val w)

/-- STATT (R79): `Chip.doStatt`. -/
def execStatt (t : Fin 200) (w : BitVec 64) (s : State) : Host.Outcome State Fault Refusal :=
  s.liveChip (fun c => c.doStatt t.val w)

/-- FILL (R77): `Chip.doFill`. -/
def execFill (t : Fin 200) (w : BitVec 64) (s : State) : Host.Outcome State Fault Refusal :=
  s.liveChip (fun c => c.doFill t.val w)

/-- LOADI (R191): `Chip.doLoadi`. -/
def execLoadi (t : Fin 200) (w : BitVec 64) (s : State) : Host.Outcome State Fault Refusal :=
  s.liveChip (fun c => c.doLoadi t.val w)

/-- ACCSAVE (R138): `Chip.doAccsave`. -/
def execAccsave (t : Fin 200) (w : BitVec 64) (s : State) : Host.Outcome State Fault Refusal :=
  s.liveChip (fun c => c.doAccsave t.val w)

/-- ACCRESTORE (R138): `Chip.doAccrestore`. -/
def execAccrestore (t : Fin 200) (w : BitVec 64) (s : State) : Host.Outcome State Fault Refusal :=
  s.liveChip (fun c => c.doAccrestore t.val w)

/-- MWAIT (R189): `Chip.doMwait`. -/
def execMwait (t : Fin 200) (w : BitVec 64) (s : State) : Host.Outcome State Fault Refusal :=
  s.liveChip (fun c => c.doMwait t.val w)

/-- MOVER_OP_COMPLETE (R80): `Chip.doMoverOpComplete`. -/
def execMoverOpComplete (t : Fin 200) (tok : Fin 16) (s : State) : Host.Outcome State Fault Refusal :=
  s.guarded [2, t.val, tok.val] (.moverOpComplete t tok) (fun c => c.doMoverOpComplete t.val tok.val)

/-- MLOAD (R101): `Chip.doMload`. -/
def execMload (t : Fin 200) (w : BitVec 64) (s : State) : Host.Outcome State Fault Refusal :=
  s.liveChip (fun c => c.doMload t.val w)

/-- MMUL (R94): `Chip.doMmul`. -/
def execMmul (t : Fin 200) (w : BitVec 64) (s : State) : Host.Outcome State Fault Refusal :=
  s.liveChip (fun c => c.doMmul t.val w)

/-- MVMUL (R106): `Chip.doMvmul`. -/
def execMvmul (t : Fin 200) (w : BitVec 64) (s : State) : Host.Outcome State Fault Refusal :=
  s.liveChip (fun c => c.doMvmul t.val w)

/-- AWAIT (R192): `Chip.doAwait`. -/
def execAwait (t : Fin 200) (w : BitVec 64) (s : State) : Host.Outcome State Fault Refusal :=
  s.liveChip (fun c => c.doAwait t.val w)

/-- LOAD_START (R99): `Chip.doLoadStart`. -/
def execLoadStart (t : Fin 200) (s : State) : Host.Outcome State Fault Refusal :=
  s.liveChip (fun c => c.doLoadStart t.val)

/-- PASS_START (R99): `Chip.doPassStart`. -/
def execPassStart (t : Fin 200) (s : State) : Host.Outcome State Fault Refusal :=
  s.liveChip (fun c => c.doPassStart t.val)

/-- ARRAY_STEP (R91): `Chip.doArrayStep`. -/
def execArrayStep (t : Fin 200) (s : State) : Host.Outcome State Fault Refusal :=
  s.liveChip (fun c => c.doArrayStep t.val)

/-- PASS_COMPLETE (R96): `Chip.doPassComplete`. -/
def execPassComplete (t : Fin 200) (s : State) : Host.Outcome State Fault Refusal :=
  s.liveChip (fun c => c.doPassComplete t.val)

/-- MVMUL_COMPLETE (R107): `Chip.doMvmulComplete`. -/
def execMvmulComplete (t : Fin 200) (s : State) : Host.Outcome State Fault Refusal :=
  s.liveChip (fun c => c.doMvmulComplete t.val)

/-- ARRAY_HW_FAULT (R117): `Chip.doArrayHwFault`. -/
def execArrayHwFault (t : Fin 200) (mvp : Bool) (s : State) : Host.Outcome State Fault Refusal :=
  s.liveChip (fun c => c.doArrayHwFault t.val mvp)

/-- PREEMPT_REQUEST (R112): `Chip.doPreemptRequest`. -/
def execPreemptRequest (t : Fin 200) (s : State) : Host.Outcome State Fault Refusal :=
  s.liveChip (fun c => c.doPreemptRequest t.val)

/-- ARRAY_STOPPED (R112): `Chip.doArrayStopped`. -/
def execArrayStopped (t : Fin 200) (s : State) : Host.Outcome State Fault Refusal :=
  s.guarded [1, t.val] (.arrayStopped t) (fun c => c.doArrayStopped t.val)

/-- TILE_RESUME (R114): `Chip.doTileResume`. -/
def execTileResume (t : Fin 200) (s : State) : Host.Outcome State Fault Refusal :=
  s.guarded [1, t.val] (.tileResume t) (fun c => c.doTileResume t.val)

/-- PAUSE_SEGMENT_END (R466): `Chip.doPauseSegmentEnd`. -/
def execPauseSegmentEnd (t : Fin 200) (s : State) : Host.Outcome State Fault Refusal :=
  s.liveChip (fun c => c.doPauseSegmentEnd t.val)

/-- ADD (R162): `Chip.doVadd`. -/
def execVadd (t : Fin 200) (w : BitVec 64) (s : State) : Host.Outcome State Fault Refusal :=
  s.liveChip (fun c => c.doVadd t.val w)

/-- MUL (R162): `Chip.doVmul`. -/
def execVmul (t : Fin 200) (w : BitVec 64) (s : State) : Host.Outcome State Fault Refusal :=
  s.liveChip (fun c => c.doVmul t.val w)

/-- FMA (R162): `Chip.doVfma`. -/
def execVfma (t : Fin 200) (w : BitVec 64) (s : State) : Host.Outcome State Fault Refusal :=
  s.liveChip (fun c => c.doVfma t.val w)

/-- MIN (R162): `Chip.doVmin`. -/
def execVmin (t : Fin 200) (w : BitVec 64) (s : State) : Host.Outcome State Fault Refusal :=
  s.liveChip (fun c => c.doVmin t.val w)

/-- MAX (R162): `Chip.doVmax`. -/
def execVmax (t : Fin 200) (w : BitVec 64) (s : State) : Host.Outcome State Fault Refusal :=
  s.liveChip (fun c => c.doVmax t.val w)

/-- MINNUM (R162): `Chip.doVminnum`. -/
def execVminnum (t : Fin 200) (w : BitVec 64) (s : State) : Host.Outcome State Fault Refusal :=
  s.liveChip (fun c => c.doVminnum t.val w)

/-- MAXNUM (R162): `Chip.doVmaxnum`. -/
def execVmaxnum (t : Fin 200) (w : BitVec 64) (s : State) : Host.Outcome State Fault Refusal :=
  s.liveChip (fun c => c.doVmaxnum t.val w)

/-- CMP (R164): `Chip.doVcmp`. -/
def execVcmp (t : Fin 200) (w : BitVec 64) (s : State) : Host.Outcome State Fault Refusal :=
  s.liveChip (fun c => c.doVcmp t.val w)

/-- SEL (R164): `Chip.doVsel`. -/
def execVsel (t : Fin 200) (w : BitVec 64) (s : State) : Host.Outcome State Fault Refusal :=
  s.liveChip (fun c => c.doVsel t.val w)

/-- CVT (R166): `Chip.doVcvt`. -/
def execVcvt (t : Fin 200) (w : BitVec 64) (s : State) : Host.Outcome State Fault Refusal :=
  s.liveChip (fun c => c.doVcvt t.val w)

/-- FTEVAL (R172): `Chip.doFteval`. -/
def execFteval (t : Fin 200) (w : BitVec 64) (s : State) : Host.Outcome State Fault Refusal :=
  s.liveChip (fun c => c.doFteval t.val w)

/-- RSUM (R169): `Chip.doRsum`. -/
def execRsum (t : Fin 200) (w : BitVec 64) (s : State) : Host.Outcome State Fault Refusal :=
  s.liveChip (fun c => c.doRsum t.val w)

/-- RSSQ (R169): `Chip.doRssq`. -/
def execRssq (t : Fin 200) (w : BitVec 64) (s : State) : Host.Outcome State Fault Refusal :=
  s.liveChip (fun c => c.doRssq t.val w)

/-- RMOM (R169): `Chip.doRmom`. -/
def execRmom (t : Fin 200) (w : BitVec 64) (s : State) : Host.Outcome State Fault Refusal :=
  s.liveChip (fun c => c.doRmom t.val w)

/-- MCOMB (R142): `Chip.doMcomb`. -/
def execMcomb (t : Fin 200) (w : BitVec 64) (s : State) : Host.Outcome State Fault Refusal :=
  s.liveChip (fun c => c.doMcomb t.val w)

/-- MVARP (R143): `Chip.doMvarp`. -/
def execMvarp (t : Fin 200) (w : BitVec 64) (s : State) : Host.Outcome State Fault Refusal :=
  s.liveChip (fun c => c.doMvarp t.val w)

/-- MVARS (R143): `Chip.doMvars`. -/
def execMvars (t : Fin 200) (w : BitVec 64) (s : State) : Host.Outcome State Fault Refusal :=
  s.liveChip (fun c => c.doMvars t.val w)

/-- PERM (R170): `Chip.doPerm`. -/
def execPerm (t : Fin 200) (w : BitVec 64) (s : State) : Host.Outcome State Fault Refusal :=
  s.liveChip (fun c => c.doPerm t.val w)

/-- PERMF (R170): `Chip.doPermf`. -/
def execPermf (t : Fin 200) (w : BitVec 64) (s : State) : Host.Outcome State Fault Refusal :=
  s.liveChip (fun c => c.doPermf t.val w)

/-- RMASK (R168): `Chip.doRmask`. -/
def execRmask (t : Fin 200) (w : BitVec 64) (s : State) : Host.Outcome State Fault Refusal :=
  s.liveChip (fun c => c.doRmask t.val w)

/-- RDROP (R168): `Chip.doRdrop`. -/
def execRdrop (t : Fin 200) (w : BitVec 64) (s : State) : Host.Outcome State Fault Refusal :=
  s.liveChip (fun c => c.doRdrop t.val w)

/-- RUNIF (R168): `Chip.doRunif`. -/
def execRunif (t : Fin 200) (w : BitVec 64) (s : State) : Host.Outcome State Fault Refusal :=
  s.liveChip (fun c => c.doRunif t.val w)

/-- VLD (R163): `Chip.doVld`. -/
def execVld (t : Fin 200) (w : BitVec 64) (s : State) : Host.Outcome State Fault Refusal :=
  s.liveChip (fun c => c.doVld t.val w)

/-- VST (R163): `Chip.doVst`. -/
def execVst (t : Fin 200) (w : BitVec 64) (s : State) : Host.Outcome State Fault Refusal :=
  s.liveChip (fun c => c.doVst t.val w)

/-- VLDA (R163): `Chip.doVlda`. -/
def execVlda (t : Fin 200) (w : BitVec 64) (s : State) : Host.Outcome State Fault Refusal :=
  s.liveChip (fun c => c.doVlda t.val w)

/-- VSTA (R163): `Chip.doVsta`. -/
def execVsta (t : Fin 200) (w : BitVec 64) (s : State) : Host.Outcome State Fault Refusal :=
  s.liveChip (fun c => c.doVsta t.val w)

/-- VBCAST (R162): `Chip.doVbcast`. -/
def execVbcast (t : Fin 200) (w : BitVec 64) (s : State) : Host.Outcome State Fault Refusal :=
  s.liveChip (fun c => c.doVbcast t.val w)

/-- VEXT (R162): `Chip.doVext`. -/
def execVext (t : Fin 200) (w : BitVec 64) (s : State) : Host.Outcome State Fault Refusal :=
  s.liveChip (fun c => c.doVext t.val w)

/-- VINS (R162): `Chip.doVins`. -/
def execVins (t : Fin 200) (w : BitVec 64) (s : State) : Host.Outcome State Fault Refusal :=
  s.liveChip (fun c => c.doVins t.val w)

/-- MAND (R162): `Chip.doMand`. -/
def execMand (t : Fin 200) (w : BitVec 64) (s : State) : Host.Outcome State Fault Refusal :=
  s.liveChip (fun c => c.doMand t.val w)

/-- MOR (R162): `Chip.doMor`. -/
def execMor (t : Fin 200) (w : BitVec 64) (s : State) : Host.Outcome State Fault Refusal :=
  s.liveChip (fun c => c.doMor t.val w)

/-- MXOR (R162): `Chip.doMxor`. -/
def execMxor (t : Fin 200) (w : BitVec 64) (s : State) : Host.Outcome State Fault Refusal :=
  s.liveChip (fun c => c.doMxor t.val w)

/-- MANDN (R162): `Chip.doMandn`. -/
def execMandn (t : Fin 200) (w : BitVec 64) (s : State) : Host.Outcome State Fault Refusal :=
  s.liveChip (fun c => c.doMandn t.val w)

/-- MSET (R162): `Chip.doMset`. -/
def execMset (t : Fin 200) (w : BitVec 64) (s : State) : Host.Outcome State Fault Refusal :=
  s.liveChip (fun c => c.doMset t.val w)

/-- MGET (R162): `Chip.doMget`. -/
def execMget (t : Fin 200) (w : BitVec 64) (s : State) : Host.Outcome State Fault Refusal :=
  s.liveChip (fun c => c.doMget t.val w)

/-- SETVL (R162): `Chip.doSetvl`. -/
def execSetvl (t : Fin 200) (w : BitVec 64) (s : State) : Host.Outcome State Fault Refusal :=
  s.liveChip (fun c => c.doSetvl t.val w)

/-- VECTOR_WAIT (R150): `Chip.doVectorWait`. -/
def execVectorWait (t : Fin 200) (s : State) : Host.Outcome State Fault Refusal :=
  s.liveChip (fun c => c.doVectorWait t.val)

/-- VECTOR_COMPLETE (R150): `Chip.doVectorComplete`. -/
def execVectorComplete (t : Fin 200) (s : State) : Host.Outcome State Fault Refusal :=
  s.liveChip (fun c => c.doVectorComplete t.val)

/-- FT_WRITE (R173): `Chip.doFtWrite`. -/
def execFtWrite (t : Fin 200) (k : Fin 4) (i : Fin 258) (d : BitVec 128) (s : State) : Host.Outcome State Fault Refusal :=
  s.liveChip (fun c => c.doFtWrite t.val k.val i.val d)

/-- FT_FLIP_REQUEST (R173): `Chip.doFtFlipRequest`. -/
def execFtFlipRequest (t : Fin 200) (k : Fin 4) (s : State) : Host.Outcome State Fault Refusal :=
  s.liveChip (fun c => c.doFtFlipRequest t.val k.val)

/-- FT_FLIP (R174): `Chip.doFtFlip`. -/
def execFtFlip (t : Fin 200) (k : Fin 4) (s : State) : Host.Outcome State Fault Refusal :=
  s.liveChip (fun c => c.doFtFlip t.val k.val)

/-- SIGNAL (R86): `Chip.doHomeSignal`. -/
def execHomeSignal (ctx : Fin 64) (n : Fin 16384) (v : BitVec 32) (haul : Bool) (s : State) : Host.Outcome State Fault Refusal :=
  s.liveChip (fun c => c.doHomeSignal ctx.val n.val v haul)

/-- SET (R86): `Chip.doHomeSet`. -/
def execHomeSet (ctx : Fin 64) (n : Fin 16384) (v : BitVec 32) (s : State) : Host.Outcome State Fault Refusal :=
  s.liveChip (fun c => c.doHomeSet ctx.val n.val v)

/-- WAIT (R88): `Chip.doHomeWait`. -/
def execHomeWait (ctx : Fin 64) (n : Fin 16384) (target : BitVec 32) (tile : Option (Fin 200)) (key : Nat) (s : State) : Host.Outcome State Fault Refusal :=
  s.liveChip (fun c => c.doHomeWait ctx.val n.val target tile key)

/-- READ (R86): `Chip.doHomeRead`. -/
def execHomeRead (ctx : Fin 64) (n : Fin 16384) (s : State) : Host.Outcome State Fault Refusal :=
  s.liveChip (fun c => c.doHomeRead ctx.val n.val)

/-- READ_SHARED (R229): `Chip.doReadShared`. -/
def execReadShared (h : Fin 69) (pa : BitVec 52) (own : Option LineCopy) (fill : Fill) (s : State) : Host.Outcome State Fault Refusal :=
  s.toHome h.val pa.toNat (.readShared h pa own fill) (fun c => c.doReadShared h.val pa own fill.err fill.use)

/-- READ_UNIQUE (R229): `Chip.doReadUnique`. -/
def execReadUnique (h : Fin 69) (pa : BitVec 52) (own : Option LineCopy) (fill : Fill) (s : State) : Host.Outcome State Fault Refusal :=
  s.toHome h.val pa.toNat (.readUnique h pa own fill) (fun c => c.doReadUnique h.val pa own fill.err fill.use)

/-- UPGRADE (R229): `Chip.doUpgrade`. -/
def execUpgrade (h : Fin 69) (pa : BitVec 52) (own : Option LineCopy) (err : MemErr) (s : State) : Host.Outcome State Fault Refusal :=
  s.toHome h.val pa.toNat (.upgrade h pa own err) (fun c => c.doUpgrade h.val pa own err)

/-- WRITE_BACK (R228): `Chip.doWriteBack`. -/
def execWriteBack (h : Fin 69) (pa : BitVec 52) (copy : LineCopy) (s : State) : Host.Outcome State Fault Refusal :=
  s.toHome h.val pa.toNat (.writeBack h pa copy) (fun c => c.doWriteBack h.val pa copy)

/-- EVICT (R228): `Chip.doEvict`. -/
def execEvict (h : Fin 69) (pa : BitVec 52) (s : State) : Host.Outcome State Fault Refusal :=
  s.toHome h.val pa.toNat (.evict h pa) (fun c => c.doEvict h.val pa)

/-- READ_ONCE (R229): `Chip.doReadOnce`. -/
def execReadOnce (src : BitVec 16) (pa : BitVec 52) (own : Option LineCopy) (err : MemErr) (s : State) : Host.Outcome State Fault Refusal :=
  s.toHome (agentOf src.toNat) pa.toNat (.readOnce src pa own err) (fun c => c.doReadOnce src pa own err)

/-- WRITE_FULL (R229): `Chip.doWriteFull`. -/
def execWriteFull (src : BitVec 16) (pa : BitVec 52) (d : BitVec 512) (poison : Bool) (hint : BitVec 16) (s : State) : Host.Outcome State Fault Refusal :=
  s.toHome (agentOf src.toNat) pa.toNat (.writeFull src pa d poison hint) (fun c => c.doWriteFull src pa d poison hint)

/-- WRITE_PARTIAL (R229): `Chip.doWritePartial`. -/
def execWritePartial (src : BitVec 16) (pa : BitVec 52) (d : BitVec 512) (mask : BitVec 64) (poison : Bool) (hint : BitVec 16) (own : Option LineCopy) (err : MemErr) (s : State) : Host.Outcome State Fault Refusal :=
  s.toHome (agentOf src.toNat) pa.toNat (.writePartial src pa d mask poison hint own err) (fun c => c.doWritePartial src pa d mask poison hint own err)

/-- LEDGE_OP (R240): `Chip.doLedgeOp`. -/
def execLedgeOp (pa : BitVec 52) (op : LineOp) (own : Option LineCopy) (err : MemErr) (s : State) : Host.Outcome State Fault Refusal :=
  s.toHome (agentOf (srcLedge (ledgeOfChan (s.chip.mem.chanOf pa.toNat)))) pa.toNat (.ledgeOp pa op own err) (fun c => c.doLedgeOp pa op own err)

/-- TRANSACTION_COMPLETE (R231): `Chip.doTransactionComplete`. -/
def execTransactionComplete (pa : BitVec 52) (s : State) : Host.Outcome State Fault Refusal :=
  s.liveChip (fun c => c.doTransactionComplete pa)

/-- SNOOP_TIMEOUT (R235): `Chip.doSnoopTimeout`. -/
def execSnoopTimeout (pa : BitVec 52) (h : Fin 69) (s : State) : Host.Outcome State Fault Refusal :=
  s.liveChip (fun c => c.doSnoopTimeout pa h.val)

/-- HINT_DROPPED (R238): `Chip.doHintDropped`. -/
def execHintDropped (pa : BitVec 52) (s : State) : Host.Outcome State Fault Refusal :=
  s.liveChip (fun c => c.doHintDropped pa)

/-- CHANNEL_RETRY (R211): `Chip.doChannelRetry`. -/
def execChannelRetry (pa : BitVec 52) (nth : Fin 3) (persists : Bool) (s : State) : Host.Outcome State Fault Refusal :=
  s.liveChip (fun c => c.doChannelRetry pa nth.val persists)

/-- SCRUB_READ (R213): `Chip.doScrubRead`. -/
def execScrubRead (ch : Fin 400) (turn : ScrubTurn) (s : State) : Host.Outcome State Fault Refusal :=
  s.liveChip (fun c => c.doScrubRead ch.val turn.err turn.ns turn.waiting)

/-- SCRUB_BEHIND (R215): `Chip.doScrubBehind`. -/
def execScrubBehind (ch : Fin 400) (s : State) : Host.Outcome State Fault Refusal :=
  s.liveChip (fun c => c.doScrubBehind ch.val)

/-- REFRESH (R218): `Chip.doRefresh`. -/
def execRefresh (ch : Fin 400) (allBanks : Bool) (ns : Nat) (s : State) : Host.Outcome State Fault Refusal :=
  s.liveChip (fun c => c.doRefresh ch.val allBanks ns)

/-- RFM (R216): `Chip.doRfm`. -/
def execRfm (ch : Fin 400) (bank : Fin 64) (acts ns : Nat) (s : State) : Host.Outcome State Fault Refusal :=
  s.liveChip (fun c => c.doRfm ch.val bank.val acts ns)

/-- CALIBRATION (R218): `Chip.doCalibration`. -/
def execCalibration (ch : Fin 400) (burst : Burst) (s : State) : Host.Outcome State Fault Refusal :=
  s.liveChip (fun c => c.doCalibration ch.val burst.ns burst.waiting)

/-- BACKGROUND_WINDOW (R217): `Chip.doBackgroundWindow`. -/
def execBackgroundWindow (ch : Fin 400) (w : WindowEnd) (s : State) : Host.Outcome State Fault Refusal :=
  s.liveChip (fun c => c.doBackgroundWindow ch.val w.ns w.hot)

/-- MEM_CE (R222): `Chip.doMemCe`. -/
def execMemCe (ch : Fin 400) (s : State) : Host.Outcome State Fault Refusal :=
  s.liveChip (fun c => c.doMemCe ch.val)

/-- LEDGE_NOTIFY (R253): `Chip.doLedgeNotify`. -/
def execLedgeNotify (lq : Fin 320) (s : State) : Host.Outcome State Fault Refusal :=
  s.guarded [3, lq.val] (.ledgeNotify lq) (fun c => c.doLedgeNotify lq.val)

/-- LEDGE_AHEAD (R254): `Chip.doLedgeAhead`. -/
def execLedgeAhead (lq : Fin 320) (s : State) : Host.Outcome State Fault Refusal :=
  s.guarded [3, lq.val] (.ledgeAhead lq) (fun c => c.doLedgeAhead lq.val)

/-- LEDGE_NOP (R269): `Chip.doLedgeNop`. -/
def execLedgeNop (lq : Fin 320) (s : State) : Host.Outcome State Fault Refusal :=
  s.liveChip (fun c => c.doLedgeNop lq.val)

/-- LEDGE_FILL (R260): `Chip.doLedgeFill`. -/
def execLedgeFill (lq : Fin 320) (s : State) : Host.Outcome State Fault Refusal :=
  s.guarded [3, lq.val] (.ledgeFill lq) (fun c => c.doLedgeFill lq.val)

/-- ACCUM (R261): `Chip.doAccum`. -/
def execAccum (lq : Fin 320) (s : State) : Host.Outcome State Fault Refusal :=
  s.guarded [3, lq.val] (.accum lq) (fun c => c.doAccum lq.val)

/-- SCALE (R262): `Chip.doScale`. -/
def execScale (lq : Fin 320) (s : State) : Host.Outcome State Fault Refusal :=
  s.guarded [3, lq.val] (.scale lq) (fun c => c.doScale lq.val)

/-- CONVERT (R263): `Chip.doConvert`. -/
def execConvert (lq : Fin 320) (s : State) : Host.Outcome State Fault Refusal :=
  s.guarded [3, lq.val] (.convert lq) (fun c => c.doConvert lq.val)

/-- SUMSQ (R264): `Chip.doSumsq`. -/
def execSumsq (lq : Fin 320) (s : State) : Host.Outcome State Fault Refusal :=
  s.guarded [3, lq.val] (.sumsq lq) (fun c => c.doSumsq lq.val)

/-- OPTSTEP (R266): `Chip.doOptstep`. -/
def execOptstep (lq : Fin 320) (s : State) : Host.Outcome State Fault Refusal :=
  s.guarded [3, lq.val] (.optstep lq) (fun c => c.doOptstep lq.val)

/-- MIRROR (R269): `Chip.doMirror`. -/
def execMirror (lq : Fin 320) (s : State) : Host.Outcome State Fault Refusal :=
  s.guarded [3, lq.val] (.mirror lq) (fun c => c.doMirror lq.val)

/-- BENCH_OP (R274): `Chip.doBenchOp`. -/
def execBenchOp (lq : Fin 320) (s : State) : Host.Outcome State Fault Refusal :=
  s.guarded [3, lq.val] (.benchOp lq) (fun c => c.doBenchOp lq.val)

/-- LEDGE_COMMAND_COMPLETE (R271): `Chip.doLedgeCommandComplete`. -/
def execLedgeCommandComplete (lq : Fin 320) (s : State) : Host.Outcome State Fault Refusal :=
  s.guarded [3, lq.val] (.ledgeCommandComplete lq) (fun c => c.doLedgeCommandComplete lq.val)

/-- LEDGE_HW_FAULT (R286): `Chip.doLedgeHwFault`. -/
def execLedgeHwFault (e : Fin 208) (s : State) : Host.Outcome State Fault Refusal :=
  s.liveChip (fun c => c.doLedgeHwFault e.val)

/-- BUCKET_OPEN (R290): `Chip.doBucketOpen`. -/
def execBucketOpen (sq : Fin 1024) (s : State) : Host.Outcome State Fault Refusal :=
  s.guarded [10, sq.val] (.bucketOpen sq) (fun c => c.doBucketOpen sq.val)

/-- BUCKET_FILLED (R291): `Chip.doBucketFilled`. -/
def execBucketFilled (tag : Fin 4096) (s : State) : Host.Outcome State Fault Refusal :=
  s.guarded [4, tag.val] (.bucketFilled tag) (fun c => c.doBucketFilled tag.val)

/-- CONTRIBUTION (R293): `Chip.doContribution`. -/
def execContribution (tag : Fin 4096) (pa : BitVec 52) (mask : BitVec 16) (addends : List (BitVec 32)) (poison : Bool) (ctx : Option (Fin 64)) (src : BitVec 16) (s : State) : Host.Outcome State Fault Refusal :=
  s.guarded [5, src.toNat] (.contribution tag pa mask addends poison ctx src) (fun c => c.doContribution tag.val pa mask addends poison ctx src)

/-- BUCKET_COMPLETE (R300): `Chip.doBucketComplete`. -/
def execBucketComplete (tag : Fin 4096) (s : State) : Host.Outcome State Fault Refusal :=
  s.guarded [4, tag.val] (.bucketComplete tag) (fun c => c.doBucketComplete tag.val)

/-- BUCKET_LATE (R298): `Chip.doBucketLate`. -/
def execBucketLate (tag : Fin 4096) (s : State) : Host.Outcome State Fault Refusal :=
  s.guarded [4, tag.val] (.bucketLate tag) (fun c => c.doBucketLate tag.val)

/-- BUCKET_ABORT (R299): `Chip.doBucketAbort`. -/
def execBucketAbort (sq : Fin 1024) (s : State) : Host.Outcome State Fault Refusal :=
  s.liveChip (fun c => c.doBucketAbort sq.val)

/-- BUCKET_ABORT_DONE (R299): `Chip.doBucketAbortDone`. -/
def execBucketAbortDone (tag : Fin 4096) (s : State) : Host.Outcome State Fault Refusal :=
  s.guarded [4, tag.val] (.bucketAbortDone tag) (fun c => c.doBucketAbortDone tag.val)

/-- VERSION_BEGIN (R309): `Chip.doVersionBegin`. -/
def execVersionBegin (lq : Fin 320) (s : State) : Host.Outcome State Fault Refusal :=
  s.guarded [3, lq.val] (.versionBegin lq) (fun c => c.doVersionBegin lq.val)

/-- VERSION_END (R309): `Chip.doVersionEnd`. -/
def execVersionEnd (lq : Fin 320) (s : State) : Host.Outcome State Fault Refusal :=
  s.guarded [3, lq.val] (.versionEnd lq) (fun c => c.doVersionEnd lq.val)

/-- HOLD_RELEASE (R310): `Chip.doHoldRelease`. -/
def execHoldRelease (k : Fin 16384) (psn : BitVec 32) (s : State) : Host.Outcome State Fault Refusal :=
  s.guarded [9, k.val] (.holdRelease k psn) (fun c => c.doHoldRelease k.val psn)

/-- MTIME_WRITE (R314): `Chip.doMtimeWrite`. -/
def execMtimeWrite (addr : BitVec 52) (a : SetupAcc) (s : State) : Host.Outcome State Fault Refusal :=
  s.liveChip (fun c => c.doMtimeWrite addr a)

/-- CORE_WFI (R461): `Chip.doCoreWfi`. -/
def execCoreWfi (k : Fin 64) (s : State) : Host.Outcome State Fault Refusal :=
  s.liveChip (fun c => c.doCoreWfi k.val)

/-- PCIE_WRITE_TLP (R324): `Chip.doPcieWriteTlp`. -/
def execPcieWriteTlp (p : Tlp) (s : State) : Host.Outcome State Fault Refusal :=
  s.guarded (if p.ro then [] else [12, p.port.val, p.reqid.toNat]) (.pcieWriteTlp p) (fun c => c.doPcieWriteTlp p)

/-- PCIE_READ_TLP (R323): `Chip.doPcieReadTlp`. -/
def execPcieReadTlp (p : Tlp) (len : Nat) (s : State) : Host.Outcome State Fault Refusal :=
  s.guarded [12, p.port.val, p.reqid.toNat] (.pcieReadTlp p len) (fun c => c.doPcieReadTlp p len)

/-- PCIE_MSI (R327): `Chip.doPcieMsi`. -/
def execPcieMsi (port : Fin 8) (reqid : BitVec 16) (addr : BitVec 64) (v : BitVec 32) (s : State) : Host.Outcome State Fault Refusal :=
  s.guarded [12, port.val, reqid.toNat] (.pcieMsi port reqid addr v) (fun c => c.doPcieMsi port.val reqid addr v)

/-- MSI_WRITE (R326): `Chip.doMsiWrite`. -/
def execMsiWrite (k : Fin 64) (file : Fin 8) (v : BitVec 32) (s : State) : Host.Outcome State Fault Refusal :=
  s.liveChip (fun c => c.doMsiWrite k.val file.val v)

/-- PORT_DOWN (R333): `Chip.doPortDown`. -/
def execPortDown (sub : Fin 32) (s : State) : Host.Outcome State Fault Refusal :=
  s.guarded [7, sub.val] (.portDown sub) (fun c => c.doPortDown sub.val)

/-- SUBPORT_UP (R331): `Chip.doSubportUp`. -/
def execSubportUp (sub : Fin 32) (s : State) : Host.Outcome State Fault Refusal :=
  s.liveChip (fun c => c.doSubportUp sub.val)

/-- PATH_REJOIN (R352): `Chip.doPathRejoin`. -/
def execPathRejoin (sub : Fin 32) (s : State) : Host.Outcome State Fault Refusal :=
  s.liveChip (fun c => c.doPathRejoin sub.val)

/-- HAUL_WRITE (R342): `Chip.doHaulWrite`. -/
def execHaulWrite (sub : Fin 32) (f : Frame) (s : State) : Host.Outcome State Fault Refusal :=
  s.guarded [6, sub.val] (.haulWrite sub f) (fun c => c.doHaulWrite sub.val f)

/-- HAUL_READ_PACKET (R354): `Chip.doHaulReadPacket`. -/
def execHaulReadPacket (sub : Fin 32) (f : Frame) (s : State) : Host.Outcome State Fault Refusal :=
  s.guarded [6, sub.val] (.haulReadPacket sub f) (fun c => c.doHaulReadPacket sub.val f)

/-- READ_RESP (R354): `Chip.doReadResp`. -/
def execReadResp (sub : Fin 32) (f : Frame) (s : State) : Host.Outcome State Fault Refusal :=
  s.guarded [6, sub.val] (.readResp sub f) (fun c => c.doReadResp sub.val f)

/-- ACCUMULATE_FP32 (R251): `Chip.doAccumulateFp32`. -/
def execAccumulateFp32 (sub : Fin 32) (f : Frame) (s : State) : Host.Outcome State Fault Refusal :=
  s.guarded [6, sub.val] (.accumulateFp32 sub f) (fun c => c.doAccumulateFp32 sub.val f)

/-- SEND_TO_RING (R383): `Chip.doSendToRing`. -/
def execSendToRing (sub : Fin 32) (f : Frame) (s : State) : Host.Outcome State Fault Refusal :=
  s.guarded [6, sub.val] (.sendToRing sub f) (fun c => c.doSendToRing sub.val f)

/-- HAUL_SIGNAL (R346): `Chip.doHaulSignal`. -/
def execHaulSignal (sub : Fin 32) (f : Frame) (s : State) : Host.Outcome State Fault Refusal :=
  s.guarded [6, sub.val] (.haulSignal sub f) (fun c => c.doHaulSignal sub.val f)

/-- ACK (R345): `Chip.doAck`. -/
def execAck (sub : Fin 32) (f : Frame) (s : State) : Host.Outcome State Fault Refusal :=
  s.liveChip (fun c => c.doAck sub.val f)

/-- NAK (R344): `Chip.doNak`. -/
def execNak (sub : Fin 32) (f : Frame) (s : State) : Host.Outcome State Fault Refusal :=
  s.liveChip (fun c => c.doNak sub.val f)

/-- CONNECT (R338): `Chip.doConnect`. -/
def execConnect (sub : Fin 32) (f : Frame) (s : State) : Host.Outcome State Fault Refusal :=
  s.guarded [6, sub.val] (.connect sub f) (fun c => c.doConnect sub.val f)

/-- ACCEPT (R338): `Chip.doAccept`. -/
def execAccept (sub : Fin 32) (f : Frame) (s : State) : Host.Outcome State Fault Refusal :=
  s.liveChip (fun c => c.doAccept sub.val f)

/-- CLOSE (R339): `Chip.doClose`. -/
def execClose (sub : Fin 32) (f : Frame) (s : State) : Host.Outcome State Fault Refusal :=
  s.guarded [6, sub.val] (.close sub f) (fun c => c.doClose sub.val f)

/-- PATHDOWN (R352): `Chip.doPathdown`. -/
def execPathdown (sub : Fin 32) (f : Frame) (s : State) : Host.Outcome State Fault Refusal :=
  s.guarded [6, sub.val] (.pathdown sub f) (fun c => c.doPathdown sub.val f)

/-- ARP_REQUEST (R332): `Chip.doArpRequest`. -/
def execArpRequest (sub : Fin 32) (f : Frame) (s : State) : Host.Outcome State Fault Refusal :=
  s.liveChip (fun c => c.doArpRequest sub.val f)

/-- NEIGHBOUR_SOLICITATION (R332): `Chip.doNeighbourSolicitation`. -/
def execNeighbourSolicitation (sub : Fin 32) (f : Frame) (s : State) : Host.Outcome State Fault Refusal :=
  s.liveChip (fun c => c.doNeighbourSolicitation sub.val f)

/-- PAUSE_FRAME (R332): `Chip.doPauseFrame`. -/
def execPauseFrame (sub : Fin 32) (f : Frame) (s : State) : Host.Outcome State Fault Refusal :=
  s.liveChip (fun c => c.doPauseFrame sub.val f)

/-- RAW_FRAME (R332): `Chip.doRawFrame`. -/
def execRawFrame (sub : Fin 32) (f : Frame) (s : State) : Host.Outcome State Fault Refusal :=
  s.guarded [6, sub.val] (.rawFrame sub f) (fun c => c.doRawFrame sub.val f)

/-- PACKET_COMPLETE (R344): `Chip.doPacketComplete`. -/
def execPacketComplete (k : Fin 16384) (psn : BitVec 32) (s : State) : Host.Outcome State Fault Refusal :=
  s.guarded [9, k.val] (.packetComplete k psn) (fun c => c.doPacketComplete k.val psn)

/-- ACK_TIMER (R345): `Chip.doAckTimer`. -/
def execAckTimer (k : Fin 16384) (s : State) : Host.Outcome State Fault Refusal :=
  s.liveChip (fun c => c.doAckTimer k.val)

/-- PACKET_SEND (R340): `Chip.doPacketSend`. -/
def execPacketSend (k : Fin 16384) (full : BitVec 32) (s : State) : Host.Outcome State Fault Refusal :=
  s.guarded [8, k.val] (.packetSend k full) (fun c => c.doPacketSend k.val full)

/-- RETX_TIMEOUT (R348): `Chip.doRetxTimeout`. -/
def execRetxTimeout (k : Fin 16384) (psn : BitVec 32) (s : State) : Host.Outcome State Fault Refusal :=
  s.liveChip (fun c => c.doRetxTimeout k.val psn)

/-- QUARANTINE_END (R341): `Chip.doQuarantineEnd`. -/
def execQuarantineEnd (k : Fin 16384) (sub : Fin 32) (ent : Fin 16) (s : State) : Host.Outcome State Fault Refusal :=
  s.liveChip (fun c => c.doQuarantineEnd k.val sub.val ent.val)

/-- KEEPALIVE (R339): `Chip.doKeepalive`. -/
def execKeepalive (k : Fin 16384) (s : State) : Host.Outcome State Fault Refusal :=
  s.liveChip (fun c => c.doKeepalive k.val)

/-- CONN_TIMEOUT (R339): `Chip.doConnTimeout`. -/
def execConnTimeout (k : Fin 16384) (s : State) : Host.Outcome State Fault Refusal :=
  s.guarded [9, k.val] (.connTimeout k) (fun c => c.doConnTimeout k.val)

/-- CONNECT_RETRY (R338): `Chip.doConnectRetry`. -/
def execConnectRetry (k : Fin 16384) (s : State) : Host.Outcome State Fault Refusal :=
  s.liveChip (fun c => c.doConnectRetry k.val)

/-- RC_PERIOD (R351): `Chip.doRcPeriod`. -/
def execRcPeriod (k : Fin 16384) (qp : Bool) (s : State) : Host.Outcome State Fault Refusal :=
  s.liveChip (fun c => c.doRcPeriod k.val qp)

/-- ROCE_SEND (R358): `Chip.doRoceSend`. -/
def execRoceSend (n : Fin 4096) (p : RocePkt) (s : State) : Host.Outcome State Fault Refusal :=
  s.guarded [20, n.val] (.roceSend n p) (fun c => c.doRoceSend n.val p)

/-- ROCE_RDMA_WRITE (R359): `Chip.doRoceRdmaWrite`. -/
def execRoceRdmaWrite (n : Fin 4096) (p : RocePkt) (s : State) : Host.Outcome State Fault Refusal :=
  s.guarded [20, n.val] (.roceRdmaWrite n p) (fun c => c.doRoceRdmaWrite n.val p)

/-- ROCE_RDMA_READ (R358): `Chip.doRoceRdmaRead`. -/
def execRoceRdmaRead (n : Fin 4096) (p : RocePkt) (s : State) : Host.Outcome State Fault Refusal :=
  s.guarded [20, n.val] (.roceRdmaRead n p) (fun c => c.doRoceRdmaRead n.val p)

/-- ROCE_READ_RESPONSE (R358): `Chip.doRoceReadResponse`. -/
def execRoceReadResponse (n : Fin 4096) (p : RocePkt) (s : State) : Host.Outcome State Fault Refusal :=
  s.guarded [20, n.val] (.roceReadResponse n p) (fun c => c.doRoceReadResponse n.val p)

/-- ROCE_ACK (R358): `Chip.doRoceAck`. -/
def execRoceAck (n : Fin 4096) (psn : BitVec 24) (syndrome : BitVec 8) (icrcOk : Bool) (s : State) : Host.Outcome State Fault Refusal :=
  s.liveChip (fun c => c.doRoceAck n.val psn syndrome icrcOk)

/-- ROCE_CNP (R358): `Chip.doRoceCnp`. -/
def execRoceCnp (n : Fin 4096) (icrcOk : Bool) (s : State) : Host.Outcome State Fault Refusal :=
  s.liveChip (fun c => c.doRoceCnp n.val icrcOk)

/-- ROCE_TIMEOUT (R358): `Chip.doRoceTimeout`. -/
def execRoceTimeout (n : Fin 4096) (s : State) : Host.Outcome State Fault Refusal :=
  s.liveChip (fun c => c.doRoceTimeout n.val)

/-- REGISTRATION (R365): `Chip.doRegistration`. -/
def execRegistration (k : Fin 32) (a : SetupAcc) (req : BitVec 16) (s : State) : Host.Outcome State Fault Refusal :=
  s.guarded [23, k.val] (.registration k a req) (fun c => c.doRegistration k.val a req)

/-- DEREGISTRATION (R367): `Chip.doDeregistration`. -/
def execDeregistration (k : Fin 32) (writer : BitVec 32) (s : State) : Host.Outcome State Fault Refusal :=
  s.guarded [23, k.val] (.deregistration k writer) (fun c => c.doDeregistration k.val writer)

/-- DEREGISTRATION_DONE (R367): `Chip.doDeregistrationDone`. -/
def execDeregistrationDone (k : Fin 32) (s : State) : Host.Outcome State Fault Refusal :=
  s.liveChip (fun c => c.doDeregistrationDone k.val)

/-- CXL_LINK_DOWN (R387): `Chip.doCxlLinkDown`. -/
def execCxlLinkDown (s : State) : Host.Outcome State Fault Refusal :=
  s.liveChip (fun c => c.doCxlLinkDown)

/-- LINK_RESET (R507): `Chip.doLinkReset`. -/
def execLinkReset (s : State) : Host.Outcome State Fault Refusal :=
  s.liveChip (fun c => c.doLinkReset)

/-- CXL_REQUEST_TIMEOUT (R387): `Chip.doCxlRequestTimeout`. -/
def execCxlRequestTimeout (id : Nat) (s : State) : Host.Outcome State Fault Refusal :=
  s.liveChip (fun c => c.doCxlRequestTimeout id)

/-- CXLIO_REQUEST (R361): `Chip.doCxlioRequest`. -/
def execCxlioRequest (bar : Fin 6) (off : BitVec 64) (write : Bool) (bytes : Fin 65) (s : State) : Host.Outcome State Fault Refusal :=
  s.liveChip (fun c => c.doCxlioRequest bar.val off write bytes.val)

/-- SQ_DOORBELL (R376): `Chip.doSqDoorbell`. -/
def execSqDoorbell (r : Fin 1024) (off : Fin 4096) (width : Fin 9) (value : BitVec 64) (req : Option (BitVec 16)) (s : State) : Host.Outcome State Fault Refusal :=
  s.liveChip (fun c => c.doSqDoorbell r.val off.val width.val value req)

/-- CQ_HEAD_DOORBELL (R380): `Chip.doCqHeadDoorbell`. -/
def execCqHeadDoorbell (r : Fin 1024) (off : Fin 4096) (width : Fin 9) (value : BitVec 64) (req : Option (BitVec 16)) (s : State) : Host.Outcome State Fault Refusal :=
  s.liveChip (fun c => c.doCqHeadDoorbell r.val off.val width.val value req)

/-- DOORBELL_AHEAD (R377): `Chip.doDoorbellAhead`. -/
def execDoorbellAhead (r : Fin 1024) (s : State) : Host.Outcome State Fault Refusal :=
  s.guarded [10, r.val] (.doorbellAhead r) (fun c => c.doDoorbellAhead r.val)

/-- RING_NOP (R408): `Chip.doRingNop`. -/
def execRingNop (sq : Fin 1024) (s : State) : Host.Outcome State Fault Refusal :=
  s.liveChip (fun c => c.doRingNop sq.val)

/-- CTX_CREATE (R399): `Chip.doCtxCreate`. -/
def execCtxCreate (sq : Fin 1024) (s : State) : Host.Outcome State Fault Refusal :=
  s.liveChip (fun c => c.doCtxCreate sq.val)

/-- CTX_DESTROY (R404): `Chip.doCtxDestroy`. -/
def execCtxDestroy (sq : Fin 1024) (s : State) : Host.Outcome State Fault Refusal :=
  s.guarded [10, sq.val] (.ctxDestroy sq) (fun c => c.doCtxDestroy sq.val)

/-- CTX_GRANT (R368): `Chip.doCtxGrant`. -/
def execCtxGrant (sq : Fin 1024) (s : State) : Host.Outcome State Fault Refusal :=
  s.liveChip (fun c => c.doCtxGrant sq.val)

/-- CTX_REVOKE (R368): `Chip.doCtxRevoke`. -/
def execCtxRevoke (sq : Fin 1024) (s : State) : Host.Outcome State Fault Refusal :=
  s.liveChip (fun c => c.doCtxRevoke sq.val)

/-- TLB_INVAL (R84): `Chip.doTlbInval`. -/
def execTlbInval (sq : Fin 1024) (s : State) : Host.Outcome State Fault Refusal :=
  s.liveChip (fun c => c.doTlbInval sq.val)

/-- MEMWRITE (R372): `Chip.doMemwrite`. -/
def execMemwrite (sq : Fin 1024) (s : State) : Host.Outcome State Fault Refusal :=
  s.guarded [10, sq.val] (.memwrite sq) (fun c => c.doMemwrite sq.val)

/-- RUN (R405): `Chip.doRun`. -/
def execRun (sq : Fin 1024) (s : State) : Host.Outcome State Fault Refusal :=
  s.liveChip (fun c => c.doRun sq.val)

/-- SO_OP_SIGNAL (R372): `Chip.doSoOpSignal`. -/
def execSoOpSignal (sq : Fin 1024) (s : State) : Host.Outcome State Fault Refusal :=
  s.liveChip (fun c => c.doSoOpSignal sq.val)

/-- SO_OP_SET (R372): `Chip.doSoOpSet`. -/
def execSoOpSet (sq : Fin 1024) (s : State) : Host.Outcome State Fault Refusal :=
  s.liveChip (fun c => c.doSoOpSet sq.val)

/-- SO_WAIT (R372): `Chip.doSoWait`. -/
def execSoWait (sq : Fin 1024) (s : State) : Host.Outcome State Fault Refusal :=
  s.liveChip (fun c => c.doSoWait sq.val)

/-- SO_WAIT_TIMEOUT (R372): `Chip.doSoWaitTimeout`. -/
def execSoWaitTimeout (sq : Fin 1024) (s : State) : Host.Outcome State Fault Refusal :=
  s.liveChip (fun c => c.doSoWaitTimeout sq.val)

/-- LQ_BIND (R252): `Chip.doLqBind`. -/
def execLqBind (sq : Fin 1024) (s : State) : Host.Outcome State Fault Refusal :=
  s.liveChip (fun c => c.doLqBind sq.val)

/-- LQ_UNBIND (R287): `Chip.doLqUnbind`. -/
def execLqUnbind (sq : Fin 1024) (s : State) : Host.Outcome State Fault Refusal :=
  s.liveChip (fun c => c.doLqUnbind sq.val)

/-- PCIE_REGION (R322): `Chip.doPcieRegion`. -/
def execPcieRegion (sq : Fin 1024) (s : State) : Host.Outcome State Fault Refusal :=
  s.liveChip (fun c => c.doPcieRegion sq.val)

/-- PCIE_REGION_WITHDRAW (R325): `Chip.doPcieRegionWithdraw`. -/
def execPcieRegionWithdraw (sq : Fin 1024) (s : State) : Host.Outcome State Fault Refusal :=
  s.liveChip (fun c => c.doPcieRegionWithdraw sq.val)

/-- FD_REGION (R356): `Chip.doFdRegion`. -/
def execFdRegion (sq : Fin 1024) (s : State) : Host.Outcome State Fault Refusal :=
  s.liveChip (fun c => c.doFdRegion sq.val)

/-- FD_REGION_WITHDRAW (R357): `Chip.doFdRegionWithdraw`. -/
def execFdRegionWithdraw (sq : Fin 1024) (s : State) : Host.Outcome State Fault Refusal :=
  s.liveChip (fun c => c.doFdRegionWithdraw sq.val)

/-- CONN_CREATE (R338): `Chip.doConnCreate`. -/
def execConnCreate (sq : Fin 1024) (s : State) : Host.Outcome State Fault Refusal :=
  s.guarded [10, sq.val] (.connCreate sq) (fun c => c.doConnCreate sq.val)

/-- CONN_CLOSE (R372): `Chip.doConnClose`. -/
def execConnClose (sq : Fin 1024) (s : State) : Host.Outcome State Fault Refusal :=
  s.guarded [10, sq.val] (.connClose sq) (fun c => c.doConnClose sq.val)

/-- NEIGH (R372): `Chip.doNeigh`. -/
def execNeigh (sq : Fin 1024) (s : State) : Host.Outcome State Fault Refusal :=
  s.liveChip (fun c => c.doNeigh sq.val)

/-- HAUL_POST_WRITE (R548): `Chip.doHaulPostWrite`. -/
def execHaulPostWrite (sq : Fin 1024) (s : State) : Host.Outcome State Fault Refusal :=
  s.liveChip (fun c => c.doHaulPostWrite sq.val)

/-- HAUL_POST_ACCUMULATE (R548): `Chip.doHaulPostAccumulate`. -/
def execHaulPostAccumulate (sq : Fin 1024) (s : State) : Host.Outcome State Fault Refusal :=
  s.liveChip (fun c => c.doHaulPostAccumulate sq.val)

/-- HAUL_POST_SEND (R548): `Chip.doHaulPostSend`. -/
def execHaulPostSend (sq : Fin 1024) (s : State) : Host.Outcome State Fault Refusal :=
  s.liveChip (fun c => c.doHaulPostSend sq.val)

/-- HAUL_POST_SIGNAL (R548): `Chip.doHaulPostSignal`. -/
def execHaulPostSignal (sq : Fin 1024) (s : State) : Host.Outcome State Fault Refusal :=
  s.liveChip (fun c => c.doHaulPostSignal sq.val)

/-- SENDI (R548): `Chip.doSendi`. -/
def execSendi (sq : Fin 1024) (s : State) : Host.Outcome State Fault Refusal :=
  s.liveChip (fun c => c.doSendi sq.val)

/-- HAUL_READ (R354): `Chip.doHaulRead`. -/
def execHaulRead (sq : Fin 1024) (s : State) : Host.Outcome State Fault Refusal :=
  s.liveChip (fun c => c.doHaulRead sq.val)

/-- QP_CREATE (R358): `Chip.doQpCreate`. -/
def execQpCreate (sq : Fin 1024) (s : State) : Host.Outcome State Fault Refusal :=
  s.liveChip (fun c => c.doQpCreate sq.val)

/-- QP_POST_SEND (R359): `Chip.doQpPostSend`. -/
def execQpPostSend (sq : Fin 1024) (s : State) : Host.Outcome State Fault Refusal :=
  s.guarded [10, sq.val] (.qpPostSend sq) (fun c => c.doQpPostSend sq.val)

/-- QP_POST_SEND_IMM (R359): `Chip.doQpPostSendImm`. -/
def execQpPostSendImm (sq : Fin 1024) (s : State) : Host.Outcome State Fault Refusal :=
  s.guarded [10, sq.val] (.qpPostSendImm sq) (fun c => c.doQpPostSendImm sq.val)

/-- QP_POST_WRITE (R359): `Chip.doQpPostWrite`. -/
def execQpPostWrite (sq : Fin 1024) (s : State) : Host.Outcome State Fault Refusal :=
  s.guarded [10, sq.val] (.qpPostWrite sq) (fun c => c.doQpPostWrite sq.val)

/-- QP_POST_WRITE_IMM (R359): `Chip.doQpPostWriteImm`. -/
def execQpPostWriteImm (sq : Fin 1024) (s : State) : Host.Outcome State Fault Refusal :=
  s.guarded [10, sq.val] (.qpPostWriteImm sq) (fun c => c.doQpPostWriteImm sq.val)

/-- QP_POST_READ (R359): `Chip.doQpPostRead`. -/
def execQpPostRead (sq : Fin 1024) (s : State) : Host.Outcome State Fault Refusal :=
  s.guarded [10, sq.val] (.qpPostRead sq) (fun c => c.doQpPostRead sq.val)

/-- RECV_POST (R372): `Chip.doRecvPost`. -/
def execRecvPost (sq : Fin 1024) (s : State) : Host.Outcome State Fault Refusal :=
  s.liveChip (fun c => c.doRecvPost sq.val)

/-- RAWQ_BIND (R372): `Chip.doRawqBind`. -/
def execRawqBind (sq : Fin 1024) (s : State) : Host.Outcome State Fault Refusal :=
  s.liveChip (fun c => c.doRawqBind sq.val)

/-- RING_BIND (R369): `Chip.doRingBind`. -/
def execRingBind (sq : Fin 1024) (s : State) : Host.Outcome State Fault Refusal :=
  s.liveChip (fun c => c.doRingBind sq.val)

/-- RING_UNBIND (R369): `Chip.doRingUnbind`. -/
def execRingUnbind (sq : Fin 1024) (s : State) : Host.Outcome State Fault Refusal :=
  s.liveChip (fun c => c.doRingUnbind sq.val)

/-- CM_RELEASE (R389): `Chip.doCmRelease`. -/
def execCmRelease (sq : Fin 1024) (s : State) : Host.Outcome State Fault Refusal :=
  s.liveChip (fun c => c.doCmRelease sq.val)

/-- CONT (R374): `Chip.doCont`. -/
def execCont (sq : Fin 1024) (s : State) : Host.Outcome State Fault Refusal :=
  s.liveChip (fun c => c.doCont sq.val)

/-- DESCRIPTOR_COMPLETE (R379): `Chip.doDescriptorComplete`. -/
def execDescriptorComplete (r : Fin 1024) (s : State) : Host.Outcome State Fault Refusal :=
  s.guarded [11, r.val] (.descriptorComplete r) (fun c => c.doDescriptorComplete r.val)

/-- LOG_DRAIN (R385): `Chip.doLogDrain`. -/
def execLogDrain (cqn : Fin 1024) (s : State) : Host.Outcome State Fault Refusal :=
  s.guarded [13, cqn.val] (.logDrain cqn) (fun c => c.doLogDrain cqn.val)

/-- GRACE_EXPIRY (R387): `Chip.doGraceExpiry`. -/
def execGraceExpiry (cm : Fin 32) (k : Fin 64) (s : State) : Host.Outcome State Fault Refusal :=
  s.liveChip (fun c => c.doGraceExpiry cm.val k.val)

/-- A call of the dispatch mailbox whose image lies in memory: RESULT reads BUSY while it waits, and a call that comes meanwhile is
ignored and logged (15 R393, 21 R521). -/
def State.imageCall (s : State) (code : Nat) (i : Instr) (f : Chip → Secure → Chip × Secure) : Host.Outcome State Fault Refusal :=
  if s.retrying.isNone && s.chip.fw.mbox.result == 1 then s.liveChip (fun c => c.callIgnored code)
  else match s.guardedBoth [15] i f with
    | .next t => .next (if s.chip.live && t.held.any (fun h => h.key == [15]) then { t with chip := t.chip.callEnd code 1 } else t)
    | o => o

/-- LOAD (R394): `Chip.secLoad`. -/
def execLoad (crypto : Bool) (s : State) : Host.Outcome State Fault Refusal :=
  s.imageCall 1 (.load crypto) (fun c k => c.secLoad k crypto)

/-- ATTACH (R395): `Chip.doAttach`. -/
def execAttach (s : State) : Host.Outcome State Fault Refusal :=
  s.liveChip (fun c => c.doAttach)

/-- HANDOVER (R414): `Chip.doHandover`. -/
def execHandover (s : State) : Host.Outcome State Fault Refusal :=
  s.liveChip (fun c => c.doHandover)

/-- UPDATE (R397): `Chip.secUpdate`. -/
def execUpdate (crypto : Bool) (s : State) : Host.Outcome State Fault Refusal :=
  s.imageCall 4 (.update crypto) (fun c k => c.secUpdate k crypto)

/-- QUERY (R393): `Chip.doQuery`. -/
def execQuery (s : State) : Host.Outcome State Fault Refusal :=
  s.liveChip (fun c => c.doQuery)

/-- MAILBOX_BAD_CALL (R521): `Chip.doMailboxBadCall`. -/
def execMailboxBadCall (code : BitVec 8) (s : State) : Host.Outcome State Fault Refusal :=
  s.liveChip (fun c => c.doMailboxBadCall code)

/-- RUN_START (R406): `Chip.doRunStart`. -/
def execRunStart (s : State) : Host.Outcome State Fault Refusal :=
  s.guarded [21] .runStart (fun c => c.doRunStart)

/-- SWITCH_COMPLETE (R402): `Chip.doSwitchComplete`. -/
def execSwitchComplete (t : Fin 200) (s : State) : Host.Outcome State Fault Refusal :=
  s.guarded [1, t.val] (.switchComplete t) (fun c => c.doSwitchComplete t.val)

/-- DEADLINE_EXPIRY (R409): `Chip.doDeadlineExpiry`. -/
def execDeadlineExpiry (sq : Fin 1024) (s : State) : Host.Outcome State Fault Refusal :=
  s.liveChip (fun c => c.doDeadlineExpiry sq.val)

/-- PERIOD_END (R410): `Chip.doPeriodEnd`. -/
def execPeriodEnd (r : Fin 1024) (s : State) : Host.Outcome State Fault Refusal :=
  s.liveChip (fun c => c.doPeriodEnd r.val)

/-- HEARTBEAT_READ (R412): `Chip.doHeartbeatRead`. -/
def execHeartbeatRead (k : Fin 32) (s : State) : Host.Outcome State Fault Refusal :=
  s.guarded [16, k.val] (.heartbeatRead k) (fun c => c.doHeartbeatRead k.val)

/-- WATCHDOG_EXPIRY (R415): `Chip.doWatchdogExpiry`. -/
def execWatchdogExpiry (k : Fin 4) (s : State) : Host.Outcome State Fault Refusal :=
  s.liveChip (fun c => c.doWatchdogExpiry k.val)

/-- FP_REJOIN (R419): `Chip.doFpRejoin`. -/
def execFpRejoin (k : Fin 4) (s : State) : Host.Outcome State Fault Refusal :=
  s.liveChip (fun c => c.doFpRejoin k.val)

/-- FTIMG_POLL (R401): `Chip.doFtimgPoll`. -/
def execFtimgPoll (k : Fin 64) (s : State) : Host.Outcome State Fault Refusal :=
  s.guarded [17, k.val] (.ftimgPoll k) (fun c => c.doFtimgPoll k.val)

/-- RDCURR (R421): `Chip.doRdcurr`. -/
def execRdcurr (slot : Fin 32) (addr : BitVec 52) (s : State) : Host.Outcome State Fault Refusal :=
  s.guarded [14, slot.val] (.rdcurr slot addr) (fun c => c.doRdcurr slot.val addr)

/-- ITOMWR (R421): `Chip.doItomwr`. -/
def execItomwr (slot : Fin 32) (addr : BitVec 52) (data : BitVec 512) (s : State) : Host.Outcome State Fault Refusal :=
  s.guarded [14, slot.val] (.itomwr slot addr data) (fun c => c.doItomwr slot.val addr data)

/-- WOWRINV (R421): `Chip.doWowrinv`. -/
def execWowrinv (slot : Fin 32) (addr : BitVec 52) (be : BitVec 64) (data : BitVec 512) (s : State) : Host.Outcome State Fault Refusal :=
  s.guarded [14, slot.val] (.wowrinv slot addr be data) (fun c => c.doWowrinv slot.val addr be data)

/-- DOMAIN_SLOT_ASSIGN (R422): `Chip.doDomainSlotAssign`. -/
def execDomainSlotAssign (strap : BitVec 8) (reqid : BitVec 16) (s : State) : Host.Outcome State Fault Refusal :=
  s.liveChip (fun c => c.doDomainSlotAssign strap reqid)

/-- UPSTREAM_CXLIO (R422): `Chip.doUpstreamCxlio`. -/
def execUpstreamCxlio (write : Bool) (addr : BitVec 64) (v : BitVec 32) (s : State) : Host.Outcome State Fault Refusal :=
  s.liveChip (fun c => c.doUpstreamCxlio write addr v)

/-- TILE_HW_FAULT (R444): `Chip.secTileHwFault`. -/
def execTileHwFault (t : Fin 200) (unit : BitVec 8) (s : State) : Host.Outcome State Fault Refusal :=
  s.liveBoth (fun c k => c.secTileHwFault k t.val unit)

/-- TILE_ECC_FENCE (R444): `Chip.secTileEccFence`. -/
def execTileEccFence (t : Fin 200) (corrected : BitVec 32) (s : State) : Host.Outcome State Fault Refusal :=
  s.liveBoth (fun c k => c.secTileEccFence k t.val corrected)

/-- WORK_ITEM_RESTART (R446): `Chip.doWorkItemRestart`. -/
def execWorkItemRestart (t : Fin 200) (s : State) : Host.Outcome State Fault Refusal :=
  s.guarded [1, t.val] (.workItemRestart t) (fun c => c.doWorkItemRestart t.val)

/-- TILE_REPAIR (R450): `Chip.doTileRepair`. -/
def execTileRepair (a : SetupAcc) (s : State) : Host.Outcome State Fault Refusal :=
  s.liveChip (fun c => c.doTileRepair a)

/-- REPAIR_DONE (R450): `Chip.secRepairDone`. -/
def execRepairDone (pass : Bool) (s : State) : Host.Outcome State Fault Refusal :=
  s.liveBoth (fun c k => c.secRepairDone k pass)

/-- PAIR (R452): `Chip.doPair`. -/
def execPair (a : SetupAcc) (s : State) : Host.Outcome State Fault Refusal :=
  s.liveChip (fun c => c.doPair a)

/-- UNPAIR (R452): `Chip.doUnpair`. -/
def execUnpair (a : SetupAcc) (s : State) : Host.Outcome State Fault Refusal :=
  s.liveChip (fun c => c.doUnpair a)

/-- HEALTH_EVAL (R454): `Chip.doHealthEval`. -/
def execHealthEval (other : Nat) (temp : Nat) (s : State) : Host.Outcome State Fault Refusal :=
  s.guarded [19] (.healthEval other temp) (fun c => c.doHealthEval other temp)

/-- SNAP_INTERVAL_DUE (R456): `Chip.doSnapIntervalDue`. -/
def execSnapIntervalDue (s : State) : Host.Outcome State Fault Refusal :=
  s.guarded [19] .snapIntervalDue (fun c => c.doSnapIntervalDue)

/-- SNAP_HOLD_RETRY (R456): `Chip.doSnapHoldRetry`. -/
def execSnapHoldRetry (s : State) : Host.Outcome State Fault Refusal :=
  s.guarded [19] .snapHoldRetry (fun c => c.doSnapHoldRetry)

/-- SNAP_DONE (R457): `Chip.doSnapDone`. -/
def execSnapDone (a : SetupAcc) (s : State) : Host.Outcome State Fault Refusal :=
  s.guarded [22] (.snapDone a) (fun c => c.doSnapDone a)

/-- SNAP_HOLD_EXPIRED (R457): `Chip.doSnapHoldExpired`. -/
def execSnapHoldExpired (s : State) : Host.Outcome State Fault Refusal :=
  s.guarded [19] .snapHoldExpired (fun c => c.doSnapHoldExpired)

/-- SNAP_ABANDONED (R457): `Chip.doSnapAbandoned`. -/
def execSnapAbandoned (s : State) : Host.Outcome State Fault Refusal :=
  s.liveChip (fun c => c.doSnapAbandoned)

/-- CKPT_ADDR (R460): `Chip.doCkptAddr`. -/
def execCkptAddr (a : SetupAcc) (s : State) : Host.Outcome State Fault Refusal :=
  s.liveChip (fun c => c.doCkptAddr a)

/-- CKPT_DONE (R460): `Chip.doCkptDone`. -/
def execCkptDone (s : State) : Host.Outcome State Fault Refusal :=
  s.guarded [19] .ckptDone (fun c => c.doCkptDone)

/-- ENVELOPE_W (R465): `Chip.doEnvelopeW`. -/
def execEnvelopeW (a : SetupAcc) (s : State) : Host.Outcome State Fault Refusal :=
  s.liveChip (fun c => c.doEnvelopeW a)

/-- TILE_GROUP (R461): `Chip.doTileGroup`. -/
def execTileGroup (a : SetupAcc) (s : State) : Host.Outcome State Fault Refusal :=
  s.liveChip (fun c => c.doTileGroup a)

/-- CORE_OFF (R463): `Chip.doCoreOff`. -/
def execCoreOff (a : SetupAcc) (s : State) : Host.Outcome State Fault Refusal :=
  s.liveChip (fun c => c.doCoreOff a)

/-- HBM_SR (R461): `Chip.doHbmSr`. -/
def execHbmSr (a : SetupAcc) (s : State) : Host.Outcome State Fault Refusal :=
  s.liveChip (fun c => c.doHbmSr a)

/-- DDR_SR (R461): `Chip.doDdrSr`. -/
def execDdrSr (a : SetupAcc) (s : State) : Host.Outcome State Fault Refusal :=
  s.liveChip (fun c => c.doDdrSr a)

/-- SUBPORT_DIS (R464): `Chip.doSubportDis`. -/
def execSubportDis (a : SetupAcc) (s : State) : Host.Outcome State Fault Refusal :=
  s.guarded [22] (.subportDis a) (fun c => c.doSubportDis a)

/-- CONTROL_PERIOD (R465): `Chip.doControlPeriod`. -/
def execControlPeriod (watts : List Nat) (mj : List Nat) (late : Bool) (s : State) : Host.Outcome State Fault Refusal :=
  s.liveChip (fun c => c.doControlPeriod watts mj late)

/-- SUPPLY_DROOP (R470): `Chip.doSupplyDroop`. -/
def execSupplyDroop (rail : Fin 32) (isl : List (BitVec 16)) (s : State) : Host.Outcome State Fault Refusal :=
  s.liveChip (fun c => c.doSupplyDroop rail.val isl)

/-- PROTECT_TRIP (R471): `Chip.doProtectTrip`. -/
def execProtectTrip (rail : Bool) (n : Fin 32) (s : State) : Host.Outcome State Fault Refusal :=
  s.onChip (fun c => c.doProtectTrip rail n.val)

/-- FAC_CAP_REQ (R474): `Chip.doFacCapReq`. -/
def execFacCapReq (w : BitVec 32) (s : State) : Host.Outcome State Fault Refusal :=
  s.onChip (fun c => c.doFacCapReq w)

/-- FAC_CAP_ACK (R475): `Chip.doFacCapAck`. -/
def execFacCapAck (a : SetupAcc) (s : State) : Host.Outcome State Fault Refusal :=
  s.liveChip (fun c => c.doFacCapAck a)

/-- TELEMETRY_PERIOD (R476): `Chip.doTelemetryPeriod`. -/
def execTelemetryPeriod (temps : List (BitVec 8)) (fec : List Nat) (late : List (BitVec 16)) (s : State) : Host.Outcome State Fault Refusal :=
  s.liveChip (fun c => c.doTelemetryPeriod temps fec late)

/-- GROUP_RECALIBRATION (R480): `Chip.doGroupRecalibration`. -/
def execGroupRecalibration (link : Fin 13) (group : Fin 5) (s : State) : Host.Outcome State Fault Refusal :=
  s.liveChip (fun c => c.doGroupRecalibration link.val group.val)

/-- FLASH_WEAR_LEVEL (R480): `Chip.doFlashWearLevel`. -/
def execFlashWearLevel (s : State) : Host.Outcome State Fault Refusal :=
  s.onChip (fun c => c.doFlashWearLevel)

/-- GET_VERSION (R489): `Chip.doGetVersion`. -/
def execGetVersion (tr : Fin 4) (s : State) : Host.Outcome State Fault Refusal :=
  s.onChip (fun c => c.doGetVersion tr.val)

/-- GET_CAPABILITIES (R489): `Chip.doGetCapabilities`. -/
def execGetCapabilities (tr : Fin 4) (s : State) : Host.Outcome State Fault Refusal :=
  s.onChip (fun c => c.doGetCapabilities tr.val)

/-- NEGOTIATE_ALGORITHMS (R489): `Chip.doNegotiateAlgorithms`. -/
def execNegotiateAlgorithms (tr : Fin 4) (falcon : Bool) (shake : Bool) (s : State) : Host.Outcome State Fault Refusal :=
  s.onChip (fun c => c.doNegotiateAlgorithms tr.val falcon shake)

/-- GET_DIGESTS (R489): `Chip.secGetDigests`. -/
def execGetDigests (tr : Fin 4) (s : State) : Host.Outcome State Fault Refusal :=
  s.onBoth (fun c k => c.secGetDigests k tr.val)

/-- GET_CERTIFICATE (R488): `Chip.secGetCertificate`. -/
def execGetCertificate (tr : Fin 4) (slot : Fin 8) (off : Fin 65536) (len : Fin 65536) (s : State) : Host.Outcome State Fault Refusal :=
  s.onBoth (fun c k => c.secGetCertificate k tr.val slot.val off.val len.val)

/-- CHALLENGE (R489): `Chip.secChallenge`. -/
def execChallenge (tr : Fin 4) (slot : Fin 8) (s : State) : Host.Outcome State Fault Refusal :=
  s.onBoth (fun c k => c.secChallenge k tr.val slot.val)

/-- GET_MEASUREMENTS (R491): `Chip.secGetMeasurements`. -/
def execGetMeasurements (tr : Fin 4) (op : Fin 256) (signed : Bool) (s : State) : Host.Outcome State Fault Refusal :=
  s.onBoth (fun c k => c.secGetMeasurements k tr.val op.val signed)

/-- RESPOND_IF_READY (R492): `Chip.doRespondIfReady`. -/
def execRespondIfReady (tr : Fin 4) (token : Nat) (s : State) : Host.Outcome State Fault Refusal :=
  s.onChip (fun c => c.doRespondIfReady tr.val token)

/-- SPDM_UNSUPPORTED (R489): `Chip.doSpdmUnsupported`. -/
def execSpdmUnsupported (tr : Fin 4) (s : State) : Host.Outcome State Fault Refusal :=
  s.onChip (fun c => c.doSpdmUnsupported tr.val)

/-- SPDM_SIGN_DONE (R492): `Chip.doSpdmSignDone`. -/
def execSpdmSignDone (s : State) : Host.Outcome State Fault Refusal :=
  s.onChip (fun c => c.doSpdmSignDone)

/-- SPDM_NOT_READY (R492): `Chip.doSpdmNotReady`. -/
def execSpdmNotReady (s : State) : Host.Outcome State Fault Refusal :=
  s.onChip (fun c => c.doSpdmNotReady)

/-- MCTP_CONTROL (R495): `Chip.doMctpControl`. -/
def execMctpControl (iface : Fin 4) (cmd : Fin 256) (s : State) : Host.Outcome State Fault Refusal :=
  s.onChip (fun c => c.doMctpControl iface.val cmd.val)

/-- PLDM_DISCOVERY (R497): `Chip.doPldmDiscovery`. -/
def execPldmDiscovery (iface : Fin 4) (s : State) : Host.Outcome State Fault Refusal :=
  s.onChip (fun c => c.doPldmDiscovery iface.val)

/-- PLDM_SENSOR_READ (R498): `Chip.doPldmSensorRead`. -/
def execPldmSensorRead (iface : Fin 4) (sensor : Fin 65536) (temp : BitVec 8) (s : State) : Host.Outcome State Fault Refusal :=
  s.onChip (fun c => c.doPldmSensorRead iface.val sensor.val temp)

/-- PLDM_FIRMWARE_UPDATE (R497): `Chip.secPldmFirmwareUpdate`. -/
def execPldmFirmwareUpdate (iface : Fin 4) (type : Fin 256) (arrived : Bool) (header : List Byte) (crypto : Bool) (s : State) : Host.Outcome State Fault Refusal :=
  s.onBoth (fun c k => c.secPldmFirmwareUpdate k iface.val type.val arrived header crypto)

/-- READ_EVENTS (R499): `Chip.doReadEvents`. -/
def execReadEvents (iface : Fin 4) (start : Fin 65536) (count : Fin 256) (s : State) : Host.Outcome State Fault Refusal :=
  s.onChip (fun c => c.doReadEvents iface.val start.val count.val)

/-- READ_REPORT (R499): `Chip.doReadReport`. -/
def execReadReport (iface : Fin 4) (which : Fin 256) (s : State) : Host.Outcome State Fault Refusal :=
  s.onChip (fun c => c.doReadReport iface.val which.val)

/-- PKG_RESET (R499): `Chip.secPkgReset`. -/
def execPkgReset (iface : Fin 4) (confirm : BitVec 32) (s : State) : Host.Outcome State Fault Refusal :=
  s.onBoth (fun c k => c.secPkgReset k iface.val confirm)

/-- COLD_RESET (R507): `Chip.secColdReset`. -/
def execColdReset (s : State) : Host.Outcome State Fault Refusal :=
  s.onBoth (fun c k => c.secColdReset k)

/-- BOOT_ROM_START (R500): `Chip.doBootRomStart`. -/
def execBootRomStart (s : State) : Host.Outcome State Fault Refusal :=
  s.onChip (fun c => c.doBootRomStart)

/-- WARM_RESET (R507): `Chip.secWarmReset`. -/
def execWarmReset (s : State) : Host.Outcome State Fault Refusal :=
  s.onBoth (fun c k => c.secWarmReset k)

/-- PWR_GOOD_RISE (R500): `Chip.doPwrGoodRise`. -/
def execPwrGoodRise (g : Fin 6) (s : State) : Host.Outcome State Fault Refusal :=
  s.onChip (fun c => c.doPwrGoodRise g.val)

/-- RAIL_FAIL (R501): `Chip.doRailFail`. -/
def execRailFail (g : Fin 6) (s : State) : Host.Outcome State Fault Refusal :=
  s.onChip (fun c => c.doRailFail g.val)

/-- PWR_GOOD_FALL (R501): `Chip.doPwrGoodFall`. -/
def execPwrGoodFall (g : Fin 6) (s : State) : Host.Outcome State Fault Refusal :=
  s.onChip (fun c => c.doPwrGoodFall g.val)

/-- SELF_TEST_STEP (R503): `Chip.secSelfTestStep`; commands that waited when the package left service are gone. -/
def execSelfTestStep (r : SelfTest) (s : State) : Host.Outcome State Fault Refusal :=
  (if s.chip.live then s else { s with held := [] }).onBoth (fun c k => c.secSelfTestStep k r)

/-- SETUP_WRITE (R509): `Chip.doSetupWrite`. -/
def execSetupWrite (addr : BitVec 52) (bytes : BitVec 8) (value : BitVec 64) (writer : BitVec 32) (s : State) : Host.Outcome State Fault Refusal :=
  s.guarded [22] (.setupWrite addr bytes value writer) (fun c => c.doSetupWrite addr bytes value writer)

/-- GEVENT (R520): `Chip.doGevent`. -/
def execGevent (a : SetupAcc) (s : State) : Host.Outcome State Fault Refusal :=
  s.liveChip (fun c => c.doGevent a)

/-- GEVENT_EN (R520): `Chip.doGeventEn`. -/
def execGeventEn (a : SetupAcc) (s : State) : Host.Outcome State Fault Refusal :=
  s.liveChip (fun c => c.doGeventEn a)

/-- TELE_BASE (R525): `Chip.doTeleBase`. -/
def execTeleBase (a : SetupAcc) (s : State) : Host.Outcome State Fault Refusal :=
  s.liveChip (fun c => c.doTeleBase a)

/-- LOG_BASE (R525): `Chip.doLogBase`. -/
def execLogBase (size : Bool) (a : SetupAcc) (s : State) : Host.Outcome State Fault Refusal :=
  s.liveChip (fun c => c.doLogBase size a)

/-- LOG_HEAD (R525): `Chip.doLogHead`. -/
def execLogHead (a : SetupAcc) (s : State) : Host.Outcome State Fault Refusal :=
  s.liveChip (fun c => c.doLogHead a)

/-- MODE (R530): `Chip.doMode`. -/
def execMode (a : SetupAcc) (s : State) : Host.Outcome State Fault Refusal :=
  s.liveChip (fun c => c.doMode a)

/-- HAUL_UDP (R530): `Chip.doHaulUdp`. -/
def execHaulUdp (a : SetupAcc) (s : State) : Host.Outcome State Fault Refusal :=
  s.liveChip (fun c => c.doHaulUdp a)

/-- PERIOD (R410): `Chip.doPeriod`. -/
def execPeriod (sq : Fin 1024) (a : SetupAcc) (s : State) : Host.Outcome State Fault Refusal :=
  s.liveChip (fun c => c.doPeriod sq.val a)

/-- HAUL_MALFORMED (R336): `Chip.doHaulMalformed`. -/
def execHaulMalformed (sub : Fin 32) (f : Frame) (s : State) : Host.Outcome State Fault Refusal :=
  s.liveChip (fun c => c.doHaulMalformed sub.val f)

/-- ROCE_INVALID_REQUEST (R358): `Chip.doRoceInvalidRequest`. -/
def execRoceInvalidRequest (n : Fin 4096) (p : RocePkt) (s : State) : Host.Outcome State Fault Refusal :=
  s.liveChip (fun c => c.doRoceInvalidRequest n.val p)

/-- CXL_CACHE_SNOOP (R360): `Chip.doCxlCacheSnoop`. -/
def execCxlCacheSnoop (addr : BitVec 52) (s : State) : Host.Outcome State Fault Refusal :=
  s.liveChip (fun c => c.doCxlCacheSnoop addr)

/-- CXL_CACHE_RESPONSE (R362): `Chip.doCxlCacheResponse`. -/
def execCxlCacheResponse (id : Nat) (res : CxlRes) (bs : List Byte) (s : State) : Host.Outcome State Fault Refusal :=
  s.guarded [18] (.cxlCacheResponse id res bs) (fun c => c.doCxlCacheResponse id res bs)

/-- CXL_LINK_UP (R360): `Chip.doCxlLinkUp`. -/
def execCxlLinkUp (width rate : Nat) (s : State) : Host.Outcome State Fault Refusal :=
  s.liveChip (fun c => c.doCxlLinkUp width rate)

/-- PAUSE_SEGMENT_START (R466): `Chip.doPauseSegmentStart`. -/
def execPauseSegmentStart (t : Fin 200) (s : State) : Host.Outcome State Fault Refusal :=
  s.liveChip (fun c => c.doPauseSegmentStart t.val)

/-- THERM_ALERT (R540): `Chip.doThermAlert`. -/
def execThermAlert (die : Fin 6) (above : Bool) (s : State) : Host.Outcome State Fault Refusal :=
  s.onChip (fun c => c.doThermAlert die.val above)

/-- POWER_LOSS (R443): `Chip.secPowerLoss`. -/
def execPowerLoss (s : State) : Host.Outcome State Fault Refusal :=
  s.onBoth (fun c k => c.secPowerLoss k)

/-- TIMER_COMPARE (R314): `Chip.doTimerCompare`. -/
def execTimerCompare (k : Fin 64) (machine : Bool) (cmp : BitVec 64) (s : State) : Host.Outcome State Fault Refusal :=
  s.liveChip (fun c => c.doTimerCompare k.val machine cmp)

/-- RAIL_RECOVERY (R470): `Chip.doRailRecovery`. -/
def execRailRecovery (rail : Fin 32) (s : State) : Host.Outcome State Fault Refusal :=
  s.liveChip (fun c => c.doRailRecovery rail.val)

end Sys2Proof.Machine
end

