-- ==== Sys2Proof/Machine/Dispatch.lean ====
section
/-!
DEFINITION. One arm for each command.
-/

namespace Sys2Proof.Machine

def exec (i : Instr) (s : State) : Host.Outcome State Fault Refusal :=
  match i with
  | .flitReceive l rev g seq crc lane => Sys2Proof.Machine.execFlitReceive l rev g seq crc lane s
  | .laneRepair l rev g lane => Sys2Proof.Machine.execLaneRepair l rev g lane s
  | .laneRepairDone l rev g => Sys2Proof.Machine.execLaneRepairDone l rev g s
  | .capture sq => Sys2Proof.Machine.execCapture sq s
  | .capGo a => Sys2Proof.Machine.execCapGo a s
  | .captureExecute => Sys2Proof.Machine.execCaptureExecute s
  | .nop t w => Sys2Proof.Machine.execNop t w s
  | .alu t w => Sys2Proof.Machine.execAlu t w s
  | .alui t w => Sys2Proof.Machine.execAlui t w s
  | .li t w => Sys2Proof.Machine.execLi t w s
  | .lih t w => Sys2Proof.Machine.execLih t w s
  | .ld t w => Sys2Proof.Machine.execLd t w s
  | .st t w => Sys2Proof.Machine.execSt t w s
  | .br t w => Sys2Proof.Machine.execBr t w s
  | .jal t w => Sys2Proof.Machine.execJal t w s
  | .jalr t w => Sys2Proof.Machine.execJalr t w s
  | .halt t w => Sys2Proof.Machine.execHalt t w s
  | .brk t w => Sys2Proof.Machine.execBrk t w s
  | .rsr t w => Sys2Proof.Machine.execRsr t w s
  | .wsr t w => Sys2Proof.Machine.execWsr t w s
  | .sosignal t w => Sys2Proof.Machine.execSosignal t w s
  | .soset t w => Sys2Proof.Machine.execSoset t w s
  | .sowait t w => Sys2Proof.Machine.execSowait t w s
  | .soread t w => Sys2Proof.Machine.execSoread t w s
  | .heldSignalSend t => Sys2Proof.Machine.execHeldSignalSend t s
  | .sowaitTimeout t => Sys2Proof.Machine.execSowaitTimeout t s
  | .workItemDone t => Sys2Proof.Machine.execWorkItemDone t s
  | .asyncException t => Sys2Proof.Machine.execAsyncException t s
  | .copy t w => Sys2Proof.Machine.execCopy t w s
  | .skew t w => Sys2Proof.Machine.execSkew t w s
  | .skewt t w => Sys2Proof.Machine.execSkewt t w s
  | .stat t w => Sys2Proof.Machine.execStat t w s
  | .statt t w => Sys2Proof.Machine.execStatt t w s
  | .fill t w => Sys2Proof.Machine.execFill t w s
  | .loadi t w => Sys2Proof.Machine.execLoadi t w s
  | .accsave t w => Sys2Proof.Machine.execAccsave t w s
  | .accrestore t w => Sys2Proof.Machine.execAccrestore t w s
  | .mwait t w => Sys2Proof.Machine.execMwait t w s
  | .moverOpComplete t tok => Sys2Proof.Machine.execMoverOpComplete t tok s
  | .mload t w => Sys2Proof.Machine.execMload t w s
  | .mmul t w => Sys2Proof.Machine.execMmul t w s
  | .mvmul t w => Sys2Proof.Machine.execMvmul t w s
  | .await t w => Sys2Proof.Machine.execAwait t w s
  | .loadStart t => Sys2Proof.Machine.execLoadStart t s
  | .passStart t => Sys2Proof.Machine.execPassStart t s
  | .arrayStep t => Sys2Proof.Machine.execArrayStep t s
  | .passComplete t => Sys2Proof.Machine.execPassComplete t s
  | .mvmulComplete t => Sys2Proof.Machine.execMvmulComplete t s
  | .arrayHwFault t mvp => Sys2Proof.Machine.execArrayHwFault t mvp s
  | .preemptRequest t => Sys2Proof.Machine.execPreemptRequest t s
  | .arrayStopped t => Sys2Proof.Machine.execArrayStopped t s
  | .tileResume t => Sys2Proof.Machine.execTileResume t s
  | .pauseSegmentEnd t => Sys2Proof.Machine.execPauseSegmentEnd t s
  | .vadd t w => Sys2Proof.Machine.execVadd t w s
  | .vmul t w => Sys2Proof.Machine.execVmul t w s
  | .vfma t w => Sys2Proof.Machine.execVfma t w s
  | .vmin t w => Sys2Proof.Machine.execVmin t w s
  | .vmax t w => Sys2Proof.Machine.execVmax t w s
  | .vminnum t w => Sys2Proof.Machine.execVminnum t w s
  | .vmaxnum t w => Sys2Proof.Machine.execVmaxnum t w s
  | .vcmp t w => Sys2Proof.Machine.execVcmp t w s
  | .vsel t w => Sys2Proof.Machine.execVsel t w s
  | .vcvt t w => Sys2Proof.Machine.execVcvt t w s
  | .fteval t w => Sys2Proof.Machine.execFteval t w s
  | .rsum t w => Sys2Proof.Machine.execRsum t w s
  | .rssq t w => Sys2Proof.Machine.execRssq t w s
  | .rmom t w => Sys2Proof.Machine.execRmom t w s
  | .mcomb t w => Sys2Proof.Machine.execMcomb t w s
  | .mvarp t w => Sys2Proof.Machine.execMvarp t w s
  | .mvars t w => Sys2Proof.Machine.execMvars t w s
  | .perm t w => Sys2Proof.Machine.execPerm t w s
  | .permf t w => Sys2Proof.Machine.execPermf t w s
  | .rmask t w => Sys2Proof.Machine.execRmask t w s
  | .rdrop t w => Sys2Proof.Machine.execRdrop t w s
  | .runif t w => Sys2Proof.Machine.execRunif t w s
  | .vld t w => Sys2Proof.Machine.execVld t w s
  | .vst t w => Sys2Proof.Machine.execVst t w s
  | .vlda t w => Sys2Proof.Machine.execVlda t w s
  | .vsta t w => Sys2Proof.Machine.execVsta t w s
  | .vbcast t w => Sys2Proof.Machine.execVbcast t w s
  | .vext t w => Sys2Proof.Machine.execVext t w s
  | .vins t w => Sys2Proof.Machine.execVins t w s
  | .mand t w => Sys2Proof.Machine.execMand t w s
  | .mor t w => Sys2Proof.Machine.execMor t w s
  | .mxor t w => Sys2Proof.Machine.execMxor t w s
  | .mandn t w => Sys2Proof.Machine.execMandn t w s
  | .mset t w => Sys2Proof.Machine.execMset t w s
  | .mget t w => Sys2Proof.Machine.execMget t w s
  | .setvl t w => Sys2Proof.Machine.execSetvl t w s
  | .vectorWait t => Sys2Proof.Machine.execVectorWait t s
  | .vectorComplete t => Sys2Proof.Machine.execVectorComplete t s
  | .ftWrite t k e d => Sys2Proof.Machine.execFtWrite t k e d s
  | .ftFlipRequest t k => Sys2Proof.Machine.execFtFlipRequest t k s
  | .ftFlip t k => Sys2Proof.Machine.execFtFlip t k s
  | .homeSignal ctx n v haul => Sys2Proof.Machine.execHomeSignal ctx n v haul s
  | .homeSet ctx n v => Sys2Proof.Machine.execHomeSet ctx n v s
  | .homeWait ctx n target tile key => Sys2Proof.Machine.execHomeWait ctx n target tile key s
  | .homeRead ctx n => Sys2Proof.Machine.execHomeRead ctx n s
  | .readShared h pa own fill => Sys2Proof.Machine.execReadShared h pa own fill s
  | .readUnique h pa own fill => Sys2Proof.Machine.execReadUnique h pa own fill s
  | .upgrade h pa own err => Sys2Proof.Machine.execUpgrade h pa own err s
  | .writeBack h pa copy => Sys2Proof.Machine.execWriteBack h pa copy s
  | .evict h pa => Sys2Proof.Machine.execEvict h pa s
  | .readOnce src pa own err => Sys2Proof.Machine.execReadOnce src pa own err s
  | .writeFull src pa d poison hint => Sys2Proof.Machine.execWriteFull src pa d poison hint s
  | .writePartial src pa d mask poison hint own err => Sys2Proof.Machine.execWritePartial src pa d mask poison hint own err s
  | .ledgeOp pa op own err => Sys2Proof.Machine.execLedgeOp pa op own err s
  | .transactionComplete pa => Sys2Proof.Machine.execTransactionComplete pa s
  | .snoopTimeout pa h => Sys2Proof.Machine.execSnoopTimeout pa h s
  | .hintDropped pa => Sys2Proof.Machine.execHintDropped pa s
  | .channelRetry pa nth persists => Sys2Proof.Machine.execChannelRetry pa nth persists s
  | .scrubRead ch turn => Sys2Proof.Machine.execScrubRead ch turn s
  | .scrubBehind ch => Sys2Proof.Machine.execScrubBehind ch s
  | .refresh ch allBanks ns => Sys2Proof.Machine.execRefresh ch allBanks ns s
  | .rfm ch bank acts ns => Sys2Proof.Machine.execRfm ch bank acts ns s
  | .calibration ch burst => Sys2Proof.Machine.execCalibration ch burst s
  | .backgroundWindow ch w => Sys2Proof.Machine.execBackgroundWindow ch w s
  | .memCe ch => Sys2Proof.Machine.execMemCe ch s
  | .ledgeNotify lq => Sys2Proof.Machine.execLedgeNotify lq s
  | .ledgeAhead lq => Sys2Proof.Machine.execLedgeAhead lq s
  | .ledgeNop lq => Sys2Proof.Machine.execLedgeNop lq s
  | .ledgeFill lq => Sys2Proof.Machine.execLedgeFill lq s
  | .accum lq => Sys2Proof.Machine.execAccum lq s
  | .scale lq => Sys2Proof.Machine.execScale lq s
  | .convert lq => Sys2Proof.Machine.execConvert lq s
  | .sumsq lq => Sys2Proof.Machine.execSumsq lq s
  | .optstep lq => Sys2Proof.Machine.execOptstep lq s
  | .mirror lq => Sys2Proof.Machine.execMirror lq s
  | .benchOp lq => Sys2Proof.Machine.execBenchOp lq s
  | .ledgeCommandComplete lq => Sys2Proof.Machine.execLedgeCommandComplete lq s
  | .ledgeHwFault e => Sys2Proof.Machine.execLedgeHwFault e s
  | .bucketOpen sq => Sys2Proof.Machine.execBucketOpen sq s
  | .bucketFilled tag => Sys2Proof.Machine.execBucketFilled tag s
  | .contribution tag pa mask addends poison ctx src => Sys2Proof.Machine.execContribution tag pa mask addends poison ctx src s
  | .bucketComplete tag => Sys2Proof.Machine.execBucketComplete tag s
  | .bucketLate tag => Sys2Proof.Machine.execBucketLate tag s
  | .bucketAbort sq => Sys2Proof.Machine.execBucketAbort sq s
  | .bucketAbortDone tag => Sys2Proof.Machine.execBucketAbortDone tag s
  | .versionBegin lq => Sys2Proof.Machine.execVersionBegin lq s
  | .versionEnd lq => Sys2Proof.Machine.execVersionEnd lq s
  | .holdRelease k psn => Sys2Proof.Machine.execHoldRelease k psn s
  | .mtimeWrite addr a => Sys2Proof.Machine.execMtimeWrite addr a s
  | .coreWfi k => Sys2Proof.Machine.execCoreWfi k s
  | .pcieWriteTlp p => Sys2Proof.Machine.execPcieWriteTlp p s
  | .pcieReadTlp p len => Sys2Proof.Machine.execPcieReadTlp p len s
  | .pcieMsi port reqid addr v => Sys2Proof.Machine.execPcieMsi port reqid addr v s
  | .msiWrite k file v => Sys2Proof.Machine.execMsiWrite k file v s
  | .portDown sub => Sys2Proof.Machine.execPortDown sub s
  | .subportUp sub => Sys2Proof.Machine.execSubportUp sub s
  | .pathRejoin sub => Sys2Proof.Machine.execPathRejoin sub s
  | .haulWrite sub f => Sys2Proof.Machine.execHaulWrite sub f s
  | .haulReadPacket sub f => Sys2Proof.Machine.execHaulReadPacket sub f s
  | .readResp sub f => Sys2Proof.Machine.execReadResp sub f s
  | .accumulateFp32 sub f => Sys2Proof.Machine.execAccumulateFp32 sub f s
  | .sendToRing sub f => Sys2Proof.Machine.execSendToRing sub f s
  | .haulSignal sub f => Sys2Proof.Machine.execHaulSignal sub f s
  | .ack sub f => Sys2Proof.Machine.execAck sub f s
  | .nak sub f => Sys2Proof.Machine.execNak sub f s
  | .connect sub f => Sys2Proof.Machine.execConnect sub f s
  | .accept sub f => Sys2Proof.Machine.execAccept sub f s
  | .close sub f => Sys2Proof.Machine.execClose sub f s
  | .pathdown sub f => Sys2Proof.Machine.execPathdown sub f s
  | .arpRequest sub f => Sys2Proof.Machine.execArpRequest sub f s
  | .neighbourSolicitation sub f => Sys2Proof.Machine.execNeighbourSolicitation sub f s
  | .pauseFrame sub f => Sys2Proof.Machine.execPauseFrame sub f s
  | .rawFrame sub f => Sys2Proof.Machine.execRawFrame sub f s
  | .packetComplete k psn => Sys2Proof.Machine.execPacketComplete k psn s
  | .ackTimer k => Sys2Proof.Machine.execAckTimer k s
  | .packetSend k full => Sys2Proof.Machine.execPacketSend k full s
  | .retxTimeout k psn => Sys2Proof.Machine.execRetxTimeout k psn s
  | .quarantineEnd k sub ent => Sys2Proof.Machine.execQuarantineEnd k sub ent s
  | .keepalive k => Sys2Proof.Machine.execKeepalive k s
  | .connTimeout k => Sys2Proof.Machine.execConnTimeout k s
  | .connectRetry k => Sys2Proof.Machine.execConnectRetry k s
  | .rcPeriod k qp => Sys2Proof.Machine.execRcPeriod k qp s
  | .roceSend n p => Sys2Proof.Machine.execRoceSend n p s
  | .roceRdmaWrite n p => Sys2Proof.Machine.execRoceRdmaWrite n p s
  | .roceRdmaRead n p => Sys2Proof.Machine.execRoceRdmaRead n p s
  | .roceReadResponse n p => Sys2Proof.Machine.execRoceReadResponse n p s
  | .roceAck n psn syndrome icrcOk => Sys2Proof.Machine.execRoceAck n psn syndrome icrcOk s
  | .roceCnp n icrcOk => Sys2Proof.Machine.execRoceCnp n icrcOk s
  | .roceTimeout n => Sys2Proof.Machine.execRoceTimeout n s
  | .registration k a req => Sys2Proof.Machine.execRegistration k a req s
  | .deregistration k writer => Sys2Proof.Machine.execDeregistration k writer s
  | .deregistrationDone k => Sys2Proof.Machine.execDeregistrationDone k s
  | .cxlLinkDown => Sys2Proof.Machine.execCxlLinkDown s
  | .linkReset => Sys2Proof.Machine.execLinkReset s
  | .cxlRequestTimeout id => Sys2Proof.Machine.execCxlRequestTimeout id s
  | .cxlioRequest bar off write bytes => Sys2Proof.Machine.execCxlioRequest bar off write bytes s
  | .sqDoorbell r off width value req => Sys2Proof.Machine.execSqDoorbell r off width value req s
  | .cqHeadDoorbell r off width value req => Sys2Proof.Machine.execCqHeadDoorbell r off width value req s
  | .doorbellAhead r => Sys2Proof.Machine.execDoorbellAhead r s
  | .ringNop sq => Sys2Proof.Machine.execRingNop sq s
  | .ctxCreate sq => Sys2Proof.Machine.execCtxCreate sq s
  | .ctxDestroy sq => Sys2Proof.Machine.execCtxDestroy sq s
  | .ctxGrant sq => Sys2Proof.Machine.execCtxGrant sq s
  | .ctxRevoke sq => Sys2Proof.Machine.execCtxRevoke sq s
  | .tlbInval sq => Sys2Proof.Machine.execTlbInval sq s
  | .memwrite sq => Sys2Proof.Machine.execMemwrite sq s
  | .run sq => Sys2Proof.Machine.execRun sq s
  | .soOpSignal sq => Sys2Proof.Machine.execSoOpSignal sq s
  | .soOpSet sq => Sys2Proof.Machine.execSoOpSet sq s
  | .soWait sq => Sys2Proof.Machine.execSoWait sq s
  | .soWaitTimeout sq => Sys2Proof.Machine.execSoWaitTimeout sq s
  | .lqBind sq => Sys2Proof.Machine.execLqBind sq s
  | .lqUnbind sq => Sys2Proof.Machine.execLqUnbind sq s
  | .pcieRegion sq => Sys2Proof.Machine.execPcieRegion sq s
  | .pcieRegionWithdraw sq => Sys2Proof.Machine.execPcieRegionWithdraw sq s
  | .fdRegion sq => Sys2Proof.Machine.execFdRegion sq s
  | .fdRegionWithdraw sq => Sys2Proof.Machine.execFdRegionWithdraw sq s
  | .connCreate sq => Sys2Proof.Machine.execConnCreate sq s
  | .connClose sq => Sys2Proof.Machine.execConnClose sq s
  | .neigh sq => Sys2Proof.Machine.execNeigh sq s
  | .haulPostWrite sq => Sys2Proof.Machine.execHaulPostWrite sq s
  | .haulPostAccumulate sq => Sys2Proof.Machine.execHaulPostAccumulate sq s
  | .haulPostSend sq => Sys2Proof.Machine.execHaulPostSend sq s
  | .haulPostSignal sq => Sys2Proof.Machine.execHaulPostSignal sq s
  | .sendi sq => Sys2Proof.Machine.execSendi sq s
  | .haulRead sq => Sys2Proof.Machine.execHaulRead sq s
  | .qpCreate sq => Sys2Proof.Machine.execQpCreate sq s
  | .qpPostSend sq => Sys2Proof.Machine.execQpPostSend sq s
  | .qpPostSendImm sq => Sys2Proof.Machine.execQpPostSendImm sq s
  | .qpPostWrite sq => Sys2Proof.Machine.execQpPostWrite sq s
  | .qpPostWriteImm sq => Sys2Proof.Machine.execQpPostWriteImm sq s
  | .qpPostRead sq => Sys2Proof.Machine.execQpPostRead sq s
  | .recvPost sq => Sys2Proof.Machine.execRecvPost sq s
  | .rawqBind sq => Sys2Proof.Machine.execRawqBind sq s
  | .ringBind sq => Sys2Proof.Machine.execRingBind sq s
  | .ringUnbind sq => Sys2Proof.Machine.execRingUnbind sq s
  | .cmRelease sq => Sys2Proof.Machine.execCmRelease sq s
  | .cont sq => Sys2Proof.Machine.execCont sq s
  | .descriptorComplete r => Sys2Proof.Machine.execDescriptorComplete r s
  | .logDrain cqn => Sys2Proof.Machine.execLogDrain cqn s
  | .graceExpiry cm k => Sys2Proof.Machine.execGraceExpiry cm k s
  | .load crypto => Sys2Proof.Machine.execLoad crypto s
  | .attach => Sys2Proof.Machine.execAttach s
  | .handover => Sys2Proof.Machine.execHandover s
  | .update crypto => Sys2Proof.Machine.execUpdate crypto s
  | .query => Sys2Proof.Machine.execQuery s
  | .mailboxBadCall code => Sys2Proof.Machine.execMailboxBadCall code s
  | .runStart => Sys2Proof.Machine.execRunStart s
  | .switchComplete t => Sys2Proof.Machine.execSwitchComplete t s
  | .deadlineExpiry sq => Sys2Proof.Machine.execDeadlineExpiry sq s
  | .periodEnd r => Sys2Proof.Machine.execPeriodEnd r s
  | .heartbeatRead k => Sys2Proof.Machine.execHeartbeatRead k s
  | .watchdogExpiry k => Sys2Proof.Machine.execWatchdogExpiry k s
  | .fpRejoin k => Sys2Proof.Machine.execFpRejoin k s
  | .ftimgPoll k => Sys2Proof.Machine.execFtimgPoll k s
  | .rdcurr slot addr => Sys2Proof.Machine.execRdcurr slot addr s
  | .itomwr slot addr data => Sys2Proof.Machine.execItomwr slot addr data s
  | .wowrinv slot addr be data => Sys2Proof.Machine.execWowrinv slot addr be data s
  | .domainSlotAssign strap reqid => Sys2Proof.Machine.execDomainSlotAssign strap reqid s
  | .upstreamCxlio write addr v => Sys2Proof.Machine.execUpstreamCxlio write addr v s
  | .tileHwFault t unit => Sys2Proof.Machine.execTileHwFault t unit s
  | .tileEccFence t corrected => Sys2Proof.Machine.execTileEccFence t corrected s
  | .workItemRestart t => Sys2Proof.Machine.execWorkItemRestart t s
  | .tileRepair a => Sys2Proof.Machine.execTileRepair a s
  | .repairDone pass => Sys2Proof.Machine.execRepairDone pass s
  | .pair a => Sys2Proof.Machine.execPair a s
  | .unpair a => Sys2Proof.Machine.execUnpair a s
  | .healthEval other temp => Sys2Proof.Machine.execHealthEval other temp s
  | .snapIntervalDue => Sys2Proof.Machine.execSnapIntervalDue s
  | .snapHoldRetry => Sys2Proof.Machine.execSnapHoldRetry s
  | .snapDone a => Sys2Proof.Machine.execSnapDone a s
  | .snapHoldExpired => Sys2Proof.Machine.execSnapHoldExpired s
  | .snapAbandoned => Sys2Proof.Machine.execSnapAbandoned s
  | .ckptAddr a => Sys2Proof.Machine.execCkptAddr a s
  | .ckptDone => Sys2Proof.Machine.execCkptDone s
  | .envelopeW a => Sys2Proof.Machine.execEnvelopeW a s
  | .tileGroup a => Sys2Proof.Machine.execTileGroup a s
  | .coreOff a => Sys2Proof.Machine.execCoreOff a s
  | .hbmSr a => Sys2Proof.Machine.execHbmSr a s
  | .ddrSr a => Sys2Proof.Machine.execDdrSr a s
  | .subportDis a => Sys2Proof.Machine.execSubportDis a s
  | .controlPeriod watts mj late => Sys2Proof.Machine.execControlPeriod watts mj late s
  | .supplyDroop rail isl => Sys2Proof.Machine.execSupplyDroop rail isl s
  | .protectTrip rail n => Sys2Proof.Machine.execProtectTrip rail n s
  | .facCapReq w => Sys2Proof.Machine.execFacCapReq w s
  | .facCapAck a => Sys2Proof.Machine.execFacCapAck a s
  | .telemetryPeriod temps fec late => Sys2Proof.Machine.execTelemetryPeriod temps fec late s
  | .groupRecalibration link group => Sys2Proof.Machine.execGroupRecalibration link group s
  | .flashWearLevel => Sys2Proof.Machine.execFlashWearLevel s
  | .getVersion tr => Sys2Proof.Machine.execGetVersion tr s
  | .getCapabilities tr => Sys2Proof.Machine.execGetCapabilities tr s
  | .negotiateAlgorithms tr falcon shake => Sys2Proof.Machine.execNegotiateAlgorithms tr falcon shake s
  | .getDigests tr => Sys2Proof.Machine.execGetDigests tr s
  | .getCertificate tr slot off len => Sys2Proof.Machine.execGetCertificate tr slot off len s
  | .challenge tr slot => Sys2Proof.Machine.execChallenge tr slot s
  | .getMeasurements tr op signed => Sys2Proof.Machine.execGetMeasurements tr op signed s
  | .respondIfReady tr token => Sys2Proof.Machine.execRespondIfReady tr token s
  | .spdmUnsupported tr => Sys2Proof.Machine.execSpdmUnsupported tr s
  | .spdmSignDone => Sys2Proof.Machine.execSpdmSignDone s
  | .spdmNotReady => Sys2Proof.Machine.execSpdmNotReady s
  | .mctpControl iface cmd => Sys2Proof.Machine.execMctpControl iface cmd s
  | .pldmDiscovery iface => Sys2Proof.Machine.execPldmDiscovery iface s
  | .pldmSensorRead iface sensor temp => Sys2Proof.Machine.execPldmSensorRead iface sensor temp s
  | .pldmFirmwareUpdate iface type arrived header crypto => Sys2Proof.Machine.execPldmFirmwareUpdate iface type arrived header crypto s
  | .readEvents iface start count => Sys2Proof.Machine.execReadEvents iface start count s
  | .readReport iface which => Sys2Proof.Machine.execReadReport iface which s
  | .pkgReset iface confirm => Sys2Proof.Machine.execPkgReset iface confirm s
  | .coldReset => Sys2Proof.Machine.execColdReset s
  | .bootRomStart => Sys2Proof.Machine.execBootRomStart s
  | .warmReset => Sys2Proof.Machine.execWarmReset s
  | .pwrGoodRise g => Sys2Proof.Machine.execPwrGoodRise g s
  | .railFail g => Sys2Proof.Machine.execRailFail g s
  | .pwrGoodFall g => Sys2Proof.Machine.execPwrGoodFall g s
  | .selfTestStep r => Sys2Proof.Machine.execSelfTestStep r s
  | .setupWrite addr bytes value writer => Sys2Proof.Machine.execSetupWrite addr bytes value writer s
  | .gevent a => Sys2Proof.Machine.execGevent a s
  | .geventEn a => Sys2Proof.Machine.execGeventEn a s
  | .teleBase a => Sys2Proof.Machine.execTeleBase a s
  | .logBase size a => Sys2Proof.Machine.execLogBase size a s
  | .logHead a => Sys2Proof.Machine.execLogHead a s
  | .mode a => Sys2Proof.Machine.execMode a s
  | .haulUdp a => Sys2Proof.Machine.execHaulUdp a s
  | .period sq a => Sys2Proof.Machine.execPeriod sq a s
  | .haulMalformed sub f => Sys2Proof.Machine.execHaulMalformed sub f s
  | .roceInvalidRequest n p => Sys2Proof.Machine.execRoceInvalidRequest n p s
  | .cxlCacheSnoop addr => Sys2Proof.Machine.execCxlCacheSnoop addr s
  | .cxlCacheResponse id res bs => Sys2Proof.Machine.execCxlCacheResponse id res bs s
  | .cxlLinkUp width rate => Sys2Proof.Machine.execCxlLinkUp width rate s
  | .pauseSegmentStart t => Sys2Proof.Machine.execPauseSegmentStart t s
  | .thermAlert die above => Sys2Proof.Machine.execThermAlert die above s
  | .powerLoss => Sys2Proof.Machine.execPowerLoss s
  | .timerCompare k machine cmp => Sys2Proof.Machine.execTimerCompare k machine cmp s
  | .railRecovery rail => Sys2Proof.Machine.execRailRecovery rail s

end Sys2Proof.Machine
end

