-- ==== Sys2Proof/Machine/Step.lean ====
section
/-!
DEFINITION. One step: the command at the front of the queue takes effect; on an empty queue the commands that wait are tried again, and
model time passes.
-/

namespace Sys2Proof.Machine

/-- The block with one tick of model time, 40 ns, passed (assumption 7). -/
def State.tick (s : State) : State := { s with chip := s.chip.modClk (fun k => { k with now := k.now + 1 }) }

/-- The waiting command whose turn it is to be tried again (assumption 103). -/
def State.nextHeld (s : State) : Option Held := s.held.find? (fun h => decide (s.tried < h.id))

/-- A waiting command tried again. -/
def State.again (s : State) (h : Held) : Host.Outcome State Fault Refusal :=
  match exec h.cmd { s with held := s.held.filter (fun x => x.id != h.id), tried := h.id, retrying := some h.id } with
  | .next t => .next { t with retrying := none }
  | o => o

/-- One step of the block: on an empty queue the waiting commands are tried in turn, and then model time passes. -/
def step (s : State) : Host.Outcome State Fault Refusal :=
  match s.pending with
  | c :: rest => exec c { s with pending := rest }
  | [] =>
    match s.nextHeld with
    | some h => s.again h
    | none => .next { s.tick with tried := 0 }

/-- The state with the command that a word spells in front of its queue; no row of the command table gives bits, so no
word spells one. -/
def State.withFetchWord (s : State) (nbits w : Nat) : State :=
  match decodeTableWord nbits w with
  | some c => { s with pending := c :: s.pending }
  | none => s

end Sys2Proof.Machine
end

