-- ==== Sys2Proof/Safety.lean ====
section
/-!
DEFINITION. What counts as a safe state, in the terms that claims use.
-/

namespace Sys2Proof

open Sys2Proof.Machine

/-- Package memory keeps its canonical form. -/
abbrev memoryCanonical (s : State) : Prop := s.chip.mem.bytes.wf = true

/-- A supply group that is good is enabled, and nothing is enabled without VAON (20 R500). -/
def suppliesSound (s : State) : Prop :=
  (∀ g, bit s.chip.boot.good g = true → bit s.chip.boot.en g = true) ∧ (s.chip.boot.aon = false → s.chip.boot.en = 0)

/-- The safe, talkative state keeps groups 1 to 5 disabled (20 R505). -/
def safeIsDark (s : State) : Prop := s.chip.boot.safe = true → s.chip.boot.en = 0 ∧ s.chip.boot.good = 0

/-- The anti-rollback counters of one state are not below those of another (19 R486). -/
abbrev countersKept (k k' : Secure) : Prop :=
  k.rec_.mgmt ≤ k'.rec_.mgmt ∧ k.rec_.hostboot ≤ k'.rec_.hostboot ∧ k.rec_.dispatch ≤ k'.rec_.dispatch ∧
    k.rec_.microcode ≤ k'.rec_.microcode ∧ k.rec_.keyGen ≤ k'.rec_.keyGen

/-- The state with another package. -/
def withChip (s : State) (c : Chip) : State := { s with chip := c }

/-- The state with one tile changed. -/
def withTile (s : State) (t : Fin 200) (v : Tile) : State := withChip s (s.chip.setTile t.val v)

/-- A tile as it stands. -/
def tileOf (s : State) (t : Fin 200) : Tile := s.chip.tileAt t.val

/-- A controller instruction of one opcode is the next to issue on a tile of a package in service: it stands at the program counter,
nothing blocks it, its reserved bits are zero, and the instruction after it lies in instruction memory (03 R65, 07 R178, R179). -/
abbrev ctlAt (s : State) (t : Fin 200) (w : BitVec 64) (op : Nat) : Prop :=
  s.chip.live = true ∧ (tileOf s t).issues w (ctlRegs w.toNat) = true ∧ iClass w.toNat = 0 ∧ iOp w.toNat = op ∧ iRsv w.toNat = 0 ∧
    (tileOf s t).pc + 8 < 0x10000

/-- A mover instruction of one opcode is the next to issue on a tile of a package in service, its fields are legal, the object it signals
exists, the mover has a place, and the next instruction lies in instruction memory (07 R178, R188, 03 R80). -/
abbrev movAt (s : State) (t : Fin 200) (w : BitVec 64) (op : Nat) : Prop :=
  s.chip.live = true ∧ (tileOf s t).issues w (movRegs w.toNat) = true ∧ iClass w.toNat = 1 ∧ iOp w.toNat = op ∧
    moverLegal w.toNat = true ∧ (mSig w.toNat = true → (tileOf s t).xr (mRso w.toNat) < 16384) ∧ (tileOf s t).mover.length < 16 ∧
    (tileOf s t).pc + 8 < 0x10000

/-- The operation that a mover instruction puts into the mover: the lowest free token, its operands and descriptors as they stand at
issue (03 R80, 07 R189). -/
def issuedOp (v : Tile) (n op : Nat) (dst src : Option TDesc) : MoverOp :=
  { token := freeToken v.mover, serial := v.serial, op := op, pc := v.pc, rd := v.xr (mRd n), rs := v.xr (mRs n), rx := v.xr (mRx n)
    src := src, dst := dst, so := if mSig n then some (v.xr (mRso n)) else none, sval := mSval n, started := false }

/-- A tile after a mover instruction has issued: the token in X[RT], the operation in the mover, the next instruction. -/
def moverIssued (v : Tile) (n op : Nat) (dst src : Option TDesc) : Tile :=
  { v.setX (mRt n) (freeToken v.mover) with
    serial := v.serial + 1, mover := startMover (v.mover ++ [issuedOp v n op dst src]), sent := v.sent || mSig n, pc := v.pc + 8 }

/-- An array instruction of one opcode is the next to issue on a tile of a package in service (07 R178, R179). -/
abbrev arrAt (s : State) (t : Fin 200) (w : BitVec 64) (op : Nat) : Prop :=
  s.chip.live = true ∧ (tileOf s t).issues w (arrRegs w.toNat) = true ∧ iClass w.toNat = 2 ∧ iOp w.toNat = op ∧
    (tileOf s t).pc + 8 < 0x10000

/-- The vector instructions with the row of their encoding: VOP × 8 plus the variant (06 Table 6.5, 07 Table 7.9). -/
def vectorRows : List ((Fin 200 → BitVec 64 → Instr) × Nat) :=
  [(Instr.vadd, 0x00), (Instr.vmul, 0x08), (Instr.vfma, 0x10), (Instr.vmin, 0x18), (Instr.vmax, 0x19), (Instr.vminnum, 0x1A),
   (Instr.vmaxnum, 0x1B), (Instr.vcmp, 0x20), (Instr.vsel, 0x28), (Instr.vcvt, 0x30), (Instr.fteval, 0x38), (Instr.rsum, 0x40),
   (Instr.rssq, 0x48), (Instr.rmom, 0x50), (Instr.mcomb, 0x58), (Instr.mvarp, 0x60), (Instr.mvars, 0x61), (Instr.perm, 0x68),
   (Instr.permf, 0x69), (Instr.rmask, 0x70), (Instr.rdrop, 0x78), (Instr.runif, 0x80), (Instr.vld, 0x88), (Instr.vst, 0x90),
   (Instr.vlda, 0x98), (Instr.vsta, 0xA0), (Instr.vbcast, 0xA8), (Instr.vext, 0xA9), (Instr.vins, 0xAA), (Instr.mand, 0xB0),
   (Instr.mor, 0xB1), (Instr.mxor, 0xB2), (Instr.mandn, 0xB3), (Instr.mset, 0xB8), (Instr.mget, 0xB9), (Instr.setvl, 0xC0)]

/-- The queue entry of a vector instruction at issue. -/
def vecEntry (v : Tile) (n : Nat) (os : List VOpnd) : VqEnt :=
  { serial := v.serial, pc := v.pc, w := n, wsr := none, xs := [], opnds := os, done := false, ftOld := none }

/-- A tile after a vector instruction has entered its empty queue. -/
def vecQueued (v : Tile) (n : Nat) (os : List VOpnd) : Tile :=
  { v with serial := v.serial + 1, pc := v.pc + 8, vec := { v.vec with q := [vecEntry v n os] } }

/-- A request for the line of an address begins at once: the package is in service, no earlier command waits, the address is backed, the
line is idle with nothing waiting, its home's queue has room, and its channel accepts requests (09 R225, 08 R219, R220). -/
abbrev lineIdle (s : State) (pa : BitVec 52) : Prop :=
  s.chip.live = true ∧ s.held = [] ∧ s.chip.mem.backed pa.toNat = true ∧ tabGet [] s.chip.mem.waitq (pa.toNat / 64) = [] ∧
    tabFind s.chip.mem.busy (pa.toNat / 64) = none ∧ s.chip.accepts (pa.toNat / 64) = true ∧
    s.chip.mem.queueFull (pa.toNat / 64) = false

/-- A transaction begun on a line: the package as it leaves it, and the line busy with the holders that it snooped (09 R225). -/
def lineBegun (before after : Chip) (ln : Nat) (q : Txn) : Chip :=
  after.modMem (fun m => { m with busy := tabSet m.busy ln { q with snooped := before.mem.snoops ln q } })

/-- The commands of a ledge queue with their opcodes (10 Table 10.3). -/
def ledgeRows : List ((Fin 320 → Instr) × Nat) :=
  [(Instr.ledgeNop, 0), (Instr.ledgeFill, 1), (Instr.accum, 2), (Instr.scale, 3), (Instr.convert, 4), (Instr.sumsq, 5),
   (Instr.optstep, 6), (Instr.mirror, 7)]

/-- The sequenced Haul packets with their operations (13 Table 13.3). -/
def haulRows : List ((Fin 32 → Frame → Instr) × Nat) :=
  [(Instr.haulWrite, 1), (Instr.haulReadPacket, 2), (Instr.readResp, 3), (Instr.accumulateFp32, 4), (Instr.sendToRing, 5),
   (Instr.haulSignal, 6)]

/-- A well-formed Haul packet of an operation arrives whole at a sub-port that is up (13 R332, R334, R336). -/
abbrev haulArrives (s : State) (sub : Fin 32) (f : Frame) (op : Nat) (p : Pkt) : Prop :=
  s.chip.live = true ∧ s.chip.haulOf sub.val f = some p ∧ fieldBE p.bytes 1 1 = op ∧ (s.chip.portAt sub.val).up = true ∧ f.fcsOk = true ∧
    f.bytes.length ≤ 9216 ∧ haulBad p.bytes = false

/-- A packet names an OPEN connection in its epoch (13 R336). -/
abbrev haulNamed (c : Chip) (p : Pkt) (k : Nat) : Prop :=
  k = fieldBE p.bytes 4 2 ∧ k < 16384 ∧ (c.connAt k).st = .open_ ∧ (c.connAt k).epoch = fieldBE p.bytes 6 2

/-- The package after a sub-port has counted a good frame. -/
def haulSeen (c : Chip) (sub : Nat) : Chip := c.setPort sub { c.portAt sub with frames := (c.portAt sub).frames + 1 }

/-- The package after a packet of a connection has been counted: the window up to its SCUM, its mark, and when it came (13 R342, R351). -/
def haulOn (c : Chip) (sub k : Nat) (p : Pkt) : Chip :=
  (haulSeen c sub).setConn k { c.connAt k with
    rx := { (c.connAt k).rx.slide (fieldBE p.bytes 12 4) with
            last := c.dispatch
            ce := if p.ce then (((c.connAt k).rx.slide (fieldBE p.bytes 12 4)).ce + (fieldBE p.bytes 2 2 + 63) / 64) % 2 ^ 32
                  else ((c.connAt k).rx.slide (fieldBE p.bytes 12 4)).ce } }

/-- The first descriptor of a ring may start and breaks no rule (14 R370, R371, R378). -/
abbrev descReady (s : State) (r : Fin 1024) (d : Desc) : Prop :=
  s.chip.live = true ∧ s.chip.headDesc r.val = some d ∧ s.chip.mayStart d = true ∧ s.chip.refusal d = none

/-- The descriptors that post a message on a connection (14 Table 14.5). -/
def postRows : List ((Fin 1024 → Instr) × (Desc → Bool)) :=
  [(Instr.haulPostWrite, fun d => d.op == 0x33 && !([4, 5, 6] : List Nat).contains (d.f 20 1)),
   (Instr.haulPostAccumulate, fun d => d.op == 0x33 && d.f 20 1 == 4), (Instr.haulPostSend, fun d => d.op == 0x33 && d.f 20 1 == 5),
   (Instr.haulPostSignal, fun d => d.op == 0x33 && d.f 20 1 == 6), (Instr.sendi, opIs 0x34), (Instr.haulRead, opIs 0x35)]

/-- The descriptors that post a work request on a queue pair (14 Table 14.5). -/
def qpRows : List ((Fin 1024 → Instr) × (Desc → Bool)) :=
  [(Instr.qpPostSend, fun d => d.op == 0x37 && !([1, 2, 3, 4] : List Nat).contains (d.f 18 1)),
   (Instr.qpPostSendImm, fun d => d.op == 0x37 && d.f 18 1 == 1), (Instr.qpPostWrite, fun d => d.op == 0x37 && d.f 18 1 == 2),
   (Instr.qpPostWriteImm, fun d => d.op == 0x37 && d.f 18 1 == 3), (Instr.qpPostRead, fun d => d.op == 0x37 && d.f 18 1 == 4)]

/-- Every ring command with the descriptors that it acts on (14 Table 14.5). -/
def descRows : List ((Fin 1024 → Instr) × (Desc → Bool)) :=
  [(Instr.ringNop, opIs 0x00), (Instr.ctxCreate, opIs 0x01), (Instr.ctxDestroy, opIs 0x02),
   (Instr.ctxGrant, fun d => d.op == 0x03 && d.f 24 1 != 0), (Instr.ctxRevoke, fun d => d.op == 0x03 && d.f 24 1 == 0),
   (Instr.tlbInval, opIs 0x04), (Instr.capture, opIs 0x05), (Instr.memwrite, opIs 0x06), (Instr.run, opIs 0x10),
   (Instr.soOpSignal, fun d => d.op == 0x11 && d.f 18 1 != 1), (Instr.soOpSet, fun d => d.op == 0x11 && d.f 18 1 == 1),
   (Instr.soWait, opIs 0x12), (Instr.lqBind, opIs 0x20), (Instr.lqUnbind, opIs 0x21), (Instr.bucketOpen, opIs 0x22),
   (Instr.bucketAbort, opIs 0x23), (Instr.pcieRegion, fun d => d.op == 0x24 && bit (d.f 18 1) 0),
   (Instr.pcieRegionWithdraw, fun d => d.op == 0x24 && !bit (d.f 18 1) 0), (Instr.fdRegion, fun d => d.op == 0x25 && bit (d.f 18 1) 0),
   (Instr.fdRegionWithdraw, fun d => d.op == 0x25 && !bit (d.f 18 1) 0), (Instr.connCreate, opIs 0x30), (Instr.connClose, opIs 0x31),
   (Instr.neigh, opIs 0x32), (Instr.qpCreate, opIs 0x36), (Instr.recvPost, opIs 0x38), (Instr.rawqBind, opIs 0x39),
   (Instr.ringBind, opIs 0x40), (Instr.ringUnbind, opIs 0x41), (Instr.cmRelease, opIs 0x42),
   (Instr.cont, fun d => !descOps.contains d.op)] ++ postRows ++ qpRows

/-- A write of all 8 bytes of a setup register by a host core or a firmware processor (21 R514, R515). -/
abbrev wholeWrite (a : SetupAcc) (v : Nat) : Prop := a.half = none ∧ a.value.toNat = v ∧ reachesSetup a.writer.toNat = true

/-- Every two-bit field of a number below `n` is a state that the register takes: 0, 1 or 2. -/
abbrev codesOk (v n : Nat) : Prop := v < 4 ^ n ∧ ∀ i < n, bits v (2 * i + 1) (2 * i) ≠ 3

/-- The management controller and the security block answer SPDM on a transport: the controller runs, the DOE mailbox is in service, and the
security block has not failed (19 R488, 20 R505). -/
abbrev spdmUp (s : State) (tr : Fin 4) : Prop :=
  s.chip.mgmtUp = true ∧ (tr.val = 3 → s.chip.live = true) ∧ s.chip.mgmt.secure = true ∧
    ¬ (s.chip.boot.safe = true ∧ s.chip.boot.report.code = 0x03)

/-- The measurements that an operation of GET_MEASUREMENTS asks for (19 R491). -/
def measOf (s : State) (op : Nat) : List Nat :=
  (if op = 255 then [1, 2, 3, 4, 5, 6, 7] else [op]).flatMap (fun i => i :: s.chip.measure s.sec i)

/-- Self-test is under way at a step (20 R503). -/
abbrev testing (s : State) (n : Nat) : Prop := s.chip.boot.aon = true ∧ s.chip.boot.safe = false ∧ s.chip.boot.step = n

/-- The commands that act outside service too: those of the supplies, the management controller and the security block (20 R500, R505). -/
def actsInDark : Instr → Bool
  | .protectTrip _ _ | .facCapReq _ | .flashWearLevel | .getVersion _ | .getCapabilities _ | .negotiateAlgorithms _ _ _ | .getDigests _
  | .getCertificate _ _ _ _ | .challenge _ _ | .getMeasurements _ _ _ | .respondIfReady _ _ | .spdmUnsupported _ | .spdmSignDone
  | .spdmNotReady | .mctpControl _ _ | .pldmDiscovery _ | .pldmSensorRead _ _ _ | .pldmFirmwareUpdate _ _ _ _ _ | .readEvents _ _ _
  | .readReport _ _ | .pkgReset _ _ | .coldReset | .bootRomStart | .warmReset | .pwrGoodRise _ | .railFail _ | .pwrGoodFall _
  | .selfTestStep _ | .thermAlert _ _ | .powerLoss => true
  | _ => false

end Sys2Proof
end

