-- ==== Sys2Proof/Certificates/Slice0/Obligations.lean ====
section
/-!
DEFINITION. What is claimed of the block.
-/

open Sys2Proof Sys2Proof.Machine

/-- A step takes the command at the front of the queue and runs it with the queue's rest; on an empty queue the first waiting command that
has not been tried since time last passed is tried again, and with none left 40 ns of model time pass and nothing else changes (the
model's choices, assumptions 7 and 103). -/
def Obligations.StepRunsTheFrontCommand : Prop :=
  (∀ (c : Instr) (s : State) (rest : List Instr), step { s with pending := c :: rest } = exec c { s with pending := rest }) ∧
  (∀ s : State, s.pending = [] → (∀ h ∈ s.held, h.id ≤ s.tried) → step s = .next
    { withChip s (s.chip.modClk (fun k => { k with now := k.now + 1 })) with tried := 0 }) ∧
  (∀ (s t : State) (h : Held), s.pending = [] → s.held.find? (fun x => decide (s.tried < x.id)) = some h →
    exec h.cmd { s with held := s.held.filter (fun x => x.id != h.id), tried := h.id, retrying := some h.id } = .next t →
    step s = .next { t with retrying := none }) ∧
  (∀ (s : State) (nbits w : Nat), s.withFetchWord nbits w = s)

/-- Every command answers a next state in every state, and none touches the queue of those that have not begun: it has its effect, or it
is kept among the commands that wait, with its places at the lines that it waits for and with none of its effect; none is kept where
nothing is under way that an access to memory could have to wait for (09 R225, R231, 08 R219, R220; assumption 103). -/
def Obligations.CommandsLeaveTheQueue : Prop :=
  ∀ (c : Instr) (s : State), ∃ t : State, exec c s = .next t ∧ t.pending = s.pending ∧ t.tried = s.tried ∧ t.retrying = s.retrying ∧
    (t.held = s.held ∨ t.held = [] ∨
      ∃ (key lines : List Nat) (free : Nat) (u : State), u = s.keep s.ident key c lines free ∧
        (t = u ∨ ∃ code : Nat, t = withChip u (u.chip.callEnd code 1)) ∧ t.sec = s.sec ∧ t.chip.tile = s.chip.tile ∧ t.chip.so = s.chip.so ∧ t.chip.cm = s.chip.cm) ∧
    (s.calm = true → t.held = [])

/-- Outside service only the supplies, the management controller and the security block act: any other command changes nothing before
self-test has passed, in the safe, talkative state, and without power (20 R503, R505). -/
def Obligations.DarkUnitsDoNothing : Prop :=
  ∀ (c : Instr) (s : State), s.chip.live = false → actsInDark c = false → exec c s = .next s

/-- No step lowers an anti-rollback counter: whatever the counters are not below before a step, they are not below after it (19 R486). -/
def Obligations.CountersNeverFall : Prop :=
  ∀ (k : Secure) (s t : State), countersKept k s.sec → step s = .next t → countersKept k t.sec

/-- What reset leaves where the specification gives it: no command waits, entries, rings and buckets are FREE, CTX0 alone is ACTIVE, no
flag is set, setup registers hold the reset values of their tables, and no counter is below zero of a fresh record (14 R367, R369, 15
R398, 21). -/
def Obligations.ResetValues : Prop :=
  State.reset.pending = [] ∧ State.reset.held = [] ∧ State.reset.retrying = none ∧ (∀ k, (State.reset.chip.cmAt k).st = .free ∧ (State.reset.chip.sqAt k).st = .free ∧
    (State.reset.chip.cqAt k).st = .free ∧ (State.reset.chip.bucketAt k).st = .free) ∧
  (∀ k, (State.reset.chip.ctxAt k).st = if k = 0 then .active else .free) ∧
  State.reset.chip.log.gevent = 0 ∧ State.reset.chip.log.geventEn = 0 ∧ State.reset.chip.rw 0x400000 = 3000 ∧
  State.reset.chip.rf 0x400008 11 0 = 1500 ∧ State.reset.chip.rf 0x500008 25 16 = 10 ∧ State.reset.chip.rf 0x500008 4 0 = 10 ∧
  State.reset.chip.rf 0x600000 50 48 = 2 ∧ State.reset.chip.rf 0x600008 6 4 = 3 ∧ State.reset.chip.rf 0x600010 63 32 = 300 ∧
  State.reset.chip.rf 0x600010 31 0 = 600 ∧ State.reset.chip.rf 0x600018 63 32 = 10000 ∧ State.reset.chip.rf 0x600018 31 0 = 60 ∧
  State.reset.chip.haulUdp = 46170 ∧ State.reset.chip.rf 0xA00008 17 0 = 15000 ∧
  (∀ t r : Nat, (State.reset.chip.tileAt t).xr r = 0) ∧ memoryCanonical State.reset ∧ suppliesSound State.reset ∧ safeIsDark State.reset ∧
  countersKept State.reset.sec State.reset.sec

/-- The functions of ALU and ALUI, in modulo-2^64 arithmetic (07 Table 7.4). -/
def Obligations.AluFunctionsAreTheTables : Prop :=
  ∀ a b : BitVec 64,
    aluF 0 a.toNat b.toNat = (a + b).toNat ∧ aluF 1 a.toNat b.toNat = (a - b).toNat ∧ aluF 2 a.toNat b.toNat = (a &&& b).toNat ∧
    aluF 3 a.toNat b.toNat = (a ||| b).toNat ∧ aluF 4 a.toNat b.toNat = (a ^^^ b).toNat ∧
    aluF 5 a.toNat b.toNat = (a <<< (b.toNat % 64)).toNat ∧ aluF 6 a.toNat b.toNat = (a >>> (b.toNat % 64)).toNat ∧
    aluF 7 a.toNat b.toNat = (a.sshiftRight (b.toNat % 64)).toNat ∧ aluF 8 a.toNat b.toNat = (a * b).toNat ∧
    aluF 9 a.toNat b.toNat = a.toNat * b.toNat / 2 ^ 64 ∧ aluF 10 a.toNat b.toNat = (if a.toInt < b.toInt then 1 else 0) ∧
    aluF 11 a.toNat b.toNat = (if a.toNat < b.toNat then 1 else 0) ∧
    aluF 12 a.toNat b.toNat = (if a.toInt < b.toInt then a.toNat else b.toNat) ∧
    aluF 13 a.toNat b.toNat = (if a.toInt < b.toInt then b.toNat else a.toNat) ∧
    aluF 14 a.toNat b.toNat = min a.toNat b.toNat ∧ aluF 15 a.toNat b.toNat = max a.toNat b.toNat

/-- NOP, ALU, ALUI, LI and LIH write their result to X[RD], which X0 discards, move to the next instruction, and change nothing else (07
R178, R181, Table 7.3, 03 R64). BR, JAL and JALR to a target inside instruction memory: the condition decides a branch, JAL and JALR leave
the address of the next instruction in X[RD], JALR's target is read before the link is written and its low three bits are cleared (07
R181, Table 7.3). -/
def Obligations.ControllerResultsAndFrame : Prop :=
  (∀ (s : State) (t : Fin 200) (w : BitVec 64),
    (ctlAt s t w 0 → w = 0 →
      exec (.nop t w) s = .next (withTile s t { tileOf s t with pc := (tileOf s t).pc + 8 })) ∧
    (ctlAt s t w 0x01 → bits w.toNat 31 0 = 0 →
      exec (.alu t w) s = .next (withTile s t
        { (tileOf s t).setX (iRd w.toNat)
            (aluF (iFunc w.toNat) ((tileOf s t).xr (iRs1 w.toNat)) ((tileOf s t).xr (iRs2 w.toNat))) with
          pc := (tileOf s t).pc + 8 })) ∧
    (ctlAt s t w 0x02 → iRs2 w.toNat = 0 →
      exec (.alui t w) s = .next (withTile s t
        { (tileOf s t).setX (iRd w.toNat) (aluF (iFunc w.toNat) ((tileOf s t).xr (iRs1 w.toNat)) (iImm w.toNat)) with
          pc := (tileOf s t).pc + 8 })) ∧
    (ctlAt s t w 0x03 → iRs1 w.toNat = 0 → iRs2 w.toNat = 0 → iFunc w.toNat = 0 →
      exec (.li t w) s = .next (withTile s t
        { (tileOf s t).setX (iRd w.toNat) (iImm w.toNat) with pc := (tileOf s t).pc + 8 })) ∧
    (ctlAt s t w 0x04 → iRs1 w.toNat = 0 → iRs2 w.toNat = 0 → iFunc w.toNat = 0 →
      exec (.lih t w) s = .next (withTile s t
        { (tileOf s t).setX (iRd w.toNat) (bits w.toNat 31 0 * 2 ^ 32 + (tileOf s t).xr (iRd w.toNat) % 2 ^ 32) with
          pc := (tileOf s t).pc + 8 }))) ∧
  (∀ (s : State) (t : Fin 200) (w : BitVec 64),
    (ctlAt s t w 0x10 → iRd w.toNat = 0 → iFunc w.toNat ≤ 5 → iImm w.toNat % 8 = 0 →
      ((tileOf s t).pc + iImm w.toNat) % 2 ^ 64 < 0x10000 →
      exec (.br t w) s = .next (withTile s t
        { tileOf s t with
          pc := if brTaken (iFunc w.toNat) ((tileOf s t).xr (iRs1 w.toNat)) ((tileOf s t).xr (iRs2 w.toNat))
                then ((tileOf s t).pc + iImm w.toNat) % 2 ^ 64 else (tileOf s t).pc + 8 })) ∧
    (ctlAt s t w 0x11 → iRs1 w.toNat = 0 → iRs2 w.toNat = 0 → iFunc w.toNat = 0 → iImm w.toNat % 8 = 0 →
      ((tileOf s t).pc + iImm w.toNat) % 2 ^ 64 < 0x10000 →
      exec (.jal t w) s = .next (withTile s t
        { (tileOf s t).setX (iRd w.toNat) ((tileOf s t).pc + 8) with pc := ((tileOf s t).pc + iImm w.toNat) % 2 ^ 64 })) ∧
    (ctlAt s t w 0x12 → iRs2 w.toNat = 0 → iFunc w.toNat = 0 →
      ((tileOf s t).xr (iRs1 w.toNat) + iImm w.toNat) % 2 ^ 64 / 8 * 8 < 0x10000 →
      exec (.jalr t w) s = .next (withTile s t
        { (tileOf s t).setX (iRd w.toNat) ((tileOf s t).pc + 8) with
          pc := ((tileOf s t).xr (iRs1 w.toNat) + iImm w.toNat) % 2 ^ 64 / 8 * 8 })))

/-- LD and ST of an aligned, unpoisoned, existing range that no vector write waits for move 1, 2, 4 or 8 bytes between a register and tile
memory, zero- or sign-extended on the load, and change nothing else (07 R182). LD and ST that are not aligned to their size raise
MISALIGNED with the offset, and those that reach beyond tile memory raise TMEM_BOUNDS with the first byte beyond; a LD of a poisoned
granule raises POISON with the offset and bit 63 set; nothing else of the instruction takes effect (03 R68, Table 3.4, 07 R182). -/
def Obligations.ScalarLoadsAndStores : Prop :=
  (∀ (s : State) (t : Fin 200) (w : BitVec 64) (size a : Nat),
    size = 2 ^ bits (iFunc w.toNat) 1 0 → a = ((tileOf s t).xr (iRs1 w.toNat) + iImm w.toNat) % 2 ^ 64 → a % size = 0 →
    a + size ≤ tmemSize → (tileOf s t).vec.q.any (fun e => e.writesTmem a (a + size)) = false →
    (ctlAt s t w 0x08 → iRs2 w.toNat = 0 → bit (iFunc w.toNat) 3 = false → (size = 8 → bit (iFunc w.toNat) 2 = false) →
      (tileOf s t).poisonedN a size = false →
      exec (.ld t w) s = .next (withTile s t
        { (tileOf s t).setX (iRd w.toNat)
            (if bit (iFunc w.toNat) 2 && bit ((tileOf s t).mem.readLE a size) (8 * size - 1)
             then (tileOf s t).mem.readLE a size + (2 ^ 64 - 2 ^ (8 * size)) else (tileOf s t).mem.readLE a size) with
          pc := (tileOf s t).pc + 8 })) ∧
    (ctlAt s t w 0x09 → iRd w.toNat = 0 → bits (iFunc w.toNat) 3 2 = 0 →
      exec (.st t w) s = .next (withTile s t
        { tileOf s t with mem := (tileOf s t).mem.writeLE a size ((tileOf s t).xr (iRs2 w.toNat)), pc := (tileOf s t).pc + 8 }))) ∧
  (∀ (s : State) (t : Fin 200) (w : BitVec 64) (size a : Nat),
    size = 2 ^ bits (iFunc w.toNat) 1 0 → a = ((tileOf s t).xr (iRs1 w.toNat) + iImm w.toNat) % 2 ^ 64 →
    (ctlAt s t w 0x08 → iRs2 w.toNat = 0 → bit (iFunc w.toNat) 3 = false → (size = 8 → bit (iFunc w.toNat) 2 = false) →
      (a % size ≠ 0 → exec (.ld t w) s = .next (withChip s (s.chip.takeExc t.val exMisaligned a))) ∧
      (a % size = 0 → tmemSize < a + size →
        exec (.ld t w) s = .next (withChip s (s.chip.takeExc t.val exBounds (max a tmemSize)))) ∧
      (a % size = 0 → a + size ≤ tmemSize → (tileOf s t).vec.q.any (fun e => e.writesTmem a (a + size)) = false →
        (tileOf s t).poisonedN a size = true →
        exec (.ld t w) s = .next (withChip s (s.chip.takeExc t.val exPoison (a + 2 ^ 63))))) ∧
    (ctlAt s t w 0x09 → iRd w.toNat = 0 → bits (iFunc w.toNat) 3 2 = 0 →
      (a % size ≠ 0 → exec (.st t w) s = .next (withChip s (s.chip.takeExc t.val exMisaligned a))) ∧
      (a % size = 0 → tmemSize < a + size →
        exec (.st t w) s = .next (withChip s (s.chip.takeExc t.val exBounds (max a tmemSize))))))

/-- An exception stops the work item, records TCAUSE, TEPC and TVAL, and leaves the registers and both memories of the tile; its wait is
withdrawn; once what has started has drained, the item ends with the exception's status and its RUN completes, after HW_FAULT only once
fencing has decided (03 R68, R69, 14 R381, 17 R446; which events look whether it has drained is the model's choice, assumption 34). HALT
stops issue; BREAK raises BREAK with its immediate; a halted item with nothing queued ends with DONE; a detected exception is taken at the
next instruction boundary (03 R66, R68, 07 R181, R184). -/
def Obligations.ExceptionsEndItems : Prop :=
  (∀ (c : Chip) (v : Tile) (t : Fin 200) (cause tval : Nat),
    ((v.raise cause tval).item = (if cause = exHwFault then .ended (0x40 + cause) else .ending (0x40 + cause) (tval % 2 ^ 64)) ∧
      (v.raise cause tval).tcause = cause ∧ (v.raise cause tval).tepc = (if v.item = .halting then v.pc + 8 else v.pc) % 2 ^ 32 ∧ (v.raise cause tval).tval = tval % 2 ^ 64 ∧ (v.raise cause tval).blocked = none ∧
      (v.raise cause tval).pend = none ∧ (v.raise cause tval).x = v.x ∧ (v.raise cause tval).mem = v.mem ∧
      (v.raise cause tval).imem = v.imem ∧ (∀ o ∈ (v.raise cause tval).mover, o ∈ v.mover ∧ o.started = true)) ∧
    (c.takeExc t.val cause tval = ((c.setTile t.val ((c.tileAt t.val).raise cause tval)).soWithdraw (.tile t.val)).settleEnd t.val) ∧
    ((∀ status detail, (c.tileAt t.val).item ≠ .ending status detail) → c.settleEnd t.val = c) ∧
    (∀ status detail, (c.tileAt t.val).item = .ending status detail → (c.tileAt t.val).drained = true →
      c.settleEnd t.val = (c.setTile t.val { c.tileAt t.val with item := .ended status }).workEnded t.val status detail) ∧
    (∀ status detail, (c.tileAt t.val).item = .ending status detail → (c.tileAt t.val).mover ≠ [] →
      ∃ hs : List HeldSig, c.settleEnd t.val = c.setTile t.val { c.tileAt t.val with held := hs } ∧ hs <+: (c.tileAt t.val).held) ∧
    (∀ w ∈ ((c.setTile t.val ((c.tileAt t.val).raise cause tval)).soWithdraw (.tile t.val)).so.waits, w.who ≠ .tile t.val)) ∧
  (∀ (s : State) (t : Fin 200) (w : BitVec 64) (cause tval : Nat),
    (ctlAt s t w 0x18 → w.toNat = 0x18 * 2 ^ 56 →
      exec (.halt t w) s = .next (withTile s t { tileOf s t with item := .halting, arr := (tileOf s t).arr.dropPending })) ∧
    (ctlAt s t w 0x19 → iRd w.toNat = 0 → iRs1 w.toNat = 0 → iRs2 w.toNat = 0 → iFunc w.toNat = 0 →
      exec (.brk t w) s = .next (withChip s (s.chip.takeExc t.val exBreak (bits w.toNat 31 0)))) ∧
    (s.chip.live = true → (tileOf s t).item = .halting → (tileOf s t).arr.q = [] → (tileOf s t).vec.q = [] →
      (tileOf s t).mover = [] → (tileOf s t).held = [] →
      exec (.workItemDone t) s = .next (withChip s ((s.chip.setTile t.val { tileOf s t with item := .ended 0 }).workEnded t.val 0 0))) ∧
    (s.chip.live = true → (tileOf s t).paused = false → (tileOf s t).item = .running → (tileOf s t).pend = some (cause, tval) →
      exec (.asyncException t) s = .next (withChip s (s.chip.takeExc t.val cause tval))))

/-- RSR reads a state register once what it waits for has drained; WSR writes an accumulator register when the array queue is empty and, a
vector register through an entry of the vector queue, in whose order it is written (07 R183, Table 7.5). -/
def Obligations.StateRegistersReadAndWritten : Prop :=
  ∀ (s : State) (t : Fin 200) (w : BitVec 64) (r : Nat), r = bits w.toNat 11 0 → bits w.toNat 31 12 = 0 → iRs2 w.toNat = 0 → iFunc w.toNat = 0 →
    (ctlAt s t w 0x20 → iRs1 w.toNat = 0 → (regPoints r).1 ≠ .never →
      ((regPoints r).1 = .arrayEmpty → (tileOf s t).arr.q = []) → ((regPoints r).1 = .vectorEmpty → (tileOf s t).vec.q = []) →
      exec (.rsr t w) s = .next (withTile s t
        { (tileOf s t).setX (iRd w.toNat) (s.chip.readReg t.val r) with pc := (tileOf s t).pc + 8 })) ∧
    (ctlAt s t w 0x21 → iRd w.toNat = 0 → (regPoints r).2 = .arrayEmpty → (tileOf s t).arr.q = [] →
      exec (.wsr t w) s = .next (withTile s t
        { tileOf s t with
          acc := (tileOf s t).acc.writeReg r ((tileOf s t).xr (iRs1 w.toNat)), pc := (tileOf s t).pc + 8 })) ∧
    (ctlAt s t w 0x21 → iRd w.toNat = 0 → (regPoints r).2 = .vectorOrder → (tileOf s t).vec.q.length < 4 → ∀ idle : Bool,
      idle = (tileOf s t).vec.q.all (·.done) →
      exec (.wsr t w) s = .next (withTile s t
        { tileOf s t with
          serial := (tileOf s t).serial + 1
          vec := { (if idle then (tileOf s t).vec.writeReg r ((tileOf s t).xr (iRs1 w.toNat)) else (tileOf s t).vec) with
                   q := (tileOf s t).vec.q ++ [{ serial := (tileOf s t).serial, pc := (tileOf s t).pc, w := w.toNat
                                                 wsr := some (r, (tileOf s t).xr (iRs1 w.toNat)), xs := [], opnds := [], done := idle
                                                 ftOld := none }] }
          pc := (tileOf s t).pc + 8 }))

/-- SOSIGNAL and SOSET hold their signal; SOREAD and a satisfied SOWAIT return the counter; an unsatisfied SOWAIT registers and blocks
issue; its timeout returns the counter with bit 63 set; a held signal with no earlier mover operation outstanding reaches its home (03 R85
to R89, 07 R185 to R187). -/
def Obligations.TileSyncInstructions : Prop :=
  ∀ (s : State) (t : Fin 200) (w : BitVec 64) (n : Nat), n = (tileOf s t).xr (iRs1 w.toNat) → n < 16384 →
    (ctlAt s t w 0x28 → iRd w.toNat = 0 → iFunc w.toNat = 0 → bits w.toNat 31 0 = 0 → (tileOf s t).held.length < 8 →
      exec (.sosignal t w) s = .next (withTile s t
        { tileOf s t with
          serial := (tileOf s t).serial + 1
          held := (tileOf s t).held ++ [{ serial := (tileOf s t).serial, so := n
                                          value := if iRs2 w.toNat = 0 then 1 else (tileOf s t).xr (iRs2 w.toNat) % 2 ^ 32
                                          isSet := false, pc := (tileOf s t).pc }]
          pc := (tileOf s t).pc + 8 })) ∧
    (ctlAt s t w 0x29 → iRd w.toNat = 0 → iFunc w.toNat = 0 → bits w.toNat 31 0 = 0 → (tileOf s t).held.length < 8 →
      exec (.soset t w) s = .next (withTile s t
        { tileOf s t with
          serial := (tileOf s t).serial + 1
          held := (tileOf s t).held ++ [{ serial := (tileOf s t).serial, so := n, value := (tileOf s t).xr (iRs2 w.toNat) % 2 ^ 32
                                          isSet := true, pc := (tileOf s t).pc }]
          pc := (tileOf s t).pc + 8 })) ∧
    (ctlAt s t w 0x2B → iRs2 w.toNat = 0 → iFunc w.toNat = 0 → bits w.toNat 31 0 = 0 → s.chip.soAllowed (tileOf s t).ctx n = true →
      exec (.soread t w) s = .next (withTile s t
        { (tileOf s t).setX (iRd w.toNat) (s.chip.soValue n) with pc := (tileOf s t).pc + 8 })) ∧
    (ctlAt s t w 0x2A → iFunc w.toNat = 0 → s.chip.soAllowed (tileOf s t).ctx n = true →
      exec (.sowait t w) s =
        if waitHolds (s.chip.soValue n) ((tileOf s t).xr (iRs2 w.toNat) % 2 ^ 32) then
          .next (withTile s t { (tileOf s t).setX (iRd w.toNat) (s.chip.soValue n) with pc := (tileOf s t).pc + 8 })
        else .next (withChip s ((s.chip.setTile t.val
          { tileOf s t with blocked := some (.sowait (iRd w.toNat) n (s.chip.count (srcTile t.val)) (bits w.toNat 31 0)) }).modSo
          (fun q => { q with waits := q.waits ++ [{ so := n, target := (tileOf s t).xr (iRs2 w.toNat) % 2 ^ 32, who := .tile t.val }] })))) ∧
    (∀ (h : HeldSig) (rest : List HeldSig), s.chip.live = true → (tileOf s t).held = h :: rest → (tileOf s t).paused = false →
      (∀ k, (tileOf s t).cancelFrom = some k → h.serial ≤ k) → (∀ o ∈ (tileOf s t).mover, h.serial ≤ o.serial) → s.chip.soAllowed (tileOf s t).ctx h.so = true →
      exec (.heldSignalSend t) s = .next (withChip s (((s.chip.setTile t.val { tileOf s t with held := rest, sent := true }).soApply
        (tileOf s t).ctx h.so h.value h.isSet).settleEnd t.val))) ∧
    (∀ rd so issued timeout : Nat, s.chip.live = true → (tileOf s t).blocked = some (.sowait rd so issued timeout) → timeout ≠ 0 →
      exec (.sowaitTimeout t) s = .next (withChip s
        ((((s.chip.passTo (srcTile t.val) (issued + timeout)).soWithdraw (.tile t.val)).setTile t.val
          { (tileOf s t).wake (s.chip.soValue so) true with pc := (tileOf s t).pc }).goto t.val ((tileOf s t).pc + 8))))

/-- A mover instruction whose operands pass its checks takes the lowest free token into X[RT], enters the mover with its operands as they
stand, and moves to the next instruction; nothing moves yet and nothing else changes (03 R80, 07 R188 to R190). MWAIT returns at once when
what it waits for is not outstanding, and otherwise blocks issue; AWAIT does so for the array queue (07 R189, R192). -/
def Obligations.MoverIssueAndWaits : Prop :=
  (∀ (s : State) (t : Fin 200) (w : BitVec 64) (dst src : Option TDesc),
    (movAt s t w 0x00 → mRx w.toNat = 0 → checkCopy w.toNat (tileOf s t) = .ok (dst, src) →
      exec (.copy t w) s = .next (withTile s t (moverIssued (tileOf s t) w.toNat 0x00 dst src))) ∧
    (movAt s t w 0x01 → mRx w.toNat = 0 → checkSkew w.toNat false (tileOf s t) = .ok (dst, src) →
      exec (.skew t w) s = .next (withTile s t (moverIssued (tileOf s t) w.toNat 0x01 dst src))) ∧
    (movAt s t w 0x02 → mRx w.toNat = 0 → checkSkew w.toNat true (tileOf s t) = .ok (dst, src) →
      exec (.skewt t w) s = .next (withTile s t (moverIssued (tileOf s t) w.toNat 0x02 dst src))) ∧
    (movAt s t w 0x03 → checkStat w.toNat false (tileOf s t) = .ok (dst, src) →
      exec (.stat t w) s = .next (withTile s t (moverIssued (tileOf s t) w.toNat 0x03 dst src))) ∧
    (movAt s t w 0x04 → checkStat w.toNat true (tileOf s t) = .ok (dst, src) →
      exec (.statt t w) s = .next (withTile s t (moverIssued (tileOf s t) w.toNat 0x04 dst src))) ∧
    (movAt s t w 0x05 → (tileOf s t).xr (mRd w.toNat) % 4 = 0 → (tileOf s t).xr (mRs w.toNat) % 4 = 0 →
      4 ≤ (tileOf s t).xr (mRs w.toNat) → (tileOf s t).xr (mRd w.toNat) + (tileOf s t).xr (mRs w.toNat) ≤ tmemSize →
      exec (.fill t w) s = .next (withTile s t (moverIssued (tileOf s t) w.toNat 0x05 none none))) ∧
    (movAt s t w 0x06 → (tileOf s t).xr (mRd w.toNat) % 8 = 0 → (tileOf s t).xr (mRs w.toNat) % 8 = 0 →
      (tileOf s t).xr (mRx w.toNat) % 8 = 0 → 8 ≤ (tileOf s t).xr (mRx w.toNat) →
      (tileOf s t).xr (mRd w.toNat) + (tileOf s t).xr (mRx w.toNat) ≤ 0x10000 →
      exec (.loadi t w) s = .next (withTile s t (moverIssued (tileOf s t) w.toNat 0x06 none none))) ∧
    (movAt s t w 0x07 → mRs w.toNat = 0 → mRx w.toNat = 0 → (tileOf s t).xr (mRd w.toNat) % 64 = 0 →
      exec (.accsave t w) s = .next (withTile s t (moverIssued (tileOf s t) w.toNat 0x07 none none))) ∧
    (movAt s t w 0x08 → mRd w.toNat = 0 → mRx w.toNat = 0 → (tileOf s t).xr (mRs w.toNat) % 64 = 0 →
      exec (.accrestore t w) s = .next (withTile s t (moverIssued (tileOf s t) w.toNat 0x08 none none)))) ∧
  (∀ (s : State) (t : Fin 200) (w : BitVec 64), s.chip.live = true → (tileOf s t).pc + 8 < 0x10000 →
    ((tileOf s t).issues w [mRs w.toNat] = true → iClass w.toNat = 1 → iOp w.toNat = 0x10 → mRt w.toNat = 0 → mRd w.toNat = 0 →
      mRx w.toNat = 0 → mRso w.toNat = 0 → mSig w.toNat = false → mSval w.toNat = 0 → bits w.toNat 28 16 = 0 →
      (mAll w.toNat = true → mRs w.toNat = 0) →
      exec (.mwait t w) s = .next (withTile s t
        (if (tileOf s t).mwaitOver w.toNat then { tileOf s t with pc := (tileOf s t).pc + 8 }
         else { tileOf s t with blocked := some .mwait }))) ∧
    ((tileOf s t).issues w [] = true → iClass w.toNat = 2 → iOp w.toNat = 0x08 → bits w.toNat 55 0 = 0 →
      exec (.await t w) s = .next (withTile s t
        (if (tileOf s t).arr.q.isEmpty then { tileOf s t with pc := (tileOf s t).pc + 8 }
         else { tileOf s t with blocked := some .await }))))

/-- Every mover operation that has started, that waits for no earlier one, and whose places exist, completes: a move has written the value
of each of its fields, FILL its 4-byte pattern over its range, clearing the poison of granules it covers, LOADI the image into instruction
memory, ACCSAVE the accumulator image with its poison into package memory, and ACCRESTORE the image back into the accumulators; then the
operation leaves the mover, frees its token and signals its object (03 R72, R77, R80, Tables 3.7 and 3.8, 05 R136, R138, 07 R190). An
operation that ends in a fault sends no signal, cancels what stands behind it, and raises its exception (03 R69, R80). -/
def Obligations.MoverOperationsEnd : Prop :=
  (∀ (s : State) (t : Fin 200) (tok : Fin 16) (o : MoverOp) (k hint : Nat),
    s.chip.live = true → s.calm = true → (tileOf s t).mover.find? (fun x => x.token == tok.val) = some o → (tileOf s t).paused = false →
    o.started = true → o.waits (tileOf s t).mover = false → k = (tileOf s t).ctx → hint = (s.chip.ctxAt k).hint →
    (o.op < 5 → (s.chip.outcome t.val o o.moves).fault = none →
      exec (.moverOpComplete t tok) s = .next (withChip s ((((s.chip.movesRead t.val o o.moves []).wrote t.val
        (s.chip.outcome t.val o o.moves).out hint).took ((s.chip.outcome t.val o o.moves).taken + 1)).moverDone t.val o))) ∧
    (o.op = 5 →
      exec (.moverOpComplete t tok) s = .next (withChip s
        ((s.chip.setTile t.val
          { tileOf s t with
            mem := (tileOf s t).mem.writeN o.rd ((List.range o.rs).map (fun i => (leBytes 4 (o.rx % 2 ^ 32)).getD (i % 4) 0))
            poison := rePoison (tileOf s t).poison ((List.range o.rs).map (fun i => o.rd + i)) [] }).moverDone t.val o))) ∧
    (∀ ps : List Place, o.op = 6 → ps = s.chip.rangePlaces t.val k o.rs o.rx false → firstFault ps = none →
      (∀ p ∈ ps, poisonAt (s.chip.mem.seenBy t.val) (tileOf s t) p = false) →
      exec (.moverOpComplete t tok) s = .next (withChip s (((s.chip.rangeUsed t.val k o.rs o.rx false).setTile t.val
        { tileOf s t with imem := (tileOf s t).imem.writeN o.rd (ps.map (byteAt s.chip.mem (tileOf s t).mem)) }).moverDone t.val o))) ∧
    (∀ ps : List Place, o.op = 7 → (tileOf s t).accFree o.serial = true → ps = s.chip.rangePlaces t.val k o.rd accImageLen true →
      firstFault ps = none →
      exec (.moverOpComplete t tok) s = .next (withChip s (((s.chip.rangeUsed t.val k o.rd accImageLen true).commitPhys
        ((tileOf s t).acc.saveWrites ps).reverse hint).moverDone t.val o))) ∧
    (∀ ps : List Place, o.op = 8 → (tileOf s t).accFree o.serial = true → ps = s.chip.rangePlaces t.val k o.rs accImageLen false →
      firstFault ps = none →
      exec (.moverOpComplete t tok) s = .next (withChip s (((s.chip.rangeUsed t.val k o.rs accImageLen false).setTile t.val
        { tileOf s t with
          acc := Acc.ofImage (ps.map (byteAt s.chip.mem (tileOf s t).mem)) ((s.chip.mem.seenBy t.val).badOf ps) }).moverDone t.val o))) ∧
    (∀ (c d : Chip), d = c.setTile t.val
        { c.tileAt t.val with mover := startMover ((c.tileAt t.val).mover.filter (fun p => p.token != o.token)) } →
      (o.so = none → c.moverDone t.val o = (d.unblock t.val).settleEnd t.val) ∧
      (∀ n, o.so = some n → c.soAllowed (c.tileAt t.val).ctx n = true →
        c.moverDone t.val o = ((d.soSignal n o.sval).unblock t.val).settleEnd t.val) ∧
      (∀ n, o.so = some n → c.soAllowed (c.tileAt t.val).ctx n = false →
        c.moverDone t.val o = ((d.detect t.val exSoDenied n).unblock t.val).settleEnd t.val))) ∧
  (∀ (c : Chip) (t : Fin 200) (o : MoverOp) (cause tval : Nat),
    ∃ v : Tile, c.moverFault t.val o cause tval none = ((c.setTile t.val v).detect t.val cause tval).settleEnd t.val ∧
        v.cancelFrom = some (match (c.tileAt t.val).cancelFrom with | some k => min k o.serial | none => o.serial) ∧
        v.mover = startMover ((c.tileAt t.val).mover.filter (fun p => p.token != o.token)) ∧ v.mem = (c.tileAt t.val).mem)

/-- MLOAD, MMUL and MVMUL whose operands pass their checks put one entry at the end of the array queue; an MLOAD's block becomes the
pending one, an MMUL with NEW claims it, and one without NEW uses the block of the pass before (04 R94, R95, R101, R103, R106, 07 R192,
R193). -/
def Obligations.ArrayInstructionsQueue : Prop :=
  ∀ (s : State) (t : Fin 200) (w : BitVec 64) (d d2 : TDesc) (b : Block) (k : Nat),
    (arrAt s t w 0x00 → bits w.toNat 55 51 = 0 → bits w.toNat 45 0 = 0 → (tileOf s t).goodDesc ((tileOf s t).xr (iRs1 w.toNat)) = .ok d →
      d.layout = 2 → (tileOf s t).arr.pending = none → (tileOf s t).arr.full = false →
      ∃ e : ArrEnt, e.kind = .load ∧ e.serial = (tileOf s t).serial ∧ e.pc = (tileOf s t).pc ∧ e.dA = d ∧ e.started = false ∧
        exec (.mload t w) s = .next (withTile s t
          { tileOf s t with
            serial := (tileOf s t).serial + 1, pc := (tileOf s t).pc + 8
            arr := { (tileOf s t).arr with
              q := (tileOf s t).arr.q ++ [e], pending := some (tileOf s t).serial, claimed := false
              blocks := tabSet (tileOf s t).arr.blocks (tileOf s t).serial
                { pc := (tileOf s t).pc, img := (tileOf s t).xr (iRs1 w.toNat), desc := d, lines := [], scales := [] } } })) ∧
    (arrAt s t w 0x01 → bits w.toNat 55 51 = 0 → bits w.toNat 11 0 = 0 → (tileOf s t).goodDesc ((tileOf s t).xr (iRs1 w.toNat)) = .ok d →
      d.layout = 1 → (tileOf s t).xr (iRs2 w.toNat) ≤ 8191 → (tileOf s t).xr (iRs2 w.toNat) + (bits w.toNat 40 32 + 1) ≤ d.extent 1 →
      bits w.toNat 30 22 + (bits w.toNat 40 32 + 1) ≤ 512 →
      (if bit w.toNat 12 then (if (tileOf s t).arr.claimed then none else (tileOf s t).arr.pending) else (tileOf s t).arr.use) = some k →
      tabFind (tileOf s t).arr.blocks k = some b → pairOk d.fmt d.mx b.desc.fmt b.desc.mx = true →
      (tileOf s t).arr.full = false →
      ∃ e : ArrEnt, e.kind = .pass ∧ e.blk = k ∧ e.m = bits w.toNat 40 32 + 1 ∧ e.n = bits w.toNat 21 15 + 1 ∧
        e.row0 = (tileOf s t).xr (iRs2 w.toNat) ∧ e.bank = bits w.toNat 31 31 ∧ e.arow = bits w.toNat 30 22 ∧ e.acc = bit w.toNat 14 ∧ e.dA = d ∧
        e.compat = bit w.toNat 13 ∧ e.isNew = bit w.toNat 12 ∧ e.started = false ∧
        exec (.mmul t w) s = .next (withTile s t
          { tileOf s t with
            serial := (tileOf s t).serial + 1, pc := (tileOf s t).pc + 8
            arr := { (tileOf s t).arr with q := (tileOf s t).arr.q ++ [e], use := some k, claimed := (tileOf s t).arr.claimed || e.isNew } })) ∧
    (arrAt s t w 0x02 → bits w.toNat 55 51 = 0 → bits w.toNat 40 32 = 0 → bits w.toNat 21 15 = 0 → bits w.toNat 12 0 = 0 →
      (tileOf s t).goodDesc ((tileOf s t).xr (iRs1 w.toNat)) = .ok d → (tileOf s t).goodDesc ((tileOf s t).xr (iRs2 w.toNat)) = .ok d2 →
      d.tmem = true → d.layout = 0 → d.rank = 2 → d2.tmem = true → d2.layout = 0 → d2.rank = 2 → d.extent 0 = d2.extent 0 →
      d.extent 0 ≤ 16384 → d.extent 1 ≤ 8 → d2.extent 1 ≤ 128 → bits w.toNat 30 22 + d.extent 1 ≤ 512 →
      pairOk d.fmt d.mx d2.fmt d2.mx = true → (tileOf s t).arr.full = false →
      ∃ e : ArrEnt, e.kind = .mvmul ∧ e.dA = d ∧ e.dW = some d2 ∧ e.m = d.extent 1 ∧ e.n = d2.extent 1 ∧
        exec (.mvmul t w) s = .next (withTile s t
          { tileOf s t with
            serial := (tileOf s t).serial + 1, pc := (tileOf s t).pc + 8
            arr := { (tileOf s t).arr with q := (tileOf s t).arr.q ++ [e] } }))

/-- The first queued load starts at the smallest step that its constraints allow, and so does the first queued pass once its load has
started and nothing holds it: three steps after issue, after the present step, 128 steps after the last load, when the last pass has fed
its rows, one step after the start of the load that it consumes, and, where the step length changes, when every earlier pass has left (04
R96 to R99). ARRAY_STEP: a step whose lines need a bank twice, or that meets a row of an MVMUL at its port, is a hold step, in which no
event moves on; where another unit may ask for the banks, a free value decides whether it is one; any other step reads its lines, writes
the rows that leave, and raises the step counter by one, a poisoned line raising POISON; a waiting instruction or an ending item goes on
when nothing is left (04 R91, R98, R100, 05 R123). -/
def Obligations.ArrayStartsAndSteps : Prop :=
  ((∀ (s : State) (t : Fin 200) (e : ArrEnt), s.chip.live = true → (tileOf s t).paused = false → (tileOf s t).arr.stopped = false →
    ((tileOf s t).arr.q.find? (fun x => x.kind == .load && !x.started) = some e → (tileOf s t).arrWaits e = false →
      (tileOf s t).loadWaits e = false →
      exec (.loadStart t) s = .next (withTile s t { tileOf s t with arr := (tileOf s t).arr.startLoad e ((tileOf s t).arr.loadStart e) })) ∧
    ((tileOf s t).arr.q.find? (fun x => x.kind == .pass && !x.started) = some e → (tileOf s t).passWaits e = false →
      exec (.passStart t) s = .next (withTile s t
        { tileOf s t with arr := (tileOf s t).arr.startPass e ((tileOf s t).arr.passStart e ((tileOf s t).arr.waveStart e)) }))) ∧
  (∀ (a : Arr) (e : ArrEnt) (n : Nat),
    (a.loadStart e ≤ n ↔ e.issue + 3 ≤ n ∧ a.step + 1 ≤ n ∧ (∀ l, a.lastLoad = some l → l + 128 ≤ n) ∧
      (∀ k b, a.active = some k → tabFind a.blocks k = some b → stepLen b.desc.fmt ≠ stepLen e.dA.fmt → a.lastDone ≤ n)) ∧
    (∀ lam : Option Nat, a.passStart e lam ≤ n ↔ e.issue + 3 ≤ n ∧ a.step + 1 ≤ n ∧ (∀ l, a.lastE = some l → l + a.lastM ≤ n) ∧
      (∀ l, lam = some l → l + 1 ≤ n) ∧ (a.lastE.isSome = true → a.lastLen ≠ stepLen e.dA.fmt → a.lastDone ≤ n)))) ∧
  ((∀ (s : State) (t : Fin 200), s.chip.live = true → (tileOf s t).paused = false → (tileOf s t).powered = true →
    ((tileOf s t).arr.held < (tileOf s t).arr.holds ∨ (tileOf s t).arr.portMeets = true →
      exec (.arrayStep t) s = .next (withTile s t (tileOf s t).holdStep)) ∧
    ((tileOf s t).arr.holds ≤ (tileOf s t).arr.held → (tileOf s t).arr.portMeets = false →
      ∀ c : Chip, c = (if (tileOf s t).contended then s.chip.took 1 else s.chip) →
      ((tileOf s t).contended = true → Config.freeValue s.chip.free % 2 = 1 →
        exec (.arrayStep t) s = .next (withChip s (c.setTile t.val (tileOf s t).holdStep))) ∧
      (((tileOf s t).contended = true → Config.freeValue s.chip.free % 2 ≠ 1) →
        ((tileOf s t).stepPoison = none →
          exec (.arrayStep t) s = .next (withChip s
            (((c.setTile t.val ((tileOf s t).advance (s.chip.ctxAt (tileOf s t).ctx).seed none)).unblock t.val).settleEnd t.val))) ∧
        (∀ (e : ArrEnt) (g row : Nat), (tileOf s t).stepPoison = some (e, g, row) →
          exec (.arrayStep t) s = .next (withChip s
            (((c.arrFault t.val ((tileOf s t).advance (s.chip.ctxAt (tileOf s t).ctx).seed (some (e, g, row))) exPoison
              (if e.kind = .load then 1 else 0) row e.pc (64 * g + 2 ^ 63)).unblock t.val).settleEnd t.val)))))) ∧
  (∀ (v : Tile) (seed : Nat) (hit : Option (ArrEnt × Nat × Nat)),
    (v.advance seed hit).arr.step = v.arr.step + 1 ∧ (v.advance seed hit).arr.held = 0 ∧ (v.advance seed hit).hold = v.hold ∧
    (v.advance seed hit).x = v.x ∧ (v.advance seed hit).pc = v.pc ∧ (v.advance seed hit).item = v.item ∧
    (v.advance seed hit).mem = v.mem ∧ (v.advance seed hit).imem = v.imem ∧ (v.advance seed hit).vec = v.vec ∧
    (v.advance seed hit).mover = v.mover ∧
    v.holdStep.arr.step = v.arr.step ∧ v.holdStep.hold = v.hold + 1 ∧ v.holdStep.acc = v.acc ∧ v.holdStep.mem = v.mem))

/-- A pass whose last row is written leaves the queue; an MVMUL that nothing holds back writes its rows and leaves, and in the wide,
shallow form the active plane is reloaded behind it; a hardware fault writes no further row, empties the queue, fences the matrix-vector
path where it is the unit, and is detected as HW_FAULT; a request for pre-emption, which a pause holds, acts on the item of the tile; a
clock pause holds the tile and its end releases it (04 R96, R107, R110 to R112, R117, 05 R123, 07 R198). -/
def Obligations.ArrayEventsAct : Prop :=
  ∀ (s : State) (t : Fin 200) (e : ArrEnt), s.chip.live = true →
    ((tileOf s t).paused = false →
      (tileOf s t).arr.q.find? (fun x => x.kind == .pass && x.started && x.written == x.m && decide (x.start + x.m + 255 ≤ (tileOf s t).arr.step)) = some e →
      exec (.passComplete t) s = .next (withChip s (((s.chip.setTile t.val
        { tileOf s t with arr := { (tileOf s t).arr with q := (tileOf s t).arr.q.filter (fun x => x.serial != e.serial) } }).unblock
          t.val).settleEnd t.val))) ∧
    (∀ (earlier : List ArrEnt) (u : Tile), (tileOf s t).arr.q.find? (fun x => x.kind == .mvmul) = some e →
      earlier = (tileOf s t).arr.q.filter (fun x => decide (x.serial < e.serial)) → (tileOf s t).paused = false →
      (tileOf s t).arr.going e = true → (tileOf s t).arrWaits e = false →
      (∀ x ∈ earlier, x.kind = .pass → rowsMeet x.rows e.rows = false) → (tileOf s t).mvPoison e = none →
      u = Tile.markRows { tileOf s t with
        acc := (tileOf s t).mvWrite e (s.chip.ctxAt (tileOf s t).ctx).seed e.m
        arr := { (tileOf s t).arr with q := (tileOf s t).arr.q.filter (fun x => x.serial != e.serial) } } →
      ((tileOf s t).mvpFenced = false →
        exec (.mvmulComplete t) s = .next (withChip s (((s.chip.setTile t.val
          { u with arr := { u.arr with port := some (e.bank, e.m) } }).unblock t.val).settleEnd t.val))) ∧
      ((tileOf s t).mvpFenced = true → earlier = [] → (tileOf s t).arr.stopped = false →
        exec (.mvmulComplete t) s = .next (withChip s (((s.chip.setTile t.val u.reload).unblock t.val).settleEnd t.val)))) ∧
    ((tileOf s t).item = .running → (tileOf s t).blocked = none → (tileOf s t).pend = none → (tileOf s t).arr.afault = 0 →
      ((tileOf s t).arr.q.find? (fun x => x.kind == .mvmul) = some e → (tileOf s t).mvpFenced = false →
        ∃ v : Tile, exec (.arrayHwFault t true) s = .next (withTile s t v) ∧ v.pend = some (exHwFault, 0x04) ∧ v.mvpFenced = true ∧
          v.arr.afault = afaultOf exHwFault 2 0 e.pc ∧ v.arr.q = [] ∧ v.arr.stopped = true ∧ v.mem = (tileOf s t).mem) ∧
      ((tileOf s t).arr.q.find? (fun x => x.kind == .pass && decide (x.written < x.m)) = some e →
        ∃ v : Tile, exec (.arrayHwFault t false) s = .next (withTile s t v) ∧ v.pend = some (exHwFault, 0x03) ∧
          v.arr.afault = afaultOf exHwFault 0 e.written e.pc ∧ v.arr.q = [] ∧ v.arr.stopped = true ∧ v.mem = (tileOf s t).mem)) ∧
    ((tileOf s t).item = .running → (tileOf s t).paused = false → (tileOf s t).pend = none →
      exec (.preemptRequest t) s = .next (withChip s ((s.chip.setTile t.val
        { tileOf s t with item := .saving, blocked := none, arr := (tileOf s t).arr.preempt }).soWithdraw (.tile t.val)))) ∧
    (∀ cause tval : Nat, (tileOf s t).item = .running → (tileOf s t).paused = false → (tileOf s t).pend = some (cause, tval) →
      exec (.preemptRequest t) s = .next (withChip s (s.chip.takeExc t.val cause tval))) ∧
    ((tileOf s t).item = .running → (tileOf s t).paused = true →
      exec (.preemptRequest t) s = .next (withTile s t { tileOf s t with preAsk := true })) ∧
    ((tileOf s t).powered = true → exec (.pauseSegmentStart t) s = .next (withTile s t { tileOf s t with paused := true })) ∧
    ((tileOf s t).preAsk = false →
      exec (.pauseSegmentEnd t) s = .next (withTile s t { tileOf s t with paused := false, preAsk := false })) ∧
    ((tileOf s t).preAsk = true → exec (.pauseSegmentEnd t) s = .next (withChip s
      ((s.chip.setTile t.val { tileOf s t with paused := false, preAsk := false }).doPreemptRequest t.val)))

/-- A stopped item that is to be dropped ends with its status; one that was pre-empted is written to its context's slot and leaves the
tile, or ends with the fault of the slot's pages; it resumes at its saved program counter with its saved registers (04 R112, R114, 07
R198, 15 R411). -/
def Obligations.StoppedItemSavedOrDropped : Prop :=
  ∀ (s : State) (t : Fin 200) (k : Work), s.chip.live = true → s.calm = true →
    (s.chip.workOf (tileOf s t).work = some k → (tileOf s t).item = .saving → (tileOf s t).paused = false → k.phys = t.val → (tileOf s t).drained = true →
      (∀ status detail : Nat, k.drop = some (status, detail) →
        exec (.arrayStopped t) s = .next (withChip s ((s.chip.setTile t.val
          { tileOf s t with item := .ended status, arr := Arr.fresh }).workEnded t.val status detail))) ∧
      (∀ o : Except VFault Chip, k.drop = none →
        o = s.chip.saveAll t.val k.ctx (s.chip.ctxAt k.ctx).hint ((tileOf s t).stopImages (s.chip.slotOf k.ctx ((s.chip.logicalOf t.val).getD 0))) →
        exec (.arrayStopped t) s = .next (withChip s (match o with
          | .ok d => (d.setTile t.val { d.tileAt t.val with item := .saved }).setWork
              { k with preempted := true, phys := 200, sent := (tileOf s t).sent }
          | .error f => ((s.chip.ctxFaulted k.ctx f).setTile t.val { tileOf s t with item := .ended (faultStatus f), arr := Arr.fresh }).workEnded
              t.val (faultStatus f) f.detail)))) ∧
    (∀ (d : Chip) (b : List Byte) (p : List Nat) (u u1 u2 : Tile),
      s.chip.fw.work.find? (fun w => w.phys == t.val && w.preempted && !w.switching) = some k → (tileOf s t).item = .saved →
      (tileOf s t).work = k.key →
      s.chip.loadRange t.val k.ctx (s.chip.slotOf k.ctx ((s.chip.logicalOf t.val).getD 0) + 0x610000) 512 = .ok (d, b, p) →
      u = { d.tileAt t.val with
              pc := fieldLE b 0 8, item := .running, sent := k.sent
              x := ((List.range 31).map (fun i => (i + 1, fieldLE b (8 * i + 8) 8))).filter (fun q => q.2 != 0) } →
      u.reloadActive ((b.drop 256).take 160) = .ok u1 → u1.reissueAll ((b.drop 256).take 160) = .ok u2 →
      exec (.tileResume t) s = .next (withChip s (((d.setTile t.val u).setWork { k with preempted := false }).setTile t.val u2)))

/-- Every vector instruction whose operands pass its checks enters a queue with room, and what can run in the queue runs; with nothing
ahead of it, it runs at once: the tile becomes what the instruction's operation makes of it, its entry stays in the queue as done until
VECTOR_COMPLETE, and the controller goes on behind it; poison that it meets raises POISON (06 R150, R151, R159, R162, 07 R194). Whatever a
vector instruction does, it leaves the program counter, the work item, instruction memory, the mover, the array, held signals, the
function tables and the vector queue of its tile as they are (06 R150, R159). -/
def Obligations.VectorInstructionsRun : Prop :=
  (∀ p ∈ vectorRows, ∀ (s : State) (t : Fin 200) (w : BitVec 64) (os : List VOpnd) (r : VRun × Nat),
    s.chip.live = true → (tileOf s t).issues w (vXregs w.toNat) = true → iClass w.toNat = 3 → vRow w.toNat = p.2 →
    (tileOf s t).vecCheck w.toNat = .ok os → (tileOf s t).pc + 8 < 0x10000 →
    (∀ c : Chip, (tileOf s t).vec.q.length < 4 →
      c = (s.chip.setTile t.val
        { tileOf s t with
          serial := (tileOf s t).serial + 1, pc := (tileOf s t).pc + 8
          vec := { (tileOf s t).vec with q := (tileOf s t).vec.q ++ [vecEntry (tileOf s t) w.toNat os] } }).vecSettle t.val →
      (c.tileAt t.val).item = .running →
      exec (p.1 t w) s = .next (withChip s (c.goto t.val (c.tileAt t.val).pc))) ∧
    ((tileOf s t).vec.q = [] → (tileOf s t).arr.q = [] → (tileOf s t).mover = [] →
      r = vecRun (s.chip.ctxAt (tileOf s t).ctx).seed s.chip.free (vecQueued (tileOf s t) w.toNat os) (vecEntry (tileOf s t) w.toNat os) →
      (r.1.stop = none →
        exec (p.1 t w) s = .next (withChip s ((s.chip.setTile t.val
          { r.1.v with vec := { r.1.v.vec with q := [{ vecEntry (tileOf s t) w.toNat os with done := true }] } }).took r.2))) ∧
      (∀ tval : Nat, r.1.stop = some tval →
        exec (p.1 t w) s = .next (withChip s ((s.chip.setTile t.val
          { r.1.v with pend := some (exPoison, tval), vec := { r.1.v.vec with q := [] } }).took r.2))))) ∧
  (∀ (seed free : Nat) (v : Tile) (e : VqEnt),
    (vecRun seed free v e).1.v.pc = v.pc ∧ (vecRun seed free v e).1.v.item = v.item ∧ (vecRun seed free v e).1.v.imem = v.imem ∧
    (vecRun seed free v e).1.v.mover = v.mover ∧ (vecRun seed free v e).1.v.arr = v.arr ∧ (vecRun seed free v e).1.v.held = v.held ∧
    (vecRun seed free v e).1.v.vec.ft = v.vec.ft ∧ (vecRun seed free v e).1.v.vec.q = v.vec.q)

/-- The mask operations combine two mask registers bit by bit at the active lanes and keep the destination's other bits; SETVL clamps the
length to 1 to 128 and returns it (06 R148, R162, Table 6.5). The vector-wait instruction goes on at once over an empty queue and
otherwise blocks issue; an executed instruction leaves the queue; a write into the back bank of a function table is refused between a flip
request and the flip, a request closes the back bank, and the flip exchanges the banks and raises the generation (06 R150, R173, R174). -/
def Obligations.VectorMasksQueueAndTables : Prop :=
  (∀ (v : Tile) (n j : Nat) (os : List VOpnd), j < 128 →
    (vVop n = 0x16 → vSub n < 4 →
      bit ((v.moveX n os).vec.mask (vField n 0)) j =
        (if (v.lanes n).contains j then
          (match vSub n with
           | 0 => bit (v.vec.mask (vField n 1)) j && bit (v.vec.mask (vField n 2)) j
           | 1 => bit (v.vec.mask (vField n 1)) j || bit (v.vec.mask (vField n 2)) j
           | 2 => xor (bit (v.vec.mask (vField n 1)) j) (bit (v.vec.mask (vField n 2)) j)
           | _ => bit (v.vec.mask (vField n 1)) j && !bit (v.vec.mask (vField n 2)) j)
         else bit (v.vec.mask (vField n 0)) j)) ∧
    (∀ x : Nat, vVop n = 0x18 → os.getD 1 .none = .scalar x → vField n 0 ≠ 0 →
      (v.moveX n os).vec.vl = max 1 (min x 128) ∧ (v.moveX n os).xr (vField n 0) = max 1 (min x 128))) ∧
  (∀ (s : State) (t : Fin 200) (k : Fin 4) (i : Fin 258) (d : BitVec 128) (e : VqEnt), s.chip.live = true →
    ((tileOf s t).ready = true → (tileOf s t).pc + 8 < 0x10000 →
      exec (.vectorWait t) s = .next (withTile s t
        (if (tileOf s t).vec.q.isEmpty then { tileOf s t with pc := (tileOf s t).pc + 8 } else { tileOf s t with blocked := some .vwait }))) ∧
    (∀ (c : Chip) (rest : List VqEnt), c = s.chip.vecSettle t.val → (c.tileAt t.val).vec.q = e :: rest → e.done = true →
      (c.tileAt t.val).paused = false →
      exec (.vectorComplete t) s = .next (withChip s ((((c.setTile t.val
        ((((({ c.tileAt t.val with vec := { (c.tileAt t.val).vec with q := rest } } : Tile).releaseHeld 0).releaseHeld 1).releaseHeld
          2).releaseHeld 3)).vecSettle t.val).unblock t.val).settleEnd t.val))) ∧
    (((tileOf s t).vec.table k.val).asked = false → (tileOf s t).vec.readsBack k.val = true →
      exec (.ftWrite t k i d) s = .next (withChip s ((s.chip.setTile t.val ((tileOf s t).setTable k.val
        { (tileOf s t).vec.table k.val with
          closed := false
          held := ((tileOf s t).vec.table k.val).held ++ [(16 * i.val, leBytes 16 d.toNat)] })).answer [0]))) ∧
    (((tileOf s t).vec.table k.val).asked = false → (tileOf s t).vec.readsBack k.val = false →
      exec (.ftWrite t k i d) s = .next (withChip s ((s.chip.setTile t.val ((tileOf s t).setTable k.val
        { (tileOf s t).vec.table k.val with
          closed := false, back := ((tileOf s t).vec.table k.val).back.writeN (16 * i.val) (leBytes 16 d.toNat) })).answer [0]))) ∧
    (((tileOf s t).vec.table k.val).asked = true → exec (.ftWrite t k i d) s = .next (withChip s (s.chip.answer [1]))) ∧
    ((∀ j < 4, ((tileOf s t).vec.table j).asked = false) →
      exec (.ftFlipRequest t k) s = .next (withChip s ((s.chip.setTile t.val ((tileOf s t).setTable k.val
        { (tileOf s t).vec.table k.val with closed := true, asked := true })).answer [0]))) ∧
    (((tileOf s t).vec.table k.val).asked = true → ((tileOf s t).vec.table k.val).held = [] → ∃ v : Tile,
      exec (.ftFlip t k) s = .next (withTile s t v) ∧
      v.vec.table k.val =
        { front := ((tileOf s t).vec.table k.val).back, back := ((tileOf s t).vec.table k.val).front
          gen := (((tileOf s t).vec.table k.val).gen + 1) % 2 ^ 32, closed := false, asked := false, held := [] } ∧
      (∀ j, j ≠ k.val → v.vec.table j = (tileOf s t).vec.table j) ∧ v.vec.q.map (·.serial) = (tileOf s t).vec.q.map (·.serial) ∧
      v.mem = (tileOf s t).mem ∧ v.x = (tileOf s t).x))

/-- The wait condition of Table 3.9 on 32-bit counters is a signed comparison of their difference (03 R86, Table 3.9). An update of an
object writes its counter modulo 2^32, evaluates every registered wait on it, commits the wake of those whose condition holds with that
value, and leaves every other counter, owner and wait (03 R86, R87). At the home of an object that the context may use, SIGNAL adds and
SET writes, READ returns the counter, and a wait returns at once, is registered, or is refused with SO_BUSY beyond 256 firmware waits; a
context that does not own the object is refused, and a refused Haul packet is counted (03 R85 to R88). -/
def Obligations.SynchronisationObjects : Prop :=
  (∀ counter target : BitVec 32, waitHolds counter.toNat target.toNat = decide (0 ≤ (counter - target).toInt)) ∧
  (∀ (c : Chip) (n v : Nat),
    (c.soPut n v).soValue n = v % 2 ^ 32 ∧ (∀ k, k ≠ n → (c.soPut n v).soValue k = c.soValue k) ∧ (c.soPut n v).so.owner = c.so.owner ∧
    (c.soPut n v).so.waits = c.so.waits.filter (fun w => !(w.so == n && waitHolds (v % 2 ^ 32) w.target)) ∧
    (∀ w ∈ c.so.waits, w.so = n → waitHolds (v % 2 ^ 32) w.target = true →
      (∀ key, w.who = .fw key → tabFind (c.soPut n v).so.woken key = some (v % 2 ^ 32)) ∧
      (∀ t rd so issued timeout, w.who = .tile t → (c.tileAt t).blocked = some (.sowait rd so issued timeout) →
        ((c.soPut n v).tileAt t).blocked = none ∧ ((c.soPut n v).tileAt t).pc = (c.tileAt t).pc + 8 ∧
        (rd ≠ 0 → ((c.soPut n v).tileAt t).xr rd = v % 2 ^ 32))) ∧
    (c.soPut n v).mem = c.mem ∧ (c.soPut n v).cm = c.cm ∧ (c.soPut n v).log = c.log) ∧
  (∀ (s : State) (k : Fin 64) (n : Fin 16384) (v : BitVec 32) (haul : Bool) (tile : Option (Fin 200)) (key : Nat) (who : Waiter),
    s.chip.live = true → who = (match tile with | some p => .tile p.val | none => .fw key) →
    (s.chip.soAllowed k.val n.val = true →
      exec (.homeSignal k n v haul) s = .next (withChip s ((s.chip.soPut n.val (s.chip.soValue n.val + v.toNat)).answer [0])) ∧
      exec (.homeSet k n v) s = .next (withChip s ((s.chip.soPut n.val v.toNat).answer [0])) ∧
      exec (.homeRead k n) s = .next (withChip s (s.chip.answer [0, s.chip.soValue n.val])) ∧
      (waitHolds (s.chip.soValue n.val) v.toNat = true →
        exec (.homeWait k n v tile key) s = .next (withChip s (s.chip.answer [0, s.chip.soValue n.val]))) ∧
      (waitHolds (s.chip.soValue n.val) v.toNat = false → (∀ w ∈ s.chip.so.waits, w.who ≠ who) →
        exec (.homeWait k n v tile key) s = .next (withChip s
          (if tile = none ∧ 256 ≤ s.chip.fwWaits (n.val / 4096) then s.chip.answer [3]
           else (s.chip.modSo (fun q => { q with waits := q.waits ++ [{ so := n.val, target := v.toNat, who := who }] })).answer [2])))) ∧
    (s.chip.soAllowed k.val n.val = false →
      exec (.homeSignal k n v haul) s = .next (withChip s
        ((if haul then s.chip.modSo (fun q => { q with haulDropped := q.haulDropped + 1 }) else s.chip).answer [1])) ∧
      exec (.homeSet k n v) s = .next (withChip s (s.chip.answer [1])) ∧ exec (.homeRead k n) s = .next (withChip s (s.chip.answer [1])) ∧
      exec (.homeWait k n v tile key) s = .next (withChip s (s.chip.answer [1]))) ∧
    (s.chip.soAllowed k.val n.val = true ↔ k.val = 0 ∨ s.chip.soOwner n.val = k.val))

/-- What a home does to a line's filter entry: a reader joins the sharers, an owner in E goes to S and one in M or O to O; a requester of
the only copy becomes the one holder, in M when the recalled data was dirty and in E otherwise; an upgrade leaves the requester alone in
M; where the requester's cache has room, no other line is touched and memory stays (09 R229, Table 9.4). READ_SHARED, READ_UNIQUE, UPGRADE
and READ_ONCE of an idle line take effect at its home, with the owner's answer and the channel's check, snoop the holders that Table 9.4
names, and keep the line busy; without an owner's data and an error they answer with the line and its poison as every reader sees it, and
nothing else changes but the reader's L1 (09 R225, R229, Table 9.4, 12 R317). -/
def Obligations.HoldersAndReads : Prop :=
  (∀ (m : Mem) (ln h : Nat) (e : DirEnt), tabFind m.dir ln = some e →
    (e.owner ≠ some h → h ∉ e.sharers → ∃ x : DirEnt, tabFind (m.share ln h).dir ln = some x ∧ h ∈ x.sharers ∧ x.data = e.data ∧
      (∀ j ∈ e.sharers, j ∈ x.sharers) ∧ (∀ o, e.owner = some o → e.st = .e → x.owner = none ∧ o ∈ x.sharers) ∧
      (∀ o, e.owner = some o → e.st ≠ .e → x.owner = some o ∧ x.st = .o) ∧ (e.owner = none → x.owner = none)) ∧
    (∃ x : DirEnt, tabFind (m.takeUnique ln h).dir ln = some x ∧ x.owner = some h ∧ x.sharers = [] ∧
      (x.st = if e.owner.isSome ∧ e.st ≠ .e then .m else .e)) ∧
    (∃ x : DirEnt, tabFind (m.upgrade ln h).dir ln = some x ∧ x.owner = some h ∧ x.sharers = [] ∧ x.st = .m ∧ x.data = e.data) ∧
    ((m.cached h ln).length < cacheLines h →
      (∀ k, k ≠ ln → tabFind (m.share ln h).dir k = tabFind m.dir k ∧ tabFind (m.takeUnique ln h).dir k = tabFind m.dir k ∧
        tabFind (m.upgrade ln h).dir k = tabFind m.dir k) ∧
      (m.share ln h).bytes = m.bytes ∧ (m.takeUnique ln h).bytes = m.bytes ∧ (m.upgrade ln h).bytes = m.bytes)) ∧
  (∀ (s : State) (pa : BitVec 52) (h : Fin 69) (src : BitVec 16) (own : Option LineCopy) (err : MemErr) (use : Option CoreUse) (ln : Nat)
    (l : List Nat), ln = pa.toNat / 64 → lineIdle s pa →
    l = 0 :: b2n (s.chip.mem.line ln).2 :: (s.chip.mem.line ln).1.map (·.toNat) →
    (s.chip.mem.hasRoom ln = true →
      exec (.readShared h pa own ⟨err, use⟩) s = .next (withChip s (lineBegun s.chip
        (s.chip.homeAct ln { Txn.of .readShared h.val own err with use := use }) ln { Txn.of .readShared h.val own err with use := use })) ∧
      exec (.readUnique h pa own ⟨err, use⟩) s = .next (withChip s (lineBegun s.chip
        (s.chip.homeAct ln { Txn.of .readUnique h.val own err with use := use }) ln { Txn.of .readUnique h.val own err with use := use })) ∧
      exec (.upgrade h pa own err) s = .next (withChip s (lineBegun s.chip
        (s.chip.homeAct ln (Txn.of .upgrade h.val own err)) ln (Txn.of .upgrade h.val own err)))) ∧
    exec (.readOnce src pa own err) s = .next (withChip s (lineBegun s.chip
      (s.chip.homeAct ln (Txn.of .readOnce (agentOf src.toNat) own err)) ln (Txn.of .readOnce (agentOf src.toNat) own err))) ∧
    s.chip.homeAct ln { Txn.of .readShared h.val none .none with use := use } =
      (((s.chip.modMem (fun m => m.share ln h.val)).fillL1 ln h.val use).corePoison ln h.val (s.chip.mem.line ln).2 use).answer l ∧
    s.chip.homeAct ln { Txn.of .readUnique h.val none .none with use := use } =
      (((s.chip.modMem (fun m => m.takeUnique ln h.val)).fillL1 ln h.val use).corePoison ln h.val (s.chip.mem.line ln).2 use).answer l ∧
    (s.chip.mem.holdsShared ln h.val = true →
      s.chip.homeAct ln (Txn.of .upgrade h.val own err) = (s.chip.modMem (fun m => m.upgrade ln h.val)).answer [0]) ∧
    (s.chip.mem.holdsShared ln h.val = false → s.chip.homeAct ln (Txn.of .upgrade h.val none .none) =
      ((s.chip.modMem (fun m => m.takeUnique ln h.val)).fillL1 ln h.val none).answer l) ∧
    s.chip.homeAct ln (Txn.of .readOnce (agentOf src.toNat) none .none) = s.chip.answer l)

/-- WRITE_FULL, WRITE_PARTIAL and LEDGE_OP of an idle line outside the protected image take effect at its home and keep the line busy;
without a hint, an owner's data and an error every cached copy goes to I, memory takes the new line, and poison stays unless the whole
line is written (09 R229, R240, 08 R212). After a write of a line at its home every reader of it gets the bytes and the poison written, no
cache holds it, and every other line reads as before (09 R231, R229). -/
def Obligations.WritesReachTheirHome : Prop :=
  (∀ (s : State) (pa : BitVec 52) (src : BitVec 16) (d : BitVec 512) (mask : BitVec 64) (p : Bool) (hint : BitVec 16) (op : LineOp)
    (own : Option LineCopy) (err : MemErr) (ln : Nat) (qf qp ql : Txn),
    ln = pa.toNat / 64 → lineIdle s pa → s.chip.protectedN (64 * ln) 64 = false →
    qf = { Txn.of .writeFull (agentOf src.toNat) none .none with
             data := (lineBytes d).zipIdx.map (fun x => (x.2, x.1)), poison := p, hint := hint.toNat } →
    qp = { Txn.of .writePartial (agentOf src.toNat) own err with
             data := ((lineBytes d).zipIdx.filter (fun x => bit mask.toNat x.2)).map (fun x => (x.2, x.1)), poison := p, hint := hint.toNat } →
    ql = { Txn.of .ledgeOp (agentOf (srcLedge (ledgeOfChan (s.chip.mem.chanOf pa.toNat)))) own err with op := some op } →
    (((s.chip.hintUsable hint.toNat).isSome = true → s.chip.mem.hasRoom ln = true) →
      exec (.writeFull src pa d p hint) s = .next (withChip s (lineBegun s.chip (s.chip.homeAct ln qf) ln qf)) ∧
      exec (.writePartial src pa d mask p hint own err) s = .next (withChip s (lineBegun s.chip (s.chip.homeAct ln qp) ln qp))) ∧
    (s.chip.ledge.fenced.contains (ledgeOfChan (s.chip.mem.chanOf pa.toNat)) = false →
      exec (.ledgeOp pa op own err) s = .next (withChip s (lineBegun s.chip (s.chip.homeAct ln ql) ln ql))) ∧
    (hint = 0 → s.chip.homeAct ln qf = s.chip.modMem (fun m => m.putLine ln (lineBytes d) p)) ∧
    (hint = 0 → own = none → err = .none → s.chip.homeAct ln qp = s.chip.modMem (fun m => m.putLine ln
      (maskLine (m.line ln).1 (((lineBytes d).zipIdx.filter (fun x => bit mask.toNat x.2)).map (fun x => (x.2, x.1))))
      (p || (!decide (mask = BitVec.allOnes 64) && (m.line ln).2)))) ∧
    (own = none → err = .none → s.chip.homeAct ln ql = s.chip.modMem (fun m =>
      m.putLine ln (lineApply op (m.line ln).1) ((m.line ln).2 && !lineWhole op)))) ∧
  (∀ (m : Mem) (ln k : Nat) (bs : List Byte) (p : Bool), m.bytes.wf = true → bs.length = 64 →
    (m.putLine ln bs p).line ln = (bs, p) ∧ tabFind (m.putLine ln bs p).dir ln = none ∧
    (k ≠ ln → (m.putLine ln bs p).line k = m.line k ∧ tabFind (m.putLine ln bs p).dir k = tabFind m.dir k))

/-- WRITE_BACK returns an owner's data to memory and EVICT frees a holder, the entry going with its last holder; a request for a busy line
waits behind it; TRANSACTION_COMPLETE frees the line, and what waited begins; HINT_DROPPED makes the write without its hint and counts it;
a snoop unanswered is fatal with code 0x11 (09 R225, R228, R231, R235, R238; for accesses made in one step assumption 108). -/
def Obligations.LineTransactions : Prop :=
  ∀ (s : State) (pa : BitVec 52) (h : Fin 69) (y : LineCopy) (ln : Nat) (e : DirEnt) (q : Txn) (own : Option LineCopy) (err : MemErr)
    (use : Option CoreUse), ln = pa.toNat / 64 → s.chip.live = true → s.chip.mem.backed pa.toNat = true →
    (lineIdle s pa → tabFind s.chip.mem.dir ln = some e → e.owner = some h.val → y.bytes.length = 64 →
      exec (.writeBack h pa y) s = .next (withChip s (lineBegun s.chip
        ((if y.ue then s.chip.logEv .cacheUe (cacheSrc h.val) [64 * ln] else s.chip).modMem (fun m => m.writeBack ln y)) ln
        (Txn.of .writeBack h.val (some y) .none)))) ∧
    (lineIdle s pa → tabFind s.chip.mem.dir ln = some e → (h.val ∈ e.sharers ∨ e.owner = some h.val ∧ e.st = .e) →
      exec (.evict h pa) s = .next (withChip s
        (lineBegun s.chip (s.chip.modMem (fun m => m.leave ln h.val)) ln (Txn.of .evict h.val none .none)))) ∧
    (tabFind s.chip.mem.busy ln = some q → s.held = [] → s.chip.mem.queueFull ln = false → s.chip.accepts ln = true →
      exec (.readShared h pa own ⟨err, use⟩) s = .next (withChip s (s.chip.modMem (fun m =>
        { m with waitq := tabSet m.waitq ln (tabGet [] m.waitq ln ++ [{ Txn.of .readShared h.val own err with use := use }]) })))) ∧
    (tabFind s.chip.mem.busy ln = some q →
      exec (.transactionComplete pa) s = .next (withChip s
        ((s.chip.modMem (fun m => { m with busy := tabDel m.busy ln })).serveNext ln).serveAll) ∧
      (s.chip.mem.waitq = [] → exec (.transactionComplete pa) s = .next (withChip s
        (s.chip.modMem (fun m => { m with busy := tabDel m.busy ln })).pumpAll))) ∧
    (tabFind s.chip.mem.busy ln = some q → q.kind = .writeFull ∨ q.kind = .writePartial → (s.chip.hintUsable q.hint).isSome = true →
      exec (.hintDropped pa) s = .next (withChip s (s.chip.modMem (fun m =>
        { m.putLine ln (m.line ln).1 (m.line ln).2 with
          hintDropped := tabSet m.hintDropped (homeOf (64 * ln)) (tabGet 0 m.hintDropped (homeOf (64 * ln)) + 1)
          busy := tabSet m.busy ln { q with hint := 0 } })))) ∧
    (tabFind s.chip.mem.busy ln = none → tabFind s.chip.mem.dir ln = some e → e.offered = true → e.owner.isSome = true → e.sharers = [] →
      exec (.hintDropped pa) s = .next (withChip s (s.chip.modMem (fun m =>
        { m.putLine ln (m.line ln).1 (m.line ln).2 with
          hintDropped := tabSet m.hintDropped (homeOf (64 * ln)) (tabGet 0 m.hintDropped (homeOf (64 * ln)) + 1) })))) ∧
    (tabFind s.chip.mem.busy ln = some q ∧ h.val ∈ q.snooped ∨
        tabFind s.chip.mem.busy ln = none ∧ tabFind s.chip.mem.dir ln = some e ∧ (e.owner = some h.val ∨ h.val ∈ e.sharers) →
      exec (.snoopTimeout pa h) s = .next (withChip s
        (s.chip.fatal .snoopTimeout (srcNoc (homeOf (64 * ln))) [64 * ln, cacheSrc h.val] 0x11 (cacheSrc h.val))))

/-- An event is kept as the latest entry with its island's counter and restart count, goes to the ring when one is configured and has
room, is counted as lost when the ring is full, and is dropped with an ADDR_UNBACKED where its slot is unbacked; it touches no tile,
object, commander, context, supply or counter (18 R479, 01 R29, 21 R525). A fatal event in service leaves the package safe: groups 1 to 5
are disabled and not good, the report tells FAIL with the phase, the code and the detail, the CXL link is down, and no command of a unit
in service acts any more (20 R505, R506). -/
def Obligations.EventsAndFatals : Prop :=
  (∀ (c : Chip) (ev : Ev) (src : Nat) (args : List Nat) (e : Event) (slot : Nat), e = ⟨ev, src, c.restarts src, c.count src, args, 0⟩ →
    slot = c.log.logBase + 64 * (c.log.tail % 2 ^ c.log.logLog2) →
    (c.log.logBase = 0 ∨ c.log.logEn = false → c.logEv ev src args = c.modLog (fun l => { l with held := keepLatest e l.held })) ∧
    (c.log.logBase ≠ 0 → c.log.logEn = true → sub32 c.log.tail c.log.head ≠ 2 ^ c.log.logLog2 → c.mem.backed slot = true →
      (c.logEv ev src args).log.held = keepLatest e c.log.held ∧
      (c.logEv ev src args).log.tail = (c.log.tail + 1) % 2 ^ 32 ∧ (c.logEv ev src args).log.lost = c.log.lost) ∧
    (c.log.logBase ≠ 0 → c.log.logEn = true → sub32 c.log.tail c.log.head ≠ 2 ^ c.log.logLog2 → c.mem.backed slot = false →
      ∃ w ∈ (c.logEv ev src args).log.wins, w.code = .addrUnbacked ∧ w.key = [srcPower] ∧ w.window = c.dispatch / 1000000) ∧
    (c.log.logBase ≠ 0 → c.log.logEn = true → sub32 c.log.tail c.log.head = 2 ^ c.log.logLog2 →
      (c.logEv ev src args).log.held = keepLatest e c.log.held ∧
      (c.logEv ev src args).log.tail = c.log.tail ∧ (c.logEv ev src args).log.lost = min (c.log.lost + 1) (2 ^ 32 - 1)) ∧
    (c.logEv ev src args).tile = c.tile ∧ (c.logEv ev src args).so = c.so ∧ (c.logEv ev src args).cm = c.cm ∧
    (c.logEv ev src args).ctx = c.ctx ∧ (c.logEv ev src args).boot = c.boot ∧ (c.logEv ev src args).clk = c.clk) ∧
  (∀ (c : Chip) (ev : Ev) (src : Nat) (args : List Nat) (code detail : Nat), c.boot.step = 7 →
    (c.fatal ev src args code detail).boot.safe = true ∧ (c.fatal ev src args code detail).boot.en = 0 ∧
    (c.fatal ev src args code detail).boot.good = 0 ∧ (c.fatal ev src args code detail).boot.report.outcome = 2 ∧
    (c.fatal ev src args code detail).boot.report.phase = 7 ∧ (c.fatal ev src args code detail).boot.report.code = code ∧
    (c.fatal ev src args code detail).boot.report.detail = detail ∧ (c.fatal ev src args code detail).cxl.l0 = false ∧
    (c.fatal ev src args code detail).live = false ∧
    (c.fatal ev src args code detail).clk.now = c.clk.now ∧ (c.fatal ev src args code detail).tile = c.tile)

/-- The background work of a populated, awake channel: within its share and when no foreground request comes first the scrub reads the
next line, counts or poisons what it finds, and begins a new pass after the last; per-bank refresh and calibration are charged;
activations raise a bank's count and an RFM lowers it; a window's end begins the shares anew and issues the RFMs that waited; corrected
errors of a 1 ms window are logged once; and a retry that persists through the third poisons the line (08 R211 to R219, R222). -/
def Obligations.ChannelBackgroundWork : Prop :=
  ∀ (s : State) (ch : Fin 400) (x : Chan) (ns acts n : Nat) (waiting hot : Bool) (bank : Fin 64) (pa : BitVec 52) (nth : Fin 3)
    (persists : Bool),
    s.chip.live = true → x = s.chip.chanAt ch.val → s.chip.asleep ch.val = false → 0 < s.chip.mem.chanBytes ch.val →
    n = tabGet 0 x.acts bank.val →
    (x.scrubAt < s.chip.mem.chanBytes ch.val →
      s.chip.bankFull ch.val (s.chip.mem.bankOf (s.chip.mem.globalOf ch.val x.scrubAt / 64)) = false →
      (waiting = true → windowCounts / 2 ≤ s.chip.count srcPower % windowCounts) →
      tabGet 0 x.used 2 + ns ≤ shareOf ch.val 2 x.hot →
      exec (.scrubRead ch ⟨.none, ns, waiting⟩) s = .next (withChip s (s.chip.setChan ch.val
        (if x.scrubAt + 64 < s.chip.mem.chanBytes ch.val then { x.charge 2 ns with scrubAt := x.scrubAt + 64 }
         else { x.charge 2 ns with scrubAt := 0, scrubFrom := s.chip.count srcPower, scrubErrs := [], scrubLate := false }))) ∧
      (x.scrubAt + 64 < s.chip.mem.chanBytes ch.val → ∀ c d : Chip, c = s.chip.setChan ch.val (x.charge 2 ns) →
        (d = c.lineCe ch.val x.scrubAt → exec (.scrubRead ch ⟨.ce, ns, waiting⟩) s = .next (withChip s
          (d.setChan ch.val { d.chanAt ch.val with scrubAt := x.scrubAt + 64 }))) ∧
        (d = c.findUe (s.chip.mem.globalOf ch.val x.scrubAt / 64) → exec (.scrubRead ch ⟨.ue, ns, waiting⟩) s = .next (withChip s
          (d.setChan ch.val { d.chanAt ch.val with scrubAt := x.scrubAt + 64 }))))) ∧
    (x.scrubLate = false → ∃ c' : Chip, c' = s.chip.passTo srcPower
        (x.scrubFrom + s.chip.rf (0x900000 + 8 * ch.val) 14 8 * 360000000000 * 11 / 10 + 1) ∧
      exec (.scrubBehind ch) s = .next (withChip s
        ((c'.setChan ch.val { x with scrubLate := true }).logEv .scrubBehind (chanSrc ch.val) [ch.val]))) ∧
    exec (.refresh ch false ns) s = .next (withChip s (s.chip.setChan ch.val (x.charge 0 ns))) ∧
    (ns ≤ 1000 → (waiting = true → windowCounts / 2 ≤ s.chip.count srcPower % windowCounts) →
      tabGet 0 x.used 3 + ns * chanBanks ch.val ≤ shareOf ch.val 3 x.hot →
      exec (.calibration ch ⟨ns, waiting⟩) s = .next (withChip s (s.chip.setChan ch.val (x.charge 3 (ns * chanBanks ch.val))))) ∧
    (bank.val < chanBanks ch.val → x.want = [] → n + acts ≤ Config.raammt ch.val →
      ∃ z : Chan, exec (.rfm ch bank acts ns) s = .next (withChip s (s.chip.setChan ch.val z).serveAll) ∧
        (n + acts < Config.raaimt ch.val → tabGet 0 z.acts bank.val = n + acts ∧ z.used = x.used) ∧
        (0 < Config.raaimt ch.val → Config.raaimt ch.val ≤ n + acts → n + acts < 2 * Config.raaimt ch.val →
          tabGet 0 x.used 1 + ns ≤ shareOf ch.val 1 x.hot →
          tabGet 0 z.acts bank.val = n + acts - Config.raaimt ch.val ∧ tabGet 0 z.used 1 = tabGet 0 x.used 1 + ns ∧
            z.rfmWait = x.rfmWait)) ∧
    (∀ c : Chip, c = s.chip.passTo srcPower ((min x.window (s.chip.count srcPower / windowCounts) + 1) * windowCounts) → x.want = [] →
      ∃ z : Chan, exec (.backgroundWindow ch ⟨ns, hot⟩) s = .next (withChip s (c.setChan ch.val z).serveAll) ∧
        z.hot = hot ∧ z.window = c.count srcPower / windowCounts ∧ z.throttled = false ∧
        (x.rfmWait = [] → z.used = [] ∧ z.acts = x.acts ∧ z.rfmWait = []) ∧
        (x.rfmWait = [bank.val] → bank.val < chanBanks ch.val → 0 < Config.raaimt ch.val → Config.raaimt ch.val ≤ n →
          n < 2 * Config.raaimt ch.val → n ≤ Config.raammt ch.val → ns ≤ shareOf ch.val 1 hot →
          tabGet 0 z.acts bank.val = n - Config.raaimt ch.val ∧ tabGet 0 z.used 1 = ns ∧ z.rfmWait = [])) ∧
    (0 < x.ceWin → exec (.memCe ch) s = .next (withChip s
      (((s.chip.passTo srcDispatch ((x.ceAt + 1) * msDispatch)).setChan ch.val { x with ceWin := 0 }).logEv
        .memCe (chanSrc ch.val) [ch.val, x.ceWin]))) ∧
    (s.chip.mem.backed pa.toNat = true → s.chip.mem.chanOf pa.toNat = ch.val →
      exec (.channelRetry pa nth persists) s = .next (withChip s
        (if nth = 2 ∧ persists = true then
          ((s.chip.setChan ch.val { x with retries := x.retries + 1 }).modMem (fun m =>
            { m with poison := setIns m.poison (pa.toNat / 64) })).logEv .memLinkErr (chanSrc ch.val) [ch.val, pa.toNat]
         else s.chip.setChan ch.val { x with retries := x.retries + 1 })))

/-- The front command of a queue that the front-end can serve runs, by its own opcode and whatever its range meets, over as many of its
lines as the queue's turn allows: it ends or goes on from the lines that it has done, and no tile, object, context, queue or other command
changes (10 R257 to R269). A refused command has no effect but its status: MALFORMED with the offset of the first offending field,
SO_DENIED with the object (10 R258, R273). -/
def Obligations.LedgeCommandsRun : Prop :=
  (∀ p ∈ ledgeRows, ∀ (s : State) (q : Fin 320) (k : LCmd), s.chip.live = true → s.calm = true → s.chip.lqTurn q.val = some k →
    k.op = p.2 → s.chip.lcmdRefusals k = [] → k.stats = [] → (∀ n, (s.chip.takeTurn q.val n).isSome = true) →
    1 ≤ (s.chip.lqAt q.val).weight →
    ∃ c : Chip, exec (p.1 q) s = .next (withChip s c) ∧
      (∃ k' ∈ c.ledge.cmds, k'.key = k.key ∧ k'.bytes = k.bytes ∧ (k'.ran = true ∨ k.next < k'.next)) ∧
      (∀ j ∈ s.chip.ledge.cmds, j.key ≠ k.key → j ∈ c.ledge.cmds) ∧ c.ledge.lq = s.chip.ledge.lq ∧
      c.tile = s.chip.tile ∧ c.so = s.chip.so ∧ c.ctx = s.chip.ctx ∧ c.boot = s.chip.boot) ∧
  (∀ p ∈ ledgeRows, ∀ (s : State) (q : Fin 320) (k : LCmd), s.chip.live = true → s.calm = true → s.chip.lqTurn q.val = some k →
    k.op = p.2 → s.chip.lcmdRefusals k ≠ [] →
    exec (p.1 q) s = .next (withChip s (s.chip.setLcmd { k with ran := true, stats := s.chip.lcmdRefusals k })) ∧
    (∀ o, firstBad (k.headBad ++ k.opBad) = some o → (1, o, 0) ∈ s.chip.lcmdRefusals k) ∧
    (bit k.hflags 1 = true → k.f 6 2 < 16384 → s.chip.soAllowed k.ctx (k.f 6 2) = false → (2, k.f 6 2, 0) ∈ s.chip.lcmdRefusals k))

/-- The line of LEDGE_FILL, SCALE or ACCUM that a turn issues, whose addresses translate and whose engine is in service: the pattern, the
element-wise product or the element-wise sum in FP32 is written, poison is kept and counted, overflow and NaN set their flags, and nothing
else changes but the translation kept by the front-end and its turn; a fenced engine refuses the line. The command ends with its last line
(10 R257, R260 to R262, R274, R286). A bench whose tensors and copy translate, lie at one home, are not poisoned and belong to an engine
in service with room for mirror writes is computed by the formulas and written back whole, gradient lines being recalled, with its copy
and its mirror writes; a version block turns BUSY before the first bench unless it is held, and takes count + 1, TORN when a bench was
missed, after the last (10 R266 to R268, R284, 11 R306, R307, R309). -/
def Obligations.LedgeLinesAndBenches : Prop :=
  (∀ (s : State) (q : Fin 320) (k : LCmd) (n left a pd ps : Nat) (ed es : TlbEnt) (c0 c1 c2 : Chip) (old src : List Byte × Bool)
    (r : List Byte × Bool × Bool),
    s.chip.live = true → s.calm = true → s.chip.lqTurn q.val = some k → k.lq = q.val → s.chip.lcmdRefusals k = [] →
    s.chip.takeTurn q.val n = some (c0, left) → a = k.f 24 8 + 64 * k.next →
    c0.place (lqTlb q.val) k.ctx (a % 2 ^ 64) true = .ok (pd, ed) → c1 = c0.tlbFill (lqTlb q.val) [ed] → old = s.chip.mem.line (pd / 64) →
    (k.op = 1 → n = 1 → min (k.f 32 8 / 64 - k.next) left = 1 →
      (c0.fencedAt pd = false → exec (.ledgeFill q) s = .next (withChip s
        (((c1.storeHint pd (List.replicate 16 (leBytes 4 (k.f 40 4))).flatten false k.hint).spent q.val 1).setLcmd
          { k with count := k.count + 1, next := k.next + 1, ran := decide (k.f 32 8 / 64 ≤ k.next + 1) }))) ∧
      (c0.fencedAt pd = true → exec (.ledgeFill q) s = .next (withChip s ((c1.spent q.val 1).setLcmd
        { k.tally 8 a with next := k.next + 1, ran := decide (k.f 32 8 / 64 ≤ k.next + 1) })))) ∧
    (k.op = 3 → n = 1 → min (k.f 32 8 / 64 - k.next) left = 1 → c0.fencedAt pd = false → r = scaleLine old.1 (k.f 40 4) (k.f 44 1) →
      exec (.scale q) s = .next (withChip s
        (((c1.storeHint pd r.1 old.2 k.hint).spent q.val 1).setLcmd
          { (k.applied a old.2).flag (8 * b2n r.2.1 + 16 * b2n r.2.2) with
            next := k.next + 1, ran := decide (k.f 32 8 / 64 ≤ k.next + 1) }))) ∧
    (k.op = 2 → n = 2 → min (k.f 40 8 / 64 - k.next) (left / 2) = 1 → bit k.hflags 3 = false → c0.fencedAt pd = false →
      c1.place (lqTlb q.val) k.ctx ((k.f 32 8 + 64 * k.next) % 2 ^ 64) false = .ok (ps, es) → c2 = c1.tlbFill (lqTlb q.val) [es] →
      src = s.chip.mem.line (ps / 64) → r = accLine old.1 0xFFFF (lineElems src.1) →
      exec (.accum q) s = .next (withChip s
        (((c2.storeHint pd r.1 (old.2 || src.2) k.hint).spent q.val 2).setLcmd
          { (k.applied a (old.2 || src.2)).flag (8 * b2n r.2.1 + 16 * b2n r.2.2) with
            next := k.next + 1, ran := decide (k.f 40 8 / 64 ≤ k.next + 1) })))) ∧
  (∀ (s : State) (q : Fin 320) (k : LCmd) (r : OptRun), s.chip.live = true → s.calm = true → s.chip.lqStep q.val = some (k, r) →
    (∀ (l : List (Nat × TlbEnt)) (copy : Span) (pas : List Nat) (c0 c1 : Chip) (left low : Nat) (u : List (Nat × Nat × Nat) × Bool × Bool),
      low = fieldLE r.desc 32 8 → r.next < r.last → (fieldLE r.desc 40 8 = 0 ∨ r.begun = true) →
      s.chip.placesOf k (r.tensors r.next) = .ok l → pas = l.map (·.1) → (low = 0 ∨ copy.fault = none) →
      copy = s.chip.spanLines (lqTlb q.val) k.ctx (low + 64 * lowSize (fieldLE r.desc 53 1) * r.next) (64 * lowSize (fieldLE r.desc 53 1)) true →
      (∀ p ∈ pas, homeOf p = homeOf (pas.getD 2 0) ∧ s.chip.mem.poisonedN p 256 = false) → s.chip.fencedAt (pas.getD 2 0) = false →
      s.chip.benchesOut (s.chip.mem.engineOf (pas.getD 2 0)) < 64 →
      c1 = s.chip.tlbFill (lqTlb q.val) (l.map (·.2) ++ (if low = 0 then [] else copy.ents)) →
      c1.takeTurn q.val (4 * pas.length) = some (c0, left) → u = c0.benchOut r pas →
      exec (.benchOp q) s = .next (withChip s ((c0.benchRun k r pas copy).spent q.val (4 * pas.length))) ∧
      (low = 0 → k.mirrored = false → c0.benchRun k r pas copy = (c0.benchStore k r pas u.1).setLcmd
        { k.flag (8 * b2n u.2.1 + 16 * b2n u.2.2) with count := k.count + 1, run := some { r with next := r.next + 1 } })) ∧
    (∀ pa v h : Nat, fieldLE r.desc 40 8 ≠ 0 → r.begun = false → r.next < r.last →
      s.chip.versionAt (lqTlb q.val) k.ctx (fieldLE r.desc 40 8) = .ok (pa, v, h) →
      (h = 0 → exec (.versionBegin q) s = .next (withChip s
        ((s.chip.storeHint pa (leBytes 8 (v % 2 ^ 63 + 2 ^ 63)) false 0).setLcmd { k with run := some { r with begun := true } }))) ∧
      (h ≠ 0 → exec (.versionBegin q) s = .next s)) ∧
    (∀ (pa v h n : Nat) (k1 : LCmd), r.begun = true → r.ended = false → r.last ≤ r.next →
      s.chip.versionAt (lqTlb q.val) k.ctx (fieldLE r.desc 40 8) = .ok (pa, v, h) →
      n = (v % 2 ^ 62 + 1) % 2 ^ 62 + (if r.torn || k.stopped then 2 ^ 62 else 0) →
      k1 = { k with run := some { r with ended := true, version := n } } →
      exec (.versionEnd q) s = .next (withChip s
        (((s.chip.storeHint pa (leBytes 8 n) false 0).setLcmd k1).mirrorVersion k1).snapTry)) ∧
    (∀ pa v : Nat, (s.chip.storeHint pa (leBytes 8 v) false 0).mem.bytes = (s.chip.mem.store pa (leBytes 8 v) false).bytes))

/-- A notified ledge queue fetches a command whose SEQ matches, and nothing when none is pending; it stops with LEDGE_OVERRUN when more
are pending than it has slots, notes a mismatch, and falls behind when one has lasted 4,000 cycles; a faulted engine is fenced and logged
(10 R253, R254, R255, R286). A command that has issued everything completes in order: it leaves its queue, writes its record when it has
one and its address translates, signals its object if the context may use it, and, with no command pending, nothing else changes (10 R271,
R272). -/
def Obligations.LedgeQueuesFetchAndComplete : Prop :=
  (∀ (s : State) (q : Fin 320) (x : Lq) (e : Fin 208), s.chip.live = true → s.calm = true → x = s.chip.lqAt q.val →
    (x.bound = true → x.overrun = false → x.unbind = none → s.chip.lqPending q.val = 0 →
      exec (.ledgeNotify q) s = .next (withChip s (s.chip.setLq q.val { x with ahead := false }))) ∧
    (x.bound = true → x.overrun = false → x.unbind = none → 2 ^ x.log2 < s.chip.lqPending q.val → (s.chip.lqCmds q.val).length < 8 →
      exec (.ledgeNotify q) s = .next (withChip s
        ((s.chip.setLq q.val { x with ahead := false, overrun := true }).logEv .ledgeOverrun (lqSrc q.val) [q.val]))) ∧
    (∀ bs : List Byte, x.bound = true → x.overrun = false → x.unbind = none → s.chip.lqPending q.val = 1 →
      (s.chip.lqCmds q.val).length < 8 → (s.chip.lqSlot q.val).1 = .ok bs →
      ∃ c : Chip, exec (.ledgeNotify q) s = .next (withChip s c) ∧ (c.lqAt q.val).consumed = (x.consumed + 1) % 2 ^ 32 ∧
        (c.lqAt q.val).miss = none ∧ (∃ k ∈ c.ledge.cmds, k.lq = q.val ∧ k.ctx = x.ctx ∧ k.bytes = bs ∧ k.ran = false) ∧
        c.so = s.chip.so ∧ c.tile = s.chip.tile) ∧
    (∀ j : Nat, x.bound = true → x.overrun = false → x.unbind = none → 0 < s.chip.lqPending q.val → s.chip.lqPending q.val ≤ 2 ^ x.log2 →
      (s.chip.lqCmds q.val).length < 8 → x.miss = none → (s.chip.lqSlot q.val).1 = .error j →
      ∃ (c : Chip) (since : Nat), exec (.ledgeNotify q) s = .next (withChip s c) ∧ (c.lqAt q.val).miss = some (since, j) ∧
        (c.lqAt q.val).consumed = x.consumed ∧ c.ledge.cmds = s.chip.ledge.cmds ∧ c.so = s.chip.so) ∧
    (∀ (since cause j : Nat) (c0 : Chip), x.miss = some (since, cause) → c0 = s.chip.passTo (lqSrc q.val) (since + 4000) →
      c0.lqMay q.val = true → c0.lqPending q.val ≤ 2 ^ x.log2 → (c0.lqSlot q.val).1 = .error j →
      ∃ c : Chip, exec (.ledgeAhead q) s = .next (withChip s c) ∧ (c.lqAt q.val).ahead = true ∧ (c.lqAt q.val).miss = none ∧
        c.ledge.cmds = s.chip.ledge.cmds ∧ c.so = s.chip.so) ∧
    (s.chip.ledge.fenced.contains e.val = false →
      exec (.ledgeHwFault e) s = .next (withChip s
        ((s.chip.modLedge (fun l => { l with fenced := setIns l.fenced e.val })).logEv .ledgeHwFault (srcLedge e.val) [e.val])))) ∧
  (∀ (s : State) (q : Fin 320) (k : LCmd) (sp : Span) (c1 c2 c3 : Chip), s.chip.live = true → s.calm = true →
    s.chip.lqJudge q.val = s.chip → (s.chip.lqCmds q.val).find? (fun x => x.over && !s.chip.versionOut x) = some k →
    (k.run = none ∨ k.op ≠ 6 ∨ k.mirrored = false) → (s.chip.lqAt q.val).unbind = none →
    c1 = s.chip.modLedge (fun l => { l with cmds := l.cmds.filter (fun x => x.key != k.key) }) →
    sp = c1.spanLines (lqTlb q.val) k.ctx (k.f 16 8) 32 true → (bit k.hflags 2 = true → sp.fault = none) →
    c2 = (if bit k.hflags 2 then (c1.used (lqTlb q.val) (lqSrc q.val) sp).scatter sp k.recordBytes false (k.f 12 2) else c1) →
    c3 = (if bit k.hflags 1 ∧ k.f 6 2 < 16384 ∧ c2.soAllowed k.ctx (k.f 6 2) = true then c2.soSignal (k.f 6 2) (k.f 8 4) else c2) →
    c3.lqPending q.val = 0 → exec (.ledgeCommandComplete q) s = .next (withChip s c3))

/-- A bucket counts no more elements than it expects: a contribution that would is refused, whatever the bucket and the order of arrival
(11 R293). A bucket whose region is zero-filled opens, or closes at once when it expects nothing more; an accepted contribution adds its
selected elements in FP32 to the line and is counted; a refused one is counted and logged with its first reason; a late bucket is reported
once (11 R291, R293, R294, R298). A closing or aborting bucket that may signal its object ends: its entry is FREE, its object is signalled
once, and every other bucket is as it was (11 R299, R300). -/
def Obligations.BucketsFillAndEnd : Prop :=
  (∀ (s t : State) (tag : Fin 4096) (pa : BitVec 52) (mask : BitVec 16) (xs : List (BitVec 32)) (bad : Bool) (ctx : Option (Fin 64))
    (src : BitVec 16), (∀ g, (s.chip.bucketAt g).applied ≤ (s.chip.bucketAt g).expect) →
    exec (.contribution tag pa mask xs bad ctx src) s = .next t → ∀ g, (t.chip.bucketAt g).applied ≤ (t.chip.bucketAt g).expect) ∧
  (∀ (s : State) (tag : Fin 4096) (b : Bucket) (pa : BitVec 52) (mask : BitVec 16) (xs : List (BitVec 32)) (bad : Bool)
    (ctx : Option (Fin 64)) (src : BitVec 16) (a : Nat) (r : List Byte × Bool × Bool) (old : List Byte × Bool),
    s.chip.live = true → b = s.chip.bucketAt tag.val → a = pa.toNat / 64 * 64 → old = s.chip.mem.line (a / 64) →
    r = accLine old.1 mask.toNat (xs.map (·.toNat)) →
    (∀ c : Chip, b.st = .filling → s.held = [] → s.chip.mem.busy = [] → s.chip.mem.waitq = [] → (∀ ln, s.chip.accepts ln = true) →
      b.unfilled.length ≤ b.len / 64 → c = (s.chip.attempt s.ident).doBucketFilled tag.val →
      exec (.bucketFilled tag) s = .next (withChip s (c.unmark s.ident)) ∧
        (c.bucketAt tag.val).st = (if b.applied = b.expect then .closing else .open_) ∧ (c.bucketAt tag.val).unfilled = [] ∧
        (c.bucketAt tag.val).applied = b.applied ∧
        (s.chip.mem.bytes.wf = true → ∀ g ∈ b.unfilled, c.mem.line (g / 64) = (zeros 64, false))) ∧
    (s.calm = true → b.refuses a mask.toNat (ctx.map (·.val)) = 0 → s.chip.ledge.fenced.contains (s.chip.mem.engineOf a) = false →
      exec (.contribution tag pa mask xs bad ctx src) s = .next (withChip s
        (((s.chip.storeHint a r.1 (old.2 || bad) 0).setBucket tag.val
          { b with applied := b.applied + maskCount mask.toNat, ovf := b.ovf || r.2.1, invalid := b.invalid || r.2.2
                   poison := b.poison || (old.2 || bad)
                   st := if b.applied + maskCount mask.toNat = b.expect then .closing else .open_ }).answer [0]))) ∧
    (∀ why : Nat, s.calm = true → b.refuses a mask.toNat (ctx.map (·.val)) = why → why ≠ 0 →
      exec (.contribution tag pa mask xs bad ctx src) s = .next (withChip s
        (((s.chip.setBucket tag.val { b with refused := min (b.refused + 1) (2 ^ 32 - 1) }).logWin .bucketRefused [tag.val, why]
          srcDispatch msDispatch (srcNoc b.home) [tag.val, why, src.toNat]).answer [1]))) ∧
    (∀ c0 : Chip, (s.calm = true ∧ c0 = s.chip ∨ s.held = [] ∧ s.calm = false ∧ c0 = s.chip.attempt s.ident ∧
          (c0.doBucketLate tag.val).mem.met = []) →
      (b.st = .filling ∨ b.st = .open_) → b.timeout ≠ 0 → b.late = false →
      exec (.bucketLate tag) s = .next (withChip s (if s.calm then c0.doBucketLate tag.val else (c0.doBucketLate tag.val).unmark s.ident)) ∧
        (c0.doBucketLate tag.val).bucketAt tag.val = { b with late := true } ∧ (c0.doBucketLate tag.val).tile = s.chip.tile ∧
        (c0.doBucketLate tag.val).so = s.chip.so ∧
        (c0.doBucketLate tag.val).clk = (s.chip.passTo srcDispatch (b.since + 1000 * b.timeout)).clk)) ∧
  (∀ (s : State) (tag : Fin 4096) (b : Bucket), s.chip.live = true → s.calm = true → b = s.chip.bucketAt tag.val →
    s.chip.soAllowed b.ctx b.so = true →
    (b.st = .closing → ∃ c : Chip, exec (.bucketComplete tag) s = .next (withChip s c) ∧ (c.bucketAt tag.val).st = .free ∧
      c.soValue b.so = (s.chip.soValue b.so + b.sval) % 2 ^ 32 ∧ ∀ g, g ≠ tag.val → c.bucketAt g = s.chip.bucketAt g) ∧
    (b.st = .aborting → ∃ c : Chip, exec (.bucketAbortDone tag) s = .next (withChip s c) ∧ (c.bucketAt tag.val).st = .free ∧
      c.soValue b.so = (s.chip.soValue b.so + b.sval) % 2 ^ 32 ∧ ∀ g, g ≠ tag.val → c.bucketAt g = s.chip.bucketAt g))

/-- A core that waits is gated; a timer interrupt, with the compare register that its core wrote, and an MSI wake it; an MSI to a core
that is off is dropped and counted, and one with a reserved identity or file is ignored; a write of mtime is ignored and reported (12
R314, R326, 18 R461, R463). A memory transaction of a PCIe device goes through the first entry that names its requester, covers it and
permits it, to translated memory with the entry's hint; one that none admits, or for another port's window, is refused and logged, and so
is one that does not translate; an MSI needs an entry for the page it writes (12 R321 to R327). -/
def Obligations.CoresInterruptsAndPcie : Prop :=
  (∀ (s : State) (k : Fin 64) (file : Fin 8) (v : BitVec 32) (m : Bool) (cmp : BitVec 64) (addr : BitVec 52) (a : SetupAcc),
    s.chip.live = true →
    (s.chip.coreSt k.val = .active → exec (.coreWfi k) s = .next (withChip s (s.chip.modIrq (fun q => { q with core := tabSet q.core k.val .gated })))) ∧
    (s.chip.coreSt k.val ≠ .off → ∃ c : Chip, exec (.timerCompare k m cmp) s = .next (withChip s c) ∧
      tabGet 0 c.irq.timer k.val = tabGet 0 s.chip.irq.timer k.val ||| (if m then 2 else 1) ∧
      (if m then (c.hartAt k.val).mtimecmp else tabGet 0 (c.hartAt k.val).csr 0x14D) = cmp.toNat ∧
      c.coreSt k.val = (if s.chip.coreSt k.val = .gated then .active else s.chip.coreSt k.val) ∧
      c.irq.pending = s.chip.irq.pending ∧ c.mem = s.chip.mem ∧ c.tile = s.chip.tile) ∧
    (s.chip.coreSt k.val ≠ .off → 0 < v.toNat → v.toNat < 2048 → file.val < 7 →
      ∃ c : Chip, exec (.msiWrite k file v) s = .next (withChip s c) ∧ v.toNat ∈ c.pendingIds k.val file.val ∧
        (∀ i, i ∈ s.chip.pendingIds k.val file.val → i ∈ c.pendingIds k.val file.val) ∧
        c.coreSt k.val = (if s.chip.coreSt k.val = .gated then .active else s.chip.coreSt k.val) ∧ c.mem = s.chip.mem) ∧
    (s.chip.coreSt k.val = .off → 0 < v.toNat → v.toNat < 2048 → file.val < 7 →
      exec (.msiWrite k file v) s = .next (withChip s (s.chip.modIrq (fun q =>
        { q with dropped := tabSet q.dropped k.val (tabGet 0 q.dropped k.val + 1) })))) ∧
    (v.toNat = 0 ∨ 2048 ≤ v.toNat ∨ file.val = 7 → exec (.msiWrite k file v) s = .next s) ∧
    exec (.mtimeWrite addr a) s = .next (withChip s
      (s.chip.cfgReport addr.toNat a.value.toNat (s.chip.count srcPower) 5 0 64 a.writer.toNat))) ∧
  (∀ (s : State) (p : Tlp) (len : Nat) (r : PcieRegion) (sp : Span) (port : Fin 8) (reqid : BitVec 16) (addr : BitVec 64) (v : BitVec 32)
    (core file : Nat), s.chip.live = true → s.calm = true → s.chip.rootPort p.port.val = true → s.chip.rootPort port.val = true →
    (s.chip.pcieMatch p p.bytes.length true = some r → tlpPeer p p.bytes.length = false →
      sp = s.chip.spanLines iotlb r.ctx p.addr.toNat p.bytes.length true →
      (sp.fault = none →
        exec (.pcieWriteTlp p) s = .next (withChip s ((s.chip.tlbFill iotlb sp.ents).scatter sp p.bytes p.poison r.hint))) ∧
      (∀ g, sp.fault = some g → exec (.pcieWriteTlp p) s = .next (withChip s ((s.chip.tlbFill iotlb sp.ents).pcieFault p g)))) ∧
    (s.chip.pcieMatch p len false = some r → tlpPeer p len = false → sp = s.chip.spanLines iotlb r.ctx p.addr.toNat len false →
      (sp.fault = none → exec (.pcieReadTlp p len) s = .next (withChip s ((s.chip.tlbFill iotlb sp.ents).answer
        (0 :: sp.pieces.flatMap (fun q =>
          b2n (s.chip.mem.poisonedN q.2.1 q.2.2) :: q.2.2 :: (s.chip.mem.readN q.2.1 q.2.2).map (·.toNat)))))) ∧
      (∀ g, sp.fault = some g →
        exec (.pcieReadTlp p len) s = .next (withChip s (((s.chip.tlbFill iotlb sp.ents).pcieFault p g).answer [2])))) ∧
    (s.chip.pcieMatch p p.bytes.length true = none ∨ tlpPeer p p.bytes.length = true →
      exec (.pcieWriteTlp p) s = .next (withChip s (s.chip.pcieLog .pcieUnreg p))) ∧
    (s.chip.pcieMatch p len false = none ∨ tlpPeer p len = true →
      exec (.pcieReadTlp p len) s = .next (withChip s ((s.chip.pcieLog .pcieUnreg p).answer [1]))) ∧
    (addr.toNat = 0xFD0000000000 + 0x8000 * core + 0x1000 * file → file < 8 →
      exec (.pcieMsi port reqid addr v) s = .next (withChip s
        (if s.chip.pcie.any (fun x => x.2.names port.val reqid.toNat && x.2.msi && x.2.hart == core && x.2.file == file)
         then s.chip.msi core file v.toNat else s.chip.logEv .pcieMsiDenied srcRoot [reqid.toNat, addr.toNat]))))

/-- A sequenced Haul packet on an OPEN connection: one below the window or already held is a duplicate, one beyond the window or the
credit is dropped, each counted; a new one takes its slot and its credit and is applied at once, or waits for the packets before it; what
is complete is reported again, and ACKNOW asks for an ACK at once (13 R336, R342, R343, R345, R346, R349). What an applied packet does: a
SIGNAL of the object's owner counts, another is counted as dropped and refused with code 6; a WRITE goes through its region or is refused
with code 1 to 4 and writes nothing; a SEND goes to the ring or is RNR, code 8, and a READ posts its responses (13 R344, R346, R354 to
R357, Table 13.4). A placed packet of an OPEN connection completes: its units leave the buffer and the credit may rise; a refused one
sends its NAK, sixteen completions or a report that is due send an ACK, and packets that waited for it go on; an empty slot after RNR, as
if it had not been accepted (the model's choice, assumption 33) (13 R344, R345, R346, R349). -/
def Obligations.HaulPacketsReceived : Prop :=
  (∀ q ∈ haulRows, ∀ (s : State) (sub : Fin 32) (f : Frame) (p : Pkt) (k psn units : Nat) (c d dup : Chip) (x : Conn) (slot old : RxSlot)
    (now : Bool) (ack : Chip → Chip),
    haulArrives s sub f q.2 p → s.calm = true → haulNamed s.chip p k → c = haulOn s.chip sub.val k p → x = c.connAt k →
    psn = fieldBE p.bytes 8 4 → units = (fieldBE p.bytes 2 2 + 63) / 64 → now = bit (fieldBE p.bytes 0 1) 1 →
    ack = (fun e => if now then e.sendAck k true else e) →
    slot = { st := .waiting, report := now, op := q.2, hdr := haulHdr p.bytes, payload := haulPay p.bytes, poison := bit (fieldBE p.bytes 0 1) 3
             code := 0, detail := 0, region := none, units := units } →
    dup = c.setPort sub.val { c.portAt sub.val with dup := (c.portAt sub.val).dup + 1 } →
    (seqGe psn x.rx.w = true → sub32 psn x.rx.w < 1024 → tabFind x.rx.slots psn = none →
      seqGe x.rx.limit ((x.rx.acc + units) % 2 ^ 32) = true →
      d = (c.setConn k { x with rx := { x.rx with acc := (x.rx.acc + units) % 2 ^ 32 } }).setSlot k psn slot →
      exec (q.1 sub f) s = .next (withChip s (ack (if d.mustWait k psn q.2 slot.hdr then d else d.applySlot k psn slot)))) ∧
    (seqGe psn x.rx.w = true → sub32 psn x.rx.w < 1024 → tabFind x.rx.slots psn = none →
      seqGe x.rx.limit ((x.rx.acc + units) % 2 ^ 32) = false →
      exec (q.1 sub f) s = .next (withChip s (c.setPort sub.val { c.portAt sub.val with overrun := (c.portAt sub.val).overrun + 1 }))) ∧
    (seqGe psn x.rx.w = true → 1024 ≤ sub32 psn x.rx.w →
      exec (q.1 sub f) s = .next (withChip s (c.setPort sub.val { c.portAt sub.val with window := (c.portAt sub.val).window + 1 }))) ∧
    (seqGe psn x.rx.w = false → exec (q.1 sub f) s = .next (withChip s (dup.sendAck k true))) ∧
    (seqGe psn x.rx.w = true → sub32 psn x.rx.w < 1024 → tabFind x.rx.slots psn = some old →
      (old.st = .complete → old.code = 0 → exec (q.1 sub f) s = .next (withChip s (dup.sendAck k true))) ∧
      (old.st = .complete → old.code ≠ 0 → exec (q.1 sub f) s = .next (withChip s (ack (dup.sendNak k psn old.code old.detail)))) ∧
      (old.st ≠ .complete → exec (q.1 sub f) s = .next (withChip s (ack (dup.setSlot k psn { old with report := true })))))) ∧
  (∀ (c : Chip) (k so value tag ctx key off proto : Nat) (bs : List Byte) (bad : Bool),
    (c.soAllowed (c.connAt k).ctx so = true → (c.placeSignal k so value).1 = c.soSignal so value ∧ (c.placeSignal k so value).2.code = 0) ∧
    (c.soAllowed (c.connAt k).ctx so = false → (c.placeSignal k so value).2.code = 6 ∧ (c.placeSignal k so value).2.detail = so ∧
      (c.placeSignal k so value).1 = c.modSo (fun q => { q with haulDropped := q.haulDropped + 1 })) ∧
    (c.recvRoom (c.connAt k).rxring < recvSlots bs.length → (c.placeSend k tag bs).1 = c ∧ (c.placeSend k tag bs).2.code = 8) ∧
    (recvSlots bs.length ≤ c.recvRoom (c.connAt k).rxring → (c.placeSend k tag bs).2.code = 0 ∧ (c.placeSend k tag bs).1 =
      c.recvWrite (c.connAt k).rxring tag (bs.length + 2 ^ 16 * k) (c.connAt k).ctx bs) ∧
    (∀ (h : List Byte) (psn n : Nat) (e : FdRegion) (sp : Span), fieldBE h 20 4 = 0 →
      c.regionFor (c.connAt k).ctx (fieldBE h 0 4) (fieldBE h 8 8) (fieldBE h 4 4) 1 2 = .ok (n, e) →
      sp = c.spanPages fdTlb e.ctx (e.vbase + fieldBE h 8 8) (fieldBE h 4 4) false → sp.fault = none →
      (c.placeRead k psn h).2.code = 0 ∧ (c.placeRead k psn h).1 = (c.used fdTlb srcFabric sp).haulPost k
        { owner := .resp psn, op := 0x03, ctx := e.ctx, va := e.vbase + fieldBE h 8 8, data := none, left := fieldBE h 4 4
          key := fieldBE h 16 4, off := fieldBE h 24 8, val := psn, poison := false }) ∧
    ((c.regionAt (key / 65536)).valid = false → (c.placeRegion ctx key off bs bad proto).1 = c ∧
      (c.placeRegion ctx key off bs bad proto).2.code = 1) ∧
    (∀ (n : Nat) (e : FdRegion) (sp : Span), c.regionFor ctx key off bs.length 0 proto = .ok (n, e) →
      sp = c.spanLines fdTlb e.ctx (e.vbase + off) bs.length true →
      (sp.fault = none → (c.placeRegion ctx key off bs bad proto).1 = (c.used fdTlb srcFabric sp).scatter sp bs bad e.hint ∧
        (c.placeRegion ctx key off bs bad proto).2.code = 0) ∧
      (∀ g, sp.fault = some g → (c.placeRegion ctx key off bs bad proto).2.code = 4 ∧
        (c.placeRegion ctx key off bs bad proto).1.mem.bytes = (c.used fdTlb srcFabric sp).mem.bytes)) ∧
    (∀ (n : Nat) (e : FdRegion), c.regionFor ctx key off bs.length 0 proto = .ok (n, e) →
      e = c.regionAt (key / 65536) ∧ e.valid = true ∧ e.ctx = ctx ∧ e.check = key % 65536 ∧ off + bs.length ≤ e.len)) ∧
  (∀ (s : State) (k : Fin 16384) (psn : BitVec 32) (x : Conn) (q : RxSlot) (d e : Chip), s.chip.live = true → s.calm = true →
    x = s.chip.connAt k.val → x.st = .open_ → tabFind x.rx.slots psn.toNat = some q → q.st = .placed →
    (q.code ≠ 8 → d = (s.chip.setConn k.val { x with rx := { x.rx with
        left := (x.rx.left + q.units) % 2 ^ 32
        slots := tabSet x.rx.slots psn.toNat { q with st := .complete, payload := [] }, unrep := x.rx.unrep + 1
        unrepAt := some (x.rx.unrepAt.getD s.chip.fabric) } }).raiseAll →
      e = (if q.code = 0 then d else d.sendNak k.val psn.toNat q.code q.detail) →
      exec (.packetComplete k psn) s = .next (withChip s
        (((if 16 ≤ x.rx.unrep + 1 ∨ q.report = true then e.sendAck k.val true else e).release k.val).settleRegions))) ∧
    (q.code = 8 →
      exec (.packetComplete k psn) s = .next (withChip s ((s.chip.setConn k.val { x with rx := { x.rx with
        acc := sub32 x.rx.acc q.units, slots := tabDel x.rx.slots psn.toNat } }).sendNak k.val psn.toNat 8 0))))

/-- A frame is counted before anything else: a bad FCS, more than 9,216 bytes, a malformed packet, one of no OPEN connection or of another
epoch, and flow control each have a counter of the sub-port, and nothing else changes (13 R332, R336). ARP and neighbour solicitations for
the sub-port's own address are answered with its MAC; a sub-port comes up, goes down with an event, and rejoins after 1 ms (13 R331 to
R333, R352). -/
def Obligations.FramesAndSubPorts : Prop :=
  (∀ (s : State) (sub : Fin 32) (f : Frame) (p : Pkt) (x : SubPort), s.chip.live = true → s.calm = true →
    x = s.chip.portAt sub.val → x.up = true →
    (s.chip.haulOf sub.val f = some p → fieldBE p.bytes 1 1 = 1 → f.fcsOk = false →
      exec (.haulWrite sub f) s = .next (withChip s (s.chip.setPort sub.val { x with badFcs := x.badFcs + 1 }))) ∧
    (s.chip.haulOf sub.val f = some p → fieldBE p.bytes 1 1 = 1 → f.fcsOk = true → 9216 < f.bytes.length →
      exec (.haulWrite sub f) s = .next (withChip s (s.chip.setPort sub.val { x with dropped := x.dropped + 1 }))) ∧
    (haulArrives s sub f 1 p → (s.chip.connAt (fieldBE p.bytes 4 2)).st ≠ .open_ ∨ (s.chip.connAt (fieldBE p.bytes 4 2)).epoch ≠ fieldBE p.bytes 6 2 →
      exec (.haulWrite sub f) s = .next (withChip s (s.chip.setPort sub.val { x with frames := x.frames + 1, stale := x.stale + 1 }))) ∧
    (s.chip.haulOf sub.val f = some p → (hdrLen (fieldBE p.bytes 1 1) = none ∨ fieldBE p.bytes 0 1 / 16 ≠ 1) → f.fcsOk = true → f.bytes.length ≤ 9216 →
      exec (.haulMalformed sub f) s = .next (withChip s (s.chip.setPort sub.val { x with frames := x.frames + 1, malformed := x.malformed + 1 }))) ∧
    (s.chip.frameEther sub.val f = 0x8808 → f.fcsOk = true → f.bytes.length ≤ 9216 →
      exec (.pauseFrame sub f) s = .next (withChip s (s.chip.setPort sub.val { x with frames := x.frames + 1, paused := x.paused + 1 }))) ∧
    (s.chip.known sub.val f = false → f.fcsOk = true → f.bytes.length ≤ 9216 → s.chip.fab.rawq = none →
      exec (.rawFrame sub f) s = .next (withChip s (s.chip.setPort sub.val { x with frames := x.frames + 1 }))) ∧
    (∀ cq : Nat, s.chip.known sub.val f = false → f.fcsOk = true → f.bytes.length ≤ 9216 → s.chip.fab.rawq = some cq →
      exec (.rawFrame sub f) s = .next (withChip s
        (if s.chip.recvRoom cq < recvSlots f.bytes.length
         then (s.chip.setPort sub.val { x with frames := x.frames + 1 }).modFab (fun g => { g with raw := g.raw + 1 })
         else (s.chip.setPort sub.val { x with frames := x.frames + 1 }).recvWrite cq 0 (f.bytes.length + 2 ^ 16 * 0xFFFF) 0 f.bytes)))) ∧
  (∀ (s : State) (sub : Fin 32) (f : Frame) (p : Pkt) (x : SubPort), s.chip.live = true → x = s.chip.portAt sub.val →
    (x.up = true → f.fcsOk = true → f.bytes.length ≤ 9216 → s.chip.frameEther sub.val f = 0x0806 → fieldBE (s.chip.frameBody sub.val f) 6 2 = 1 →
      s.chip.portReg sub.val 0x10 % 2 ^ 32 ≠ 0 → fieldBE (s.chip.frameBody sub.val f) 24 4 = s.chip.portReg sub.val 0x10 % 2 ^ 32 →
      exec (.arpRequest sub f) s = .next (withChip s ((haulSeen s.chip sub.val).sendFrame sub.val (fieldBE (s.chip.frameBody sub.val f) 8 6)
        (beBytes 2 0x0806 ++ (s.chip.frameBody sub.val f).take 6 ++ beBytes 2 2 ++ beBytes 6 (s.chip.portReg sub.val 0 % 2 ^ 48) ++
          beBytes 4 (s.chip.portReg sub.val 0x10 % 2 ^ 32) ++ ((s.chip.frameBody sub.val f).drop 8).take 10)))) ∧
    (x.up = true → f.fcsOk = true → f.bytes.length ≤ 9216 → s.chip.solicits sub.val f = some p →
      s.chip.portReg sub.val 0x18 * 2 ^ 64 + s.chip.portReg sub.val 0x20 ≠ 0 →
      fieldBE p.bytes 8 16 = s.chip.portReg sub.val 0x18 * 2 ^ 64 + s.chip.portReg sub.val 0x20 →
      ∃ b : List Byte, exec (.neighbourSolicitation sub f) s = .next (withChip s ((haulSeen s.chip sub.val).modFab (fun g =>
        { g with sent := g.sent ++ [{ sub := sub.val, mac := srcMac f.bytes, tag := s.chip.tagOf sub.val, dscp := Config.dscp 0 % 64
                                      src := fieldBE p.bytes 8 16, dst := p.src, ttl := 64, ecn := 2, sport := 0, dport := 0, bytes := b }] }))) ∧
        b.take 1 = beBytes 1 136 ∧ (b.drop 8).take 16 = beBytes 16 (fieldBE p.bytes 8 16) ∧
        (b.drop 26) = beBytes 6 (s.chip.portReg sub.val 0 % 2 ^ 48)) ∧
    (s.chip.portUsed sub.val = true → x.up = false →
      exec (.subportUp sub) s = .next (withChip s (s.chip.setPort sub.val { x with up := true, since := s.chip.dispatch }))) ∧
    (x.up = true → s.calm = true → ∃ c : Chip, exec (.portDown sub) s = .next (withChip s c) ∧ (c.portAt sub.val).up = false) ∧
    (x.up = true → ∃ c : Chip, exec (.pathRejoin sub) s = .next (withChip s c) ∧ c.portAt sub.val = x ∧ c.mem = s.chip.mem) ∧
    (x.up = true → s.calm = true → s.chip.fab.conn = [] →
      exec (.portDown sub) s = .next (withChip s ((s.chip.setPort sub.val { x with up := false }).logEv .portDown srcFabric [sub.val])) ∧
      exec (.pathRejoin sub) s = .next (withChip s (s.chip.passTo srcDispatch (x.since + msDispatch)))) ∧
    (∀ (k : Nat) (y : Conn), x.up = true → s.chip.fab.conn = [(k, y)] → y.st = .open_ → bit y.mask sub.val = true → bit y.away sub.val = true →
      ∃ c : Chip, exec (.pathRejoin sub) s = .next (withChip s c) ∧ (c.connAt k).away = y.away - 2 ^ sub.val))

/-- CONNECT is answered and ACCEPT taken by the connection in CONNECTING that it names, which opens: its epoch is the larger proposal, its
counters start at zero, and its credit is the peer's; a late copy of CONNECT at an OPEN connection is answered, and another one there
shows that the peer has restarted (13 R338, R351). The timers of an OPEN connection: unreported completions are acknowledged, an idle
connection sends an empty ACK, silence for TIMEOUT loses it, a timed-out packet doubles its timeout and is sent again, a quarantine ends,
a hold is released; a CONNECTING one goes on sending CONNECT (13 R338, R339, R341, R345, R348, 11 R310). -/
def Obligations.ConnectionsAndTheirTimers : Prop :=
  (∀ (s : State) (sub : Fin 32) (f : Frame) (p : Pkt) (k : Nat) (x y : Conn) (h : List Byte), h = haulHdr p.bytes → x = s.chip.connAt k →
    (haulArrives s sub f 0x20 p → s.calm = true → (haulSeen s.chip sub.val).connFor .connecting p = none →
      (haulSeen s.chip sub.val).connFor .open_ p = some k → exec (.connect sub f) s = .next (withChip s
      (if s.chip.dispatch ≤ x.since + msDispatch ∧ (fieldBE h 10 2 = x.epoch ∨ fieldBE h 10 2 = x.peerProp)
       then (haulSeen s.chip sub.val).sendHello k 0x21 else (haulSeen s.chip sub.val).connLose k))) ∧
    (haulArrives s sub f 0x20 p → s.calm = true → (haulSeen s.chip sub.val).connFor .connecting p = some k → exec (.connect sub f) s = .next (withChip s
      (((haulSeen s.chip sub.val).sendHello k 0x21).connOpen k (fieldBE h 8 2) (fieldBE h 10 2) (fieldBE h 12 4)))) ∧
    (haulArrives s sub f 0x21 p → (haulSeen s.chip sub.val).connFor .connecting p = some k → exec (.accept sub f) s = .next (withChip s
      ((haulSeen s.chip sub.val).connOpen k (fieldBE h 8 2) (fieldBE h 10 2) (fieldBE h 12 4)))) ∧
    (∀ (c : Chip) (peer prop credit : Nat), (c.connAt k).creator = none → (∀ d ∈ c.cm.descs, d.awaits k = false) →
      y = (c.connOpen k peer prop credit).connAt k →
      y.st = .open_ ∧ y.epoch = max (c.connAt k).proposal prop ∧ y.peerConn = peer ∧ y.tx.limit = credit ∧ y.tx.next = 0 ∧ y.rx.w = 0 ∧
        y.rx.slots = [] ∧ y.tx.tx = [] ∧ y.peers = (c.connAt k).peers ∧ y.ctx = (c.connAt k).ctx)) ∧
  (∀ (s : State) (k : Fin 16384) (psn : BitVec 32) (sub : Fin 32) (ent : Fin 16) (x : Conn), s.chip.live = true →
    x = s.chip.connAt k.val →
    (∀ t : Nat, x.st = .open_ → x.rx.unrepAt = some t →
      exec (.ackTimer k) s = .next (withChip s ((s.chip.passTo srcFabric (t + 3000)).sendAck k.val true))) ∧
    (x.st = .open_ → x.tx.tx = [] → x.tx.msgs = [] →
      exec (.keepalive k) s = .next (withChip s ((s.chip.passTo srcDispatch (x.tx.beat + msDispatch)).sendAck k.val false))) ∧
    (x.st = .open_ → s.calm = true →
      exec (.connTimeout k) s = .next (withChip s ((s.chip.passTo srcDispatch
        (x.tx.tx.foldl (fun a p => min a p.disp0) x.rx.last + x.timeout * msDispatch)).connLose k.val))) ∧
    (∀ p : HTx, x.st = .open_ → x.tx.tx.find? (fun t => t.psn == psn.toNat) = some p → p.rnr = true →
      exec (.retxTimeout k psn) s = .next (withChip s
        (((s.chip.passTo srcFabric p.due).setConn k.val { x with tx := { x.tx with tx := x.tx.tx.map (fun t =>
          if t.psn = psn.toNat then { t with rto := p.rto } else t) } }).retransmit k.val psn.toNat 0))) ∧
    (∀ (p : HTx) (c : Chip), x.st = .open_ → x.tx.tx.find? (fun t => t.psn == psn.toNat) = some p → p.rnr = false →
      c = (s.chip.passTo srcFabric p.due).strike k.val p.sub p.ent →
      (c.connAt k.val).tx.tx = x.tx.tx ∧
      exec (.retxTimeout k psn) s = .next (withChip s ((c.setConn k.val { c.connAt k.val with tx := { (c.connAt k.val).tx with
        tx := x.tx.tx.map (fun t => if t.psn = psn.toNat then { t with rto := min (2 * p.rto) 6000000 } else t) } }).retransmit k.val psn.toNat 0))) ∧
    (∀ q : Nat × Nat × Nat, x.tx.quar.find? (fun q => q.1 == sub.val && q.2.1 == ent.val) = some q →
      exec (.quarantineEnd k sub ent) s = .next (withChip s ((s.chip.passTo srcDispatch q.2.2).setConn k.val
        { x with tx := { x.tx with quar := x.tx.quar.filter (fun z => !(z.1 == sub.val && z.2.1 == ent.val)) } }))) ∧
    (∀ ctx va : Nat, s.calm = true → (x.st = .open_ → x.tx.msgs.any (fun m => m.owner == .resp psn.toNat) = false) →
      tabFind x.rx.holds psn.toNat = some (ctx, va) →
      exec (.holdRelease k psn) s = .next (withChip s (((s.chip.setConn k.val { x with rx := { x.rx with
        holds := tabDel x.rx.holds psn.toNat } }).holdDown ctx va).releaseAll))) ∧
    (∀ c : Chip, x.st = .connecting → c = (if x.tx.pos = none then s.chip else s.chip.passTo srcDispatch (x.tx.beat + 100000)) →
      exec (.connectRetry k) s = .next (withChip s ((c.setConn k.val { x with tx := { x.tx with beat := c.dispatch } }).sendHello k.val 0x20))) ∧
    (∀ c : Chip, x.st = .open_ → c = s.chip.passTo srcFabric (x.rate.per + s.chip.rf 0xA00008 17 0) →
      exec (.rcPeriod k false) s = .next (withChip s
        (c.setConn k.val { x with rate := c.rateStep x.rate (c.rMax x) x.rate.ce x.rate.units c.fabric }))))

/-- Acknowledgement packets on an OPEN connection: an ACK raises the credit and counts the marks it reports, DONE or REFUSED is taken for
each packet it names; a NAK settles its packet, or delays it after RNR; CLOSE with the connection's cookie loses it; PATHDOWN removes the
paths it names (13 R339, R344, R345, R348, R349, R351, R352). -/
def Obligations.HaulControlPackets : Prop :=
  ∀ (s : State) (sub : Fin 32) (f : Frame) (p : Pkt) (k : Nat) (c : Chip) (x : Conn) (h : List Byte), haulNamed s.chip p k →
    c = haulOn s.chip sub.val k p → x = c.connAt k → h = haulHdr p.bytes →
    (∀ e : Chip, haulArrives s sub f 0x10 p → e = c.setConn k
        { x with tx := { x.tx with limit := if seqGe (fieldBE h 4 4) x.tx.limit then fieldBE h 4 4 else x.tx.limit }
                 rate := (if sub32 (fieldBE h 8 4) x.rate.seen < 2 ^ 31 then
                   { x.rate with ce := x.rate.ce + sub32 (fieldBE h 8 4) x.rate.seen, seen := fieldBE h 8 4 } else x.rate) } →
      (fieldBE h 12 2 = 0 → exec (.ack sub f) s = .next (withChip s e)) ∧
      exec (.ack sub f) s = .next (withChip s ((List.range (fieldBE h 12 2)).foldl (fun (y : Chip) i =>
        match fieldBE (haulPay p.bytes) (i / 4) 1 / 4 ^ (i % 4) % 4 with
        | 1 => y.ackDone k ((fieldBE h 0 4 + i) % 2 ^ 32)
        | 2 => y.ackRefused k ((fieldBE h 0 4 + i) % 2 ^ 32)
        | _ => y) e))) ∧
    (haulArrives s sub f 0x11 p → fieldBE h 4 1 = 8 →
      exec (.nak sub f) s = .next (withChip s (c.setConn k { x with tx := { x.tx with tx := x.tx.tx.map (fun t =>
        if t.psn = fieldBE h 0 4 then { t with due := c.fabric + 30000, rnr := true } else t) } }))) ∧
    (haulArrives s sub f 0x11 p → 1 ≤ fieldBE h 4 1 → fieldBE h 4 1 ≤ 9 → fieldBE h 4 1 ≠ 8 →
      exec (.nak sub f) s = .next (withChip s (c.settlePsn k (fieldBE h 0 4) (fieldBE h 4 1) (fieldBE h 8 8)))) ∧
    (haulArrives s sub f 0x22 p → s.calm = true → fieldBE h 0 8 = x.cookie → exec (.close sub f) s = .next (withChip s (c.connLose k))) ∧
    (haulArrives s sub f 0x23 p → s.calm = true → ∃ c' : Chip, exec (.pathdown sub f) s = .next (withChip s c') ∧
      (c.hasPath { x with peerDown := fieldBE h 0 4 % 2 ^ x.peers.length } = true →
        (c'.connAt k).peerDown = fieldBE h 0 4 % 2 ^ x.peers.length ∧ (c'.connAt k).st = .open_) ∧
      (c.hasPath { x with peerDown := fieldBE h 0 4 % 2 ^ x.peers.length } = false → (c'.connAt k).st = .lost))

/-- A connection sends what is queued for retransmission first and else its next new packet: with window, credit, a path and bytes that
can be read, the packet takes the next sequence number, its credit, its timeout and its place among the packets without final status, and
the message goes on behind it (13 R340, R342, R346 to R349, R352). -/
def Obligations.PacketSending : Prop :=
  ∀ (s : State) (k : Fin 16384) (full : BitVec 32) (x : Conn), s.chip.live = true → s.calm = true → x = s.chip.connAt k.val → x.st = .open_ →
    (∀ (psn : Nat) (r : List Nat), x.tx.retx = psn :: r →
      exec (.packetSend k full) s = .next (withChip s (s.chip.retransmit k.val psn full.toNat))) ∧
    (∀ (m : HMsg) (rest : List HMsg) (path : Nat × Nat) (i n : Nat), x.tx.retx = [] → x.tx.msgs = m :: rest → n = m.chunk →
      s.chip.newPath x full.toNat = some path → s.chip.addrOf x path.1 = some i →
      seqGe ((x.tx.scum + 1023) % 2 ^ 32) x.tx.next = true →
      (n = 0 ∨ seqGe x.tx.limit ((x.tx.sent + (n + 63) / 64) % 2 ^ 32) = true) →
      (n = 0 ∨ m.data.isSome = true ∨ (s.chip.spanLines fdTlb m.ctx m.va n false).fault = none) →
      ∃ c : Chip, exec (.packetSend k full) s = .next (withChip s c) ∧ (c.connAt k.val).tx.next = (x.tx.next + 1) % 2 ^ 32 ∧
        (c.connAt k.val).tx.sent = (x.tx.sent + (n + 63) / 64) % 2 ^ 32 ∧
        (c.connAt k.val).tx.msgs = (if m.op = 0x02 ∨ m.op = 0x06 then none else m.advance n).toList ++ rest ∧
        (c.connAt k.val).tx.pos = some path ∧
        (∃ p : HTx, (c.connAt k.val).tx.tx = x.tx.tx ++ [p] ∧ p.psn = x.tx.next ∧ p.op = m.op ∧ p.owner = m.owner ∧ p.tries = 0 ∧
          p.sub = path.1 ∧ p.ent = path.2 ∧ p.addr = i ∧ p.rto = x.tx.rto ∧
          (∀ bs, m.data = some bs → m.op ≠ 0x02 → m.op ≠ 0x06 → p.payload = bs.take n)) ∧
        c.fab.sent.length = s.chip.fab.sent.length + 1 ∧ c.so = s.chip.so ∧ (m.op = 0x06 ∨ m.data.isSome = true → c.mem = s.chip.mem))

/-- A request in sequence on a ready queue pair is carried out and counted: a SEND fills the oldest receive buffer and is told to wait
without one, a WRITE goes through its region, packet by packet of a message, a READ is answered, an unsupported request draws Invalid
Request and ends the queue pair; one that is ahead draws one NAK, a marked one a CNP, and a bad ICRC is counted (13 R358, R359, Table
13.8). At the requester: an acknowledgement settles what it covers, a READ response in sequence is placed, a CNP is counted, a timeout or
the end of an RNR delay sends again what is not acknowledged, and each period updates the rate (13 R351, R358). -/
def Obligations.RoceQueuePairs : Prop :=
  (∀ (s : State) (n : Fin 4096) (p : RocePkt) (q : Qp) (d e : Chip) (sp : Span), s.chip.live = true → s.calm = true →
    q = s.chip.qpAt n.val → q.st = .ready → p.ce = false → d = s.chip.setQp n.val { q with nakSent := false } →
    (p.icrcOk = false → ∀ i ∈ [Instr.roceSend n p, Instr.roceRdmaWrite n p, Instr.roceRdmaRead n p, Instr.roceInvalidRequest n p],
      exec i s = .next (withChip s (s.chip.setQp n.val { q with badIcrc := q.badIcrc + 1 }))) ∧
    (p.icrcOk = true → p.psn.toNat ≠ q.epsn → psnGe p.psn.toNat q.epsn = true → q.nakSent = false →
      ∀ i ∈ [Instr.roceSend n p, Instr.roceRdmaWrite n p, Instr.roceRdmaRead n p, Instr.roceInvalidRequest n p],
      exec i s = .next (withChip s ((s.chip.setQp n.val { q with nakSent := true }).qpNak n.val q.epsn 0x60))) ∧
    (p.icrcOk = true → (∀ t, q.cnpAt = some t → t + cnpCounts ≤ s.chip.fabric) →
      exec (.roceSend n { p with ce := true }) s = exec (.roceSend n p) (withChip s
        ((s.chip.setQp n.val { q with cnpAt := some s.chip.fabric }).qpEmit n.val
          { qpn := n.val, kind := 19, psn := 0, fields := [], payload := [] }))) ∧
    (p.icrcOk = true → p.psn.toNat = q.epsn →
      (q.recvs = [] → exec (.roceSend n p) s = .next (withChip s (d.qpRnr n.val))) ∧
      (∀ (b : RecvBuf) (r : List RecvBuf) (got : Nat), q.recvs = b :: r →
        (p.first = true ∧ q.rx = none ∧ got = 0 ∨ p.first = false ∧ ∃ x, q.rx = some x ∧ x.op = 0 ∧ got = x.got) →
        got + p.payload.length ≤ b.len → sp = d.spanLines fdTlb q.ctx (b.va + got) p.payload.length true → sp.fault = none →
        e = (d.used fdTlb srcFabric sp).scatter sp p.payload false 0 →
        exec (.roceSend n p) s = .next (withChip s
          (if p.last then (e.recvDone n.val 0 0).qpTaken n.val p none
           else e.qpTaken n.val p (some { op := 0, va := b.va, rkey := 0, len := b.len, got := got + p.payload.length })))) ∧
      (∀ (x : RoceIn) (r : Option FdRegion),
        (p.first = true ∧ q.rx = none ∧ x = { op := 2, va := p.va.toNat, rkey := p.rkey.toNat, len := p.len.toNat, got := 0 } ∨
          p.first = false ∧ q.rx = some x ∧ x.op = 2) →
        x.got + p.payload.length ≤ x.len → (p.last = true → p.imm.isSome = true → q.recvs ≠ []) →
        r = d.qpRegion n.val x.rkey x.va x.len 0 → (0 < x.len → r.isSome = true) →
        sp = d.spanLines fdTlb q.ctx (x.va + x.got) p.payload.length true → sp.fault = none →
        e = (d.used fdTlb srcFabric sp).scatter sp p.payload false ((r.map (·.hint)).getD 0) →
        exec (.roceRdmaWrite n p) s = .next (withChip s
          ((if p.last = true ∧ p.imm.isSome = true then e.recvDone n.val 0 0 else e).qpTaken n.val p
            (if p.last then none else some { x with got := x.got + p.payload.length })))) ∧
      ((0 < p.len.toNat → (d.qpRegion n.val p.rkey.toNat p.va.toNat p.len.toNat 1).isSome = true) →
        sp = d.spanLines fdTlb q.ctx p.va.toNat p.len.toNat false → sp.fault = none →
        ((d.used fdTlb srcFabric sp).mem.gather sp).2 = none →
        exec (.roceRdmaRead n p) s = .next (withChip s
          (((d.used fdTlb srcFabric sp).setQp n.val { q with
            nakSent := false, epsn := (q.epsn + q.count p.len.toNat) % 2 ^ 24, msn := (q.msn + 1) % 2 ^ 24 }).qpRespond n.val p
            ((d.used fdTlb srcFabric sp).mem.gather sp).1))) ∧
      exec (.roceInvalidRequest n p) s = .next (withChip s ((d.qpNak n.val q.epsn 0x61).qpError n.val)))) ∧
  (∀ (s : State) (n : Fin 4096) (p : RocePkt) (q : Qp) (psn : BitVec 24) (y : BitVec 8) (c : Chip), s.chip.live = true →
    q = s.chip.qpAt n.val → q.st = .ready →
    (y.toNat < 32 → exec (.roceAck n psn y true) s = .next (withChip s (s.chip.qpAcked n.val psn.toNat))) ∧
    (exec (.roceCnp n true) s = .next (withChip s (s.chip.setQp n.val { q with rate := { q.rate with ce := q.rate.ce + 1 } }))) ∧
    (∀ (w : Wqe) (d e : Chip) (bs : List Byte) (sp : Span), s.calm = true → p.icrcOk = true → p.ce = false →
      q.readFor p.psn.toNat = some w → d = s.chip.qpAcked n.val ((w.psn + 2 ^ 24 - 1) % 2 ^ 24) →
      (d.qpAt n.val).wqes.head?.map (·.key) = some w.key → bs = p.payload.take (w.len - w.got) →
      sp = d.spanLines fdTlb (d.qpAt n.val).ctx (w.lva + w.got) bs.length true → sp.fault = none →
      e = ((d.used fdTlb srcFabric sp).scatter sp bs false 0).setQp n.val { d.qpAt n.val with
        wqes := (d.qpAt n.val).wqes.map (fun x => if x.key = w.key then { x with got := w.got + bs.length } else x), tries := 0, rnrTries := 0 } →
      exec (.roceReadResponse n p) s = .next (withChip s
        (if w.len ≤ w.got + bs.length then e.qpAcked n.val ((w.psn + w.pkts - 1) % 2 ^ 24) else e))) ∧
    (q.wqes ≠ [] → q.rnrWait = true →
      exec (.roceTimeout n) s = .next (withChip s ((s.chip.setQp n.val { q with rnrWait := false }).qpBack n.val q.unacked))) ∧
    (q.wqes ≠ [] → q.rnrWait = false → q.texp ≠ 0 → c = (s.chip.passTo srcFabric (q.sentAt + 6144 * 2 ^ q.texp)).took 1 →
      exec (.roceTimeout n) s = .next (withChip s (c.qpRetry n.val q.unacked (s.chip.freeVal % 256)))) ∧
    (c = s.chip.passTo srcFabric (q.rate.per + s.chip.rf 0xA00008 17 0) →
      exec (.rcPeriod ⟨n.val, by omega⟩ true) s = .next (withChip s
        (c.setQp n.val { q with rate := c.rateStep q.rate (fp32OfNat (c.lineRate q.sub)) q.rate.ce (max q.rate.ce 1) c.fabric }))))

/-- Doorbells of a served, ACTIVE ring: a tail within the ring and not behind the present one is taken and the ring consumes; one beyond
it is RING_OVERRUN; a head up to the write count is taken and arms the ring; a wrong width or offset is DOORBELL_BAD; without a processor
that serves the ring the doorbell is latched (14 R375, R376, R380, R384, 20 R511). A slot whose SEQ matches becomes a fetched descriptor
with its bytes, priority and time of consumption; a mismatch is remembered and consumes nothing; a slot whose lines their home cannot
serve now is left for later (14 R374, R377, R378, 09 R225). A record that fits is written at its CQ's write count with its phase, is
marked PRIOR when its commander's EPOCH has changed, and the count advances; one that does not fit stays in the log in order (14 R379,
R380, R385, R388). -/
def Obligations.DoorbellsSlotsAndRecords : Prop :=
  (∀ (s : State) (r : Fin 1024) (off : Fin 4096) (width : Fin 9) (v : BitVec 64) (req : Option (BitVec 16)) (q : Sq) (cq : Cq),
    s.chip.live = true → q = s.chip.sqAt r.val → cq = s.chip.cqAt r.val →
    (s.chip.serving r.val = none → exec (.sqDoorbell r off width v req) s = .next (withChip s (s.chip.modCm (fun m =>
      { m with latched := m.latched ++ [{ isSq := true, ring := r.val, off := off.val, width := width.val, value := v.toNat
                                          req := req.map (·.toNat) }] })))) ∧
    ((s.chip.serving r.val).isSome → width.val ≠ 4 ∨ off.val ≠ 0 →
      exec (.sqDoorbell r off width v req) s = .next (withChip s (s.chip.logEv .doorbellBad srcDispatch [1, r.val])) ∧
      exec (.cqHeadDoorbell r off width v req) s = .next (withChip s (s.chip.logEv .doorbellBad srcDispatch [0, r.val]))) ∧
    ((s.chip.serving r.val).isSome → width.val = 4 → off.val = 0 → q.st = .active → req = none →
      exec (.sqDoorbell r off width v req) s = .next (withChip s
        (if sub32 (v.toNat % 2 ^ 32) q.head ≤ ringSize q.log2 ∧ sub32 q.tail q.head ≤ sub32 (v.toNat % 2 ^ 32) q.head
         then (s.chip.setSq r.val { q with tail := v.toNat % 2 ^ 32, ahead := false }).pump r.val
         else s.chip.logEv .ringOverrun srcDispatch [r.val, v.toNat % 2 ^ 32, q.head]))) ∧
    ((s.chip.serving r.val).isSome → width.val = 4 → off.val = 0 → cq.st = .active → req = none →
      exec (.cqHeadDoorbell r off width v req) s = .next (withChip s
        (if sub32 (v.toNat % 2 ^ 32) cq.head ≤ sub32 cq.w cq.head
         then s.chip.setCq r.val { cq with head := v.toNat % 2 ^ 32, armed := cq.int }
         else s.chip.logEv .doorbellBad srcDispatch [0, r.val]))) ∧
    (∀ (since found ad : Nat) (c0 : Chip), s.calm = true → q.miss = some (since, found) → c0 = s.chip.passTo srcDispatch (since + 2000) →
      c0.mayConsume r.val = true → q.cm = 0 → ad = q.base + 128 * (q.head % ringSize q.log2) → s.chip.mem.backedN ad 128 = true →
      fieldLE (s.chip.mem.readN ad 128) 0 2 ≠ seqOf q.head →
      ∃ c : Chip, exec (.doorbellAhead r) s = .next (withChip s c) ∧ (c.sqAt r.val).ahead = true ∧ (c.sqAt r.val).miss = none ∧
        (c.sqAt r.val).head = q.head ∧ c.cm.descs = s.chip.cm.descs)) ∧
  (∀ (c : Chip) (r a : Nat) (q : Sq) (g : Chip × List Byte × Bool), q = c.sqAt r → q.cm = 0 → c.mayConsume r = true →
    a = q.base + 128 * (q.head % ringSize q.log2) → g = c.fetchN a 128 → c.mem.backedN a 128 = true → c.partialDesc r = none →
    (c.ready (a / 64) false = false ∨ c.ready (a / 64 + 1) false = false → c.consume r 1 = c) ∧
    (c.ready (a / 64) false = true → c.ready (a / 64 + 1) false = true →
      (g.2.2 = false → fieldLE g.2.1 0 2 = seqOf q.head → ∃ e : Chip, e = g.1.takeSlot r g.2.1 ∧ c.consume r 1 = e.consume r 0 ∧
        e.cm.descs.length = c.cm.descs.length + 1 ∧ (e.sqAt r).head = (q.head + 1) % 2 ^ 32 ∧
        (∃ d ∈ e.cm.descs, d.key = c.cm.nextKey ∧ d.sq = r ∧ d.bytes = g.2.1.take 128 ∧ d.prio = q.prio ∧ d.at_ = c.dispatch ∧
          d.st = .fetched ∧ d.cm = 0)) ∧
      (g.2.2 = true ∨ fieldLE g.2.1 0 2 ≠ seqOf q.head →
        c.consume r 1 = (if q.miss.isSome then g.1 else g.1.setSq r { q with miss := some (c.dispatch, fieldLE g.2.1 0 2) }))) ∧
    (c.quiet = true → g = (c, c.mem.readN a 128, c.mem.poisonedN a 128))) ∧
  (∀ (s : State) (cqn : Fin 1024) (r : LogRec) (rest : List LogRec), s.chip.live = true → s.calm = true → s.chip.cm.log = r :: rest →
    s.chip.recordCq r.rcd = cqn.val →
    (s.chip.recordFits r.rcd = false → exec (.logDrain cqn) s = .next s) ∧
    (s.chip.recordFits r.rcd = true → s.chip.cm.lostEvents = [] →
      exec (.logDrain cqn) s = .next (withChip s ((s.chip.modCm (fun m => { m with log := rest })).writeRecord r))) ∧
    (∀ f : Fin_, r.rcd = f → s.chip.recordFits f = true → f.cm = 0 → f.dso = none → (s.chip.cqAt cqn.val).int = false →
      s.chip.writeRecord r = (s.chip.setCq cqn.val { s.chip.cqAt cqn.val with w := ((s.chip.cqAt cqn.val).w + 1) % 2 ^ 32 }).devWrite srcDispatch
        ((s.chip.cqAt cqn.val).base + 32 * ((s.chip.cqAt cqn.val).w % ringSize (s.chip.cqAt cqn.val).log2))
        (f.bytes (r.prior || (!f.ev && f.epoch != (s.chip.cmAt 0).epoch)) (s.chip.cqAt cqn.val).phase) (s.chip.cqAt cqn.val).hint))

/-- A write of REG_ADDR with an address asks for registration; a block that keeps the rules makes the entry ACTIVE with its KEY and EPOCH
and binds its rings with their counts at zero; zero asks for deregistration, which frees the entry and its rings once nothing of it is
left; a commander's GRACE parks its context (14 R364 to R368, R387 to R389). The CXL port: when the link goes down or is reset every
remote commander is lost and CM0 is not; a link of Table 14.1 comes up; a transaction that ends in an error or a timeout loses its
commander alone; a record is seen when its write completes; snoops are answered as invalid and BAR reads return the registration registers
(14 R360 to R362, R386, R387, 20 R507). -/
def Obligations.CommandersAndTheirPort : Prop :=
  (∀ (s : State) (k : Fin 32) (a : SetupAcc) (req : BitVec 16) (w : BitVec 32) (x : Fin 64) (e : Cmdr) (b : List Byte),
    s.chip.live = true → e = s.chip.cmAt k.val →
    (k.val = 0 → s.calm = true → a.half = none → a.value.toNat % 64 = 0 → a.value.toNat ≠ 0 → e.asking = false → e.dereg = false →
      s.chip.fw.running = true → s.chip.mem.backedN a.value.toNat 64 = true →
      exec (.registration k a req) s = .next (withChip s ((s.chip.setCm 0
        { e with regAddr := a.value.toNat, refusal := 0, asking := true, asker := req.toNat }).regDecide 0
          (if s.chip.mem.poisonedN a.value.toNat 64 then none else some (s.chip.mem.readN a.value.toNat 64))))) ∧
    (k.val ≠ 0 → s.calm = true → a.half = none → a.value.toNat % 64 = 0 → a.value.toNat ≠ 0 → e.asking = false → e.dereg = false → s.chip.fw.running = true →
      exec (.registration k a req) s = .next (withChip s ((s.chip.setCm k.val
        { e with regAddr := a.value.toNat, refusal := 0, asking := true, asker := req.toNat }).cxlAsk k.val a.value.toNat none (.block k.val)))) ∧
    (e.st = .active → s.calm = true → e.asking = false → e.dereg = false →
      exec (.deregistration k w) s = .next (withChip s (s.chip.setCm k.val { e with regAddr := 0, refusal := 0, dereg := true }))) ∧
    (e.dereg = true → s.chip.cm.descs = [] → s.chip.cm.fin = [] → s.chip.cm.log = [] → s.chip.cxl.out = [] →
      ∃ c : Chip, exec (.deregistrationDone k) s = .next (withChip s c) ∧ (c.cmAt k.val).st = .free ∧
        (∀ p ∈ c.cm.sq, p.2.cm = k.val → p.2.st = .free) ∧ (∀ p ∈ c.cm.cq, p.2.cm = k.val → p.2.st = .free) ∧
        (∀ j, j ≠ k.val → c.cmAt j = s.chip.cmAt j)) ∧
    (∀ due : Nat, tabFind (s.chip.ctxAt x.val).graceDue k.val = some due → (s.chip.ctxAt x.val).st = .active →
      exec (.graceExpiry k x) s = .next (withChip s ((s.chip.passTo srcDispatch due).setCtx x.val
        { s.chip.ctxAt x.val with graceDue := tabDel (s.chip.ctxAt x.val).graceDue k.val, st := .parked }))) ∧
    (∀ c : Chip, c = s.chip.setCm k.val { e with asking := false } → s.chip.regDecide k.val (some b) =
      (if c.regJudge k.val (some b) = 2 then c.regAccept k.val b
       else c.setCm k.val { c.cmAt k.val with refusal := c.regJudge k.val (some b) })) ∧
    (s.chip.regJudge k.val (some b) = 2 → ∃ c : Chip, c = s.chip.regAccept k.val b ∧ (c.cmAt k.val).st = .active ∧
      (c.cmAt k.val).key = fieldLE b 0 8 ∧ (c.cmAt k.val).epoch = fieldLE b 8 2 ∧ (c.cmAt k.val).ever = true ∧
      (c.sqAt (fieldLE b 10 2)).st = .active ∧ (c.sqAt (fieldLE b 10 2)).head = 0 ∧ (c.sqAt (fieldLE b 10 2)).tail = 0 ∧
      (c.cqAt (fieldLE b 12 2)).st = .active ∧ (c.cqAt (fieldLE b 12 2)).head = 0)) ∧
  (∀ (s : State) (x : CxlTxn) (bs : List Byte) (addr : BitVec 52) (off : BitVec 64) (width rate : Nat), s.chip.live = true →
    (∀ i ∈ [Instr.cxlLinkDown, Instr.linkReset], ∃ c : Chip, exec i s = .next (withChip s c) ∧ c.cxl.l0 = false ∧
      (∀ k, 0 < k → k < 32 → (c.cmAt k).st ≠ .active) ∧ (c.cmAt 0).st = (s.chip.cmAt 0).st ∧
      c.cxl.out = [] ∧ c.tile = s.chip.tile ∧ c.so = s.chip.so) ∧
    ((width = 8 ∨ width = 16) → (rate = 32 ∨ rate = 64) →
      exec (.cxlLinkUp width rate) s = .next (withChip s (s.chip.modCxl (fun l => { l with l0 := true, rate := rate, width := width })))) ∧
    (s.chip.cxl.out.find? (fun y => y.id == x.id) = some x → (s.chip.cmAt x.cm).st = .active →
      exec (.cxlRequestTimeout x.id) s = .next (withChip s (s.chip.lose x.cm .commanderLost))) ∧
    (∀ d : Chip, s.calm = true → s.chip.cxl.out.find? (fun y => y.id == x.id) = some x →
      d = s.chip.modCxl (fun l => { l with out := l.out.filter (fun o => o.id != x.id) }) →
      (∀ r : LogRec, x.use = .record r →
        exec (.cxlCacheResponse x.id .ok bs) s = .next (withChip s (d.recordSeen r.rcd.cq r.rcd)) ∧
        exec (.cxlCacheResponse x.id .error bs) s = .next (withChip s (s.chip.lose x.cm .commanderLost))) ∧
      (∀ cm : Nat, x.use = .block cm → exec (.cxlCacheResponse x.id .ok bs) s = .next (withChip s (d.regDecide cm (some bs)))) ∧
      (∀ r n : Nat, x.use = .slot r n → exec (.cxlCacheResponse x.id .ok bs) s = .next (withChip s (d.slotBack r n bs .ok))) ∧
      (∀ cm : Nat, x.use = .heartbeat cm →
        exec (.cxlCacheResponse x.id .ok bs) s = .next (withChip s (d.heartbeat cm (some (fieldLE bs 0 8))))) ∧
      (∀ key : Nat, x.use = .done key → exec (.cxlCacheResponse x.id .ok bs) s = .next (withChip s (d.finish key 0 0)))) ∧
    exec (.cxlCacheSnoop addr) s = .next (withChip s (s.chip.answer [0])) ∧
    (∀ k : Nat, 0 < k → k < 32 → off.toNat = 0x1000 * k + 8 →
      exec (.cxlioRequest 0 off false 8) s = .next (withChip s
        (s.chip.answer [0, ((s.chip.cmAt k).epoch * 2 ^ 32 + (s.chip.cmAt k).status) % 2 ^ 64]))) ∧
    (∀ bytes : Fin 65, off.toNat < 0x100000 → exec (.cxlioRequest 0 off true bytes) s = .next (withChip s (s.chip.answer [0]))) ∧
    (∀ (wr : Bool) (bytes : Fin 65), 0x100000 ≤ off.toNat → exec (.cxlioRequest 0 off wr bytes) s = .next (withChip s (s.chip.answer [1]))) ∧
    (∀ (wr : Bool) (bytes : Fin 65), off.toNat < 0x800000 →
      exec (.cxlioRequest 2 off wr bytes) s = .next (withChip s (s.chip.answer [0, 0]))))

/-- Every ring command acts on its ring's first descriptor alone, when it is of the command's kind and may start: one that breaks a rule
completes with its status and nothing else (MALFORMED with the first bad offset, LOCAL_ONLY, CTX_DENIED, SO_DENIED, in that order), and
one that must wait changes nothing (14 R368, R370, R371, R374, R378). A descriptor that has ended leaves one record: it is delivered to
its CQ when its ring is served, an SO_WAIT ends satisfied or by its timeout with the counter's value, a CTX_DESTROY, a TLB_INVAL and an
unbinding when what they wait for has ended, and the ring consumes on (14 R378, R379, 03 R87, R88). -/
def Obligations.DescriptorsJudgedAndCompleted : Prop :=
  (∀ p ∈ descRows, ∀ (s : State) (r : Fin 1024) (d : Desc), s.chip.live = true → s.calm = true → s.chip.headDesc r.val = some d →
    (p.2 d = true → s.chip.mayStart d = true → ∀ e, s.chip.refusal d = some e →
      exec (p.1 r) s = .next (withChip s ((s.chip.finish d.key e.1 e.2).pump r.val))) ∧
    (p.2 d = false ∨ s.chip.mayStart d = false → exec (p.1 r) s = .next s) ∧
    (∀ off, d.bad = some off → s.chip.refusal d = some (0x01, off)) ∧
    (d.bad = none → d.op ∈ localOps → d.cm ≠ 0 → s.chip.refusal d = some (0x08, 0)) ∧
    (d.bad = none → d.op ∉ localOps → d.ctx ≠ 0 → s.chip.ctxOf d.cm d.ctx = false → s.chip.refusal d = some (0x07, d.ctx)) ∧
    (descOps.contains d.op = false → ∃ off ≤ 2, d.bad = some off)) ∧
  (∀ (s : State) (r : Fin 1024) (f : Fin_) (e d : Desc) (c : Chip), s.chip.live = true → (s.chip.serving r.val).isSome →
    (s.calm = true → c = s.chip.settleDescs r.val → c.cm.fin.find? (fun x => x.sq == r.val) = some f →
      exec (.descriptorComplete r) s = .next (withChip s
        ((((c.modCm (fun m => { m with fin := m.fin.erase f })).deliver { rcd := f, prior := false }).overflowEvents).pump r.val))) ∧
    (s.calm = true → c = s.chip.settleDescs r.val → c.cm.fin.find? (fun x => x.sq == r.val) = none →
      exec (.descriptorComplete r) s = .next (withChip s (c.pump r.val))) ∧
    (s.chip.cm.descs = [e] → e.sq = r.val → e.st = .started →
      (e.op = 0x02 → s.chip.ctxOver (e.aux.headD 0) = true → s.chip.settleDescs r.val = s.chip.ctxEnd (e.aux.headD 0) e.key) ∧
      (e.op = 0x04 → (∀ o ∈ e.aux, o ∉ s.chip.moverOps e.ctx) → s.chip.settleDescs r.val = s.chip.finish e.key 0 0) ∧
      (e.op = 0x12 → (tabFind s.chip.so.woken e.key).isSome = true → s.chip.settleDescs r.val =
        (s.chip.modSo (fun x => { x with woken := tabDel x.woken e.key })).finish e.key 0 0) ∧
      (e.op = 0x41 → (s.chip.sqAt (e.aux.headD 0)).unbinding = some e.key → s.chip.settleDescs r.val =
        (s.chip.finish e.key 0 0).setSq (e.aux.headD 0) Sq.fresh)) ∧
    (s.chip.waitOf r.val = some d → d.f 24 4 ≠ 0 → tabFind s.chip.so.woken d.key = none →
      ∃ c : Chip, c = (s.chip.passTo srcDispatch (d.aux.headD 0 + 1000 * d.f 24 4)).soWithdraw (.fw d.key) ∧
        exec (.soWaitTimeout r) s = .next (withChip s ((c.finish d.key 0x13 (s.chip.soValue (d.f 16 2))).pump r.val)) ∧
        (∀ w ∈ c.so.waits, w.who ≠ .fw d.key)) ∧
    (∀ (c : Chip) (x : Desc) (status detail : Nat), c.descAt x.key = some x →
      (c.finish x.key status detail).descAt x.key = none ∧
      ∃ y : Fin_, (c.finish x.key status detail).cm.fin = c.cm.fin ++ [y] ∧ y.tag = x.tag ∧ y.status = status ∧ y.op = x.op ∧ y.sq = x.sq ∧
        y.detail = detail % 2 ^ 64))

/-- Contexts, memory and objects through descriptors: NOP unparks, CREATE records the fields and assigns objects that no context owned
(which, is a free value, assumption 6), DESTROY begins the end, GRANT and REVOKE change the KEYs, TLB_INVAL drops mappings, MEMWRITE
stores inline bytes, RUN becomes a ready work item, SO_OP and SO_WAIT act on an object (14 R368, R371, 15 R399, R404 to R408, 03 R84 to
R88). -/
def Obligations.ContextAndWorkDescriptors : Prop :=
  ∀ (s : State) (r : Fin 1024) (d : Desc) (x : CtxEnt), descReady s r d → x = s.chip.ctxAt d.ctx →
    (d.op = 0x00 → exec (.ringNop r) s = .next (withChip s
      (((if x.st = .parked then s.chip.setCtx d.ctx { x with st := .active } else s.chip).finish d.key 0 0).pump r.val))) ∧
    (d.op = 0x01 → x.st = .free → s.chip.rootBad (d.f 16 8) = true →
      exec (.ctxCreate r) s = .next (withChip s ((s.chip.finish d.key 0x01 16).pump r.val))) ∧
    (d.op = 0x01 → x.st = .free → s.chip.rootBad (d.f 16 8) = false → exec (.ctxCreate r) s = .next (withChip s ((((s.chip.setCtx d.ctx
      { st := .active, root := d.f 16 8, seed := d.f 24 8, save := d.f 32 8, ftimg := d.f 40 8, hint := d.f 48 2, eventCq := d.f 50 2
        park := bit (d.f 52 1) 0, grace := d.f 56 4, grants := [], graceDue := [], saved := [] }).assignObjects d.ctx).finish d.key 0 0).pump r.val))) ∧
    (∀ n : Nat, ((s.chip.assignObjects d.ctx).soOwner n = s.chip.soOwner n ∧ (s.chip.assignObjects d.ctx).soValue n = s.chip.soValue n) ∨
      (s.chip.soOwner n = 64 ∧ (s.chip.assignObjects d.ctx).soOwner n = d.ctx ∧ (s.chip.assignObjects d.ctx).soValue n = 0)) ∧
    (d.op = 0x01 → x.st ≠ .free → exec (.ctxCreate r) s = .next (withChip s ((s.chip.finish d.key 0x09 d.ctx).pump r.val))) ∧
    (d.op = 0x02 → s.calm = true → s.chip.cm.descs = [d] → s.chip.fw.work = [] → s.chip.bucket = [] → s.chip.fab.conn = [] →
      s.chip.fab.region = [] → (∀ q, (s.chip.lqAt q).bound = false) → s.chip.mayConsume r.val = false →
      ∃ c : Chip, exec (.ctxDestroy r) s = .next (withChip s c) ∧ (c.ctxAt d.ctx).st = .ending ∧
        c.cm.descs = [{ d with st := .started, aux := [d.ctx] }] ∧ (∀ p ∈ c.pcie, p.2.ctx = d.ctx → p.2.valid = false) ∧ c.so = s.chip.so) ∧
    (d.op = 0x03 → d.f 24 1 ≠ 0 → exec (.ctxGrant r) s = .next (withChip s
      (((s.chip.setCtx d.ctx { x with grants := setIns x.grants (d.f 16 8) }).finish d.key 0 0).pump r.val))) ∧
    (d.op = 0x03 → d.f 24 1 = 0 → exec (.ctxRevoke r) s = .next (withChip s
      (((s.chip.setCtx d.ctx { x with grants := setDel x.grants (d.f 16 8) }).finish d.key 0 0).pump r.val))) ∧
    (d.op = 0x04 → s.chip.moverOps d.ctx = [] → exec (.tlbInval r) s = .next (withChip s
      (((s.chip.tlbDrop d.ctx (d.f 16 8) (d.f 24 8)).finish d.key 0 0).pump r.val))) ∧
    (d.op = 0x04 → s.chip.moverOps d.ctx ≠ [] → exec (.tlbInval r) s = .next (withChip s
      (((s.chip.tlbDrop d.ctx (d.f 16 8) (d.f 24 8)).starts d (s.chip.moverOps d.ctx)).pump r.val))) ∧
    (∀ sp : Span, d.op = 0x06 → s.calm = true → d.ctx ≠ 0 → sp = s.chip.spanLines [] d.ctx (d.f 16 8) (d.data.take (d.f 24 2)).length true → sp.fault = none →
      exec (.memwrite r) s = .next (withChip s
        ((((s.chip.used [] srcDispatch sp).scatter sp (d.data.take (d.f 24 2)) false 0).finish d.key 0 0).pump r.val))) ∧
    (∀ sp : Span, ∀ f : VFault, d.op = 0x06 → s.calm = true → d.ctx ≠ 0 →
      sp = s.chip.spanLines [] d.ctx (d.f 16 8) (d.data.take (d.f 24 2)).length true → sp.fault = some f →
      exec (.memwrite r) s = .next (withChip s (((s.chip.used [] srcDispatch sp).finish d.key f.kind.code f.detail).pump r.val))) ∧
    (d.op = 0x06 → s.calm = true → d.ctx = 0 → d.cm = 0 → s.chip.writable (d.f 16 8) (d.data.take (d.f 24 2)).length = true →
      exec (.memwrite r) s = .next (withChip s
        (((s.chip.storeHint (d.f 16 8) (d.data.take (d.f 24 2)) false 0).finish d.key 0 0).pump r.val))) ∧
    (d.op = 0x06 → s.calm = true → d.ctx = 0 → d.cm = 0 → s.chip.writable (d.f 16 8) (d.data.take (d.f 24 2)).length = false →
      exec (.memwrite r) s = .next (withChip s (((s.chip.logRefused srcDispatch (d.f 16 8) (d.data.take (d.f 24 2)).length).finish d.key
        0x04 (d.f 16 8)).pump r.val))) ∧
    (d.op = 0x06 → s.calm = true → d.ctx = 0 → d.cm ≠ 0 → exec (.memwrite r) s = .next (withChip s
      (((s.chip.setDesc { d with st := .started, aux := [] }).cxlAsk d.cm (d.f 16 8) (some (d.data.take (d.f 24 2))) (.done d.key)).pump r.val))) ∧
    (d.op = 0x10 → ∃ c : Chip, exec (.run r) s = .next (withChip s (c.pump r.val)) ∧ c.cm.descs.length = s.chip.cm.descs.length ∧
      ∃ k : Work, c.fw.work = s.chip.fw.work ++ [k] ∧ k.key = d.key ∧ k.ctx = d.ctx ∧ k.tile = d.f 24 2 ∧ k.entry = d.f 32 4 ∧
        k.args = d.f 16 8 ∧ k.gen = d.f 28 4 ∧ k.prio = d.prio ∧ k.phys = 200 ∧ c.tile = s.chip.tile) ∧
    (s.chip.soAllowed d.ctx (d.f 16 2) = false → (d.op = 0x11 → d.f 18 1 = 1 → exec (.soOpSet r) s = .next (withChip s
        ((s.chip.finish d.key 0x02 (d.f 16 2)).pump r.val))) ∧
      (d.op = 0x11 → d.f 18 1 ≠ 1 → exec (.soOpSignal r) s = .next (withChip s ((s.chip.finish d.key 0x02 (d.f 16 2)).pump r.val))) ∧
      (d.op = 0x12 → exec (.soWait r) s = .next (withChip s ((s.chip.finish d.key 0x02 (d.f 16 2)).pump r.val)))) ∧
    (s.chip.soAllowed d.ctx (d.f 16 2) = true → d.op = 0x11 →
      (d.f 18 1 = 1 → exec (.soOpSet r) s = .next (withChip s
        (((s.chip.fwAct ((s.chip.serving d.sq).getD 0) (d.f 16 2) (d.f 20 4) true).finish d.key 0 0).pump r.val))) ∧
      (d.f 18 1 ≠ 1 → exec (.soOpSignal r) s = .next (withChip s
        (((s.chip.fwAct ((s.chip.serving d.sq).getD 0) (d.f 16 2) (d.f 20 4) false).finish d.key 0 0).pump r.val)))) ∧
    (s.chip.soAllowed d.ctx (d.f 16 2) = true → d.op = 0x12 →
      exec (.soWait r) s = .next (withChip s
        (if waitHolds (s.chip.soValue (d.f 16 2)) (d.f 20 4) then (s.chip.finish d.key 0 0).pump r.val
         else if 256 ≤ s.chip.fwWaits (d.f 16 2 / 4096) then (s.chip.finish d.key 0x14 (d.f 16 2)).pump r.val
         else ((s.chip.setDesc { d with st := .started, aux := [s.chip.dispatch] }).modSo (fun q =>
           { q with waits := q.waits ++ [{ so := d.f 16 2, target := d.f 20 4, who := .fw d.key }] })).pump r.val)))

/-- Queues, buckets, regions, the raw queue and rings are bound and released by descriptors, each in its own table; a queue of another
context is refused (the model's choice, assumption 32) (10 R252, R287, 11 R290, R299, 12 R322, R325, 13 R356, R357, 14 R369, R389). -/
def Obligations.BindingDescriptors : Prop :=
  ∀ (s : State) (r : Fin 1024) (d : Desc) (n : Nat), descReady s r d → n = d.f 16 2 →
    (d.op = 0x20 → d.foreign (s.chip.lqAt n).bound (s.chip.lqAt n).ctx = false → s.chip.lqCmds n = [] → (s.chip.lqAt n).unbind = none → s.chip.soOwner (d.f 20 2) = d.ctx →
      exec (.lqBind r) s = .next (withChip s (((s.chip.setLq n { Lq.fresh with
        bound := true, ctx := d.ctx, base := d.f 24 8, log2 := d.f 18 1, so := d.f 20 2, weight := d.f 19 1 }).finish d.key 0 0).pump r.val))) ∧
    (d.op = 0x20 → (s.chip.lqAt n).bound = true → (s.chip.lqAt n).ctx ≠ d.ctx →
      exec (.lqBind r) s = .next (withChip s ((s.chip.finish d.key 0x07 d.ctx).pump r.val))) ∧
    (d.op = 0x20 → d.foreign (s.chip.lqAt n).bound (s.chip.lqAt n).ctx = false → (s.chip.lqCmds n ≠ [] ∨ (s.chip.lqAt n).unbind.isSome = true) →
      exec (.lqBind r) s = .next (withChip s ((s.chip.finish d.key 0x09 n).pump r.val))) ∧
    (d.op = 0x21 → (s.chip.lqAt n).bound = true → (s.chip.lqAt n).ctx ≠ d.ctx →
      exec (.lqUnbind r) s = .next (withChip s ((s.chip.finish d.key 0x07 d.ctx).pump r.val))) ∧
    (d.op = 0x21 → d.foreign (s.chip.lqAt n).bound (s.chip.lqAt n).ctx = false → s.chip.lqCmds n = [] → (s.chip.lqAt n).unbind = none →
      ∃ c : Chip, exec (.lqUnbind r) s = .next (withChip s (c.pump r.val)) ∧ c.lqAt n = Lq.fresh ∧ c.ledge.cmds = s.chip.ledge.cmds) ∧
    (d.op = 0x22 → s.calm = true → ∃ b : Bucket, exec (.bucketOpen r) s = .next (withChip s
        (((s.chip.bucketOpen n b).1.finish d.key (s.chip.bucketOpen n b).2.1 (s.chip.bucketOpen n b).2.2).pump r.val)) ∧
      b.ctx = d.ctx ∧ b.base = d.f 24 8 ∧ b.len = d.f 32 8 ∧ b.expect = d.f 40 8 ∧ b.so = d.f 20 2 ∧
      ((s.chip.bucketOpen n b).2.1 = 0 → ((s.chip.bucketOpen n b).1.bucketAt n).st = .filling ∧ ((s.chip.bucketOpen n b).1.bucketAt n).applied = 0 ∧
        ((s.chip.bucketOpen n b).1.bucketAt n).filled = 0 ∧ (s.chip.bucketOpen n b).1.mem.bytes = s.chip.mem.bytes) ∧
      ((s.chip.bucketOpen n b).2.1 ≠ 0 → (s.chip.bucketOpen n b).1.bucket = s.chip.bucket)) ∧
    (d.op = 0x23 → ((s.chip.bucketAt n).st = .filling ∨ (s.chip.bucketAt n).st = .open_) → (d.ctx = (s.chip.bucketAt n).ctx ∨ d.ctx = 0) →
      exec (.bucketAbort r) s = .next (withChip s
        (((s.chip.setDesc { d with st := .started, aux := [] }).setBucket n
          { s.chip.bucketAt n with st := .aborting, abort := some d.key }).pump r.val))) ∧
    (d.op = 0x23 → (s.chip.bucketAt n).st = .free → exec (.bucketAbort r) s = .next (withChip s ((s.chip.finish d.key 0x0B n).pump r.val))) ∧
    (d.op = 0x23 → (s.chip.bucketAt n).st = .closing → (d.ctx = (s.chip.bucketAt n).ctx ∨ d.ctx = 0) →
      exec (.bucketAbort r) s = .next (withChip s ((s.chip.finish d.key 0x0C n).pump r.val))) ∧
    (d.op = 0x23 → (s.chip.bucketAt n).st ≠ .free → d.ctx ≠ (s.chip.bucketAt n).ctx → d.ctx ≠ 0 →
      exec (.bucketAbort r) s = .next (withChip s ((s.chip.finish d.key 0x02 (s.chip.bucketAt n).so).pump r.val))) ∧
    (d.op = 0x24 → bit (d.f 18 1) 0 = true → d.foreign (s.chip.pcieAt n).valid (s.chip.pcieAt n).ctx = false → exec (.pcieRegion r) s = .next (withChip s (((s.chip.modPcie (fun t => tabSet t n
      { valid := true, msi := bit (d.f 18 1) 1, port := d.f 19 1, reqid := d.f 20 2, reqmask := d.f 22 2, ctx := d.ctx, vbase := d.f 24 8
        len := d.f 32 8, perm := d.f 40 1, hint := d.f 44 2, hart := d.f 41 1, file := d.f 42 1 })).finish d.key 0 0).pump r.val))) ∧
    (d.op = 0x24 → bit (d.f 18 1) 0 = false → d.foreign (s.chip.pcieAt n).valid (s.chip.pcieAt n).ctx = false → exec (.pcieRegionWithdraw r) s = .next (withChip s
      (((s.chip.modPcie (fun t => tabSet t n PcieRegion.fresh)).finish d.key 0 0).pump r.val))) ∧
    (d.op = 0x25 → bit (d.f 18 1) 0 = true → d.foreign (s.chip.regionAt n).valid (s.chip.regionAt n).ctx = false → (s.chip.regionAt n).closing = none →
      ∃ check : Nat, check ≠ (s.chip.regionAt n).check ∧ 0 < check ∧ check < 65536 ∧ exec (.fdRegion r) s = .next (withChip s
        ((((s.chip.took 1).setRegion n { valid := true, ctx := d.ctx, vbase := d.f 24 8, len := d.f 32 8, perm := d.f 19 1, check := check
                                         hint := d.f 20 2, version := d.f 40 8, closing := none }).finish d.key 0 (n * 65536 + check)).pump r.val))) ∧
    (d.op = 0x25 → bit (d.f 18 1) 0 = false → d.foreign (s.chip.regionAt n).valid (s.chip.regionAt n).ctx = false → (s.chip.regionAt n).closing = none → s.chip.fab.conn = [] →
      ∃ c : Chip, exec (.fdRegionWithdraw r) s = .next (withChip s (c.pump r.val)) ∧ (c.regionAt n).valid = false ∧ (c.regionAt n).closing = none) ∧
    (d.op = 0x39 → n = 0xFFFF → exec (.rawqBind r) s = .next (withChip s
      (((s.chip.modFab (fun f => { f with rawq := none })).finish d.key 0 0).pump r.val))) ∧
    (d.op = 0x39 → n ≠ 0xFFFF → (s.chip.cqAt n).recv = true → (s.chip.cqAt n).st ≠ .free → exec (.rawqBind r) s = .next (withChip s
      (((s.chip.modFab (fun f => { f with rawq := some n })).finish d.key 0 0).pump r.val))) ∧
    (d.op = 0x40 → d.f 16 1 = 0 → (s.chip.sqAt (d.f 18 2)).st = .free → (s.chip.cqAt (d.f 20 2)).st ≠ .free →
      (s.chip.cqAt (d.f 20 2)).cm = d.cm → (s.chip.cqAt (d.f 20 2)).recv = false → exec (.ringBind r) s = .next (withChip s
        (((s.chip.bindSq (d.f 18 2) d.cm (d.f 17 1) (d.f 24 8) (d.f 20 2) (d.f 22 1)).finish d.key 0 0).pump r.val))) ∧
    (d.op = 0x40 → d.f 16 1 ≠ 0 → (s.chip.cqAt (d.f 18 2)).st = .free → exec (.ringBind r) s = .next (withChip s
        (((s.chip.bindCq (d.f 18 2) d.cm (d.f 17 1) (d.f 24 8) (d.f 32 4) (d.f 23 1) (d.f 36 2)).finish d.key 0 0).pump r.val))) ∧
    (d.op = 0x41 → d.f 16 1 = 1 → (s.chip.cqAt (d.f 18 2)).st ≠ .free → (s.chip.cqAt (d.f 18 2)).cm = d.cm → exec (.ringUnbind r) s =
      .next (withChip s (((s.chip.setCq (d.f 18 2) Cq.fresh).finish d.key 0 0).pump r.val))) ∧
    (d.op = 0x41 → d.f 16 1 = 0 → (s.chip.sqAt (d.f 18 2)).st ≠ .free → (s.chip.sqAt (d.f 18 2)).cm = d.cm →
      (s.chip.sqAt (d.f 18 2)).unbinding = none → exec (.ringUnbind r) s = .next (withChip s
        (((s.chip.setDesc { d with st := .started, aux := [d.f 18 2] }).setSq (d.f 18 2)
          { s.chip.sqAt (d.f 18 2) with unbinding := some d.key }).pump r.val))) ∧
    (d.op = 0x42 → (s.chip.cmAt (d.f 16 1)).st = .lost → ∃ c : Chip, exec (.cmRelease r) s = .next (withChip s (c.pump r.val)) ∧
      (c.cmAt (d.f 16 1)).st = .free ∧ (∀ l ∈ c.cm.log, l.rcd.cm ≠ d.f 16 1) ∧ (∀ p ∈ c.cm.sq, p.2.cm = d.f 16 1 → p.2.st = .free))

/-- Connections, the neighbour table, queue pairs, messages and captures through descriptors: a connection begins CONNECTING, a message is
posted on an OPEN connection of the context and its descriptor stays started until it has settled, a queue pair takes work and buffers
while it is ready, a capture is queued (13 R338, R354, R358, R359, 14 R548, Table 14.5, 01 R31). -/
def Obligations.FabricDescriptors : Prop :=
  ∀ (s : State) (r : Fin 1024) (d : Desc) (n : Nat), descReady s r d → n = d.f 16 2 →
    (∀ (sp : Span), d.op = 0x30 → s.calm = true → ((s.chip.connAt n).st = .idle ∨ (s.chip.connAt n).st = .lost) →
      sp = s.chip.spanLines [] d.ctx (d.f 40 8) (16 * d.f 18 1) false → sp.fault = none →
      ((s.chip.used [] srcDispatch sp).mem.gather sp).2 = none →
      ∃ c : Chip, exec (.connCreate r) s = .next (withChip s (c.pump r.val)) ∧ (c.connAt n).st = .connecting ∧ (c.connAt n).ctx = d.ctx ∧
        (c.connAt n).cookie = d.f 24 8 ∧ (c.connAt n).creator = some d.key ∧ (c.connAt n).peers.length = d.f 18 1 ∧
        (c.connAt n).proposal = (if (s.chip.connAt n).epoch = 0 then 1 else ((s.chip.connAt n).epoch + 1) % 65536)) ∧
    (d.op = 0x31 → s.calm = true → (s.chip.connAt n).st = .idle → exec (.connClose r) s = .next (withChip s ((s.chip.finish d.key 0 0).pump r.val))) ∧
    (d.op = 0x31 → s.calm = true → (s.chip.connAt n).st = .lost → (s.chip.connAt n).ctx = d.ctx → s.chip.fab.region = [] →
      ∃ c : Chip, exec (.connClose r) s = .next (withChip s (c.pump r.val)) ∧ (c.connAt n).st = .idle ∧ (c.connAt n).rx.slots = []) ∧
    (d.op = 0x31 → s.calm = true → (s.chip.connAt n).st ≠ .idle → (s.chip.connAt n).ctx ≠ d.ctx →
      exec (.connClose r) s = .next (withChip s ((s.chip.finish d.key 0x07 d.ctx).pump r.val))) ∧
    (d.op = 0x30 → s.calm = true → ((s.chip.connAt n).st = .open_ ∨ (s.chip.connAt n).st = .connecting) →
      exec (.connCreate r) s = .next (withChip s ((s.chip.finish d.key 0x09 n).pump r.val))) ∧
    (d.op = 0x32 → d.f 17 1 = 0 → exec (.neigh r) s = .next (withChip s
      (((s.chip.modFab (fun f => { f with neigh := f.neigh.filter (fun x => !(x.1 == d.f 16 1 && x.2.1 == fieldBE d.bytes 24 16)) })).finish
        d.key 0 0).pump r.val))) ∧
    (d.op = 0x32 → d.f 17 1 ≠ 0 → s.chip.fab.neigh.length < 1024 → exec (.neigh r) s = .next (withChip s
      (((s.chip.modFab (fun f => { f with neigh := f.neigh.filter (fun x => !(x.1 == d.f 16 1 && x.2.1 == fieldBE d.bytes 24 16)) ++
        [(d.f 16 1, fieldBE d.bytes 24 16, fieldBE d.bytes 18 6)] })).finish d.key 0 0).pump r.val))) ∧
    (∀ p ∈ postRows, p.2 d = true →
      ((s.chip.connAt (d.f 16 4)).st = .open_ → (s.chip.connAt (d.f 16 4)).ctx = d.ctx →
        exec (p.1 r) s = .next (withChip s (((s.chip.setDesc { d with st := .started, aux := [] }).haulPost (d.f 16 4) d.message).pump r.val))) ∧
      ((s.chip.connAt (d.f 16 4)).st = .connecting → (s.chip.connAt (d.f 16 4)).ctx = d.ctx →
        exec (p.1 r) s = .next (withChip s ((s.chip.setDesc { d with st := .started, aux := [d.f 16 4] }).pump r.val))) ∧
      ((s.chip.connAt (d.f 16 4)).st ≠ .idle → (s.chip.connAt (d.f 16 4)).ctx ≠ d.ctx →
        exec (p.1 r) s = .next (withChip s ((s.chip.finish d.key 0x07 d.ctx).pump r.val))) ∧
      ((s.chip.connAt (d.f 16 4)).st = .idle ∨ ((s.chip.connAt (d.f 16 4)).st = .lost ∧ (s.chip.connAt (d.f 16 4)).ctx = d.ctx) →
        exec (p.1 r) s = .next (withChip s ((s.chip.finish d.key 0x0E (d.f 16 4)).pump r.val)))) ∧
    (d.op = 0x36 → (s.chip.qpAt n).st ≠ .ready → ∃ c : Chip, exec (.qpCreate r) s = .next (withChip s ((c.finish d.key 0 0).pump r.val)) ∧
      (c.qpAt n).st = .ready ∧ (c.qpAt n).ctx = d.ctx ∧ (c.qpAt n).psn = d.f 44 4 ∧ (c.qpAt n).epsn = d.f 44 4 ∧ (c.qpAt n).wqes = []) ∧
    (∀ p ∈ qpRows, p.2 d = true → s.calm = true → (s.chip.qpAt n).st = .ready → (s.chip.qpAt n).ctx = d.ctx →
      exec (p.1 r) s = .next (withChip s (((s.chip.setDesc { d with st := .started, aux := [] }).qpPost n
        { key := d.key, verb := d.f 18 1, lva := d.f 24 8, len := d.f 32 4, rkey := d.f 36 4, rva := d.f 40 8, imm := d.f 20 4, psn := 0
          pkts := 0, got := 0 }).pump r.val))) ∧
    (d.op = 0x38 → (s.chip.qpAt n).st = .ready → (s.chip.qpAt n).ctx = d.ctx →
      exec (.recvPost r) s = .next (withChip s (((s.chip.setDesc { d with st := .started, aux := [] }).setQp n { s.chip.qpAt n with
        recvs := (s.chip.qpAt n).recvs ++ [{ key := d.key, va := d.f 24 8, len := d.f 32 4 }] }).pump r.val))) ∧
    (∀ p ∈ (Instr.recvPost, opIs 0x38) :: qpRows, p.2 d = true → s.calm = true →
      ((s.chip.qpAt n).st = .none ∨ (s.chip.qpAt n).ctx ≠ d.ctx →
        exec (p.1 r) s = .next (withChip s ((s.chip.finish d.key 0x07 d.ctx).pump r.val))) ∧
      ((s.chip.qpAt n).st = .error → (s.chip.qpAt n).ctx = d.ctx →
        exec (p.1 r) s = .next (withChip s (((s.chip.qpFinish n d.key 0x16 (s.chip.freeVal % 256)).took 1).pump r.val)))) ∧
    (d.op = 0x05 → s.calm = true → exec (.capture r) s = .next (withChip s (((s.chip.setDesc { d with st := .started, aux := [] }).capAsk
      { reqId := n, srcs := (List.range (d.f 18 1)).map (fun i => d.f (24 + 2 * i) 2), record := d.f 40 8, key := some d.key }).pump r.val)))

/-- A driver's call ends in one atomic decision whose code and result stand in the mailbox: LOAD and UPDATE by the image's verdict, ATTACH
by the versions, HANDOVER by CM0's state, QUERY with the counts, and a code that is no call with BAD_CALL; while one is BUSY any other is
ignored and reported (15 R393 to R397, R414, 21 R521). -/
def Obligations.MailboxCallsAnswered : Prop :=
  ∀ (s : State) (crypto : Bool) (m : Mailbox) (v : Nat), s.chip.live = true → s.calm = true → m = s.chip.fw.mbox → m.result ≠ 1 →
    v = s.chip.imageVerdict s.sec crypto →
    (s.chip.fw.running = true → exec (.load crypto) s = .next (withChip s (s.chip.callEnd 1 3))) ∧
    (s.chip.fw.running = false → v ≠ 0 → exec (.load crypto) s = .next (withChip s (s.chip.callEnd 1 v))) ∧
    (s.chip.fw.running = false → v = 0 → ∃ c : Chip, exec (.load crypto) s =
        .next { s with chip := c.answerAsks.unlatch.callEnd 1 0, sec := s.chip.raiseFor s.sec } ∧
      c.fw.running = true ∧ c.fw.version = fieldLE (s.chip.mem.readN m.arg0 s.chip.imageLen) 8 4 ∧ c.fw.pcopy = some m.arg2 ∧
      c.cm = s.chip.cm ∧ (∀ k < 4, (s.chip.fpAt k).failed = false → (c.fpAt k).service = true ∧ (c.fpAt k).server = k)) ∧
    (s.chip.fw.running = false → exec (.update crypto) s = .next (withChip s (s.chip.callEnd 4 2)) ∧
      exec .attach s = .next (withChip s (s.chip.callEnd 2 2)) ∧ exec .handover s = .next (withChip s (s.chip.callEnd 3 2)) ∧
      exec .query s = .next (withChip s (s.chip.callEnd 5 2))) ∧
    (s.chip.fw.running = true →
      (s.chip.liveWork = true ∨ (s.chip.anyCtx = true ∧ s.chip.otherMajor = true) →
        exec (.update crypto) s = .next (withChip s (s.chip.callEnd 4 7))) ∧
      (s.chip.liveWork = false → (s.chip.anyCtx = false ∨ s.chip.otherMajor = false) → v ≠ 0 →
        exec (.update crypto) s = .next (withChip s (s.chip.callEnd 4 v))) ∧
      (s.chip.liveWork = false → (s.chip.anyCtx = false ∨ s.chip.otherMajor = false) → v = 0 → ∃ c : Chip,
        exec (.update crypto) s = .next { s with chip := c.unlatch.callEnd 4 0, sec := s.chip.raiseFor s.sec } ∧ c.fw.running = true ∧
        c.fw.version = fieldLE (s.chip.mem.readN m.arg0 s.chip.imageLen) 8 4 ∧ c.cm = s.chip.cm ∧ c.ctx = s.chip.ctx ∧ c.so = s.chip.so) ∧
      (∃ r : Nat, exec .attach s = .next (withChip s ((s.chip.modFw (fun f => { f with mbox := { m with arg0 := f.version } })).callEnd 2 r)) ∧
        (r = 0 ↔ bits m.arg0 31 24 = bits s.chip.fw.version 31 24 ∧
          bits m.arg0 23 16 ≤ bits s.chip.fw.version 23 16) ∧ (r = 0 ∨ r = 6)) ∧
      ((s.chip.cmAt 0).st = .active → exec .handover s = .next (withChip s ((s.chip.lose 0 .handover).callEnd 3 0))) ∧
      ((s.chip.cmAt 0).st ≠ .active → exec .handover s = .next (withChip s (s.chip.callEnd 3 8))) ∧
      (∃ x : Nat, exec .query s = .next (withChip s (s.chip.modFw (fun f => { f with mbox :=
          { last := 5, result := 0, arg0 := f.version, arg1 := x, arg2 := 16384 - s.chip.cm.used } }))) ∧
        ∀ k < 4, bit x k = (s.chip.fpAt k).service ∧ bit x (k + 4) = (s.chip.fpAt k).failed)) ∧
    (∀ code : BitVec 8, code = 0 ∨ 5 < code.toNat →
      exec (.mailboxBadCall code) s = .next (withChip s (s.chip.callEnd code.toNat 9))) ∧
    (∀ u : State, u.chip.live = true → u.chip.fw.mbox.result = 1 → u.retrying = none →
      ∀ p ∈ [(Instr.load crypto, 1), (Instr.attach, 2), (Instr.handover, 3), (Instr.update crypto, 4), (Instr.query, 5)],
        exec p.1 u = .next (withChip u (u.chip.callIgnored p.2)) ∧ (u.chip.callIgnored p.2).fw = u.chip.fw ∧
          (u.chip.callIgnored p.2).log.cfgNext = (u.chip.log.cfgNext + 1) % 2 ^ 32) ∧
    (∀ (c : Chip) (code r : Nat), (c.callEnd code r).fw.mbox = { c.fw.mbox with last := code, result := r } ∧
      (c.callEnd code r).modFw (fun f => { f with mbox := c.fw.mbox }) = c)

/-- The first ready RUN is served: a stale one completes with STALE, one with a free tile takes it (at once where its context is resident
and nothing saved is in the way, otherwise by a switch), and for one that may displace an item the victim stops; a switch that is over
wipes or restores the tile and its item begins (15 R402, R405 to R407, 03 R63). At the entry of a work item X1 holds ARGS, X2 the logical
tile, X3 its generation and every other X register zero; the accumulator, array and vector state registers are at their reset values, the
plane is empty, and memory stands as it was (03 R66). -/
def Obligations.WorkItemsScheduled : Prop :=
  (∀ (s : State) (w : Work) (rest : List Work) (t : Fin 200) (j : Nat) (out d : Chip) (x : Work) (f : VFault), s.chip.live = true → s.calm = true →
    (s.chip.fwRuns = false ∨ s.chip.readyWork = [] → exec .runStart s = .next s) ∧
    (s.chip.fwRuns = true → s.chip.readyWork = w :: rest →
      (s.chip.staleRun w = true → exec .runStart s = .next (withChip s (s.chip.workGone w.key 0x10 (s.chip.genOf w.tile)))) ∧
      (s.chip.staleRun w = false → s.chip.tileFor w = some t.val → s.chip.cm.free = true →
        (w.preempted = true ∨ w.restart = true ∨ (tileOf s t).item = .saved ∨ s.chip.residentOf t.val ≠ w.ctx →
          ∃ c : Chip, exec .runStart s = .next (withChip s c) ∧ c.tile = s.chip.tile ∧ c.tmap = s.chip.tmap ∧
            ∃ x ∈ c.fw.work, x.key = w.key ∧ x.phys = t.val ∧ x.switching = true ∧ x.begun = s.chip.dispatch) ∧
        (w.preempted = false → w.restart = false → (tileOf s t).item ≠ .saved → s.chip.residentOf t.val = w.ctx →
          ∃ (c : Chip) (x : Work), exec .runStart s = .next (withChip s (c.beginItem x)) ∧ c.tile = s.chip.tile ∧ x.key = w.key ∧
            x.phys = t.val ∧ x.switching = false ∧ x ∈ c.fw.work)) ∧
      (∀ x : Work, s.chip.staleRun w = false → s.chip.tileFor w = none → s.chip.victims w = [x] → (s.chip.tileAt x.phys).item = .running →
        exec .runStart s = .next (withChip s (s.chip.haltTile x.phys)))) ∧
    (s.chip.fw.work.find? (fun x => x.phys == t.val && x.switching && (tileOf s t).st == .service) = none → exec (.switchComplete t) s = .next s) ∧
    (s.chip.fw.work.find? (fun x => x.phys == t.val && x.switching && (tileOf s t).st == .service) = some w → j = (s.chip.logicalOf t.val).getD 0 →
      out = s.chip.switchOut t.val j w → x = { w with switching := false, restart := false } →
      (out.switchIn t.val j w = .error f → exec (.switchComplete t) s = .next (withChip s
        ((((out.setTile t.val (out.tileAt t.val).wipe).setResident t.val 64).ctxFaulted w.ctx f).workGone w.key (faultStatus f) f.detail))) ∧
      (out.switchIn t.val j w = .ok d →
        (∀ y : Nat × Nat, w.drop = some y → exec (.switchComplete t) s = .next (withChip s
          (((d.setResident t.val w.ctx).setWork x).workGone w.key y.1 y.2))) ∧
        (w.drop = none → w.preempted = true → ∃ e : Chip, e = (d.setResident t.val w.ctx).setWork x ∧
          exec (.switchComplete t) s = .next (withChip s
            (e.setTile t.val { e.tileAt t.val with item := .saved, work := w.key, ctx := w.ctx }))) ∧
        (w.drop = none → w.preempted = false → exec (.switchComplete t) s = .next (withChip s
          (((d.setResident t.val w.ctx).setWork x).beginItem x)))) ∧
      (s.chip.residentOf t.val = 64 ∨ (w.preempted = true ∧ s.chip.residentOf t.val = w.ctx) → out = s.chip) ∧
      (w.preempted = false → (w.restart = true ∨ tabFind (out.ctxAt w.ctx).saved j ≠ some (out.genOf j)) →
        out.switchIn t.val j w = (out.setTile t.val (out.tileAt t.val).wipe).ftLoad t.val w.ctx true) ∧
      (w.preempted = true ∨ (w.restart = false ∧ tabFind (out.ctxAt w.ctx).saved j = some (out.genOf j)) →
        out.switchIn t.val j w = (out.restore t.val w.ctx (out.slotOf w.ctx j)).bind (fun y => y.ftLoad t.val w.ctx true))) ∧
    (∀ (c d : Chip) (k : Work), k.image = 0 → c.ftLoad k.phys k.ctx false = .ok d →
      (c.beginItem k).tileAt k.phys = (d.tileAt k.phys).enter k.key k.ctx k.entry k.args k.tile k.gen)) ∧
  (∀ (v : Tile) (key ctx entry args j gen r : Nat) (u : Tile), u = v.enter key ctx entry args j gen →
    u.xr 1 = args ∧ u.xr 2 = j ∧ u.xr 3 = gen ∧ (r = 0 ∨ 3 < r → u.xr r = 0) ∧ u.pc = entry ∧ u.ctx = ctx ∧ u.item = .running ∧
    u.mem = v.mem ∧ u.imem = v.imem ∧ u.poison = v.poison ∧ u.acc.col = v.acc.col ∧ u.vec.v = v.vec.v ∧ u.vec.m = v.vec.m ∧
    u.arr = Arr.fresh ∧ u.acc.astatus = 0 ∧ u.acc.abase0 = 0 ∧ u.acc.astride0 = 0 ∧ u.vec.vl = 128 ∧ u.vec.vstatus = 0 ∧
    u.vec.q = [] ∧ u.mover = [] ∧ u.blocked = none ∧ u.pend = none)

/-- A RUN whose deadline comes before it started completes with DROPPED and the deadline; a period's end drops what has not started and
begins the next; a heartbeat that counts on keeps its commander and two failed reads lose it; a watchdog takes its processor out of
service, for good at its third expiry in a second, and FP_REJOIN brings it back (15 R409 to R413, R415, R417, R419). FTIMG_POLL rebuilds
the tables of the tiles that serve a context, one at a time, and does nothing for a context that is FREE or served by no tile; a rebuilt
table stands in the back bank, closed, with its flip requested (15 R401, 06 R175). -/
def Obligations.DispatchTimers : Prop :=
  (∀ (s : State) (r : Fin 1024) (k : Fin 32) (f : Fin 4) (d : Desc) (l : List Desc) (x due w : Nat) (e : Cmdr) (p : Fp), s.chip.live = true →
    e = s.chip.cmAt k.val → p = s.chip.fpAt f.val →
    ((∀ y ∈ s.chip.cm.descs, y.sq = r.val → y.op = 0x10 → y.deadline = none) → exec (.deadlineExpiry r) s = .next s) ∧
    (s.chip.fwRuns = true → l = s.chip.cm.descs.filter (fun y => y.sq == r.val && y.op == 0x10 && y.deadline.isSome &&
        !(s.chip.workOf y.key).any (fun k => k.drop.isSome)) →
      l.find? (fun y => y.deadline == some x) = some d → (∀ y ∈ l, ∀ z, y.deadline = some z → x ≤ z) →
      exec (.deadlineExpiry r) s = .next (withChip s ((s.chip.passTo srcDispatch x).dropDesc d.key 0x11 x))) ∧
    (∀ (c : Chip) (key st y : Nat), (c.workOf key = none → c.dropDesc key st y = c.finish key st y) ∧
      (∀ q : Work, c.workOf key = some q →
        (q.phys = 200 → c.dropDesc key st y = (c.modFw (fun f => { f with work := f.work.filter (fun z => z.key != key) })).finish key st y) ∧
        (q.phys ≠ 200 → q.switching = true → c.dropDesc key st y = c.setWork { q with drop := some (st, y) }) ∧
        (q.phys ≠ 200 → q.switching = false → c.dropDesc key st y = (c.setWork { q with drop := some (st, y) }).haltTile q.phys))) ∧
    (s.chip.sqPeriod r.val = 0 → exec (.periodEnd r) s = .next s) ∧
    (s.chip.sqPeriod r.val ≠ 0 → s.chip.fwRuns = true → due = (s.chip.sqAt r.val).perSince + 1000 * s.chip.sqPeriod r.val → ∃ c : Chip,
      exec (.periodEnd r) s = .next (withChip s (c.pump r.val)) ∧ (c.sqAt r.val).perSince = due ∧ (c.sqAt r.val).perUsed = 0 ∧
      ((∀ y ∈ s.chip.cm.descs, y.sq ≠ r.val) → c.cm.descs = s.chip.cm.descs ∧ c.cm.fin = s.chip.cm.fin)) ∧
    (s.calm = true → (e.st ≠ .active ∨ e.hbAddr = 0 ∨ s.chip.fwRuns = false) → exec (.heartbeatRead k) s = .next s) ∧
    (e.st = .active → e.hbAddr ≠ 0 → s.chip.fwRuns = true → s.calm = true →
      (k.val ≠ 0 → (∀ y ∈ s.chip.cxl.out, y.use ≠ .heartbeat k.val) →
        exec (.heartbeatRead k) s = .next (withChip s (s.chip.cxlAsk k.val e.hbAddr none (.heartbeat k.val)))) ∧
      (k = 0 → s.chip.mem.backedN e.hbAddr 8 = true → s.chip.mem.poisonedN e.hbAddr 8 = false → w = s.chip.mem.readLE e.hbAddr 8 →
        (w % 2 ^ 48 ≠ e.hbCount → exec (.heartbeatRead k) s = .next (withChip s (s.chip.setCm 0 { e with
          hbCount := w % 2 ^ 48, hbLimit := if w / 2 ^ 48 = 0 then 100 else w / 2 ^ 48, hbSince := s.chip.dispatch, hbFails := 0 }))) ∧
        (w % 2 ^ 48 = e.hbCount → w / 2 ^ 48 ≠ 0 → e.hbLimit ≠ 0 → s.chip.dispatch < e.hbSince + w / 2 ^ 48 * 1000000 →
          exec (.heartbeatRead k) s = .next (withChip s (s.chip.setCm 0 { e with hbLimit := w / 2 ^ 48, hbFails := 0 }))) ∧
        (w % 2 ^ 48 = e.hbCount → w / 2 ^ 48 ≠ 0 → e.hbLimit ≠ 0 → e.hbSince + w / 2 ^ 48 * 1000000 ≤ s.chip.dispatch →
          exec (.heartbeatRead k) s = .next (withChip s
            ((s.chip.setCm 0 { e with hbLimit := w / 2 ^ 48, hbFails := 0 }).lose 0 .driverLost)))) ∧
      (k = 0 → s.chip.mem.backedN e.hbAddr 8 = true → s.chip.mem.poisonedN e.hbAddr 8 = true → e.hbFails = 0 →
        exec (.heartbeatRead k) s = .next (withChip s (s.chip.setCm 0 { e with hbFails := 1 }))) ∧
      (k = 0 → s.chip.mem.backedN e.hbAddr 8 = true → s.chip.mem.poisonedN e.hbAddr 8 = true → 1 ≤ e.hbFails →
        exec (.heartbeatRead k) s = .next (withChip s ((s.chip.setCm 0 { e with hbFails := e.hbFails + 1 }).lose 0 .driverLost))) ∧
      (k = 0 → s.chip.mem.backedN e.hbAddr 8 = false → exec (.heartbeatRead k) s = .next (withChip s
        ((s.chip.logUnbacked srcDispatch e.hbAddr).heartbeat 0 none)))) ∧
    (s.chip.fw.running = false ∨ p.service = false → exec (.watchdogExpiry f) s = .next s) ∧
    (s.chip.fw.running = true → p.service = true → ∃ c d : Chip, exec (.watchdogExpiry f) s = .next (withChip s d) ∧
      (c.fpAt f.val).service = false ∧
      (c.fpAt f.val).failed = decide (2 ≤ (p.expiries.filter (fun y => decide (s.chip.dispatch < y + 1000000000))).length) ∧
      bit c.log.gevent 6 = true ∧ c.cm = s.chip.cm ∧ c.tile = s.chip.tile ∧
      (c.nextFp f.val = none → d = c) ∧ (c.nextFp f.val ≠ none → c.fw.journal = [] → d = c.unlatch)) ∧
    (s.chip.fw.running = true → p.service = false → p.failed = false → ∃ c : Chip, exec (.fpRejoin f) s = .next (withChip s c.unlatch) ∧
      (c.fpAt f.val).service = true ∧ (c.fpAt f.val).server = f.val ∧ c.cm = s.chip.cm) ∧
    (s.chip.fw.running = false ∨ p.service = true ∨ p.failed = true → exec (.fpRejoin f) s = .next s)) ∧
  (∀ (s : State) (k : Fin 64) (t : Nat) (d x : Chip) (gens : List Nat) (valid : Nat) (f : VFault) (one : Chip → Nat → Chip), s.chip.live = true → s.calm = true →
    (s.chip.fwRuns = false ∨ k = 0 ∨ (s.chip.ctxAt k.val).st = .free ∨ s.chip.tilesOf k.val = [] → exec (.ftimgPoll k) s = .next s) ∧
    (s.chip.fwRuns = true → k ≠ 0 → (s.chip.ctxAt k.val).st ≠ .free → s.chip.tilesOf k.val ≠ [] → s.chip.ftHeader k.val = .error f →
      exec (.ftimgPoll k) s = .next (withChip s (s.chip.ftFaulted k.val f (s.chip.tilesOf k.val)))) ∧
    (s.chip.fwRuns = true → k ≠ 0 → (s.chip.ctxAt k.val).st ≠ .free → s.chip.tilesOf k.val ≠ [] → s.chip.ftHeader k.val = .ok (d, gens, valid) →
      (∀ c u y, c.ftRebuild u k.val valid gens = .ok y → one c u = y) →
      (∀ c u g, c.ftRebuild u k.val valid gens = .error g → one c u = c.ftFaulted k.val g [u]) →
      exec (.ftimgPoll k) s = .next (withChip s ((s.chip.tilesOf k.val).foldl one d))) ∧
    (s.chip.fwRuns = true → k ≠ 0 → (s.chip.ctxAt k.val).st ≠ .free → s.chip.tilesOf k.val = [t] →
      s.chip.ftHeader k.val = .ok (d, gens, valid) →
      ((∀ i < 4, ((d.tileAt t).vec.table i).gen = ftGen gens valid i) → exec (.ftimgPoll k) s = .next (withChip s d)) ∧
      (d.ftRebuild t k.val valid gens = .ok x → exec (.ftimgPoll k) s = .next (withChip s x))) ∧
    (∀ (c e : Chip) (i : Nat) (m : Memory), (∀ q < 4, ((c.tileAt t).vec.table q).asked = false) → i < 4 →
      ((c.tileAt t).vec.table i).gen ≠ ftGen gens valid i → (∀ q < i, ((c.tileAt t).vec.table q).gen = ftGen gens valid q) →
      c.ftImage k.val valid i = .ok (e, m) → ((e.tileAt t).vec.readsBack i) = false →
      c.ftRebuild t k.val valid gens = .ok (e.setTile t ((e.tileAt t).setTable i
        { (e.tileAt t).vec.table i with back := m, closed := true, asked := true }))))

/-- The domain's manager carries a worker's request inside the commander window into the home and answers it, turns one outside away with
an error, assigns each device its strapped slot once, and lets an upstream write reach the interrupt files alone (16 R421, R422). -/
def Obligations.WorkersRequestsCarried : Prop :=
  ∀ (s : State) (slot : Fin 32) (addr : BitVec 52) (be : BitVec 64) (data : BitVec 512) (a ln : Nat), s.chip.live = true → s.calm = true →
    a = addr.toNat / 64 * 64 → ln = addr.toNat / 64 →
    (s.chip.boot.manager = false → exec (.rdcurr slot addr) s = .next s ∧ exec (.itomwr slot addr data) s = .next s ∧
      exec (.wowrinv slot addr be data) s = .next s) ∧
    (s.chip.boot.manager = true → s.chip.inWindow a = false →
      exec (.rdcurr slot addr) s = .next (withChip s (s.chip.cxhRefuse slot.val a)) ∧
      exec (.itomwr slot addr data) s = .next (withChip s (s.chip.cxhRefuse slot.val a)) ∧
      exec (.wowrinv slot addr be data) s = .next (withChip s (s.chip.cxhRefuse slot.val a)) ∧
      (s.chip.cxhRefuse slot.val a).reply = [1] ∧ (s.chip.log.logEn = false → (s.chip.cxhRefuse slot.val a).mem = s.chip.mem)) ∧
    (s.chip.boot.manager = true → s.chip.inWindow a = true →
      (s.chip.mem.backedN a 64 = true → exec (.rdcurr slot addr) s = .next (withChip s
        (s.chip.answer (0 :: b2n (s.chip.mem.poisonedN a 64) :: (s.chip.mem.readN a 64).map (·.toNat))))) ∧
      (s.chip.writable a 64 = true →
        exec (.itomwr slot addr data) s = .next (withChip s ((s.chip.modMem (fun m => m.putLine ln
          (maskLine (m.line ln).1 ((lineBytes data).zipIdx.map (fun x => (x.2, x.1)))) false)).answer [0])) ∧
        exec (.wowrinv slot addr be data) s = .next (withChip s ((s.chip.modMem (fun m => m.putLine ln
          (maskLine (m.line ln).1 (((lineBytes data).zipIdx.filter (fun x => bit be.toNat x.2)).map (fun x => (x.2, x.1))))
          (!decide (be = BitVec.allOnes 64) && (m.line ln).2))).answer [0]))) ∧
      (s.chip.mem.backedN a 64 = false → exec (.rdcurr slot addr) s = .next (withChip s ((s.chip.logUnbacked srcRoot a).answer [1]))) ∧
      (s.chip.writable a 64 = false →
        exec (.itomwr slot addr data) s = .next (withChip s ((s.chip.logRefused srcRoot a 64).answer [1])) ∧
        exec (.wowrinv slot addr be data) s = .next (withChip s ((s.chip.logRefused srcRoot a 64).answer [1])))) ∧
    (∀ (strap : BitVec 8) (reqid : BitVec 16) (n : Nat), n = strap.toNat % 32 → s.chip.boot.manager = true →
      (n ≠ 0 → tabFind s.chip.cxl.slots n = none → exec (.domainSlotAssign strap reqid) s = .next (withChip s
        (s.chip.modCxl (fun x => { x with slots := tabSet x.slots n { strap := strap.toNat, reqid := reqid.toNat } })))) ∧
      (n = 0 ∨ tabFind s.chip.cxl.slots n ≠ none → exec (.domainSlotAssign strap reqid) s = .next (withChip s
        (s.chip.logEv .domainSlotBad srcRoot [strap.toNat, reqid.toNat])))) ∧
    (∀ (core : Fin 64) (file : Fin 7) (va : BitVec 64) (v : BitVec 32), s.chip.boot.manager = true →
      (va.toNat = 0xFD0000000000 + 0x8000 * core.val + 0x1000 * file.val →
        exec (.upstreamCxlio true va v) s = .next (withChip s ((s.chip.msi core.val file.val v.toNat).answer [0]))) ∧
      (va.toNat < 0xFD0000000000 ∨ 0xFD0000200000 ≤ va.toNat → exec (.upstreamCxlio true va v) s = .next (withChip s (s.chip.answer [1]))) ∧
      exec (.upstreamCxlio false va v) s = .next (withChip s (s.chip.answer [1])))

/-- A field takes the value written inside its range, the nearest limit outside it, the next lower step between steps, and keeps its value
for a code or address that it does not know; the sender that R515 does not let through changes nothing (20 R509, R510, 21 R514, R515).
SETUP_WRITE reaches the register at its address with the width that 21 R514 allows; another width or an address that no table assigns
changes no register and is reported; a read-only field and one without behaviour of its own are judged alike (20 R509, 21 R513, R514). -/
def Obligations.SetupWritesJudged : Prop :=
  ((∀ a b n lo old new : Nat, a ≤ b → 0 < n →
    ((FldKind.num a b).judge lo old new).1 = max a (min b new) ∧ (((FldKind.num a b).judge lo old new).2 = none ↔ a ≤ new ∧ new ≤ b) ∧
    (new < a → ((FldKind.num a b).judge lo old new).2 = some 1) ∧ (b < new → a ≤ new → ((FldKind.num a b).judge lo old new).2 = some 2) ∧
    (a ≤ new → new ≤ b → ((FldKind.step a b n).judge lo old new).1 = new / n * n)) ∧
  (∀ (l : List Nat) (lo old new : Nat), (new ∈ l → (FldKind.codes l).judge lo old new = (new, none)) ∧
    (new ∉ l → (FldKind.codes l).judge lo old new = (old, some 4)) ∧ (FldKind.ro.judge lo old new).1 = old ∧
    (FldKind.rsvd.judge lo old new).1 = 0) ∧
  (∀ (c : Chip) (off : Nat) (a : SetupAcc) (lock : Fld → Nat → Option (Nat × Nat)) (apply : Chip → Nat → Chip) (j : Judged),
    (reachesSetup a.writer.toNat = false → c.regStore off a lock apply = c) ∧
    (reachesSetup a.writer.toNat = true → a.half = none → j = judgeWrite (regFlds off) (c.regRead off % 2 ^ 64) a.value.toNat none lock →
      (j.logs = [] → c.regStore off a lock apply = apply c j.value) ∧
      (∀ l : Nat × Nat × Nat, j.logs = [l] → ∃ w : Nat,
        c.regStore off a lock apply = (apply c j.value).cfgReport (setupBase + off) a.value.toNat w l.1 l.2.1 l.2.2 a.writer.toNat)) ∧
    (reachesSetup a.writer.toNat = true → ∀ (h : Bool) (f : Fld), a.half = some h → (regFlds off).find? (splits (some h)) = some f →
      (∃ (x y w : Nat), c.regStore off a lock apply = c.cfgReport x y w 8 f.lo (f.hi + 1 - f.lo) a.writer.toNat)))) ∧
  (∀ (s : State) (addr : BitVec 52) (bytes : BitVec 8) (value : BitVec 64) (writer : BitVec 32) (off n : Nat), s.chip.live = true → s.calm = true →
    (addr.toNat < 0xF00000000000 ∨ 0xF80000000000 ≤ addr.toNat ∨ reachesSetup writer.toNat = false →
      exec (.setupWrite addr bytes value writer) s = .next s) ∧
    (reachesSetup writer.toNat = true → addr.toNat = 0xF00000000000 + off → off < 0x40000000 →
      (n = bytes.toNat → n ≠ 4 → n ≠ 8 → ∃ c : Chip, exec (.setupWrite addr bytes value writer) s = .next (withChip s c) ∧
        c.regs = s.chip.regs ∧ c.tile = s.chip.tile ∧ c.log.cfgNext = (s.chip.log.cfgNext + 1) % 2 ^ 32) ∧
      (bytes = 8 → off % 8 = 0 → unassigned off = true → ∃ c : Chip, exec (.setupWrite addr bytes value writer) s = .next (withChip s c) ∧
        c.regs = s.chip.regs ∧ c.tile = s.chip.tile ∧ c.log.cfgNext = (s.chip.log.cfgNext + 1) % 2 ^ 32) ∧
      (bytes = 8 → off % 8 = 0 → unassigned off = false → exec (.setupWrite addr bytes value writer) s =
        .next (withChip s (s.chip.regAnyWrite off { value := value, half := none, writer := writer }))) ∧
      (off = 0x400008 → bytes = 8 → 800 ≤ value.toNat → value.toNat ≤ 3000 → value.toNat % 100 = 0 →
        exec (.setupWrite addr bytes value writer) s = .next (withChip s (s.chip.setReg 0x400008 value.toNat))) ∧
      (off = 0x400008 → bytes = 8 → value.toNat < 800 → ∃ c : Chip,
        exec (.setupWrite addr bytes value writer) s = .next (withChip s (c.cfgReport addr.toNat value.toNat 800 1 0 12 writer.toNat)) ∧
        c = s.chip.setReg 0x400008 800)))

/-- GEVENT AND GEVENT_EN leaving zero sends one MSI, IDENTITY to the machine file of CORE, and so does every write of either register that
leaves it non-zero; a write of GEVENT clears the flags written as 1 and no other, and a setting counts (21 R519, R520, 00 R10). -/
def Obligations.EventFlagsInterrupt : Prop :=
  (∀ (s : State) (a : SetupAcc) (v : Nat), s.chip.live = true → reachesSetup a.writer.toNat = true → a.half ≠ some true → v = accValue 0 a →
    s.chip.log.gevent < 1024 → s.chip.log.geventEn < 1024 →
    (∃ c d e : Chip, d = (if c.log.live = 0 then c else c.msi c.log.gintCore 0 c.log.gintId) ∧ exec (.gevent a) s = .next (withChip s e) ∧
      (v < 1024 → e = d) ∧ (1024 ≤ v → ∃ x y w : Nat, e = d.cfgReport x y w 6 10 54 a.writer.toNat) ∧
      (∀ i < 10, bit c.log.gevent i = (bit s.chip.log.gevent i && !bit v i)) ∧ c.log.geventEn = s.chip.log.geventEn ∧
      c.regs = s.chip.regs ∧ c.log.gevcnt = s.chip.log.gevcnt ∧ c.irq = s.chip.irq) ∧
    (∃ c d e : Chip, d = (if c.log.live = 0 then c else c.msi c.log.gintCore 0 c.log.gintId) ∧ exec (.geventEn a) s = .next (withChip s e) ∧
      (v < 1024 → e = d) ∧ (1024 ≤ v → ∃ x y w : Nat, e = d.cfgReport x y w 6 10 54 a.writer.toNat) ∧
      c.log.geventEn = v % 1024 ∧ c.log.gevent = s.chip.log.gevent ∧ c.regs = s.chip.regs ∧ c.irq = s.chip.irq)) ∧
  (∀ (c : Chip) (i : Nat), i < 10 → ∃ d : Chip, bit d.log.gevent i = true ∧
    tabGet 0 d.log.gevcnt i = (tabGet 0 c.log.gevcnt i + 1) % 2 ^ 32 ∧ (∀ k < 10, k ≠ i → bit d.log.gevent k = bit c.log.gevent k) ∧
    d.log.geventEn = c.log.geventEn ∧ d.irq = c.irq ∧
    (c.log.live = 0 → d.log.live ≠ 0 → c.setGevent i = d.msi c.log.gintCore 0 c.log.gintId) ∧
    (c.log.live ≠ 0 ∨ d.log.live = 0 → c.setGevent i = d))

/-- Rings, ports, HAUL_UDP and periods: a new base or size starts a ring at zero, LOG_HEAD moves between its value and the tail, a mode
and the UDP port change only while their sub-ports are down, and a period begins anew (13 R331, 15 R410, 21 R525, R530, R532). The power
registers: the envelope takes a legal value as written and rounds and clamps any other; a tile group, a core and a tier take the state
written; a disabled sub-port goes down; a cap request waits under its identifier for its one answer (18 R461 to R465, R474, R475). -/
def Obligations.RegisterWritesAct : Prop :=
  (∀ (s : State) (a : SetupAcc) (v : Nat) (sq : Fin 1024), s.chip.live = true → wholeWrite a v →
    (v % 4096 = 0 → v < 2 ^ 42 → exec (.teleBase a) s = .next (withChip s ((s.chip.setReg 0x500000 v).modPow (fun p => { p with teleSeq := 0 })))) ∧
    (v % 4096 = 0 → v < 2 ^ 42 → exec (.logBase false a) s = .next (withChip s (s.chip.modLog (fun l =>
      { l with logBase := v, tail := 0, head := 0 })))) ∧
    (8 ≤ v % 2 ^ 63 → v % 2 ^ 63 ≤ 16 → exec (.logBase true a) s = .next (withChip s (s.chip.modLog (fun l =>
      { l with logEn := bit v 63, logLog2 := v % 32, tail := 0, head := 0 })))) ∧
    (v < 2 ^ 32 → sub32 v s.chip.log.head ≤ sub32 s.chip.log.tail s.chip.log.head →
      exec (.logHead a) s = .next (withChip s (s.chip.modLog (fun l => { l with head := v })))) ∧
    (codesOk v 8 → (∀ k < 32, (s.chip.portAt k).up = false) → exec (.mode a) s = .next (withChip s (s.chip.setReg 0xA00010 v))) ∧
    (codesOk v 8 → (∀ k < 32, (s.chip.portAt k).up = true) → ∃ c : Chip, exec (.mode a) s = .next (withChip s c) ∧
      (∀ p < 8, c.rf 0xA00010 (2 * p + 1) (2 * p) = s.chip.rf 0xA00010 (2 * p + 1) (2 * p))) ∧
    (1024 ≤ v → v < 65536 → v ≠ 4791 → (∀ k < 32, (s.chip.portAt k).up = false) →
      exec (.haulUdp a) s = .next (withChip s (s.chip.setReg 0xA00000 v))) ∧
    (v = 4791 → s.chip.haulUdp ≠ 4791 → ∃ c : Chip, exec (.haulUdp a) s = .next (withChip s c) ∧ c.haulUdp = s.chip.haulUdp ∧
      c.log.cfgNext = (s.chip.log.cfgNext + 1) % 2 ^ 32) ∧
    (∀ p items : Nat, v = items * 2 ^ 32 + p → 1 ≤ items → items ≤ 255 → (p = 0 ∨ 10 ≤ p ∧ p ≤ 10000000) → s.chip.sqPeriod sq.val = 0 →
      ∃ c : Chip, exec (.period sq a) s = .next (withChip s (c.pump sq.val)) ∧ c.sqPeriod sq.val = p ∧ c.sqItems sq.val = items ∧
        (c.sqAt sq.val).perSince = s.chip.dispatch ∧ (c.sqAt sq.val).perUsed = 0 ∧ c.cm.descs = s.chip.cm.descs)) ∧
  (∀ (s : State) (a : SetupAcc) (v : Nat), s.chip.live = true → wholeWrite a v →
    (1000 ≤ v → v ≤ 3000 → v % 5 = 0 → exec (.envelopeW a) s = .next (withChip s (s.chip.setReg 0x400000 v))) ∧
    (v < 65536 → v < 1000 ∨ 3000 < v ∨ v % 5 ≠ 0 → ∃ c : Chip, exec (.envelopeW a) s = .next (withChip s c) ∧
      c.rf 0x400000 15 0 = clampW v ∧ c.log.cfgNext = (s.chip.log.cfgNext + 1) % 2 ^ 32 ∧ c.pow = s.chip.pow) ∧
    (codesOk v 20 → exec (.tileGroup a) s = .next (withChip s (s.chip.setReg 0x400060 v).groupsApply)) ∧
    (exec (.coreOff a) s = .next (withChip s ((List.range 64).foldl (fun c k => c.corePower k (bit v k)) (s.chip.setReg 0x400068 v)))) ∧
    (v < 2 ^ 13 → exec (.hbmSr a) s = .next (withChip s (s.chip.setReg 0x400070 v).serveAll) ∧
      exec (.ddrSr a) s = .next (withChip s (s.chip.setReg 0x400070 v).serveAll)) ∧
    (v < 2 ^ 32 → s.calm = true → exec (.subportDis a) s = .next (withChip s ((List.range 32).foldl (fun c k =>
      if bit v k then c.portFails k .portDisabled else c) (s.chip.setReg 0x400078 v)))) ∧
    (∀ w : BitVec 32, s.chip.boot.aon = true → exec (.facCapReq w) s = .next (withChip s ((s.chip.modPow (fun p =>
      { p with capW := clampW w.toNat, capId := (p.capId + 1) % 65536, capAnswer := 0 })).setGevent 0))) ∧
    (v < 2 ^ 17 → v % 65536 = s.chip.pow.capId → exec (.facCapAck a) s = .next (withChip s (s.chip.modPow (fun p =>
      { p with capAnswer := if 65536 ≤ v then 1 else 2 })))) ∧
    (v < 2 ^ 17 → v % 65536 ≠ s.chip.pow.capId → ∃ c : Chip, exec (.facCapAck a) s = .next (withChip s c) ∧ c.pow = s.chip.pow ∧
      c.log.cfgNext = (s.chip.log.cfgNext + 1) % 2 ^ 32) ∧
    (∀ (c : Chip) (k : Fin 64), c.coreSt k.val = .active → (c.corePower k.val true).coreSt k.val = .off ∧
      (∀ f < 8, (c.corePower k.val true).pendingIds k.val f = []) ∧
      ((c.corePower k.val true).island (srcCore k.val)).on = false))

/-- A control period puts the next grants and the envelope in force unless it is late, adds the energies, and lowers above the envelope
and raises below 95 % of it; droops stretch clocks until their rail recovers, a trip is fatal, THERM_ALERT_N tells any hot die, a
telemetry period moves its ring, and recalibration and wear levelling change nothing (18 R465 to R471, R476, R480, 22 R540). Actuators are
lowered in one order, tile clock first, then core ceiling, ledge clock and pause, each only once the one before it is at its limit, and
raised in the reverse order; a raise undoes what a lowering did (18 R466). -/
def Obligations.PowerEvents : Prop :=
  (∀ (s : State) (watts mj : List Nat) (late : Bool) (rail : Fin 32) (isl : List (BitVec 16)) (b : Bool) (die : Fin 6)
    (temps : List (BitVec 8)) (fec : List Nat) (lt : List (BitVec 16)) (l : Fin 13) (g : Fin 5), s.chip.live = true →
    (∃ c : Chip, exec (.controlPeriod watts mj late) s = .next (withChip s c) ∧
      c.pow.now = (if late then s.chip.pow.now else s.chip.pow.next) ∧ c.pow.dropped = s.chip.pow.dropped + b2n late ∧
      c.pow.pkg = watts.headD 0 ∧ c.pow.env = c.rf 0x400000 15 0 ∧ c.regs = s.chip.regs ∧ s.chip.clk.now ≤ c.clk.now ∧
      (∀ i < 8, c.pow.energy.getD i 0 = (s.chip.pow.energy.getD i 0 + mj.getD i 0) % 2 ^ 64) ∧
      (10 * c.pow.env < c.pow.pkg → (c.pow.now.lower (c.rf 0x400008 11 0)).isSome →
        ∃ n, 0 < n ∧ c.pow.next = (c.pow.now.lowerBy (c.rf 0x400008 11 0) n).above (c.rf 0x400008 11 0)) ∧
      (c.pow.pkg * 100 < c.pow.env * 950 → c.pow.next = c.pow.now.raise.above (c.rf 0x400008 11 0)) ∧
      (c.pow.env * 950 ≤ c.pow.pkg * 100 → c.pow.pkg ≤ 10 * c.pow.env → c.pow.next = c.pow.now.above (c.rf 0x400008 11 0)) ∧
      c.rf 0x400008 11 0 ≤ c.pow.next.core) ∧
    (∃ c : Chip, exec (.supplyDroop rail isl) s = .next (withChip s c) ∧ c.pow.now = s.chip.pow.now ∧ c.pow.droops = s.chip.pow.droops + 1 ∧
      c.clk.now = s.chip.clk.now ∧ (∀ i ∈ isl, steady i.toNat = false → (c.island i.toNat).stretched = true) ∧
      (∀ k, (∀ i ∈ isl, i.toNat ≠ k) → c.island k = s.chip.island k)) ∧
    (∃ c : Chip, exec (.railRecovery rail) s = .next (withChip s c) ∧ tabFind c.pow.drooping rail.val = none ∧
      (∀ k ∈ tabGet [] s.chip.pow.drooping rail.val, (∀ p ∈ s.chip.pow.drooping, p.1 ≠ rail.val → k ∉ p.2) →
        (c.island k).stretched = false)) ∧
    (s.chip.boot.aon = true → s.chip.boot.en ≠ 0 → ∃ c : Chip, exec (.protectTrip b rail) s = .next (withChip s c) ∧ c.boot.safe = true ∧
      c.boot.en = 0 ∧ c.boot.tripOut = true ∧ c.boot.report.code = 0x12 ∧ c.boot.report.detail = rail.val) ∧
    (exec (.thermAlert die true) s = .next (withChip s (s.chip.modBoot (fun q =>
      { q with thermDies := setIns q.thermDies die.val, thermAlert := true })))) ∧
    (s.chip.boot.thermDies = [die.val] → exec (.thermAlert die false) s = .next (withChip s (s.chip.modBoot (fun q =>
      { q with thermDies := [], thermAlert := false })))) ∧
    (∃ c : Chip, exec (.telemetryPeriod temps fec lt) s = .next (withChip s c) ∧ c.log.period = (s.chip.log.period + 1) % 2 ^ 32 ∧
      c.pow.droops = 0 ∧ c.pow.sums = 0 ∧ c.pow.teleBase = c.rf 0x500000 41 12 * 4096 ∧ c.pow.telePeriod = c.rf 0x500008 25 16 ∧
      c.pow.now = s.chip.pow.now ∧ c.tile = s.chip.tile ∧
      ((s.chip.rf 0x500008 63 63 = 0 ∨ s.chip.pow.teleBase = 0) → c.mem = s.chip.mem ∧ c.pow.teleSeq = s.chip.pow.teleSeq)) ∧
    exec (.groupRecalibration l g) s = .next s ∧ exec .flashWearLevel s = .next s) ∧
  (∀ (g x : Grants) (floor : Nat), g.lower floor = some x →
    (400 < g.tile → x = { g with tile := g.tile - 25 }) ∧
    (g.tile ≤ 400 → floor < g.core → x = { g with core := g.core - 100 }) ∧
    (g.tile ≤ 400 → g.core ≤ floor → 625 < g.ledge → x = { g with ledge := g.ledge - 25 }) ∧
    (g.tile ≤ 400 → g.core ≤ floor → g.ledge ≤ 625 → g.pause < 90 ∧ x = { g with pause := g.pause + 10 }) ∧
    (x.pause ≠ g.pause → x.tile = g.tile ∧ x.core = g.core ∧ x.ledge = g.ledge ∧ g.tile ≤ 400 ∧ g.core ≤ floor ∧ g.ledge ≤ 625) ∧
    (g.tile ≤ 1600 → g.core ≤ 3000 → 100 ≤ g.core → g.ledge ≤ 1250 → (g.pause = 0 ∨ g.tile ≤ 400 ∧ g.core ≤ floor ∧ g.ledge ≤ 625) →
      (g.ledge = 1250 ∨ g.tile ≤ 400 ∧ g.core ≤ floor) → (g.core = 3000 ∨ g.tile ≤ 400) → x.raise = g) ∧
    (Grants.top.lower floor = some { Grants.top with tile := 1575 }))

/-- A fenced tile sends nothing more and is listed; its index moves to the lowest spare of its die with the generation raised, or becomes
ABSENT; its item restarts from its instruction image there, or ends with TILE_HW_FAULT once it has sent something (17 R444 to R449). A
fenced tile is repaired one at a time: TILE_REPAIR starts its test, a pass makes it a spare again and takes it off the list, a failure
leaves it FENCED; a tile that has taken an index comes to SERVICE zero-filled (17 R445, R450). -/
def Obligations.FencedTilesReplacedAndRepaired : Prop :=
  (∀ (s : State) (t : Fin 200) (unit : BitVec 8) (n : BitVec 32) (j : Nat) (w : Work) (c0 d : Chip) (tv : Nat), s.chip.live = true →
    c0 = s.chip.endNow t.val →
    (n.toNat ≤ 64 ∨ s.chip.fwRuns = false ∨ (tileOf s t).st = .fenced → exec (.tileEccFence t n) s = .next s) ∧
    (64 < n.toNat → s.chip.fwRuns = true → (tileOf s t).st ≠ .fenced → exec (.tileEccFence t n) s =
      .next { s with chip := (c0.fence s.sec t.val).1, sec := (c0.fence s.sec t.val).2 }) ∧
    ((c0.tileAt t.val).st = .fenced → exec (.tileHwFault t unit) s = .next (withChip s c0)) ∧
    ((c0.tileAt t.val).st ≠ .fenced → (c0.tileAt t.val).item = .ended (0x40 + exHwFault) →
      exec (.tileHwFault t unit) s = .next { s with chip := (c0.fence s.sec t.val).1, sec := (c0.fence s.sec t.val).2 }) ∧
    ((c0.tileAt t.val).st ≠ .fenced → (c0.tileAt t.val).item ≠ .ended (0x40 + exHwFault) →
      (∀ x, (c0.tileAt t.val).pend = some (exHwFault, x) → tv = x) →
      ((∀ x, (c0.tileAt t.val).pend ≠ some (exHwFault, x)) → tv = unit.toNat) → d = c0.takeExc t.val exHwFault tv →
      exec (.tileHwFault t unit) s = .next { s with chip := (d.fence s.sec t.val).1, sec := (d.fence s.sec t.val).2 }) ∧
    ((∀ y z, (tileOf s t).item ≠ .ending y z) → c0 = s.chip) ∧
    (s.chip.logicalOf t.val = none → (tileOf s t).st ≠ .fenced → ∃ c : Chip, c = (s.chip.fence s.sec t.val).1 ∧
      (c.tileAt t.val).st = .fenced ∧ (c.tileAt t.val).spare = false ∧ c.tmap.phys = s.chip.tmap.phys ∧ c.tmap.gen = s.chip.tmap.gen ∧
      c.fw.work = s.chip.fw.work ∧ t.val ∈ (s.chip.fence s.sec t.val).2.fenceList) ∧
    (s.chip.logicalOf t.val = some j → (tileOf s t).st ≠ .fenced →
    (s.chip.fw.work = [] → ∀ (sp : Nat) (rest : List Nat), s.chip.sparesOf (t.val / 50) = sp :: rest → ∃ c : Chip,
      c = (s.chip.fence s.sec t.val).1 ∧ (c.tileAt t.val).st = .fenced ∧ (c.tileAt t.val).item = .none ∧ (c.tileAt t.val).listed = true ∧
      (c.tileAt t.val).mover = [] ∧ (c.tileAt t.val).tcause = (tileOf s t).tcause ∧ (c.tileAt t.val).tval = (tileOf s t).tval ∧
      c.physOf j = sp ∧ c.genOf j = (s.chip.genOf j + 1) % 2 ^ 32 ∧ (∀ i, i ≠ j → c.physOf i = s.chip.physOf i ∧ c.genOf i = s.chip.genOf i) ∧
      t.val ∈ (s.chip.fence s.sec t.val).2.fenceList ∧ c.log = s.chip.log ∧ c.cm = s.chip.cm) ∧
    (s.chip.fw.work = [] → s.chip.sparesOf (t.val / 50) = [] → ∃ c : Chip, c = (s.chip.fence s.sec t.val).1 ∧ c.physOf j = 200 ∧
      (∀ i, i ≠ j → c.physOf i = s.chip.physOf i) ∧ bit c.log.gevent 5 = true ∧ t.val ∈ (s.chip.fence s.sec t.val).2.fenceList) ∧
    (∀ (sp : Nat) (rest : List Nat), s.chip.sparesOf (t.val / 50) = sp :: rest → s.chip.fw.work = [w] → w.phys = t.val → w.drop = none →
      w.preempted = false → w.switching = false →
      ((tileOf s t).sent = false → w.image ≠ 0 → (s.chip.fence s.sec t.val).1.fw.work = [{ w with
        preempted := false, restart := true, sent := false, phys := sp, tile := j, gen := (s.chip.genOf j + 1) % 2 ^ 32, switching := true }]) ∧
      ((tileOf s t).sent = true → (s.chip.fence s.sec t.val).1.fw.work = [])))) ∧
  (∀ (s : State) (a : SetupAcc) (t : Fin 200), s.chip.live = true → wholeWrite a t.val →
    ((tileOf s t).st = .fenced → s.chip.res.repair = none → exec (.tileRepair a) s = .next (withChip s
      ((s.chip.setTile t.val { tileOf s t with st := .maintenance }).modRes (fun r => { r with repair := some t.val })))) ∧
    ((tileOf s t).st ≠ .fenced ∨ s.chip.res.repair ≠ none → ∃ c : Chip, exec (.tileRepair a) s = .next (withChip s c) ∧
      c.tile = s.chip.tile ∧ c.res = s.chip.res ∧ c.log.cfgNext = (s.chip.log.cfgNext + 1) % 2 ^ 32) ∧
    (∀ pass : Bool, s.chip.res.repair = none → exec (.repairDone pass) s = .next s) ∧
    (s.chip.res.repair = some t.val →
      (∃ (c : Chip), exec (.repairDone false) s = .next (withChip s c) ∧ (c.tileAt t.val).st = .fenced ∧ c.res.repair = none ∧
        c.tmap = s.chip.tmap) ∧
      ((tileOf s t).fences < 3 → (∀ i, i / 48 = t.val / 50 → s.chip.physOf i ≠ 200) → s.chip.groupCmd t.val = 0 →
        ∃ (c : Chip) (k : Secure), exec (.repairDone true) s = .next { s with chip := c, sec := k } ∧ (c.tileAt t.val).st = .maintenance ∧
          (c.tileAt t.val).spare = true ∧ (c.tileAt t.val).listed = false ∧ c.tmap = s.chip.tmap ∧ c.res.repair = none ∧
          k.fenceList = s.sec.fenceList.filter (· != t.val)) ∧
      (∀ j : Nat, (tileOf s t).fences < 3 → j / 48 = t.val / 50 → s.chip.physOf j = 200 →
        (∀ i, i / 48 = t.val / 50 → i < j → s.chip.physOf i ≠ 200) → s.chip.groupCmd t.val = 0 →
        ∃ (c : Chip) (k : Secure), exec (.repairDone true) s = .next { s with chip := c, sec := k } ∧ (c.tileAt t.val).st = .service ∧
          c.physOf j = t.val ∧ c.genOf j = (s.chip.genOf j + 1) % 2 ^ 32 ∧ c.res.repair = none)) ∧
    ((tileOf s t).st = .maintenance → (s.chip.logicalOf t.val).isSome → s.chip.res.repair ≠ some t.val → (tileOf s t).powered = true →
      s.calm = true → ∃ c : Chip, c = (s.chip.setTile t.val { (tileOf s t).wipe with st := .service, sent := false }).modTmap (fun m =>
          { m with resident := tabDel m.resident t.val }) ∧
        exec (.workItemRestart t) s = .next (withChip s (c.doSwitchComplete t.val)) ∧
        ((∀ w ∈ s.chip.fw.work, w.phys = t.val → w.switching = false) → c.doSwitchComplete t.val = c)) ∧
    ((tileOf s t).st ≠ .maintenance → s.calm = true → exec (.workItemRestart t) s = .next s))

/-- PAIR takes an OPEN connection of the named context and tells a correlated feed, UNPAIR ends the pairing; each health evaluation sums
the five points of Table 17.3 up to 7 and reports a change (17 R451, R452, R454). Snapshots by their identifier: a due one takes the next
SNAP_ID, an answer for the latest releases its holds and dates its layers, any other answer changes nothing, an expired hold is released,
and an abandoned one is no longer outstanding (17 R456, R457). CKPT_ADDR of a canonical address starts a comparison, and is ignored while
one runs; CKPT_DONE ends it: RUN_EPOCH becomes the block's epoch and the event flag is set; a version word whose count or whose epoch
differs gets TORN (17 R460). -/
def Obligations.PairingHealthAndSnapshots : Prop :=
  (∀ (s : State) (a : SetupAcc) (v other temp : Nat), s.chip.live = true →
    (wholeWrite a v → bit v 0 = true → bits v 31 16 < 16384 → 1 ≤ bits v 15 8 → bits v 15 8 ≤ 63 →
      ((s.chip.connAt (bits v 31 16)).st = .open_ → (s.chip.connAt (bits v 31 16)).ctx = bits v 15 8 → ∃ c : Chip,
        exec (.pair a) s = .next (withChip s c) ∧ c.res.pair = (if bits v 37 32 = s.chip.boot.feedId then 2 else 1) ∧
        c.res.stale = true ∧ c.rf 0x600000 31 16 = bits v 31 16 ∧ c.rf 0x600000 15 8 = bits v 15 8 ∧ c.rf 0x600000 0 0 = 1 ∧
        c.fab = s.chip.fab) ∧
      ((s.chip.connAt (bits v 31 16)).st ≠ .open_ → ∃ c : Chip, exec (.pair a) s = .next (withChip s c) ∧ c.res = s.chip.res ∧
        c.rf 0x600000 0 0 = s.chip.rf 0x600000 0 0)) ∧
    (wholeWrite a v → bit v 0 = false → exec (.pair a) s = .next s ∧ ∃ c : Chip, exec (.unpair a) s = .next (withChip s c) ∧
      c.res = { s.chip.res with pair := 0 } ∧ c.rf 0x600000 0 0 = 0 ∧ c.fab = s.chip.fab) ∧
    (s.calm = true → ∃ c : Chip, exec (.healthEval other temp) s = .next (withChip s c) ∧ c.res.points.length = 5 ∧ c.res.risk = min 7 c.res.points.sum ∧
      c.res.points.getD 1 0 = (if temp ≤ 85 then 0 else if temp < 95 then 1 else 2) ∧
      c.res.points.getD 4 0 = (if s.chip.res.stale then 2 else 0) + (if s.chip.res.pair = 2 then s.chip.rf 0x600000 50 48 else 0) ∧
      (s.chip.res.flashFrom = none → c.res.points.getD 3 0 = 3) ∧
      (s.chip.res.ceAt = [] → c.res.points.getD 0 0 = (if other < 1000 then 0 else if other < 100000 then 1 else 2)) ∧
      (s.chip.res.droopAt = [] → c.res.points.getD 2 0 = 0) ∧ c.res.pair = s.chip.res.pair ∧ c.regs = s.chip.regs)) ∧
  (∀ (s : State) (a : SetupAcc) (v : Nat) (x : Snap) (c : Chip), s.chip.live = true → s.calm = true →
    (s.chip.rf 0x600008 1 0 ≠ 2 → exec .snapIntervalDue s = .next s) ∧
    (s.chip.rf 0x600008 1 0 = 2 →
      c = s.chip.passTo srcPower (s.chip.res.lastDue.getD 0 + s.chip.rf 0x600010 63 32 * 100000000) →
      (c.snapMay (c.count srcPower) = true → exec .snapIntervalDue s = .next (withChip s (c.snapDue 2)) ∧ (s.chip.res.snap = some x → x.out = false)) ∧
      (c.snapMay (c.count srcPower) = false → exec .snapIntervalDue s = .next s)) ∧
    (∀ (d : Chip) (trig : Nat), d.rf 0x600008 22 16 = 0 → (d.snapDue trig).res.lastId = (d.res.lastId + 1) % 2 ^ 32 ∧
      (d.snapDue trig).res.lastDue = some (d.count srcPower)) ∧
    ((∀ y, s.chip.res.snap = some y → y.phase ≠ 1) → exec .snapHoldRetry s = .next s) ∧
    (s.chip.res.snap = some x → x.phase = 1 → exec .snapHoldRetry s = .next (withChip s
      ((s.chip.passTo srcDispatch x.retryAt).setSnap { x with phase := 0 }).snapTry)) ∧
    (wholeWrite a v → v < 2 ^ 34 → s.chip.res.snap = some x → v % 2 ^ 32 = x.id → 2 ≤ x.phase → ∃ c : Chip,
      exec (.snapDone a) s = .next (withChip s c) ∧
      c.res.snap = some { x with holds := [], phase := 3, out := x.out && !bit v 32 && !bit v 33 } ∧
      c.res.flashFrom = (if bit v 32 then some x.counter else s.chip.res.flashFrom) ∧
      c.res.storeFrom = (if bit v 33 then some x.counter else s.chip.res.storeFrom)) ∧
    (wholeWrite a v → v < 2 ^ 34 → (∀ y, s.chip.res.snap = some y → v % 2 ^ 32 ≠ y.id) → ∃ c : Chip,
      exec (.snapDone a) s = .next (withChip s c) ∧ c.res = s.chip.res ∧ c.log.cfgNext = (s.chip.log.cfgNext + 1) % 2 ^ 32) ∧
    (s.chip.res.snap = some x → x.phase = 2 → ∃ c : Chip, exec .snapHoldExpired s = .next (withChip s c) ∧
      c.res.snap = some { x with holds := [], phase := 3 }) ∧
    ((∀ y, s.chip.res.snap = some y → y.phase ≠ 2) → exec .snapHoldExpired s = .next s) ∧
    (s.chip.res.snap = some x → x.out = true → ∃ c : Chip, exec .snapAbandoned s = .next (withChip s c) ∧
      c.res.snap = some { x with out := false }) ∧
    ((∀ y, s.chip.res.snap = some y → y.out = false) → exec .snapAbandoned s = .next s)) ∧
  (∀ (s : State) (a : SetupAcc) (v : Nat) (sp : Span) (b : List Byte) (one : Chip → Option (Nat × Bool) × Nat → Chip), s.chip.live = true →
    (wholeWrite a v → canonicalVa v = true → v % 8 = 0 → s.chip.res.ckpt = false →
      exec (.ckptAddr a) s = .next (withChip s ((s.chip.setReg 0x600050 v).modRes (fun r => { r with ckpt := true })))) ∧
    (wholeWrite a v → s.chip.res.ckpt = true → ∃ c : Chip, exec (.ckptAddr a) s = .next (withChip s c) ∧ c.res = s.chip.res ∧
      c.regs = s.chip.regs) ∧
    (s.calm = true → s.chip.res.ckpt = false → exec .ckptDone s = .next s) ∧
    (s.calm = true → s.chip.res.ckpt = true →
      sp = s.chip.spanLines [] s.chip.snapCtx (s.chip.rf 0x600050 63 3 * 8) (8 + 8 * s.chip.snapEntries.length) false →
      (sp.fault.isSome = true → exec .ckptDone s = .next (withChip s
        (((s.chip.modRes (fun r => { r with ckpt := false })).used [] srcDispatch sp).setGevent 9))) ∧
      (sp.fault = none → b = (s.chip.mem.gather sp).1 →
        (∀ c va p e, one c (some (va, p), e) = c.ckptEntry e va (fieldLE b (8 + 8 * e) 8) (decide (fieldLE b 0 2 = s.chip.res.epoch))) →
        (∀ c e, one c (none, e) = c) → exec .ckptDone s = .next (withChip s
          (((s.chip.snapEntries.zipIdx.foldl one (s.chip.modRes (fun r => { r with ckpt := false }))).modRes (fun r =>
            { r with epoch := fieldLE b 0 2 })).setGevent 9)))) ∧
    (∀ (c : Chip) (e va want pa ver h : Nat) (same : Bool), c.versionAt [] c.snapCtx va = .ok (pa, ver, h) →
      (same = true → ver % 2 ^ 62 = want % 2 ^ 62 → c.quiet = true → c.ckptEntry e va want same = c) ∧
      (same = false ∨ ver % 2 ^ 62 ≠ want % 2 ^ 62 → c.ckptEntry e va want same =
        (c.storeHint pa (leBytes 8 (ver ||| 2 ^ 62)) false 0).logEv .shardStale srcDispatch [e])))

/-- A link delivers flits in order and once: one in turn advances the receiver, an early one waits, a late one changes nothing, a bad one
is asked for again; a failing lane takes a spare while its group is down, and a link that loses its last group is fatal; traffic between
two dies keeps to one route (01 R16 to R20). A capture request names 1 to 8 islands; one is under way and at most 16 wait behind it; a
further one writes a CAPTURE_BUSY record, or ends its descriptor so; the one under way is carried out and its record written (01 R30 to
R32). -/
def Obligations.LinksAndCaptures : Prop :=
  (∀ (s : State) (l : Fin 13) (rev : Bool) (g : Fin 5) (seq : Nat) (lane : Fin 66) (rx : LinkRx) (x : LinkGrp), s.chip.live = true →
    rx = tabGet LinkRx.fresh s.chip.links.rx (linkDir l.val rev) → x = s.chip.linkGrp l.val rev g.val →
    (s.chip.groupIn l.val g.val = false ∨ x.down = true → exec (.flitReceive l rev g seq false none) s = .next s) ∧
    (s.chip.groupIn l.val g.val = true → x.down = false →
      exec (.flitReceive l rev g seq true none) s = .next (withChip s (s.chip.modLinks (fun k =>
        { k with rx := tabSet k.rx (linkDir l.val rev) { rx with retry := setIns rx.retry seq } }))) ∧
      exec (.flitReceive l rev g seq false none) s = .next (withChip s (s.chip.modLinks (fun k =>
        { k with rx := tabSet k.rx (linkDir l.val rev) (rx.take seq) })))) ∧
    (seq < rx.next → (rx.take seq).next = rx.next ∧ (rx.take seq).early = rx.early) ∧
    (rx.next < seq → (rx.take seq).next = rx.next ∧ seq ∈ (rx.take seq).early) ∧
    (rx.next ≤ (rx.take seq).next ∧ (∀ n, rx.next ≤ n → n < (rx.take seq).next → n = seq ∨ n ∈ rx.early) ∧
      (seq = rx.next → (rx.take seq).next ∉ rx.early ∧ rx.next < (rx.take seq).next)) ∧
    (s.chip.groupIn l.val g.val = true → x.carries lane.val = true → laneFailing (tabGet [] x.errs lane.val) = true →
      (∀ sp, x.spare = some sp → (sp = 64 ∨ sp = 65) ∧ exec (.laneRepair l rev g lane) s = .next (withChip s
        (s.chip.setLinkGrp l.val rev g.val { x with down := true, spares := x.spares ++ [(lane.val, sp)]
                                                    repairing := setIns x.repairing lane.val, errs := tabDel x.errs lane.val }))) ∧
      (x.spare = none → ∃ c : Chip, exec (.laneRepair l rev g lane) s = .next (withChip s c) ∧ c.groupIn l.val g.val = false ∧
        ((∃ i < linkGroups l.val, i ≠ g.val ∧ s.chip.groupIn l.val i = true) → c.boot = s.chip.boot) ∧
        ((∀ i < linkGroups l.val, i ≠ g.val → s.chip.groupIn l.val i = false) → c.boot.safe = true ∧ c.boot.report.code = 0x10))) ∧
    (laneFailing (tabGet [] x.errs lane.val) = false ∨ x.carries lane.val = false → exec (.laneRepair l rev g lane) s = .next s) ∧
    (s.chip.groupIn l.val g.val = true → x.down = true → ∃ c : Chip, exec (.laneRepairDone l rev g) s = .next (withChip s c) ∧
      c.linkGrp l.val rev g.val = { x with down := false, repairing := [] } ∧ c.links.rx = s.chip.links.rx) ∧
    (x.down = false → exec (.laneRepairDone l rev g) s = .next s) ∧
    (routeOf 0 3 = [(0, false), (3, false)] ∧ routeOf 3 0 = [(1, true), (2, true)] ∧ routeOf 1 2 = [(0, true), (2, false)] ∧
      routeOf 2 1 = [(1, false), (3, true)] ∧ (∀ a < 6, ∀ b < 6, a ≠ b → dieBetween a b = none → ∃ k r, routeOf a b = [(k, r)] ∧
        linkEnds k = (if r then (b, a) else (a, b))))) ∧
  (∀ (s : State) (a : SetupAcc) (v n key : Nat) (q : CapReq) (rest : List CapReq) (c : Chip) (x : Desc), s.chip.live = true → s.calm = true →
    (wholeWrite a v → v < 2 ^ 20 → n = bits v 19 16 → 1 ≤ n → n ≤ 8 → q = { reqId := v % 65536, srcs := (List.range n).map (fun i =>
        bits (s.chip.rw (0x700000 + 8 * (i / 4))) (16 * (i % 4) + 15) (16 * (i % 4))), record := s.chip.rw 0x700010, key := none } →
      exec (.capGo a) s = .next (withChip s (s.chip.capAsk q))) ∧
    (∀ (d : Chip) (p : CapReq),
      (d.cap.queue.length < 17 → d.capAsk p = d.modCap (fun k => { k with queue := k.queue ++ [p] })) ∧
      (17 ≤ d.cap.queue.length → p.key = none → d.capAsk p = d.devWrite srcDispatch p.record (capBusyRecord p) 0) ∧
      (∀ k, 17 ≤ d.cap.queue.length → p.key = some k → d.capAsk p = d.finish k 0x0F p.reqId)) ∧
    (s.chip.cap.queue = [] → exec .captureExecute s = .next s) ∧
    (s.chip.cap.queue = q :: rest → c = s.chip.modCap (fun k => { k with queue := rest }) →
      (q.key = none → exec .captureExecute s = .next (withChip s (c.devWrite srcDispatch q.record (s.chip.capRecord q) 0))) ∧
      (q.key = some key → s.chip.descAt key = none → exec .captureExecute s = .next (withChip s c)) ∧
      (q.key = some key → s.chip.descAt key = some x →
        (x.cm = 0 → s.chip.writable q.record (s.chip.capRecord q).length = true → exec .captureExecute s = .next (withChip s
          ((c.storeHint q.record (s.chip.capRecord q) false 0).finish key 0 0))) ∧
        (x.cm = 0 → s.chip.writable q.record (s.chip.capRecord q).length = false → exec .captureExecute s = .next (withChip s
          ((c.logRefused srcDispatch q.record (s.chip.capRecord q).length).finish key 0x04 q.record))) ∧
        (x.cm ≠ 0 → (s.chip.cmAt x.cm).st = .active → exec .captureExecute s = .next (withChip s
          (c.cxlAsk x.cm q.record (some (s.chip.capRecord q)) (.done key)))) ∧
        (x.cm ≠ 0 → (s.chip.cmAt x.cm).st ≠ .active → exec .captureExecute s = .next (withChip s (c.finish key 0x12 0))))))

/-- The capture record: its length is 16 bytes plus 16 bytes per named island, and its fields stand at the places of Table 1.6 (01 R33).
-/
def Obligations.CaptureRecordLayout : Prop :=
  ∀ (c : Chip) (q : CapReq) (b : List Byte), q.reqId < 65536 → q.srcs.length ≤ 8 → (∀ x ∈ q.srcs, x < 65536) → b = c.capRecord q →
    b.length = 16 + 16 * q.srcs.length ∧ fieldLE b 0 2 = q.reqId ∧ fieldLE b 2 1 = q.srcs.length ∧
    fieldLE b 3 1 = (if q.srcs.all srcOk then 1 else 3) ∧ (fieldLE b 4 4 = 60 ∨ fieldLE b 4 4 = 160) ∧ fieldLE b 8 8 = 0 ∧
    (∀ (i src : Nat), q.srcs[i]? = some src →
      fieldLE b (16 + 16 * i) 2 = src ∧ fieldLE b (18 + 16 * i) 1 = b2n (srcOk src && c.powered src) ∧
      (srcOk src = true → fieldLE b (19 + 16 * i) 1 = c.restarts src % 256) ∧ fieldLE b (20 + 16 * i) 4 = 0 ∧
      fieldLE b (24 + 16 * i) 8 = (if srcOk src && c.powered src then c.count src % 2 ^ 64 else 0)) ∧
    (q.srcs ≠ [] → fieldLE (capBusyRecord q) 3 1 = 4 ∧ (capBusyRecord q).length = 16 + 16 * q.srcs.length)

/-- A NOP whose CTX names a PARKED context, from a commander that created the context or holds a grant for it, returns the context to
ACTIVE; one that names an ACTIVE context changes no context; either completes with DONE (15 R408). -/
def Obligations.NopReturnsParkedContext : Prop :=
  ∀ (s : State) (r : Fin 1024) (d : Desc), descReady s r d → d.op = 0x00 → d.ctx ≠ 0 → s.chip.ctxOf d.cm d.ctx = true →
    s.chip.descAt d.key = some d → ((s.chip.ctxAt d.ctx).st = .parked ∨ (s.chip.ctxAt d.ctx).st = .active) → ∃ c : Chip,
      exec (.ringNop r) s = .next (withChip s (c.pump r.val)) ∧ (c.ctxAt d.ctx).st = .active ∧
      (∀ k, k ≠ d.ctx → c.ctxAt k = s.chip.ctxAt k) ∧ ((s.chip.ctxAt d.ctx).st = .active → c.ctx = s.chip.ctx) ∧
      (∃ f : Fin_, c.cm.fin = s.chip.cm.fin ++ [f] ∧ f.status = 0 ∧ f.sq = d.sq ∧ f.tag = d.tag) ∧ c.descAt d.key = none ∧
      c.mem = s.chip.mem ∧ c.tile = s.chip.tile

/-- The latch of sensors 2 and 3 is kept for each interface: a read of sensor 2 gives the low half of E_PKG and keeps its high half for
sensor 3 of the same interface, whatever other interfaces read and whatever the counter does in between (19 R498). -/
def Obligations.SensorLatchPerInterface : Prop :=
  ∀ (s : State) (i j : Fin 4) (n : Fin 65536) (t : BitVec 8) (e : Nat), s.chip.mgmtUp = true → i.val ≠ 3 → j.val ≠ 3 → j ≠ i →
    e = s.chip.pow.energy.headD 0 →
    (∃ c : Chip, exec (.pldmSensorRead i 2 t) s = .next (withChip s c) ∧ c.reply = [0, e % 2 ^ 32] ∧
      tabGet 0 c.mgmt.latch i.val = e / 2 ^ 32 ∧ c.pow = s.chip.pow) ∧
    (∃ c : Chip, exec (.pldmSensorRead j n t) s = .next (withChip s c) ∧
      tabGet 0 c.mgmt.latch i.val = tabGet 0 s.chip.mgmt.latch i.val) ∧
    (exec (.pldmSensorRead i 3 t) s = .next (withChip s (s.chip.answer [0, tabGet 0 s.chip.mgmt.latch i.val])))

/-- Each SPDM request on a transport whose controller answers has its response: versions, capabilities, the two extended algorithms
together, digests, portions of the chain, measurements, an error for what is not offered, and a place in the signing queue of five for
what is signed (19 R488 to R492). Signatures are finished in order: one that was not late is sent, one that was answered with
ResponseNotReady is kept for its RESPOND_IF_READY, and none of this happens twice (19 R492). -/
def Obligations.SpdmAnswers : Prop :=
  (∀ (s : State) (tr : Fin 4) (slot : Fin 8) (off len : Fin 65536) (op : Fin 256) (all : List Nat) (r : SignReq), spdmUp s tr →
    all = s.chip.chain s.sec →
    exec (.getVersion tr) s = .next (withChip s ((s.chip.setSpdm tr.val SpdmConn.fresh).answer [0, 0x12, 0x13])) ∧
    exec (.getCapabilities tr) s = .next (withChip s (s.chip.answer [0, 0x16])) ∧
    (∀ f k : Bool, (f && k) = false → exec (.negotiateAlgorithms tr f k) s = .next (withChip s (s.chip.spdmError 0x01))) ∧
    (∃ c : Chip, exec (.negotiateAlgorithms tr true true) s = .next (withChip s c) ∧ (c.spdmConn tr.val).algs = true ∧ c.reply.head? = some 0) ∧
    exec (.getDigests tr) s = .next (withChip s (s.chip.answer (0 :: 0x01 :: digest64 (Config.shake256 all)))) ∧
    (slot.val = 0 → off.val ≤ all.length → exec (.getCertificate tr slot off len) s = .next (withChip s (s.chip.answer
      (0 :: min len.val (all.length - off.val) :: (all.length - off.val - min len.val (all.length - off.val)) ::
        (all.drop off.val).take len.val)))) ∧
    (slot.val ≠ 0 ∨ all.length < off.val → exec (.getCertificate tr slot off len) s = .next (withChip s (s.chip.spdmError 0x01))) ∧
    (slot.val ≠ 0 → exec (.challenge tr slot) s = .next (withChip s (s.chip.spdmError 0x01))) ∧
    (slot.val = 0 → exec (.challenge tr slot) s = .next (withChip s (s.chip.sign tr.val (0x03 :: digest64 (Config.shake256 all))))) ∧
    ((1 ≤ op.val ∧ op.val ≤ 7 ∨ op.val = 255) → (s.chip.spdmConn tr.val).meas = none → ∃ c : Chip,
      exec (.getMeasurements tr op false) s = .next (withChip s c) ∧ c.reply = 0 :: 0 :: measOf s op.val ∧
      (c.spdmConn tr.val).meas = some ((List.range 7).map (fun i => s.chip.measure s.sec (i + 1))) ∧
      ∃ d : Chip, exec (.getMeasurements tr op true) s = .next (withChip s (d.sign tr.val (0x60 :: 0 :: measOf s op.val))) ∧
        d.mgmt.queue = s.chip.mgmt.queue) ∧
    (7 < op.val → op.val < 255 → exec (.getMeasurements tr op false) s = .next (withChip s (s.chip.spdmError 0x01))) ∧
    exec (.spdmUnsupported tr) s = .next (withChip s (s.chip.spdmError 0x07)) ∧
    (∀ (c : Chip) (values : List Nat), (5 ≤ c.mgmt.queue.length → c.sign tr.val values = c.spdmError 0x03) ∧
      (c.mgmt.queue.length < 5 → (c.sign tr.val values).mgmt.queue = c.mgmt.queue ++ [{ id := c.mgmt.next, tr := tr.val, values := values, since := c.count srcMgmt, late := false }] ∧
        (c.sign tr.val values).mgmt.next = c.mgmt.next + 1)) ∧
    (s.chip.mgmt.kept = [r] → r.tr = tr.val → ∃ c : Chip, exec (.respondIfReady tr r.id) s = .next (withChip s c) ∧
      c.reply = 0 :: r.values ∧ c.mgmt.kept = []) ∧
    (s.chip.mgmt.kept = [] → s.chip.mgmt.queue = [] → exec (.respondIfReady tr r.id) s = .next (withChip s (s.chip.spdmError 0x01)))) ∧
  (∀ (s : State) (r : SignReq) (rest : List SignReq),
    (s.chip.mgmt.queue = [] → exec .spdmSignDone s = .next s ∧ exec .spdmNotReady s = .next s) ∧
    (s.chip.mgmt.queue = r :: rest →
      (r.late = false → exec .spdmSignDone s = .next (withChip s
        ((s.chip.modMgmt (fun m => { m with queue := rest })).answer (0 :: r.tr :: r.values)))) ∧
      (r.late = true → exec .spdmSignDone s = .next (withChip s (s.chip.modMgmt (fun m => { m with queue := rest, kept := m.kept ++ [r] })))) ∧
      (r.late = false → (∀ x ∈ rest, x.id ≠ r.id) → ∃ c : Chip, exec .spdmNotReady s = .next (withChip s c) ∧
        c.mgmt.queue = { r with late := true } :: rest ∧ c.reply = [1, 0x42, 14, 4, r.id]) ∧
      ((∀ x ∈ r :: rest, x.late = true) → exec .spdmNotReady s = .next s)))

/-- The management interfaces answer what they carry and refuse the rest: MCTP control, PLDM discovery, sensors with the latch of the
energy's high half, firmware updates one at a time into the inactive slot, event entries and reports (19 R495 to R499). -/
def Obligations.ManagementInterfacesAnswer : Prop :=
  ∀ (s : State) (iface : Fin 4) (cmd : Fin 256) (sensor : Fin 65536) (temp : BitVec 8) (type : Fin 256) (h : List Byte) (crypto : Bool)
    (start : Fin 65536) (count which : Fin 256) (slot v : Nat), s.chip.mgmtUp = true → s.chip.recovery = false →
    (iface.val ≠ 3 →
      exec (.mctpControl iface cmd) s = .next (withChip s (s.chip.answer [0, cmd.val])) ∧
      exec (.pldmDiscovery iface) s = .next (withChip s (s.chip.answer (if iface.val = 2 then [0, 0, 2] else [0, 0, 2, 5]))) ∧
      (sensor.val = 0 ∨ 26 < sensor.val → exec (.pldmSensorRead iface sensor temp) s = .next (withChip s (s.chip.answer [1]))) ∧
      (sensor.val = 2 → exec (.pldmSensorRead iface sensor temp) s = .next (withChip s ((s.chip.modMgmt (fun m =>
        { m with latch := tabSet m.latch iface.val (s.chip.pow.energy.headD 0 / 2 ^ 32) })).answer
          [0, s.chip.pow.energy.headD 0 % 2 ^ 32]))) ∧
      (sensor.val = 3 → exec (.pldmSensorRead iface sensor temp) s = .next (withChip s
        (s.chip.answer [0, tabGet 0 s.chip.mgmt.latch iface.val]))) ∧
      (9 ≤ sensor.val → sensor.val ≤ 26 → exec (.pldmSensorRead iface sensor temp) s = .next (withChip s (s.chip.answer [0, temp.toNat]))) ∧
      (1023 < start.val ∨ count.val = 0 ∨ 15 < count.val →
        exec (.readEvents iface start count) s = .next (withChip s (s.chip.answer [0x01, 2]))) ∧
      (start.val ≤ 1023 → 1 ≤ count.val → count.val ≤ 15 → exec (.readEvents iface start count) s = .next (withChip s (s.chip.answer
        (0x01 :: 0 :: ((s.chip.log.held.drop start.val).take count.val).flatMap (fun e => (e.bytes s.chip.log.period).map (·.toNat)))))) ∧
      (which.val ≤ 1 → exec (.readReport iface which) s = .next (withChip s (s.chip.answer
        (0x02 :: 0 :: ((if which.val = 0 then s.chip.boot.report else s.chip.boot.prev).bytes).map (·.toNat))))) ∧
      (1 < which.val → exec (.readReport iface which) s = .next (withChip s (s.chip.answer [0x02, 2])))) ∧
    (iface.val = 3 → exec (.mctpControl iface cmd) s = .next (withChip s (s.chip.mgmtRefuse 3 [1])) ∧
      exec (.pldmDiscovery iface) s = .next (withChip s (s.chip.mgmtRefuse 3 [1])) ∧
      exec (.readEvents iface start count) s = .next (withChip s (s.chip.mgmtRefuse 3 [0x01, 3])) ∧
      (s.chip.mgmtRefuse 3 [1]).reply = [1]) ∧
    (iface.val < 2 → (type.val = 1 ∨ type.val = 2 ∨ type.val = 4) → slot = 1 - tabGet 0 s.sec.active type.val →
      v = s.sec.rec_.judge h type.val crypto →
      (s.chip.mgmt.update = none → exec (.pldmFirmwareUpdate iface type false h crypto) s = .next (withChip s
        ((s.chip.modMgmt (fun m => { m with update := some (iface.val, type.val) })).answer [0]))) ∧
      (s.chip.mgmt.update.isSome → exec (.pldmFirmwareUpdate iface type false h crypto) s = .next (withChip s (s.chip.answer [2]))) ∧
      (s.chip.mgmt.update = some (iface.val, type.val) → ∃ (c : Chip) (k : Secure),
        exec (.pldmFirmwareUpdate iface type true h crypto) s = .next { s with chip := c, sec := k } ∧ c.mgmt.update = none ∧
        k.slot type.val slot = FlashImg.of h type.val crypto ∧ k.slot type.val (1 - slot) = s.sec.slot type.val (1 - slot) ∧
        (v = 0 → tabGet 0 k.active type.val = slot ∧ c.reply = [0]) ∧ (v ≠ 0 → k.active = s.sec.active ∧ c.reply = [3, v]) ∧
        k.recA = s.sec.recA ∧ k.recB = s.sec.recB)) ∧
    (iface.val < 2 → type.val = 3 → exec (.pldmFirmwareUpdate iface type false h crypto) s = .next (withChip s (s.chip.answer [1]))) ∧
    (2 ≤ iface.val → exec (.pldmFirmwareUpdate iface type false h crypto) s = .next (withChip s (s.chip.mgmtRefuse iface.val [1])))

/-- An image is accepted only when its header keeps its rules, its cryptography verifies, and neither KEY_GEN nor its SVN lies below the
counters; an accepted raise never lowers a counter, is written to the older copy of the record, and leaves the other copy (19 R483 to
R486). Power comes group by group in order and a group that fails is fatal: COLD_RESET leaves only management flash, BOOT_ROM_START begins
self-test, each PWR_GOOD enables the next group, RAIL_FAIL and a fall in service stop the package, and a warm reset keeps energies, held
events and the report (20 R500, R501, R507, 19 R499). Self-test goes through its six steps: each that finds its units good leads to the
next, each fatal finding stops with its code, and the sixth brings the package into service with the outcome; no command waits across a
self-test (20 R503 to R506, 01 R21, 19 R481). -/
def Obligations.BringUp : Prop :=
  ((∀ (r : CtrRec) (h : List Byte) (type : Nat) (crypto : Bool),
    (r.judge h type crypto = 0 ↔ headerOk h type = true ∧ crypto = true ∧ r.keyGen ≤ fieldLE h 16 4 ∧ r.svn type ≤ fieldLE h 12 4) ∧
    (r.judge h type crypto = 5 ↔ headerOk h type = true ∧ crypto = true ∧ r.keyGen ≤ fieldLE h 16 4 ∧ fieldLE h 12 4 < r.svn type) ∧
    (r.judge h type crypto = 0 ∨ r.judge h type crypto = 4 ∨ r.judge h type crypto = 5)) ∧
  (∀ (k : Secure) (type svn gen : Nat), countersKept k (k.raise type svn gen) ∧ gen ≤ (k.raise type svn gen).rec_.keyGen ∧
    (1 ≤ type → type ≤ 4 → svn ≤ (k.raise type svn gen).rec_.svn type) ∧
    ((k.raise type svn gen).recA = k.recA ∨ (k.raise type svn gen).recB = k.recB) ∧ (k.raise type svn gen).img = k.img ∧
    (k.raise type svn gen).fenceList = k.fenceList)) ∧
  (∀ (s : State) (g : Fin 6) (iface : Fin 4) (confirm : BitVec 32),
    (∃ (c : Chip) (k : Secure), exec .coldReset s = .next { s with chip := c, sec := k } ∧ c.boot.aon = true ∧ c.boot.en = 0 ∧
      c.boot.good = 0 ∧ c.boot.step = 0 ∧ c.boot.safe = false ∧ c.live = false ∧ c.tile = [] ∧ c.log.held = [] ∧
      c.regs = [] ∧ k.recA = s.sec.recA ∧ k.recB = s.sec.recB ∧ k.fenceList = s.sec.fenceList ∧
      (s.chip.mgmt.update = none → k = s.sec)) ∧
    (∃ (c : Chip) (k : Secure), exec .powerLoss s = .next { s with chip := c, sec := k } ∧ c.boot.aon = false ∧ c.boot.en = 0 ∧
      c.live = false ∧ k.recA = s.sec.recA ∧ k.recB = s.sec.recB ∧ (s.chip.mgmt.update = none → k = s.sec)) ∧
    (s.chip.boot.aon = true → s.chip.boot.step = 0 → s.chip.boot.safe = false → s.chip.boot.report.outcome ≠ 3 →
      ∃ c : Chip, exec .bootRomStart s = .next (withChip s c) ∧ c.boot = { s.chip.boot with step := 1 }) ∧
    (s.chip.boot.aon = false → exec .bootRomStart s = .next s ∧ exec .warmReset s = .next s) ∧
    (s.chip.boot.aon = true → s.chip.boot.step ≠ 0 → ∃ (c : Chip) (k : Secure), exec .warmReset s = .next { s with chip := c, sec := k } ∧
      c.boot.step = 1 ∧ c.boot.en = 0 ∧ c.boot.good = 0 ∧ c.boot.safe = false ∧ c.boot.report = s.chip.boot.report ∧
      c.boot.prev = s.chip.boot.prev ∧ c.pow.energy = s.chip.pow.energy ∧ c.log.held = s.chip.log.held ∧ c.tile = [] ∧
      c.mem.bytes = [] ∧ k.recA = s.sec.recA ∧ k.recB = s.sec.recB) ∧
    (testing s 3 → bit s.chip.boot.en g.val = true → bit s.chip.boot.good g.val = false → ∃ c : Chip,
      exec (.pwrGoodRise g) s = .next (withChip s c) ∧ bit c.boot.good g.val = true ∧ (g.val < 5 → bit c.boot.en (g.val + 1) = true) ∧
      (∀ k < 6, bit s.chip.boot.good k = true → bit c.boot.good k = true) ∧ c.boot.step = 3) ∧
    (s.chip.boot.safe = false → s.chip.boot.aon = true → bit s.chip.boot.en g.val = true →
      (bit s.chip.boot.good g.val = false → ∃ c : Chip, exec (.railFail g) s = .next (withChip s c) ∧ c.boot.safe = true ∧ c.boot.en = 0 ∧
        c.boot.report.code = 0x01 ∧ c.boot.report.detail = g.val) ∧
      (bit s.chip.boot.good g.val = true → ∃ c : Chip, exec (.pwrGoodFall g) s = .next (withChip s c) ∧ c.boot.safe = true ∧
        c.boot.en = 0 ∧ c.boot.report.code = 0x01 ∧ c.boot.report.detail = g.val ∧ c.boot.tripOut = true)) ∧
    (bit s.chip.boot.en g.val = false → exec (.pwrGoodRise g) s = .next s ∧ exec (.railFail g) s = .next s ∧ exec (.pwrGoodFall g) s = .next s) ∧
    (s.chip.mgmtUp = true → iface.val < 2 →
      (confirm.toNat ≠ 2 ^ 32 - 1 - s.chip.boot.report.deviceId % 2 ^ 32 →
        exec (.pkgReset iface confirm) s = .next (withChip s (s.chip.answer [0x10, 2]))) ∧
      (confirm.toNat = 2 ^ 32 - 1 - s.chip.boot.report.deviceId % 2 ^ 32 → ∃ (c : Chip) (k : Secure),
        exec (.pkgReset iface confirm) s = .next { s with chip := c, sec := k } ∧ c.boot.step = 1 ∧ c.reply = [0x10, 0] ∧
        c.log.held = s.chip.log.held))) ∧
  (∀ (s z : State) (r : SelfTest), z = { s with held := [] } →
    (testing s 1 → s.sec.runs 1 = none → ∃ c : Chip, exec (.selfTestStep r) s = .next (withChip z c) ∧ c.boot.step = 0 ∧ c.recovery = true) ∧
    (testing s 1 → (s.sec.runs 1).isSome → r.mgmtOk = true → ∃ c : Chip, exec (.selfTestStep r) s = .next (withChip z c) ∧ c.boot.step = 2 ∧
      c.boot.feedId = r.feedId.toNat ∧ c.boot.slotId = r.slotId.toNat ∧ c.boot.roleStrap = r.role ∧ c.boot.manager = false) ∧
    (testing s 2 → r.puf = true → s.sec.helper = true → s.sec.recOk = true → ∃ c : Chip, exec (.selfTestStep r) s = .next (withChip z c) ∧
      c.boot.step = 3 ∧ c.boot.en = 2 ∧ c.mgmt.secure = true) ∧
    (testing s 2 → (r.puf = false ∨ s.sec.helper = false ∨ s.sec.recOk = false) → ∃ c : Chip,
      exec (.selfTestStep r) s = .next (withChip z c) ∧ c.boot.safe = true ∧ c.boot.report.code = 0x03 ∧ c.boot.report.phase = 2) ∧
    (testing s 3 → s.chip.boot.good ≠ 0x3E → exec (.selfTestStep r) s = .next z) ∧
    (testing s 3 → s.chip.boot.good = 0x3E → r.hdOk = true → r.fdOk = true → r.fps.toNat ≠ 15 → r.cores.toNat ≠ 2 ^ 64 - 1 →
      r.ports.toNat ≠ 255 →
      (r.tds = 0 → r.links = [] → ∃ c : Chip, exec (.selfTestStep r) s = .next (withChip z c) ∧ c.boot.step = 4 ∧
        c.boot.manager = ((s.chip.boot.roleStrap && !r.partnerRoot) || s.chip.boot.manager) ∧
        (∀ k : Fin 64, r.cores.getLsbD k.val = true → c.coreSt k.val = .held)) ∧
      (r.tds ≠ 0 → ∃ c : Chip, exec (.selfTestStep r) s = .next (withChip z c) ∧ c.boot.safe = true ∧ c.boot.report.code = 0x05)) ∧
    (testing s 4 → ∀ (n : Nat) (m : Dimm), r.hbm = [] → population r.dimms = some (n, m) → r.ddr = [] → ∃ c : Chip,
      exec (.selfTestStep r) s = .next (withChip z c) ∧ c.boot.step = 5 ∧ c.mem.ddrMods = n ∧ c.mem.ddrModGB = m.gb ∧ c.mem.dir = [] ∧
      (r.ledge = [] → c.mem.bytes = [] ∧ c.ledge.fenced = [])) ∧
    (testing s 4 → r.hbm = [] → population r.dimms = none → ∃ c : Chip, exec (.selfTestStep r) s = .next (withChip z c) ∧
      c.boot.safe = true ∧ c.boot.report.code = 0x0A) ∧
    (testing s 5 → (s.sec.runs 4).isSome → ∃ (c : Chip) (k : Secure) (bad : List Nat),
      exec (.selfTestStep r) s = .next { z with chip := c, sec := k } ∧ c.boot.step = 6 ∧
      (∀ t, t ∈ bad ↔ t ∈ s.sec.fenceList ∨ ∃ x ∈ r.tiles, x.val = t) ∧
      (∀ j < 192, c.physOf j = (goodTiles bad (j / 48)).getD (j % 48) 200) ∧
      (∀ t < 200, ((c.tileAt t).st = .fenced ↔ t ∈ bad)) ∧ k.recA = s.sec.recA ∧ k.recB = s.sec.recB) ∧
    (testing s 6 → (s.sec.runs 2).isSome → ∃ (c : Chip) (k : Secure), exec (.selfTestStep r) s = .next { z with chip := c, sec := k } ∧
      c.live = true ∧ c.boot.report.phase = 6 ∧ c.boot.report.outcome ≤ 1 ∧ c.boot.prev = s.chip.boot.report ∧ countersKept s.sec k) ∧
    (testing s 5 → s.sec.runs 4 = none → ∃ c : Chip, exec (.selfTestStep r) s = .next (withChip z c) ∧ c.boot.report.code = 0x0B) ∧
    (testing s 6 → s.sec.runs 2 = none → ∃ c : Chip, exec (.selfTestStep r) s = .next (withChip z c) ∧ c.boot.report.code = 0x0C))
end

