-- ==== Sys2Proof/Laws/Table.lean ====
section
/-!
SUPPORT. Sparse tables and sorted sets: what a read finds after an update.
-/

namespace Sys2Proof.Machine

@[simp] theorem tabGet_tabSet_same {α : Type} (d : α) (t : Tab α) (i : Nat) (v : α) : tabGet d (tabSet t i v) i = v := by
  induction t with
  | nil => simp [tabSet, tabGet]
  | cons p r ih =>
    obtain ⟨k, w⟩ := p
    by_cases h : k = i
    · simp [tabSet, tabGet, h]
    · by_cases g : i < k <;> simp [tabSet, tabGet, h, g, ih]

theorem tabGet_tabSet_other {α : Type} (d : α) (t : Tab α) {i j : Nat} (v : α) (hij : i ≠ j) :
    tabGet d (tabSet t i v) j = tabGet d t j := by
  induction t with
  | nil => simp [tabSet, tabGet, hij]
  | cons p r ih =>
    obtain ⟨k, w⟩ := p
    by_cases h : k = i
    · subst h; simp [tabSet, tabGet, hij]
    · by_cases g : i < k <;> simp [tabSet, tabGet, h, g, ih, hij]

@[simp] theorem tabFind_tabSet_same {α : Type} (t : Tab α) (i : Nat) (v : α) : tabFind (tabSet t i v) i = some v := by
  induction t with
  | nil => simp [tabSet, tabFind]
  | cons p r ih =>
    obtain ⟨k, w⟩ := p
    by_cases h : k = i
    · simp [tabSet, tabFind, h]
    · by_cases g : i < k <;> simp [tabSet, tabFind, h, g, ih]

theorem tabFind_tabSet_other {α : Type} (t : Tab α) {i j : Nat} (v : α) (hij : i ≠ j) :
    tabFind (tabSet t i v) j = tabFind t j := by
  induction t with
  | nil => simp [tabSet, tabFind, hij]
  | cons p r ih =>
    obtain ⟨k, w⟩ := p
    by_cases h : k = i
    · subst h; simp [tabSet, tabFind, hij]
    · by_cases g : i < k <;> simp [tabSet, tabFind, h, g, ih, hij]

@[simp] theorem tabGet_tabDel_same {α : Type} (d : α) (t : Tab α) (i : Nat) : tabGet d (tabDel t i) i = d := by
  induction t with
  | nil => rfl
  | cons p r ih =>
    obtain ⟨k, w⟩ := p
    by_cases h : k = i <;> simp [tabDel, tabGet, h, ih]

theorem tabGet_tabDel_other {α : Type} (d : α) (t : Tab α) {i j : Nat} (hij : i ≠ j) :
    tabGet d (tabDel t i) j = tabGet d t j := by
  induction t with
  | nil => rfl
  | cons p r ih =>
    obtain ⟨k, w⟩ := p
    by_cases h : k = i
    · subst h; simp [tabDel, tabGet, hij, ih]
    · simp [tabDel, tabGet, h, ih]

/-- Setting an entry twice is setting it once. -/
@[simp] theorem tabSet_tabSet_same {α : Type} (t : Tab α) (i : Nat) (v w : α) : tabSet (tabSet t i v) i w = tabSet t i w := by
  induction t with
  | nil => simp [tabSet]
  | cons p r ih =>
    obtain ⟨k, x⟩ := p
    by_cases h : k = i
    · simp [tabSet, h]
    · by_cases g : i < k
      · simp [tabSet, h, g]
      · simp [tabSet, h, g, ih]

/-- A table read finds what was set last. -/
theorem tabGet_tabSet {α : Type} (d : α) (t : Tab α) (i j : Nat) (v : α) :
    tabGet d (tabSet t i v) j = if i = j then v else tabGet d t j := by
  by_cases h : i = j
  · subst h; simp
  · simp [tabGet_tabSet_other d t v h, h]

theorem mem_setIns (l : List Nat) (a b : Nat) : b ∈ setIns l a ↔ b = a ∨ b ∈ l := by
  induction l with
  | nil => simp [setIns]
  | cons k r ih =>
    by_cases h : a < k
    · simp [setIns, h]
    · by_cases g : a = k
      · subst g; simp [setIns]
      · simp only [setIns, h, g, if_false, List.mem_cons, ih]; tauto

@[simp] theorem setHas_setIns_same (l : List Nat) (a : Nat) : setHas (setIns l a) a = true := by
  simp [setHas, mem_setIns]

theorem setHas_setIns_other (l : List Nat) {a b : Nat} (h : a ≠ b) : setHas (setIns l a) b = setHas l b := by
  rw [Bool.eq_iff_iff]; simp [setHas, mem_setIns, Ne.symm h]

theorem mem_setDel (l : List Nat) (a b : Nat) : b ∈ setDel l a ↔ b ≠ a ∧ b ∈ l := by
  induction l with
  | nil => simp [setDel]
  | cons k r ih =>
    by_cases g : a = k
    · subst g; simp only [setDel, if_true, List.mem_cons, ih]; tauto
    · simp only [setDel, g, if_false, List.mem_cons, ih]
      constructor
      · rintro (rfl | ⟨h1, h2⟩)
        · exact ⟨fun h => g h.symm, .inl rfl⟩
        · exact ⟨h1, .inr h2⟩
      · rintro ⟨h1, rfl | h2⟩
        · exact .inl rfl
        · exact .inr ⟨h1, h2⟩

@[simp] theorem setHas_setDel_same (l : List Nat) (a : Nat) : setHas (setDel l a) a = false := by
  rw [Bool.eq_false_iff]; simp [setHas, mem_setDel]

end Sys2Proof.Machine
end

