-- ==== Sys2Proof/Laws/Memory.lean ====
section
/-!
SUPPORT. Byte memories: a read after a write to the same address gives the byte written, a write leaves every other address alone, and
every operation keeps the canonical form.
-/

namespace Sys2Proof.Machine

@[simp] theorem Memory.wf_nil : Memory.wf [] = true := rfl

@[simp] theorem Memory.read_nil (a : Nat) : Memory.read [] a = 0 := rfl

theorem Memory.wfFrom_mono {lo lo' : Nat} {m : Memory} (h : lo ≤ lo') (w : Memory.wfFrom lo' m = true) : Memory.wfFrom lo m = true := by
  cases m with
  | nil => rfl
  | cons p r =>
    obtain ⟨k, b⟩ := p
    simp only [Memory.wfFrom, Bool.and_eq_true, decide_eq_true_eq] at w ⊢
    exact ⟨⟨le_trans h w.1.1, w.1.2⟩, w.2⟩

theorem Memory.read_below {lo a : Nat} {m : Memory} (w : Memory.wfFrom lo m = true) (h : a < lo) : m.read a = 0 := by
  induction m generalizing lo with
  | nil => rfl
  | cons p r ih =>
    obtain ⟨k, b⟩ := p
    simp only [Memory.wfFrom, Bool.and_eq_true, decide_eq_true_eq] at w
    have hk : k ≠ a := by omega
    simp only [Memory.read, tabGet, hk, if_false]
    exact ih w.2 (by omega)

theorem Memory.wfFrom_write {lo a : Nat} {m : Memory} (b : Byte) (w : Memory.wfFrom lo m = true) (h : lo ≤ a) :
    Memory.wfFrom lo (m.write a b) = true := by
  induction m generalizing lo with
  | nil => by_cases hb : b = 0#8 <;> simp [Memory.write, Memory.wfFrom, hb, h]
  | cons p r ih =>
    obtain ⟨k, c⟩ := p
    have w' := w
    simp only [Memory.wfFrom, Bool.and_eq_true, decide_eq_true_eq] at w
    by_cases h1 : a < k
    · by_cases hb : b = 0#8
      · simpa [Memory.write, h1, hb] using w'
      · have : Memory.wfFrom (a + 1) ((k, c) :: r) = true := by
          simp only [Memory.wfFrom, Bool.and_eq_true, decide_eq_true_eq]
          exact ⟨⟨by omega, w.1.2⟩, w.2⟩
        simp [Memory.write, h1, hb, Memory.wfFrom, h] at this ⊢
        exact this
    · by_cases h2 : a = k
      · subst h2
        by_cases hb : b = 0#8
        · simpa [Memory.write, hb] using Memory.wfFrom_mono (by omega) w.2
        · have e : Memory.write ((a, c) :: r) a b = (a, b) :: r := by simp [Memory.write, hb]
          rw [e]
          simp only [Memory.wfFrom, Bool.and_eq_true, decide_eq_true_eq]
          exact ⟨⟨h, by simpa using hb⟩, w.2⟩
      · simp only [Memory.write, h1, h2, if_false, Memory.wfFrom, Bool.and_eq_true, decide_eq_true_eq]
        exact ⟨w.1, ih w.2 (by omega)⟩

theorem Memory.wf_write {m : Memory} (a : Nat) (b : Byte) (w : m.wf = true) : (m.write a b).wf = true :=
  Memory.wfFrom_write b w (Nat.zero_le a)

theorem Memory.read_write_same_from {lo a : Nat} {m : Memory} (b : Byte) (w : Memory.wfFrom lo m = true) : (m.write a b).read a = b := by
  induction m generalizing lo with
  | nil => by_cases hb : b = 0#8 <;> simp [Memory.write, Memory.read, tabGet, hb]
  | cons p r ih =>
    obtain ⟨k, c⟩ := p
    have w' := w
    simp only [Memory.wfFrom, Bool.and_eq_true, decide_eq_true_eq] at w
    by_cases h1 : a < k
    · by_cases hb : b = 0#8
      · simp only [Memory.write, h1, hb, if_true]
        have : Memory.wfFrom k ((k, c) :: r) = true := by
          simp only [Memory.wfFrom, Bool.and_eq_true, decide_eq_true_eq]
          exact ⟨⟨le_refl k, w.1.2⟩, w.2⟩
        exact Memory.read_below this h1
      · simp [Memory.write, h1, hb, Memory.read, tabGet]
    · by_cases h2 : a = k
      · subst h2
        by_cases hb : b = 0#8
        · simp only [Memory.write, hb, lt_irrefl, if_false, if_true]
          exact Memory.read_below w.2 (by omega)
        · simp [Memory.write, hb, Memory.read, tabGet]
      · have hk : k ≠ a := fun e => h2 e.symm
        simp only [Memory.write, h1, h2, if_false, Memory.read, tabGet, hk]
        exact ih w.2

theorem Memory.read_write_same {m : Memory} (a : Nat) (b : Byte) (w : m.wf = true) : (m.write a b).read a = b :=
  Memory.read_write_same_from b w

theorem Memory.read_write_other {m : Memory} {a x : Nat} (b : Byte) (h : x ≠ a) : (m.write a b).read x = m.read x := by
  induction m with
  | nil =>
    by_cases hb : b = 0#8
    · simp [Memory.write, hb]
    · simp [Memory.write, hb, Memory.read, tabGet, Ne.symm h]
  | cons p r ih =>
    obtain ⟨k, c⟩ := p
    by_cases h1 : a < k
    · by_cases hb : b = 0#8
      · simp [Memory.write, h1, hb]
      · simp [Memory.write, h1, hb, Memory.read, tabGet, Ne.symm h]
    · by_cases h2 : a = k
      · subst h2
        by_cases hb : b = 0#8
        · simp [Memory.write, hb, Memory.read, tabGet, Ne.symm h]
        · simp [Memory.write, hb, Memory.read, tabGet, Ne.symm h]
      · by_cases hx : k = x
        · subst hx; simp only [Memory.write, h1, h2, if_false, Memory.read, tabGet, if_true]
        · simp only [Memory.write, h1, h2, if_false, Memory.read, tabGet, hx]
          exact ih

theorem Memory.wf_writeN {m : Memory} (a : Nat) (l : List Byte) (w : m.wf = true) : (m.writeN a l).wf = true := by
  induction l generalizing m a with
  | nil => exact w
  | cons b r ih => exact ih (a + 1) (Memory.wf_write a b w)

theorem Memory.read_writeN_below {m : Memory} {a x : Nat} (l : List Byte) (h : x < a) : (m.writeN a l).read x = m.read x := by
  induction l generalizing m a with
  | nil => rfl
  | cons b r ih =>
    rw [Memory.writeN, ih (by omega), Memory.read_write_other b (by omega)]

/-- A byte outside the stored ones reads as before. -/
theorem Memory.read_writeN_other {m : Memory} {a x : Nat} (l : List Byte) (h : x < a ∨ a + l.length ≤ x) :
    (m.writeN a l).read x = m.read x := by
  induction l generalizing m a with
  | nil => rfl
  | cons b r ih =>
    simp only [List.length_cons] at h
    rw [Memory.writeN, ih (by omega), Memory.read_write_other b (by omega)]

/-- A stored byte reads back. -/
theorem Memory.read_writeN_same {m : Memory} (a : Nat) (l : List Byte) (i : Nat) (hi : i < l.length) (w : m.wf = true) :
    (m.writeN a l).read (a + i) = l[i] := by
  induction l generalizing m a i with
  | nil => simp at hi
  | cons b r ih =>
    cases i with
    | zero =>
      show ((m.write a b).writeN (a + 1) r).read a = b
      rw [Memory.read_writeN_below r (Nat.lt_add_one a)]
      exact Memory.read_write_same a b w
    | succ n =>
      rw [Memory.writeN, show a + (n + 1) = a + 1 + n by omega]
      simpa using ih (a + 1) n (by simpa using hi) (Memory.wf_write a b w)

theorem Memory.wf_zeroN {m : Memory} (a n : Nat) (w : m.wf = true) : (m.zeroN a n).wf = true := by
  induction n generalizing m a with
  | zero => exact w
  | succ k ih => exact ih (a + 1) (Memory.wf_write a 0 w)

theorem Memory.wfFrom_filter {lo : Nat} {m : Memory} (p : Host.Cell → Bool) (w : Memory.wfFrom lo m = true) :
    Memory.wfFrom lo (m.filter p) = true := by
  induction m generalizing lo with
  | nil => rfl
  | cons q r ih =>
    obtain ⟨k, c⟩ := q
    simp only [Memory.wfFrom, Bool.and_eq_true, decide_eq_true_eq] at w
    by_cases hp : p (k, c) = true
    · simp only [List.filter_cons, hp, if_true, Memory.wfFrom, Bool.and_eq_true, decide_eq_true_eq]
      exact ⟨w.1, ih w.2⟩
    · simp only [List.filter_cons, hp]
      exact ih (Memory.wfFrom_mono (by omega) w.2)

theorem Memory.wf_slice {m : Memory} (a n : Nat) (w : m.wf = true) : (m.slice a n).wf = true := Memory.wfFrom_filter _ w

theorem Memory.wf_clear {m : Memory} (a n : Nat) (w : m.wf = true) : (m.clear a n).wf = true := Memory.wfFrom_filter _ w

theorem Memory.wf_foldl_write (l : List Host.Cell) (f : Host.Cell → Nat) {m : Memory} (w : m.wf = true) :
    (l.foldl (fun acc c => acc.write (f c) c.2) m).wf = true := by
  induction l generalizing m with
  | nil => exact w
  | cons c r ih => exact ih (Memory.wf_write (f c) c.2 w)

theorem Memory.wf_blit {m : Memory} (dst : Nat) (s : Memory) (src n : Nat) (w : m.wf = true) : (m.blit dst s src n).wf = true :=
  Memory.wf_foldl_write _ _ (Memory.wf_clear dst n w)

theorem Memory.wf_writeLE {m : Memory} (a n v : Nat) (w : m.wf = true) : (m.writeLE a n v).wf = true := Memory.wf_writeN a _ w

@[simp] theorem Memory.readN_length (m : Memory) (a n : Nat) : (m.readN a n).length = n := by
  induction n generalizing a with
  | zero => rfl
  | succ k ih => simp [Memory.readN, ih]

@[simp] theorem leBytes_length (n v : Nat) : (leBytes n v).length = n := by
  induction n generalizing v with
  | zero => rfl
  | succ k ih => simp [leBytes, ih]

/-- Byte order goes both ways (00 R9). -/
theorem leVal_leBytes (n v : Nat) : leVal (leBytes n v) = v % 256 ^ n := by
  induction n generalizing v with
  | zero => simp [leVal, leBytes, Nat.mod_one]
  | succ k ih =>
    have h : (BitVec.ofNat 8 v).toNat = v % 256 := by simp
    rw [leBytes, leVal, ih, h, pow_succ', Nat.mod_mul]

end Sys2Proof.Machine
end

