-- ==== Sys2Proof/Laws/State.lean ====
section
/-!
SUPPORT. Each update of one part of the package leaves every other part as it was.
-/

namespace Sys2Proof.Machine

@[simp] theorem Chip.modClk_clk (c : Chip) (g : Clocks → Clocks) : (c.modClk g).clk = g c.clk := rfl
@[simp] theorem Chip.modClk_keeps_log (c : Chip) (g : Clocks → Clocks) : (c.modClk g).log = c.log := rfl
@[simp] theorem Chip.modClk_keeps_mem (c : Chip) (g : Clocks → Clocks) : (c.modClk g).mem = c.mem := rfl
@[simp] theorem Chip.modClk_keeps_irq (c : Chip) (g : Clocks → Clocks) : (c.modClk g).irq = c.irq := rfl
@[simp] theorem Chip.modClk_keeps_hart (c : Chip) (g : Clocks → Clocks) : (c.modClk g).hart = c.hart := rfl
@[simp] theorem Chip.modClk_keeps_so (c : Chip) (g : Clocks → Clocks) : (c.modClk g).so = c.so := rfl
@[simp] theorem Chip.modClk_keeps_mmu (c : Chip) (g : Clocks → Clocks) : (c.modClk g).mmu = c.mmu := rfl
@[simp] theorem Chip.modClk_keeps_tile (c : Chip) (g : Clocks → Clocks) : (c.modClk g).tile = c.tile := rfl
@[simp] theorem Chip.modClk_keeps_tmap (c : Chip) (g : Clocks → Clocks) : (c.modClk g).tmap = c.tmap := rfl
@[simp] theorem Chip.modClk_keeps_cxl (c : Chip) (g : Clocks → Clocks) : (c.modClk g).cxl = c.cxl := rfl
@[simp] theorem Chip.modClk_keeps_cm (c : Chip) (g : Clocks → Clocks) : (c.modClk g).cm = c.cm := rfl
@[simp] theorem Chip.modClk_keeps_ctx (c : Chip) (g : Clocks → Clocks) : (c.modClk g).ctx = c.ctx := rfl
@[simp] theorem Chip.modClk_keeps_fw (c : Chip) (g : Clocks → Clocks) : (c.modClk g).fw = c.fw := rfl
@[simp] theorem Chip.modClk_keeps_boot (c : Chip) (g : Clocks → Clocks) : (c.modClk g).boot = c.boot := rfl
@[simp] theorem Chip.modClk_keeps_links (c : Chip) (g : Clocks → Clocks) : (c.modClk g).links = c.links := rfl
@[simp] theorem Chip.modClk_keeps_cap (c : Chip) (g : Clocks → Clocks) : (c.modClk g).cap = c.cap := rfl
@[simp] theorem Chip.modClk_keeps_regs (c : Chip) (g : Clocks → Clocks) : (c.modClk g).regs = c.regs := rfl
@[simp] theorem Chip.modClk_keeps_chan (c : Chip) (g : Clocks → Clocks) : (c.modClk g).chan = c.chan := rfl
@[simp] theorem Chip.modClk_keeps_ledge (c : Chip) (g : Clocks → Clocks) : (c.modClk g).ledge = c.ledge := rfl
@[simp] theorem Chip.modClk_keeps_bucket (c : Chip) (g : Clocks → Clocks) : (c.modClk g).bucket = c.bucket := rfl
@[simp] theorem Chip.modClk_keeps_pcie (c : Chip) (g : Clocks → Clocks) : (c.modClk g).pcie = c.pcie := rfl
@[simp] theorem Chip.modClk_keeps_fab (c : Chip) (g : Clocks → Clocks) : (c.modClk g).fab = c.fab := rfl
@[simp] theorem Chip.modClk_keeps_roce (c : Chip) (g : Clocks → Clocks) : (c.modClk g).roce = c.roce := rfl
@[simp] theorem Chip.modClk_keeps_res (c : Chip) (g : Clocks → Clocks) : (c.modClk g).res = c.res := rfl
@[simp] theorem Chip.modClk_keeps_pow (c : Chip) (g : Clocks → Clocks) : (c.modClk g).pow = c.pow := rfl
@[simp] theorem Chip.modClk_keeps_mgmt (c : Chip) (g : Clocks → Clocks) : (c.modClk g).mgmt = c.mgmt := rfl
@[simp] theorem Chip.modClk_keeps_reply (c : Chip) (g : Clocks → Clocks) : (c.modClk g).reply = c.reply := rfl
@[simp] theorem Chip.modClk_keeps_free (c : Chip) (g : Clocks → Clocks) : (c.modClk g).free = c.free := rfl
@[simp] theorem Chip.modLog_log (c : Chip) (g : LogState → LogState) : (c.modLog g).log = g c.log := rfl
@[simp] theorem Chip.modLog_keeps_clk (c : Chip) (g : LogState → LogState) : (c.modLog g).clk = c.clk := rfl
@[simp] theorem Chip.modLog_keeps_mem (c : Chip) (g : LogState → LogState) : (c.modLog g).mem = c.mem := rfl
@[simp] theorem Chip.modLog_keeps_irq (c : Chip) (g : LogState → LogState) : (c.modLog g).irq = c.irq := rfl
@[simp] theorem Chip.modLog_keeps_hart (c : Chip) (g : LogState → LogState) : (c.modLog g).hart = c.hart := rfl
@[simp] theorem Chip.modLog_keeps_so (c : Chip) (g : LogState → LogState) : (c.modLog g).so = c.so := rfl
@[simp] theorem Chip.modLog_keeps_mmu (c : Chip) (g : LogState → LogState) : (c.modLog g).mmu = c.mmu := rfl
@[simp] theorem Chip.modLog_keeps_tile (c : Chip) (g : LogState → LogState) : (c.modLog g).tile = c.tile := rfl
@[simp] theorem Chip.modLog_keeps_tmap (c : Chip) (g : LogState → LogState) : (c.modLog g).tmap = c.tmap := rfl
@[simp] theorem Chip.modLog_keeps_cxl (c : Chip) (g : LogState → LogState) : (c.modLog g).cxl = c.cxl := rfl
@[simp] theorem Chip.modLog_keeps_cm (c : Chip) (g : LogState → LogState) : (c.modLog g).cm = c.cm := rfl
@[simp] theorem Chip.modLog_keeps_ctx (c : Chip) (g : LogState → LogState) : (c.modLog g).ctx = c.ctx := rfl
@[simp] theorem Chip.modLog_keeps_fw (c : Chip) (g : LogState → LogState) : (c.modLog g).fw = c.fw := rfl
@[simp] theorem Chip.modLog_keeps_boot (c : Chip) (g : LogState → LogState) : (c.modLog g).boot = c.boot := rfl
@[simp] theorem Chip.modLog_keeps_links (c : Chip) (g : LogState → LogState) : (c.modLog g).links = c.links := rfl
@[simp] theorem Chip.modLog_keeps_cap (c : Chip) (g : LogState → LogState) : (c.modLog g).cap = c.cap := rfl
@[simp] theorem Chip.modLog_keeps_regs (c : Chip) (g : LogState → LogState) : (c.modLog g).regs = c.regs := rfl
@[simp] theorem Chip.modLog_keeps_chan (c : Chip) (g : LogState → LogState) : (c.modLog g).chan = c.chan := rfl
@[simp] theorem Chip.modLog_keeps_ledge (c : Chip) (g : LogState → LogState) : (c.modLog g).ledge = c.ledge := rfl
@[simp] theorem Chip.modLog_keeps_bucket (c : Chip) (g : LogState → LogState) : (c.modLog g).bucket = c.bucket := rfl
@[simp] theorem Chip.modLog_keeps_pcie (c : Chip) (g : LogState → LogState) : (c.modLog g).pcie = c.pcie := rfl
@[simp] theorem Chip.modLog_keeps_fab (c : Chip) (g : LogState → LogState) : (c.modLog g).fab = c.fab := rfl
@[simp] theorem Chip.modLog_keeps_roce (c : Chip) (g : LogState → LogState) : (c.modLog g).roce = c.roce := rfl
@[simp] theorem Chip.modLog_keeps_res (c : Chip) (g : LogState → LogState) : (c.modLog g).res = c.res := rfl
@[simp] theorem Chip.modLog_keeps_pow (c : Chip) (g : LogState → LogState) : (c.modLog g).pow = c.pow := rfl
@[simp] theorem Chip.modLog_keeps_mgmt (c : Chip) (g : LogState → LogState) : (c.modLog g).mgmt = c.mgmt := rfl
@[simp] theorem Chip.modLog_keeps_reply (c : Chip) (g : LogState → LogState) : (c.modLog g).reply = c.reply := rfl
@[simp] theorem Chip.modLog_keeps_free (c : Chip) (g : LogState → LogState) : (c.modLog g).free = c.free := rfl
@[simp] theorem Chip.modMem_mem (c : Chip) (g : Mem → Mem) : (c.modMem g).mem = g c.mem := rfl
@[simp] theorem Chip.modMem_keeps_clk (c : Chip) (g : Mem → Mem) : (c.modMem g).clk = c.clk := rfl
@[simp] theorem Chip.modMem_keeps_log (c : Chip) (g : Mem → Mem) : (c.modMem g).log = c.log := rfl
@[simp] theorem Chip.modMem_keeps_irq (c : Chip) (g : Mem → Mem) : (c.modMem g).irq = c.irq := rfl
@[simp] theorem Chip.modMem_keeps_hart (c : Chip) (g : Mem → Mem) : (c.modMem g).hart = c.hart := rfl
@[simp] theorem Chip.modMem_keeps_so (c : Chip) (g : Mem → Mem) : (c.modMem g).so = c.so := rfl
@[simp] theorem Chip.modMem_keeps_mmu (c : Chip) (g : Mem → Mem) : (c.modMem g).mmu = c.mmu := rfl
@[simp] theorem Chip.modMem_keeps_tile (c : Chip) (g : Mem → Mem) : (c.modMem g).tile = c.tile := rfl
@[simp] theorem Chip.modMem_keeps_tmap (c : Chip) (g : Mem → Mem) : (c.modMem g).tmap = c.tmap := rfl
@[simp] theorem Chip.modMem_keeps_cxl (c : Chip) (g : Mem → Mem) : (c.modMem g).cxl = c.cxl := rfl
@[simp] theorem Chip.modMem_keeps_cm (c : Chip) (g : Mem → Mem) : (c.modMem g).cm = c.cm := rfl
@[simp] theorem Chip.modMem_keeps_ctx (c : Chip) (g : Mem → Mem) : (c.modMem g).ctx = c.ctx := rfl
@[simp] theorem Chip.modMem_keeps_fw (c : Chip) (g : Mem → Mem) : (c.modMem g).fw = c.fw := rfl
@[simp] theorem Chip.modMem_keeps_boot (c : Chip) (g : Mem → Mem) : (c.modMem g).boot = c.boot := rfl
@[simp] theorem Chip.modMem_keeps_links (c : Chip) (g : Mem → Mem) : (c.modMem g).links = c.links := rfl
@[simp] theorem Chip.modMem_keeps_cap (c : Chip) (g : Mem → Mem) : (c.modMem g).cap = c.cap := rfl
@[simp] theorem Chip.modMem_keeps_regs (c : Chip) (g : Mem → Mem) : (c.modMem g).regs = c.regs := rfl
@[simp] theorem Chip.modMem_keeps_chan (c : Chip) (g : Mem → Mem) : (c.modMem g).chan = c.chan := rfl
@[simp] theorem Chip.modMem_keeps_ledge (c : Chip) (g : Mem → Mem) : (c.modMem g).ledge = c.ledge := rfl
@[simp] theorem Chip.modMem_keeps_bucket (c : Chip) (g : Mem → Mem) : (c.modMem g).bucket = c.bucket := rfl
@[simp] theorem Chip.modMem_keeps_pcie (c : Chip) (g : Mem → Mem) : (c.modMem g).pcie = c.pcie := rfl
@[simp] theorem Chip.modMem_keeps_fab (c : Chip) (g : Mem → Mem) : (c.modMem g).fab = c.fab := rfl
@[simp] theorem Chip.modMem_keeps_roce (c : Chip) (g : Mem → Mem) : (c.modMem g).roce = c.roce := rfl
@[simp] theorem Chip.modMem_keeps_res (c : Chip) (g : Mem → Mem) : (c.modMem g).res = c.res := rfl
@[simp] theorem Chip.modMem_keeps_pow (c : Chip) (g : Mem → Mem) : (c.modMem g).pow = c.pow := rfl
@[simp] theorem Chip.modMem_keeps_mgmt (c : Chip) (g : Mem → Mem) : (c.modMem g).mgmt = c.mgmt := rfl
@[simp] theorem Chip.modMem_keeps_reply (c : Chip) (g : Mem → Mem) : (c.modMem g).reply = c.reply := rfl
@[simp] theorem Chip.modMem_keeps_free (c : Chip) (g : Mem → Mem) : (c.modMem g).free = c.free := rfl
@[simp] theorem Chip.modIrq_irq (c : Chip) (g : Irq → Irq) : (c.modIrq g).irq = g c.irq := rfl
@[simp] theorem Chip.modIrq_keeps_clk (c : Chip) (g : Irq → Irq) : (c.modIrq g).clk = c.clk := rfl
@[simp] theorem Chip.modIrq_keeps_log (c : Chip) (g : Irq → Irq) : (c.modIrq g).log = c.log := rfl
@[simp] theorem Chip.modIrq_keeps_mem (c : Chip) (g : Irq → Irq) : (c.modIrq g).mem = c.mem := rfl
@[simp] theorem Chip.modIrq_keeps_hart (c : Chip) (g : Irq → Irq) : (c.modIrq g).hart = c.hart := rfl
@[simp] theorem Chip.modIrq_keeps_so (c : Chip) (g : Irq → Irq) : (c.modIrq g).so = c.so := rfl
@[simp] theorem Chip.modIrq_keeps_mmu (c : Chip) (g : Irq → Irq) : (c.modIrq g).mmu = c.mmu := rfl
@[simp] theorem Chip.modIrq_keeps_tile (c : Chip) (g : Irq → Irq) : (c.modIrq g).tile = c.tile := rfl
@[simp] theorem Chip.modIrq_keeps_tmap (c : Chip) (g : Irq → Irq) : (c.modIrq g).tmap = c.tmap := rfl
@[simp] theorem Chip.modIrq_keeps_cxl (c : Chip) (g : Irq → Irq) : (c.modIrq g).cxl = c.cxl := rfl
@[simp] theorem Chip.modIrq_keeps_cm (c : Chip) (g : Irq → Irq) : (c.modIrq g).cm = c.cm := rfl
@[simp] theorem Chip.modIrq_keeps_ctx (c : Chip) (g : Irq → Irq) : (c.modIrq g).ctx = c.ctx := rfl
@[simp] theorem Chip.modIrq_keeps_fw (c : Chip) (g : Irq → Irq) : (c.modIrq g).fw = c.fw := rfl
@[simp] theorem Chip.modIrq_keeps_boot (c : Chip) (g : Irq → Irq) : (c.modIrq g).boot = c.boot := rfl
@[simp] theorem Chip.modIrq_keeps_links (c : Chip) (g : Irq → Irq) : (c.modIrq g).links = c.links := rfl
@[simp] theorem Chip.modIrq_keeps_cap (c : Chip) (g : Irq → Irq) : (c.modIrq g).cap = c.cap := rfl
@[simp] theorem Chip.modIrq_keeps_regs (c : Chip) (g : Irq → Irq) : (c.modIrq g).regs = c.regs := rfl
@[simp] theorem Chip.modIrq_keeps_chan (c : Chip) (g : Irq → Irq) : (c.modIrq g).chan = c.chan := rfl
@[simp] theorem Chip.modIrq_keeps_ledge (c : Chip) (g : Irq → Irq) : (c.modIrq g).ledge = c.ledge := rfl
@[simp] theorem Chip.modIrq_keeps_bucket (c : Chip) (g : Irq → Irq) : (c.modIrq g).bucket = c.bucket := rfl
@[simp] theorem Chip.modIrq_keeps_pcie (c : Chip) (g : Irq → Irq) : (c.modIrq g).pcie = c.pcie := rfl
@[simp] theorem Chip.modIrq_keeps_fab (c : Chip) (g : Irq → Irq) : (c.modIrq g).fab = c.fab := rfl
@[simp] theorem Chip.modIrq_keeps_roce (c : Chip) (g : Irq → Irq) : (c.modIrq g).roce = c.roce := rfl
@[simp] theorem Chip.modIrq_keeps_res (c : Chip) (g : Irq → Irq) : (c.modIrq g).res = c.res := rfl
@[simp] theorem Chip.modIrq_keeps_pow (c : Chip) (g : Irq → Irq) : (c.modIrq g).pow = c.pow := rfl
@[simp] theorem Chip.modIrq_keeps_mgmt (c : Chip) (g : Irq → Irq) : (c.modIrq g).mgmt = c.mgmt := rfl
@[simp] theorem Chip.modIrq_keeps_reply (c : Chip) (g : Irq → Irq) : (c.modIrq g).reply = c.reply := rfl
@[simp] theorem Chip.modIrq_keeps_free (c : Chip) (g : Irq → Irq) : (c.modIrq g).free = c.free := rfl
@[simp] theorem Chip.modHart_hart (c : Chip) (g : Harts → Harts) : (c.modHart g).hart = g c.hart := rfl
@[simp] theorem Chip.modHart_keeps_clk (c : Chip) (g : Harts → Harts) : (c.modHart g).clk = c.clk := rfl
@[simp] theorem Chip.modHart_keeps_log (c : Chip) (g : Harts → Harts) : (c.modHart g).log = c.log := rfl
@[simp] theorem Chip.modHart_keeps_mem (c : Chip) (g : Harts → Harts) : (c.modHart g).mem = c.mem := rfl
@[simp] theorem Chip.modHart_keeps_irq (c : Chip) (g : Harts → Harts) : (c.modHart g).irq = c.irq := rfl
@[simp] theorem Chip.modHart_keeps_so (c : Chip) (g : Harts → Harts) : (c.modHart g).so = c.so := rfl
@[simp] theorem Chip.modHart_keeps_mmu (c : Chip) (g : Harts → Harts) : (c.modHart g).mmu = c.mmu := rfl
@[simp] theorem Chip.modHart_keeps_tile (c : Chip) (g : Harts → Harts) : (c.modHart g).tile = c.tile := rfl
@[simp] theorem Chip.modHart_keeps_tmap (c : Chip) (g : Harts → Harts) : (c.modHart g).tmap = c.tmap := rfl
@[simp] theorem Chip.modHart_keeps_cxl (c : Chip) (g : Harts → Harts) : (c.modHart g).cxl = c.cxl := rfl
@[simp] theorem Chip.modHart_keeps_cm (c : Chip) (g : Harts → Harts) : (c.modHart g).cm = c.cm := rfl
@[simp] theorem Chip.modHart_keeps_ctx (c : Chip) (g : Harts → Harts) : (c.modHart g).ctx = c.ctx := rfl
@[simp] theorem Chip.modHart_keeps_fw (c : Chip) (g : Harts → Harts) : (c.modHart g).fw = c.fw := rfl
@[simp] theorem Chip.modHart_keeps_boot (c : Chip) (g : Harts → Harts) : (c.modHart g).boot = c.boot := rfl
@[simp] theorem Chip.modHart_keeps_links (c : Chip) (g : Harts → Harts) : (c.modHart g).links = c.links := rfl
@[simp] theorem Chip.modHart_keeps_cap (c : Chip) (g : Harts → Harts) : (c.modHart g).cap = c.cap := rfl
@[simp] theorem Chip.modHart_keeps_regs (c : Chip) (g : Harts → Harts) : (c.modHart g).regs = c.regs := rfl
@[simp] theorem Chip.modHart_keeps_chan (c : Chip) (g : Harts → Harts) : (c.modHart g).chan = c.chan := rfl
@[simp] theorem Chip.modHart_keeps_ledge (c : Chip) (g : Harts → Harts) : (c.modHart g).ledge = c.ledge := rfl
@[simp] theorem Chip.modHart_keeps_bucket (c : Chip) (g : Harts → Harts) : (c.modHart g).bucket = c.bucket := rfl
@[simp] theorem Chip.modHart_keeps_pcie (c : Chip) (g : Harts → Harts) : (c.modHart g).pcie = c.pcie := rfl
@[simp] theorem Chip.modHart_keeps_fab (c : Chip) (g : Harts → Harts) : (c.modHart g).fab = c.fab := rfl
@[simp] theorem Chip.modHart_keeps_roce (c : Chip) (g : Harts → Harts) : (c.modHart g).roce = c.roce := rfl
@[simp] theorem Chip.modHart_keeps_res (c : Chip) (g : Harts → Harts) : (c.modHart g).res = c.res := rfl
@[simp] theorem Chip.modHart_keeps_pow (c : Chip) (g : Harts → Harts) : (c.modHart g).pow = c.pow := rfl
@[simp] theorem Chip.modHart_keeps_mgmt (c : Chip) (g : Harts → Harts) : (c.modHart g).mgmt = c.mgmt := rfl
@[simp] theorem Chip.modHart_keeps_reply (c : Chip) (g : Harts → Harts) : (c.modHart g).reply = c.reply := rfl
@[simp] theorem Chip.modHart_keeps_free (c : Chip) (g : Harts → Harts) : (c.modHart g).free = c.free := rfl
@[simp] theorem Chip.modSo_so (c : Chip) (g : SoState → SoState) : (c.modSo g).so = g c.so := rfl
@[simp] theorem Chip.modSo_keeps_clk (c : Chip) (g : SoState → SoState) : (c.modSo g).clk = c.clk := rfl
@[simp] theorem Chip.modSo_keeps_log (c : Chip) (g : SoState → SoState) : (c.modSo g).log = c.log := rfl
@[simp] theorem Chip.modSo_keeps_mem (c : Chip) (g : SoState → SoState) : (c.modSo g).mem = c.mem := rfl
@[simp] theorem Chip.modSo_keeps_irq (c : Chip) (g : SoState → SoState) : (c.modSo g).irq = c.irq := rfl
@[simp] theorem Chip.modSo_keeps_hart (c : Chip) (g : SoState → SoState) : (c.modSo g).hart = c.hart := rfl
@[simp] theorem Chip.modSo_keeps_mmu (c : Chip) (g : SoState → SoState) : (c.modSo g).mmu = c.mmu := rfl
@[simp] theorem Chip.modSo_keeps_tile (c : Chip) (g : SoState → SoState) : (c.modSo g).tile = c.tile := rfl
@[simp] theorem Chip.modSo_keeps_tmap (c : Chip) (g : SoState → SoState) : (c.modSo g).tmap = c.tmap := rfl
@[simp] theorem Chip.modSo_keeps_cxl (c : Chip) (g : SoState → SoState) : (c.modSo g).cxl = c.cxl := rfl
@[simp] theorem Chip.modSo_keeps_cm (c : Chip) (g : SoState → SoState) : (c.modSo g).cm = c.cm := rfl
@[simp] theorem Chip.modSo_keeps_ctx (c : Chip) (g : SoState → SoState) : (c.modSo g).ctx = c.ctx := rfl
@[simp] theorem Chip.modSo_keeps_fw (c : Chip) (g : SoState → SoState) : (c.modSo g).fw = c.fw := rfl
@[simp] theorem Chip.modSo_keeps_boot (c : Chip) (g : SoState → SoState) : (c.modSo g).boot = c.boot := rfl
@[simp] theorem Chip.modSo_keeps_links (c : Chip) (g : SoState → SoState) : (c.modSo g).links = c.links := rfl
@[simp] theorem Chip.modSo_keeps_cap (c : Chip) (g : SoState → SoState) : (c.modSo g).cap = c.cap := rfl
@[simp] theorem Chip.modSo_keeps_regs (c : Chip) (g : SoState → SoState) : (c.modSo g).regs = c.regs := rfl
@[simp] theorem Chip.modSo_keeps_chan (c : Chip) (g : SoState → SoState) : (c.modSo g).chan = c.chan := rfl
@[simp] theorem Chip.modSo_keeps_ledge (c : Chip) (g : SoState → SoState) : (c.modSo g).ledge = c.ledge := rfl
@[simp] theorem Chip.modSo_keeps_bucket (c : Chip) (g : SoState → SoState) : (c.modSo g).bucket = c.bucket := rfl
@[simp] theorem Chip.modSo_keeps_pcie (c : Chip) (g : SoState → SoState) : (c.modSo g).pcie = c.pcie := rfl
@[simp] theorem Chip.modSo_keeps_fab (c : Chip) (g : SoState → SoState) : (c.modSo g).fab = c.fab := rfl
@[simp] theorem Chip.modSo_keeps_roce (c : Chip) (g : SoState → SoState) : (c.modSo g).roce = c.roce := rfl
@[simp] theorem Chip.modSo_keeps_res (c : Chip) (g : SoState → SoState) : (c.modSo g).res = c.res := rfl
@[simp] theorem Chip.modSo_keeps_pow (c : Chip) (g : SoState → SoState) : (c.modSo g).pow = c.pow := rfl
@[simp] theorem Chip.modSo_keeps_mgmt (c : Chip) (g : SoState → SoState) : (c.modSo g).mgmt = c.mgmt := rfl
@[simp] theorem Chip.modSo_keeps_reply (c : Chip) (g : SoState → SoState) : (c.modSo g).reply = c.reply := rfl
@[simp] theorem Chip.modSo_keeps_free (c : Chip) (g : SoState → SoState) : (c.modSo g).free = c.free := rfl
@[simp] theorem Chip.modMmu_mmu (c : Chip) (g : Mmu → Mmu) : (c.modMmu g).mmu = g c.mmu := rfl
@[simp] theorem Chip.modMmu_keeps_clk (c : Chip) (g : Mmu → Mmu) : (c.modMmu g).clk = c.clk := rfl
@[simp] theorem Chip.modMmu_keeps_log (c : Chip) (g : Mmu → Mmu) : (c.modMmu g).log = c.log := rfl
@[simp] theorem Chip.modMmu_keeps_mem (c : Chip) (g : Mmu → Mmu) : (c.modMmu g).mem = c.mem := rfl
@[simp] theorem Chip.modMmu_keeps_irq (c : Chip) (g : Mmu → Mmu) : (c.modMmu g).irq = c.irq := rfl
@[simp] theorem Chip.modMmu_keeps_hart (c : Chip) (g : Mmu → Mmu) : (c.modMmu g).hart = c.hart := rfl
@[simp] theorem Chip.modMmu_keeps_so (c : Chip) (g : Mmu → Mmu) : (c.modMmu g).so = c.so := rfl
@[simp] theorem Chip.modMmu_keeps_tile (c : Chip) (g : Mmu → Mmu) : (c.modMmu g).tile = c.tile := rfl
@[simp] theorem Chip.modMmu_keeps_tmap (c : Chip) (g : Mmu → Mmu) : (c.modMmu g).tmap = c.tmap := rfl
@[simp] theorem Chip.modMmu_keeps_cxl (c : Chip) (g : Mmu → Mmu) : (c.modMmu g).cxl = c.cxl := rfl
@[simp] theorem Chip.modMmu_keeps_cm (c : Chip) (g : Mmu → Mmu) : (c.modMmu g).cm = c.cm := rfl
@[simp] theorem Chip.modMmu_keeps_ctx (c : Chip) (g : Mmu → Mmu) : (c.modMmu g).ctx = c.ctx := rfl
@[simp] theorem Chip.modMmu_keeps_fw (c : Chip) (g : Mmu → Mmu) : (c.modMmu g).fw = c.fw := rfl
@[simp] theorem Chip.modMmu_keeps_boot (c : Chip) (g : Mmu → Mmu) : (c.modMmu g).boot = c.boot := rfl
@[simp] theorem Chip.modMmu_keeps_links (c : Chip) (g : Mmu → Mmu) : (c.modMmu g).links = c.links := rfl
@[simp] theorem Chip.modMmu_keeps_cap (c : Chip) (g : Mmu → Mmu) : (c.modMmu g).cap = c.cap := rfl
@[simp] theorem Chip.modMmu_keeps_regs (c : Chip) (g : Mmu → Mmu) : (c.modMmu g).regs = c.regs := rfl
@[simp] theorem Chip.modMmu_keeps_chan (c : Chip) (g : Mmu → Mmu) : (c.modMmu g).chan = c.chan := rfl
@[simp] theorem Chip.modMmu_keeps_ledge (c : Chip) (g : Mmu → Mmu) : (c.modMmu g).ledge = c.ledge := rfl
@[simp] theorem Chip.modMmu_keeps_bucket (c : Chip) (g : Mmu → Mmu) : (c.modMmu g).bucket = c.bucket := rfl
@[simp] theorem Chip.modMmu_keeps_pcie (c : Chip) (g : Mmu → Mmu) : (c.modMmu g).pcie = c.pcie := rfl
@[simp] theorem Chip.modMmu_keeps_fab (c : Chip) (g : Mmu → Mmu) : (c.modMmu g).fab = c.fab := rfl
@[simp] theorem Chip.modMmu_keeps_roce (c : Chip) (g : Mmu → Mmu) : (c.modMmu g).roce = c.roce := rfl
@[simp] theorem Chip.modMmu_keeps_res (c : Chip) (g : Mmu → Mmu) : (c.modMmu g).res = c.res := rfl
@[simp] theorem Chip.modMmu_keeps_pow (c : Chip) (g : Mmu → Mmu) : (c.modMmu g).pow = c.pow := rfl
@[simp] theorem Chip.modMmu_keeps_mgmt (c : Chip) (g : Mmu → Mmu) : (c.modMmu g).mgmt = c.mgmt := rfl
@[simp] theorem Chip.modMmu_keeps_reply (c : Chip) (g : Mmu → Mmu) : (c.modMmu g).reply = c.reply := rfl
@[simp] theorem Chip.modMmu_keeps_free (c : Chip) (g : Mmu → Mmu) : (c.modMmu g).free = c.free := rfl
@[simp] theorem Chip.modTile_tile (c : Chip) (g : TileTab → TileTab) : (c.modTile g).tile = g c.tile := rfl
@[simp] theorem Chip.modTile_keeps_clk (c : Chip) (g : TileTab → TileTab) : (c.modTile g).clk = c.clk := rfl
@[simp] theorem Chip.modTile_keeps_log (c : Chip) (g : TileTab → TileTab) : (c.modTile g).log = c.log := rfl
@[simp] theorem Chip.modTile_keeps_mem (c : Chip) (g : TileTab → TileTab) : (c.modTile g).mem = c.mem := rfl
@[simp] theorem Chip.modTile_keeps_irq (c : Chip) (g : TileTab → TileTab) : (c.modTile g).irq = c.irq := rfl
@[simp] theorem Chip.modTile_keeps_hart (c : Chip) (g : TileTab → TileTab) : (c.modTile g).hart = c.hart := rfl
@[simp] theorem Chip.modTile_keeps_so (c : Chip) (g : TileTab → TileTab) : (c.modTile g).so = c.so := rfl
@[simp] theorem Chip.modTile_keeps_mmu (c : Chip) (g : TileTab → TileTab) : (c.modTile g).mmu = c.mmu := rfl
@[simp] theorem Chip.modTile_keeps_tmap (c : Chip) (g : TileTab → TileTab) : (c.modTile g).tmap = c.tmap := rfl
@[simp] theorem Chip.modTile_keeps_cxl (c : Chip) (g : TileTab → TileTab) : (c.modTile g).cxl = c.cxl := rfl
@[simp] theorem Chip.modTile_keeps_cm (c : Chip) (g : TileTab → TileTab) : (c.modTile g).cm = c.cm := rfl
@[simp] theorem Chip.modTile_keeps_ctx (c : Chip) (g : TileTab → TileTab) : (c.modTile g).ctx = c.ctx := rfl
@[simp] theorem Chip.modTile_keeps_fw (c : Chip) (g : TileTab → TileTab) : (c.modTile g).fw = c.fw := rfl
@[simp] theorem Chip.modTile_keeps_boot (c : Chip) (g : TileTab → TileTab) : (c.modTile g).boot = c.boot := rfl
@[simp] theorem Chip.modTile_keeps_links (c : Chip) (g : TileTab → TileTab) : (c.modTile g).links = c.links := rfl
@[simp] theorem Chip.modTile_keeps_cap (c : Chip) (g : TileTab → TileTab) : (c.modTile g).cap = c.cap := rfl
@[simp] theorem Chip.modTile_keeps_regs (c : Chip) (g : TileTab → TileTab) : (c.modTile g).regs = c.regs := rfl
@[simp] theorem Chip.modTile_keeps_chan (c : Chip) (g : TileTab → TileTab) : (c.modTile g).chan = c.chan := rfl
@[simp] theorem Chip.modTile_keeps_ledge (c : Chip) (g : TileTab → TileTab) : (c.modTile g).ledge = c.ledge := rfl
@[simp] theorem Chip.modTile_keeps_bucket (c : Chip) (g : TileTab → TileTab) : (c.modTile g).bucket = c.bucket := rfl
@[simp] theorem Chip.modTile_keeps_pcie (c : Chip) (g : TileTab → TileTab) : (c.modTile g).pcie = c.pcie := rfl
@[simp] theorem Chip.modTile_keeps_fab (c : Chip) (g : TileTab → TileTab) : (c.modTile g).fab = c.fab := rfl
@[simp] theorem Chip.modTile_keeps_roce (c : Chip) (g : TileTab → TileTab) : (c.modTile g).roce = c.roce := rfl
@[simp] theorem Chip.modTile_keeps_res (c : Chip) (g : TileTab → TileTab) : (c.modTile g).res = c.res := rfl
@[simp] theorem Chip.modTile_keeps_pow (c : Chip) (g : TileTab → TileTab) : (c.modTile g).pow = c.pow := rfl
@[simp] theorem Chip.modTile_keeps_mgmt (c : Chip) (g : TileTab → TileTab) : (c.modTile g).mgmt = c.mgmt := rfl
@[simp] theorem Chip.modTile_keeps_reply (c : Chip) (g : TileTab → TileTab) : (c.modTile g).reply = c.reply := rfl
@[simp] theorem Chip.modTile_keeps_free (c : Chip) (g : TileTab → TileTab) : (c.modTile g).free = c.free := rfl
@[simp] theorem Chip.modTmap_tmap (c : Chip) (g : TMap → TMap) : (c.modTmap g).tmap = g c.tmap := rfl
@[simp] theorem Chip.modTmap_keeps_clk (c : Chip) (g : TMap → TMap) : (c.modTmap g).clk = c.clk := rfl
@[simp] theorem Chip.modTmap_keeps_log (c : Chip) (g : TMap → TMap) : (c.modTmap g).log = c.log := rfl
@[simp] theorem Chip.modTmap_keeps_mem (c : Chip) (g : TMap → TMap) : (c.modTmap g).mem = c.mem := rfl
@[simp] theorem Chip.modTmap_keeps_irq (c : Chip) (g : TMap → TMap) : (c.modTmap g).irq = c.irq := rfl
@[simp] theorem Chip.modTmap_keeps_hart (c : Chip) (g : TMap → TMap) : (c.modTmap g).hart = c.hart := rfl
@[simp] theorem Chip.modTmap_keeps_so (c : Chip) (g : TMap → TMap) : (c.modTmap g).so = c.so := rfl
@[simp] theorem Chip.modTmap_keeps_mmu (c : Chip) (g : TMap → TMap) : (c.modTmap g).mmu = c.mmu := rfl
@[simp] theorem Chip.modTmap_keeps_tile (c : Chip) (g : TMap → TMap) : (c.modTmap g).tile = c.tile := rfl
@[simp] theorem Chip.modTmap_keeps_cxl (c : Chip) (g : TMap → TMap) : (c.modTmap g).cxl = c.cxl := rfl
@[simp] theorem Chip.modTmap_keeps_cm (c : Chip) (g : TMap → TMap) : (c.modTmap g).cm = c.cm := rfl
@[simp] theorem Chip.modTmap_keeps_ctx (c : Chip) (g : TMap → TMap) : (c.modTmap g).ctx = c.ctx := rfl
@[simp] theorem Chip.modTmap_keeps_fw (c : Chip) (g : TMap → TMap) : (c.modTmap g).fw = c.fw := rfl
@[simp] theorem Chip.modTmap_keeps_boot (c : Chip) (g : TMap → TMap) : (c.modTmap g).boot = c.boot := rfl
@[simp] theorem Chip.modTmap_keeps_links (c : Chip) (g : TMap → TMap) : (c.modTmap g).links = c.links := rfl
@[simp] theorem Chip.modTmap_keeps_cap (c : Chip) (g : TMap → TMap) : (c.modTmap g).cap = c.cap := rfl
@[simp] theorem Chip.modTmap_keeps_regs (c : Chip) (g : TMap → TMap) : (c.modTmap g).regs = c.regs := rfl
@[simp] theorem Chip.modTmap_keeps_chan (c : Chip) (g : TMap → TMap) : (c.modTmap g).chan = c.chan := rfl
@[simp] theorem Chip.modTmap_keeps_ledge (c : Chip) (g : TMap → TMap) : (c.modTmap g).ledge = c.ledge := rfl
@[simp] theorem Chip.modTmap_keeps_bucket (c : Chip) (g : TMap → TMap) : (c.modTmap g).bucket = c.bucket := rfl
@[simp] theorem Chip.modTmap_keeps_pcie (c : Chip) (g : TMap → TMap) : (c.modTmap g).pcie = c.pcie := rfl
@[simp] theorem Chip.modTmap_keeps_fab (c : Chip) (g : TMap → TMap) : (c.modTmap g).fab = c.fab := rfl
@[simp] theorem Chip.modTmap_keeps_roce (c : Chip) (g : TMap → TMap) : (c.modTmap g).roce = c.roce := rfl
@[simp] theorem Chip.modTmap_keeps_res (c : Chip) (g : TMap → TMap) : (c.modTmap g).res = c.res := rfl
@[simp] theorem Chip.modTmap_keeps_pow (c : Chip) (g : TMap → TMap) : (c.modTmap g).pow = c.pow := rfl
@[simp] theorem Chip.modTmap_keeps_mgmt (c : Chip) (g : TMap → TMap) : (c.modTmap g).mgmt = c.mgmt := rfl
@[simp] theorem Chip.modTmap_keeps_reply (c : Chip) (g : TMap → TMap) : (c.modTmap g).reply = c.reply := rfl
@[simp] theorem Chip.modTmap_keeps_free (c : Chip) (g : TMap → TMap) : (c.modTmap g).free = c.free := rfl
@[simp] theorem Chip.modCxl_cxl (c : Chip) (g : Cxl → Cxl) : (c.modCxl g).cxl = g c.cxl := rfl
@[simp] theorem Chip.modCxl_keeps_clk (c : Chip) (g : Cxl → Cxl) : (c.modCxl g).clk = c.clk := rfl
@[simp] theorem Chip.modCxl_keeps_log (c : Chip) (g : Cxl → Cxl) : (c.modCxl g).log = c.log := rfl
@[simp] theorem Chip.modCxl_keeps_mem (c : Chip) (g : Cxl → Cxl) : (c.modCxl g).mem = c.mem := rfl
@[simp] theorem Chip.modCxl_keeps_irq (c : Chip) (g : Cxl → Cxl) : (c.modCxl g).irq = c.irq := rfl
@[simp] theorem Chip.modCxl_keeps_hart (c : Chip) (g : Cxl → Cxl) : (c.modCxl g).hart = c.hart := rfl
@[simp] theorem Chip.modCxl_keeps_so (c : Chip) (g : Cxl → Cxl) : (c.modCxl g).so = c.so := rfl
@[simp] theorem Chip.modCxl_keeps_mmu (c : Chip) (g : Cxl → Cxl) : (c.modCxl g).mmu = c.mmu := rfl
@[simp] theorem Chip.modCxl_keeps_tile (c : Chip) (g : Cxl → Cxl) : (c.modCxl g).tile = c.tile := rfl
@[simp] theorem Chip.modCxl_keeps_tmap (c : Chip) (g : Cxl → Cxl) : (c.modCxl g).tmap = c.tmap := rfl
@[simp] theorem Chip.modCxl_keeps_cm (c : Chip) (g : Cxl → Cxl) : (c.modCxl g).cm = c.cm := rfl
@[simp] theorem Chip.modCxl_keeps_ctx (c : Chip) (g : Cxl → Cxl) : (c.modCxl g).ctx = c.ctx := rfl
@[simp] theorem Chip.modCxl_keeps_fw (c : Chip) (g : Cxl → Cxl) : (c.modCxl g).fw = c.fw := rfl
@[simp] theorem Chip.modCxl_keeps_boot (c : Chip) (g : Cxl → Cxl) : (c.modCxl g).boot = c.boot := rfl
@[simp] theorem Chip.modCxl_keeps_links (c : Chip) (g : Cxl → Cxl) : (c.modCxl g).links = c.links := rfl
@[simp] theorem Chip.modCxl_keeps_cap (c : Chip) (g : Cxl → Cxl) : (c.modCxl g).cap = c.cap := rfl
@[simp] theorem Chip.modCxl_keeps_regs (c : Chip) (g : Cxl → Cxl) : (c.modCxl g).regs = c.regs := rfl
@[simp] theorem Chip.modCxl_keeps_chan (c : Chip) (g : Cxl → Cxl) : (c.modCxl g).chan = c.chan := rfl
@[simp] theorem Chip.modCxl_keeps_ledge (c : Chip) (g : Cxl → Cxl) : (c.modCxl g).ledge = c.ledge := rfl
@[simp] theorem Chip.modCxl_keeps_bucket (c : Chip) (g : Cxl → Cxl) : (c.modCxl g).bucket = c.bucket := rfl
@[simp] theorem Chip.modCxl_keeps_pcie (c : Chip) (g : Cxl → Cxl) : (c.modCxl g).pcie = c.pcie := rfl
@[simp] theorem Chip.modCxl_keeps_fab (c : Chip) (g : Cxl → Cxl) : (c.modCxl g).fab = c.fab := rfl
@[simp] theorem Chip.modCxl_keeps_roce (c : Chip) (g : Cxl → Cxl) : (c.modCxl g).roce = c.roce := rfl
@[simp] theorem Chip.modCxl_keeps_res (c : Chip) (g : Cxl → Cxl) : (c.modCxl g).res = c.res := rfl
@[simp] theorem Chip.modCxl_keeps_pow (c : Chip) (g : Cxl → Cxl) : (c.modCxl g).pow = c.pow := rfl
@[simp] theorem Chip.modCxl_keeps_mgmt (c : Chip) (g : Cxl → Cxl) : (c.modCxl g).mgmt = c.mgmt := rfl
@[simp] theorem Chip.modCxl_keeps_reply (c : Chip) (g : Cxl → Cxl) : (c.modCxl g).reply = c.reply := rfl
@[simp] theorem Chip.modCxl_keeps_free (c : Chip) (g : Cxl → Cxl) : (c.modCxl g).free = c.free := rfl
@[simp] theorem Chip.modCm_cm (c : Chip) (g : Cm → Cm) : (c.modCm g).cm = g c.cm := rfl
@[simp] theorem Chip.modCm_keeps_clk (c : Chip) (g : Cm → Cm) : (c.modCm g).clk = c.clk := rfl
@[simp] theorem Chip.modCm_keeps_log (c : Chip) (g : Cm → Cm) : (c.modCm g).log = c.log := rfl
@[simp] theorem Chip.modCm_keeps_mem (c : Chip) (g : Cm → Cm) : (c.modCm g).mem = c.mem := rfl
@[simp] theorem Chip.modCm_keeps_irq (c : Chip) (g : Cm → Cm) : (c.modCm g).irq = c.irq := rfl
@[simp] theorem Chip.modCm_keeps_hart (c : Chip) (g : Cm → Cm) : (c.modCm g).hart = c.hart := rfl
@[simp] theorem Chip.modCm_keeps_so (c : Chip) (g : Cm → Cm) : (c.modCm g).so = c.so := rfl
@[simp] theorem Chip.modCm_keeps_mmu (c : Chip) (g : Cm → Cm) : (c.modCm g).mmu = c.mmu := rfl
@[simp] theorem Chip.modCm_keeps_tile (c : Chip) (g : Cm → Cm) : (c.modCm g).tile = c.tile := rfl
@[simp] theorem Chip.modCm_keeps_tmap (c : Chip) (g : Cm → Cm) : (c.modCm g).tmap = c.tmap := rfl
@[simp] theorem Chip.modCm_keeps_cxl (c : Chip) (g : Cm → Cm) : (c.modCm g).cxl = c.cxl := rfl
@[simp] theorem Chip.modCm_keeps_ctx (c : Chip) (g : Cm → Cm) : (c.modCm g).ctx = c.ctx := rfl
@[simp] theorem Chip.modCm_keeps_fw (c : Chip) (g : Cm → Cm) : (c.modCm g).fw = c.fw := rfl
@[simp] theorem Chip.modCm_keeps_boot (c : Chip) (g : Cm → Cm) : (c.modCm g).boot = c.boot := rfl
@[simp] theorem Chip.modCm_keeps_links (c : Chip) (g : Cm → Cm) : (c.modCm g).links = c.links := rfl
@[simp] theorem Chip.modCm_keeps_cap (c : Chip) (g : Cm → Cm) : (c.modCm g).cap = c.cap := rfl
@[simp] theorem Chip.modCm_keeps_regs (c : Chip) (g : Cm → Cm) : (c.modCm g).regs = c.regs := rfl
@[simp] theorem Chip.modCm_keeps_chan (c : Chip) (g : Cm → Cm) : (c.modCm g).chan = c.chan := rfl
@[simp] theorem Chip.modCm_keeps_ledge (c : Chip) (g : Cm → Cm) : (c.modCm g).ledge = c.ledge := rfl
@[simp] theorem Chip.modCm_keeps_bucket (c : Chip) (g : Cm → Cm) : (c.modCm g).bucket = c.bucket := rfl
@[simp] theorem Chip.modCm_keeps_pcie (c : Chip) (g : Cm → Cm) : (c.modCm g).pcie = c.pcie := rfl
@[simp] theorem Chip.modCm_keeps_fab (c : Chip) (g : Cm → Cm) : (c.modCm g).fab = c.fab := rfl
@[simp] theorem Chip.modCm_keeps_roce (c : Chip) (g : Cm → Cm) : (c.modCm g).roce = c.roce := rfl
@[simp] theorem Chip.modCm_keeps_res (c : Chip) (g : Cm → Cm) : (c.modCm g).res = c.res := rfl
@[simp] theorem Chip.modCm_keeps_pow (c : Chip) (g : Cm → Cm) : (c.modCm g).pow = c.pow := rfl
@[simp] theorem Chip.modCm_keeps_mgmt (c : Chip) (g : Cm → Cm) : (c.modCm g).mgmt = c.mgmt := rfl
@[simp] theorem Chip.modCm_keeps_reply (c : Chip) (g : Cm → Cm) : (c.modCm g).reply = c.reply := rfl
@[simp] theorem Chip.modCm_keeps_free (c : Chip) (g : Cm → Cm) : (c.modCm g).free = c.free := rfl
@[simp] theorem Chip.modCtx_ctx (c : Chip) (g : CtxTab → CtxTab) : (c.modCtx g).ctx = g c.ctx := rfl
@[simp] theorem Chip.modCtx_keeps_clk (c : Chip) (g : CtxTab → CtxTab) : (c.modCtx g).clk = c.clk := rfl
@[simp] theorem Chip.modCtx_keeps_log (c : Chip) (g : CtxTab → CtxTab) : (c.modCtx g).log = c.log := rfl
@[simp] theorem Chip.modCtx_keeps_mem (c : Chip) (g : CtxTab → CtxTab) : (c.modCtx g).mem = c.mem := rfl
@[simp] theorem Chip.modCtx_keeps_irq (c : Chip) (g : CtxTab → CtxTab) : (c.modCtx g).irq = c.irq := rfl
@[simp] theorem Chip.modCtx_keeps_hart (c : Chip) (g : CtxTab → CtxTab) : (c.modCtx g).hart = c.hart := rfl
@[simp] theorem Chip.modCtx_keeps_so (c : Chip) (g : CtxTab → CtxTab) : (c.modCtx g).so = c.so := rfl
@[simp] theorem Chip.modCtx_keeps_mmu (c : Chip) (g : CtxTab → CtxTab) : (c.modCtx g).mmu = c.mmu := rfl
@[simp] theorem Chip.modCtx_keeps_tile (c : Chip) (g : CtxTab → CtxTab) : (c.modCtx g).tile = c.tile := rfl
@[simp] theorem Chip.modCtx_keeps_tmap (c : Chip) (g : CtxTab → CtxTab) : (c.modCtx g).tmap = c.tmap := rfl
@[simp] theorem Chip.modCtx_keeps_cxl (c : Chip) (g : CtxTab → CtxTab) : (c.modCtx g).cxl = c.cxl := rfl
@[simp] theorem Chip.modCtx_keeps_cm (c : Chip) (g : CtxTab → CtxTab) : (c.modCtx g).cm = c.cm := rfl
@[simp] theorem Chip.modCtx_keeps_fw (c : Chip) (g : CtxTab → CtxTab) : (c.modCtx g).fw = c.fw := rfl
@[simp] theorem Chip.modCtx_keeps_boot (c : Chip) (g : CtxTab → CtxTab) : (c.modCtx g).boot = c.boot := rfl
@[simp] theorem Chip.modCtx_keeps_links (c : Chip) (g : CtxTab → CtxTab) : (c.modCtx g).links = c.links := rfl
@[simp] theorem Chip.modCtx_keeps_cap (c : Chip) (g : CtxTab → CtxTab) : (c.modCtx g).cap = c.cap := rfl
@[simp] theorem Chip.modCtx_keeps_regs (c : Chip) (g : CtxTab → CtxTab) : (c.modCtx g).regs = c.regs := rfl
@[simp] theorem Chip.modCtx_keeps_chan (c : Chip) (g : CtxTab → CtxTab) : (c.modCtx g).chan = c.chan := rfl
@[simp] theorem Chip.modCtx_keeps_ledge (c : Chip) (g : CtxTab → CtxTab) : (c.modCtx g).ledge = c.ledge := rfl
@[simp] theorem Chip.modCtx_keeps_bucket (c : Chip) (g : CtxTab → CtxTab) : (c.modCtx g).bucket = c.bucket := rfl
@[simp] theorem Chip.modCtx_keeps_pcie (c : Chip) (g : CtxTab → CtxTab) : (c.modCtx g).pcie = c.pcie := rfl
@[simp] theorem Chip.modCtx_keeps_fab (c : Chip) (g : CtxTab → CtxTab) : (c.modCtx g).fab = c.fab := rfl
@[simp] theorem Chip.modCtx_keeps_roce (c : Chip) (g : CtxTab → CtxTab) : (c.modCtx g).roce = c.roce := rfl
@[simp] theorem Chip.modCtx_keeps_res (c : Chip) (g : CtxTab → CtxTab) : (c.modCtx g).res = c.res := rfl
@[simp] theorem Chip.modCtx_keeps_pow (c : Chip) (g : CtxTab → CtxTab) : (c.modCtx g).pow = c.pow := rfl
@[simp] theorem Chip.modCtx_keeps_mgmt (c : Chip) (g : CtxTab → CtxTab) : (c.modCtx g).mgmt = c.mgmt := rfl
@[simp] theorem Chip.modCtx_keeps_reply (c : Chip) (g : CtxTab → CtxTab) : (c.modCtx g).reply = c.reply := rfl
@[simp] theorem Chip.modCtx_keeps_free (c : Chip) (g : CtxTab → CtxTab) : (c.modCtx g).free = c.free := rfl
@[simp] theorem Chip.modFw_fw (c : Chip) (g : Fw → Fw) : (c.modFw g).fw = g c.fw := rfl
@[simp] theorem Chip.modFw_keeps_clk (c : Chip) (g : Fw → Fw) : (c.modFw g).clk = c.clk := rfl
@[simp] theorem Chip.modFw_keeps_log (c : Chip) (g : Fw → Fw) : (c.modFw g).log = c.log := rfl
@[simp] theorem Chip.modFw_keeps_mem (c : Chip) (g : Fw → Fw) : (c.modFw g).mem = c.mem := rfl
@[simp] theorem Chip.modFw_keeps_irq (c : Chip) (g : Fw → Fw) : (c.modFw g).irq = c.irq := rfl
@[simp] theorem Chip.modFw_keeps_hart (c : Chip) (g : Fw → Fw) : (c.modFw g).hart = c.hart := rfl
@[simp] theorem Chip.modFw_keeps_so (c : Chip) (g : Fw → Fw) : (c.modFw g).so = c.so := rfl
@[simp] theorem Chip.modFw_keeps_mmu (c : Chip) (g : Fw → Fw) : (c.modFw g).mmu = c.mmu := rfl
@[simp] theorem Chip.modFw_keeps_tile (c : Chip) (g : Fw → Fw) : (c.modFw g).tile = c.tile := rfl
@[simp] theorem Chip.modFw_keeps_tmap (c : Chip) (g : Fw → Fw) : (c.modFw g).tmap = c.tmap := rfl
@[simp] theorem Chip.modFw_keeps_cxl (c : Chip) (g : Fw → Fw) : (c.modFw g).cxl = c.cxl := rfl
@[simp] theorem Chip.modFw_keeps_cm (c : Chip) (g : Fw → Fw) : (c.modFw g).cm = c.cm := rfl
@[simp] theorem Chip.modFw_keeps_ctx (c : Chip) (g : Fw → Fw) : (c.modFw g).ctx = c.ctx := rfl
@[simp] theorem Chip.modFw_keeps_boot (c : Chip) (g : Fw → Fw) : (c.modFw g).boot = c.boot := rfl
@[simp] theorem Chip.modFw_keeps_links (c : Chip) (g : Fw → Fw) : (c.modFw g).links = c.links := rfl
@[simp] theorem Chip.modFw_keeps_cap (c : Chip) (g : Fw → Fw) : (c.modFw g).cap = c.cap := rfl
@[simp] theorem Chip.modFw_keeps_regs (c : Chip) (g : Fw → Fw) : (c.modFw g).regs = c.regs := rfl
@[simp] theorem Chip.modFw_keeps_chan (c : Chip) (g : Fw → Fw) : (c.modFw g).chan = c.chan := rfl
@[simp] theorem Chip.modFw_keeps_ledge (c : Chip) (g : Fw → Fw) : (c.modFw g).ledge = c.ledge := rfl
@[simp] theorem Chip.modFw_keeps_bucket (c : Chip) (g : Fw → Fw) : (c.modFw g).bucket = c.bucket := rfl
@[simp] theorem Chip.modFw_keeps_pcie (c : Chip) (g : Fw → Fw) : (c.modFw g).pcie = c.pcie := rfl
@[simp] theorem Chip.modFw_keeps_fab (c : Chip) (g : Fw → Fw) : (c.modFw g).fab = c.fab := rfl
@[simp] theorem Chip.modFw_keeps_roce (c : Chip) (g : Fw → Fw) : (c.modFw g).roce = c.roce := rfl
@[simp] theorem Chip.modFw_keeps_res (c : Chip) (g : Fw → Fw) : (c.modFw g).res = c.res := rfl
@[simp] theorem Chip.modFw_keeps_pow (c : Chip) (g : Fw → Fw) : (c.modFw g).pow = c.pow := rfl
@[simp] theorem Chip.modFw_keeps_mgmt (c : Chip) (g : Fw → Fw) : (c.modFw g).mgmt = c.mgmt := rfl
@[simp] theorem Chip.modFw_keeps_reply (c : Chip) (g : Fw → Fw) : (c.modFw g).reply = c.reply := rfl
@[simp] theorem Chip.modFw_keeps_free (c : Chip) (g : Fw → Fw) : (c.modFw g).free = c.free := rfl
@[simp] theorem Chip.modBoot_boot (c : Chip) (g : Boot → Boot) : (c.modBoot g).boot = g c.boot := rfl
@[simp] theorem Chip.modBoot_keeps_clk (c : Chip) (g : Boot → Boot) : (c.modBoot g).clk = c.clk := rfl
@[simp] theorem Chip.modBoot_keeps_log (c : Chip) (g : Boot → Boot) : (c.modBoot g).log = c.log := rfl
@[simp] theorem Chip.modBoot_keeps_mem (c : Chip) (g : Boot → Boot) : (c.modBoot g).mem = c.mem := rfl
@[simp] theorem Chip.modBoot_keeps_irq (c : Chip) (g : Boot → Boot) : (c.modBoot g).irq = c.irq := rfl
@[simp] theorem Chip.modBoot_keeps_hart (c : Chip) (g : Boot → Boot) : (c.modBoot g).hart = c.hart := rfl
@[simp] theorem Chip.modBoot_keeps_so (c : Chip) (g : Boot → Boot) : (c.modBoot g).so = c.so := rfl
@[simp] theorem Chip.modBoot_keeps_mmu (c : Chip) (g : Boot → Boot) : (c.modBoot g).mmu = c.mmu := rfl
@[simp] theorem Chip.modBoot_keeps_tile (c : Chip) (g : Boot → Boot) : (c.modBoot g).tile = c.tile := rfl
@[simp] theorem Chip.modBoot_keeps_tmap (c : Chip) (g : Boot → Boot) : (c.modBoot g).tmap = c.tmap := rfl
@[simp] theorem Chip.modBoot_keeps_cxl (c : Chip) (g : Boot → Boot) : (c.modBoot g).cxl = c.cxl := rfl
@[simp] theorem Chip.modBoot_keeps_cm (c : Chip) (g : Boot → Boot) : (c.modBoot g).cm = c.cm := rfl
@[simp] theorem Chip.modBoot_keeps_ctx (c : Chip) (g : Boot → Boot) : (c.modBoot g).ctx = c.ctx := rfl
@[simp] theorem Chip.modBoot_keeps_fw (c : Chip) (g : Boot → Boot) : (c.modBoot g).fw = c.fw := rfl
@[simp] theorem Chip.modBoot_keeps_links (c : Chip) (g : Boot → Boot) : (c.modBoot g).links = c.links := rfl
@[simp] theorem Chip.modBoot_keeps_cap (c : Chip) (g : Boot → Boot) : (c.modBoot g).cap = c.cap := rfl
@[simp] theorem Chip.modBoot_keeps_regs (c : Chip) (g : Boot → Boot) : (c.modBoot g).regs = c.regs := rfl
@[simp] theorem Chip.modBoot_keeps_chan (c : Chip) (g : Boot → Boot) : (c.modBoot g).chan = c.chan := rfl
@[simp] theorem Chip.modBoot_keeps_ledge (c : Chip) (g : Boot → Boot) : (c.modBoot g).ledge = c.ledge := rfl
@[simp] theorem Chip.modBoot_keeps_bucket (c : Chip) (g : Boot → Boot) : (c.modBoot g).bucket = c.bucket := rfl
@[simp] theorem Chip.modBoot_keeps_pcie (c : Chip) (g : Boot → Boot) : (c.modBoot g).pcie = c.pcie := rfl
@[simp] theorem Chip.modBoot_keeps_fab (c : Chip) (g : Boot → Boot) : (c.modBoot g).fab = c.fab := rfl
@[simp] theorem Chip.modBoot_keeps_roce (c : Chip) (g : Boot → Boot) : (c.modBoot g).roce = c.roce := rfl
@[simp] theorem Chip.modBoot_keeps_res (c : Chip) (g : Boot → Boot) : (c.modBoot g).res = c.res := rfl
@[simp] theorem Chip.modBoot_keeps_pow (c : Chip) (g : Boot → Boot) : (c.modBoot g).pow = c.pow := rfl
@[simp] theorem Chip.modBoot_keeps_mgmt (c : Chip) (g : Boot → Boot) : (c.modBoot g).mgmt = c.mgmt := rfl
@[simp] theorem Chip.modBoot_keeps_reply (c : Chip) (g : Boot → Boot) : (c.modBoot g).reply = c.reply := rfl
@[simp] theorem Chip.modBoot_keeps_free (c : Chip) (g : Boot → Boot) : (c.modBoot g).free = c.free := rfl
@[simp] theorem Chip.modLinks_links (c : Chip) (g : Links → Links) : (c.modLinks g).links = g c.links := rfl
@[simp] theorem Chip.modLinks_keeps_clk (c : Chip) (g : Links → Links) : (c.modLinks g).clk = c.clk := rfl
@[simp] theorem Chip.modLinks_keeps_log (c : Chip) (g : Links → Links) : (c.modLinks g).log = c.log := rfl
@[simp] theorem Chip.modLinks_keeps_mem (c : Chip) (g : Links → Links) : (c.modLinks g).mem = c.mem := rfl
@[simp] theorem Chip.modLinks_keeps_irq (c : Chip) (g : Links → Links) : (c.modLinks g).irq = c.irq := rfl
@[simp] theorem Chip.modLinks_keeps_hart (c : Chip) (g : Links → Links) : (c.modLinks g).hart = c.hart := rfl
@[simp] theorem Chip.modLinks_keeps_so (c : Chip) (g : Links → Links) : (c.modLinks g).so = c.so := rfl
@[simp] theorem Chip.modLinks_keeps_mmu (c : Chip) (g : Links → Links) : (c.modLinks g).mmu = c.mmu := rfl
@[simp] theorem Chip.modLinks_keeps_tile (c : Chip) (g : Links → Links) : (c.modLinks g).tile = c.tile := rfl
@[simp] theorem Chip.modLinks_keeps_tmap (c : Chip) (g : Links → Links) : (c.modLinks g).tmap = c.tmap := rfl
@[simp] theorem Chip.modLinks_keeps_cxl (c : Chip) (g : Links → Links) : (c.modLinks g).cxl = c.cxl := rfl
@[simp] theorem Chip.modLinks_keeps_cm (c : Chip) (g : Links → Links) : (c.modLinks g).cm = c.cm := rfl
@[simp] theorem Chip.modLinks_keeps_ctx (c : Chip) (g : Links → Links) : (c.modLinks g).ctx = c.ctx := rfl
@[simp] theorem Chip.modLinks_keeps_fw (c : Chip) (g : Links → Links) : (c.modLinks g).fw = c.fw := rfl
@[simp] theorem Chip.modLinks_keeps_boot (c : Chip) (g : Links → Links) : (c.modLinks g).boot = c.boot := rfl
@[simp] theorem Chip.modLinks_keeps_cap (c : Chip) (g : Links → Links) : (c.modLinks g).cap = c.cap := rfl
@[simp] theorem Chip.modLinks_keeps_regs (c : Chip) (g : Links → Links) : (c.modLinks g).regs = c.regs := rfl
@[simp] theorem Chip.modLinks_keeps_chan (c : Chip) (g : Links → Links) : (c.modLinks g).chan = c.chan := rfl
@[simp] theorem Chip.modLinks_keeps_ledge (c : Chip) (g : Links → Links) : (c.modLinks g).ledge = c.ledge := rfl
@[simp] theorem Chip.modLinks_keeps_bucket (c : Chip) (g : Links → Links) : (c.modLinks g).bucket = c.bucket := rfl
@[simp] theorem Chip.modLinks_keeps_pcie (c : Chip) (g : Links → Links) : (c.modLinks g).pcie = c.pcie := rfl
@[simp] theorem Chip.modLinks_keeps_fab (c : Chip) (g : Links → Links) : (c.modLinks g).fab = c.fab := rfl
@[simp] theorem Chip.modLinks_keeps_roce (c : Chip) (g : Links → Links) : (c.modLinks g).roce = c.roce := rfl
@[simp] theorem Chip.modLinks_keeps_res (c : Chip) (g : Links → Links) : (c.modLinks g).res = c.res := rfl
@[simp] theorem Chip.modLinks_keeps_pow (c : Chip) (g : Links → Links) : (c.modLinks g).pow = c.pow := rfl
@[simp] theorem Chip.modLinks_keeps_mgmt (c : Chip) (g : Links → Links) : (c.modLinks g).mgmt = c.mgmt := rfl
@[simp] theorem Chip.modLinks_keeps_reply (c : Chip) (g : Links → Links) : (c.modLinks g).reply = c.reply := rfl
@[simp] theorem Chip.modLinks_keeps_free (c : Chip) (g : Links → Links) : (c.modLinks g).free = c.free := rfl
@[simp] theorem Chip.modCap_cap (c : Chip) (g : Cap → Cap) : (c.modCap g).cap = g c.cap := rfl
@[simp] theorem Chip.modCap_keeps_clk (c : Chip) (g : Cap → Cap) : (c.modCap g).clk = c.clk := rfl
@[simp] theorem Chip.modCap_keeps_log (c : Chip) (g : Cap → Cap) : (c.modCap g).log = c.log := rfl
@[simp] theorem Chip.modCap_keeps_mem (c : Chip) (g : Cap → Cap) : (c.modCap g).mem = c.mem := rfl
@[simp] theorem Chip.modCap_keeps_irq (c : Chip) (g : Cap → Cap) : (c.modCap g).irq = c.irq := rfl
@[simp] theorem Chip.modCap_keeps_hart (c : Chip) (g : Cap → Cap) : (c.modCap g).hart = c.hart := rfl
@[simp] theorem Chip.modCap_keeps_so (c : Chip) (g : Cap → Cap) : (c.modCap g).so = c.so := rfl
@[simp] theorem Chip.modCap_keeps_mmu (c : Chip) (g : Cap → Cap) : (c.modCap g).mmu = c.mmu := rfl
@[simp] theorem Chip.modCap_keeps_tile (c : Chip) (g : Cap → Cap) : (c.modCap g).tile = c.tile := rfl
@[simp] theorem Chip.modCap_keeps_tmap (c : Chip) (g : Cap → Cap) : (c.modCap g).tmap = c.tmap := rfl
@[simp] theorem Chip.modCap_keeps_cxl (c : Chip) (g : Cap → Cap) : (c.modCap g).cxl = c.cxl := rfl
@[simp] theorem Chip.modCap_keeps_cm (c : Chip) (g : Cap → Cap) : (c.modCap g).cm = c.cm := rfl
@[simp] theorem Chip.modCap_keeps_ctx (c : Chip) (g : Cap → Cap) : (c.modCap g).ctx = c.ctx := rfl
@[simp] theorem Chip.modCap_keeps_fw (c : Chip) (g : Cap → Cap) : (c.modCap g).fw = c.fw := rfl
@[simp] theorem Chip.modCap_keeps_boot (c : Chip) (g : Cap → Cap) : (c.modCap g).boot = c.boot := rfl
@[simp] theorem Chip.modCap_keeps_links (c : Chip) (g : Cap → Cap) : (c.modCap g).links = c.links := rfl
@[simp] theorem Chip.modCap_keeps_regs (c : Chip) (g : Cap → Cap) : (c.modCap g).regs = c.regs := rfl
@[simp] theorem Chip.modCap_keeps_chan (c : Chip) (g : Cap → Cap) : (c.modCap g).chan = c.chan := rfl
@[simp] theorem Chip.modCap_keeps_ledge (c : Chip) (g : Cap → Cap) : (c.modCap g).ledge = c.ledge := rfl
@[simp] theorem Chip.modCap_keeps_bucket (c : Chip) (g : Cap → Cap) : (c.modCap g).bucket = c.bucket := rfl
@[simp] theorem Chip.modCap_keeps_pcie (c : Chip) (g : Cap → Cap) : (c.modCap g).pcie = c.pcie := rfl
@[simp] theorem Chip.modCap_keeps_fab (c : Chip) (g : Cap → Cap) : (c.modCap g).fab = c.fab := rfl
@[simp] theorem Chip.modCap_keeps_roce (c : Chip) (g : Cap → Cap) : (c.modCap g).roce = c.roce := rfl
@[simp] theorem Chip.modCap_keeps_res (c : Chip) (g : Cap → Cap) : (c.modCap g).res = c.res := rfl
@[simp] theorem Chip.modCap_keeps_pow (c : Chip) (g : Cap → Cap) : (c.modCap g).pow = c.pow := rfl
@[simp] theorem Chip.modCap_keeps_mgmt (c : Chip) (g : Cap → Cap) : (c.modCap g).mgmt = c.mgmt := rfl
@[simp] theorem Chip.modCap_keeps_reply (c : Chip) (g : Cap → Cap) : (c.modCap g).reply = c.reply := rfl
@[simp] theorem Chip.modCap_keeps_free (c : Chip) (g : Cap → Cap) : (c.modCap g).free = c.free := rfl
@[simp] theorem Chip.modRegs_regs (c : Chip) (g : RegTab → RegTab) : (c.modRegs g).regs = g c.regs := rfl
@[simp] theorem Chip.modRegs_keeps_clk (c : Chip) (g : RegTab → RegTab) : (c.modRegs g).clk = c.clk := rfl
@[simp] theorem Chip.modRegs_keeps_log (c : Chip) (g : RegTab → RegTab) : (c.modRegs g).log = c.log := rfl
@[simp] theorem Chip.modRegs_keeps_mem (c : Chip) (g : RegTab → RegTab) : (c.modRegs g).mem = c.mem := rfl
@[simp] theorem Chip.modRegs_keeps_irq (c : Chip) (g : RegTab → RegTab) : (c.modRegs g).irq = c.irq := rfl
@[simp] theorem Chip.modRegs_keeps_hart (c : Chip) (g : RegTab → RegTab) : (c.modRegs g).hart = c.hart := rfl
@[simp] theorem Chip.modRegs_keeps_so (c : Chip) (g : RegTab → RegTab) : (c.modRegs g).so = c.so := rfl
@[simp] theorem Chip.modRegs_keeps_mmu (c : Chip) (g : RegTab → RegTab) : (c.modRegs g).mmu = c.mmu := rfl
@[simp] theorem Chip.modRegs_keeps_tile (c : Chip) (g : RegTab → RegTab) : (c.modRegs g).tile = c.tile := rfl
@[simp] theorem Chip.modRegs_keeps_tmap (c : Chip) (g : RegTab → RegTab) : (c.modRegs g).tmap = c.tmap := rfl
@[simp] theorem Chip.modRegs_keeps_cxl (c : Chip) (g : RegTab → RegTab) : (c.modRegs g).cxl = c.cxl := rfl
@[simp] theorem Chip.modRegs_keeps_cm (c : Chip) (g : RegTab → RegTab) : (c.modRegs g).cm = c.cm := rfl
@[simp] theorem Chip.modRegs_keeps_ctx (c : Chip) (g : RegTab → RegTab) : (c.modRegs g).ctx = c.ctx := rfl
@[simp] theorem Chip.modRegs_keeps_fw (c : Chip) (g : RegTab → RegTab) : (c.modRegs g).fw = c.fw := rfl
@[simp] theorem Chip.modRegs_keeps_boot (c : Chip) (g : RegTab → RegTab) : (c.modRegs g).boot = c.boot := rfl
@[simp] theorem Chip.modRegs_keeps_links (c : Chip) (g : RegTab → RegTab) : (c.modRegs g).links = c.links := rfl
@[simp] theorem Chip.modRegs_keeps_cap (c : Chip) (g : RegTab → RegTab) : (c.modRegs g).cap = c.cap := rfl
@[simp] theorem Chip.modRegs_keeps_chan (c : Chip) (g : RegTab → RegTab) : (c.modRegs g).chan = c.chan := rfl
@[simp] theorem Chip.modRegs_keeps_ledge (c : Chip) (g : RegTab → RegTab) : (c.modRegs g).ledge = c.ledge := rfl
@[simp] theorem Chip.modRegs_keeps_bucket (c : Chip) (g : RegTab → RegTab) : (c.modRegs g).bucket = c.bucket := rfl
@[simp] theorem Chip.modRegs_keeps_pcie (c : Chip) (g : RegTab → RegTab) : (c.modRegs g).pcie = c.pcie := rfl
@[simp] theorem Chip.modRegs_keeps_fab (c : Chip) (g : RegTab → RegTab) : (c.modRegs g).fab = c.fab := rfl
@[simp] theorem Chip.modRegs_keeps_roce (c : Chip) (g : RegTab → RegTab) : (c.modRegs g).roce = c.roce := rfl
@[simp] theorem Chip.modRegs_keeps_res (c : Chip) (g : RegTab → RegTab) : (c.modRegs g).res = c.res := rfl
@[simp] theorem Chip.modRegs_keeps_pow (c : Chip) (g : RegTab → RegTab) : (c.modRegs g).pow = c.pow := rfl
@[simp] theorem Chip.modRegs_keeps_mgmt (c : Chip) (g : RegTab → RegTab) : (c.modRegs g).mgmt = c.mgmt := rfl
@[simp] theorem Chip.modRegs_keeps_reply (c : Chip) (g : RegTab → RegTab) : (c.modRegs g).reply = c.reply := rfl
@[simp] theorem Chip.modRegs_keeps_free (c : Chip) (g : RegTab → RegTab) : (c.modRegs g).free = c.free := rfl
@[simp] theorem Chip.modChan_chan (c : Chip) (g : Chans → Chans) : (c.modChan g).chan = g c.chan := rfl
@[simp] theorem Chip.modChan_keeps_clk (c : Chip) (g : Chans → Chans) : (c.modChan g).clk = c.clk := rfl
@[simp] theorem Chip.modChan_keeps_log (c : Chip) (g : Chans → Chans) : (c.modChan g).log = c.log := rfl
@[simp] theorem Chip.modChan_keeps_mem (c : Chip) (g : Chans → Chans) : (c.modChan g).mem = c.mem := rfl
@[simp] theorem Chip.modChan_keeps_irq (c : Chip) (g : Chans → Chans) : (c.modChan g).irq = c.irq := rfl
@[simp] theorem Chip.modChan_keeps_hart (c : Chip) (g : Chans → Chans) : (c.modChan g).hart = c.hart := rfl
@[simp] theorem Chip.modChan_keeps_so (c : Chip) (g : Chans → Chans) : (c.modChan g).so = c.so := rfl
@[simp] theorem Chip.modChan_keeps_mmu (c : Chip) (g : Chans → Chans) : (c.modChan g).mmu = c.mmu := rfl
@[simp] theorem Chip.modChan_keeps_tile (c : Chip) (g : Chans → Chans) : (c.modChan g).tile = c.tile := rfl
@[simp] theorem Chip.modChan_keeps_tmap (c : Chip) (g : Chans → Chans) : (c.modChan g).tmap = c.tmap := rfl
@[simp] theorem Chip.modChan_keeps_cxl (c : Chip) (g : Chans → Chans) : (c.modChan g).cxl = c.cxl := rfl
@[simp] theorem Chip.modChan_keeps_cm (c : Chip) (g : Chans → Chans) : (c.modChan g).cm = c.cm := rfl
@[simp] theorem Chip.modChan_keeps_ctx (c : Chip) (g : Chans → Chans) : (c.modChan g).ctx = c.ctx := rfl
@[simp] theorem Chip.modChan_keeps_fw (c : Chip) (g : Chans → Chans) : (c.modChan g).fw = c.fw := rfl
@[simp] theorem Chip.modChan_keeps_boot (c : Chip) (g : Chans → Chans) : (c.modChan g).boot = c.boot := rfl
@[simp] theorem Chip.modChan_keeps_links (c : Chip) (g : Chans → Chans) : (c.modChan g).links = c.links := rfl
@[simp] theorem Chip.modChan_keeps_cap (c : Chip) (g : Chans → Chans) : (c.modChan g).cap = c.cap := rfl
@[simp] theorem Chip.modChan_keeps_regs (c : Chip) (g : Chans → Chans) : (c.modChan g).regs = c.regs := rfl
@[simp] theorem Chip.modChan_keeps_ledge (c : Chip) (g : Chans → Chans) : (c.modChan g).ledge = c.ledge := rfl
@[simp] theorem Chip.modChan_keeps_bucket (c : Chip) (g : Chans → Chans) : (c.modChan g).bucket = c.bucket := rfl
@[simp] theorem Chip.modChan_keeps_pcie (c : Chip) (g : Chans → Chans) : (c.modChan g).pcie = c.pcie := rfl
@[simp] theorem Chip.modChan_keeps_fab (c : Chip) (g : Chans → Chans) : (c.modChan g).fab = c.fab := rfl
@[simp] theorem Chip.modChan_keeps_roce (c : Chip) (g : Chans → Chans) : (c.modChan g).roce = c.roce := rfl
@[simp] theorem Chip.modChan_keeps_res (c : Chip) (g : Chans → Chans) : (c.modChan g).res = c.res := rfl
@[simp] theorem Chip.modChan_keeps_pow (c : Chip) (g : Chans → Chans) : (c.modChan g).pow = c.pow := rfl
@[simp] theorem Chip.modChan_keeps_mgmt (c : Chip) (g : Chans → Chans) : (c.modChan g).mgmt = c.mgmt := rfl
@[simp] theorem Chip.modChan_keeps_reply (c : Chip) (g : Chans → Chans) : (c.modChan g).reply = c.reply := rfl
@[simp] theorem Chip.modChan_keeps_free (c : Chip) (g : Chans → Chans) : (c.modChan g).free = c.free := rfl
@[simp] theorem Chip.modLedge_ledge (c : Chip) (g : Ledge → Ledge) : (c.modLedge g).ledge = g c.ledge := rfl
@[simp] theorem Chip.modLedge_keeps_clk (c : Chip) (g : Ledge → Ledge) : (c.modLedge g).clk = c.clk := rfl
@[simp] theorem Chip.modLedge_keeps_log (c : Chip) (g : Ledge → Ledge) : (c.modLedge g).log = c.log := rfl
@[simp] theorem Chip.modLedge_keeps_mem (c : Chip) (g : Ledge → Ledge) : (c.modLedge g).mem = c.mem := rfl
@[simp] theorem Chip.modLedge_keeps_irq (c : Chip) (g : Ledge → Ledge) : (c.modLedge g).irq = c.irq := rfl
@[simp] theorem Chip.modLedge_keeps_hart (c : Chip) (g : Ledge → Ledge) : (c.modLedge g).hart = c.hart := rfl
@[simp] theorem Chip.modLedge_keeps_so (c : Chip) (g : Ledge → Ledge) : (c.modLedge g).so = c.so := rfl
@[simp] theorem Chip.modLedge_keeps_mmu (c : Chip) (g : Ledge → Ledge) : (c.modLedge g).mmu = c.mmu := rfl
@[simp] theorem Chip.modLedge_keeps_tile (c : Chip) (g : Ledge → Ledge) : (c.modLedge g).tile = c.tile := rfl
@[simp] theorem Chip.modLedge_keeps_tmap (c : Chip) (g : Ledge → Ledge) : (c.modLedge g).tmap = c.tmap := rfl
@[simp] theorem Chip.modLedge_keeps_cxl (c : Chip) (g : Ledge → Ledge) : (c.modLedge g).cxl = c.cxl := rfl
@[simp] theorem Chip.modLedge_keeps_cm (c : Chip) (g : Ledge → Ledge) : (c.modLedge g).cm = c.cm := rfl
@[simp] theorem Chip.modLedge_keeps_ctx (c : Chip) (g : Ledge → Ledge) : (c.modLedge g).ctx = c.ctx := rfl
@[simp] theorem Chip.modLedge_keeps_fw (c : Chip) (g : Ledge → Ledge) : (c.modLedge g).fw = c.fw := rfl
@[simp] theorem Chip.modLedge_keeps_boot (c : Chip) (g : Ledge → Ledge) : (c.modLedge g).boot = c.boot := rfl
@[simp] theorem Chip.modLedge_keeps_links (c : Chip) (g : Ledge → Ledge) : (c.modLedge g).links = c.links := rfl
@[simp] theorem Chip.modLedge_keeps_cap (c : Chip) (g : Ledge → Ledge) : (c.modLedge g).cap = c.cap := rfl
@[simp] theorem Chip.modLedge_keeps_regs (c : Chip) (g : Ledge → Ledge) : (c.modLedge g).regs = c.regs := rfl
@[simp] theorem Chip.modLedge_keeps_chan (c : Chip) (g : Ledge → Ledge) : (c.modLedge g).chan = c.chan := rfl
@[simp] theorem Chip.modLedge_keeps_bucket (c : Chip) (g : Ledge → Ledge) : (c.modLedge g).bucket = c.bucket := rfl
@[simp] theorem Chip.modLedge_keeps_pcie (c : Chip) (g : Ledge → Ledge) : (c.modLedge g).pcie = c.pcie := rfl
@[simp] theorem Chip.modLedge_keeps_fab (c : Chip) (g : Ledge → Ledge) : (c.modLedge g).fab = c.fab := rfl
@[simp] theorem Chip.modLedge_keeps_roce (c : Chip) (g : Ledge → Ledge) : (c.modLedge g).roce = c.roce := rfl
@[simp] theorem Chip.modLedge_keeps_res (c : Chip) (g : Ledge → Ledge) : (c.modLedge g).res = c.res := rfl
@[simp] theorem Chip.modLedge_keeps_pow (c : Chip) (g : Ledge → Ledge) : (c.modLedge g).pow = c.pow := rfl
@[simp] theorem Chip.modLedge_keeps_mgmt (c : Chip) (g : Ledge → Ledge) : (c.modLedge g).mgmt = c.mgmt := rfl
@[simp] theorem Chip.modLedge_keeps_reply (c : Chip) (g : Ledge → Ledge) : (c.modLedge g).reply = c.reply := rfl
@[simp] theorem Chip.modLedge_keeps_free (c : Chip) (g : Ledge → Ledge) : (c.modLedge g).free = c.free := rfl
@[simp] theorem Chip.modBucket_bucket (c : Chip) (g : Buckets → Buckets) : (c.modBucket g).bucket = g c.bucket := rfl
@[simp] theorem Chip.modBucket_keeps_clk (c : Chip) (g : Buckets → Buckets) : (c.modBucket g).clk = c.clk := rfl
@[simp] theorem Chip.modBucket_keeps_log (c : Chip) (g : Buckets → Buckets) : (c.modBucket g).log = c.log := rfl
@[simp] theorem Chip.modBucket_keeps_mem (c : Chip) (g : Buckets → Buckets) : (c.modBucket g).mem = c.mem := rfl
@[simp] theorem Chip.modBucket_keeps_irq (c : Chip) (g : Buckets → Buckets) : (c.modBucket g).irq = c.irq := rfl
@[simp] theorem Chip.modBucket_keeps_hart (c : Chip) (g : Buckets → Buckets) : (c.modBucket g).hart = c.hart := rfl
@[simp] theorem Chip.modBucket_keeps_so (c : Chip) (g : Buckets → Buckets) : (c.modBucket g).so = c.so := rfl
@[simp] theorem Chip.modBucket_keeps_mmu (c : Chip) (g : Buckets → Buckets) : (c.modBucket g).mmu = c.mmu := rfl
@[simp] theorem Chip.modBucket_keeps_tile (c : Chip) (g : Buckets → Buckets) : (c.modBucket g).tile = c.tile := rfl
@[simp] theorem Chip.modBucket_keeps_tmap (c : Chip) (g : Buckets → Buckets) : (c.modBucket g).tmap = c.tmap := rfl
@[simp] theorem Chip.modBucket_keeps_cxl (c : Chip) (g : Buckets → Buckets) : (c.modBucket g).cxl = c.cxl := rfl
@[simp] theorem Chip.modBucket_keeps_cm (c : Chip) (g : Buckets → Buckets) : (c.modBucket g).cm = c.cm := rfl
@[simp] theorem Chip.modBucket_keeps_ctx (c : Chip) (g : Buckets → Buckets) : (c.modBucket g).ctx = c.ctx := rfl
@[simp] theorem Chip.modBucket_keeps_fw (c : Chip) (g : Buckets → Buckets) : (c.modBucket g).fw = c.fw := rfl
@[simp] theorem Chip.modBucket_keeps_boot (c : Chip) (g : Buckets → Buckets) : (c.modBucket g).boot = c.boot := rfl
@[simp] theorem Chip.modBucket_keeps_links (c : Chip) (g : Buckets → Buckets) : (c.modBucket g).links = c.links := rfl
@[simp] theorem Chip.modBucket_keeps_cap (c : Chip) (g : Buckets → Buckets) : (c.modBucket g).cap = c.cap := rfl
@[simp] theorem Chip.modBucket_keeps_regs (c : Chip) (g : Buckets → Buckets) : (c.modBucket g).regs = c.regs := rfl
@[simp] theorem Chip.modBucket_keeps_chan (c : Chip) (g : Buckets → Buckets) : (c.modBucket g).chan = c.chan := rfl
@[simp] theorem Chip.modBucket_keeps_ledge (c : Chip) (g : Buckets → Buckets) : (c.modBucket g).ledge = c.ledge := rfl
@[simp] theorem Chip.modBucket_keeps_pcie (c : Chip) (g : Buckets → Buckets) : (c.modBucket g).pcie = c.pcie := rfl
@[simp] theorem Chip.modBucket_keeps_fab (c : Chip) (g : Buckets → Buckets) : (c.modBucket g).fab = c.fab := rfl
@[simp] theorem Chip.modBucket_keeps_roce (c : Chip) (g : Buckets → Buckets) : (c.modBucket g).roce = c.roce := rfl
@[simp] theorem Chip.modBucket_keeps_res (c : Chip) (g : Buckets → Buckets) : (c.modBucket g).res = c.res := rfl
@[simp] theorem Chip.modBucket_keeps_pow (c : Chip) (g : Buckets → Buckets) : (c.modBucket g).pow = c.pow := rfl
@[simp] theorem Chip.modBucket_keeps_mgmt (c : Chip) (g : Buckets → Buckets) : (c.modBucket g).mgmt = c.mgmt := rfl
@[simp] theorem Chip.modBucket_keeps_reply (c : Chip) (g : Buckets → Buckets) : (c.modBucket g).reply = c.reply := rfl
@[simp] theorem Chip.modBucket_keeps_free (c : Chip) (g : Buckets → Buckets) : (c.modBucket g).free = c.free := rfl
@[simp] theorem Chip.modPcie_pcie (c : Chip) (g : PcieTab → PcieTab) : (c.modPcie g).pcie = g c.pcie := rfl
@[simp] theorem Chip.modPcie_keeps_clk (c : Chip) (g : PcieTab → PcieTab) : (c.modPcie g).clk = c.clk := rfl
@[simp] theorem Chip.modPcie_keeps_log (c : Chip) (g : PcieTab → PcieTab) : (c.modPcie g).log = c.log := rfl
@[simp] theorem Chip.modPcie_keeps_mem (c : Chip) (g : PcieTab → PcieTab) : (c.modPcie g).mem = c.mem := rfl
@[simp] theorem Chip.modPcie_keeps_irq (c : Chip) (g : PcieTab → PcieTab) : (c.modPcie g).irq = c.irq := rfl
@[simp] theorem Chip.modPcie_keeps_hart (c : Chip) (g : PcieTab → PcieTab) : (c.modPcie g).hart = c.hart := rfl
@[simp] theorem Chip.modPcie_keeps_so (c : Chip) (g : PcieTab → PcieTab) : (c.modPcie g).so = c.so := rfl
@[simp] theorem Chip.modPcie_keeps_mmu (c : Chip) (g : PcieTab → PcieTab) : (c.modPcie g).mmu = c.mmu := rfl
@[simp] theorem Chip.modPcie_keeps_tile (c : Chip) (g : PcieTab → PcieTab) : (c.modPcie g).tile = c.tile := rfl
@[simp] theorem Chip.modPcie_keeps_tmap (c : Chip) (g : PcieTab → PcieTab) : (c.modPcie g).tmap = c.tmap := rfl
@[simp] theorem Chip.modPcie_keeps_cxl (c : Chip) (g : PcieTab → PcieTab) : (c.modPcie g).cxl = c.cxl := rfl
@[simp] theorem Chip.modPcie_keeps_cm (c : Chip) (g : PcieTab → PcieTab) : (c.modPcie g).cm = c.cm := rfl
@[simp] theorem Chip.modPcie_keeps_ctx (c : Chip) (g : PcieTab → PcieTab) : (c.modPcie g).ctx = c.ctx := rfl
@[simp] theorem Chip.modPcie_keeps_fw (c : Chip) (g : PcieTab → PcieTab) : (c.modPcie g).fw = c.fw := rfl
@[simp] theorem Chip.modPcie_keeps_boot (c : Chip) (g : PcieTab → PcieTab) : (c.modPcie g).boot = c.boot := rfl
@[simp] theorem Chip.modPcie_keeps_links (c : Chip) (g : PcieTab → PcieTab) : (c.modPcie g).links = c.links := rfl
@[simp] theorem Chip.modPcie_keeps_cap (c : Chip) (g : PcieTab → PcieTab) : (c.modPcie g).cap = c.cap := rfl
@[simp] theorem Chip.modPcie_keeps_regs (c : Chip) (g : PcieTab → PcieTab) : (c.modPcie g).regs = c.regs := rfl
@[simp] theorem Chip.modPcie_keeps_chan (c : Chip) (g : PcieTab → PcieTab) : (c.modPcie g).chan = c.chan := rfl
@[simp] theorem Chip.modPcie_keeps_ledge (c : Chip) (g : PcieTab → PcieTab) : (c.modPcie g).ledge = c.ledge := rfl
@[simp] theorem Chip.modPcie_keeps_bucket (c : Chip) (g : PcieTab → PcieTab) : (c.modPcie g).bucket = c.bucket := rfl
@[simp] theorem Chip.modPcie_keeps_fab (c : Chip) (g : PcieTab → PcieTab) : (c.modPcie g).fab = c.fab := rfl
@[simp] theorem Chip.modPcie_keeps_roce (c : Chip) (g : PcieTab → PcieTab) : (c.modPcie g).roce = c.roce := rfl
@[simp] theorem Chip.modPcie_keeps_res (c : Chip) (g : PcieTab → PcieTab) : (c.modPcie g).res = c.res := rfl
@[simp] theorem Chip.modPcie_keeps_pow (c : Chip) (g : PcieTab → PcieTab) : (c.modPcie g).pow = c.pow := rfl
@[simp] theorem Chip.modPcie_keeps_mgmt (c : Chip) (g : PcieTab → PcieTab) : (c.modPcie g).mgmt = c.mgmt := rfl
@[simp] theorem Chip.modPcie_keeps_reply (c : Chip) (g : PcieTab → PcieTab) : (c.modPcie g).reply = c.reply := rfl
@[simp] theorem Chip.modPcie_keeps_free (c : Chip) (g : PcieTab → PcieTab) : (c.modPcie g).free = c.free := rfl
@[simp] theorem Chip.modFab_fab (c : Chip) (g : Fabric → Fabric) : (c.modFab g).fab = g c.fab := rfl
@[simp] theorem Chip.modFab_keeps_clk (c : Chip) (g : Fabric → Fabric) : (c.modFab g).clk = c.clk := rfl
@[simp] theorem Chip.modFab_keeps_log (c : Chip) (g : Fabric → Fabric) : (c.modFab g).log = c.log := rfl
@[simp] theorem Chip.modFab_keeps_mem (c : Chip) (g : Fabric → Fabric) : (c.modFab g).mem = c.mem := rfl
@[simp] theorem Chip.modFab_keeps_irq (c : Chip) (g : Fabric → Fabric) : (c.modFab g).irq = c.irq := rfl
@[simp] theorem Chip.modFab_keeps_hart (c : Chip) (g : Fabric → Fabric) : (c.modFab g).hart = c.hart := rfl
@[simp] theorem Chip.modFab_keeps_so (c : Chip) (g : Fabric → Fabric) : (c.modFab g).so = c.so := rfl
@[simp] theorem Chip.modFab_keeps_mmu (c : Chip) (g : Fabric → Fabric) : (c.modFab g).mmu = c.mmu := rfl
@[simp] theorem Chip.modFab_keeps_tile (c : Chip) (g : Fabric → Fabric) : (c.modFab g).tile = c.tile := rfl
@[simp] theorem Chip.modFab_keeps_tmap (c : Chip) (g : Fabric → Fabric) : (c.modFab g).tmap = c.tmap := rfl
@[simp] theorem Chip.modFab_keeps_cxl (c : Chip) (g : Fabric → Fabric) : (c.modFab g).cxl = c.cxl := rfl
@[simp] theorem Chip.modFab_keeps_cm (c : Chip) (g : Fabric → Fabric) : (c.modFab g).cm = c.cm := rfl
@[simp] theorem Chip.modFab_keeps_ctx (c : Chip) (g : Fabric → Fabric) : (c.modFab g).ctx = c.ctx := rfl
@[simp] theorem Chip.modFab_keeps_fw (c : Chip) (g : Fabric → Fabric) : (c.modFab g).fw = c.fw := rfl
@[simp] theorem Chip.modFab_keeps_boot (c : Chip) (g : Fabric → Fabric) : (c.modFab g).boot = c.boot := rfl
@[simp] theorem Chip.modFab_keeps_links (c : Chip) (g : Fabric → Fabric) : (c.modFab g).links = c.links := rfl
@[simp] theorem Chip.modFab_keeps_cap (c : Chip) (g : Fabric → Fabric) : (c.modFab g).cap = c.cap := rfl
@[simp] theorem Chip.modFab_keeps_regs (c : Chip) (g : Fabric → Fabric) : (c.modFab g).regs = c.regs := rfl
@[simp] theorem Chip.modFab_keeps_chan (c : Chip) (g : Fabric → Fabric) : (c.modFab g).chan = c.chan := rfl
@[simp] theorem Chip.modFab_keeps_ledge (c : Chip) (g : Fabric → Fabric) : (c.modFab g).ledge = c.ledge := rfl
@[simp] theorem Chip.modFab_keeps_bucket (c : Chip) (g : Fabric → Fabric) : (c.modFab g).bucket = c.bucket := rfl
@[simp] theorem Chip.modFab_keeps_pcie (c : Chip) (g : Fabric → Fabric) : (c.modFab g).pcie = c.pcie := rfl
@[simp] theorem Chip.modFab_keeps_roce (c : Chip) (g : Fabric → Fabric) : (c.modFab g).roce = c.roce := rfl
@[simp] theorem Chip.modFab_keeps_res (c : Chip) (g : Fabric → Fabric) : (c.modFab g).res = c.res := rfl
@[simp] theorem Chip.modFab_keeps_pow (c : Chip) (g : Fabric → Fabric) : (c.modFab g).pow = c.pow := rfl
@[simp] theorem Chip.modFab_keeps_mgmt (c : Chip) (g : Fabric → Fabric) : (c.modFab g).mgmt = c.mgmt := rfl
@[simp] theorem Chip.modFab_keeps_reply (c : Chip) (g : Fabric → Fabric) : (c.modFab g).reply = c.reply := rfl
@[simp] theorem Chip.modFab_keeps_free (c : Chip) (g : Fabric → Fabric) : (c.modFab g).free = c.free := rfl
@[simp] theorem Chip.modRoce_roce (c : Chip) (g : Roce → Roce) : (c.modRoce g).roce = g c.roce := rfl
@[simp] theorem Chip.modRoce_keeps_clk (c : Chip) (g : Roce → Roce) : (c.modRoce g).clk = c.clk := rfl
@[simp] theorem Chip.modRoce_keeps_log (c : Chip) (g : Roce → Roce) : (c.modRoce g).log = c.log := rfl
@[simp] theorem Chip.modRoce_keeps_mem (c : Chip) (g : Roce → Roce) : (c.modRoce g).mem = c.mem := rfl
@[simp] theorem Chip.modRoce_keeps_irq (c : Chip) (g : Roce → Roce) : (c.modRoce g).irq = c.irq := rfl
@[simp] theorem Chip.modRoce_keeps_hart (c : Chip) (g : Roce → Roce) : (c.modRoce g).hart = c.hart := rfl
@[simp] theorem Chip.modRoce_keeps_so (c : Chip) (g : Roce → Roce) : (c.modRoce g).so = c.so := rfl
@[simp] theorem Chip.modRoce_keeps_mmu (c : Chip) (g : Roce → Roce) : (c.modRoce g).mmu = c.mmu := rfl
@[simp] theorem Chip.modRoce_keeps_tile (c : Chip) (g : Roce → Roce) : (c.modRoce g).tile = c.tile := rfl
@[simp] theorem Chip.modRoce_keeps_tmap (c : Chip) (g : Roce → Roce) : (c.modRoce g).tmap = c.tmap := rfl
@[simp] theorem Chip.modRoce_keeps_cxl (c : Chip) (g : Roce → Roce) : (c.modRoce g).cxl = c.cxl := rfl
@[simp] theorem Chip.modRoce_keeps_cm (c : Chip) (g : Roce → Roce) : (c.modRoce g).cm = c.cm := rfl
@[simp] theorem Chip.modRoce_keeps_ctx (c : Chip) (g : Roce → Roce) : (c.modRoce g).ctx = c.ctx := rfl
@[simp] theorem Chip.modRoce_keeps_fw (c : Chip) (g : Roce → Roce) : (c.modRoce g).fw = c.fw := rfl
@[simp] theorem Chip.modRoce_keeps_boot (c : Chip) (g : Roce → Roce) : (c.modRoce g).boot = c.boot := rfl
@[simp] theorem Chip.modRoce_keeps_links (c : Chip) (g : Roce → Roce) : (c.modRoce g).links = c.links := rfl
@[simp] theorem Chip.modRoce_keeps_cap (c : Chip) (g : Roce → Roce) : (c.modRoce g).cap = c.cap := rfl
@[simp] theorem Chip.modRoce_keeps_regs (c : Chip) (g : Roce → Roce) : (c.modRoce g).regs = c.regs := rfl
@[simp] theorem Chip.modRoce_keeps_chan (c : Chip) (g : Roce → Roce) : (c.modRoce g).chan = c.chan := rfl
@[simp] theorem Chip.modRoce_keeps_ledge (c : Chip) (g : Roce → Roce) : (c.modRoce g).ledge = c.ledge := rfl
@[simp] theorem Chip.modRoce_keeps_bucket (c : Chip) (g : Roce → Roce) : (c.modRoce g).bucket = c.bucket := rfl
@[simp] theorem Chip.modRoce_keeps_pcie (c : Chip) (g : Roce → Roce) : (c.modRoce g).pcie = c.pcie := rfl
@[simp] theorem Chip.modRoce_keeps_fab (c : Chip) (g : Roce → Roce) : (c.modRoce g).fab = c.fab := rfl
@[simp] theorem Chip.modRoce_keeps_res (c : Chip) (g : Roce → Roce) : (c.modRoce g).res = c.res := rfl
@[simp] theorem Chip.modRoce_keeps_pow (c : Chip) (g : Roce → Roce) : (c.modRoce g).pow = c.pow := rfl
@[simp] theorem Chip.modRoce_keeps_mgmt (c : Chip) (g : Roce → Roce) : (c.modRoce g).mgmt = c.mgmt := rfl
@[simp] theorem Chip.modRoce_keeps_reply (c : Chip) (g : Roce → Roce) : (c.modRoce g).reply = c.reply := rfl
@[simp] theorem Chip.modRoce_keeps_free (c : Chip) (g : Roce → Roce) : (c.modRoce g).free = c.free := rfl
@[simp] theorem Chip.modRes_res (c : Chip) (g : Resil → Resil) : (c.modRes g).res = g c.res := rfl
@[simp] theorem Chip.modRes_keeps_clk (c : Chip) (g : Resil → Resil) : (c.modRes g).clk = c.clk := rfl
@[simp] theorem Chip.modRes_keeps_log (c : Chip) (g : Resil → Resil) : (c.modRes g).log = c.log := rfl
@[simp] theorem Chip.modRes_keeps_mem (c : Chip) (g : Resil → Resil) : (c.modRes g).mem = c.mem := rfl
@[simp] theorem Chip.modRes_keeps_irq (c : Chip) (g : Resil → Resil) : (c.modRes g).irq = c.irq := rfl
@[simp] theorem Chip.modRes_keeps_hart (c : Chip) (g : Resil → Resil) : (c.modRes g).hart = c.hart := rfl
@[simp] theorem Chip.modRes_keeps_so (c : Chip) (g : Resil → Resil) : (c.modRes g).so = c.so := rfl
@[simp] theorem Chip.modRes_keeps_mmu (c : Chip) (g : Resil → Resil) : (c.modRes g).mmu = c.mmu := rfl
@[simp] theorem Chip.modRes_keeps_tile (c : Chip) (g : Resil → Resil) : (c.modRes g).tile = c.tile := rfl
@[simp] theorem Chip.modRes_keeps_tmap (c : Chip) (g : Resil → Resil) : (c.modRes g).tmap = c.tmap := rfl
@[simp] theorem Chip.modRes_keeps_cxl (c : Chip) (g : Resil → Resil) : (c.modRes g).cxl = c.cxl := rfl
@[simp] theorem Chip.modRes_keeps_cm (c : Chip) (g : Resil → Resil) : (c.modRes g).cm = c.cm := rfl
@[simp] theorem Chip.modRes_keeps_ctx (c : Chip) (g : Resil → Resil) : (c.modRes g).ctx = c.ctx := rfl
@[simp] theorem Chip.modRes_keeps_fw (c : Chip) (g : Resil → Resil) : (c.modRes g).fw = c.fw := rfl
@[simp] theorem Chip.modRes_keeps_boot (c : Chip) (g : Resil → Resil) : (c.modRes g).boot = c.boot := rfl
@[simp] theorem Chip.modRes_keeps_links (c : Chip) (g : Resil → Resil) : (c.modRes g).links = c.links := rfl
@[simp] theorem Chip.modRes_keeps_cap (c : Chip) (g : Resil → Resil) : (c.modRes g).cap = c.cap := rfl
@[simp] theorem Chip.modRes_keeps_regs (c : Chip) (g : Resil → Resil) : (c.modRes g).regs = c.regs := rfl
@[simp] theorem Chip.modRes_keeps_chan (c : Chip) (g : Resil → Resil) : (c.modRes g).chan = c.chan := rfl
@[simp] theorem Chip.modRes_keeps_ledge (c : Chip) (g : Resil → Resil) : (c.modRes g).ledge = c.ledge := rfl
@[simp] theorem Chip.modRes_keeps_bucket (c : Chip) (g : Resil → Resil) : (c.modRes g).bucket = c.bucket := rfl
@[simp] theorem Chip.modRes_keeps_pcie (c : Chip) (g : Resil → Resil) : (c.modRes g).pcie = c.pcie := rfl
@[simp] theorem Chip.modRes_keeps_fab (c : Chip) (g : Resil → Resil) : (c.modRes g).fab = c.fab := rfl
@[simp] theorem Chip.modRes_keeps_roce (c : Chip) (g : Resil → Resil) : (c.modRes g).roce = c.roce := rfl
@[simp] theorem Chip.modRes_keeps_pow (c : Chip) (g : Resil → Resil) : (c.modRes g).pow = c.pow := rfl
@[simp] theorem Chip.modRes_keeps_mgmt (c : Chip) (g : Resil → Resil) : (c.modRes g).mgmt = c.mgmt := rfl
@[simp] theorem Chip.modRes_keeps_reply (c : Chip) (g : Resil → Resil) : (c.modRes g).reply = c.reply := rfl
@[simp] theorem Chip.modRes_keeps_free (c : Chip) (g : Resil → Resil) : (c.modRes g).free = c.free := rfl
@[simp] theorem Chip.modPow_pow (c : Chip) (g : Power → Power) : (c.modPow g).pow = g c.pow := rfl
@[simp] theorem Chip.modPow_keeps_clk (c : Chip) (g : Power → Power) : (c.modPow g).clk = c.clk := rfl
@[simp] theorem Chip.modPow_keeps_log (c : Chip) (g : Power → Power) : (c.modPow g).log = c.log := rfl
@[simp] theorem Chip.modPow_keeps_mem (c : Chip) (g : Power → Power) : (c.modPow g).mem = c.mem := rfl
@[simp] theorem Chip.modPow_keeps_irq (c : Chip) (g : Power → Power) : (c.modPow g).irq = c.irq := rfl
@[simp] theorem Chip.modPow_keeps_hart (c : Chip) (g : Power → Power) : (c.modPow g).hart = c.hart := rfl
@[simp] theorem Chip.modPow_keeps_so (c : Chip) (g : Power → Power) : (c.modPow g).so = c.so := rfl
@[simp] theorem Chip.modPow_keeps_mmu (c : Chip) (g : Power → Power) : (c.modPow g).mmu = c.mmu := rfl
@[simp] theorem Chip.modPow_keeps_tile (c : Chip) (g : Power → Power) : (c.modPow g).tile = c.tile := rfl
@[simp] theorem Chip.modPow_keeps_tmap (c : Chip) (g : Power → Power) : (c.modPow g).tmap = c.tmap := rfl
@[simp] theorem Chip.modPow_keeps_cxl (c : Chip) (g : Power → Power) : (c.modPow g).cxl = c.cxl := rfl
@[simp] theorem Chip.modPow_keeps_cm (c : Chip) (g : Power → Power) : (c.modPow g).cm = c.cm := rfl
@[simp] theorem Chip.modPow_keeps_ctx (c : Chip) (g : Power → Power) : (c.modPow g).ctx = c.ctx := rfl
@[simp] theorem Chip.modPow_keeps_fw (c : Chip) (g : Power → Power) : (c.modPow g).fw = c.fw := rfl
@[simp] theorem Chip.modPow_keeps_boot (c : Chip) (g : Power → Power) : (c.modPow g).boot = c.boot := rfl
@[simp] theorem Chip.modPow_keeps_links (c : Chip) (g : Power → Power) : (c.modPow g).links = c.links := rfl
@[simp] theorem Chip.modPow_keeps_cap (c : Chip) (g : Power → Power) : (c.modPow g).cap = c.cap := rfl
@[simp] theorem Chip.modPow_keeps_regs (c : Chip) (g : Power → Power) : (c.modPow g).regs = c.regs := rfl
@[simp] theorem Chip.modPow_keeps_chan (c : Chip) (g : Power → Power) : (c.modPow g).chan = c.chan := rfl
@[simp] theorem Chip.modPow_keeps_ledge (c : Chip) (g : Power → Power) : (c.modPow g).ledge = c.ledge := rfl
@[simp] theorem Chip.modPow_keeps_bucket (c : Chip) (g : Power → Power) : (c.modPow g).bucket = c.bucket := rfl
@[simp] theorem Chip.modPow_keeps_pcie (c : Chip) (g : Power → Power) : (c.modPow g).pcie = c.pcie := rfl
@[simp] theorem Chip.modPow_keeps_fab (c : Chip) (g : Power → Power) : (c.modPow g).fab = c.fab := rfl
@[simp] theorem Chip.modPow_keeps_roce (c : Chip) (g : Power → Power) : (c.modPow g).roce = c.roce := rfl
@[simp] theorem Chip.modPow_keeps_res (c : Chip) (g : Power → Power) : (c.modPow g).res = c.res := rfl
@[simp] theorem Chip.modPow_keeps_mgmt (c : Chip) (g : Power → Power) : (c.modPow g).mgmt = c.mgmt := rfl
@[simp] theorem Chip.modPow_keeps_reply (c : Chip) (g : Power → Power) : (c.modPow g).reply = c.reply := rfl
@[simp] theorem Chip.modPow_keeps_free (c : Chip) (g : Power → Power) : (c.modPow g).free = c.free := rfl
@[simp] theorem Chip.modMgmt_mgmt (c : Chip) (g : Mgmt → Mgmt) : (c.modMgmt g).mgmt = g c.mgmt := rfl
@[simp] theorem Chip.modMgmt_keeps_clk (c : Chip) (g : Mgmt → Mgmt) : (c.modMgmt g).clk = c.clk := rfl
@[simp] theorem Chip.modMgmt_keeps_log (c : Chip) (g : Mgmt → Mgmt) : (c.modMgmt g).log = c.log := rfl
@[simp] theorem Chip.modMgmt_keeps_mem (c : Chip) (g : Mgmt → Mgmt) : (c.modMgmt g).mem = c.mem := rfl
@[simp] theorem Chip.modMgmt_keeps_irq (c : Chip) (g : Mgmt → Mgmt) : (c.modMgmt g).irq = c.irq := rfl
@[simp] theorem Chip.modMgmt_keeps_hart (c : Chip) (g : Mgmt → Mgmt) : (c.modMgmt g).hart = c.hart := rfl
@[simp] theorem Chip.modMgmt_keeps_so (c : Chip) (g : Mgmt → Mgmt) : (c.modMgmt g).so = c.so := rfl
@[simp] theorem Chip.modMgmt_keeps_mmu (c : Chip) (g : Mgmt → Mgmt) : (c.modMgmt g).mmu = c.mmu := rfl
@[simp] theorem Chip.modMgmt_keeps_tile (c : Chip) (g : Mgmt → Mgmt) : (c.modMgmt g).tile = c.tile := rfl
@[simp] theorem Chip.modMgmt_keeps_tmap (c : Chip) (g : Mgmt → Mgmt) : (c.modMgmt g).tmap = c.tmap := rfl
@[simp] theorem Chip.modMgmt_keeps_cxl (c : Chip) (g : Mgmt → Mgmt) : (c.modMgmt g).cxl = c.cxl := rfl
@[simp] theorem Chip.modMgmt_keeps_cm (c : Chip) (g : Mgmt → Mgmt) : (c.modMgmt g).cm = c.cm := rfl
@[simp] theorem Chip.modMgmt_keeps_ctx (c : Chip) (g : Mgmt → Mgmt) : (c.modMgmt g).ctx = c.ctx := rfl
@[simp] theorem Chip.modMgmt_keeps_fw (c : Chip) (g : Mgmt → Mgmt) : (c.modMgmt g).fw = c.fw := rfl
@[simp] theorem Chip.modMgmt_keeps_boot (c : Chip) (g : Mgmt → Mgmt) : (c.modMgmt g).boot = c.boot := rfl
@[simp] theorem Chip.modMgmt_keeps_links (c : Chip) (g : Mgmt → Mgmt) : (c.modMgmt g).links = c.links := rfl
@[simp] theorem Chip.modMgmt_keeps_cap (c : Chip) (g : Mgmt → Mgmt) : (c.modMgmt g).cap = c.cap := rfl
@[simp] theorem Chip.modMgmt_keeps_regs (c : Chip) (g : Mgmt → Mgmt) : (c.modMgmt g).regs = c.regs := rfl
@[simp] theorem Chip.modMgmt_keeps_chan (c : Chip) (g : Mgmt → Mgmt) : (c.modMgmt g).chan = c.chan := rfl
@[simp] theorem Chip.modMgmt_keeps_ledge (c : Chip) (g : Mgmt → Mgmt) : (c.modMgmt g).ledge = c.ledge := rfl
@[simp] theorem Chip.modMgmt_keeps_bucket (c : Chip) (g : Mgmt → Mgmt) : (c.modMgmt g).bucket = c.bucket := rfl
@[simp] theorem Chip.modMgmt_keeps_pcie (c : Chip) (g : Mgmt → Mgmt) : (c.modMgmt g).pcie = c.pcie := rfl
@[simp] theorem Chip.modMgmt_keeps_fab (c : Chip) (g : Mgmt → Mgmt) : (c.modMgmt g).fab = c.fab := rfl
@[simp] theorem Chip.modMgmt_keeps_roce (c : Chip) (g : Mgmt → Mgmt) : (c.modMgmt g).roce = c.roce := rfl
@[simp] theorem Chip.modMgmt_keeps_res (c : Chip) (g : Mgmt → Mgmt) : (c.modMgmt g).res = c.res := rfl
@[simp] theorem Chip.modMgmt_keeps_pow (c : Chip) (g : Mgmt → Mgmt) : (c.modMgmt g).pow = c.pow := rfl
@[simp] theorem Chip.modMgmt_keeps_reply (c : Chip) (g : Mgmt → Mgmt) : (c.modMgmt g).reply = c.reply := rfl
@[simp] theorem Chip.modMgmt_keeps_free (c : Chip) (g : Mgmt → Mgmt) : (c.modMgmt g).free = c.free := rfl
@[simp] theorem Chip.answer_keeps_clk (c : Chip) (l : List Nat) : (c.answer l).clk = c.clk := rfl
@[simp] theorem Chip.answer_keeps_log (c : Chip) (l : List Nat) : (c.answer l).log = c.log := rfl
@[simp] theorem Chip.answer_keeps_mem (c : Chip) (l : List Nat) : (c.answer l).mem = c.mem := rfl
@[simp] theorem Chip.answer_keeps_irq (c : Chip) (l : List Nat) : (c.answer l).irq = c.irq := rfl
@[simp] theorem Chip.answer_keeps_hart (c : Chip) (l : List Nat) : (c.answer l).hart = c.hart := rfl
@[simp] theorem Chip.answer_keeps_so (c : Chip) (l : List Nat) : (c.answer l).so = c.so := rfl
@[simp] theorem Chip.answer_keeps_mmu (c : Chip) (l : List Nat) : (c.answer l).mmu = c.mmu := rfl
@[simp] theorem Chip.answer_keeps_tile (c : Chip) (l : List Nat) : (c.answer l).tile = c.tile := rfl
@[simp] theorem Chip.answer_keeps_tmap (c : Chip) (l : List Nat) : (c.answer l).tmap = c.tmap := rfl
@[simp] theorem Chip.answer_keeps_cxl (c : Chip) (l : List Nat) : (c.answer l).cxl = c.cxl := rfl
@[simp] theorem Chip.answer_keeps_cm (c : Chip) (l : List Nat) : (c.answer l).cm = c.cm := rfl
@[simp] theorem Chip.answer_keeps_ctx (c : Chip) (l : List Nat) : (c.answer l).ctx = c.ctx := rfl
@[simp] theorem Chip.answer_keeps_fw (c : Chip) (l : List Nat) : (c.answer l).fw = c.fw := rfl
@[simp] theorem Chip.answer_keeps_boot (c : Chip) (l : List Nat) : (c.answer l).boot = c.boot := rfl
@[simp] theorem Chip.answer_keeps_links (c : Chip) (l : List Nat) : (c.answer l).links = c.links := rfl
@[simp] theorem Chip.answer_keeps_cap (c : Chip) (l : List Nat) : (c.answer l).cap = c.cap := rfl
@[simp] theorem Chip.answer_keeps_regs (c : Chip) (l : List Nat) : (c.answer l).regs = c.regs := rfl
@[simp] theorem Chip.answer_keeps_chan (c : Chip) (l : List Nat) : (c.answer l).chan = c.chan := rfl
@[simp] theorem Chip.answer_keeps_ledge (c : Chip) (l : List Nat) : (c.answer l).ledge = c.ledge := rfl
@[simp] theorem Chip.answer_keeps_bucket (c : Chip) (l : List Nat) : (c.answer l).bucket = c.bucket := rfl
@[simp] theorem Chip.answer_keeps_pcie (c : Chip) (l : List Nat) : (c.answer l).pcie = c.pcie := rfl
@[simp] theorem Chip.answer_keeps_fab (c : Chip) (l : List Nat) : (c.answer l).fab = c.fab := rfl
@[simp] theorem Chip.answer_keeps_roce (c : Chip) (l : List Nat) : (c.answer l).roce = c.roce := rfl
@[simp] theorem Chip.answer_keeps_res (c : Chip) (l : List Nat) : (c.answer l).res = c.res := rfl
@[simp] theorem Chip.answer_keeps_pow (c : Chip) (l : List Nat) : (c.answer l).pow = c.pow := rfl
@[simp] theorem Chip.answer_keeps_mgmt (c : Chip) (l : List Nat) : (c.answer l).mgmt = c.mgmt := rfl
@[simp] theorem Chip.answer_keeps_free (c : Chip) (l : List Nat) : (c.answer l).free = c.free := rfl
@[simp] theorem Chip.took_keeps_clk (c : Chip) (n : Nat) : (c.took n).clk = c.clk := rfl
@[simp] theorem Chip.took_keeps_log (c : Chip) (n : Nat) : (c.took n).log = c.log := rfl
@[simp] theorem Chip.took_keeps_mem (c : Chip) (n : Nat) : (c.took n).mem = c.mem := rfl
@[simp] theorem Chip.took_keeps_irq (c : Chip) (n : Nat) : (c.took n).irq = c.irq := rfl
@[simp] theorem Chip.took_keeps_hart (c : Chip) (n : Nat) : (c.took n).hart = c.hart := rfl
@[simp] theorem Chip.took_keeps_so (c : Chip) (n : Nat) : (c.took n).so = c.so := rfl
@[simp] theorem Chip.took_keeps_mmu (c : Chip) (n : Nat) : (c.took n).mmu = c.mmu := rfl
@[simp] theorem Chip.took_keeps_tile (c : Chip) (n : Nat) : (c.took n).tile = c.tile := rfl
@[simp] theorem Chip.took_keeps_tmap (c : Chip) (n : Nat) : (c.took n).tmap = c.tmap := rfl
@[simp] theorem Chip.took_keeps_cxl (c : Chip) (n : Nat) : (c.took n).cxl = c.cxl := rfl
@[simp] theorem Chip.took_keeps_cm (c : Chip) (n : Nat) : (c.took n).cm = c.cm := rfl
@[simp] theorem Chip.took_keeps_ctx (c : Chip) (n : Nat) : (c.took n).ctx = c.ctx := rfl
@[simp] theorem Chip.took_keeps_fw (c : Chip) (n : Nat) : (c.took n).fw = c.fw := rfl
@[simp] theorem Chip.took_keeps_boot (c : Chip) (n : Nat) : (c.took n).boot = c.boot := rfl
@[simp] theorem Chip.took_keeps_links (c : Chip) (n : Nat) : (c.took n).links = c.links := rfl
@[simp] theorem Chip.took_keeps_cap (c : Chip) (n : Nat) : (c.took n).cap = c.cap := rfl
@[simp] theorem Chip.took_keeps_regs (c : Chip) (n : Nat) : (c.took n).regs = c.regs := rfl
@[simp] theorem Chip.took_keeps_chan (c : Chip) (n : Nat) : (c.took n).chan = c.chan := rfl
@[simp] theorem Chip.took_keeps_ledge (c : Chip) (n : Nat) : (c.took n).ledge = c.ledge := rfl
@[simp] theorem Chip.took_keeps_bucket (c : Chip) (n : Nat) : (c.took n).bucket = c.bucket := rfl
@[simp] theorem Chip.took_keeps_pcie (c : Chip) (n : Nat) : (c.took n).pcie = c.pcie := rfl
@[simp] theorem Chip.took_keeps_fab (c : Chip) (n : Nat) : (c.took n).fab = c.fab := rfl
@[simp] theorem Chip.took_keeps_roce (c : Chip) (n : Nat) : (c.took n).roce = c.roce := rfl
@[simp] theorem Chip.took_keeps_res (c : Chip) (n : Nat) : (c.took n).res = c.res := rfl
@[simp] theorem Chip.took_keeps_pow (c : Chip) (n : Nat) : (c.took n).pow = c.pow := rfl
@[simp] theorem Chip.took_keeps_mgmt (c : Chip) (n : Nat) : (c.took n).mgmt = c.mgmt := rfl
@[simp] theorem Chip.took_keeps_reply (c : Chip) (n : Nat) : (c.took n).reply = c.reply := rfl
@[simp] theorem Chip.answer_reply (c : Chip) (l : List Nat) : (c.answer l).reply = l := rfl
@[simp] theorem Chip.took_free (c : Chip) (n : Nat) : (c.took n).free = c.free + n := rfl

end Sys2Proof.Machine
end

