-- ==== Sys2Proof/Laws/Outcome.lean ====
section
/-!
SUPPORT. What a command can answer, said once: a command of a unit in service has its operation's effect in service and none otherwise,
and no command touches the queue.
-/

namespace Sys2Proof.Machine

@[simp] theorem State.onChip_next (s : State) (f : Chip → Chip) : s.onChip f = .next { s with chip := f s.chip } := rfl

theorem State.liveChip_live {s : State} (f : Chip → Chip) (h : s.chip.live = true) : s.liveChip f = .next { s with chip := f s.chip } := by
  simp [State.liveChip, h]

theorem State.liveChip_dark {s : State} (f : Chip → Chip) (h : s.chip.live = false) : s.liveChip f = .next s := by
  simp [State.liveChip, h]

theorem State.liveBoth_live {s : State} (f : Chip → Secure → Chip × Secure) (h : s.chip.live = true) : s.liveBoth f = s.onBoth f := by
  simp [State.liveBoth, h]

theorem State.liveBoth_dark {s : State} (f : Chip → Secure → Chip × Secure) (h : s.chip.live = false) : s.liveBoth f = .next s := by
  simp [State.liveBoth, h]

/-- If a command of a unit in service answers a next state, that state differs in the package alone. -/
theorem State.liveChip_inv {s t : State} {f : Chip → Chip} (h : s.liveChip f = .next t) :
    t.pending = s.pending ∧ t.sec = s.sec ∧ (t.chip = f s.chip ∧ s.chip.live = true ∨ t = s ∧ s.chip.live = false) := by
  unfold State.liveChip at h
  split at h
  · rename_i hl
    simp only [State.onChip_next, Host.Outcome.next.injEq] at h
    subst h; exact ⟨rfl, rfl, .inl ⟨rfl, hl⟩⟩
  · rename_i hl
    simp only [Host.Outcome.next.injEq] at h
    subst h; exact ⟨rfl, rfl, .inr ⟨rfl, by simpa using hl⟩⟩

/-- If a command with an effect on management flash answers a next state, its queue stands. -/
theorem State.onBoth_inv {s t : State} {f : Chip → Secure → Chip × Secure} (h : s.onBoth f = .next t) :
    t.pending = s.pending ∧ t.chip = (f s.chip s.sec).1 ∧ t.sec = (f s.chip s.sec).2 := by
  unfold State.onBoth at h
  simp only [Host.Outcome.next.injEq] at h
  subst h; exact ⟨rfl, rfl, rfl⟩

theorem State.liveBoth_inv {s t : State} {f : Chip → Secure → Chip × Secure} (h : s.liveBoth f = .next t) :
    t.pending = s.pending ∧
      (t.chip = (f s.chip s.sec).1 ∧ t.sec = (f s.chip s.sec).2 ∧ s.chip.live = true ∨ t = s ∧ s.chip.live = false) := by
  unfold State.liveBoth at h
  split at h
  · rename_i hl
    obtain ⟨a, b, d⟩ := State.onBoth_inv h
    exact ⟨a, .inl ⟨b, d, hl⟩⟩
  · rename_i hl
    simp only [Host.Outcome.next.injEq] at h
    subst h; exact ⟨rfl, .inr ⟨rfl, by simpa using hl⟩⟩

/-- The front command runs with the rest of the queue. -/
theorem step_cons (s : State) (c : Sys2Proof.Instr) (rest : List Sys2Proof.Instr) (h : s.pending = c :: rest) :
    step s = exec c { s with pending := rest } := by
  simp [step, h]

/-- With nothing in the queue and nothing waiting, model time passes. -/
theorem step_idle (s : State) (h : s.pending = []) (g : s.held = []) : step s = .next { s.tick with tried := 0 } := by
  simp [step, h, State.nextHeld, g]

/-! Commands that may have to wait (assumption 103) -/

/-- Where nothing is under way, such a command takes effect at once. -/
theorem State.guardedBoth_calm {s : State} (key : List Nat) (i : Instr) (f : Chip → Secure → Chip × Secure) (h : s.chip.live = true)
    (g : s.calm = true) : s.guardedBoth key i f = .next { s with chip := (f s.chip s.sec).1, sec := (f s.chip s.sec).2 } := by
  simp [State.guardedBoth, h, g]

theorem State.guarded_calm {s : State} (key : List Nat) (i : Instr) (f : Chip → Chip) (h : s.chip.live = true) (g : s.calm = true) :
    s.guarded key i f = .next { s with chip := f s.chip } := by
  simp [State.guarded, State.guardedBoth_calm key i _ h g]

/-- On a calm package a call with an image in memory is decided at once, unless another is in progress. -/
theorem State.imageCall_calm {s : State} (code : Nat) (i : Instr) (f : Chip → Secure → Chip × Secure) (h : s.chip.live = true)
    (g : s.calm = true) (b : s.chip.fw.mbox.result ≠ 1) :
    s.imageCall code i f = .next { s with chip := (f s.chip s.sec).1, sec := (f s.chip s.sec).2 } := by
  have e : s.held = [] := by
    simp only [State.calm, Bool.and_eq_true, List.isEmpty_iff] at g
    exact g.1.2
  simp [State.imageCall, State.guardedBoth_calm [15] i f h g, b, e]

theorem State.guardedBoth_dark {s : State} (key : List Nat) (i : Instr) (f : Chip → Secure → Chip × Secure) (h : s.chip.live = false) :
    s.guardedBoth key i f = .next s := by
  simp [State.guardedBoth, h]

theorem State.guarded_dark {s : State} (key : List Nat) (i : Instr) (f : Chip → Chip) (h : s.chip.live = false) :
    s.guarded key i f = .next s := by
  simp [State.guarded, State.guardedBoth_dark key i _ h]

/-- Whatever such a command finds, it answers a next state with the queue as it was: nothing where the unit is dark, its whole effect, or the
command kept with its number and sender. -/
theorem State.guardedBoth_answers (s : State) (key : List Nat) (i : Instr) (f : Chip → Secure → Chip × Secure) :
    ∃ t, s.guardedBoth key i f = .next t ∧ t.pending = s.pending ∧
      (t = s ∧ s.chip.live = false ∨ t.sec = (f s.chip s.sec).2 ∧ t.chip = (f s.chip s.sec).1 ∨
        t.sec = (f (s.chip.attempt s.ident) s.sec).2 ∧ t.chip = (f (s.chip.attempt s.ident) s.sec).1.unmark s.ident ∨
        t.sec = s.sec ∧ { id := s.ident, key := key, cmd := i } ∈ t.held) := by
  unfold State.guardedBoth
  split
  · rename_i h
    exact ⟨s, rfl, rfl, .inl ⟨rfl, by simpa using h⟩⟩
  · split
    · exact ⟨_, rfl, rfl, .inr (.inl ⟨rfl, rfl⟩)⟩
    · dsimp only
      split
      · exact ⟨_, rfl, rfl, .inr (.inr (.inr ⟨rfl, by simp [State.keep]⟩))⟩
      · split
        · exact ⟨_, rfl, rfl, .inr (.inr (.inl ⟨rfl, rfl⟩))⟩
        · exact ⟨_, rfl, rfl, .inr (.inr (.inr ⟨rfl, by simp [State.keep]⟩))⟩

/-- A request whose home's queue has room, with no earlier command of anyone waiting, reaches its home. -/
theorem State.toHome_room {s : State} (agent pa : Nat) (i : Instr) (f : Chip → Chip) (h : s.chip.live = true) (g : s.held = [])
    (q : s.chip.mem.queueFull (pa / 64) = false) : s.toHome agent pa i f = .next { s with chip := f s.chip } := by
  simp [State.toHome, State.behind, h, g, q]

theorem State.toHome_dark {s : State} (agent pa : Nat) (i : Instr) (f : Chip → Chip) (h : s.chip.live = false) :
    s.toHome agent pa i f = .next s := by
  simp [State.toHome, h]

end Sys2Proof.Machine
end

