-- ==== Sys2Proof/Laws/Quiet.lean ====
section
/-!
SUPPORT. On a package with nothing under way every home serves every access at once, so that a command notes nothing to wait for.
-/

namespace Sys2Proof.Machine

theorem bit_eq_testBit (v i : Nat) : bit v i = v.testBit i := by
  simp [bit, Nat.testBit, Nat.one_and_eq_mod_two]

/-- What a table gives for an index is its default or stands in it. -/
theorem tabGet_default_or_mem {α : Type} (d : α) (t : Tab α) (i : Nat) : tabGet d t i = d ∨ (i, tabGet d t i) ∈ t := by
  induction t with
  | nil => exact .inl rfl
  | cons p r ih =>
    obtain ⟨k, v⟩ := p
    by_cases h : k = i
    · subst h; right; simp [tabGet]
    · simp only [tabGet, h, if_false, List.mem_cons, Prod.mk.injEq]
      rcases ih with e | e
      · exact .inl e
      · exact .inr (.inr e)

/-- No channel of a quiet package is in self-refresh. -/
theorem Chip.quiet_awake {c : Chip} (h : c.quiet = true) (ch : Nat) : c.asleep ch = false := by
  simp only [Chip.quiet, Bool.and_eq_true, beq_iff_eq] at h
  obtain ⟨⟨⟨⟨-, h⟩, -⟩, -⟩, -⟩ := h
  have key : ∀ i < 13, bit (c.rw 0x400070) i = false := by
    intro i hi
    have e : (c.rw 0x400070 % 2 ^ 13).testBit i = false := by
      have : c.rw 0x400070 % 2 ^ 13 = 0 := by simpa [bits] using h
      rw [this]; exact Nat.zero_testBit i
    rw [Nat.testBit_mod_two_pow] at e
    rw [bit_eq_testBit]
    simpa [hi] using e
  unfold Chip.asleep
  split
  · exact key _ (by omega)
  · exact key 12 (by omega)

/-- No bank of a quiet package has reached RAAMMT. -/
theorem Chip.quiet_bank {c : Chip} (h : c.quiet = true) (ch bank : Nat) : c.bankFull ch bank = false := by
  simp only [Chip.quiet, Bool.and_eq_true, Bool.not_eq_true'] at h
  obtain ⟨⟨⟨-, h⟩, -⟩, -⟩ := h
  by_contra hb
  simp only [Chip.bankFull, Bool.not_eq_false, Bool.and_eq_true, decide_eq_true_eq] at hb
  obtain ⟨h0, h1⟩ := hb
  have hm : (bank, tabGet 0 (c.chanAt ch).acts bank) ∈ (c.chanAt ch).acts := by
    rcases tabGet_default_or_mem 0 (c.chanAt ch).acts bank with e | e
    · omega
    · exact e
  have hc : (ch, c.chanAt ch) ∈ c.chan := by
    rcases tabGet_default_or_mem Chan.fresh c.chan ch with e | e
    · rw [Chip.chanAt, e] at hm; simp [Chan.fresh] at hm
    · exact e
  have : (c.chan.any fun p => p.2.acts.any fun b => decide (0 < b.2) && decide (Config.raammt p.1 ≤ b.2)) = true := by
    rw [List.any_eq_true]
    exact ⟨_, hc, by rw [List.any_eq_true]; exact ⟨_, hm, by simp [h0, h1]⟩⟩
  rw [this] at h; cases h

/-- A choice that never lets go of what it has keeps something. -/
theorem foldl_isSome {f : Option Nat → Nat → Option Nat} (hf : ∀ b x, (f (some b) x).isSome = true) (l : List Nat) (b : Nat) :
    (l.foldl f (some b)).isSome = true := by
  induction l generalizing b with
  | nil => rfl
  | cons x r ih =>
    obtain ⟨y, hy⟩ := Option.isSome_iff_exists.mp (hf b x)
    rw [List.foldl_cons, hy]
    exact ih y

/-- Where no transaction is in progress, some entry of a list that is not empty can be evicted. -/
theorem Mem.victim_idle {m : Mem} (h : m.busy = []) (l : List Nat) (hl : l ≠ []) : (m.victim l).isSome = true := by
  cases l with
  | nil => exact absurd rfl hl
  | cons x r =>
    have e : (if (tabFind m.busy x).isSome = true then none else some x) = some x := by simp [h, tabFind]
    rw [Mem.victim, List.foldl_cons]
    dsimp only
    rw [e]
    refine foldl_isSome ?_ r x
    intro b y
    simp only [h, tabFind, Option.isSome_none, Bool.false_eq_true, if_false]
    split
    · split <;> rfl
    · rfl

/-- A quiet package serves every access at once. -/
theorem Chip.quiet_ready {c : Chip} (h : c.quiet = true) (ln : Nat) (alloc : Bool) : c.ready ln alloc = true := by
  have hq := h
  simp only [Chip.quiet, Bool.and_eq_true, List.isEmpty_iff] at hq
  obtain ⟨⟨⟨⟨⟨hb, hw⟩, -⟩, -⟩, -⟩, -⟩ := hq
  have room : c.mem.hasRoom ln = true := by
    unfold Mem.hasRoom
    by_cases hl : (c.mem.sameSet ln).length < 16
    · simp [hl]
    · have : c.mem.sameSet ln ≠ [] := by intro e; simp [e] at hl
      simp [Mem.victim_idle hb _ this]
  simp [Chip.ready, hb, tabFind, Mem.turn, hw, tabGet, Chip.accepts, Chip.quiet_awake h, Chip.quiet_bank h, room]

/-- On a quiet package an access notes nothing to wait for. -/
theorem Chip.quiet_meet {c : Chip} (h : c.quiet = true) (lines : List Nat) (alloc : Bool) : c.meet lines alloc = c := by
  have : lines.filter (fun ln => !c.ready ln alloc) = [] := by
    rw [List.filter_eq_nil_iff]
    intro ln _
    simp [Chip.quiet_ready h]
  simp [Chip.meet, this]

/-- What a table finds stands in it. -/
theorem tabFind_mem {α : Type} {t : Tab α} {i : Nat} {v : α} (h : tabFind t i = some v) : (i, v) ∈ t := by
  induction t with
  | nil => cases h
  | cons p r ih =>
    obtain ⟨k, x⟩ := p
    by_cases e : k = i
    · subst e
      simp only [tabFind, if_true, Option.some.injEq] at h
      subst h
      exact List.mem_cons_self
    · simp only [tabFind, e, if_false] at h
      exact List.mem_cons_of_mem _ (ih h)

/-- On a quiet package no core owns a line that it may have written unseen. -/
theorem Chip.quiet_drift {c : Chip} (h : c.quiet = true) (ln : Nat) : c.mem.driftLine ln = c.mem := by
  unfold Mem.driftLine
  cases e : tabFind c.mem.dir ln with
  | none => rfl
  | some x =>
    have hx := tabFind_mem e
    simp only [Chip.quiet, Bool.and_eq_true, Bool.not_eq_true', List.any_eq_false] at h
    have := h.1.2 _ hx
    cases hs : x.st <;> simp_all

/-- On a quiet package a coherent read changes nothing and gives the bytes of memory with their poison. -/
theorem Chip.quiet_fetchN {c : Chip} (h : c.quiet = true) (pa n : Nat) :
    c.fetchN pa n = (c, c.mem.readN pa n, c.mem.poisonedN pa n) := by
  have fold : ∀ l : List Nat, l.foldl Mem.driftLine c.mem = c.mem := by
    intro l
    induction l with
    | nil => rfl
    | cons x r ih => rw [List.foldl_cons, Chip.quiet_drift h, ih]
  have e : c.modMem (fun m => (rangeLines pa n).foldl Mem.driftLine m) = c := by
    simp only [Chip.modMem, fold]
  simp only [Chip.fetchN, Chip.quiet_meet h, e]

end Sys2Proof.Machine
end

