-- ==== Sys2Proof/Laws/Tile.lean ====
section
/-!
SUPPORT. Tiles: what the tile table reads after an update, X registers, and what issuing, moving past an instruction and leaving
instruction memory do.
-/

namespace Sys2Proof.Machine

@[simp] theorem Chip.tileAt_setTile_same (c : Chip) (t : Nat) (v : Tile) : (c.setTile t v).tileAt t = v := by
  simp [Chip.tileAt, Chip.setTile]

theorem Chip.tileAt_setTile_other (c : Chip) {t u : Nat} (v : Tile) (h : t ≠ u) : (c.setTile t v).tileAt u = c.tileAt u := by
  simp [Chip.tileAt, Chip.setTile, tabGet_tabSet_other _ _ _ h]

@[simp] theorem Chip.setTile_setTile (c : Chip) (t : Nat) (v w : Tile) : (c.setTile t v).setTile t w = c.setTile t w := by
  simp [Chip.setTile, Chip.modTile]

/-- X0 reads as zero (03 R64). -/
@[simp] theorem Tile.xr_zero (v : Tile) : v.xr 0 = 0 := by simp [Tile.xr]

/-- A write of X0 is discarded (03 R64). -/
@[simp] theorem Tile.setX_zero (v : Tile) (x : Nat) : v.setX 0 x = v := by simp [Tile.setX]

/-- A written register reads back modulo 2^64. -/
theorem Tile.xr_setX_same (v : Tile) {r : Nat} (x : Nat) (h : r ≠ 0) : (v.setX r x).xr r = x % 2 ^ 64 := by
  simp [Tile.xr, Tile.setX, h]

theorem Tile.xr_setX_other (v : Tile) {r q : Nat} (x : Nat) (h : r ≠ q) : (v.setX r x).xr q = v.xr q := by
  by_cases hr : r = 0
  · simp [Tile.setX, hr]
  · by_cases hq : q = 0
    · simp [Tile.xr, hq]
    · simp [Tile.xr, Tile.setX, hr, hq, tabGet_tabSet_other _ _ _ h]

@[simp] theorem Tile.setX_pc (v : Tile) (r x : Nat) : (v.setX r x).pc = v.pc := by unfold Tile.setX; split <;> rfl

/-- Moving past an instruction whose successor lies in instruction memory changes the tile alone. -/
theorem Chip.retire_inside (c : Chip) (t : Nat) (v : Tile) (h : v.pc + 8 < 0x10000) :
    c.retire t v = c.setTile t { v with pc := v.pc + 8 } := by
  have g : ¬ 0x10000 ≤ v.pc + 8 := by omega
  simp [Chip.retire, Chip.goto, g]

/-- A jump inside instruction memory changes the tile alone. -/
theorem Chip.goto_inside (c : Chip) (t pc : Nat) (h : pc < 0x10000) : c.goto t pc = c.setTile t { c.tileAt t with pc := pc } := by
  have g : ¬ 0x10000 ≤ pc := by omega
  simp [Chip.goto, g]

/-- A legal controller instruction that issues has its operation's effect. -/
theorem Chip.ctl_issues (c : Chip) (t : Nat) (w : BitVec 64) (op : Nat) (legal : Bool) (f : Tile → Chip)
    (hi : (c.tileAt t).issues w (ctlRegs w.toNat) = true) (hc : iClass w.toNat = 0) (ho : iOp w.toNat = op) (hr : iRsv w.toNat = 0)
    (hl : legal = true) : c.ctl t w op legal f = f (c.tileAt t) := by
  simp [Chip.ctl, hi, hc, ho, hr, hl]

/-- An instruction that cannot issue, or is of another opcode, changes nothing. -/
theorem Chip.ctl_waits (c : Chip) (t : Nat) (w : BitVec 64) (op : Nat) (legal : Bool) (f : Tile → Chip)
    (hi : (c.tileAt t).issues w (ctlRegs w.toNat) = false) : c.ctl t w op legal f = c := by
  simp [Chip.ctl, hi]

end Sys2Proof.Machine
end

