-- ==== Sys2Proof/WellFormed.lean ====
section
/-!
DEFINITION. Which commands are well formed: operands whose types leave room for what no sender can send.
-/

namespace Sys2Proof

/-- A 4-byte write carries 4 bytes (21 R514). -/
def accOk (a : SetupAcc) : Bool := a.half.isNone || decide (a.value.toNat < 2 ^ 32)

/-- An Ethernet frame has its two addresses and its type (13 R332). -/
def frameOk (f : Frame) : Bool := decide (14 ≤ f.bytes.length)

/-- A cached copy is a line of 64 bytes (09 R223). -/
def lineOk (l : LineCopy) : Bool := decide (l.bytes.length = 64)

/-- The same of a copy that may be absent. -/
def optLineOk (l : Option LineCopy) : Bool :=
  match l with
  | some x => lineOk x
  | none => true

/-- A line operation stays within its line (09 R240). -/
def lineOpOk (o : LineOp) : Bool :=
  match o with
  | .put off bs => decide (off + bs.length ≤ 64)
  | .add _ xs => decide (xs.length = 16)
  | .scale _ _ => true

/-- A memory TLP carries at most 4,096 bytes. -/
def tlpOk (p : Tlp) : Bool := decide (p.bytes.length ≤ 4096)

/-- A RoCEv2 packet carries at most the largest path MTU (13 R358). -/
def roceOk (p : RocePkt) : Bool := decide (p.payload.length ≤ 4096)

/-- The width of a doorbell access (14 R375). -/
def widthOk (n : Nat) : Bool := n == 1 || n == 2 || n == 4 || n == 8

/-- The findings of a self-test step cover 16 module sites, 8 ports and 4 PCIe controllers. -/
def selfTestOk (r : SelfTest) : Bool := decide (r.dimms.length = 16) && decide (r.modes.length = 8) && decide (r.pcie.length = 4)

/-- Well-formed commands. -/
def Instr.wf (i : Instr) : Bool :=
  match i with
  | .flitReceive l _ g _ _ _ => decide (g.val < if l.val < 4 then 5 else 3)
  | .laneRepair l _ g _ => decide (g.val < if l.val < 4 then 5 else 3)
  | .laneRepairDone l _ g => decide (g.val < if l.val < 4 then 5 else 3)
  | .capture _ => true
  | .capGo a => accOk a
  | .captureExecute => true
  | .nop _ _ => true
  | .alu _ _ => true
  | .alui _ _ => true
  | .li _ _ => true
  | .lih _ _ => true
  | .ld _ _ => true
  | .st _ _ => true
  | .br _ _ => true
  | .jal _ _ => true
  | .jalr _ _ => true
  | .halt _ _ => true
  | .brk _ _ => true
  | .rsr _ _ => true
  | .wsr _ _ => true
  | .sosignal _ _ => true
  | .soset _ _ => true
  | .sowait _ _ => true
  | .soread _ _ => true
  | .heldSignalSend _ => true
  | .sowaitTimeout _ => true
  | .workItemDone _ => true
  | .asyncException _ => true
  | .copy _ _ => true
  | .skew _ _ => true
  | .skewt _ _ => true
  | .stat _ _ => true
  | .statt _ _ => true
  | .fill _ _ => true
  | .loadi _ _ => true
  | .accsave _ _ => true
  | .accrestore _ _ => true
  | .mwait _ _ => true
  | .moverOpComplete _ _ => true
  | .mload _ _ => true
  | .mmul _ _ => true
  | .mvmul _ _ => true
  | .await _ _ => true
  | .loadStart _ => true
  | .passStart _ => true
  | .arrayStep _ => true
  | .passComplete _ => true
  | .mvmulComplete _ => true
  | .arrayHwFault _ _ => true
  | .preemptRequest _ => true
  | .arrayStopped _ => true
  | .tileResume _ => true
  | .pauseSegmentEnd _ => true
  | .vadd _ _ => true
  | .vmul _ _ => true
  | .vfma _ _ => true
  | .vmin _ _ => true
  | .vmax _ _ => true
  | .vminnum _ _ => true
  | .vmaxnum _ _ => true
  | .vcmp _ _ => true
  | .vsel _ _ => true
  | .vcvt _ _ => true
  | .fteval _ _ => true
  | .rsum _ _ => true
  | .rssq _ _ => true
  | .rmom _ _ => true
  | .mcomb _ _ => true
  | .mvarp _ _ => true
  | .mvars _ _ => true
  | .perm _ _ => true
  | .permf _ _ => true
  | .rmask _ _ => true
  | .rdrop _ _ => true
  | .runif _ _ => true
  | .vld _ _ => true
  | .vst _ _ => true
  | .vlda _ _ => true
  | .vsta _ _ => true
  | .vbcast _ _ => true
  | .vext _ _ => true
  | .vins _ _ => true
  | .mand _ _ => true
  | .mor _ _ => true
  | .mxor _ _ => true
  | .mandn _ _ => true
  | .mset _ _ => true
  | .mget _ _ => true
  | .setvl _ _ => true
  | .vectorWait _ => true
  | .vectorComplete _ => true
  | .ftWrite _ _ _ _ => true
  | .ftFlipRequest _ _ => true
  | .ftFlip _ _ => true
  | .homeSignal _ _ _ _ => true
  | .homeSet _ _ _ => true
  | .homeWait _ _ _ _ _ => true
  | .homeRead _ _ => true
  | .readShared _ _ own _ => optLineOk own
  | .readUnique _ _ own _ => optLineOk own
  | .upgrade _ _ own _ => optLineOk own
  | .writeBack _ _ cp => lineOk cp
  | .evict _ _ => true
  | .readOnce _ _ own _ => optLineOk own
  | .writeFull _ _ _ _ _ => true
  | .writePartial _ _ _ _ _ _ own _ => optLineOk own
  | .ledgeOp _ op own _ => lineOpOk op && optLineOk own
  | .transactionComplete _ => true
  | .snoopTimeout _ _ => true
  | .hintDropped _ => true
  | .channelRetry _ _ _ => true
  | .scrubRead _ _ => true
  | .scrubBehind _ => true
  | .refresh _ _ _ => true
  | .rfm _ _ _ _ => true
  | .calibration _ _ => true
  | .backgroundWindow _ _ => true
  | .memCe _ => true
  | .ledgeNotify _ => true
  | .ledgeAhead _ => true
  | .ledgeNop _ => true
  | .ledgeFill _ => true
  | .accum _ => true
  | .scale _ => true
  | .convert _ => true
  | .sumsq _ => true
  | .optstep _ => true
  | .mirror _ => true
  | .benchOp _ => true
  | .ledgeCommandComplete _ => true
  | .ledgeHwFault _ => true
  | .bucketOpen _ => true
  | .bucketFilled _ => true
  | .contribution _ pa _ addends _ _ _ => decide (addends.length = 16) && decide (pa.toNat % 64 = 0)
  | .bucketComplete _ => true
  | .bucketLate _ => true
  | .bucketAbort _ => true
  | .bucketAbortDone _ => true
  | .versionBegin _ => true
  | .versionEnd _ => true
  | .holdRelease _ _ => true
  | .mtimeWrite _ a => accOk a
  | .coreWfi _ => true
  | .pcieWriteTlp p => tlpOk p && decide (1 ≤ p.bytes.length)
  | .pcieReadTlp p len => tlpOk p && decide (1 ≤ len) && decide (len ≤ 4096)
  | .pcieMsi _ _ _ _ => true
  | .msiWrite _ _ _ => true
  | .portDown _ => true
  | .subportUp _ => true
  | .pathRejoin _ => true
  | .haulWrite _ f => frameOk f
  | .haulReadPacket _ f => frameOk f
  | .readResp _ f => frameOk f
  | .accumulateFp32 _ f => frameOk f
  | .sendToRing _ f => frameOk f
  | .haulSignal _ f => frameOk f
  | .ack _ f => frameOk f
  | .nak _ f => frameOk f
  | .connect _ f => frameOk f
  | .accept _ f => frameOk f
  | .close _ f => frameOk f
  | .pathdown _ f => frameOk f
  | .arpRequest _ f => frameOk f
  | .neighbourSolicitation _ f => frameOk f
  | .pauseFrame _ f => frameOk f
  | .rawFrame _ f => frameOk f
  | .packetComplete _ _ => true
  | .ackTimer _ => true
  | .packetSend _ _ => true
  | .retxTimeout _ _ => true
  | .quarantineEnd _ _ _ => true
  | .keepalive _ => true
  | .connTimeout _ => true
  | .connectRetry _ => true
  | .rcPeriod _ _ => true
  | .roceSend _ p => roceOk p
  | .roceRdmaWrite _ p => roceOk p
  | .roceRdmaRead _ p => roceOk p
  | .roceReadResponse _ p => roceOk p
  | .roceAck _ _ _ _ => true
  | .roceCnp _ _ => true
  | .roceTimeout _ => true
  | .registration _ a _ => accOk a
  | .deregistration _ _ => true
  | .deregistrationDone _ => true
  | .cxlLinkDown => true
  | .linkReset => true
  | .cxlRequestTimeout _ => true
  | .cxlioRequest _ _ _ _ => true
  | .sqDoorbell _ _ width _ _ => widthOk width.val
  | .cqHeadDoorbell _ _ width _ _ => widthOk width.val
  | .doorbellAhead _ => true
  | .ringNop _ => true
  | .ctxCreate _ => true
  | .ctxDestroy _ => true
  | .ctxGrant _ => true
  | .ctxRevoke _ => true
  | .tlbInval _ => true
  | .memwrite _ => true
  | .run _ => true
  | .soOpSignal _ => true
  | .soOpSet _ => true
  | .soWait _ => true
  | .soWaitTimeout _ => true
  | .lqBind _ => true
  | .lqUnbind _ => true
  | .pcieRegion _ => true
  | .pcieRegionWithdraw _ => true
  | .fdRegion _ => true
  | .fdRegionWithdraw _ => true
  | .connCreate _ => true
  | .connClose _ => true
  | .neigh _ => true
  | .haulPostWrite _ => true
  | .haulPostAccumulate _ => true
  | .haulPostSend _ => true
  | .haulPostSignal _ => true
  | .sendi _ => true
  | .haulRead _ => true
  | .qpCreate _ => true
  | .qpPostSend _ => true
  | .qpPostSendImm _ => true
  | .qpPostWrite _ => true
  | .qpPostWriteImm _ => true
  | .qpPostRead _ => true
  | .recvPost _ => true
  | .rawqBind _ => true
  | .ringBind _ => true
  | .ringUnbind _ => true
  | .cmRelease _ => true
  | .cont _ => true
  | .descriptorComplete _ => true
  | .logDrain _ => true
  | .graceExpiry _ _ => true
  | .load _ => true
  | .attach => true
  | .handover => true
  | .update _ => true
  | .query => true
  | .mailboxBadCall _ => true
  | .runStart => true
  | .switchComplete _ => true
  | .deadlineExpiry _ => true
  | .periodEnd _ => true
  | .heartbeatRead _ => true
  | .watchdogExpiry _ => true
  | .fpRejoin _ => true
  | .ftimgPoll _ => true
  | .rdcurr _ _ => true
  | .itomwr _ _ _ => true
  | .wowrinv _ _ _ _ => true
  | .domainSlotAssign _ _ => true
  | .upstreamCxlio _ _ _ => true
  | .tileHwFault _ _ => true
  | .tileEccFence _ _ => true
  | .workItemRestart _ => true
  | .tileRepair a => accOk a
  | .repairDone _ => true
  | .pair a => accOk a
  | .unpair a => accOk a
  | .healthEval _ _ => true
  | .snapIntervalDue => true
  | .snapHoldRetry => true
  | .snapDone a => accOk a
  | .snapHoldExpired => true
  | .snapAbandoned => true
  | .ckptAddr a => accOk a
  | .ckptDone => true
  | .envelopeW a => accOk a
  | .tileGroup a => accOk a
  | .coreOff a => accOk a
  | .hbmSr a => accOk a
  | .ddrSr a => accOk a
  | .subportDis a => accOk a
  | .controlPeriod watts mj _ => decide (watts.length = 8) && decide (mj.length = 8)
  | .supplyDroop _ _ => true
  | .protectTrip _ _ => true
  | .facCapReq _ => true
  | .facCapAck a => accOk a
  | .telemetryPeriod _ _ _ => true
  | .groupRecalibration link group => decide (group.val < if link.val < 4 then 5 else 3)
  | .flashWearLevel => true
  | .getVersion _ => true
  | .getCapabilities _ => true
  | .negotiateAlgorithms _ _ _ => true
  | .getDigests _ => true
  | .getCertificate _ _ _ _ => true
  | .challenge _ _ => true
  | .getMeasurements _ _ _ => true
  | .respondIfReady _ _ => true
  | .spdmUnsupported _ => true
  | .spdmSignDone => true
  | .spdmNotReady => true
  | .mctpControl _ _ => true
  | .pldmDiscovery _ => true
  | .pldmSensorRead _ _ _ => true
  | .pldmFirmwareUpdate _ _ arrived header _ => !arrived || decide (header.length = 4096)
  | .readEvents _ _ _ => true
  | .readReport _ _ => true
  | .pkgReset _ _ => true
  | .coldReset => true
  | .bootRomStart => true
  | .warmReset => true
  | .pwrGoodRise g => decide (1 ≤ g.val)
  | .railFail g => decide (1 ≤ g.val)
  | .pwrGoodFall g => decide (1 ≤ g.val)
  | .selfTestStep r => selfTestOk r
  | .setupWrite _ _ _ _ => true
  | .gevent a => accOk a
  | .geventEn a => accOk a
  | .teleBase a => accOk a
  | .logBase _ a => accOk a
  | .logHead a => accOk a
  | .mode a => accOk a
  | .haulUdp a => accOk a
  | .period _ a => accOk a
  | .haulMalformed _ f => frameOk f
  | .roceInvalidRequest _ p => roceOk p
  | .cxlCacheSnoop _ => true
  | .cxlCacheResponse _ _ bs => decide (bs.length = 0 ∨ bs.length = 64)
  | .cxlLinkUp _ _ => true
  | .pauseSegmentStart _ => true
  | .thermAlert _ _ => true
  | .powerLoss => true
  | .timerCompare _ _ _ => true
  | .railRecovery _ => true

end Sys2Proof
end

