-- ==== Sys2Proof/Tests/Slice0.lean ====
section
/-!
SUPPORT. Tests: commands on small states with results worked out by hand from the specification, ill-formed terms that the checks refuse,
and for each obligation states and operands that meet its hypotheses.
-/

set_option Elab.async false

namespace Sys2Proof.Tests

open Sys2Proof Sys2Proof.Machine

/-- The next state, or the old one where there is none. -/
def after (o : Host.Outcome State Fault Refusal) (s : State) : State :=
  match o with
  | .next t => t
  | _ => s

/-- A tile that runs a work item of CTX0 whose one instruction is `w`, with X registers set. -/
def tileRun (w : BitVec 64) (xs : Tab Nat) : Tile :=
  { tileOf State.reset 0 with item := .running, x := xs, imem := Memory.writeLE [] 0 8 w.toNat }

/-- The package with that tile as its physical tile 0. -/
def run (w : BitVec 64) (xs : Tab Nat) : State := withTile State.reset 0 (tileRun w xs)

/-- A controller instruction from its fields (07 Table 7.2). -/
def ci (op rd rs1 rs2 func imm : Nat) : BitVec 64 :=
  BitVec.ofNat 64 (op * 2 ^ 56 + rd * 2 ^ 51 + rs1 * 2 ^ 46 + rs2 * 2 ^ 41 + func * 2 ^ 32 + imm)

/-- A mover instruction from its fields (07 Table 7.6). -/
def mi (op rt rd rs rx rso sig all sval : Nat) : BitVec 64 :=
  BitVec.ofNat 64 (2 ^ 62 + op * 2 ^ 56 + rt * 2 ^ 51 + rd * 2 ^ 46 + rs * 2 ^ 41 + rx * 2 ^ 36 + rso * 2 ^ 31 + sig * 2 ^ 30 + all * 2 ^ 29 + sval)

/-- A tensor descriptor of tile memory with two extents and one stride (03 Table 3.5). -/
def td (base fmt rank lay e0 e1 str : Nat) : List Byte :=
  leBytes 8 base ++ leBytes 4 0 ++ leBytes 1 fmt ++ leBytes 1 rank ++ leBytes 2 (2 + 4 * lay) ++ leBytes 4 e0 ++ leBytes 4 e1 ++ zeros 16 ++
    leBytes 8 str ++ zeros 80

/-- The running package with bytes stored in tile memory. -/
def runMem (w : BitVec 64) (xs : Tab Nat) (m : Memory) : State := withTile State.reset 0 { tileRun w xs with mem := m }

/-- The package whose tile 0 is a given one. -/
def put (v : Tile) : State := withTile State.reset 0 v

/-- The package with the counters of clock islands at 0: the count that an island has when its power comes is open (01 R26). -/
def counted (srcs : List Nat) (s : State) : State :=
  withChip s (s.chip.modClk (fun k =>
    { k with isl := srcs.map (fun n => (n, { base := 0, since := 0, mhz := nominalMhz n, restarts := 0, on := true, stretched := false })) }))

/-- What a command leaves of tile 0. -/
def tileAfter (o : Host.Outcome State Fault Refusal) : Tile := tileOf (after o State.reset) 0

/-- What a command leaves of the package. -/
def chipAfter (o : Host.Outcome State Fault Refusal) : Chip := (after o State.reset).chip

/-! The tile controller (07 Tables 7.2 to 7.5) -/

theorem witness_nop : ctlAt (run 0 []) 0 0 0 ∧ (0 : BitVec 64) = 0 := by decide +kernel

theorem witness_alu : ctlAt (run (ci 1 3 1 2 1 0) [(1, 5), (2, 7)]) 0 (ci 1 3 1 2 1 0) 1 ∧ bits (ci 1 3 1 2 1 0).toNat 31 0 = 0 := by
  decide +kernel

theorem test_sub_wraps :
    (tileAfter (exec (.alu 0 (ci 1 3 1 2 1 0)) (run (ci 1 3 1 2 1 0) [(1, 5), (2, 7)]))).xr 3 = 0xFFFFFFFFFFFFFFFE := by decide +kernel

theorem witness_alui : ctlAt (run (ci 2 3 1 0 7 4) [(1, 2 ^ 63)]) 0 (ci 2 3 1 0 7 4) 2 ∧ iRs2 (ci 2 3 1 0 7 4).toNat = 0 := by decide +kernel

theorem test_alui_sar : (tileAfter (exec (.alui 0 (ci 2 3 1 0 7 4)) (run (ci 2 3 1 0 7 4) [(1, 2 ^ 63)]))).xr 3 = 0xF800000000000000 := by
  decide +kernel

theorem witness_li : ctlAt (run (ci 3 31 0 0 0 0xFFFFFFFE) []) 0 (ci 3 31 0 0 0 0xFFFFFFFE) 3 ∧ iRs1 (ci 3 31 0 0 0 0xFFFFFFFE).toNat = 0 ∧
    iRs2 (ci 3 31 0 0 0 0xFFFFFFFE).toNat = 0 ∧ iFunc (ci 3 31 0 0 0 0xFFFFFFFE).toNat = 0 := by decide +kernel

theorem test_li_extends_sign :
    (tileAfter (exec (.li 0 (ci 3 31 0 0 0 0xFFFFFFFE)) (run (ci 3 31 0 0 0 0xFFFFFFFE) []))).xr 31 = 0xFFFFFFFFFFFFFFFE := by decide +kernel

theorem test_li_x0_discards : (tileAfter (exec (.li 0 (ci 3 0 0 0 0 7)) (run (ci 3 0 0 0 0 7) []))).xr 0 = 0 := by decide +kernel

theorem witness_lih : ctlAt (run (ci 4 1 0 0 0 0x12345678) [(1, 0xFFFFFFFF9ABCDEF0)]) 0 (ci 4 1 0 0 0 0x12345678) 4 ∧
    iRs1 (ci 4 1 0 0 0 0x12345678).toNat = 0 ∧ iRs2 (ci 4 1 0 0 0 0x12345678).toNat = 0 ∧ iFunc (ci 4 1 0 0 0 0x12345678).toNat = 0 := by
  decide +kernel

theorem test_lih : (tileAfter (exec (.lih 0 (ci 4 1 0 0 0 0x12345678)) (run (ci 4 1 0 0 0 0x12345678) [(1, 0xFFFFFFFF9ABCDEF0)]))).xr 1 =
    0x123456789ABCDEF0 := by decide +kernel

/-- The last two bytes of tile memory, loaded with sign. -/
theorem witness_ld : (2 : Nat) = 2 ^ bits (iFunc (ci 8 5 1 0 5 0).toNat) 1 0 ∧
    (0x5FFFFE : Nat) = ((tileOf (runMem (ci 8 5 1 0 5 0) [(1, 0x5FFFFE)] [(0x5FFFFF, 0x80)]) 0).xr (iRs1 (ci 8 5 1 0 5 0).toNat) +
      iImm (ci 8 5 1 0 5 0).toNat) % 2 ^ 64 ∧ 0x5FFFFE % 2 = 0 ∧ 0x5FFFFE + 2 ≤ tmemSize ∧
    (tileOf (runMem (ci 8 5 1 0 5 0) [(1, 0x5FFFFE)] [(0x5FFFFF, 0x80)]) 0).vec.q.any (fun e => e.writesTmem 0x5FFFFE 0x600000) = false ∧
    ctlAt (runMem (ci 8 5 1 0 5 0) [(1, 0x5FFFFE)] [(0x5FFFFF, 0x80)]) 0 (ci 8 5 1 0 5 0) 8 ∧ iRs2 (ci 8 5 1 0 5 0).toNat = 0 ∧
    bit (iFunc (ci 8 5 1 0 5 0).toNat) 3 = false ∧ ((2 : Nat) = 8 → bit (iFunc (ci 8 5 1 0 5 0).toNat) 2 = false) ∧
    (tileOf (runMem (ci 8 5 1 0 5 0) [(1, 0x5FFFFE)] [(0x5FFFFF, 0x80)]) 0).poisonedN 0x5FFFFE 2 = false := by decide +kernel

theorem test_ld_signed :
    (tileAfter (exec (.ld 0 (ci 8 5 1 0 5 0)) (runMem (ci 8 5 1 0 5 0) [(1, 0x5FFFFE)] [(0x5FFFFF, 0x80)]))).xr 5 = 0xFFFFFFFFFFFF8000 := by
  decide +kernel

/-- The same load of a poisoned granule. -/
theorem witness_ld_poison :
    let s := put { tileRun (ci 8 5 1 0 5 0) [(1, 0x5FFFFE)] with poison := [0x5FFFFE / 64] }
    ctlAt s 0 (ci 8 5 1 0 5 0) 8 ∧ (0x5FFFFE : Nat) = ((tileOf s 0).xr (iRs1 (ci 8 5 1 0 5 0).toNat) + iImm (ci 8 5 1 0 5 0).toNat) % 2 ^ 64 ∧
    (tileOf s 0).vec.q = [] ∧ (tileOf s 0).poisonedN 0x5FFFFE 2 = true := by decide +kernel

theorem witness_st : (8 : Nat) = 2 ^ bits (iFunc (ci 9 0 1 2 3 0xFFFFFFF8).toNat) 1 0 ∧
    (0x5FFFF8 : Nat) = ((tileOf (run (ci 9 0 1 2 3 0xFFFFFFF8) [(1, 0x600000), (2, 0x102)]) 0).xr (iRs1 (ci 9 0 1 2 3 0xFFFFFFF8).toNat) +
      iImm (ci 9 0 1 2 3 0xFFFFFFF8).toNat) % 2 ^ 64 ∧ 0x5FFFF8 % 8 = 0 ∧ 0x5FFFF8 + 8 ≤ tmemSize ∧
    (tileOf (run (ci 9 0 1 2 3 0xFFFFFFF8) [(1, 0x600000), (2, 0x102)]) 0).vec.q.any (fun e => e.writesTmem 0x5FFFF8 0x600000) = false ∧
    ctlAt (run (ci 9 0 1 2 3 0xFFFFFFF8) [(1, 0x600000), (2, 0x102)]) 0 (ci 9 0 1 2 3 0xFFFFFFF8) 9 ∧
    iRd (ci 9 0 1 2 3 0xFFFFFFF8).toNat = 0 ∧ bits (iFunc (ci 9 0 1 2 3 0xFFFFFFF8).toNat) 3 2 = 0 := by decide +kernel

theorem test_st : (tileAfter (exec (.st 0 (ci 9 0 1 2 3 0xFFFFFFF8)) (run (ci 9 0 1 2 3 0xFFFFFFF8) [(1, 0x600000), (2, 0x102)]))).mem =
    [(0x5FFFF8, 2), (0x5FFFF9, 1)] := by decide +kernel

/-- A misaligned store, and one of 4 bytes from the end of tile memory. -/
theorem witness_scalar_traps :
    ctlAt (run (ci 9 0 1 2 2 0) [(1, 0x5FFFFD)]) 0 (ci 9 0 1 2 2 0) 9 ∧ iRd (ci 9 0 1 2 2 0).toNat = 0 ∧
    bits (iFunc (ci 9 0 1 2 2 0).toNat) 3 2 = 0 ∧ (0x5FFFFD : Nat) % 4 ≠ 0 ∧
    ctlAt (run (ci 9 0 1 2 2 0) [(1, 0x600000)]) 0 (ci 9 0 1 2 2 0) 9 ∧ (0x600000 : Nat) % 4 = 0 ∧ tmemSize < 0x600000 + 4 := by decide +kernel

theorem test_misaligned_cause :
    let v := tileAfter (exec (.st 0 (ci 9 0 1 2 2 0)) (run (ci 9 0 1 2 2 0) [(1, 0x5FFFFD)]))
    v.item = .ended 0x42 ∧ v.tcause = 2 ∧ v.tval = 0x5FFFFD ∧ v.tepc = 0 ∧ v.mem = [] := by decide +kernel

theorem test_bounds_cause :
    let v := tileAfter (exec (.st 0 (ci 9 0 1 2 2 0)) (run (ci 9 0 1 2 2 0) [(1, 0x600000)]))
    v.tcause = 3 ∧ v.tval = 0x600000 := by decide +kernel

/-- BLT backwards to address 0 from 8. -/
def brTile : Tile := { tileRun 0 [(1, 2 ^ 64 - 1)] with pc := 8, imem := Memory.writeLE [] 8 8 (ci 0x10 0 1 0 2 0xFFFFFFF8).toNat }

theorem witness_br : ctlAt (put brTile) 0 (ci 0x10 0 1 0 2 0xFFFFFFF8) 0x10 ∧ iRd (ci 0x10 0 1 0 2 0xFFFFFFF8).toNat = 0 ∧
    iFunc (ci 0x10 0 1 0 2 0xFFFFFFF8).toNat ≤ 5 ∧ iImm (ci 0x10 0 1 0 2 0xFFFFFFF8).toNat % 8 = 0 ∧
    ((tileOf (put brTile) 0).pc + iImm (ci 0x10 0 1 0 2 0xFFFFFFF8).toNat) % 2 ^ 64 < 0x10000 := by decide +kernel

theorem test_br_taken : (tileAfter (exec (.br 0 (ci 0x10 0 1 0 2 0xFFFFFFF8)) (put brTile))).pc = 0 := by decide +kernel

theorem witness_jal : ctlAt (run (ci 0x11 1 0 0 0 0xFFF8) []) 0 (ci 0x11 1 0 0 0 0xFFF8) 0x11 ∧ iRs1 (ci 0x11 1 0 0 0 0xFFF8).toNat = 0 ∧
    iRs2 (ci 0x11 1 0 0 0 0xFFF8).toNat = 0 ∧ iFunc (ci 0x11 1 0 0 0 0xFFF8).toNat = 0 ∧ iImm (ci 0x11 1 0 0 0 0xFFF8).toNat % 8 = 0 ∧
    ((tileOf (run (ci 0x11 1 0 0 0 0xFFF8) []) 0).pc + iImm (ci 0x11 1 0 0 0 0xFFF8).toNat) % 2 ^ 64 < 0x10000 := by decide +kernel

theorem witness_jalr : ctlAt (run (ci 0x12 1 1 0 0 7) [(1, 0xFFF8)]) 0 (ci 0x12 1 1 0 0 7) 0x12 ∧ iRs2 (ci 0x12 1 1 0 0 7).toNat = 0 ∧
    iFunc (ci 0x12 1 1 0 0 7).toNat = 0 ∧
    ((tileOf (run (ci 0x12 1 1 0 0 7) [(1, 0xFFF8)]) 0).xr (iRs1 (ci 0x12 1 1 0 0 7).toNat) + iImm (ci 0x12 1 1 0 0 7).toNat) % 2 ^ 64 / 8 * 8 <
      0x10000 := by decide +kernel

theorem test_jalr_reads_before_link :
    let v := tileAfter (exec (.jalr 0 (ci 0x12 1 1 0 0 7)) (run (ci 0x12 1 1 0 0 7) [(1, 0xFFF8)]))
    v.pc = 0xFFF8 ∧ v.xr 1 = 8 := by decide +kernel

/-- RSR of a register read at issue and of one that waits for the array; WSR of ASTATUS and of VL. -/
theorem witness_rsr_wsr :
    ctlAt (run (ci 0x20 1 0 0 0 6) []) 0 (ci 0x20 1 0 0 0 6) 0x20 ∧ (regPoints 6).1 = .issue ∧ bits (ci 0x20 1 0 0 0 6).toNat 11 0 = 6 ∧
    bits (ci 0x20 1 0 0 0 6).toNat 31 12 = 0 ∧ iRs1 (ci 0x20 1 0 0 0 6).toNat = 0 ∧
    ctlAt (run (ci 0x20 1 0 0 0 0x11) []) 0 (ci 0x20 1 0 0 0 0x11) 0x20 ∧ (regPoints 0x11).1 = .arrayEmpty ∧
    (tileOf (run (ci 0x20 1 0 0 0 0x11) []) 0).arr.q = [] ∧ (regPoints 0x2B).1 = .vectorEmpty ∧
    ctlAt (run (ci 0x21 0 1 0 0 0x17) [(1, 5)]) 0 (ci 0x21 0 1 0 0 0x17) 0x21 ∧ iRd (ci 0x21 0 1 0 0 0x17).toNat = 0 ∧
    (regPoints 0x17).2 = .arrayEmpty ∧ (regPoints 0x20).2 = .vectorOrder ∧ (regPoints 0x26).2 = .vectorOrder ∧
    ctlAt (run (ci 0x21 0 1 0 0 0x20) [(1, 200)]) 0 (ci 0x21 0 1 0 0 0x20) 0x21 ∧
    (tileOf (run (ci 0x21 0 1 0 0 0x20) [(1, 200)]) 0).vec.q = [] := by decide +kernel

theorem test_wsr_vl_clamps :
    (tileAfter (exec (.wsr 0 (ci 0x21 0 1 0 0 0x20)) (run (ci 0x21 0 1 0 0 0x20) [(1, 200)]))).vec.vl = 128 := by decide +kernel

theorem witness_halt : ctlAt (run (ci 0x18 0 0 0 0 0) []) 0 (ci 0x18 0 0 0 0 0) 0x18 ∧ (ci 0x18 0 0 0 0 0).toNat = 0x18 * 2 ^ 56 := by
  decide +kernel

theorem witness_break : ctlAt (run (ci 0x19 0 0 0 0 0xFFFFFFFF) []) 0 (ci 0x19 0 0 0 0 0xFFFFFFFF) 0x19 ∧
    iRd (ci 0x19 0 0 0 0 0xFFFFFFFF).toNat = 0 ∧ iRs1 (ci 0x19 0 0 0 0 0xFFFFFFFF).toNat = 0 ∧
    iRs2 (ci 0x19 0 0 0 0 0xFFFFFFFF).toNat = 0 ∧ iFunc (ci 0x19 0 0 0 0 0xFFFFFFFF).toNat = 0 := by decide +kernel

theorem test_break : (tileAfter (exec (.brk 0 (ci 0x19 0 0 0 0 0xFFFFFFFF)) (run (ci 0x19 0 0 0 0 0xFFFFFFFF) []))).tcause = 0x0B := by
  decide +kernel

theorem witness_work_item_ends :
    let s := put { tileRun 0 [] with item := .halting }
    let u := put { tileRun 0 [] with pend := some (0x10, 0x55) }
    s.chip.live = true ∧ (tileOf s 0).item = .halting ∧ (tileOf s 0).arr.q = [] ∧ (tileOf s 0).vec.q = [] ∧ (tileOf s 0).mover = [] ∧
    (tileOf s 0).held = [] ∧ u.chip.live = true ∧ (tileOf u 0).item = .running ∧ (tileOf u 0).pend = some (0x10, 0x55) := by decide +kernel

theorem test_work_item_done : (tileAfter (exec (.workItemDone 0) (put { tileRun 0 [] with item := .halting }))).item = .ended 0 := by
  decide +kernel

theorem test_async_exception :
    let v := tileAfter (exec (.asyncException 0) (put { tileRun 0 [] with pend := some (0x10, 0x55) }))
    v.tcause = 0x10 ∧ v.tval = 0x55 ∧ v.pend = none ∧ v.item = .ended 0x50 := by decide +kernel

/-- An item that ends: with nothing left in the tile, with a mover operation left, and one that does not end. -/
theorem witness_exception_causes :
    let v := { tileRun 0 [] with item := .ending 0x50 7 }
    exBreak ≠ exHwFault ∧ v.item = .ending 0x50 7 ∧ v.drained = true ∧ (∀ status detail, (tileRun 0 []).item ≠ .ending status detail) := by
  refine ⟨by decide, rfl, by decide +kernel, fun _ _ h => by cases h⟩

/-! Synchronisation of tiles (07 R185 to R187) -/

/-- CTX0 owns objects 0 to 63 (03 R85). -/
theorem witness_sync_instructions :
    (tileOf (run (ci 0x28 0 1 2 0 0) [(1, 63), (2, 5)]) 0).xr (iRs1 (ci 0x28 0 1 2 0 0).toNat) < 16384 ∧
    ctlAt (run (ci 0x28 0 1 2 0 0) [(1, 63), (2, 5)]) 0 (ci 0x28 0 1 2 0 0) 0x28 ∧ iRd (ci 0x28 0 1 2 0 0).toNat = 0 ∧
    iFunc (ci 0x28 0 1 2 0 0).toNat = 0 ∧ bits (ci 0x28 0 1 2 0 0).toNat 31 0 = 0 ∧
    (tileOf (run (ci 0x28 0 1 2 0 0) [(1, 63), (2, 5)]) 0).held.length < 8 ∧
    ctlAt (run (ci 0x29 0 1 2 0 0) [(1, 16383), (2, 5)]) 0 (ci 0x29 0 1 2 0 0) 0x29 ∧
    ctlAt (run (ci 0x2B 3 1 0 0 0) [(1, 64)]) 0 (ci 0x2B 3 1 0 0 0) 0x2B ∧
    (run (ci 0x2B 3 1 0 0 0) [(1, 64)]).chip.soAllowed 0 64 = true ∧
    ctlAt (run (ci 0x2A 3 1 2 0 100) [(1, 64), (2, 0)]) 0 (ci 0x2A 3 1 2 0 100) 0x2A ∧
    waitHolds ((run (ci 0x2A 3 1 2 0 100) [(1, 64), (2, 0)]).chip.soValue 64) 0 = true ∧
    waitHolds ((run (ci 0x2A 3 1 2 0 100) [(1, 64), (2, 1)]).chip.soValue 64) 1 = false := by decide +kernel

/-- A tile with one held signal, and one blocked in SOWAIT with a timeout. -/
def heldTile : Tile := { tileRun 0 [] with held := [{ serial := 0, so := 64, value := 3, isSet := false, pc := 0 }] }
def waitTile : Tile := { tileRun 0 [] with blocked := some (.sowait 3 64 0 100) }

theorem witness_held_and_timeout :
    (put heldTile).chip.live = true ∧ (tileOf (put heldTile) 0).held = { serial := 0, so := 64, value := 3, isSet := false, pc := 0 } :: [] ∧
    (tileOf (put heldTile) 0).paused = false ∧ (tileOf (put heldTile) 0).cancelFrom = none ∧ (tileOf (put heldTile) 0).mover = [] ∧
    (put heldTile).chip.soAllowed (tileOf (put heldTile) 0).ctx 64 = true ∧
    (tileOf (put waitTile) 0).blocked = some (.sowait 3 64 0 100) ∧ (100 : Nat) ≠ 0 := by decide +kernel

theorem test_held_signal_adds : (chipAfter (exec (.heldSignalSend 0) (put heldTile))).soValue 64 = 3 := by decide +kernel

theorem test_sowait_timeout_bit :
    let v := tileAfter (exec (.sowaitTimeout 0) (counted [srcTile 0] (put waitTile)))
    v.xr 3 = 2 ^ 63 ∧ v.pc = 8 ∧ v.blocked = none := by decide +kernel

/-! The tile mover (07 Tables 7.6 and 7.7) -/

/-- Two plain FP8 tensors of 4 elements: descriptors at 0 and 128, elements at 256 and 512. -/
def twoTensors : Memory := (Memory.writeN [] 0 (td 256 3 1 0 4 0 0)).writeN 128 (td 512 3 1 0 4 0 0)

theorem witness_copy :
    let w := mi 0 4 1 2 0 0 0 0 0
    let s := runMem w [(1, 0), (2, 128)] twoTensors
    movAt s 0 w 0 ∧ mRx w.toNat = 0 ∧
      checkCopy w.toNat (tileOf s 0) = .ok (some (parseDesc 0 (td 256 3 1 0 4 0 0)), some (parseDesc 128 (td 512 3 1 0 4 0 0))) := by
  decide +kernel

theorem test_copy_takes_token :
    let w := mi 0 4 1 2 0 0 0 0 0
    let v := tileAfter (exec (.copy 0 w) (runMem w [(1, 0), (2, 128), (4, 9)] twoTensors))
    v.xr 4 = 0 ∧ v.mover.map (·.token) = [0] ∧ v.pc = 8 := by decide +kernel

/-- A skewed region of one row, 128 elements long, from a plain tensor of 4; and a stationary image. -/
def skewTensors : Memory := (Memory.writeN [] 0 (td 0x10000 3 2 1 128 1 0)).writeN 128 (td 512 3 1 0 4 0 0)
def statTensors : Memory := (Memory.writeN [] 0 (td 0x10000 3 2 2 128 128 0)).writeN 128 (td 512 3 1 0 4 0 0)

theorem witness_skew :
    let w := mi 1 4 1 2 0 0 0 0 0
    let s := runMem w [(1, 0), (2, 128)] skewTensors
    movAt s 0 w 1 ∧ mRx w.toNat = 0 ∧
      checkSkew w.toNat false (tileOf s 0) = .ok (some (parseDesc 0 (td 0x10000 3 2 1 128 1 0)), some (parseDesc 128 (td 512 3 1 0 4 0 0))) := by
  decide +kernel

theorem witness_skewt :
    let w := mi 2 4 1 2 0 0 0 0 0
    let s := runMem w [(1, 0), (2, 128)] ((Memory.writeN [] 0 (td 0x10000 3 2 1 128 4 0)).writeN 128 (td 512 3 1 0 4 0 0))
    movAt s 0 w 2 ∧ mRx w.toNat = 0 ∧
      checkSkew w.toNat true (tileOf s 0) = .ok (some (parseDesc 0 (td 0x10000 3 2 1 128 4 0)), some (parseDesc 128 (td 512 3 1 0 4 0 0))) := by
  decide +kernel

theorem witness_stat :
    let w := mi 3 4 1 2 3 0 0 0 0
    let s := runMem w [(1, 0), (2, 128)] statTensors
    movAt s 0 w 3 ∧
      checkStat w.toNat false (tileOf s 0) = .ok (some (parseDesc 0 (td 0x10000 3 2 2 128 128 0)), some (parseDesc 128 (td 512 3 1 0 4 0 0))) := by
  decide +kernel

theorem witness_statt :
    let w := mi 4 4 1 2 3 0 0 0 0
    let s := runMem w [(1, 0), (2, 128)] statTensors
    movAt s 0 w 4 ∧
      checkStat w.toNat true (tileOf s 0) = .ok (some (parseDesc 0 (td 0x10000 3 2 2 128 128 0)), some (parseDesc 128 (td 512 3 1 0 4 0 0))) := by
  decide +kernel

/-- The last 4 bytes of tile memory, with a signal. -/
theorem witness_fill :
    let w := mi 5 4 1 2 3 5 1 0 7
    let s := run w [(1, 0x5FFFFC), (2, 4), (3, 0x01020304), (5, 16383)]
    movAt s 0 w 5 ∧ (tileOf s 0).xr (mRd w.toNat) % 4 = 0 ∧ (tileOf s 0).xr (mRs w.toNat) % 4 = 0 ∧ 4 ≤ (tileOf s 0).xr (mRs w.toNat) ∧
      (tileOf s 0).xr (mRd w.toNat) + (tileOf s 0).xr (mRs w.toNat) ≤ tmemSize := by decide +kernel

theorem witness_loadi :
    let w := mi 6 4 1 2 3 0 0 0 0
    let s := run w [(1, 0xFFF8), (2, 0x1000), (3, 8)]
    movAt s 0 w 6 ∧ (tileOf s 0).xr (mRd w.toNat) % 8 = 0 ∧ (tileOf s 0).xr (mRs w.toNat) % 8 = 0 ∧ (tileOf s 0).xr (mRx w.toNat) % 8 = 0 ∧
      8 ≤ (tileOf s 0).xr (mRx w.toNat) ∧ (tileOf s 0).xr (mRd w.toNat) + (tileOf s 0).xr (mRx w.toNat) ≤ 0x10000 := by decide +kernel

theorem witness_accsave_accrestore :
    let w := mi 7 4 1 0 0 0 0 0 0
    let u := mi 8 4 0 1 0 0 0 0 0
    movAt (run w [(1, 64)]) 0 w 7 ∧ mRs w.toNat = 0 ∧ mRx w.toNat = 0 ∧ (tileOf (run w [(1, 64)]) 0).xr (mRd w.toNat) % 64 = 0 ∧
      movAt (run u [(1, 64)]) 0 u 8 ∧ mRd u.toNat = 0 ∧ mRx u.toNat = 0 ∧ (tileOf (run u [(1, 64)]) 0).xr (mRs u.toNat) % 64 = 0 := by
  decide +kernel

theorem test_accsave_misaligned :
    let w := mi 7 4 1 0 0 0 0 0 0
    (tileAfter (exec (.accsave 0 w) (run w [(1, 63)]))).tcause = 2 := by decide +kernel

/-- AWAIT with nothing to set. -/
def awaitW : BitVec 64 := BitVec.ofNat 64 (2 * 2 ^ 62 + 8 * 2 ^ 56)

theorem witness_mwait_await :
    let w := mi 16 0 0 1 0 0 0 0 0
    let a := mi 16 0 0 0 0 0 0 1 0
    (tileOf (run w [(1, 3)]) 0).issues w [mRs w.toNat] = true ∧ iClass w.toNat = 1 ∧ iOp w.toNat = 0x10 ∧ mRt w.toNat = 0 ∧ mRd w.toNat = 0 ∧
      mRx w.toNat = 0 ∧ mRso w.toNat = 0 ∧ mSig w.toNat = false ∧ mSval w.toNat = 0 ∧ bits w.toNat 28 16 = 0 ∧
      (mAll w.toNat = true → mRs w.toNat = 0) ∧ mAll a.toNat = true ∧ mRs a.toNat = 0 ∧
      (tileOf (run awaitW []) 0).issues awaitW [] = true ∧ iClass awaitW.toNat = 2 ∧ iOp awaitW.toNat = 8 ∧ bits awaitW.toNat 55 0 = 0 ∧
      (run awaitW []).chip.live = true := by decide +kernel

/-- A FILL of 8 bytes outstanding under token 2. -/
def fillOp : MoverOp :=
  { token := 2, serial := 0, op := 5, pc := 0, rd := 64, rs := 8, rx := 0xF01020304, src := none, dst := none, so := none, sval := 0, started := true }
def fillTile : Tile := { tileRun 0 [] with mover := [fillOp], poison := [1] }

theorem witness_fill_complete :
    (put fillTile).chip.live = true ∧ (tileOf (put fillTile) 0).mover.find? (fun x => x.token == (2 : Fin 16).val) = some fillOp ∧
      (tileOf (put fillTile) 0).paused = false ∧ fillOp.started = true ∧ fillOp.waits (tileOf (put fillTile) 0).mover = false ∧ fillOp.op = 5 := by
  decide +kernel

/-- The tile's mover reaches the first 2 GiB of package memory at the same virtual addresses of CTX0. -/
def reach (ops : List MoverOp) : State :=
  withChip (put { tileRun 0 [] with mover := ops })
    ((put { tileRun 0 [] with mover := ops }).chip.modMmu (fun m => { m with tlb := [(200, [{ ctx := 0, va := 0, size := 2 ^ 31, pa := 0, flags := 0xFF }])] }))

theorem reach_place (ops : List MoverOp) (a : Nat) (wr : Bool) (h : a < 2 ^ 31) : (reach ops).chip.moverPlace 0 0 false a wr = .phys a := by
  have h1 : canonicalVa a = true := by unfold canonicalVa; simp; omega
  have h2 : (reach ops).chip.tlbFind (moverTlbs 0) 0 a = some { ctx := 0, va := 0, size := 2 ^ 31, pa := 0, flags := 0xFF } := by
    simp [reach, Chip.tlbFind, moverTlbs, withChip, Chip.modMmu, tabGet]; omega
  have h3 : (reach ops).chip.mem.ddrCap = State.reset.chip.mem.ddrCap := rfl
  have h4 : (2 : Nat) ^ 31 ≤ State.reset.chip.mem.ddrCap := by decide +kernel
  have h5 : (reach ops).chip.mem.backed a = true := by unfold Mem.backed; rw [h3]; simp; omega
  have h6 : (reach ops).chip.writable a 1 = true := by
    have : (reach ops).chip.protectedN a 1 = false := by
      have e : (reach ops).chip.protectedN a 1 = State.reset.chip.protectedN a 1 := rfl
      rw [e]; rfl
    simp [Chip.writable, Mem.backedN, h5, this]
  cases wr <;> simp [Chip.moverPlace, Chip.xlate, h1, h2, leafCheck, bit, h5, h6]

theorem reach_range (ops : List MoverOp) (va n : Nat) (wr : Bool) (h : va + n ≤ 2 ^ 31) :
    firstFault ((reach ops).chip.rangePlaces 0 0 va n wr) = none := by
  unfold firstFault Chip.rangePlaces
  simp only [List.findSome?_eq_none_iff, List.mem_map, List.mem_range]
  rintro p ⟨i, hi, rfl⟩
  rw [reach_place ops _ wr (by omega)]

/-- The operations of Table 3.7 but FILL: a COPY inside the tile, a LOADI of the last 8 bytes, an ACCSAVE and an ACCRESTORE. -/
def copyOp : MoverOp :=
  { fillOp with op := 0, src := some (parseDesc 128 (td 512 3 1 0 4 0 0)), dst := some (parseDesc 0 (td 256 3 1 0 4 0 0)), so := some 64 }
def loadiOp : MoverOp := { fillOp with op := 6, rd := 0xFFF8, rs := 0x1000, rx := 8 }
def accsaveOp : MoverOp := { fillOp with op := 7, rd := 0x10000, rs := 0, rx := 0 }
def accrestoreOp : MoverOp := { fillOp with op := 8, rd := 0, rs := 0x10000, rx := 0 }

theorem witness_mover_complete :
    (∀ o ∈ [copyOp, loadiOp, accsaveOp, accrestoreOp, fillOp], (reach [o]).chip.live = true ∧ (reach [o]).calm = true ∧
      (tileOf (reach [o]) 0).mover.find? (fun x => x.token == (2 : Fin 16).val) = some o ∧ (tileOf (reach [o]) 0).paused = false ∧
      o.started = true ∧ o.waits (tileOf (reach [o]) 0).mover = false ∧ (tileOf (reach [o]) 0).ctx = 0 ∧
      (tileOf (reach [o]) 0).accFree o.serial = true) ∧
    copyOp.op < 5 ∧ ((reach [copyOp]).chip.outcome 0 copyOp copyOp.moves).fault = none ∧ copyOp.moves ≠ [] ∧
    fillOp.so = none ∧ (reach [copyOp]).chip.soAllowed 0 64 = true ∧ State.reset.chip.soAllowed 63 64 = false := by decide +kernel

theorem witness_mover_ranges :
    firstFault ((reach [loadiOp]).chip.rangePlaces 0 0 loadiOp.rs loadiOp.rx false) = none ∧
    (∀ p ∈ (reach [loadiOp]).chip.rangePlaces 0 0 loadiOp.rs loadiOp.rx false,
      poisonAt ((reach [loadiOp]).chip.mem.seenBy 0) (tileOf (reach [loadiOp]) 0) p = false) ∧
    firstFault ((reach [accsaveOp]).chip.rangePlaces 0 0 accsaveOp.rd accImageLen true) = none ∧
    firstFault ((reach [accrestoreOp]).chip.rangePlaces 0 0 accrestoreOp.rs accImageLen false) = none :=
  ⟨reach_range _ _ _ _ (by decide), by decide +kernel, reach_range _ _ _ _ (by decide), reach_range _ _ _ _ (by decide)⟩

/-- An ending item with a mover operation left. -/
theorem witness_ending_with_operation :
    let c := (put { tileRun 0 [] with item := .ending 0x50 7, mover := [fillOp] }).chip
    (c.tileAt 0).item = .ending 0x50 7 ∧ (c.tileAt 0).mover ≠ [] := by decide +kernel

theorem test_copy_moves_and_signals :
    let s := put { tileRun 0 [] with mover := [copyOp], mem := Memory.writeN [] 512 [1, 2, 3, 4] }
    let c := chipAfter (exec (.moverOpComplete 0 2) s)
    (c.tileAt 0).mem.readN 256 4 = [1, 2, 3, 4] ∧ c.soValue 64 = copyOp.sval := by decide +kernel

theorem test_fill_pattern :
    let v := tileAfter (exec (.moverOpComplete 0 2) (put fillTile))
    v.mem = [(64, 4), (65, 3), (66, 2), (67, 1), (68, 4), (69, 3), (70, 2), (71, 1)] ∧ v.mover = [] := by decide +kernel

theorem test_mwait_blocks :
    let w := mi 16 0 0 1 0 0 0 0 0
    (tileAfter (exec (.mwait 0 w) (put { tileRun w [(1, 2)] with mover := [fillOp] }))).blocked = some .mwait := by decide +kernel

/-! The matrix array (07 Table 7.8) -/

/-- An array instruction from its fields (07 Table 7.8). -/
def ai (op rs1 rs2 lo : Nat) : BitVec 64 := BitVec.ofNat 64 (2 * 2 ^ 62 + op * 2 ^ 56 + rs1 * 2 ^ 46 + rs2 * 2 ^ 41 + lo)

def imageDesc : List Byte := td 0x10000 3 2 2 128 128 0
def regionDesc : List Byte := td 0x20000 3 2 1 128 8192 0
def plainDesc : List Byte := td 512 3 2 0 4 1 4

theorem witness_mload :
    let w := ai 0 1 0 0
    let s := runMem w [(1, 128)] (Memory.writeN [] 128 imageDesc)
    arrAt s 0 w 0 ∧ bits w.toNat 55 51 = 0 ∧ bits w.toNat 45 0 = 0 ∧ (tileOf s 0).goodDesc ((tileOf s 0).xr (iRs1 w.toNat)) =
      .ok (parseDesc 128 imageDesc) ∧ (parseDesc 128 imageDesc).layout = 2 ∧ (tileOf s 0).arr.pending = none ∧ (tileOf s 0).arr.full = false := by
  decide +kernel

theorem test_mload_twice_is_illegal :
    let w := ai 0 1 0 0
    (tileAfter (exec (.mload 0 w) (put { tileRun w [(1, 128)] with
      mem := Memory.writeN [] 128 imageDesc, arr := { Arr.fresh with pending := some 0 } }))).tcause = 1 := by decide +kernel

/-- The block that a load brought, pending. -/
def imageBlock : Block := { pc := 0, img := 128, desc := parseDesc 128 imageDesc, lines := [], scales := [] }
/-- MMUL of 512 rows from row 7680 with NEW. -/
def mmulW : BitVec 64 := ai 1 1 2 (511 * 2 ^ 32 + 127 * 2 ^ 15 + 2 ^ 12)
def mmulTile : Tile :=
  { tileRun mmulW [(1, 256), (2, 7680)] with
    mem := Memory.writeN [] 256 regionDesc, arr := { Arr.fresh with blocks := [(3, imageBlock)], pending := some 3 } }

theorem witness_mmul :
    arrAt (put mmulTile) 0 mmulW 1 ∧ bits mmulW.toNat 55 51 = 0 ∧ bits mmulW.toNat 11 0 = 0 ∧
      (tileOf (put mmulTile) 0).goodDesc ((tileOf (put mmulTile) 0).xr (iRs1 mmulW.toNat)) = .ok (parseDesc 256 regionDesc) ∧
      (parseDesc 256 regionDesc).layout = 1 ∧ (tileOf (put mmulTile) 0).xr (iRs2 mmulW.toNat) ≤ 8191 ∧
      (tileOf (put mmulTile) 0).xr (iRs2 mmulW.toNat) + (bits mmulW.toNat 40 32 + 1) ≤ (parseDesc 256 regionDesc).extent 1 ∧
      bits mmulW.toNat 30 22 + (bits mmulW.toNat 40 32 + 1) ≤ 512 ∧ bit mmulW.toNat 12 = true ∧ (tileOf (put mmulTile) 0).arr.claimed = false ∧
      (tileOf (put mmulTile) 0).arr.pending = some 3 ∧ tabFind (tileOf (put mmulTile) 0).arr.blocks 3 = some imageBlock ∧
      pairOk (parseDesc 256 regionDesc).fmt (parseDesc 256 regionDesc).mx imageBlock.desc.fmt imageBlock.desc.mx = true ∧
      (tileOf (put mmulTile) 0).arr.full = false := by decide +kernel

theorem test_mmul_claims :
    let v := tileAfter (exec (.mmul 0 mmulW) (put mmulTile))
    v.arr.claimed = true ∧ v.arr.use = some 3 ∧ v.arr.q.map (fun e => (e.m, e.n, e.row0)) = [(512, 128, 7680)] := by decide +kernel

/-- MVMUL of one vector of 4 with a matrix of one column. -/
def mvmulW : BitVec 64 := ai 2 1 2 0
def mvmulTile : Tile :=
  { tileRun mvmulW [(1, 0), (2, 128)] with
    mem := (((Memory.writeN [] 0 plainDesc).writeN 128 plainDesc).writeN 512 [0x38, 0x38, 0x38, 0x38]) }

theorem witness_mvmul :
    let d := parseDesc 0 plainDesc
    let d2 := parseDesc 128 plainDesc
    let v := tileOf (put mvmulTile) 0
    arrAt (put mvmulTile) 0 mvmulW 2 ∧ bits mvmulW.toNat 55 51 = 0 ∧ bits mvmulW.toNat 40 32 = 0 ∧ bits mvmulW.toNat 21 15 = 0 ∧
      bits mvmulW.toNat 12 0 = 0 ∧ v.goodDesc (v.xr (iRs1 mvmulW.toNat)) = .ok d ∧ v.goodDesc (v.xr (iRs2 mvmulW.toNat)) = .ok d2 ∧
      d.tmem = true ∧ d.layout = 0 ∧ d.rank = 2 ∧ d2.tmem = true ∧ d2.layout = 0 ∧ d2.rank = 2 ∧ d.extent 0 = d2.extent 0 ∧
      d.extent 0 ≤ 16384 ∧ d.extent 1 ≤ 8 ∧ d2.extent 1 ≤ 128 ∧ bits mvmulW.toNat 30 22 + d.extent 1 ≤ 512 ∧
      pairOk d.fmt d.mx d2.fmt d2.mx = true ∧ v.arr.full = false := by decide +kernel

/-- A load that may start. -/
def loadEnt : ArrEnt :=
  { kind := .load, serial := 3, pc := 0, instr := 0, opa := 128, opb := 0, dA := parseDesc 128 imageDesc, dW := none, row0 := 0, m := 0, bank := 0,
    arow := 0, n := 0, acc := false, compat := false, isNew := false, issue := 7, started := false, start := 0, blk := 3, limit := 0,
    written := 0, lines := [], scales := [] }
/-- The tile after that MVMUL has issued. -/
def mvmulQueued : Tile := tileAfter (execMvmul 0 mvmulW (put mvmulTile))

/-- Its entry. -/
def mvmulEnt : ArrEnt := mvmulQueued.arr.q.headD loadEnt

theorem witness_mvmul_complete :
    let v := tileOf (put mvmulQueued) 0
    v.arr.q.find? (fun x => x.kind == .mvmul) = some mvmulEnt ∧ v.arr.q.filter (fun x => decide (x.serial < mvmulEnt.serial)) = [] ∧
      v.arr.going mvmulEnt = true ∧ v.arrWaits mvmulEnt = false ∧ v.mvPoison mvmulEnt = none ∧ v.paused = false ∧
      v.arr.stopped = false ∧ v.mvpFenced = false ∧ v.blocked = none ∧ v.item = .running ∧ v.pend = none ∧ v.arr.afault = 0 ∧
      (tileOf (put { mvmulQueued with mvpFenced := true }) 0).mvpFenced = true ∧
      (tileOf (put { mvmulQueued with mvpFenced := true }) 0).arrWaits mvmulEnt = false := by decide +kernel

/-- Four products 1 × 1 in E4M3: 4 in binary32. -/
theorem test_mvmul_sum :
    tabGet 0 (tileAfter (exec (.mvmulComplete 0) (put mvmulQueued))).acc.col 0 = 0x40800000 := by decide +kernel

/-- A pass that may start. -/
def passEnt : ArrEnt :=
  { loadEnt with kind := .pass, serial := 4, opa := 256, dA := parseDesc 256 regionDesc, m := 1, n := 128, limit := 1 }
def arrTile (q : List ArrEnt) (step : Nat) : Tile :=
  { tileRun 0 [] with arr := { Arr.fresh with q := q, step := step, blocks := [(3, imageBlock)], active := some 3, use := some 3 } }

theorem witness_array_starts :
    let a := tileOf (put (arrTile [loadEnt] 7)) 0
    let b := tileOf (put (arrTile [passEnt] 7)) 0
    State.reset.chip.live = true ∧ a.paused = false ∧ a.arr.stopped = false ∧ a.arrWaits loadEnt = false ∧ a.loadWaits loadEnt = false ∧ a.arr.q.find? (fun x => x.kind == .load && !x.started) = some loadEnt ∧
      b.paused = false ∧ b.arr.stopped = false ∧ b.passWaits passEnt = false ∧
      b.arr.q.find? (fun x => x.kind == .pass && !x.started) = some passEnt := by decide +kernel

theorem witness_array_step :
    let v := tileOf (put (arrTile [] 7)) 0
    v.paused = false ∧ v.powered = true ∧ v.arr.holds ≤ v.arr.held ∧ v.arr.portMeets = false ∧ v.contended = false ∧ v.stepPoison = none := by
  decide +kernel

/-- A load that meets a poisoned line, and one beside a mover operation: one of the two clauses on the free value applies. -/
def poisonLoad : Tile := { arrTile [{ loadEnt with started := true, start := 8 }] 7 with poison := [0x10000 / 64] }
theorem witness_step_poison_and_contention :
    let v := tileOf (put poisonLoad) 0
    let u := tileOf (put { poisonLoad with mover := [fillOp] }) 0
    v.arr.holds ≤ v.arr.held ∧ v.arr.portMeets = false ∧ v.contended = false ∧ v.stepPoison.isSome = true ∧ u.contended = true ∧
      u.arr.holds ≤ u.arr.held ∧ u.arr.portMeets = false ∧
      (Config.freeValue State.reset.chip.free % 2 = 1 ∨ Config.freeValue State.reset.chip.free % 2 ≠ 1) :=
  ⟨by decide +kernel, by decide +kernel, by decide +kernel, by decide +kernel, by decide +kernel, by decide +kernel, by decide +kernel,
    Decidable.em _⟩

/-- Two loads that run at once over images in one bank: a hold step. -/
def twoLoads : Tile :=
  arrTile [{ loadEnt with started := true, start := 7 }, { loadEnt with serial := 5, blk := 5, started := true, start := 7 }] 7

theorem witness_hold_step : (tileOf (put twoLoads) 0).arr.held < (tileOf (put twoLoads) 0).arr.holds := by decide +kernel

theorem test_hold_counts :
    let v := tileAfter (exec (.arrayStep 0) (put twoLoads))
    v.arr.held = 1 ∧ v.hold = 1 ∧ v.arr.step = 7 := by decide +kernel

/-- A pass whose last row is written. -/
def donePass : ArrEnt := { passEnt with started := true, start := 7, written := 1 }

theorem witness_pass_complete :
    let v := tileOf (put (arrTile [donePass] 263)) 0
    v.paused = false ∧ v.arr.q.find? (fun x => x.kind == .pass && x.started && x.written == x.m && decide (x.start + x.m + 255 ≤ v.arr.step)) =
      some donePass := by decide +kernel

theorem test_pass_complete_not_early : (tileAfter (exec (.passComplete 0) (put (arrTile [donePass] 262)))).arr.q = [donePass] := by decide +kernel

/-- A pass that a hardware fault meets, an item that runs, one that is paused, one with a detected exception, and one whose
pre-emption waits for the end of a pause. -/
theorem witness_array_events :
    let v := tileOf (put (arrTile [passEnt] 7)) 0
    let p := tileOf (put { arrTile [] 7 with paused := true, preAsk := true }) 0
    v.item = .running ∧ v.blocked = none ∧ v.pend = none ∧ v.arr.afault = 0 ∧ v.paused = false ∧ v.powered = true ∧ v.preAsk = false ∧
      v.arr.q.find? (fun x => x.kind == .pass && decide (x.written < x.m)) = some passEnt ∧
      p.item = .running ∧ p.paused = true ∧ p.preAsk = true ∧
      (tileOf (put { arrTile [] 7 with pend := some (0x10, 3) }) 0).pend = some (0x10, 3) := by decide +kernel

theorem test_mvp_fault :
    let v := tileAfter (exec (.arrayHwFault 0 true) (put mvmulQueued))
    v.pend = some (0x10, 4) ∧ v.mvpFenced = true ∧ v.acc.col = [] := by decide +kernel

/-! The vector engine (07 Tables 7.9 to 7.11) -/

/-- The register form of a row of Table 6.5, all other fields zero. -/
def vw (row : Nat) : BitVec 64 := BitVec.ofNat 64 (3 * 2 ^ 62 + row / 8 * 2 ^ 55 + row % 8 * 2 ^ 52)

/-- The hypotheses of the vector statement but the row, for a word and a tile. -/
def vecReady (w : BitVec 64) (s : State) : Bool :=
  let v := tileOf s 0
  s.chip.live && v.issues w (vXregs w.toNat) && iClass w.toNat == 3 && v.vec.q.isEmpty && v.arr.q.isEmpty && v.mover.isEmpty &&
    decide (v.pc + 8 < 0x10000) &&
    (match v.vecCheck w.toNat with
     | .ok os => (vecRun (s.chip.ctxAt v.ctx).seed s.chip.free (vecQueued v w.toNat os) (vecEntry v w.toNat os)).1.stop.isNone
     | .error _ => false)

/-- Every vector instruction is legal in its register form and runs. -/
theorem witness_vector_rows : ((vectorRows.map (·.2)).all (fun r => vRow (vw r).toNat == r && vecReady (vw r) (run (vw r) []))) = true := by
  decide +kernel


/-- ADD in descriptor form of two plain tensors into a third; the source's granule is poisoned. -/
def vecDescW : BitVec 64 := BitVec.ofNat 64 (3 * 2 ^ 62 + 2 ^ 60 + 1 * 2 ^ 47 + 2 * 2 ^ 42 + 2 * 2 ^ 37)
def vecPoisonTile : Tile := { tileRun vecDescW [(1, 0), (2, 128)] with mem := twoTensors, poison := [8] }

/-- A vector instruction that enters the queue and runs behind nothing, and one that meets poison. -/
theorem witness_vector_queue_room_and_poison :
    let s := put vecPoisonTile
    let v := tileOf s 0
    let s0 := run (vw 0) []
    s.chip.live = true ∧ v.issues vecDescW (vXregs vecDescW.toNat) = true ∧ iClass vecDescW.toNat = 3 ∧ vRow vecDescW.toNat = 0 ∧
      v.pc + 8 < 0x10000 ∧ v.vec.q = [] ∧ v.arr.q = [] ∧ v.mover = [] ∧
      (match v.vecCheck vecDescW.toNat with
       | .ok os => (vecRun (s.chip.ctxAt v.ctx).seed s.chip.free (vecQueued v vecDescW.toNat os) (vecEntry v vecDescW.toNat os)).1.stop.isSome
       | .error _ => false) = true ∧
      (match (tileOf s0 0).vecCheck (vw 0).toNat with
       | .ok os => (((s0.chip.setTile 0 { tileOf s0 0 with
            serial := (tileOf s0 0).serial + 1, pc := (tileOf s0 0).pc + 8
            vec := { (tileOf s0 0).vec with q := (tileOf s0 0).vec.q ++ [vecEntry (tileOf s0 0) (vw 0).toNat os] } }).vecSettle 0).tileAt 0).item == .running
       | .error _ => false) = true := by decide +kernel
/-- The third mask register of a tile with M1 = 0b1100 and M2 = 0b1010 after MAND, MOR, MXOR and MANDN (06 Table 6.5). -/
def maskTile : Tile := { tileRun 0 [] with vec := { Vec.fresh with m := [(1, 12), (2, 10)] } }
/-- A mask operation on M3, M1, M2. -/
def maskW (sub : Nat) : Nat := (vw (0xB0 + sub)).toNat + 3 * 2 ^ 47 + 1 * 2 ^ 42 + 2 * 2 ^ 37

theorem witness_mask_operations :
    vVop (maskW 3) = 0x16 ∧ vSub (maskW 3) < 4 ∧ vField (maskW 3) 0 = 3 ∧ (127 : Nat) < 128 ∧ vVop (vw 0xC0).toNat = 0x18 ∧
      ([VOpnd.none, .scalar 129].getD 1 .none = .scalar 129) ∧ vField ((vw 0xC0).toNat + 3 * 2 ^ 47) 0 ≠ 0 := by decide +kernel

theorem test_masks :
    ((List.range 4).map (fun k => (maskTile.moveX (maskW k) []).vec.mask 3)) = [8, 14, 6, 4] := by decide +kernel

theorem test_setvl_bounds :
    let n := (vw 0xC0).toNat + 3 * 2 ^ 47
    ((List.map (fun x => (maskTile.moveX n [.none, .scalar x]).vec.vl) [0, 1, 128, 129]) = [1, 1, 128, 128]) := by decide +kernel

/-- A tile with one executed entry in its vector queue, and one whose first table waits for its flip. -/
def vqTile : Tile :=
  { tileRun 0 [] with vec := { Vec.fresh with
      q := [{ serial := 0, pc := 0, w := (vw 0).toNat, wsr := none, xs := [], opnds := [], done := true, ftOld := none }] } }
def askedTile : Tile := { tileRun 0 [] with vec := { Vec.fresh with ft := [(3, { FTab.fresh with back := [(0, 7)], gen := 2 ^ 32 - 1, asked := true })] } }

theorem witness_vector_queue_and_tables :
    (put vqTile).chip.live = true ∧ (tileOf (put vqTile) 0).ready = true ∧ (tileOf (put vqTile) 0).pc + 8 < 0x10000 ∧
      (∃ e, (tileOf (put vqTile) 0).vec.q = [e] ∧ e.done = true) ∧ (tileOf (put vqTile) 0).paused = false ∧
      (tileOf (put vqTile) 0).blocked = none ∧ (∀ j < 4, ((tileOf (put vqTile) 0).vec.table j).held = []) ∧
      ((tileOf (put vqTile) 0).vec.table 3).asked = false ∧ (tileOf (put vqTile) 0).vec.readsBack 3 = false ∧
      (∀ j < 4, ((tileOf (put vqTile) 0).vec.table j).asked = false) ∧ ((tileOf (put askedTile) 0).vec.table 3).asked = true ∧
      ((tileOf (put askedTile) 0).vec.table 3).held = [] ∧ (tileOf (put askedTile) 0).vec.q = [] :=
  ⟨by decide +kernel, by decide +kernel, by decide +kernel, ⟨_, rfl, by decide +kernel⟩, by decide +kernel, by decide +kernel,
    by decide +kernel, by decide +kernel, by decide +kernel, by decide +kernel, by decide +kernel, by decide +kernel, by decide +kernel⟩

theorem test_flip_raises_generation :
    let f := (tileAfter (exec (.ftFlip 0 3) (put askedTile))).vec.table 3
    f.gen = 0 ∧ f.front = [(0, 7)] ∧ f.asked = false := by decide +kernel

theorem test_ft_write_refused_while_asked : (chipAfter (exec (.ftWrite 0 3 257 1) (put askedTile))).reply = [1] := by decide +kernel

/-! Synchronisation objects (03 R85 to R89) -/

theorem test_wait_condition_wraps : waitHolds 0x80000000 0x80000001 = false ∧ waitHolds 0 0x80000000 = false ∧ waitHolds 5 0xFFFFFFF0 = true := by
  decide

theorem witness_home_operations :
    State.reset.chip.live = true ∧ State.reset.chip.soAllowed 0 16383 = true ∧ State.reset.chip.soAllowed 63 16383 = false ∧
      waitHolds (State.reset.chip.soValue 5) 0 = true ∧ waitHolds (State.reset.chip.soValue 5) 1 = false ∧
      (∀ w ∈ State.reset.chip.so.waits, w.who ≠ .tile 199) := by decide +kernel

theorem test_home_signal_wraps :
    (chipAfter (exec (.homeSignal 0 7 2 false) (after (exec (.homeSet 0 7 0xFFFFFFFF) State.reset) State.reset))).soValue 7 = 1 := by
  decide +kernel

/-- A tile that waits on object 64 for the value 1, registered. -/
def waiting : State :=
  withChip (put waitTile) ((put waitTile).chip.modSo (fun q => { q with waits := [{ so := 64, target := 1, who := .tile 0 }, { so := 64, target := 9, who := .fw 3 }] }))

theorem witness_update_wakes :
    (∃ w ∈ waiting.chip.so.waits, w.so = 64 ∧ waitHolds 1 w.target = true ∧ w.who = .tile 0) ∧
      (∃ w ∈ waiting.chip.so.waits, w.so = 64 ∧ waitHolds 9 w.target = true ∧ w.who = .fw 3) ∧
      (waiting.chip.tileAt 0).blocked = some (.sowait 3 64 0 100) := by decide +kernel

theorem test_signal_wakes_tile :
    let c := chipAfter (exec (.homeSignal 0 64 1 false) waiting)
    (c.tileAt 0).blocked = none ∧ (c.tileAt 0).xr 3 = 1 ∧ (c.tileAt 0).pc = 8 ∧ c.so.waits = [{ so := 64, target := 9, who := .fw 3 }] := by
  decide +kernel

/-! Coherence (09) -/

/-- Line 1 is held by cache 3 in M with other bytes than memory; line 2 by caches 4 and 5 in S. -/
def ownedEnt : DirEnt := { owner := some 3, st := .m, sharers := [], data := List.replicate 64 7, poison := false, order := 0, clean := [], offered := false }
def sharedEnt : DirEnt := { owner := none, st := .e, sharers := [4, 5], data := [], poison := false, order := 1, clean := [], offered := false }
def held : State := withChip State.reset (State.reset.chip.modMem (fun m => { m with dir := [(1, ownedEnt), (2, sharedEnt)], dirSeq := 2 }))

theorem held_idle (pa : BitVec 52) (h : pa = 64 ∨ pa = 128) : lineIdle held pa := by
  rcases h with rfl | rfl <;> decide +kernel

theorem witness_holder_transitions :
    tabFind held.chip.mem.dir 1 = some ownedEnt ∧ ownedEnt.owner ≠ some 68 ∧ 68 ∉ ownedEnt.sharers ∧ ownedEnt.owner = some 3 ∧
      ownedEnt.st ≠ .e ∧ tabFind held.chip.mem.dir 2 = some sharedEnt ∧ sharedEnt.owner = none ∧
      (held.chip.mem.cached 68 1).length < cacheLines 68 := by decide +kernel

theorem witness_coherent_reads : lineIdle held 64 ∧ held.chip.mem.hasRoom 1 = true ∧ held.chip.mem.holdsShared 2 4 = true ∧
    held.chip.mem.holdsShared 1 68 = false ∧ lineIdle held 128 :=
  ⟨held_idle 64 (.inl rfl), by decide +kernel, by decide +kernel, by decide +kernel, held_idle 128 (.inr rfl)⟩

/-- Table 9.4: the owner in M answers and goes to O; the reader shares. -/
theorem test_read_shared_of_owned :
    let c := chipAfter (exec (.readShared 68 64 none ⟨.none, none⟩) held)
    (tabFind c.mem.dir 1).map (fun e => (e.owner, e.st, e.sharers)) = some (some 3, .o, [68]) := by decide +kernel

theorem witness_coherent_writes : lineIdle held 64 ∧ held.chip.protectedN (64 * 1) 64 = false ∧ held.chip.mem.hasRoom 1 = true ∧
    held.chip.ledge.fenced.contains (ledgeOfChan (held.chip.mem.chanOf 64)) = false ∧ (64 : BitVec 52).toNat / 64 = 1 :=
  ⟨held_idle 64 (.inl rfl), by decide +kernel, by decide +kernel, by decide +kernel, by decide +kernel⟩

theorem witness_write_is_visible : held.chip.mem.bytes.wf = true ∧ (List.replicate 64 (7 : Byte)).length = 64 ∧ (2 : Nat) ≠ 1 := by
  decide +kernel

/-- A line with a transaction under way that snooped cache 3, and one that a hint has placed in a die cache. -/
def busyTxn : Txn := { Txn.of .writeFull 0x7000 none .none with snooped := [3], hint := 0x8080 }
def busyLine : State := withChip State.reset (State.reset.chip.modMem (fun m => { m with busy := [(1, busyTxn)] }))
def offeredEnt : DirEnt := { ownedEnt with owner := some 65, offered := true }
def offeredLine : State := withChip State.reset (State.reset.chip.modMem (fun m => { m with dir := [(1, offeredEnt)] }))

theorem witness_line_transactions :
    held.chip.live = true ∧ held.chip.mem.backed 64 = true ∧ lineIdle held 64 ∧ tabFind held.chip.mem.dir 1 = some ownedEnt ∧
      ownedEnt.owner = some (3 : Fin 69).val ∧ (List.replicate 64 (7 : Byte)).length = 64 ∧ lineIdle held 128 ∧
      (4 : Fin 69).val ∈ sharedEnt.sharers ∧ tabFind busyLine.chip.mem.busy 1 = some busyTxn ∧ busyLine.chip.mem.waitq = [] ∧
      busyTxn.kind = .writeFull ∧ (3 : Fin 69).val ∈ busyTxn.snooped ∧ busyLine.held = [] ∧ busyLine.chip.mem.queueFull 1 = false ∧
      busyLine.chip.accepts 1 = true ∧ (busyLine.chip.hintUsable busyTxn.hint).isSome = true ∧
      tabFind offeredLine.chip.mem.busy 1 = none ∧ tabFind offeredLine.chip.mem.dir 1 = some offeredEnt ∧ offeredEnt.offered = true ∧
      offeredEnt.owner.isSome = true ∧ offeredEnt.sharers = [] :=
  ⟨by decide +kernel, by decide +kernel, held_idle 64 (.inl rfl), by decide +kernel, by decide +kernel, by decide +kernel,
    held_idle 128 (.inr rfl), by decide +kernel, by decide +kernel, by decide +kernel, by decide +kernel, by decide +kernel,
    by decide +kernel, by decide +kernel, by decide +kernel, by decide +kernel, by decide +kernel, by decide +kernel, by decide +kernel,
    by decide +kernel, by decide +kernel⟩

/-! Events and channels (18 R479, 08) -/

/-- The event ring configured, with room and full. -/
def ringRoom : Chip := State.reset.chip.modLog (fun l => { l with logBase := 4096, logEn := true, tail := 255 })
def ringFull : Chip := State.reset.chip.modLog (fun l => { l with logBase := 4096, logEn := true, tail := 256 })

theorem witness_event_ring :
    State.reset.chip.log.logBase = 0 ∧ ringRoom.log.logBase ≠ 0 ∧ ringRoom.log.logEn = true ∧
      sub32 ringRoom.log.tail ringRoom.log.head ≠ 2 ^ ringRoom.log.logLog2 ∧ sub32 ringFull.log.tail ringFull.log.head = 2 ^ ringFull.log.logLog2 ∧
      ringFull.log.logBase ≠ 0 ∧ ringFull.log.logEn = true ∧ ringRoom.mem.backed (4096 + 64 * (255 % 2 ^ ringRoom.log.logLog2)) = true ∧
      ringRoom.mem.backed (2 ^ 47 + 64 * (255 % 2 ^ ringRoom.log.logLog2)) = false := by decide +kernel

theorem witness_fatal_in_service : State.reset.chip.boot.step = 7 := by decide +kernel

theorem test_snoop_timeout_is_fatal :
    let c := chipAfter (exec (.snoopTimeout 64 3) busyLine)
    c.boot.safe = true ∧ c.boot.report.code = 0x11 ∧ c.live = false := by decide +kernel

/-- A DDR5 channel with corrected errors counted, and the last channel of an HBM stack. -/
def ceChan : State := withChip State.reset (State.reset.chip.setChan 399 { Chan.fresh with ceWin := 2, ceAt := 5 })

theorem witness_channel_work :
    State.reset.chip.live = true ∧ State.reset.chip.asleep 383 = false ∧ 0 < State.reset.chip.mem.chanBytes 383 ∧
      0 < State.reset.chip.mem.chanBytes 399 ∧ (State.reset.chip.chanAt 383).scrubAt + 64 < State.reset.chip.mem.chanBytes 383 ∧
      State.reset.chip.bankFull 383 (State.reset.chip.mem.bankOf (State.reset.chip.mem.globalOf 383 0 / 64)) = false ∧
      tabGet 0 (State.reset.chip.chanAt 383).used 2 + 10 ≤ shareOf 383 2 (State.reset.chip.chanAt 383).hot ∧
      (State.reset.chip.chanAt 383).scrubLate = false ∧
      tabGet 0 (State.reset.chip.chanAt 399).used 3 + 500 * chanBanks 399 ≤ shareOf 399 3 (State.reset.chip.chanAt 399).hot ∧
      (31 : Fin 64).val < chanBanks 383 ∧ (63 : Fin 64).val < chanBanks 399 ∧ (State.reset.chip.chanAt 383).rfmWait = [] ∧
      (State.reset.chip.chanAt 383).want = [] ∧ 0 < (ceChan.chip.chanAt 399).ceWin ∧
      State.reset.chip.mem.backed 0 = true ∧ State.reset.chip.mem.chanOf 0 = 384 := by decide +kernel

/-- A channel whose bank 0 owes an RFM for a given count of activations. -/
def rfmChan (n : Nat) : State := withChip State.reset (State.reset.chip.setChan 383 { Chan.fresh with acts := [(0, n)], rfmWait := [0] })

/-- RAAIMT and RAAMMT are values of the memory devices: wherever the first is positive and the second is not below it, the counts meet the
clauses. -/
theorem witness_rfm (h : 0 < Config.raaimt 383 ∧ Config.raaimt 383 ≤ Config.raammt 383) :
    tabGet 0 (State.reset.chip.chanAt 383).acts 0 + 0 < Config.raaimt 383 ∧
      tabGet 0 (State.reset.chip.chanAt 383).acts 0 + Config.raaimt 383 ≤ Config.raammt 383 ∧
      tabGet 0 (State.reset.chip.chanAt 383).acts 0 + Config.raaimt 383 < 2 * Config.raaimt 383 ∧
      tabGet 0 (State.reset.chip.chanAt 383).used 1 + 10 ≤ shareOf 383 1 (State.reset.chip.chanAt 383).hot ∧
      ((rfmChan (Config.raaimt 383)).chip.chanAt 383).rfmWait = [0] ∧ ((rfmChan (Config.raaimt 383)).chip.chanAt 383).want = [] ∧
      tabGet 0 ((rfmChan (Config.raaimt 383)).chip.chanAt 383).acts 0 = Config.raaimt 383 ∧ 10 ≤ shareOf 383 1 true := by
  have e : tabGet 0 (State.reset.chip.chanAt 383).acts 0 = 0 := by decide +kernel
  have e1 : tabGet 0 ((rfmChan (Config.raaimt 383)).chip.chanAt 383).acts 0 = Config.raaimt 383 := rfl
  refine ⟨by omega, by omega, by omega, by decide +kernel, by decide +kernel, by decide +kernel, e1, by decide +kernel⟩

theorem test_mem_ce_window : ((chipAfter (exec (.memCe 399) (counted [srcDispatch] ceChan))).chanAt 399).ceWin = 0 := by decide +kernel

theorem test_third_retry_poisons : (chipAfter (exec (.channelRetry 64 2 true) State.reset)).mem.poison = [1] := by decide +kernel

/-! Ledge queues and engines (10) -/

/-- Translations of CTX0 for a unit: 2 GiB from virtual address 0 to physical address 0, all rights. -/
def mapped (u : Nat) : Chip := State.reset.chip.modMmu (fun m => { m with tlb := [(u, [{ ctx := 0, va := 0, size := 0x80000000, pa := 0, flags := 0xFF }])] })

/-- The bytes of a ledge command: SEQ, opcode, flags, its signal, and its operands at byte 24 (10 Tables 10.2, 10.3). -/
def lbytes (op fl so sval : Nat) (body : List Byte) : List Byte :=
  leBytes 2 0 ++ leBytes 1 op ++ leBytes 1 fl ++ leBytes 2 0 ++ leBytes 2 so ++ leBytes 4 sval ++ zeros 12 ++ (body ++ zeros 40).take 40

/-- A fetched command of queue 319. -/
def lcmd (bs : List Byte) : LCmd := { key := 9, lq := 319, ctx := 0, bytes := bs, ran := false, stats := [], flags := 0, count := 0, run := none, next := 0, got := [] }
/-- The package with that command in its queue. -/
def ledgeState (k : LCmd) : State := withChip State.reset ((mapped 214).modLedge (fun l => { l with cmds := [k], next := 10 }))

/-- The one queue with commands of its front-end may issue at any time (10 R257). -/
theorem ledge_turn (k : LCmd) (h : k.lq = 319) (n : Nat) : ((ledgeState k).chip.takeTurn 319 n).isSome = true := by
  unfold Chip.takeTurn
  simp [ledgeState, withChip, Chip.modLedge, h]
  split <;> rfl

/-- A legal command of each opcode. -/
def ledgeBodies : List (List Byte) :=
  [[], leBytes 8 0x1000 ++ leBytes 8 64 ++ leBytes 4 7, leBytes 8 0x1000 ++ leBytes 8 0x2000 ++ leBytes 8 64,
   leBytes 8 0x1000 ++ leBytes 8 64 ++ leBytes 4 0x40000000, leBytes 8 0x1000 ++ leBytes 8 0x2000 ++ leBytes 8 64 ++ leBytes 1 1,
   leBytes 8 0x1000 ++ leBytes 8 64 ++ leBytes 8 0x3000, leBytes 8 0x1000 ++ leBytes 8 0 ++ zeros 8 ++ leBytes 8 1,
   leBytes 8 0x1000 ++ leBytes 8 64 ++ leBytes 8 0x40]

theorem witness_ledge_rows :
    ledgeBodies.zipIdx.all (fun p =>
      let k := lcmd (lbytes p.2 0 0 0 p.1)
      (ledgeState k).chip.live && (ledgeState k).calm && k.lq == 319 && decide (1 ≤ ((ledgeState k).chip.lqAt 319).weight) && (ledgeState k).chip.lqTurn 319 == some k && k.op == p.2 && ((ledgeState k).chip.lcmdRefusals k).isEmpty &&
        k.stats.isEmpty) = true := by decide +kernel

/-- A command with a reserved flag, and one whose signal nobody granted. -/
theorem witness_ledge_refusals :
    ledgeBodies.zipIdx.all (fun p =>
      let k := lcmd (lbytes p.2 0x80 0 0 p.1)
      (ledgeState k).chip.lqTurn 319 == some k && k.op == p.2 && !((ledgeState k).chip.lcmdRefusals k).isEmpty) = true ∧
    (let k := { lcmd (lbytes 0 2 16383 1 []) with ctx := 5 }
     (ledgeState k).chip.lcmdRefusals k = [(2, 16383, 0)]) := by decide +kernel

theorem witness_ledge_lines :
    let k1 := lcmd (lbytes 1 0 0 0 (leBytes 8 0x1000 ++ leBytes 8 64 ++ leBytes 4 7))
    let k2 := lcmd (lbytes 2 0 0 0 (leBytes 8 0x1000 ++ leBytes 8 0x2000 ++ leBytes 8 64))
    let k3 := lcmd (lbytes 3 0 0 0 (leBytes 8 0x1000 ++ leBytes 8 64 ++ leBytes 4 0x40000000))
    let e : TlbEnt := { ctx := 0, va := 0, size := 0x80000000, pa := 0, flags := 0xFF }
    [k1, k2, k3].all (fun k =>
      let c := (ledgeState k).chip
      c.live && c.lqTurn 319 == some k && k.lq == 319 && (c.lcmdRefusals k).isEmpty && k.stats.isEmpty &&
        (match c.place (lqTlb 319) k.ctx (k.f 24 8 % 2 ^ 64) true with | .ok p => p == (0x1000, e) | .error _ => false) &&
        (ledgeState k).calm && !c.fencedAt 0x1000 &&
        (match c.takeTurn 319 1, c.takeTurn 319 2 with
         | some (d, a), some (e', b) => a == 64 && b == 64 && !d.fencedAt 0x1000 && !e'.fencedAt 0x1000
         | _, _ => false)) = true ∧ min (k1.f 32 8 / 64 - k1.next) 64 = 1 ∧ min (k3.f 32 8 / 64 - k3.next) 64 = 1 ∧
      min (k2.f 40 8 / 64 - k2.next) (64 / 2) = 1 ∧
      bit k2.hflags 3 = false ∧
      (match ((ledgeState k2).chip.tlbFill (lqTlb 319) [e]).place (lqTlb 319) 0 (k2.f 32 8 % 2 ^ 64) false with
       | .ok p => p == (0x2000, e) | .error _ => false) = true := by decide +kernel

theorem test_ledge_fill : (chipAfter (exec (.ledgeFill 319) (ledgeState (lcmd (lbytes 1 0 0 0 (leBytes 8 0x1000 ++ leBytes 8 64 ++ leBytes 4 7)))))).mem.readLE 0x103C 4 = 7 := by
  decide +kernel

/-- SCALE doubles 3 (0x40400000) to 6 (0x40C00000). -/
theorem test_ledge_scale :
    let k := lcmd (lbytes 3 0 0 0 (leBytes 8 0x1000 ++ leBytes 8 64 ++ leBytes 4 0x40000000))
    let s := withChip State.reset ((ledgeState k).chip.modMem (fun m => m.store 0x1000 (leBytes 4 0x40400000) false))
    (chipAfter (exec (.scale 319) s)).mem.readLE 0x1000 4 = 0x40C00000 := by decide +kernel

/-- A bound queue of 64 slots with a given submission count in its object. -/
def lqState (n : Nat) (slot : List Byte) : State :=
  withChip State.reset (((mapped 214).modLedge (fun l => { l with lq := [(319, { Lq.fresh with bound := true, base := 0x10000, so := 100 })] })).modSo
    (fun q => { q with value := [(100, n)] }) |>.modMem (fun m => m.store 0x10000 slot false))

theorem witness_ledge_fetching :
    let a := (lqState 0 []).chip
    let b := (lqState 65 []).chip
    let d := (lqState 1 (lbytes 0 0 0 0 [])).chip
    (a.lqAt 319).bound = true ∧ (a.lqAt 319).overrun = false ∧ (a.lqAt 319).unbind = none ∧ a.lqPending 319 = 0 ∧
      2 ^ (b.lqAt 319).log2 < b.lqPending 319 ∧ b.lqCmds 319 = [] ∧ d.lqPending 319 = 1 ∧ d.lqCmds 319 = [] ∧
      (match (d.lqSlot 319).1 with | .ok bs => bs == lbytes 0 0 0 0 [] | .error _ => false) = true ∧
      d.ledge.fenced.contains (207 : Fin 208).val = false ∧ (d.lqAt 319).miss = none ∧ (lqState 1 [1]).calm = true ∧
      (match ((lqState 1 [1]).chip.lqSlot 319).1 with | .ok _ => false | .error j => j == 0) = true ∧
      (lqState 0 []).calm = true ∧ (lqState 65 []).calm = true ∧ (lqState 1 (lbytes 0 0 0 0 [])).calm = true := by decide +kernel

theorem test_ledge_overrun : ((chipAfter (exec (.ledgeNotify 319) (lqState 65 []))).lqAt 319).overrun = true := by decide +kernel

/-- A queue that has waited since count 0 for a command whose SEQ does not match. -/
theorem witness_ledge_ahead :
    let s := withChip State.reset ((lqState 1 [1]).chip.modLedge (fun l => { l with lq := [(319, { Lq.fresh with bound := true, base := 0x10000, so := 100, miss := some (0, 0) })] }))
    let c := (counted [lqSrc 319] s).chip.passTo (lqSrc 319) 4000
    s.calm = true ∧ (s.chip.lqAt 319).miss = some (0, 0) ∧ c.lqMay 319 = true ∧ c.lqPending 319 ≤ 2 ^ (s.chip.lqAt 319).log2 ∧
      (match (c.lqSlot 319).1 with | .ok _ => false | .error j => j == 0) = true := by decide +kernel

/-- A step of one bench: gradients at 0x1000, moments at 0x2000, weights at 0x4000, without copy, version block or mirror (11 Table 11.5). -/
def optDesc (version : Nat) : List Byte :=
  leBytes 8 0x1000 ++ leBytes 8 0x2000 ++ leBytes 8 0 ++ leBytes 8 0x4000 ++ zeros 8 ++ leBytes 8 version ++ zeros 4 ++ leBytes 1 1 ++ zeros 75
def optRun (version next : Nat) (begun : Bool) : OptRun :=
  { desc := optDesc version, mir := [], s := 0, a1 := 0, a2 := 0, d := 0, next := next, last := 1, begun := begun, ended := false, torn := false,
    version := 0, open_ := [], acked := [], failed := false, verSent := false, stopped := false }
def benchCmd (r : OptRun) : LCmd := { lcmd (lbytes 6 0 0 0 (leBytes 8 0x8000 ++ leBytes 8 0 ++ zeros 8 ++ leBytes 8 1)) with ran := true, run := some r }

theorem witness_bench :
    let r := optRun 0 0 true
    let k := benchCmd r
    let c := (ledgeState k).chip
    let e : TlbEnt := { ctx := 0, va := 0, size := 0x80000000, pa := 0, flags := 0xFF }
    c.live = true ∧ c.lqStep 319 = some (k, r) ∧ r.next < r.last ∧ fieldLE r.desc 40 8 = 0 ∧ fieldLE r.desc 32 8 = 0 ∧ fieldLE r.desc 52 1 = 1 ∧
      k.mirrored = false ∧
      (match c.placesOf k (r.tensors r.next) with | .ok l => l == [(0x1000, e), (0x2000, e), (0x4000, e)] | .error _ => false) = true ∧
      (∀ p ∈ [0x1000, 0x2000, 0x4000], homeOf p = homeOf 0x4000 ∧ c.mem.poisonedN p 256 = false) ∧
      c.fencedAt 0x4000 = false ∧ (ledgeState k).calm = true ∧ c.benchesOut (c.mem.engineOf 0x4000) < 64 ∧ (c.takeTurn 319 12).isSome = true := by decide +kernel

theorem witness_versions :
    let r := optRun 0x5000 0 false
    let r1 := optRun 0x5000 1 true
    let e : TlbEnt := { ctx := 0, va := 0, size := 0x80000000, pa := 0, flags := 0xFF }
    let c := (ledgeState (benchCmd r)).chip
    let c1 := (ledgeState (benchCmd r1)).chip
    c.lqStep 319 = some (benchCmd r, r) ∧ fieldLE r.desc 40 8 ≠ 0 ∧ r.begun = false ∧ r.next < r.last ∧ e.size = 0x80000000 ∧
      (match c.versionAt (lqTlb 319) 0 (fieldLE r.desc 40 8) with | .ok p => p == (0x5000, 0, 0) | .error _ => false) = true ∧
      c1.lqStep 319 = some (benchCmd r1, r1) ∧ r1.begun = true ∧ r1.ended = false ∧ r1.last ≤ r1.next ∧
      (ledgeState (benchCmd r)).calm = true ∧ (ledgeState (benchCmd r1)).calm = true := by decide +kernel

theorem test_version_turns_busy :
    (chipAfter (exec (.versionBegin 319) (ledgeState (benchCmd (optRun 0x5000 0 false))))).mem.readLE 0x5000 8 = 2 ^ 63 := by decide +kernel

theorem test_version_counts_up :
    (chipAfter (exec (.versionEnd 319) (ledgeState (benchCmd (optRun 0x5000 1 true))))).mem.readLE 0x5000 8 = 1 := by decide +kernel

/-- A command that has run, with a signal of 5 to object 16383 and without. -/
def ranCmd (fl so sval : Nat) : LCmd := { lcmd (lbytes 0 fl so sval []) with ran := true }

theorem witness_ledge_completion :
    let k := ranCmd 2 16383 5
    let c := (ledgeState k).chip
    (ledgeState k).calm = true ∧ c.lqTurn 319 = none ∧ (c.lqCmds 319).find? (fun x => x.over && !c.versionOut x) = some k ∧ k.run = none ∧ c.lqPending 319 = 0 ∧ (c.lqAt 319).unbind = none ∧ bit k.hflags 2 = false ∧
      bit k.hflags 1 = true ∧ c.soAllowed k.ctx (k.f 6 2) = true ∧ (c.lqAt 319).so ≠ k.f 6 2 ∧ bit (ranCmd 0 0 0).hflags 1 = false ∧
      (ledgeState (ranCmd 0 0 0)).chip.lqCmds 319 = [ranCmd 0 0 0] := by decide +kernel

theorem witness_ledge_judge : (ledgeState (ranCmd 2 16383 5)).chip.lqJudge 319 = (ledgeState (ranCmd 2 16383 5)).chip := by
  have h : (ledgeState (ranCmd 2 16383 5)).chip.lqTurn 319 = none := by decide +kernel
  simp only [Chip.lqJudge, h]

theorem test_ledge_completion_signals :
    let c := chipAfter (exec (.ledgeCommandComplete 319) (ledgeState (ranCmd 2 16383 5)))
    c.soValue 16383 = 5 ∧ c.lqCmds 319 = [] := by decide +kernel

/-! Gradient buckets (11) -/

/-- Bucket 4095 over one page at 0x10000, in a state, expecting 2 elements, of CTX0, signalling 3 to object 70. -/
def bucketState (st : BucketSt) (applied : Nat) : State :=
  withChip State.reset (State.reset.chip.setBucket 4095
    { Bucket.fresh with
      st := st, base := 0x10000, len := 64, expect := 2, applied := applied, so := 70, sval := 3, timeout := 5, pages := [(0x10000, 0x10000, 64)]
      filled := if st = .filling then 0 else 64 })

theorem witness_buckets :
    let b := (bucketState .open_ 0).chip.bucketAt 4095
    (∀ g < 10, ((bucketState .open_ 0).chip.bucketAt g).applied ≤ ((bucketState .open_ 0).chip.bucketAt g).expect) ∧ b.applied ≤ b.expect ∧
      b.refuses 0x10000 3 none = 0 ∧ (bucketState .open_ 0).chip.ledge.fenced.contains ((bucketState .open_ 0).chip.mem.engineOf 0x10000) = false ∧
      b.refuses 0x10000 7 none = 4 ∧ b.refuses 0x10040 3 none = 2 ∧ b.refuses 0x10000 3 (some 1) = 3 ∧
      Bucket.fresh.refuses 0x10000 3 none = 1 ∧ b.timeout ≠ 0 ∧ b.late = false ∧ b.st = .open_ ∧
      ((bucketState .filling 2).chip.bucketAt 4095).st = .filling ∧ ((bucketState .closing 2).chip.bucketAt 4095).st = .closing ∧
      ((bucketState .aborting 1).chip.bucketAt 4095).st = .aborting ∧
      (bucketState .open_ 0).calm = true ∧ (bucketState .closing 2).calm = true ∧ (bucketState .aborting 1).calm = true ∧
      (bucketState .filling 2).calm = false ∧ (bucketState .filling 2).held = [] ∧ (bucketState .filling 2).chip.mem.busy = [] ∧
      (bucketState .filling 2).chip.mem.waitq = [] ∧
      ((bucketState .filling 2).chip.bucketAt 4095).unfilled = [0x10000] ∧
      ((((bucketState .filling 2).chip.attempt (bucketState .filling 2).ident).doBucketLate 4095).mem.met = []) ∧
      (bucketState .closing 2).chip.soAllowed ((bucketState .closing 2).chip.bucketAt 4095).ctx ((bucketState .closing 2).chip.bucketAt 4095).so = true := by
  decide +kernel

/-- The channels of that state accept requests. -/
theorem witness_bucket_lines (ln : Nat) : (bucketState .filling 2).chip.accepts ln = true := by
  have h : (bucketState .filling 2).chip.rw 0x400070 = 0 := by decide +kernel
  have h1 : ∀ ch, (bucketState .filling 2).chip.chanAt ch = Chan.fresh := fun _ => rfl
  simp [Chip.accepts, Chip.bankFull, h1, Chip.asleep, h, Chan.fresh, tabGet, bit]

/-- Every bucket of the model holds at most what it expects in that state. -/
theorem witness_bucket_bound (g : Nat) : ((bucketState .open_ 0).chip.bucketAt g).applied ≤ ((bucketState .open_ 0).chip.bucketAt g).expect := by
  by_cases h : 4095 = g
  · subst h; decide +kernel
  · simp [bucketState, withChip, Chip.bucketAt, Chip.setBucket, Chip.modBucket, State.reset, Chip.reset, tabSet, tabGet, h, Bucket.fresh]

/-- 1.5 and 2.5 added to zero; the second element closes the bucket. -/
theorem test_contribution_closes :
    let s := bucketState .open_ 0
    let c := chipAfter (exec (.contribution 4095 0x10000 3 [0x3FC00000, 0x40200000, 0, 0, 0, 0, 0, 0, 0, 0, 0, 0, 0, 0, 0, 0] false none 0x4000) s)
    c.mem.readLE 0x10000 4 = 0x3FC00000 ∧ c.mem.readLE 0x10004 4 = 0x40200000 ∧ (c.bucketAt 4095).st = .closing ∧ c.reply = [0] := by
  decide +kernel

theorem test_contribution_beyond_expect_refused :
    let c := chipAfter (exec (.contribution 4095 0x10000 7 [] false none 0x4000) (bucketState .open_ 0))
    (c.bucketAt 4095).applied = 0 ∧ (c.bucketAt 4095).refused = 1 ∧ c.reply = [1] := by decide +kernel

theorem test_bucket_signals :
    let c := chipAfter (exec (.bucketComplete 4095) (bucketState .closing 2))
    c.soValue 70 = 3 ∧ (c.bucketAt 4095).st = .free := by decide +kernel

/-! The host complex (12) -/

theorem witness_cores :
    State.reset.chip.live = true ∧ State.reset.chip.coreSt 63 = .active ∧ State.reset.chip.coreSt 63 ≠ .off ∧ 0 < (2047 : BitVec 32).toNat ∧
      (2047 : BitVec 32).toNat < 2048 ∧ (6 : Fin 8).val < 7 ∧ 2048 ≤ (2048 : BitVec 32).toNat ∧
      (withChip State.reset (State.reset.chip.modIrq (fun q => { q with core := [(63, .off)] }))).chip.coreSt 63 = .off := by decide +kernel

theorem test_msi_wakes_gated_core :
    let s := withChip State.reset (State.reset.chip.modIrq (fun q => { q with core := [(63, .gated)] }))
    let c := chipAfter (exec (.msiWrite 63 6 2047) s)
    c.coreSt 63 = .active ∧ c.pendingIds 63 6 = [2047] := by decide +kernel

theorem test_msi_reserved_identity : (chipAfter (exec (.msiWrite 63 7 5) State.reset)).irq = State.reset.chip.irq := by decide +kernel

/-- Region 3: memory of CTX0 from 0x10000, for requester 0x0100 of port 0; region 4: file 5 of core 63. -/
def pcieState : State :=
  withChip State.reset { mapped 230 with pcie := [
    (3, { PcieRegion.fresh with valid := true, reqid := 0x100, reqmask := 0xFFFF, vbase := 0x10000, len := 0x1000, perm := 3 }),
    (4, { PcieRegion.fresh with valid := true, msi := true, reqid := 0x100, reqmask := 0xFFFF, hart := 63, file := 5 })] }
/-- The last byte of that region, and the one after it. -/
def tlpIn : Tlp := { port := 0, reqid := 0x100, addr := 0x10FFF, bytes := [0x5A], poison := false, ro := false }
def tlpOut : Tlp := { tlpIn with addr := 0x11000 }

theorem witness_pcie :
    let c := pcieState.chip
    c.live = true ∧ c.rootPort 0 = true ∧ (c.pcieMatch tlpIn 1 true).isSome = true ∧ (c.pcieMatch tlpIn 1 false).isSome = true ∧
      (c.spanLines iotlb 0 0x10FFF 1 true).fault = none ∧ (c.spanLines iotlb 0 0x10FFF 1 false).fault = none ∧
      pcieState.calm = true ∧ tlpPeer tlpIn 1 = false ∧ tlpPeer { tlpIn with addr := 0xF80000000000 + 2 ^ 40 } 1 = true ∧
      (((withChip State.reset { c with mmu := { tlb := [] } }).chip).spanLines iotlb 0 0x10FFF 1 true).fault.isSome = true ∧
      c.pcieMatch tlpOut 1 true = none ∧ c.pcieMatch tlpOut 1 false = none ∧ (5 : Nat) < 8 ∧
      (0xFD00001FD000 : Nat) = 0xFD0000000000 + 0x8000 * 63 + 0x1000 * 5 := by decide +kernel

theorem test_pcie_write : (chipAfter (exec (.pcieWriteTlp tlpIn) pcieState)).mem.readLE 0x10FFF 1 = 0x5A := by decide +kernel

theorem test_pcie_msi : (chipAfter (exec (.pcieMsi 0 0x100 0xFD00001FD000 9) pcieState)).pendingIds 63 5 = [9] := by decide +kernel

/-! Haul (13) -/

/-- An Ethernet frame with an IPv4 packet. -/
def ipFrame (proto : Nat) (body : List Byte) : List Byte :=
  beBytes 6 0x020000000001 ++ beBytes 6 0x020000000002 ++ beBytes 2 0x0800 ++ beBytes 1 0x45 ++ zeros 8 ++ beBytes 1 proto ++ zeros 2 ++
    beBytes 4 0x0A000002 ++ beBytes 4 0x0A000001 ++ body
/-- A frame with a Haul packet. -/
def haulFrame (bs : List Byte) : Frame :=
  { bytes := ipFrame 17 (beBytes 2 1 ++ beBytes 2 46170 ++ beBytes 2 (8 + bs.length) ++ beBytes 2 0 ++ bs), fcsOk := true }
/-- A Haul packet of connection 7 in epoch 5 (13 Table 13.2). -/
def haulPkt (op psn scum : Nat) (hdr pay : List Byte) : List Byte :=
  beBytes 1 0x10 ++ beBytes 1 op ++ beBytes 2 pay.length ++ beBytes 2 7 ++ beBytes 2 5 ++ beBytes 4 psn ++ beBytes 4 scum ++ hdr ++ pay
/-- The packet as its receiver parses it. -/
def pktOf (bs : List Byte) : Pkt :=
  { src := 0xFFFF0A000002, dst := 0xFFFF0A000001, ce := false, proto := 17, sport := 1, dport := 46170, bytes := bs }

/-- Connection 7 of CTX0 over sub-port 0, OPEN in epoch 5, with room for two units. -/
def openConn : Conn :=
  { Conn.fresh with st := .open_, cookie := 99, peers := [0xFFFF0A000002], mask := 1, peerConn := 8, epoch := 5, timeout := 10
                    rx := { HRecv.fresh with limit := 2 }, tx := { HSend.fresh with limit := 100 } }
def fabState (x : Conn) : State :=
  counted [srcDispatch, srcFabric]
    (withChip State.reset ((mapped 231).modFab (fun f => { f with port := [(0, { SubPort.fresh with up := true })], conn := [(7, x)] })))

/-- A legal packet of each sequenced operation. -/
def haulBodies : List (Nat × List Byte × List Byte) :=
  [(1, zeros 16, zeros 64), (2, zeros 4 ++ beBytes 4 1 ++ zeros 32, []), (3, zeros 16, zeros 64), (4, zeros 16, zeros 64),
   (5, zeros 8, zeros 64), (6, beBytes 2 70 ++ zeros 2 ++ beBytes 4 3, [])]

/-- A legal packet of each operation arrives on an OPEN connection: new, beyond the credit, beyond the window, below it, and held already. -/
theorem witness_haul_sequenced :
    haulBodies.all (fun b =>
      let pk := fun (psn : Nat) => pktOf (haulPkt b.1 psn 0 b.2.1 b.2.2)
      let fr := fun (psn : Nat) => haulFrame (pk psn).bytes
      let s := fabState openConn
      let x := (haulOn s.chip 0 7 (pk 0)).connAt 7
      [0, 1023, 1024, 2 ^ 32 - 1].all (fun n =>
        s.chip.live && (match s.chip.haulOf 0 (fr n) with | some p => p.bytes == (pk n).bytes | none => false) &&
          fieldBE (pk n).bytes 1 1 == b.1 && (s.chip.portAt 0).up && (fr n).fcsOk && decide ((fr n).bytes.length ≤ 9216) &&
          !haulBad (pk n).bytes && fieldBE (pk n).bytes 4 2 == 7 && (s.chip.connAt 7).st == .open_ && fieldBE (pk n).bytes 6 2 == 5) &&
      !bit (fieldBE (pk 0).bytes 0 1) 1 && seqGe 0 x.rx.w && seqGe 1023 x.rx.w && decide (sub32 1023 x.rx.w < 1024) &&
      (tabFind x.rx.slots 0).isNone && seqGe x.rx.limit ((x.rx.acc + 1) % 2 ^ 32) && !seqGe x.rx.limit ((x.rx.acc + 3) % 2 ^ 32) &&
      seqGe 1024 x.rx.w && decide (1024 ≤ sub32 1024 x.rx.w) && !seqGe (2 ^ 32 - 1) x.rx.w) = true := by decide +kernel

/-- The slots of that connection hold a packet that is complete, one that was refused, and one without status. -/
theorem witness_haul_duplicates :
    let q := fun (st : RxSt) (code : Nat) => ({ st := st, report := false, op := 6, hdr := zeros 8, payload := [], poison := false, code := code
                                                detail := 0, region := none, units := 0 } : RxSlot)
    let x := ((fabState { openConn with rx := { openConn.rx with slots := [(0, q .complete 0), (1, q .complete 6), (2, q .waiting 0)] } }).chip.connAt 7)
    (fabState openConn).calm = true ∧ tabFind x.rx.slots 0 = some (q .complete 0) ∧ tabFind x.rx.slots 1 = some (q .complete 6) ∧
      tabFind x.rx.slots 2 = some (q .waiting 0) ∧ seqGe 2 x.rx.w = true ∧ sub32 2 x.rx.w < 1024 := by decide +kernel

theorem test_haul_signal_applies :
    let c := chipAfter (exec (.haulSignal 0 (haulFrame (haulPkt 6 0 0 (beBytes 2 70 ++ zeros 2 ++ beBytes 4 3) []))) (fabState openConn))
    c.soValue 70 = 3 ∧ (c.portAt 0).frames = 1 := by decide +kernel

theorem test_haul_window_counted :
    let c := chipAfter (exec (.haulSignal 0 (haulFrame (haulPkt 6 1024 0 (beBytes 2 70 ++ zeros 2 ++ beBytes 4 3) []))) (fabState openConn))
    c.soValue 70 = 0 ∧ (c.portAt 0).window = 1 := by decide +kernel

/-- What the counters tell apart: bad FCS, a long frame, no such connection, an operation that is not listed, flow control, other frames. -/
theorem witness_frames :
    let s := fabState openConn
    let w := haulFrame (haulPkt 1 0 0 (zeros 16) (zeros 64))
    let bad : Frame := { w with fcsOk := false }
    let long : Frame := { w with bytes := w.bytes ++ zeros 9216 }
    let stale := haulFrame (beBytes 1 0x10 ++ beBytes 1 1 ++ beBytes 2 64 ++ beBytes 2 8 ++ beBytes 2 5 ++ zeros 8 ++ zeros 80)
    let odd := haulFrame (haulPkt 0x7F 0 0 [] [])
    let pause : Frame := { bytes := zeros 12 ++ beBytes 2 0x8808 ++ zeros 46, fcsOk := true }
    let other : Frame := { bytes := zeros 12 ++ beBytes 2 0x88B5 ++ zeros 46, fcsOk := true }
    s.chip.live = true ∧ (s.chip.portAt 0).up = true ∧ (s.chip.haulOf 0 bad).isSome = true ∧ bad.fcsOk = false ∧
      (s.chip.haulOf 0 long).isSome = true ∧ 9216 < long.bytes.length ∧ (s.chip.haulOf 0 stale).isSome = true ∧
      (s.chip.connAt 8).st ≠ .open_ ∧ (s.chip.haulOf 0 odd).isSome = true ∧ hdrLen 0x7F = none ∧ s.chip.frameEther 0 pause = 0x8808 ∧
      s.chip.known 0 other = false ∧ s.chip.fab.rawq = none ∧ other.bytes.length ≤ 9216 := by decide +kernel

theorem test_bad_fcs_counted :
    ((chipAfter (exec (.haulWrite 0 { haulFrame (haulPkt 1 0 0 (zeros 16) (zeros 64)) with fcsOk := false }) (fabState openConn))).portAt 0).badFcs = 1 := by
  decide +kernel

/-- Region 2 of CTX0 with CHECK 9 over 4,096 bytes at 0x20000, writable by Haul. -/
def regionState : Chip :=
  (fabState openConn).chip.modFab (fun f => { f with region := [(2, { FdRegion.fresh with valid := true, vbase := 0x20000, len := 4096, perm := 5, check := 9 })] })

theorem witness_placement :
    regionState.soAllowed (regionState.connAt 7).ctx 70 = true ∧
      (regionState.setConn 7 { openConn with ctx := 5 }).soAllowed ((regionState.setConn 7 { openConn with ctx := 5 }).connAt 7).ctx 70 = false ∧
      regionState.recvRoom (regionState.connAt 7).rxring < recvSlots 64 ∧ (regionState.regionAt (1 * 65536 / 65536)).valid = false ∧
      (match regionState.regionFor 0 (2 * 65536 + 9) 4032 64 0 2 with | .ok p => p.1 == 2 | .error _ => false) = true ∧
      (regionState.spanLines fdTlb 0 (0x20000 + 4032) 64 true).fault = none ∧
      (match regionState.regionFor 0 (2 * 65536 + 9) 4032 64 1 2 with | .ok _ => false | .error _ => true) = true ∧
      (match (regionState.setRegion 2 { FdRegion.fresh with valid := true, vbase := 0x20000, len := 4096, perm := 7, check := 9 }).regionFor 0
        (2 * 65536 + 9) 4032 64 1 2 with | .ok p => p.1 == 2 | .error _ => false) = true ∧
      (regionState.spanPages fdTlb 0 (0x20000 + 4032) 64 false).fault = none ∧
      recvSlots 64 ≤ (regionState.setCq (regionState.connAt 7).rxring { Cq.fresh with st := .active, recv := true, log2 := 4 }).recvRoom (regionState.connAt 7).rxring ∧
      (match (regionState.modMmu (fun m => { m with tlb := [] })).spanLines fdTlb 0 0x20000 64 true with | p => p.fault.isSome) = true := by
  decide +kernel

theorem test_region_bounds :
    (match regionState.regionFor 0 (2 * 65536 + 9) 4033 64 0 2 with | .ok _ => (0, 0) | .error e => e) = (2, 4033) := by decide +kernel

/-- A placed packet alone in the window: DONE, and RNR. -/
def placedConn (code : Nat) : Conn :=
  { openConn with rx := { openConn.rx with slots := [(0, { st := .placed, report := false, op := 6, hdr := zeros 8, payload := [], poison := false, code := code
                                                           detail := 0, region := none, units := 0 })] } }

theorem witness_packet_complete :
    (fabState (placedConn 0)).chip.live = true ∧ (fabState (placedConn 0)).calm = true ∧ (fabState (placedConn 8)).calm = true ∧ ((fabState (placedConn 0)).chip.connAt 7).st = .open_ ∧
      (((fabState (placedConn 0)).chip.connAt 7).rx.slots.map (·.1)) = [(0 : BitVec 32).toNat] ∧
      ((fabState (placedConn 0)).chip.connAt 7).rx.slots.all (fun q => q.2.st == .placed && q.2.code == 0 && !q.2.report) = true ∧
      ((fabState (placedConn 0)).chip.connAt 7).rx.unrep < 15 ∧
      ((fabState (placedConn 8)).chip.connAt 7).rx.slots.all (fun q => q.2.st == .placed && q.2.code == 8) = true := by decide +kernel

theorem test_packet_complete :
    ((chipAfter (exec (.packetComplete 7 0) (fabState (placedConn 0)))).connAt 7).rx.slots.map (fun q => q.2.st) = [.complete] := by decide +kernel

/-- A copy of a packet that has no status yet is acknowledged when the slot completes (13 R342). -/
theorem test_accepted_duplicate_is_reported :
    let s := fabState (placedConn 0)
    let c := chipAfter (exec (.haulSignal 0 (haulFrame (haulPkt 0x06 0 0 (beBytes 2 70 ++ zeros 2 ++ beBytes 4 1) []))) s)
    (c.connAt 7).rx.slots.map (fun q => q.2.report) = [true] ∧ c.so = s.chip.so := by decide +kernel

/-- A control packet of each kind that satisfies its clause. -/
theorem witness_control_packets :
    let s := fabState openConn
    let ack := haulPkt 0x10 0 0 (zeros 4 ++ beBytes 4 200 ++ beBytes 4 3 ++ zeros 4) []
    let rnr := haulPkt 0x11 0 0 (beBytes 4 0 ++ beBytes 1 8 ++ zeros 11) []
    let nak := haulPkt 0x11 0 0 (beBytes 4 0 ++ beBytes 1 7 ++ zeros 11) []
    let cls := haulPkt 0x22 0 0 (beBytes 8 99) []
    let dwn := haulPkt 0x23 0 0 (beBytes 4 1) []
    let x := (haulOn s.chip 0 7 (pktOf ack)).connAt 7
    [(0x10, ack), (0x11, rnr), (0x11, nak), (0x22, cls), (0x23, dwn)].all (fun p =>
      (match s.chip.haulOf 0 (haulFrame p.2) with | some q => q.bytes == p.2 | none => false) && fieldBE p.2 1 1 == p.1 && !haulBad p.2) = true ∧
    fieldBE (haulHdr ack) 12 2 = 0 ∧ seqGe (fieldBE (haulHdr ack) 4 4) x.tx.limit = true ∧
    sub32 (fieldBE (haulHdr ack) 8 4) x.rate.seen < 2 ^ 31 ∧ fieldBE (haulHdr rnr) 4 1 = 8 ∧ fieldBE (haulHdr nak) 4 1 = 7 ∧
    fieldBE (haulHdr cls) 0 8 = x.cookie ∧ (haulOn s.chip 0 7 (pktOf dwn)).hasPath { x with peerDown := 0 } = true ∧
    (haulOn s.chip 0 7 (pktOf dwn)).hasPath { x with peerDown := 1 } = false := by decide +kernel

theorem test_close_loses : ((chipAfter (exec (.close 0 (haulFrame (haulPkt 0x22 0 0 (beBytes 8 99) []))) (fabState openConn))).connAt 7).st = .lost := by
  decide +kernel

theorem test_close_of_other_cookie :
    ((chipAfter (exec (.close 0 (haulFrame (haulPkt 0x22 0 0 (beBytes 8 98) []))) (fabState openConn))).connAt 7).st = .open_ := by decide +kernel

/-- A connection in CONNECTING that proposes epoch 4; its peer proposes 6. -/
def connecting : Conn := { openConn with st := .connecting, epoch := 3, proposal := 4 }

theorem witness_hello :
    let s := fabState connecting
    let pk := fun (op : Nat) => haulPkt op 0 0 (beBytes 8 99 ++ beBytes 2 8 ++ beBytes 2 6 ++ beBytes 4 50) []
    [0x20, 0x21].all (fun op => (match s.chip.haulOf 0 (haulFrame (pk op)) with | some q => q.bytes == pk op | none => false) &&
      fieldBE (pk op) 1 1 == op && !haulBad (pk op)) = true ∧ (haulSeen s.chip 0).connFor .connecting (pktOf (pk 0x20)) = some 7 ∧
      s.calm = true ∧ (haulSeen (fabState openConn).chip 0).connFor .connecting (pktOf (pk 0x20)) = none ∧
      (haulSeen (fabState openConn).chip 0).connFor .open_ (pktOf (pk 0x20)) = some 7 ∧
      (s.chip.connAt 7).creator = none ∧ (∀ d ∈ s.chip.cm.descs, d.awaits 7 = false) := by decide +kernel

theorem test_accept_opens :
    let x := (chipAfter (exec (.accept 0 (haulFrame (haulPkt 0x21 0 0 (beBytes 8 99 ++ beBytes 2 8 ++ beBytes 2 6 ++ beBytes 4 50) [])))
      (fabState connecting))).connAt 7
    x.st = .open_ ∧ x.epoch = 6 ∧ x.peerConn = 8 ∧ x.tx.limit = 50 := by decide +kernel

/-- Sub-port 0 with an IPv4 and an IPv6 address. -/
def addressed : State :=
  withChip State.reset { (fabState openConn).chip with regs := [(0xA01010, 0x0A000001), (0xA01018, 0x20010DB800000000), (0xA01020, 1)] }
def arpFrame : Frame :=
  { bytes := zeros 12 ++ beBytes 2 0x0806 ++ beBytes 6 0x000108000604 ++ beBytes 2 1 ++ beBytes 6 0x020000000002 ++ beBytes 4 0x0A000002 ++ zeros 6 ++
      beBytes 4 0x0A000001, fcsOk := true }
def solFrame : Frame :=
  { bytes := zeros 12 ++ beBytes 2 0x86DD ++ beBytes 1 0x60 ++ zeros 5 ++ beBytes 1 58 ++ beBytes 1 255 ++ beBytes 16 (0x20010DB8 * 2 ^ 96 + 2) ++
      beBytes 16 (0x20010DB8 * 2 ^ 96 + 1) ++ beBytes 1 135 ++ zeros 7 ++ beBytes 16 (0x20010DB8 * 2 ^ 96 + 1), fcsOk := true }

theorem witness_neighbours :
    let c := addressed.chip
    c.live = true ∧ (c.portAt 0).up = true ∧ arpFrame.bytes.length ≤ 9216 ∧ c.frameEther 0 arpFrame = 0x0806 ∧ fieldBE (c.frameBody 0 arpFrame) 6 2 = 1 ∧
      c.portReg 0 0x10 % 2 ^ 32 ≠ 0 ∧ fieldBE (c.frameBody 0 arpFrame) 24 4 = c.portReg 0 0x10 % 2 ^ 32 ∧ (c.solicits 0 solFrame).isSome = true ∧
      c.portReg 0 0x18 * 2 ^ 64 + c.portReg 0 0x20 ≠ 0 ∧
      (match c.solicits 0 solFrame with | some p => fieldBE p.bytes 8 16 == c.portReg 0 0x18 * 2 ^ 64 + c.portReg 0 0x20 | none => false) = true ∧
      State.reset.chip.portUsed 0 = true ∧ (State.reset.chip.portAt 0).up = false ∧
      ((State.reset.chip.setPort 31 { SubPort.fresh with up := true }).portAt 31).up = true ∧ State.reset.chip.fab.conn = [] := by decide +kernel

theorem witness_rejoin :
    let s := fabState { openConn with away := 1 }
    s.calm = true ∧ (s.chip.portAt 0).up = true ∧ s.chip.fab.conn = [(7, { openConn with away := 1 })] ∧ bit openConn.mask 0 = true ∧ bit 1 0 = true := by
  decide +kernel

theorem test_port_down_logs_once :
    let c := chipAfter (exec (.portDown 0) (withChip State.reset (State.reset.chip.setPort 0 { SubPort.fresh with up := true })))
    (c.portAt 0).up = false ∧ c.log.held.map (fun e => e.code) = [.portDown] := by decide +kernel

/-- A sent packet without final status; a message to send; a hold; a quarantined path; completions not reported. -/
def sentPkt (rnr : Bool) : HTx :=
  { psn := 3, op := 6, hdr := zeros 8, payload := [], poison := false, owner := .desc 1, sub := 0, addr := 0, ent := 0, at0 := 0, at_ := 0
    disp0 := 0, rto := 4000000, due := 100, rnr := rnr, tries := 0, now := false }
def sigMsg : HMsg := { owner := .desc 1, op := 6, ctx := 0, va := 0, data := none, left := 0, key := 0, off := 70, val := 3, poison := false }

theorem witness_connection_timers :
    let a := (fabState { openConn with rx := { openConn.rx with unrepAt := some 5 } }).chip.connAt 7
    let b := (fabState openConn).chip.connAt 7
    let d := (fabState { openConn with tx := { openConn.tx with tx := [sentPkt true] } }).chip.connAt 7
    let e := fabState { openConn with tx := { openConn.tx with tx := [sentPkt false] } }
    let g := (fabState { openConn with tx := { openConn.tx with quar := [(31, 15, 9)] } }).chip.connAt 7
    let h := (fabState { openConn with rx := { openConn.rx with holds := [(3, (0, 0x5000))] } }).chip.connAt 7
    let i := fabState connecting
    a.st = .open_ ∧ a.rx.unrepAt = some 5 ∧ b.tx.tx = [] ∧ b.tx.msgs = [] ∧ d.tx.tx = [sentPkt true] ∧ (sentPkt true).psn = (3 : BitVec 32).toNat ∧
      (sentPkt true).rnr = true ∧ ((e.chip.connAt 7).tx.tx = [sentPkt false]) ∧
      (((e.chip.passTo srcFabric 100).strike 7 0 0).connAt 7).tx.tx = [sentPkt false] ∧ g.tx.quar = [((31 : Fin 32).val, (15 : Fin 16).val, 9)] ∧
      (fabState { openConn with rx := { openConn.rx with holds := [(3, (0, 0x5000))] } }).calm = true ∧ h.tx.msgs = [] ∧ tabFind h.rx.holds (3 : BitVec 32).toNat = some (0, 0x5000) ∧ (i.chip.connAt 7).st = .connecting ∧
      (i.chip.connAt 7).tx.pos = none ∧ i.chip.newPath (i.chip.connAt 7) 0 = some (0, 0) := by decide +kernel

theorem test_timeout_doubles :
    ((chipAfter (exec (.retxTimeout 7 3) (fabState { openConn with tx := { openConn.tx with tx := [sentPkt false] } }))).connAt 7).tx.tx.map (·.rto) = [6000000] := by
  decide +kernel

theorem witness_packet_send :
    let a := (fabState { openConn with tx := { openConn.tx with tx := [sentPkt true], retx := [3] } }).chip.connAt 7
    let b := fabState { openConn with tx := { openConn.tx with msgs := [sigMsg] } }
    let x := b.chip.connAt 7
    b.calm = true ∧ a.st = .open_ ∧ x.st = .open_ ∧ a.tx.retx = [3] ∧ x.tx.retx = [] ∧ x.tx.msgs = [sigMsg] ∧ sigMsg.op = 0x06 ∧ b.chip.newPath x 0 = some (0, 0) ∧ b.chip.addrOf x 0 = some 0 ∧
      seqGe ((x.tx.scum + 1023) % 2 ^ 32) x.tx.next = true := by decide +kernel

theorem test_packet_send_numbers :
    let x := (chipAfter (exec (.packetSend 7 0) (fabState { openConn with tx := { openConn.tx with msgs := [sigMsg] } }))).connAt 7
    x.tx.next = 1 ∧ x.tx.msgs = [] ∧ x.tx.tx.map (·.psn) = [0] := by decide +kernel

/-! RoCEv2 (13 R358) -/

/-- Queue pair 4095, ready, of CTX0, with one receive buffer at 0x30000; region 2 is writable and readable by RoCEv2. -/
def readyQp : Qp := { Qp.fresh with st := .ready, epsn := 5, recvs := [{ key := 3, va := 0x30000, len := 64 }], texp := 1 }
def qpState (q : Qp) : State :=
  withChip State.reset (((mapped 231).modFab (fun f => { f with region := [(2, { FdRegion.fresh with valid := true, vbase := 0x20000, len := 4096, perm := 0xF, check := 9 })] })).modRoce
    (fun r => { r with qp := [(4095, q)] }))
def rocePkt (psn : Nat) (ok : Bool) : RocePkt :=
  { psn := BitVec.ofNat 24 psn, first := true, last := true, va := 0x20000, rkey := 0x20009, len := 4, imm := none, payload := [1, 2, 3, 4], ackReq := false
    ce := false, icrcOk := ok }

theorem witness_roce_requests :
    let s := qpState readyQp
    let d := s.chip.setQp 4095 { readyQp with nakSent := false }
    s.chip.live = true ∧ (s.chip.qpAt 4095).st = .ready ∧ (rocePkt 5 false).icrcOk = false ∧ (rocePkt 6 true).psn.toNat ≠ readyQp.epsn ∧
      psnGe (rocePkt 6 true).psn.toNat readyQp.epsn = true ∧ readyQp.nakSent = false ∧ (rocePkt 5 true).psn.toNat = readyQp.epsn ∧
      readyQp.rx = none ∧ (rocePkt 5 true).payload.length ≤ 64 ∧ (d.spanLines fdTlb 0 0x30000 4 true).fault = none ∧
      (d.qpRegion 4095 0x20009 0x20000 4 0).isSome = true ∧ (d.spanLines fdTlb 0 0x20000 4 true).fault = none ∧
      (d.qpRegion 4095 0x20009 0x20000 4 1).isSome = true ∧ (d.spanLines fdTlb 0 0x20000 4 false).fault = none ∧
      ((d.used fdTlb srcFabric (d.spanLines fdTlb 0 0x20000 4 false)).mem.gather (d.spanLines fdTlb 0 0x20000 4 false)).2 = none := by decide +kernel

/-- A queue pair in the middle of a SEND and of a WRITE, one without buffers, and one that has answered no mark yet. -/
theorem witness_roce_messages :
    let a := (qpState { readyQp with rx := some { op := 0, va := 0x30000, rkey := 0, len := 64, got := 60 } }).chip.qpAt 4095
    let b := (qpState { readyQp with rx := some { op := 2, va := 0x20000, rkey := 0x20009, len := 8, got := 4 } }).chip.qpAt 4095
    (qpState readyQp).calm = true ∧ ({ rocePkt 5 true with first := false }).first = false ∧ a.rx = some { op := 0, va := 0x30000, rkey := 0, len := 64, got := 60 } ∧
      60 + (rocePkt 5 true).payload.length ≤ 64 ∧ b.rx = some { op := 2, va := 0x20000, rkey := 0x20009, len := 8, got := 4 } ∧
      4 + (rocePkt 5 true).payload.length ≤ 8 ∧ ((qpState { readyQp with recvs := [] }).chip.qpAt 4095).recvs = [] ∧
      ((qpState readyQp).chip.qpAt 4095).cnpAt = none ∧ (rocePkt 5 true).imm.isSome = false ∧ readyQp.recvs ≠ [] := by decide +kernel

theorem test_roce_write :
    let c := chipAfter (exec (.roceRdmaWrite 4095 (rocePkt 5 true)) (qpState readyQp))
    c.mem.readLE 0x20000 4 = 0x04030201 ∧ (c.qpAt 4095).epsn = 6 := by decide +kernel

theorem test_roce_invalid_ends_pair : ((chipAfter (exec (.roceInvalidRequest 4095 (rocePkt 5 true)) (qpState readyQp))).qpAt 4095).st = .error := by
  decide +kernel

/-- A READ request that awaits its response from packet 5 on, 64 bytes to 0x30000. -/
def readWqe : Wqe := { key := 3, verb := 4, lva := 0x30000, len := 64, rkey := 0, rva := 0, imm := 0, psn := 5, pkts := 1, got := 0 }

theorem witness_roce_responses :
    let q := { readyQp with wqes := [readWqe], unacked := 5 }
    let s := qpState q
    s.chip.live = true ∧ (s.chip.qpAt 4095).st = .ready ∧ (31 : BitVec 8).toNat < 32 ∧ (s.chip.qpAt 4095).wqes = [readWqe] ∧ readWqe.verb = 4 ∧
      readWqe.got = 0 ∧ readWqe.psn = (rocePkt 5 true).psn.toNat ∧ psnGe ((readWqe.psn + 2 ^ 24 - 1) % 2 ^ 24) q.unacked = false ∧
      (rocePkt 5 true).payload.length < readWqe.len ∧ (s.chip.spanLines fdTlb 0 0x30000 4 true).fault = none ∧ q.wqes ≠ [] ∧
      s.calm = true ∧ q.rnrWait = false ∧ q.texp ≠ 0 ∧ q.readFor (rocePkt 5 true).psn.toNat = some readWqe ∧ ((qpState { q with rnrWait := true }).chip.qpAt 4095).rnrWait = true := by decide +kernel

/-! Commanders and rings (14) -/

/-- Dispatch firmware runs on all four processors and CM0 is ACTIVE; ring 1023 is bound, 16 slots at 0x40000, its records in CQ 9 at 0x50000. -/
def ringChip : Chip :=
  ((mapped 0).modFw (fun f => { f with running := true, fp := (List.range 4).map (fun k => (k, { Fp.fresh k with service := true })) })).modCm
    (fun m => { m with ent := [(0, { Cmdr.fresh with st := .active })], sq := [(1023, { Sq.fresh with st := .active, base := 0x40000, cq := 9, tail := 2 })]
                       cq := [(9, { Cq.fresh with st := .active, base := 0x50000, w := 3 }), (1023, { Cq.fresh with st := .active, base := 0x60000, w := 3 })] })
def ringState : State := withChip State.reset ringChip

theorem witness_doorbells :
    State.reset.chip.serving 1023 = none ∧ (ringState.chip.serving 1023).isSome = true ∧ (ringState.chip.sqAt 1023).st = .active ∧
      (ringState.chip.cqAt 1023).st = .active ∧ ringState.calm = true ∧ (8 : Fin 9).val ≠ 4 ∧ ringState.chip.live = true ∧
      (let s := withChip ringState (ringState.chip.setSq 1023 { (ringState.chip.sqAt 1023) with miss := some (7, 1) })
       let c := s.chip.passTo srcDispatch 2007
       s.calm = true ∧ (s.chip.sqAt 1023).miss = some (7, 1) ∧ c.mayConsume 1023 = true ∧ (s.chip.sqAt 1023).cm = 0 ∧ s.chip.mem.backedN 0x40000 128 = true ∧
         fieldLE ((s.chip.modMem (fun m => m.store 0x40000 [1] false)).mem.readN 0x40000 128) 0 2 ≠ seqOf 0) := by decide +kernel

theorem test_tail_doorbell_within_ring :
    ((chipAfter (exec (.sqDoorbell 1023 0 4 16 none) ringState)).sqAt 1023).tail = 16 := by decide +kernel

theorem test_tail_doorbell_beyond_ring :
    let c := chipAfter (exec (.sqDoorbell 1023 0 4 17 none) ringState)
    (c.sqAt 1023).tail = 2 ∧ c.log.held.map (fun e => e.code) = [.ringOverrun] := by decide +kernel

/-- The header of a descriptor with its operands from byte 16 on (14 Table 14.4). -/
def dbytes (op fl ctx slots : Nat) (body : List Byte) : List Byte :=
  leBytes 2 0 ++ leBytes 1 op ++ leBytes 1 fl ++ leBytes 1 ctx ++ leBytes 1 slots ++ leBytes 2 0 ++ leBytes 8 0xABCD ++ (body ++ zeros 112).take 112

theorem witness_slots :
    let c := ringChip.modMem (fun m => m.store 0x40000 (dbytes 0 0 0 0 []) false)
    let d := ringChip.modMem (fun m => m.store 0x40000 (leBytes 2 1) false)
    (c.sqAt 1023).cm = 0 ∧ c.mayConsume 1023 = true ∧ c.mem.backedN 0x40000 128 = true ∧ c.partialDesc 1023 = none ∧
      c.mem.poisonedN 0x40000 128 = false ∧ fieldLE (c.mem.readN 0x40000 128) 0 2 = seqOf (c.sqAt 1023).head ∧
      c.ready (0x40000 / 64) false = true ∧ c.ready (0x40000 / 64 + 1) false = true ∧ c.quiet = true ∧
      (c.modMem (fun m => { m with busy := [(0x40000 / 64, Txn.of .readOnce 70 none .none)] })).ready (0x40000 / 64) false = false ∧
      d.mayConsume 1023 = true ∧ fieldLE (d.mem.readN 0x40000 128) 0 2 ≠ seqOf (d.sqAt 1023).head := by decide +kernel

theorem test_seq_skips_after_65536 : seqOf 65535 = 65535 ∧ seqOf 65536 = 1 ∧ seqOf 131071 = 0 := by decide

/-- A record of CM0 for CQ 9. -/
def doneRec : Fin_ :=
  { ev := false, sq := 1023, cq := 9, cm := 0, epoch := 0, tag := 5, op := 0, status := 0, ctxf := 0, detail := 0, src := 0, restarts := 0, count := 0
    dso := none, key := 1 }
def loggedState (w : Nat) : State :=
  withChip ringState ((ringChip.setCq 9 { Cq.fresh with st := .active, base := 0x50000, w := w }).modCm (fun m => { m with log := [{ rcd := doneRec, prior := false }] }))

theorem witness_records :
    let s := loggedState 3
    s.calm = true ∧ (loggedState 16).calm = true ∧ s.chip.cm.log = [{ rcd := doneRec, prior := false }] ∧ s.chip.recordCq doneRec = (9 : Fin 1024).val ∧ s.chip.recordFits doneRec = true ∧
      s.chip.cm.lostEvents = [] ∧ doneRec.cm = 0 ∧ doneRec.dso = none ∧ (s.chip.cqAt 9).int = false ∧
      (loggedState 16).chip.recordFits doneRec = false ∧ (loggedState 16).chip.recordCq doneRec = 9 := by decide +kernel

theorem test_record_written :
    let c := chipAfter (exec (.logDrain 9) (loggedState 3))
    (c.cqAt 9).w = 4 ∧ c.cm.log = [] := by decide +kernel

/-- A registration block (14 Table 14.2): KEY 77, EPOCH 1, SQ 5, CQ 6, 16 slots each. -/
def regBlock : List Byte := leBytes 8 77 ++ leBytes 2 1 ++ leBytes 2 5 ++ leBytes 2 6 ++ leBytes 1 4 ++ leBytes 1 4 ++ zeros 48

theorem witness_commanders :
    let e := ringState.chip.cmAt 31
    let a : SetupAcc := { value := 0x1000, half := none, writer := 0 }
    let k := withChip ringState (ringState.chip.setCm 31 { Cmdr.fresh with st := .active })
    let g := withChip ringState (ringState.chip.setCtx 5 { CtxEnt.fresh 5 with st := .active, graceDue := [(31, 100)] })
    let z := withChip ringState (ringState.chip.setCm 31 { Cmdr.fresh with st := .active, dereg := true })
    ringState.calm = true ∧ k.calm = true ∧ (ringState.chip.cmAt 0).asking = false ∧ (ringState.chip.cmAt 0).dereg = false ∧
      ringState.chip.mem.backedN a.value.toNat 64 = true ∧ (31 : Fin 32).val ≠ 0 ∧ a.half = none ∧ a.value.toNat % 64 = 0 ∧ a.value.toNat ≠ 0 ∧ e.asking = false ∧ e.dereg = false ∧
      ringState.chip.fw.running = true ∧ (k.chip.cmAt 31).st = .active ∧ (z.chip.cmAt 31).dereg = true ∧ z.chip.cm.descs = [] ∧
      z.chip.cm.fin = [] ∧ z.chip.cm.log = [] ∧ z.chip.cxl.out = [] ∧ tabFind (g.chip.ctxAt 5).graceDue 31 = some 100 ∧
      (g.chip.ctxAt 5).st = .active ∧ ringState.chip.regJudge 31 (some regBlock) = 2 := by decide +kernel

theorem test_registration_epoch_must_rise :
    (ringState.chip.setCm 31 { Cmdr.fresh with st := .active, key := 77, epoch := 1, ever := true }).regJudge 31 (some regBlock) = 8 := by decide +kernel

/-- A remote commander with one record under way. -/
def cxlTxn : CxlTxn := { id := 4, cm := 31, addr := 0x1000, data := some [], use := .record { rcd := { doneRec with cm := 31 }, prior := false } }
def cxlState : State :=
  withChip ringState ((ringState.chip.setCm 31 { Cmdr.fresh with st := .active, epoch := 3 }).modCxl (fun l => { l with l0 := true, out := [cxlTxn] }))

theorem witness_cxl :
    cxlState.chip.live = true ∧ (cxlState.chip.cmAt 31).st = .active ∧ cxlState.chip.cxl.out = [cxlTxn] ∧ cxlTxn.use = .record { rcd := { doneRec with cm := 31 }, prior := false } ∧
      (0x1F008 : BitVec 64).toNat = 0x1000 * 31 + 8 := by decide +kernel

/-- The other uses of a transaction. -/
theorem witness_cxl_uses :
    ([.block 31, .slot 1023 0, .heartbeat 31, .done 4] : List CxlUse).all (fun u =>
      let s := withChip cxlState (cxlState.chip.modCxl (fun l => { l with out := [{ cxlTxn with use := u }] }))
      s.calm && (s.chip.cxl.out.find? (fun y => y.id == 4)).map (·.use) == some u) = true ∧ cxlState.calm = true := by decide +kernel

theorem test_link_down_loses_commanders :
    let c := chipAfter (exec .cxlLinkDown cxlState)
    (c.cmAt 31).st = .lost ∧ (c.cmAt 0).st = .active ∧ c.cxl.l0 = false := by decide +kernel

theorem test_link_up_needs_table_width : (chipAfter (exec (.cxlLinkUp 4 32) ringState)).cxl.l0 = false := by decide +kernel

/-! Descriptors (14 Table 14.5) -/

/-- A fetched descriptor of ring 1023. -/
def descOf (op fl ctx : Nat) (body : List Byte) : Desc :=
  { key := 3, sq := 1023, cm := 0, epoch := 0, more := 0, contBad := none, bytes := dbytes op fl ctx 0 body, data := [1, 2, 3, 4], prio := 0, at_ := 0
    deadline := none, st := .fetched, aux := [] }
/-- The ring with that descriptor; contexts 5 and 6 are ACTIVE, 7 is PARKED, and they own objects 70, 71 and 72. -/
def descChip (d : Desc) : Chip :=
  ((ringChip.modCm (fun m => { m with descs := [d] })).modCtx (fun t =>
    tabSet (tabSet (tabSet t 5 { CtxEnt.fresh 5 with st := .active }) 6 { CtxEnt.fresh 6 with st := .active }) 7 { CtxEnt.fresh 7 with st := .parked })).modSo
    (fun q => { q with owner := [(70, 5)] })
def descState (d : Desc) : State := withChip State.reset (descChip d)

/-- A legal descriptor of every row of Table 14.5 but CONT. -/
def legalDescs : List ((Nat × Nat) × List Byte) :=
  [((0x00, 7), []), ((0x01, 63), leBytes 8 0x1000 ++ zeros 40 ++ zeros 8), ((0x02, 5), []), ((0x03, 5), leBytes 8 77 ++ leBytes 1 1),
   ((0x03, 5), leBytes 8 77), ((0x04, 5), []), ((0x05, 0), leBytes 2 1 ++ leBytes 1 1), ((0x10, 5), zeros 8 ++ leBytes 2 0xFFFF),
   ((0x11, 5), leBytes 2 70 ++ leBytes 2 0 ++ leBytes 4 3), ((0x11, 5), leBytes 2 70 ++ leBytes 2 1 ++ leBytes 4 3), ((0x12, 5), leBytes 2 70 ++ zeros 2 ++ leBytes 4 1),
   ((0x20, 5), leBytes 2 319 ++ leBytes 1 6 ++ leBytes 1 1 ++ leBytes 2 70), ((0x21, 5), leBytes 2 319),
   ((0x22, 5), leBytes 2 4095 ++ leBytes 2 0 ++ leBytes 2 70 ++ zeros 2 ++ leBytes 8 0x100 ++ leBytes 8 256 ++ leBytes 8 1 ++ leBytes 4 1),
   ((0x23, 5), leBytes 2 4095), ((0x24, 5), leBytes 2 4095 ++ leBytes 1 1 ++ zeros 5 ++ zeros 8 ++ leBytes 8 4096),
   ((0x24, 5), leBytes 2 4095), ((0x25, 5), leBytes 2 65535 ++ leBytes 1 1 ++ zeros 5 ++ zeros 8 ++ leBytes 8 4096), ((0x25, 5), leBytes 2 65535),
   ((0x30, 5), leBytes 2 16383 ++ leBytes 1 1 ++ zeros 1 ++ leBytes 4 1 ++ leBytes 8 99), ((0x31, 5), leBytes 2 16383),
   ((0x32, 0), leBytes 1 31 ++ leBytes 1 1), ((0x32, 0), leBytes 1 31), ((0x33, 5), zeros 4 ++ leBytes 1 1 ++ zeros 11 ++ leBytes 8 1),
   ((0x33, 5), zeros 4 ++ leBytes 1 4 ++ zeros 11 ++ leBytes 8 4), ((0x33, 5), zeros 4 ++ leBytes 1 5 ++ zeros 11 ++ leBytes 8 32),
   ((0x33, 5), zeros 4 ++ leBytes 1 6 ++ zeros 23 ++ leBytes 4 1), ((0x35, 5), zeros 4 ++ leBytes 4 1), ((0x36, 5), leBytes 2 4095 ++ leBytes 1 1),
   ((0x37, 5), leBytes 2 4095), ((0x37, 5), leBytes 2 4095 ++ leBytes 1 1), ((0x37, 5), leBytes 2 4095 ++ leBytes 1 2), ((0x37, 5), leBytes 2 4095 ++ leBytes 1 3),
   ((0x37, 5), leBytes 2 4095 ++ leBytes 1 4), ((0x38, 5), leBytes 2 4095), ((0x39, 0), leBytes 2 0xFFFF), ((0x39, 0), leBytes 2 1023),
   ((0x40, 0), leBytes 1 0 ++ leBytes 1 4 ++ leBytes 2 1000 ++ leBytes 2 9), ((0x40, 0), leBytes 1 1 ++ leBytes 1 16 ++ leBytes 2 1000),
   ((0x41, 0), leBytes 1 1 ++ zeros 1 ++ leBytes 2 9), ((0x42, 0), leBytes 1 31)]
/-- Those with inline data. -/
def inlineDescs : List ((Nat × Nat) × List Byte) := [((0x06, 5), zeros 8 ++ leBytes 2 4), ((0x06, 0), leBytes 8 0x70000 ++ leBytes 2 4), ((0x34, 5), zeros 4 ++ leBytes 2 32)]

/-- Each of them may start and breaks no rule. -/
theorem witness_descriptors_ready :
    (legalDescs.map (fun p => descOf p.1.1 0 p.1.2 p.2) ++ inlineDescs.map (fun p => descOf p.1.1 1 p.1.2 p.2)).all (fun d =>
      (descState d).chip.live && (descState d).calm && (descState d).chip.headDesc 1023 == some d && (descState d).chip.mayStart d && ((descState d).chip.refusal d).isNone) =
      true := by decide +kernel

/-- Each command has a descriptor among them, or CONT, an unlisted opcode. -/
theorem witness_descriptor_rows :
    (descRows.map (·.2)).all (fun p => p (descOf 0x7F 0 0 []) ||
      (legalDescs.map (fun p => descOf p.1.1 0 p.1.2 p.2) ++ inlineDescs.map (fun p => descOf p.1.1 1 p.1.2 p.2)).any p) = true := by decide +kernel

/-- The same with a reserved flag set breaks a rule, and with FENCE behind another may not start. -/
theorem witness_descriptors_refused :
    (legalDescs.map (fun p => descOf p.1.1 0x80 p.1.2 p.2) ++ inlineDescs.map (fun p => descOf p.1.1 0x81 p.1.2 p.2)).all (fun d =>
      (descState d).chip.refusal d == some (0x01, 3) && (descState d).chip.mayStart d) = true ∧
      (let d := descOf 0x02 0 5 []
       d.op ∈ localOps ∧ d.bad = none ∧ { d with cm := 31 }.cm ≠ 0 ∧ d.op ∉ ctxZeroOps) ∧
      (let d := { descOf 0x04 0 5 [] with cm := 31 }
       d.bad = none ∧ d.op ∉ localOps ∧ d.ctx ≠ 0 ∧ (descState d).chip.ctxOf d.cm d.ctx = false) ∧
      descOps.contains 0x7F = false ∧ (descOf 0x7F 0 0 []).bad = some 2 ∧
      (let d := descOf 0x10 0 7 []
       (descState d).chip.mayStart d = false) := by decide +kernel

/-- What the clauses on contexts, work and objects ask beside a ready descriptor. -/
theorem witness_context_descriptors :
    let c := (descState (descOf 0x02 0 5 [])).chip
    let f := fun (i : Nat) (o n : Nat) => (descOf ((legalDescs.getD i ((0, 0), [])).1.1) 0 5 (legalDescs.getD i ((0, 0), [])).2).f o n
    (c.ctxAt 7).st = .parked ∧ (c.ctxAt 63).st = .free ∧ (c.ctxAt 5).st ≠ .free ∧ c.cm.descs = [descOf 0x02 0 5 []] ∧ c.fw.work = [] ∧
      c.rootBad (f 1 16 8) = false ∧ c.rootBad (2 ^ 47) = true ∧ (c.setSq 1023 { c.sqAt 1023 with tail := 0 }).mayConsume 1023 = false ∧
      (c.setSq 1023 { c.sqAt 1023 with tail := 0 }).mayStart (descOf 0x02 0 5 []) = true ∧
      (c.setTile 0 { c.tileAt 0 with ctx := 5, mover := [fillOp] }).moverOps 5 ≠ [] ∧ c.soAllowed 6 70 = false ∧ c.bucket = [] ∧ c.fab.conn = [] ∧ c.fab.region = [] ∧ ((c.cm.sq.map (·.1)) = [1023]) ∧ f 3 24 1 ≠ 0 ∧ f 4 24 1 = 0 ∧ c.moverOps 5 = [] ∧
      (c.spanLines [] 5 0 0 true).fault = none ∧ c.writable 0x70000 4 = true ∧ c.soAllowed 5 70 = true ∧ f 9 18 1 = 1 ∧ f 8 18 1 ≠ 1 ∧
      c.fwWaits (70 / 4096) < 256 ∧ waitHolds (c.soValue 70) 1 = false := by decide +kernel

/-- CTX5 has a table whose last leaf maps 0x8000000000 to 0: MEMWRITE and CONN_CREATE find their ranges. -/
def tabled (d : Desc) : State :=
  withChip (descState d) (((descChip d).setCtx 5 { CtxEnt.fresh 5 with st := .active, root := 0x100000 }).modMem (fun m =>
    m.store 0x100000 (leBytes 8 (0xFF)) false))

theorem witness_memwrite :
    let d := descOf 0x06 1 5 (leBytes 8 0x1000 ++ leBytes 2 4)
    (tabled d).chip.mayStart d = true ∧ (tabled d).chip.refusal d = none ∧ d.ctx ≠ 0 ∧
      ((tabled d).chip.spanLines [] 5 (d.f 16 8) (d.data.take (d.f 24 2)).length true).fault = none ∧
      ({ d with cm := 31 }).cm ≠ 0 := by decide +kernel

/-- No ledge queue is bound there. -/
theorem witness_no_queues (q : Nat) : ((descState (descOf 0x02 0 5 [])).chip.lqAt q).bound = false := rfl

/-- A MEMWRITE to an address that no leaf maps, and commander-level ones to memory and to an unbacked address. -/
theorem witness_memwrite_faults :
    let d := descOf 0x06 1 5 (leBytes 8 (2 ^ 39) ++ leBytes 2 4)
    ((tabled d).chip.spanLines [] 5 (d.f 16 8) (d.data.take (d.f 24 2)).length true).fault.isSome = true ∧
      (tabled d).chip.writable 0x70000 4 = true ∧ (tabled d).chip.writable (2 ^ 47) 4 = false := by decide +kernel

theorem test_memwrite :
    (chipAfter (exec (.memwrite 1023) (tabled (descOf 0x06 1 5 (leBytes 8 0x1000 ++ leBytes 2 4))))).mem.readLE 0x1000 4 = 0x04030201 := by decide +kernel

theorem test_nop_unparks :
    let c := chipAfter (exec (.ringNop 1023) (descState (descOf 0x00 0 7 [])))
    (c.ctxAt 7).st = .active ∧ c.cm.fin.map (fun f => (f.tag, f.status)) = [(0xABCD, 0)] := by decide +kernel

theorem test_malformed_names_offset :
    let c := chipAfter (exec (.ringNop 1023) (descState (descOf 0x00 0x80 7 [])))
    (c.ctxAt 7).st = .parked ∧ c.cm.fin.map (fun f => (f.status, f.detail)) = [(1, 3)] := by decide +kernel

/-- A command in execution. -/
def fillCmd : LCmd := lcmd (lbytes 1 0 0 0 (leBytes 8 0x1000 ++ leBytes 8 64 ++ leBytes 4 7))

/-- What the clauses on bindings ask beside a ready descriptor. -/
theorem witness_binding_descriptors :
    let c := descChip (descOf 0x20 0 5 [])
    let b := c.setBucket 4095 { Bucket.fresh with st := .open_, ctx := 5 }
    let r := (c.setCq 9 { (c.cqAt 9) with recv := true }).setCm 31 { Cmdr.fresh with st := .lost }
    (descOf 0x20 0 5 []).foreign (c.lqAt 319).bound (c.lqAt 319).ctx = false ∧ (descOf 0x24 0 5 []).foreign (c.pcieAt 4095).valid (c.pcieAt 4095).ctx = false ∧
      (descOf 0x25 0 5 []).foreign (c.regionAt 65535).valid (c.regionAt 65535).ctx = false ∧
      ((c.setLq 319 { Lq.fresh with bound := true, ctx := 6 }).lqAt 319).bound = true ∧
      ((c.setLq 319 { Lq.fresh with bound := true, ctx := 6 }).lqAt 319).ctx ≠ 5 ∧ c.lqCmds 319 = [] ∧ (c.lqAt 319).unbind = none ∧ c.soOwner 70 = 5 ∧ (b.bucketAt 4095).st = .open_ ∧ (b.bucketAt 4095).ctx = 5 ∧
      (c.regionAt 65535).closing = none ∧ c.fab.conn = [] ∧ (0xFFFF : Nat) ≠ 1023 ∧ (r.cqAt 9).recv = true ∧ (r.cqAt 9).st ≠ .free ∧
      (c.sqAt 1000).st = .free ∧ (c.cqAt 9).st ≠ .free ∧ (c.cqAt 9).cm = 0 ∧ (c.cqAt 9).recv = false ∧ (c.cqAt 1000).st = .free ∧
      (r.cmAt 31).st = .lost ∧
      (({ fillCmd with lq := 319 } : LCmd).lq = 319 ∧ ((c.modLedge (fun l => { l with cmds := [{ fillCmd with lq := 319 }] })).lqCmds 319) ≠ []) ∧
      (c.bucketAt 4095).st = .free ∧ ((c.setBucket 4095 { Bucket.fresh with st := .filling, ctx := 5 }).bucketAt 4095).st = .filling ∧
      ((c.setBucket 4095 { Bucket.fresh with st := .closing, ctx := 5 }).bucketAt 4095).st = .closing ∧
      (descOf 0x23 0 6 []).ctx ≠ (b.bucketAt 4095).ctx ∧ (c.sqAt 1023).st ≠ .free ∧ (c.sqAt 1023).cm = 0 ∧ (c.sqAt 1023).unbinding = none := by decide +kernel

theorem test_lq_bind :
    let d := descOf 0x20 0 5 (leBytes 2 319 ++ leBytes 1 6 ++ leBytes 1 1 ++ leBytes 2 70)
    let c := chipAfter (exec (.lqBind 1023) (descState d))
    (c.lqAt 319).bound = true ∧ (c.lqAt 319).ctx = 5 ∧ (c.lqAt 319).so = 70 ∧ (c.lqAt 319).log2 = 6 := by decide +kernel

/-- What the clauses on the fabric ask beside a ready descriptor. -/
theorem witness_fabric_descriptors :
    let d := descOf 0x30 0 5 (leBytes 2 16383 ++ leBytes 1 1 ++ zeros 1 ++ leBytes 4 1 ++ leBytes 8 99)
    let c := (tabled d).chip
    let o := (c.setConn 0 { openConn with ctx := 5 }).modRoce (fun r => { r with qp := [(4095, { readyQp with ctx := 5 })] })
    let l := c.setConn 16383 { openConn with st := .lost, ctx := 5 }
    c.mayStart d = true ∧ c.refusal d = none ∧ (c.connAt 16383).st = .idle ∧ (l.connAt 16383).st = .lost ∧ (l.connAt 16383).ctx = 5 ∧
      l.fab.region = [] ∧ (c.spanLines [] 5 (d.f 40 8) (16 * d.f 18 1) false).fault = none ∧
      ((c.used [] srcDispatch (c.spanLines [] 5 (d.f 40 8) (16 * d.f 18 1) false)).mem.gather (c.spanLines [] 5 (d.f 40 8) (16 * d.f 18 1) false)).2 = none ∧
      c.fab.neigh.length < 1024 ∧ (o.connAt 0).st = .open_ ∧ (o.connAt 0).ctx = 5 ∧ (c.connAt 0).st = .idle ∧ (c.qpAt 4095).st ≠ .ready ∧
      (o.qpAt 4095).st = .ready ∧ (o.qpAt 4095).ctx = 5 ∧ (o.connAt 0).ctx ≠ 6 ∧ (c.qpAt 4095).st = .none ∧
      ((c.setConn 0 { openConn with st := .connecting, ctx := 5 }).connAt 0).st = .connecting ∧
      (((c.modRoce (fun r => { r with qp := [(4095, { readyQp with st := .error, ctx := 5 })] }))).qpAt 4095).st = .error := by decide +kernel

theorem test_qp_create :
    let d := descOf 0x36 0 5 (leBytes 2 4095 ++ leBytes 1 1 ++ zeros 25 ++ leBytes 4 9)
    let c := chipAfter (exec (.qpCreate 1023) (descState d))
    (c.qpAt 4095).st = .ready ∧ (c.qpAt 4095).psn = 9 ∧ (c.qpAt 4095).epsn = 9 := by decide +kernel

/-- A finished descriptor with an empty ring, and a started SO_WAIT with a timeout. -/
def waitDesc : Desc := { descOf 0x12 0 5 (leBytes 2 70 ++ zeros 2 ++ leBytes 4 1 ++ leBytes 4 50) with st := .started, aux := [7] }

theorem witness_descriptor_completion :
    let s := withChip ringState (ringChip.modCm (fun m => { m with fin := [doneRec] }))
    let w := withChip ringState (ringChip.modCm (fun m => { m with descs := [waitDesc] }))
    (s.chip.serving 1023).isSome = true ∧ s.chip.cm.fin = [doneRec] ∧ doneRec.sq = (1023 : Fin 1024).val ∧ s.chip.cm.descs = [] ∧
      w.chip.waitOf 1023 = some waitDesc ∧ waitDesc.f 24 4 ≠ 0 ∧ tabFind w.chip.so.woken waitDesc.key = none ∧
      s.calm = true ∧ ringState.calm = true ∧ (ringState.chip.settleDescs 1023).cm.fin = [] ∧
      w.chip.descAt waitDesc.key = some waitDesc := by decide +kernel

/-- Started descriptors whose wait is over: the end of a context, an invalidation, a satisfied wait and an unbinding. -/
theorem witness_waits_over :
    let st := fun (op : Nat) (aux : List Nat) => { descOf op 0 5 [] with st := .started, aux := aux }
    let s := fun (d : Desc) => withChip ringState (ringChip.modCm (fun m => { m with descs := [d] }))
    (s (st 0x02 [5])).chip.ctxOver 5 = true ∧ (∀ o ∈ (st 0x04 [7]).aux, o ∉ (s (st 0x04 [7])).chip.moverOps 5) ∧
      (tabFind ((s waitDesc).chip.modSo (fun q => { q with woken := [(3, 1)] })).so.woken waitDesc.key).isSome = true ∧
      (((s (st 0x41 [1000])).chip.setSq 1000 { Sq.fresh with unbinding := some 3 }).sqAt 1000).unbinding = some (st 0x41 [1000]).key := by
  decide +kernel

theorem test_so_wait_timeout :
    let c := chipAfter (exec (.soWaitTimeout 1023) (withChip ringState (ringChip.modCm (fun m => { m with descs := [waitDesc] }))))
    c.cm.fin.map (fun f => (f.status, f.detail)) = [(0x13, 0)] := by decide +kernel


theorem test_context_created :
    let d := descOf 0x01 0 63 (leBytes 8 0x1000 ++ leBytes 8 5)
    let c := chipAfter (exec (.ctxCreate 1023) (descState d))
    (c.ctxAt 63).st = .active ∧ (c.ctxAt 63).root = 0x1000 ∧ (c.ctxAt 63).seed = 5 ∧ c.cm.fin.map (fun f => f.status) = [0] := by decide +kernel
/-! The dispatch complex (15) -/

/-- The header of a dispatch image of version 0x02010000 with SVN 4, KEY_GEN 1 and ADVANCE, and a payload of one byte (19 Table 19.2). -/
def imageHdr : List Byte :=
  leBytes 4 0x4B524341 ++ leBytes 1 3 ++ leBytes 1 1 ++ leBytes 2 1 ++ leBytes 4 0x02010000 ++ leBytes 4 4 ++ leBytes 8 1 ++ leBytes 8 1
/-- The driver's arguments: that image at 0x800000, a copy at 0x2000000. -/
def callState (c : Chip) (hdr : List Byte) : State :=
  withChip State.reset ((c.modMem (fun m => { m with bytes := Memory.writeN [] 0x800000 hdr })).modFw (fun f =>
    { f with version := 0x01020000, mbox := { last := 0, result := 0, arg0 := 0x800000, arg1 := 4097, arg2 := 0x2000000 } }))

theorem witness_mailbox :
    let a := callState State.reset.chip imageHdr
    let b := callState ringChip imageHdr
    let d := callState (descChip (descOf 0 0 5 [])) imageHdr
    let l := callState (ringChip.modCm (fun m => { m with descs := [waitDesc] })) imageHdr
    a.calm = true ∧ b.calm = true ∧ l.calm = true ∧ d.calm = true ∧ a.retrying = none ∧ a.chip.fw.mbox.result ≠ 1 ∧
      (withChip a (a.chip.modFw (fun f => { f with mbox := { f.mbox with result := 1 } }))).chip.fw.mbox.result = 1 ∧
      a.chip.fw.running = false ∧ b.chip.fw.running = true ∧ a.chip.imageVerdict a.sec true = 0 ∧ a.chip.imageVerdict a.sec false = 4 ∧
      b.chip.liveWork = false ∧ b.chip.anyCtx = false ∧ b.chip.imageVerdict b.sec true = 0 ∧ b.chip.imageVerdict b.sec false ≠ 0 ∧
      l.chip.liveWork = true ∧ d.chip.anyCtx = true ∧ d.chip.otherMajor = true ∧ d.chip.liveWork = false ∧
      (b.chip.cmAt 0).st = .active ∧ ((callState (ringChip.setCm 0 { Cmdr.fresh with st := .lost }) imageHdr).chip.cmAt 0).st ≠ .active ∧
      5 < (6 : BitVec 8).toNat := by decide +kernel

theorem test_image_rollback :
    let s := callState State.reset.chip imageHdr
    ({ s.sec with recA := { s.sec.recA with dispatch := 5 } }.rec_.judge (s.chip.mem.readN 0x800000 4096) 3 true) = 5 := by decide +kernel

theorem test_raise_on_advance :
    let s := callState State.reset.chip imageHdr
    (s.chip.raiseFor s.sec).rec_.dispatch = 4 ∧ (s.chip.raiseFor s.sec).rec_.keyGen = 1 ∧ (s.chip.raiseFor s.sec).rec_.mgmt = 0 := by decide +kernel

/-- ATTACH: the same major with a lower minor is served, a higher minor is not (15 R395). -/
theorem test_attach_versions :
    let at_ := fun (v : Nat) => (chipAfter (Host.Outcome.next (withChip State.reset
      ((callState ringChip []).chip.modFw (fun f => { f with mbox := { f.mbox with arg0 := v } })).doAttach))).fw.mbox.result
    [0x01020000, 0x01010000, 0x01030000, 0x02010000].map at_ = [0, 0, 6, 6] := by decide +kernel

/-- Each register of an item's entry has its value, X4 to X31 zero among them. -/
theorem witness_entry : (31 : Nat) = 0 ∨ 3 < 31 := by decide

/-- A RUN of context 5, without a tile of its own choice. -/
def work : Work :=
  { key := 3, ctx := 5, tile := 0xFFFF, gen := 0, entry := 0, args := 0, image := 0, imageLen := 0, prio := 1, at_ := 0, begun := 0, preempted := false
    phys := 200, cm := 0, switching := false, drop := none, named := false, sent := false, restart := false }
def workState (ws : List Work) : State := withChip State.reset ((descChip (descOf 0 0 5 [])).modFw (fun f => { f with work := ws }))
/-- The same on a package whose tile 0 alone is free: all others have left service. -/
def oneTile (ws : List Work) (res : Nat) : State :=
  withChip State.reset (((workState ws).chip.modTile (fun _ => (List.range 199).map (fun t => (t + 1, { Tile.fresh (t + 1) with st := .fenced })))).setResident 0 res)

theorem witness_scheduling :
    let stale := { work with tile := 7, gen := 9 }
    (oneTile [work] 5).calm = true ∧ (workState [stale]).calm = true ∧
      State.reset.chip.fwRuns = false ∧ (workState []).chip.readyWork = [] ∧ (workState [stale]).chip.fwRuns = true ∧
      (workState [stale]).chip.readyWork = [stale] ∧ (workState [stale]).chip.staleRun stale = true ∧
      (oneTile [work] 5).chip.readyWork = [work] ∧ (oneTile [work] 5).chip.staleRun work = false ∧
      (oneTile [work] 5).chip.tileFor work = some (0 : Fin 200).val ∧ (oneTile [work] 5).chip.cm.free = true ∧ work.preempted = false ∧
      work.restart = false ∧ (tileOf (oneTile [work] 5) 0).item ≠ .saved ∧ (oneTile [work] 5).chip.residentOf 0 = work.ctx ∧
      (oneTile [work] 6).chip.tileFor work = some 0 ∧ (oneTile [work] 6).chip.residentOf 0 ≠ work.ctx := by decide +kernel

/-- An item of lower priority holds the only tile. -/
theorem witness_victim :
    let low := { work with key := 4, prio := 2, phys := 0, tile := 0 }
    let c := (oneTile [work, low] 5).chip
    let d := c.setTile 0 { c.tileAt 0 with item := .running, work := 4 }
    d.readyWork = [work] ∧ d.staleRun work = false ∧ d.tileFor work = none ∧ d.victims work = [low] ∧ (d.tileAt low.phys).item = .running ∧
      d.fwRuns = true := by decide +kernel

theorem witness_switch :
    let w := { work with phys := 0, tile := 0, switching := true }
    let s := workState [w]
    s.chip.fw.work.find? (fun x => x.phys == 0 && x.switching && (tileOf s 0).st == .service) = some w ∧ s.calm = true ∧
      s.chip.logicalOf 0 = some 0 ∧ s.chip.residentOf 0 = 64 ∧ w.preempted = false ∧ w.drop = none ∧ tabFind (s.chip.ctxAt 5).saved 0 ≠ some (s.chip.genOf 0) ∧
      (match (s.chip.setTile 0 (tileOf s 0).wipe).ftLoad 0 5 true with | .ok _ => true | .error _ => false) = true ∧
      (workState []).chip.fw.work.find? (fun x => x.phys == 0 && x.switching && (tileOf (workState []) 0).st == .service) = none ∧ w.image = 0 ∧
      (match s.chip.ftLoad 0 5 false with | .ok _ => true | .error _ => false) = true := by decide +kernel

/-- A switch-in whose function-table image is not mapped, one of an item that a deadline dropped, and one of a pre-empted item. -/
theorem witness_switch_ends :
    let w := { work with phys := 0, tile := 0, switching := true }
    let s := workState [w]
    let e := withChip s (s.chip.setCtx 5 { s.chip.ctxAt 5 with ftimg := 0x8000000000 })
    (match e.chip.switchIn 0 0 w with | .error _ => true | .ok _ => false) = true ∧ ({ w with drop := some (0x11, 900) }).drop.isSome = true ∧
      (match s.chip.switchIn 0 0 { w with drop := some (0x11, 900) } with | .ok _ => true | .error _ => false) = true ∧
      ({ w with preempted := true }).preempted = true ∧ ({ w with restart := true }).restart = true ∧
      (withChip s (s.chip.setResident 0 5)).chip.residentOf 0 = w.ctx ∧
      tabFind ((withChip s (s.chip.setCtx 5 { s.chip.ctxAt 5 with saved := [(0, s.chip.genOf 0)] })).chip.ctxAt 5).saved 0 = some (s.chip.genOf 0) := by
  decide +kernel

theorem test_run_start_stale :
    let c := chipAfter (exec .runStart (workState [{ work with tile := 7, gen := 9 }]))
    c.fw.work = [] ∧ c.cm.fin.map (fun f => (f.status, f.detail)) = [(0x10, 0)] := by decide +kernel

theorem test_switch_complete_begins :
    let c := chipAfter (exec (.switchComplete 0) (workState [{ work with phys := 0, tile := 0, switching := true, entry := 64, args := 9 }]))
    (c.tileAt 0).item = .running ∧ (c.tileAt 0).pc = 64 ∧ (c.tileAt 0).xr 1 = 9 ∧ c.residentOf 0 = 5 := by decide +kernel

theorem witness_dispatch_timers :
    let d := { descOf 0x10 0 5 (zeros 8 ++ leBytes 2 0xFFFF) with deadline := some 900 }
    let s := withChip ringState (ringChip.modCm (fun m => { m with descs := [d] }))
    let p := withChip ringState { ringChip with regs := [(0xC00000 + 8 * 1023, 1 * 2 ^ 32 + 10)] }
    let h := withChip ringState (ringChip.setCm 0 { Cmdr.fresh with st := .active, hbAddr := 0x9000, hbCount := 7, hbLimit := 100 })
    let hm := fun (w : Nat) => h.chip.modMem (fun m => m.store 0x9000 (leBytes 8 w) false)
    let r := withChip ringState (ringChip.setCm 31 { Cmdr.fresh with st := .active, hbAddr := 0x9000 })
    let w := withChip ringState (ringChip.setFp 3 { Fp.fresh 3 with service := false })
    let ready := fun (p : Bool) (q : Nat) (x : Option (Nat × Nat)) => (ringChip.modFw (fun f => { f with work :=
      [{ work with phys := q, switching := p, drop := x }] })).workOf 3
    let st := counted [srcDispatch] h
    s.chip.fwRuns = true ∧ s.chip.cm.descs = [d] ∧ d.sq = (1023 : Fin 1024).val ∧ d.op = 0x10 ∧ d.deadline = some 900 ∧ s.chip.workOf d.key = none ∧
      ringState.chip.sqPeriod 1023 = 0 ∧ p.chip.sqPeriod 1023 = 10 ∧ p.chip.fwRuns = true ∧ (ringState.chip.cmAt 31).st ≠ .active ∧
      (h.chip.cmAt 0).st = .active ∧ (h.chip.cmAt 0).hbAddr ≠ 0 ∧ h.chip.fwRuns = true ∧ h.chip.mem.backedN 0x9000 8 = true ∧
      h.chip.mem.poisonedN 0x9000 8 = false ∧ (hm 8).mem.readLE 0x9000 8 % 2 ^ 48 ≠ 7 ∧ (hm (7 + 2 ^ 48)).mem.readLE 0x9000 8 % 2 ^ 48 = 7 ∧
      (hm (7 + 2 ^ 48)).mem.readLE 0x9000 8 / 2 ^ 48 ≠ 0 ∧ (h.chip.cmAt 0).hbLimit ≠ 0 ∧ st.chip.dispatch < (st.chip.cmAt 0).hbSince + 1 * 1000000 ∧
      (st.chip.cmAt 0).hbSince + 1 * 1000000 ≤ (st.chip.passTo srcDispatch 1000000).dispatch ∧ h.calm = true ∧ r.calm = true ∧
      (ready false 200 none).isSome = true ∧ (ready true 0 none).isSome = true ∧ (ready false 0 none).isSome = true ∧
      ((h.chip.setCm 0 { h.chip.cmAt 0 with hbAddr := 0xE00000000000 }).mem.backedN 0xE00000000000 8 = false) ∧
      ((h.chip.setCm 0 { h.chip.cmAt 0 with hbFails := 1 }).cmAt 0).hbFails = 1 ∧ (w.chip.nextFp 3).isSome = true ∧
      (([0, 1, 2].foldl (fun (c : Chip) q => c.setFp q { Fp.fresh q with service := false }) w.chip).nextFp 3) = none ∧
      (h.chip.modMem (fun m => m.store 0x9000 (leBytes 8 0) true)).mem.poisonedN 0x9000 8 = true ∧ (h.chip.cmAt 0).hbFails = 0 ∧
      (r.chip.cmAt 31).st = .active ∧ (∀ y ∈ r.chip.cxl.out, y.use ≠ .heartbeat 31) ∧ (ringState.chip.fpAt 3).service = true ∧
      (w.chip.fpAt 3).service = false ∧ (w.chip.fpAt 3).failed = false ∧ w.chip.fw.running = true ∧ ringState.chip.fw.journal = [] := by
  decide +kernel

theorem test_third_watchdog_fails :
    let s := withChip ringState (ringChip.setFp 3 { Fp.fresh 3 with service := true, expiries := [0, 0] })
    let c := chipAfter (exec (.watchdogExpiry 3) s)
    (c.fpAt 3).failed = true ∧ (c.fpAt 3).service = false ∧ (c.fpAt 3).server = 0 ∧ bit c.log.gevent 6 = true := by decide +kernel

theorem test_deadline_drops :
    let d := { descOf 0x10 0 5 (zeros 8 ++ leBytes 2 0xFFFF) with deadline := some 900 }
    (chipAfter (exec (.deadlineExpiry 1023) (withChip ringState (ringChip.modCm (fun m => { m with descs := [d] }))))).cm.fin.map
      (fun f => (f.status, f.detail)) = [(0x11, 900)] := by decide +kernel

/-- Context 5 with an image block at 0x1000, reached through its tables, for tile 0; table 3 is present with generation 4. -/
def ftState : State :=
  let s := tabled (descOf 0 0 5 [])
  withChip s (((s.chip.setCtx 5 { s.chip.ctxAt 5 with ftimg := 0x1000 }).setResident 0 5).modMem (fun m =>
    (m.store 0x1000 (zeros 12 ++ leBytes 4 4 ++ leBytes 1 8) false)))

theorem witness_function_tables :
    (5 : Fin 64) ≠ 0 ∧ ftState.calm = true ∧ ftState.chip.fwRuns = true ∧ (ftState.chip.ctxAt 5).st ≠ .free ∧ ftState.chip.tilesOf 5 = [0] ∧
      (match ftState.chip.ftHeader 5 with
       | .ok (d, gens, valid) => gens == [0, 0, 0, 4] && valid == 8 && ((d.tileAt 0).vec.table 3).gen != ftGen gens valid 3 &&
           (match d.ftRebuild 0 5 valid gens with | .ok _ => true | .error _ => false) &&
           (match d.ftImage 5 valid 3 with | .ok e => !((e.1.tileAt 0).vec.readsBack 3) | .error _ => false)
       | .error _ => false) = true ∧ (workState []).chip.tilesOf 5 = [] ∧
      (match (ftState.chip.setCtx 5 { ftState.chip.ctxAt 5 with ftimg := 0x8000000000 }).ftHeader 5 with | .error _ => true | .ok _ => false) = true ∧
      (∀ i < 4, ((ftState.chip.tileAt 0).vec.table i).gen = ftGen [] 0 i) ∧
      (∀ q < 4, ((ftState.chip.tileAt 0).vec.table q).asked = false) := by decide +kernel

/-! The manager (16) -/

/-- CX0 is the manager of its domain, with a window from 0x200000 to 0x400000. -/
def managerState : State :=
  withChip State.reset { State.reset.chip with boot := { State.reset.chip.boot with manager := true }, regs := [(0xB00008, 0x200000), (0xB00010, 0x400000)] }

theorem witness_manager :
    managerState.calm = true ∧ State.reset.chip.boot.manager = false ∧ managerState.chip.boot.manager = true ∧ managerState.chip.inWindow 0x200000 = true ∧
      managerState.chip.inWindow 0x3FFFC0 = true ∧ managerState.chip.inWindow 0x1FFFC0 = false ∧ managerState.chip.inWindow 0x400000 = false ∧
      managerState.chip.mem.backedN 0x200000 64 = true ∧ managerState.chip.writable 0x200000 64 = true ∧ managerState.chip.log.logEn = false ∧
      (let m := withChip managerState (managerState.chip.setReg 0xB00010 0xF00000000000)
       m.chip.inWindow 0xE00000000000 = true ∧ m.chip.mem.backedN 0xE00000000000 64 = false ∧ m.chip.writable 0xE00000000000 64 = false ∧
         m.calm = true) ∧ tabFind (managerState.chip.modCxl (fun x => { x with slots := [(31, { strap := 31, reqid := 7 })] })).cxl.slots 31 ≠ none ∧
      (0xFCFFFFFFFFFF : BitVec 64).toNat < 0xFD0000000000 ∧ 0xFD0000200000 ≤ (0xFD0000200000 : BitVec 64).toNat ∧
      (0x1F : BitVec 8).toNat % 32 ≠ 0 ∧ tabFind managerState.chip.cxl.slots 31 = none ∧ (0x20 : BitVec 8).toNat % 32 = 0 ∧
      (0xFD00001FE000 : BitVec 64).toNat = 0xFD0000000000 + 0x8000 * (63 : Fin 64).val + 0x1000 * (6 : Fin 7).val := by decide +kernel

theorem test_worker_write :
    let c := chipAfter (exec (.itomwr 31 0x3FFFC5 7) managerState)
    c.mem.readLE 0x3FFFC0 8 = 7 ∧ c.reply = [0] := by decide +kernel

theorem test_worker_outside_window :
    let c := chipAfter (exec (.itomwr 31 0x400000 7) managerState)
    c.mem.readLE 0x400000 8 = 0 ∧ c.reply = [1] := by decide +kernel

/-! Setup registers and power (18, 21) -/

/-- A write of 8 bytes by core 0. -/
def sa (v : Nat) : SetupAcc := { value := BitVec.ofNat 64 v, half := none, writer := 0x4000 }

theorem witness_fields_judged :
    let off := 0x400008
    let a := sa 801
    let j := judgeWrite (regFlds off) (State.reset.chip.regRead off % 2 ^ 64) a.value.toNat none noLock
    let k := judgeWrite (regFlds off) (State.reset.chip.regRead off % 2 ^ 64) 800 none noLock
    reachesSetup a.writer.toNat = true ∧ j.logs = [(3, 0, 12)] ∧ k.logs = [] ∧ reachesSetup 0x3000 = false ∧
      ((regFlds 0x600050).find? (splits (some true))).isSome ∧ 3 ∈ [1, 3] ∧ 2 ∉ [1, 3] := by decide +kernel

theorem test_range_codes :
    (((FldKind.num 800 3000).judge 0 1500 799) = (800, some 1)) ∧ (((FldKind.num 800 3000).judge 0 1500 3001) = (3000, some 2)) ∧
      (((FldKind.step 1000 3000 5).judge 0 3000 2999).1 = 2995) := by decide +kernel

theorem witness_setup_write :
    State.reset.calm = true ∧ 0xF80000000000 ≤ (0xF80000000000 : BitVec 52).toNat ∧ (0xF00000400008 : BitVec 52).toNat = 0xF00000000000 + 0x400008 ∧ unassigned 0x400008 = false ∧ unassigned 0x3FFFFFF8 = true ∧
      (2 : BitVec 8).toNat ≠ 4 ∧ (2 : BitVec 8).toNat ≠ 8 ∧ (0xEFFFFFFFFFF8 : BitVec 52).toNat < 0xF00000000000 ∧
      (3000 : BitVec 64).toNat % 100 = 0 ∧ (799 : BitVec 64).toNat < 800 := by decide +kernel

theorem test_setup_write :
    let c := fun (v : BitVec 64) => chipAfter (exec (.setupWrite 0xF00000400008 8 v 0x4000) State.reset)
    (c 3000).rf 0x400008 11 0 = 3000 ∧ (c 3000).log.cfgNext = 0 ∧ (c 700).rf 0x400008 11 0 = 800 ∧ (c 700).log.cfgNext = 1 := by decide +kernel

/-- A package all of whose sub-ports are up. -/
def upState : State :=
  withChip State.reset ((List.range 32).foldl (fun c k => c.setPort k { c.portAt k with up := true }) State.reset.chip)

theorem witness_ring_registers :
    wholeWrite (sa 0x1000) 0x1000 ∧ (0x1000 : Nat) % 4096 = 0 ∧ wholeWrite (sa (2 ^ 63 + 16)) (2 ^ 63 + 16) ∧ (2 ^ 63 + 16) % 2 ^ 63 = 16 ∧
      sub32 0 State.reset.chip.log.head ≤ sub32 State.reset.chip.log.tail State.reset.chip.log.head ∧ codesOk 0xAAAA 8 ∧ codesOk 0 8 ∧
      (∀ k < 32, (State.reset.chip.portAt k).up = false) ∧ (∀ k < 32, (upState.chip.portAt k).up = true) ∧
      State.reset.chip.haulUdp ≠ 4791 ∧ State.reset.chip.sqPeriod 1023 = 0 ∧ wholeWrite (sa (255 * 2 ^ 32 + 10000000)) (255 * 2 ^ 32 + 10000000) := by
  decide +kernel

theorem test_mode_while_up :
    (chipAfter (exec (.mode (sa 0x5555)) upState)).rf 0xA00010 1 0 = 0 ∧
      (chipAfter (exec (.mode (sa 0x5555)) State.reset)).rf 0xA00010 15 14 = 1 := by decide +kernel

theorem test_log_size_code :
    (chipAfter (exec (.logBase true (sa (2 ^ 63 + 16))) State.reset)).log.logLog2 = 16 := by decide +kernel

theorem witness_power_registers :
    let c := State.reset.chip.modPow (fun p => { p with capId := 7 })
    wholeWrite (sa 3000) 3000 ∧ clampW 3001 = 3000 ∧ clampW 1004 = 1000 ∧ wholeWrite (sa 1004) 1004 ∧ 1004 % 5 ≠ 0 ∧
      codesOk (4 ^ 20 - 1 - 0x5555555555) 20 ∧ State.reset.chip.boot.aon = true ∧ (65536 + 7) % 65536 = c.pow.capId ∧
      (65536 + 8) % 65536 ≠ c.pow.capId ∧ (State.reset.chip.setCore 63 .active).coreSt (63 : Fin 64).val = .active := by decide +kernel

theorem test_cap_acknowledged :
    let s := withChip State.reset (State.reset.chip.modPow (fun p => { p with capId := 7 }))
    (chipAfter (exec (.facCapAck (sa (65536 + 7))) s)).pow.capAnswer = 1 ∧ (chipAfter (exec (.facCapAck (sa 7)) s)).pow.capAnswer = 2 ∧
      (chipAfter (exec (.facCapAck (sa 8)) s)).pow.capAnswer = 0 := by decide +kernel

theorem witness_actuators :
    (Grants.top.lower 1500).isSome ∧ ({ Grants.top with tile := 400 }.lower 1500).isSome ∧
      ({ Grants.top with tile := 400, core := 1500 }.lower 1500).isSome ∧
      ({ tile := 400, core := 1500, ledge := 625, pause := 80 : Grants }.lower 1500) = some { tile := 400, core := 1500, ledge := 625, pause := 90 } ∧
      ({ tile := 400, core := 1500, ledge := 625, pause := 90 : Grants }.lower 1500) = none := by decide +kernel

theorem witness_power_events :
    let d := withChip State.reset (State.reset.chip.modPow (fun p => { p with drooping := [(31, [9])] }))
    let h := withChip State.reset (State.reset.chip.modBoot (fun q => { q with thermDies := [5], thermAlert := true }))
    tabGet [] d.chip.pow.drooping (31 : Fin 32).val = [9] ∧ (∀ p ∈ d.chip.pow.drooping, p.1 ≠ 31 → 9 ∉ p.2) ∧
      h.chip.boot.thermDies = [(5 : Fin 6).val] ∧ State.reset.chip.boot.en ≠ 0 ∧ State.reset.chip.rf 0x500008 63 63 = 0 ∧
      steady 9 = false := by decide +kernel

/-- Below 95 % of the envelope the latest reduction is taken back, between the two it stays (18 R466). -/
theorem test_control_period :
    let e := fun (s : State) (w : Nat) (late : Bool) =>
      (chipAfter (exec (.controlPeriod [w, 0, 0, 0, 0, 0, 0, 0] [1, 2, 3, 4, 5, 6, 7, 8] late) (counted [srcPower] s))).pow
    let low := withChip State.reset (State.reset.chip.modPow (fun p => { p with now := { Grants.top with tile := 1575 }, next := { Grants.top with tile := 1575 } }))
    (e low 28499 false).next = Grants.top ∧ (e low 28500 false).next.tile = 1575 ∧
      (e low 0 true).dropped = 1 ∧ (e low 0 false).energy = [1, 2, 3, 4, 5, 6, 7, 8] := by decide +kernel

/-! Resilience (17) -/

/-- A package with firmware whose tile 49 serves logical tile 47 and whose spare 48 waits. -/
def resState (ws : List Work) : State := withChip (workState ws) ((workState ws).chip.setTile 48 { Tile.fresh 48 with st := .maintenance, spare := true })

theorem witness_fencing :
    let w := { work with image := 0x4000, imageLen := 64, phys := 0, tile := 0 }
    let s := resState []
    let i := resState [w]
    s.chip.logicalOf 0 = some 0 ∧ (tileOf s 0).st ≠ .fenced ∧ 64 < (65 : BitVec 32).toNat ∧ (64 : BitVec 32).toNat ≤ 64 ∧ s.chip.fwRuns = true ∧ s.chip.logicalOf 48 = none ∧
      (tileOf s 48).st ≠ .fenced ∧ (s.chip.endNow 0).tile = s.chip.tile ∧
      (let e := s.chip.setTile 0 { s.chip.tileAt 0 with item := .ending (0x40 + exHwFault) 7, pend := some (exHwFault, 9) }
       ((e.endNow 0).tileAt 0).item = .ended (0x40 + exHwFault) ∧ ((e.endNow 0).tileAt 0).st ≠ .fenced ∧ ((e.endNow 0).tileAt 0).pend = some (exHwFault, 9)) ∧
      w.preempted = false ∧ w.switching = false ∧ (tileOf s 0).item = .none ∧ (tileOf s 0).pend = none ∧ (s.chip.sparesOf 0).head? = some 48 ∧ s.chip.fw.work = [] ∧
      (State.reset.chip.modTile (fun _ => [(48, { Tile.fresh 48 with st := .fenced }), (49, { Tile.fresh 49 with st := .fenced })])).sparesOf 0 = [] ∧
      i.chip.fw.work = [w] ∧ w.drop = none ∧ (tileOf i 0).sent = false ∧ w.image ≠ 0 ∧
      (tileOf (withTile i 0 { tileOf i 0 with sent := true }) 0).sent = true := by decide +kernel

theorem test_fence_moves_index :
    let s := resState []
    let c := chipAfter (exec (.tileEccFence 0 65) s)
    c.physOf 0 = 48 ∧ c.genOf 0 = (s.chip.genOf 0 + 1) % 2 ^ 32 ∧ (c.tileAt 0).st = .fenced := by decide +kernel

theorem witness_repair :
    let f := { Tile.fresh 199 with st := TileSt.fenced, spare := true, listed := true, fences := 2 }
    let s := withTile State.reset 199 f
    let u := withChip s (s.chip.modRes (fun r => { r with repair := some 199 }))
    let a := withChip u { u.chip with tmap := { u.chip.tmap with phys := [(191, 200)] } }
    let m := withChip (withTile State.reset 0 { Tile.fresh 0 with st := .maintenance }) (State.reset.chip.setTile 0 { Tile.fresh 0 with st := .maintenance })
    wholeWrite (sa 199) (199 : Fin 200).val ∧ (tileOf s 199).st = .fenced ∧ s.chip.res.repair = none ∧ u.chip.res.repair = some 199 ∧
      (tileOf u 199).fences < 3 ∧ (∀ i < 192, i / 48 = 199 / 50 → u.chip.physOf i ≠ 200) ∧ u.chip.groupCmd 199 = 0 ∧ (191 : Nat) / 48 = 199 / 50 ∧
      a.chip.physOf 191 = 200 ∧ (∀ i < 191, i / 48 = 199 / 50 → i < 191 → a.chip.physOf i ≠ 200) ∧ a.chip.res.repair = some 199 ∧
      (tileOf m 0).st = .maintenance ∧ (m.chip.logicalOf 0).isSome ∧ m.chip.res.repair ≠ some 0 ∧ (tileOf m 0).powered = true ∧
      m.chip.fw.work = [] ∧ (tileOf State.reset 0).st ≠ .maintenance := by decide +kernel

theorem test_repaired_tile_is_a_spare :
    let f := { Tile.fresh 49 with st := TileSt.maintenance, spare := true, listed := true, fences := 2 }
    let s := withTile State.reset 49 f
    let u := withChip s (s.chip.modRes (fun r => { r with repair := some 49 }))
    let c := chipAfter (exec (.repairDone true) u)
    (c.tileAt 49).listed = false ∧ (c.tileAt 49).st = .maintenance ∧ c.res.repair = none ∧
      ((chipAfter (exec (.repairDone false) u)).tileAt 49).st = .fenced := by decide +kernel

theorem witness_pairing :
    let v := 1 + 5 * 2 ^ 8 + 3 * 2 ^ 16
    let s := withChip State.reset (State.reset.chip.setConn 3 { Conn.fresh with st := .open_, ctx := 5 })
    wholeWrite (sa v) v ∧ bit v 0 = true ∧ bits v 31 16 = 3 ∧ bits v 15 8 = 5 ∧ (s.chip.connAt 3).st = .open_ ∧ (s.chip.connAt 3).ctx = 5 ∧
      (State.reset.chip.connAt 3).st ≠ .open_ ∧ State.reset.calm = true ∧ bit (v - 1) 0 = false ∧ wholeWrite (sa (v - 1)) (v - 1) ∧
      State.reset.chip.res.flashFrom = none ∧ State.reset.chip.res.ceAt = [] ∧ State.reset.chip.res.droopAt = [] := by decide +kernel

/-- The same feed identifier on both packages is a correlated feed (17 R451). -/
theorem test_pair_feed :
    let v := 1 + 5 * 2 ^ 8 + 3 * 2 ^ 16
    let s := withChip State.reset (State.reset.chip.setConn 3 { Conn.fresh with st := .open_, ctx := 5 })
    (chipAfter (exec (.pair (sa v)) s)).res.pair = 2 ∧ (chipAfter (exec (.pair (sa (v + 2 ^ 32))) s)).res.pair = 1 := by decide +kernel

theorem test_health :
    let c := chipAfter (exec (.healthEval 1000 95) (counted [srcPower] State.reset))
    c.res.points.take 2 = [1, 2] ∧ c.res.points.getD 3 0 = 3 ∧ c.res.risk = min 7 c.res.points.sum := by decide +kernel

/-- A snapshot of COUNTER 9 that is held. -/
def snapX (phase : Nat) (out : Bool) : Snap :=
  { id := 4, out := out, due := 0, trig := 2, phase := phase, holds := [(0, 0)], found := [], tries := 0, retryAt := 0, recordAt := 0, counter := 9 }
def snapState (phase : Nat) (out : Bool) : State :=
  counted [srcPower, srcDispatch] (withChip State.reset ((State.reset.chip.setReg 0x600008 (2 + 3 * 2 ^ 4)).modRes (fun r =>
    { r with snap := some (snapX phase out), lastId := 4 })))

theorem witness_snapshots :
    let s := snapState 2 true
    let n := snapState 3 false
    let c := n.chip.passTo srcPower (n.chip.res.lastDue.getD 0 + n.chip.rf 0x600010 63 32 * 100000000)
    s.chip.res.snap = some (snapX 2 true) ∧ s.chip.rf 0x600008 1 0 = 2 ∧ State.reset.chip.rf 0x600008 1 0 ≠ 2 ∧
      c.snapMay (c.count srcPower) = true ∧ c.rf 0x600008 22 16 = 0 ∧ (snapState 1 true).chip.res.snap = some (snapX 1 true) ∧
      wholeWrite (sa (2 ^ 32 + 4)) (2 ^ 32 + 4) ∧ (2 ^ 32 + 4) % 2 ^ 32 = (snapX 2 true).id ∧ (2 ^ 32 + 5) % 2 ^ 32 ≠ (snapX 2 true).id ∧
      (snapX 3 false).out = false ∧ s.calm = true ∧ (snapX 2 true).out = true ∧ 2 ≤ (snapX 2 true).phase ∧
      (let d := s.chip.passTo srcPower (s.chip.res.lastDue.getD 0 + s.chip.rf 0x600010 63 32 * 100000000)
       d.snapMay (d.count srcPower) = false) := by decide +kernel

theorem test_snap_done :
    let c := chipAfter (exec (.snapDone (sa (2 ^ 32 + 4))) (snapState 2 true))
    c.res.flashFrom = some 9 ∧ c.res.storeFrom = none ∧ (c.res.snap.map (·.out)) = some false := by decide +kernel

/-- The snapshots' context is 5, whose table maps the comparison's words, and a comparison runs. -/
def ckptState : State :=
  let s := tabled (descOf 0 0 5 [])
  withChip s ((((s.chip.setReg 0x600008 (5 * 2 ^ 8)).setReg 0x600050 0x2000).modRes (fun r => { r with ckpt := true })).modMem (fun m =>
    m.store 0x2000 (leBytes 2 513) false))

theorem witness_checkpoint :
    let s := ckptState
    let sp := s.chip.spanLines [] s.chip.snapCtx (s.chip.rf 0x600050 63 3 * 8) 8 false
    wholeWrite (sa 0x2000) 0x2000 ∧ canonicalVa 0x2000 = true ∧ (0x2000 : Nat) % 8 = 0 ∧ State.reset.chip.res.ckpt = false ∧
      s.chip.res.ckpt = true ∧ s.chip.rf 0x600008 22 16 = 0 ∧ sp.fault = none ∧ s.calm = true ∧
      (let u := withChip s (s.chip.setReg 0x600050 0x8000000000)
       (u.chip.spanLines [] u.chip.snapCtx (u.chip.rf 0x600050 63 3 * 8) 8 false).fault.isSome) = true ∧
      (match s.chip.versionAt [] s.chip.snapCtx 0x3000 with
       | .ok (pa, ver, _) => pa == 0x3000 && ver == 0
       | .error _ => false) = true ∧ (0 : Nat) % 2 ^ 62 = (2 ^ 62) % 2 ^ 62 ∧ (0 : Nat) % 2 ^ 62 ≠ 1 % 2 ^ 62 ∧ s.chip.quiet = true := by decide +kernel

theorem test_checkpoint_epoch :
    (chipAfter (exec .ckptDone ckptState)).res.epoch = 513 := by decide +kernel

/-! Links and captures (01) -/

/-- A group of link 12 whose lane 7 has failed 17 times, in both of its states, and one without a spare. -/
def linkState (down : Bool) (spares : List (Nat × Nat)) (gone : List Nat) : State :=
  withChip State.reset ((State.reset.chip.setLinkGrp 12 true 2 { LinkGrp.fresh with down := down, spares := spares, errs := [(7, List.replicate 17 100)] }).modLinks
    (fun k => { k with withdrawn := gone, rx := tabSet k.rx (linkDir 12 true) { LinkRx.fresh with next := 5, early := [6] } }))

theorem witness_links :
    let s := linkState false [] []
    let x := s.chip.linkGrp 12 true 2
    let last := linkState false [(1, 64), (2, 65)] [60, 61]
    let two := linkState false [(1, 64), (2, 65)] [60]
    s.chip.groupIn 12 2 = true ∧ x.down = false ∧ s.chip.groupIn 12 3 = false ∧ (linkState true [] []).chip.groupIn 12 2 = true ∧
      ((linkState true [] []).chip.linkGrp 12 true 2).down = true ∧ laneFailing (tabGet [] x.errs 7) = true ∧ x.carries 7 = true ∧ x.carries 65 = false ∧ x.spare = some 64 ∧
      ((linkState false [(1, 64)] []).chip.linkGrp 12 true 2).spare = some 65 ∧ (last.chip.linkGrp 12 true 2).spare = none ∧
      (∀ i < linkGroups 12, i ≠ 2 → last.chip.groupIn 12 i = false) ∧ (∃ i < linkGroups 12, i ≠ 2 ∧ two.chip.groupIn 12 i = true) ∧
      laneFailing (tabGet [] x.errs 65) = false ∧ (s.chip.links.rx.map (·.2.next)) = [5] := by decide +kernel

theorem test_flit_fills_gap :
    let c := chipAfter (exec (.flitReceive 12 true 2 5 false none) (linkState false [] []))
    (tabGet LinkRx.fresh c.links.rx (linkDir 12 true)) = { LinkRx.fresh with next := 7 } := by decide +kernel

theorem test_lane_repair :
    let c := chipAfter (exec (.laneRepair 12 true 2 7) (linkState false [] []))
    (c.linkGrp 12 true 2).down = true ∧ (c.linkGrp 12 true 2).spares = [(7, 64)] := by decide +kernel

/-- A capture of islands 0 and 5 whose record goes to 0x4000. -/
def capReq : CapReq := { reqId := 65535, srcs := [0, 5], record := 0x4000, key := none }
def capState (n : Nat) : State := withChip State.reset (State.reset.chip.modCap (fun _ => { queue := List.replicate n capReq }))

theorem witness_captures :
    let v := 8 * 2 ^ 16 + 65535
    wholeWrite (sa v) v ∧ v < 2 ^ 20 ∧ bits v 19 16 = 8 ∧ (capState 16).chip.cap.queue.length < 17 ∧ 17 ≤ (capState 17).chip.cap.queue.length ∧ (capState 1).calm = true ∧ State.reset.chip.cap.queue = [] ∧
      (capState 1).chip.cap.queue = [capReq] ∧ capReq.key = none ∧ (∀ x ∈ capReq.srcs, x < 65536) ∧ capReq.srcs ≠ [] ∧ capReq.srcs.length ≤ 8 := by
  decide +kernel

/-- A capture that a descriptor waits for: a worker's with its commander ACTIVE and not, and CM0's to memory and to an unbacked address. -/
theorem witness_captures_described :
    let q := { capReq with key := some 3 }
    let w := { waitDesc with key := 3, cm := 31 }
    let s := fun (d : Desc) (r : Nat) => withChip ringState ((ringChip.modCm (fun m => { m with descs := [d] })).modCap (fun _ => { queue := [{ q with record := r }] }))
    (s w 0x4000).chip.cap.queue = [q] ∧ (s w 0x4000).chip.descAt 3 = some w ∧ w.cm ≠ 0 ∧ ((s w 0x4000).chip.cmAt 31).st ≠ .active ∧
      (((s w 0x4000).chip.setCm 31 { Cmdr.fresh with st := .active }).cmAt 31).st = .active ∧ { w with cm := 0 }.cm = 0 ∧
      (s w 0x4000).chip.writable 0x4000 48 = true ∧ (s w 0xE00000000000).chip.writable 0xE00000000000 48 = false ∧
      (capState 1).chip.descAt 3 = none ∧ (s w 0x4000).calm = true := by decide +kernel

theorem test_capture_record :
    let c := chipAfter (exec .captureExecute (capState 1))
    c.cap.queue = [] ∧ c.mem.readLE 0x4000 2 = 65535 ∧ c.mem.readLE 0x4002 1 = 2 := by decide +kernel

theorem test_capture_length : (State.reset.chip.capRecord capReq).length = 48 := by decide +kernel

/-! Security and management (19) -/

/-- A response to sign. -/
def signReq : SignReq := { id := 0, tr := 3, values := [7], since := 0, late := false }
def signState (q k : List SignReq) : State := withChip State.reset (State.reset.chip.modMgmt (fun m => { m with queue := q, kept := k }))

theorem witness_security :
    spdmUp State.reset 3 ∧ spdmUp State.reset 0 ∧ (State.reset.chip.spdmConn 3).meas = none ∧ (signState [] [signReq]).chip.mgmt.kept = [signReq] ∧
      signReq.tr = (3 : Fin 4).val ∧ State.reset.chip.mgmt.kept = [] ∧ State.reset.chip.mgmt.queue = [] ∧
      (signState (List.replicate 5 signReq) []).chip.mgmt.queue.length = 5 ∧ signReq.late = false ∧
      ({ signReq with late := true }).late = true ∧ (∀ x ∈ [{ signReq with id := 1 }], x.id ≠ signReq.id) ∧ 7 < (8 : Fin 256).val := by
  decide +kernel

theorem test_spdm_answers :
    (chipAfter (exec (.getVersion 3) State.reset)).reply = [0, 0x12, 0x13] ∧
      (chipAfter (exec (.spdmUnsupported 0) State.reset)).reply.contains 0x07 = true ∧
      (chipAfter (exec .spdmNotReady (signState [signReq] []))).reply = [1, 0x42, 14, 4, 0] := by decide +kernel

theorem test_signed_in_order :
    (chipAfter (exec .spdmSignDone (signState [signReq, { signReq with id := 1 }] []))).mgmt.queue = [{ signReq with id := 1 }] := by decide +kernel

/-- The header of a management image of SVN 2. -/
def mgmtHdr : List Byte :=
  leBytes 4 0x4B524341 ++ leBytes 1 1 ++ leBytes 1 1 ++ leBytes 2 0 ++ leBytes 4 1 ++ leBytes 4 2 ++ leBytes 8 1 ++ leBytes 8 1 ++ zeros 4064
def updState : State := withChip State.reset (State.reset.chip.modMgmt (fun m => { m with update := some (1, 1) }))

theorem witness_management :
    State.reset.chip.mgmtUp = true ∧ State.reset.chip.recovery = false ∧ State.reset.chip.mgmt.update = none ∧
      updState.chip.mgmt.update = some ((1 : Fin 4).val, (1 : Fin 256).val) ∧ State.reset.sec.rec_.judge mgmtHdr 1 true = 0 ∧
      State.reset.sec.rec_.judge mgmtHdr 1 false = 4 ∧ ({ State.reset.sec with recA := { State.reset.sec.recA with mgmt := 3 } }.rec_.judge mgmtHdr 1 true) = 5 ∧
      (1 : Nat) - tabGet 0 State.reset.sec.active 1 = 1 := by decide +kernel

theorem test_update_chooses_slot :
    let t := after (exec (.pldmFirmwareUpdate 1 1 true mgmtHdr true) updState) State.reset
    tabGet 0 t.sec.active 1 = 1 ∧ t.chip.mgmt.update = none ∧ (t.sec.slot 1 1).svn = 2 := by decide +kernel

/-- A 64-bit energy across two reads, with another interface's read between them (19 R498). -/
theorem test_sensor_latch :
    let e := fun (n : Nat) (c : Chip) => c.modPow (fun p => { p with energy := n :: p.energy.drop 1 })
    let a := chipAfter (exec (.pldmSensorRead 0 2 0) (withChip State.reset (e (5 * 2 ^ 32 + 6) State.reset.chip)))
    let b := chipAfter (exec (.pldmSensorRead 1 2 0) (withChip State.reset (e (9 * 2 ^ 32) a)))
    a.reply = [0, 6] ∧ (chipAfter (exec (.pldmSensorRead 0 3 0) (withChip State.reset b))).reply = [0, 5] := by decide +kernel

/-! Bring-up (20) -/

/-- A package in self-test at a step, its supplies as given. -/
def bootAt (step en good : Nat) : State :=
  withChip State.reset (State.reset.chip.modBoot (fun b => { b with step := step, en := en, good := good }))
/-- Management flash without a good image. -/
def noImages (s : State) : State := { s with sec := { s.sec with img := [] } }
/-- A module in each of the 16 channels. -/
def dimm64 : Dimm := { mrdimm := false, gb := 64, ranks := 2, width := 4, rate := 6400, ecc := 80 }
/-- A self-test that finds every unit good. -/
def good : SelfTest :=
  { mgmtOk := true, feedId := 63, slotId := 255, role := true, modes := List.replicate 8 2, pcie := [0, 0, 2, 2], puf := true, hdOk := true
    cores := 0, fps := 0, tds := 0, fdOk := true, ports := 0, links := [], spared := [], partnerRoot := false, hbm := []
    dimms := List.replicate 16 (some dimm64), boardRate := 6400, ddr := [], ledge := [], tiles := [] }

theorem witness_bring_up :
    let dark := withChip State.reset (State.reset.chip.modBoot (fun b => { b with aon := false, en := 0, good := 0, step := 0 }))
    let t3 := bootAt 3 0x3E 0x1E
    testing (bootAt 1 0 0) 1 ∧ (State.reset.sec.runs 1).isSome ∧ ((noImages (bootAt 1 0 0)).sec.runs 1) = none ∧ testing (bootAt 2 0 0) 2 ∧
      State.reset.sec.helper = true ∧ State.reset.sec.recOk = true ∧ testing t3 3 ∧ t3.chip.boot.good ≠ 0x3E ∧ bit t3.chip.boot.en 5 = true ∧
      bit t3.chip.boot.good 5 = false ∧ testing (bootAt 3 0x3E 0x3E) 3 ∧ (bootAt 3 0x3E 0x3E).chip.boot.good = 0x3E ∧ good.fps.toNat ≠ 15 ∧
      good.cores.toNat ≠ 2 ^ 64 - 1 ∧ good.ports.toNat ≠ 255 ∧ good.tds = 0 ∧ ({ good with tds := 8 }).tds ≠ 0 ∧ testing (bootAt 4 0x3E 0x3E) 4 ∧
      population good.dimms = some (16, dimm64) ∧ population [] = none ∧ testing (bootAt 5 0x3E 0x3E) 5 ∧ (State.reset.sec.runs 4).isSome ∧
      ((noImages State.reset).sec.runs 4) = none ∧ testing (bootAt 6 0x3E 0x3E) 6 ∧ (State.reset.sec.runs 2).isSome ∧
      ((noImages State.reset).sec.runs 2) = none ∧ dark.chip.boot.aon = false ∧ (bootAt 0 0 0).chip.boot.step = 0 ∧
      State.reset.chip.boot.report.outcome ≠ 3 ∧ State.reset.chip.boot.step ≠ 0 ∧ bit State.reset.chip.boot.en 0 = false ∧
      bit State.reset.chip.boot.good 1 = true ∧ State.reset.chip.mgmt.update = none := by decide +kernel

/-- An even population of 8 modules is taken, one of 9 is not (08 R208). -/
theorem test_populations :
    let even := (List.range 16).map (fun i => if i % 2 = 0 then some dimm64 else none)
    population even = some (8, dimm64) ∧ population (some dimm64 :: some dimm64 :: even.drop 2) = none := by decide +kernel

theorem test_groups_in_order :
    (chipAfter (exec (.pwrGoodRise 1) (bootAt 3 2 0))).boot.en = 6 ∧ (chipAfter (exec (.railFail 1) (bootAt 3 2 0))).boot.report.code = 0x01 ∧
      (chipAfter (exec (.pwrGoodRise 2) (bootAt 3 2 0))).boot.good = 0 := by decide +kernel

theorem test_self_test_step_three :
    let c := chipAfter (exec (.selfTestStep good) (withChip State.reset ((bootAt 3 0x3E 0x3E).chip.modBoot (fun b => { b with roleStrap := true }))))
    c.boot.step = 4 ∧ c.boot.manager = true := by decide +kernel

theorem test_self_test_tiles :
    let c := chipAfter (exec (.selfTestStep { good with tiles := [3] }) (bootAt 5 0x3E 0x3E))
    c.boot.step = 6 ∧ (c.tileAt 3).st = .fenced ∧ c.physOf 3 = 4 ∧ c.physOf 2 = 2 := by decide +kernel

theorem test_warm_reset :
    let s := withChip State.reset (State.reset.chip.modPow (fun p => { p with energy := [9, 0, 0, 0, 0, 0, 0, 0] }))
    let c := chipAfter (exec .warmReset (counted [srcMgmt] s))
    c.boot.step = 1 ∧ c.boot.en = 0 ∧ c.pow.energy.headD 0 = 9 ∧ c.live = false := by decide +kernel

/-! Rules of the whole block -/

theorem witness_event_flags :
    let s := withChip State.reset (State.reset.chip.modLog (fun l => { l with gevent := 1023, geventEn := 1023 }))
    let z := withChip State.reset (State.reset.chip.modLog (fun l => { l with geventEn := 512 }))
    (sa 1024).half ≠ some true ∧ 1024 ≤ accValue 0 (sa 1024) ∧ accValue 0 (sa 512) < 1024 ∧ s.chip.log.gevent < 1024 ∧
      z.chip.log.live = 0 ∧ (chipAfter (.next (withChip State.reset (z.chip.setGevent 9)))).log.live ≠ 0 ∧ s.chip.log.live ≠ 0 := by decide +kernel

theorem test_gevent_clears :
    let s := withChip State.reset (State.reset.chip.modLog (fun l => { l with gevent := 1023 }))
    (chipAfter (exec (.gevent (sa 512)) s)).log.gevent = 511 ∧ (chipAfter (exec (.geventEn (sa 3)) s)).log.geventEn = 3 := by decide +kernel

/-- A parked context that a NOP names. -/
theorem witness_nop_parked :
    let d := descOf 0x00 0 5 []
    let s := descState d
    let p := withChip s (s.chip.setCtx 5 { s.chip.ctxAt 5 with st := .parked })
    descReady p 1023 d ∧ d.op = 0 ∧ d.ctx ≠ 0 ∧ p.chip.ctxOf d.cm d.ctx = true ∧ p.chip.descAt d.key = some d ∧ (p.chip.ctxAt d.ctx).st = .parked ∧
      descReady s 1023 d ∧ (s.chip.ctxAt d.ctx).st = .active := by decide +kernel

theorem witness_dark : ((bootAt 3 2 0).chip.live = false) ∧ actsInDark .runStart = false ∧ actsInDark .coldReset = true := by decide +kernel

theorem witness_step : State.reset.pending = [] ∧ countersKept State.reset.sec State.reset.sec ∧
    (∀ h ∈ State.reset.held, h.id ≤ State.reset.tried) ∧
    (let h := { id := 3, key := [], cmd := Instr.runStart : Held }
     let s := { State.reset with held := [h], tried := 2 }
     s.held.find? (fun x => decide (s.tried < x.id)) = some h ∧
      (match exec h.cmd { s with held := s.held.filter (fun x => x.id != h.id), tried := h.id, retrying := some h.id } with | .next _ => true | _ => false) = true) ∧
    (match step { State.reset with pending := [.flashWearLevel, .coldReset] } with | .next t => t.pending == [.coldReset] | _ => false) = true := by
  decide +kernel

theorem reset_memory_canonical : memoryCanonical State.reset := by decide +kernel

theorem test_row_bits : decodeTableWord 64 0 = none ∧ State.reset.withFetchWord 64 0 = State.reset := ⟨rfl, rfl⟩

/-! Ill-formed commands -/

theorem refused_terms :
    let sh : SetupAcc := { value := 0x100000000, half := some false, writer := 0 }
    let cp : LineCopy := { bytes := zeros 63, poison := false, ue := false }
    let fr : Frame := { bytes := zeros 13, fcsOk := true }
    [ Instr.flitReceive 4 false 3 0 false none, .laneRepair 12 false 4 0, .laneRepairDone 5 true 3, .capGo sh, .readShared 0 0 (some cp) ⟨.none, none⟩ ].map Instr.wf =
      List.replicate 5 false ∧
    [ Instr.writeBack 0 0 cp, .ledgeOp 0 (.put 60 (zeros 5)) none .none, .ledgeOp 0 (.add 0 [1]) none .none, .haulWrite 0 fr ].map Instr.wf =
      List.replicate 4 false ∧
    [ Instr.controlPeriod [] [] false, .groupRecalibration 4 3, .pldmFirmwareUpdate 0 1 true [] true, .pwrGoodRise 0, .railFail 0,
      .pwrGoodFall 0, .cxlCacheResponse 0 .ok (zeros 1), .selfTestStep { good with pcie := [] } ].map Instr.wf = List.replicate 8 false ∧
    [ Instr.contribution 0 64 0 (List.replicate 15 0) false none 0, .contribution 0 60 0 (List.replicate 16 0) false none 0,
      .pcieWriteTlp { port := 0, reqid := 0, addr := 0, bytes := [], poison := false, ro := false },
      .pcieReadTlp { port := 0, reqid := 0, addr := 0, bytes := [], poison := false, ro := false } 0,
      .pcieReadTlp { port := 0, reqid := 0, addr := 0, bytes := [], poison := false, ro := false } 4097,
      .roceSend 0 { rocePkt 0 true with payload := zeros 4097 }, .sqDoorbell 0 0 3 0 none, .cqHeadDoorbell 0 0 0 0 none ].map Instr.wf =
      List.replicate 8 false := by decide +kernel

theorem accepted_terms :
    [ Instr.flitReceive 3 false 4 0 false none, .capGo (sa 5), .pwrGoodRise 5, .selfTestStep good, .pldmFirmwareUpdate 0 1 true mgmtHdr true,
      .controlPeriod (List.replicate 8 0) (List.replicate 8 0) false ].map Instr.wf = List.replicate 6 true := by decide +kernel

/-! Pre-emption (04, 15) -/

/-- Tile 0 drains as context 5's item 3 is pre-empted; the context's table maps its slots. -/
def stopState (item : ItemSt) (w : Work) : State :=
  let s := tabled (descOf 0 0 5 [])
  withTile (withChip s (s.chip.modFw (fun f => { f with work := [w] }))) 0 { tileOf s 0 with item := item, work := 3 }

/-- Each clause of what becomes of a stopped item has a state: one that is dropped, one that is saved, one that returns. -/
theorem witness_stopped :
    let w := { work with phys := 0, tile := 0 }
    let a := stopState .saving { w with drop := some (0x11, 5) }
    let b := stopState .saving w
    let r := stopState .saved { w with preempted := true }
    a.calm = true ∧ b.calm = true ∧ r.calm = true ∧ (tileOf a 0).paused = false ∧ (tileOf b 0).paused = false ∧ (tileOf r 0).paused = false ∧
      a.chip.workOf (tileOf a 0).work = some { w with drop := some (0x11, 5) } ∧ (tileOf a 0).item = .saving ∧ w.phys = 0 ∧
      (tileOf a 0).drained = true ∧ b.chip.workOf (tileOf b 0).work = some w ∧ w.drop = none ∧
      r.chip.fw.work.find? (fun x => x.phys == 0 && x.preempted && !x.switching) = some { w with preempted := true } ∧ (tileOf r 0).item = .saved ∧
      (tileOf r 0).work = w.key ∧
      (match r.chip.loadRange 0 5 (r.chip.slotOf 5 ((r.chip.logicalOf 0).getD 0) + 0x610000) 512 with
       | .ok (d, bs, _) => match (d.tileAt 0).reloadActive ((bs.drop 256).take 160) with
         | .ok u => (match u.reissueAll ((bs.drop 256).take 160) with | .ok _ => true | .error _ => false)
         | .error _ => false
       | .error _ => false) = true := by decide +kernel

theorem witness_hint : (State.reset.chip.hintUsable 0x8000).isSome = true := by decide +kernel
end Sys2Proof.Tests
end

section
/-!
Records as lists of bytes, field by field; the capture record (01 R30 to R33, Table 1.6).
-/

open Sys2Proof

namespace Sys2Proof.Machine

/-! Fields of a record that is put together from parts -/

@[simp] theorem zeros_length (n : Nat) : (zeros n).length = n := by simp [zeros]

@[simp] theorem leVal_zeros (n : Nat) : leVal (zeros n) = 0 := by
  induction n with
  | zero => rfl
  | succ k ih => rw [zeros, List.replicate_succ, leVal, ← zeros, ih]; rfl

/-- A field behind a part of a record is a field of the rest. -/
theorem fieldLE_append_right {l : List Byte} (r : List Byte) {off : Nat} (n : Nat) (h : l.length ≤ off) :
    fieldLE (l ++ r) off n = fieldLE r (off - l.length) n := by
  simp [fieldLE, List.drop_append, List.drop_eq_nil_of_le h]

/-- A part in front is read by its own length. -/
theorem fieldLE_append_left (l r : List Byte) : fieldLE (l ++ r) 0 l.length = leVal l := by simp [fieldLE]

@[simp] theorem fieldLE_leBytes (n v : Nat) (r : List Byte) : fieldLE (leBytes n v ++ r) 0 n = v % 256 ^ n := by
  simpa [leVal_leBytes] using fieldLE_append_left (leBytes n v) r

@[simp] theorem fieldLE_zeros (n : Nat) (r : List Byte) : fieldLE (zeros n ++ r) 0 n = 0 := by
  simpa using fieldLE_append_left (zeros n) r

@[simp] theorem fieldLE_leBytes_last (n v : Nat) : fieldLE (leBytes n v) 0 n = v % 256 ^ n := by
  simpa using fieldLE_leBytes n v []

/-- Entries of one length put together have that length for each of them. -/
theorem length_flatMap_const {α : Type} {f : α → List Byte} {w : Nat} (h : ∀ x, (f x).length = w) (l : List α) :
    (l.flatMap f).length = w * l.length := by
  simp [List.length_flatMap, h, Nat.mul_comm]

/-- Among entries of one length, the entry of a number stands at that multiple of the length. -/
theorem fieldLE_flatMap {α : Type} {f : α → List Byte} {w : Nat} (h : ∀ x, (f x).length = w) {l : List α} {i : Nat} {x : α}
    (hx : l[i]? = some x) {k n : Nat} (hk : k + n ≤ w) : fieldLE (l.flatMap f) (w * i + k) n = fieldLE (f x) k n := by
  induction l generalizing i with
  | nil => simp at hx
  | cons y r ih =>
    cases i with
    | zero =>
      obtain rfl : y = x := by simpa using hx
      have hd : n ≤ (f y).length - k := by rw [h]; omega
      simp [fieldLE, List.drop_append_of_le_length (show k ≤ (f y).length by rw [h]; omega), List.take_append_of_le_length, hd]
    | succ j =>
      rw [List.flatMap_cons, fieldLE_append_right _ _ (by rw [h, Nat.mul_succ]; omega), h,
        show w * (j + 1) + k - w = w * j + k by rw [Nat.mul_succ]; omega]
      exact ih (by simpa using hx)

/-! The capture record -/

/-- The first 16 bytes of a capture record (01 Table 1.6): REQ_ID, COUNT, STATUS, the span bound and eight zero bytes. -/
def capHead (q : CapReq) (status : Nat) : List Byte :=
  leBytes 2 q.reqId ++ (leBytes 1 q.srcs.length ++ (leBytes 1 status ++ (leBytes 4 (if oneDie q.srcs then 60 else 160) ++ (zeros 8 ++ []))))

theorem Chip.capRecord_eq (c : Chip) (q : CapReq) :
    c.capRecord q = capHead q (1 + 2 * b2n (q.srcs.any (fun s => !srcOk s))) ++ q.srcs.flatMap c.capEntry := by
  simp [Chip.capRecord, capHead]

theorem capBusyRecord_eq (q : CapReq) :
    capBusyRecord q = capHead q 4 ++ q.srcs.flatMap (fun s => leBytes 2 s ++ zeros 14) := by
  simp [capBusyRecord, capHead]

@[simp] theorem capHead_length (q : CapReq) (status : Nat) : (capHead q status).length = 16 := by simp [capHead]

/-- The fields of the head of a capture record, whatever follows it. -/
theorem capHead_fields (q : CapReq) (status : Nat) (r : List Byte) (hid : q.reqId < 65536) (hn : q.srcs.length ≤ 8) (hs : status < 256) :
    fieldLE (capHead q status ++ r) 0 2 = q.reqId ∧ fieldLE (capHead q status ++ r) 2 1 = q.srcs.length ∧
      fieldLE (capHead q status ++ r) 3 1 = status ∧
      fieldLE (capHead q status ++ r) 4 4 = (if oneDie q.srcs then 60 else 160) ∧ fieldLE (capHead q status ++ r) 8 8 = 0 := by
  simp only [capHead, List.append_assoc]
  refine ⟨?_, ?_, ?_, ?_, ?_⟩
  · simp [Nat.mod_eq_of_lt hid]
  · simp [fieldLE_append_right]; omega
  · simp [fieldLE_append_right]; omega
  · simp [fieldLE_append_right]; split <;> decide
  · simp [fieldLE_append_right]

@[simp] theorem Chip.capEntry_length (c : Chip) (src : Nat) : (c.capEntry src).length = 16 := by simp [Chip.capEntry]

/-- The fields of one entry of a capture record. -/
theorem Chip.capEntry_fields (c : Chip) (src : Nat) (h : src < 65536) :
    fieldLE (c.capEntry src) 0 2 = src ∧ fieldLE (c.capEntry src) 2 1 = b2n (srcOk src && c.powered src) ∧
      fieldLE (c.capEntry src) 3 1 = (if srcOk src then c.restarts src else 0) % 256 ∧ fieldLE (c.capEntry src) 4 4 = 0 ∧
      fieldLE (c.capEntry src) 8 8 = (if srcOk src && c.powered src then c.count src % 2 ^ 64 else 0) := by
  rw [show c.capEntry src = leBytes 2 src ++ (leBytes 1 (b2n (srcOk src && c.powered src)) ++
    (leBytes 1 (if srcOk src then c.restarts src else 0) ++ (zeros 4 ++
      leBytes 8 (if srcOk src && c.powered src then c.count src else 0)))) by simp [Chip.capEntry]]
  refine ⟨?_, ?_, ?_, ?_, ?_⟩
  · simp [Nat.mod_eq_of_lt h]
  · cases srcOk src && c.powered src <;> simp [fieldLE_append_right, b2n]
  · simp [fieldLE_append_right]
  · simp [fieldLE_append_right]
  · cases srcOk src && c.powered src <;> simp [fieldLE_append_right]

/-- The fields of an entry stand behind the head and the entries before it. -/
theorem Chip.capRecord_entry (c : Chip) (q : CapReq) {i src : Nat} (hx : q.srcs[i]? = some src) {off k n : Nat}
    (ho : off = 16 + (16 * i + k)) (hk : k + n ≤ 16) : fieldLE (c.capRecord q) off n = fieldLE (c.capEntry src) k n := by
  rw [ho, c.capRecord_eq, fieldLE_append_right _ _ (by simp), capHead_length, Nat.add_sub_cancel_left]
  exact fieldLE_flatMap c.capEntry_length hx hk

/-- Settles O54: the record is its head and one entry for each island, and each field stands behind parts of known lengths. -/
theorem captureRecordLayout : Obligations.CaptureRecordLayout := by
  rintro c q b hid hn hsrc rfl
  have hl : (c.capRecord q).length = 16 + 16 * q.srcs.length := by
    rw [c.capRecord_eq, List.length_append, capHead_length, length_flatMap_const c.capEntry_length]
  have hst : 1 + 2 * b2n (q.srcs.any fun s => !srcOk s) = if q.srcs.all srcOk then 1 else 3 := by
    rw [← List.not_all_eq_any_not]
    cases q.srcs.all srcOk <;> rfl
  obtain ⟨f0, f2, f3, f4, f8⟩ := capHead_fields q _ (q.srcs.flatMap c.capEntry) hid hn
    (show 1 + 2 * b2n (q.srcs.any fun s => !srcOk s) < 256 by rw [hst]; split <;> decide)
  rw [← c.capRecord_eq] at f0 f2 f3 f4 f8
  refine ⟨hl, f0, f2, f3.trans hst, ?_, f8, ?_, ?_⟩
  · rw [f4]; split <;> simp
  · intro i src hx
    obtain ⟨e0, e2, e3, e4, e8⟩ := c.capEntry_fields src (hsrc src (List.mem_of_getElem? hx))
    refine ⟨?_, ?_, fun ok => ?_, ?_, ?_⟩
    · rw [c.capRecord_entry q hx (k := 0) (by omega) (by decide), e0]
    · rw [c.capRecord_entry q hx (k := 2) (by omega) (by decide), e2]
    · rw [c.capRecord_entry q hx (k := 3) (by omega) (by decide), e3, if_pos ok]
    · rw [c.capRecord_entry q hx (k := 4) (by omega) (by decide), e4]
    · rw [c.capRecord_entry q hx (k := 8) (by omega) (by decide), e8]
  · intro _
    obtain ⟨-, -, b3, -, -⟩ := capHead_fields q 4 (q.srcs.flatMap fun s => leBytes 2 s ++ zeros 14) hid hn (by decide)
    rw [capBusyRecord_eq]
    exact ⟨b3, by rw [List.length_append, capHead_length, length_flatMap_const (w := 16) (by simp)]⟩

end Sys2Proof.Machine
end

section
/-!
Logging (18 R479, 00 R545, 01 R29): an event changes the log, package memory and the interrupt files and nothing else, and what it makes
of the log; fatal events (20 R505, R506).
-/

open Sys2Proof

namespace Sys2Proof.Machine

/-! What logging can change -/

/-- A package that differs from another at most in its log, in package memory and in its interrupt files. -/
def Chip.Logged (c d : Chip) : Prop := d = { c with log := d.log, mem := d.mem, irq := d.irq }

theorem Chip.Logged.refl (c : Chip) : c.Logged c := rfl

theorem Chip.Logged.trans {c d e : Chip} (h : c.Logged d) (g : d.Logged e) : c.Logged e := by
  unfold Chip.Logged at *; rw [g, h]

theorem Chip.logged_modLog (c : Chip) (f : LogState → LogState) : c.Logged (c.modLog f) := rfl

theorem Chip.logged_modMem (c : Chip) (f : Mem → Mem) : c.Logged (c.modMem f) := rfl

/-- Each part of the package but those three reads as before. -/
theorem Chip.Logged.part {α : Type} {c d : Chip} (h : c.Logged d) (p : Chip → α) :
    p d = p { c with log := d.log, mem := d.mem, irq := d.irq } := congrArg p h

/-- Steps that each only log, done one after another, only log. -/
theorem Chip.logged_foldl {α : Type} {f : Chip → α → Chip} (hf : ∀ d x, Chip.Logged d (f d x)) (l : List α) (c : Chip) :
    c.Logged (l.foldl f c) := by
  induction l generalizing c with
  | nil => exact .refl c
  | cons x r ih => exact (hf c x).trans (ih _)

theorem Chip.msi_eq_modIrq (c : Chip) (core file ident : Nat) : ∃ f, c.msi core file ident = c.modIrq f := by
  unfold Chip.msi
  split
  · exact ⟨id, rfl⟩
  · split <;> exact ⟨_, rfl⟩

@[simp] theorem Chip.msi_log (c : Chip) (core file ident : Nat) : (c.msi core file ident).log = c.log := by
  obtain ⟨f, h⟩ := c.msi_eq_modIrq core file ident; rw [h]; rfl

theorem Chip.logged_msi (c : Chip) (core file ident : Nat) : c.Logged (c.msi core file ident) := by
  obtain ⟨f, h⟩ := c.msi_eq_modIrq core file ident; rw [h]; rfl

/-- The log with an event flag set and counted (21 R519). -/
def LogState.flag (l : LogState) (e : Nat) : LogState :=
  { l with gevent := l.gevent ||| 2 ^ e, gevcnt := tabSet l.gevcnt e ((tabGet 0 l.gevcnt e + 1) % 2 ^ 32) }

@[simp] theorem Chip.setGevent_log (c : Chip) (e : Nat) : (c.setGevent e).log = c.log.flag e := by
  unfold Chip.setGevent Chip.gint
  dsimp only
  split
  · simp [LogState.flag]
  · rfl

theorem Chip.logged_setGevent (c : Chip) (e : Nat) : c.Logged (c.setGevent e) := by
  unfold Chip.setGevent Chip.gint
  dsimp only
  split
  · exact (c.logged_modLog _).trans (Chip.logged_msi ..)
  · exact c.logged_modLog _

/-- A write of the power controller's own is made in memory or queued there. -/
theorem Chip.postChunk_eq_modMem (c : Chip) (pa : Nat) (bs : List Byte) : ∃ f, c.postChunk pa bs = c.modMem f := by
  unfold Chip.postChunk
  dsimp only
  split <;> exact ⟨_, rfl⟩

theorem Chip.post_eq_modMem (c : Chip) (pa : Nat) (bs : List Byte) : ∃ f, c.post pa bs = c.modMem f := by
  unfold Chip.post
  generalize chunksOf pa bs = l
  induction l generalizing c with
  | nil => exact ⟨id, rfl⟩
  | cons x r ih =>
    obtain ⟨f, hf⟩ := c.postChunk_eq_modMem x.1 x.2
    obtain ⟨g, hg⟩ := ih (c.modMem f)
    exact ⟨g ∘ f, by rw [List.foldl_cons, hf, hg]; rfl⟩

@[simp] theorem Chip.post_log (c : Chip) (pa : Nat) (bs : List Byte) : (c.post pa bs).log = c.log := by
  obtain ⟨f, h⟩ := c.post_eq_modMem pa bs; rw [h]; rfl

theorem Chip.logged_post (c : Chip) (pa : Nat) (bs : List Byte) : c.Logged (c.post pa bs) := by
  obtain ⟨f, h⟩ := c.post_eq_modMem pa bs; rw [h]; rfl

theorem Chip.logged_ringPut (c : Chip) (e : Event) : c.Logged (c.ringPut e).1 := by
  unfold Chip.ringPut
  dsimp only
  split
  · exact .refl c
  · split
    · exact (c.logged_modLog _).trans (Chip.logged_setGevent ..)
    · split
      · exact (c.logged_modLog _).trans (Chip.logged_post ..)
      · dsimp only; exact c.logged_modLog _

theorem Chip.logged_winNote (c : Chip) (code : Ev) (key : List Nat) (w : Nat) : c.Logged (c.winNote code key w).1 := by
  unfold Chip.winNote
  split
  · dsimp only
    split <;> exact c.logged_modLog (fun l => { l with wins := _ })
  · exact c.logged_modLog (fun l => { l with wins := _ :: l.wins })

theorem Chip.logged_ringEvent (c : Chip) (e : Event) : c.Logged (c.ringEvent e) := by
  unfold Chip.ringEvent
  dsimp only
  split
  · exact c.logged_ringPut e
  · have h := (c.logged_ringPut e).trans (Chip.logged_winNote _ .addrUnbacked [srcPower] (c.dispatch / 1000000))
    split
    · exact h
    · exact h.trans ((Chip.logged_modLog _ _).trans (Chip.logged_ringPut ..))

theorem Chip.logged_emit (c : Chip) (ev : Ev) (src : Nat) (args : List Nat) (n : Nat) : c.Logged (c.emit ev src args n) :=
  (c.logged_modLog _).trans (Chip.logged_ringEvent ..)

/-- An event touches nothing but the log, memory and the interrupt files (18 R479). -/
theorem Chip.logged_logEv (c : Chip) (ev : Ev) (src : Nat) (args : List Nat) : c.Logged (c.logEv ev src args) := c.logged_emit ..

theorem Chip.logged_logWin (c : Chip) (ev : Ev) (key : List Nat) (clock len src : Nat) (args : List Nat) :
    c.Logged (c.logWin ev key clock len src args) := by
  unfold Chip.logWin
  dsimp only
  split
  · exact c.logged_winNote ..
  · exact (c.logged_winNote ..).trans (Chip.logged_emit ..)

theorem Chip.logged_logUnbacked (c : Chip) (requester pa : Nat) : c.Logged (c.logUnbacked requester pa) := by
  unfold Chip.logUnbacked
  split
  · exact .refl c
  · exact c.logged_logWin ..

theorem Chip.logged_logRefused (c : Chip) (requester pa n : Nat) : c.Logged (c.logRefused requester pa n) := by
  unfold Chip.logRefused
  split
  · exact c.logged_logEv ..
  · exact c.logged_logUnbacked ..

@[simp] theorem Chip.logEv_tile (c : Chip) (ev : Ev) (src : Nat) (args : List Nat) : (c.logEv ev src args).tile = c.tile :=
  (c.logged_logEv ..).part Chip.tile
@[simp] theorem Chip.logEv_so (c : Chip) (ev : Ev) (src : Nat) (args : List Nat) : (c.logEv ev src args).so = c.so :=
  (c.logged_logEv ..).part Chip.so
@[simp] theorem Chip.logEv_cm (c : Chip) (ev : Ev) (src : Nat) (args : List Nat) : (c.logEv ev src args).cm = c.cm :=
  (c.logged_logEv ..).part Chip.cm
@[simp] theorem Chip.logEv_ctx (c : Chip) (ev : Ev) (src : Nat) (args : List Nat) : (c.logEv ev src args).ctx = c.ctx :=
  (c.logged_logEv ..).part Chip.ctx
@[simp] theorem Chip.logEv_boot (c : Chip) (ev : Ev) (src : Nat) (args : List Nat) : (c.logEv ev src args).boot = c.boot :=
  (c.logged_logEv ..).part Chip.boot
@[simp] theorem Chip.logEv_clk (c : Chip) (ev : Ev) (src : Nat) (args : List Nat) : (c.logEv ev src args).clk = c.clk :=
  (c.logged_logEv ..).part Chip.clk
@[simp] theorem Chip.logEv_links (c : Chip) (ev : Ev) (src : Nat) (args : List Nat) : (c.logEv ev src args).links = c.links :=
  (c.logged_logEv ..).part Chip.links

/-! What an event makes of the log -/

/-- Without a ring an entry goes nowhere but to the management controller. -/
theorem Chip.ringEvent_off {c : Chip} (e : Event) (h : c.log.logBase = 0 ∨ c.log.logEn = false) : c.ringEvent e = c := by
  simp [Chip.ringEvent, Chip.ringPut, h]

section Ring

variable {c : Chip} (e : Event) (hb : c.log.logBase ≠ 0) (he : c.log.logEn = true)
include hb he

/-- A full ring takes no entry: it is counted as lost, with flag 8. -/
theorem Chip.ringEvent_full (hf : sub32 c.log.tail c.log.head = 2 ^ c.log.logLog2) :
    c.ringEvent e = (c.modLog (fun l => { l with lost := min (l.lost + 1) (2 ^ 32 - 1) })).setGevent 8 := by
  simp [Chip.ringEvent, Chip.ringPut, hb, he, hf]

/-- The log after a ring with room has taken an entry. -/
theorem Chip.ringEvent_room_log (hf : sub32 c.log.tail c.log.head ≠ 2 ^ c.log.logLog2)
    (hm : c.mem.backed (c.log.logBase + 64 * (c.log.tail % 2 ^ c.log.logLog2)) = true) :
    (c.ringEvent e).log = { c.log with tail := (c.log.tail + 1) % 2 ^ 32, lostReported := c.log.lost } := by
  simp [Chip.ringEvent, Chip.ringPut, hb, he, hf, hm]

end Ring

/-- The windows of the event log are the same after an entry has been put into the ring. -/
theorem Chip.ringPut_wins (c : Chip) (e : Event) : (c.ringPut e).1.log.wins = c.log.wins := by
  unfold Chip.ringPut
  dsimp only
  split
  · rfl
  · split
    · simp [LogState.flag]
    · split <;> simp

/-- Whatever a window held, it is noted now for its event and key (00 R545). -/
theorem Chip.winNote_mem (c : Chip) (code : Ev) (key : List Nat) (w : Nat) :
    ∃ x ∈ (c.winNote code key w).1.log.wins, x.code = code ∧ x.key = key ∧ x.window = w := by
  unfold Chip.winNote
  split
  case h_1 x hx =>
    obtain ⟨hc, hk⟩ : x.code = code ∧ x.key = key := by simpa using List.find?_some hx
    dsimp only
    split
    · exact ⟨_, List.mem_cons_self, hc, hk, ‹_›⟩
    · exact ⟨_, List.mem_cons_self, hc, hk, rfl⟩
  case h_2 => exact ⟨_, List.mem_cons_self, rfl, rfl, rfl⟩

/-- An entry whose slot is unbacked is dropped, and ADDR_UNBACKED is noted for the power controller (21 R525). -/
theorem Chip.ringEvent_unbacked {c : Chip} (e : Event) (hb : c.log.logBase ≠ 0) (he : c.log.logEn = true)
    (hf : sub32 c.log.tail c.log.head ≠ 2 ^ c.log.logLog2)
    (hm : c.mem.backed (c.log.logBase + 64 * (c.log.tail % 2 ^ c.log.logLog2)) = false) :
    ∃ w ∈ (c.ringEvent e).log.wins, w.code = .addrUnbacked ∧ w.key = [srcPower] ∧ w.window = c.dispatch / 1000000 := by
  have hp : (c.ringPut e).2 = some (c.log.logBase + 64 * (c.log.tail % 2 ^ c.log.logLog2)) := by
    simp [Chip.ringPut, hb, he, hf, hm]
  have noted := (c.ringPut e).1.winNote_mem .addrUnbacked [srcPower] (c.dispatch / 1000000)
  unfold Chip.ringEvent
  simp only [hp]
  split
  · exact noted
  · rw [Chip.ringPut_wins]; exact noted

/-! The safe, talkative state (20 R505, R506) -/

/-! What the safe state leaves as it was -/

@[simp] theorem Chip.enterSafe_links (c : Chip) (code detail : Nat) : (c.enterSafe code detail).links = c.links := rfl
@[simp] theorem Chip.enterSafe_tile (c : Chip) (code detail : Nat) : (c.enterSafe code detail).tile = c.tile := rfl
@[simp] theorem Chip.enterSafe_now (c : Chip) (code detail : Nat) : (c.enterSafe code detail).clk.now = c.clk.now := rfl
@[simp] theorem Chip.enterSafe_l0 (c : Chip) (code detail : Nat) : (c.enterSafe code detail).cxl.l0 = false := rfl

/-- The supplies and the report in the safe state. -/
theorem Chip.enterSafe_boot (c : Chip) (code detail : Nat) :
    (c.enterSafe code detail).boot.safe = true ∧ (c.enterSafe code detail).boot.en = 0 ∧ (c.enterSafe code detail).boot.good = 0 ∧
      (c.enterSafe code detail).boot.report.outcome = 2 ∧ (c.enterSafe code detail).boot.report.phase = c.boot.step ∧
      (c.enterSafe code detail).boot.report.code = code ∧ (c.enterSafe code detail).boot.report.detail = detail :=
  ⟨rfl, rfl, rfl, rfl, rfl, rfl, rfl⟩

/-- Nothing in service acts in the safe state. -/
theorem Chip.enterSafe_live (c : Chip) (code detail : Nat) : (c.enterSafe code detail).live = false := by
  obtain ⟨h, -⟩ := c.enterSafe_boot code detail
  simp [Chip.live, h]

@[simp] theorem Chip.fatal_links (c : Chip) (ev : Ev) (src : Nat) (args : List Nat) (code detail : Nat) :
    (c.fatal ev src args code detail).links = c.links := by simp [Chip.fatal]

/-- Settles O24: what the ring does with an entry by its four cases, `Chip.logged_logEv` for what an event leaves alone, and the safe state
that a fatal event ends in. -/
theorem eventsAndFatals : Obligations.EventsAndFatals := by
  refine ⟨?_, ?_⟩
  · rintro c ev src args e slot rfl rfl
    let e : Event := c.eventOf ev src args 0
    have kept : (c.logEv ev src args) = (c.hold e).ringEvent e := rfl
    refine ⟨fun h => ?_, fun hb he hf hm => ?_, fun hb he hf hm => ?_, fun hb he hf => ?_, by simp, by simp, by simp, by simp, by simp,
      by simp⟩
    · exact kept.trans (Chip.ringEvent_off (c := c.hold e) e h)
    · rw [kept, Chip.ringEvent_room_log (c := c.hold e) e hb he hf hm]
      exact ⟨rfl, rfl, rfl⟩
    · rw [kept]
      exact Chip.ringEvent_unbacked (c := c.hold e) e hb he hf hm
    · rw [kept, Chip.ringEvent_full (c := c.hold e) e hb he hf, Chip.setGevent_log]
      exact ⟨rfl, rfl, rfl⟩
  · intro c ev src args code detail hs
    obtain ⟨hsafe, hen, hgood, hout, hphase, hcode, hdetail⟩ :=
      ((c.logEv ev src args).logEv .fatal srcMgmt [code, detail]).enterSafe_boot code detail
    refine ⟨hsafe, hen, hgood, hout, ?_, hcode, hdetail, Chip.enterSafe_l0 .., Chip.enterSafe_live .., ?_, ?_⟩
    · rw [Chip.fatal, hphase]; simpa using hs
    · simp [Chip.fatal]
    · simp [Chip.fatal]

end Sys2Proof.Machine
end

section
/-!
Die-to-die links (01 R15 to R20): delivery in order, lane repair, routes; and paired captures (01 R30 to R32, 21 R527).
-/

open Sys2Proof

namespace Sys2Proof.Machine

/-! Delivery in order (01 R17) -/

/-- The flits that follow on: everything from the first number up to the answer was early, and the answer was not. -/
theorem absorb_spec (k n : Nat) (e : List Nat) (h : e.length ≤ k) :
    n ≤ (absorb k n e).1 ∧ (∀ i, n ≤ i → i < (absorb k n e).1 → i ∈ e) ∧ (absorb k n e).1 ∉ e := by
  induction k generalizing n e with
  | zero =>
    obtain rfl : e = [] := List.length_eq_zero_iff.mp (Nat.le_zero.mp h)
    exact ⟨le_refl n, fun i h1 h2 => absurd h2 (not_lt.mpr h1), List.not_mem_nil⟩
  | succ k ih =>
    by_cases hn : n ∈ e
    · have hlen : (e.filter (· != n)).length ≤ k := by
        have : (e.filter (· != n)).length < e.length := List.length_filter_lt_length_iff_exists.mpr ⟨n, hn, by simp⟩
        omega
      obtain ⟨hle, hin, hout⟩ := ih (n + 1) (e.filter (· != n)) hlen
      have step : absorb (k + 1) n e = absorb k (n + 1) (e.filter (· != n)) := by simp [absorb, hn]
      rw [step]
      refine ⟨by omega, fun i h1 h2 => ?_, fun hm => hout (List.mem_filter.mpr ⟨hm, by simp; omega⟩)⟩
      rcases Nat.eq_or_lt_of_le h1 with rfl | h1
      · exact hn
      · exact (List.mem_filter.mp (hin i h1 h2)).1
    · have stop : absorb (k + 1) n e = (n, e) := by simp [absorb, hn]
      rw [stop]
      exact ⟨le_refl n, fun i h1 h2 => absurd h2 (not_lt.mpr h1), hn⟩

/-- A late flit delivers nothing. -/
theorem LinkRx.take_late {r : LinkRx} {seq : Nat} (h : seq < r.next) : (r.take seq).next = r.next ∧ (r.take seq).early = r.early := by
  simp [LinkRx.take, h]

/-- An early flit waits. -/
theorem LinkRx.take_early {r : LinkRx} {seq : Nat} (h : r.next < seq) :
    (r.take seq).next = r.next ∧ (r.take seq).early = setIns r.early seq := by
  simp [LinkRx.take, Nat.lt_asymm h, Nat.ne_of_gt h]

/-- The flit in turn is delivered, with those that follow on. -/
theorem LinkRx.take_turn (r : LinkRx) : (r.take r.next).next = (absorb r.early.length (r.next + 1) r.early).1 := by
  simp [LinkRx.take]

/-- The receiver goes on without a gap over numbers that have come, and a flit in turn takes it past all of them. -/
theorem LinkRx.take_in_order (r : LinkRx) (seq : Nat) :
    r.next ≤ (r.take seq).next ∧ (∀ n, r.next ≤ n → n < (r.take seq).next → n = seq ∨ n ∈ r.early) ∧
      (seq = r.next → (r.take seq).next ∉ r.early ∧ r.next < (r.take seq).next) := by
  rcases Nat.lt_trichotomy seq r.next with h | rfl | h
  · rw [(LinkRx.take_late h).1]
    exact ⟨le_refl _, fun n h1 h2 => absurd h2 (not_lt.mpr h1), fun e => absurd e (Nat.ne_of_lt h)⟩
  · obtain ⟨hle, hin, hout⟩ := absorb_spec r.early.length (r.next + 1) r.early (le_refl _)
    rw [r.take_turn]
    refine ⟨by omega, fun n h1 h2 => ?_, fun _ => ⟨hout, by omega⟩⟩
    rcases Nat.eq_or_lt_of_le h1 with e | h1
    · exact .inl e.symm
    · exact .inr (hin n h1 h2)
  · rw [(LinkRx.take_early h).1]
    exact ⟨le_refl _, fun n h1 h2 => absurd h2 (not_lt.mpr h1), fun e => absurd e (Nat.ne_of_gt h)⟩

/-! Lanes and groups (01 R18 to R20) -/

/-- A spare that is taken is one of the two. -/
theorem LinkGrp.spare_mem {x : LinkGrp} {sp : Nat} (h : x.spare = some sp) : sp = 64 ∨ sp = 65 := by
  simpa using List.mem_of_find?_eq_some h

/-- A group withdrawn. -/
def Chip.groupGone (c : Chip) (l g : Nat) : Chip := c.modLinks (fun k => { k with withdrawn := setIns k.withdrawn (5 * l + g) })

@[simp] theorem Chip.groupIn_groupGone_same (c : Chip) (l g : Nat) : (c.groupGone l g).groupIn l g = false := by
  simp [Chip.groupIn, Chip.groupGone, mem_setIns]

theorem Chip.groupIn_groupGone_other (c : Chip) {l g i : Nat} (h : i ≠ g) : (c.groupGone l g).groupIn l i = c.groupIn l i := by
  simp [Chip.groupIn, Chip.groupGone, mem_setIns, h]

/-- Whether a group is in service depends on the links alone. -/
theorem Chip.groupIn_congr {c d : Chip} (h : d.links = c.links) (l g : Nat) : d.groupIn l g = c.groupIn l g := by
  simp only [Chip.groupIn, h]

theorem Chip.linkGrp_congr {c d : Chip} (h : d.links = c.links) (l : Nat) (rev : Bool) (g : Nat) : d.linkGrp l rev g = c.linkGrp l rev g := by
  simp only [Chip.linkGrp, h]

@[simp] theorem Chip.groupIn_setLinkGrp (c : Chip) (l : Nat) (rev : Bool) (g : Nat) (x : LinkGrp) (k i : Nat) :
    (c.setLinkGrp l rev g x).groupIn k i = c.groupIn k i := rfl

/-- Where another group of the link is in service, a withdrawal is logged and no more. -/
theorem Chip.withdraw_degraded {c : Chip} {l g : Nat} (h : ∃ i < linkGroups l, i ≠ g ∧ c.groupIn l i = true) :
    c.withdraw l g = (c.groupGone l g).logEv .linkDegraded (srcPhy l) [l, g] := by
  obtain ⟨i, hi, hne, hin⟩ := h
  have hk : ((c.groupGone l g).logEv .linkDegraded (srcPhy l) [l, g]).groupIn l i = true := by
    rw [Chip.groupIn_congr (Chip.logEv_links ..), c.groupIn_groupGone_other hne, hin]
  unfold Chip.withdraw
  rw [← Chip.groupGone, if_neg]
  simpa using ⟨i, hi, hk⟩

/-- The last group of a link withdrawn is fatal. -/
theorem Chip.withdraw_last {c : Chip} {l g : Nat} (h : ∀ i < linkGroups l, i ≠ g → c.groupIn l i = false) :
    c.withdraw l g = ((c.groupGone l g).logEv .linkDegraded (srcPhy l) [l, g]).fatal .linkLost (srcPhy l) [l, g] 0x10
      (Config.linkDetail l g) := by
  unfold Chip.withdraw
  rw [← Chip.groupGone, if_pos]
  simp only [List.all_eq_true, List.mem_range, Bool.not_eq_true']
  intro i hi
  rw [Chip.groupIn_congr (Chip.logEv_links ..)]
  by_cases e : i = g
  · subst e; simp
  · rw [c.groupIn_groupGone_other e, h i hi e]

/-- A withdrawn group is out of service. -/
theorem Chip.groupIn_withdraw (c : Chip) (l g : Nat) : (c.withdraw l g).groupIn l g = false := by
  unfold Chip.withdraw
  rw [← Chip.groupGone]
  dsimp only
  split
  · rw [Chip.groupIn_congr ((Chip.fatal_links ..).trans (Chip.logEv_links ..)), Chip.groupIn_groupGone_same]
  · rw [Chip.groupIn_congr (Chip.logEv_links ..), Chip.groupIn_groupGone_same]

section Repair

variable (c : Chip) (l : Nat) (rev : Bool) (g lane : Nat)

/-- A failing lane takes the lowest spare, and its group stops. -/
theorem Chip.doLaneRepair_spare {sp : Nat} (hin : c.groupIn l g = true) (hc : (c.linkGrp l rev g).carries lane = true)
    (hf : laneFailing (tabGet [] (c.linkGrp l rev g).errs lane) = true) (hs : (c.linkGrp l rev g).spare = some sp) :
    c.doLaneRepair l rev g lane = c.setLinkGrp l rev g
      { c.linkGrp l rev g with
        down := true, spares := (c.linkGrp l rev g).spares ++ [(lane, sp)]
        repairing := setIns (c.linkGrp l rev g).repairing lane, errs := tabDel (c.linkGrp l rev g).errs lane } := by
  simp [Chip.doLaneRepair, hin, hc, hf, hs]

/-- With no spare left the group is withdrawn. -/
theorem Chip.doLaneRepair_none (hin : c.groupIn l g = true) (hc : (c.linkGrp l rev g).carries lane = true)
    (hf : laneFailing (tabGet [] (c.linkGrp l rev g).errs lane) = true) (hs : (c.linkGrp l rev g).spare = none) :
    c.doLaneRepair l rev g lane =
      (c.setLinkGrp l rev g { c.linkGrp l rev g with errs := tabDel (c.linkGrp l rev g).errs lane }).withdraw l g := by
  simp [Chip.doLaneRepair, hin, hc, hf, hs]

/-- A lane that does not fail, or carries nothing, is not repaired. -/
theorem Chip.doLaneRepair_sound (h : laneFailing (tabGet [] (c.linkGrp l rev g).errs lane) = false ∨
    (c.linkGrp l rev g).carries lane = false) : c.doLaneRepair l rev g lane = c := by
  rcases h with h | h <;> simp [Chip.doLaneRepair, h]

/-- A group that has retrained is in service again, and what is logged changes no link. -/
theorem Chip.doLaneRepairDone_links (hin : c.groupIn l g = true) (hd : (c.linkGrp l rev g).down = true) :
    (c.doLaneRepairDone l rev g).links =
      (c.setLinkGrp l rev g { c.linkGrp l rev g with down := false, repairing := [] }).links := by
  unfold Chip.doLaneRepairDone
  simp only [hin, hd, Bool.and_self, if_true]
  exact (Chip.logged_foldl (fun d lane => d.logged_logEv ..) _ _).part Chip.links

theorem Chip.doLaneRepairDone_up (hd : (c.linkGrp l rev g).down = false) : c.doLaneRepairDone l rev g = c := by
  simp [Chip.doLaneRepairDone, hd]

@[simp] theorem Chip.linkGrp_setLinkGrp (x : LinkGrp) : (c.setLinkGrp l rev g x).linkGrp l rev g = x := by
  simp [Chip.linkGrp, Chip.setLinkGrp]

end Repair

/-! Routes (01 R16) -/

/-- A link found between two dies joins them, in the direction that is answered. -/
theorem linkEnds_of_linkBetween {a b k : Nat} {r : Bool} (h : linkBetween a b = some (k, r)) :
    linkEnds k = if r then (b, a) else (a, b) := by
  simp only [linkBetween, Option.map_eq_some_iff, Prod.mk.injEq] at h
  obtain ⟨l, hl, rfl, rfl⟩ := h
  have he := List.find?_some hl
  simp only [Bool.or_eq_true, beq_iff_eq] at he
  by_cases e : linkEnds l = (a, b)
  · simp [e]
  · simp [he.resolve_left e]

/-- Two dies without an intermediate die share a link. -/
theorem linkBetween_isSome : ∀ a < 6, ∀ b < 6, a ≠ b → dieBetween a b = none → (linkBetween a b).isSome = true := by decide

/-- Traffic between two dies that share a link goes over that link alone. -/
theorem routeOf_direct {a b : Nat} (ha : a < 6) (hb : b < 6) (hne : a ≠ b) (h : dieBetween a b = none) :
    ∃ k r, routeOf a b = [(k, r)] ∧ linkEnds k = if r then (b, a) else (a, b) := by
  obtain ⟨⟨k, r⟩, hk⟩ := Option.isSome_iff_exists.mp (linkBetween_isSome a ha b hb hne h)
  exact ⟨k, r, by simp [routeOf, h, hk], linkEnds_of_linkBetween hk⟩

/-! Setup registers of paired capture (21 R527) -/

theorem putBits_high_zero {w : Nat} (h : w < 2 ^ 64) : putBits w 20 44 0 = w % 2 ^ 20 := by
  simp only [putBits, bits, Nat.shiftRight_eq_div_pow]
  omega

/-- The writable fields of CAP_GO put over what was there give the value written. -/
theorem capGo_fields {w v : Nat} (hw : w < 2 ^ 64) (hv : v < 2 ^ 20) :
    putBits (putBits (putBits w 20 44 0) 16 4 (bits v 19 16)) 0 16 (bits v 15 0) = v := by
  rw [putBits_high_zero hw]
  simp only [putBits, bits, Nat.shiftRight_eq_div_pow]
  omega

/-- A legal write of CAP_GO is applied as written (20 R509). -/
theorem judgeWrite_capGo {w v : Nat} (hw : w < 2 ^ 64) (hv : v < 2 ^ 20) (h1 : 1 ≤ bits v 19 16) (h8 : bits v 19 16 ≤ 8) :
    judgeWrite (regFlds 0x700018) w v none noLock = { value := v, logs := [] } := by
  have hr : bits v 63 20 = 0 := by simp only [bits, Nat.shiftRight_eq_div_pow]; omega
  have hf : (regFlds 0x700018).filter (covered none) = [⟨63, 20, .rsvd⟩, ⟨19, 16, .num 1 8⟩, ⟨15, 0, .wo⟩] := by decide
  rw [judgeWrite, hf]
  simp [noLock, FldKind.judge, hr, not_lt.mpr h1, not_lt.mpr h8, capGo_fields hw hv]

/-- A write of CAP_GO that names 1 to 8 islands starts their capture. -/
theorem Chip.doCapGo_whole (c : Chip) {a : SetupAcc} {v : Nat} (ha : wholeWrite a v) (hv : v < 2 ^ 20) (h1 : 1 ≤ bits v 19 16)
    (h8 : bits v 19 16 ≤ 8) : c.doCapGo a = c.capStart v := by
  obtain ⟨hh, rfl, hw⟩ := ha
  have hs : (regFlds 0x700018).find? (splits a.half) = none := by rw [hh]; decide
  have hj : judgeWrite (regFlds 0x700018) (c.regRead 0x700018 % 2 ^ 64) (accValue (c.regRead 0x700018 % 2 ^ 64) a) a.half noLock =
      { value := a.value.toNat, logs := [] } := by
    rw [hh, accValue, hh]
    exact judgeWrite_capGo (Nat.mod_lt _ (by decide)) hv h1 h8
  unfold Chip.doCapGo Chip.regStore
  simp only [hw, hs, hj]
  simp [hh, Chip.report]

/-- A request for 1 to 8 islands is formed from the capture registers. -/
theorem Chip.capStart_asks (c : Chip) {v : Nat} (h1 : 1 ≤ bits v 19 16) (h8 : bits v 19 16 ≤ 8) :
    c.capStart v = c.capAsk
      { reqId := v % 65536, record := c.rw 0x700010, key := none
        srcs := (List.range (bits v 19 16)).map (fun i => bits (c.rw (0x700000 + 8 * (i / 4))) (16 * (i % 4) + 15) (16 * (i % 4))) } := by
  have h : ¬ (bits v 19 16 = 0 ∨ 8 < bits v 19 16) := by omega
  simp [Chip.capStart, h]

/-! Paired captures (01 R31, R32) -/

section Capture

variable {c : Chip} {q : CapReq}

/-- One request under way and 16 behind it are taken. -/
theorem Chip.capAsk_room (h : c.cap.queue.length < 17) : c.capAsk q = c.modCap (fun k => { k with queue := k.queue ++ [q] }) := by
  simp [Chip.capAsk, h]

theorem Chip.capAsk_busy_register (h : 17 ≤ c.cap.queue.length) (hk : q.key = none) :
    c.capAsk q = c.devWrite srcDispatch q.record (capBusyRecord q) 0 := by
  simp [Chip.capAsk, not_lt.mpr h, hk]

theorem Chip.capAsk_busy_descriptor {key : Nat} (h : 17 ≤ c.cap.queue.length) (hk : q.key = some key) :
    c.capAsk q = c.finish key 0x0F q.reqId := by
  simp [Chip.capAsk, not_lt.mpr h, hk]

theorem Chip.doCaptureExecute_idle (h : c.cap.queue = []) : c.doCaptureExecute = c := by simp [Chip.doCaptureExecute, h]

variable {rest : List CapReq} (hq : c.cap.queue = q :: rest)
include hq

/-- The request of a register has its record written by the dispatch complex. -/
theorem Chip.doCaptureExecute_register (hk : q.key = none) :
    c.doCaptureExecute = (c.modCap (fun k => { k with queue := rest })).devWrite srcDispatch q.record (c.capRecord q) 0 := by
  simp [Chip.doCaptureExecute, hq, hk]

/-- The request of a descriptor that is there no longer writes nothing. -/
theorem Chip.doCaptureExecute_gone {key : Nat} (hk : q.key = some key) (hd : c.descAt key = none) :
    c.doCaptureExecute = c.modCap (fun k => { k with queue := rest }) := by
  have hd' : (c.modCap (fun k => { k with queue := rest })).descAt key = none := hd
  simp [Chip.doCaptureExecute, hq, hk, hd']

/-- The request of a descriptor: its record goes to its commander's memory, where it can be written, and the descriptor ends with it. -/
theorem Chip.doCaptureExecute_descriptor {key : Nat} {x : Desc} (hk : q.key = some key) (hd : c.descAt key = some x) :
    c.doCaptureExecute =
      let d := c.modCap (fun k => { k with queue := rest })
      if x.cm = 0 then
        if c.writable q.record (c.capRecord q).length then (d.storeHint q.record (c.capRecord q) false 0).finish key 0 0
        else (d.logRefused srcDispatch q.record (c.capRecord q).length).finish key 0x04 q.record
      else if (c.cmAt x.cm).st = .active then d.cxlAsk x.cm q.record (some (c.capRecord q)) (.done key)
      else d.finish key 0x12 0 := by
  have hd' : (c.modCap (fun k => { k with queue := rest })).descAt key = some x := hd
  simp only [Chip.doCaptureExecute, hq, hk, hd']
  rfl

end Capture

/-! The commands -/

section Commands

variable {s : State} (hl : s.chip.live = true)
include hl

theorem exec_flitReceive (l : Fin 13) (rev : Bool) (g : Fin 5) (seq : Nat) (crc : Bool) (lane : Option (Fin 66)) :
    exec (.flitReceive l rev g seq crc lane) s = .next (withChip s (s.chip.doFlitReceive l.val rev g.val seq crc lane)) :=
  State.liveChip_live _ hl

theorem exec_laneRepair (l : Fin 13) (rev : Bool) (g : Fin 5) (lane : Fin 66) :
    exec (.laneRepair l rev g lane) s = .next (withChip s (s.chip.doLaneRepair l.val rev g.val lane.val)) :=
  State.liveChip_live _ hl

theorem exec_laneRepairDone (l : Fin 13) (rev : Bool) (g : Fin 5) :
    exec (.laneRepairDone l rev g) s = .next (withChip s (s.chip.doLaneRepairDone l.val rev g.val)) :=
  State.liveChip_live _ hl

variable (hc : s.calm = true)
include hc

theorem exec_capGo (a : SetupAcc) : exec (.capGo a) s = .next (withChip s (s.chip.doCapGo a)) :=
  State.guarded_calm _ _ (fun c => c.doCapGo a) hl hc

theorem exec_captureExecute : exec .captureExecute s = .next (withChip s s.chip.doCaptureExecute) :=
  State.guarded_calm _ _ (fun c => c.doCaptureExecute) hl hc

end Commands

/-- Settles O53: links by the cases of a flit and of a lane repair, routes by the link between two dies, captures by the room in their queue
and by who asked. -/
theorem linksAndCaptures : Obligations.LinksAndCaptures := by
  refine ⟨?_, ?_⟩
  · rintro s l rev g seq lane rx x hl rfl rfl
    refine ⟨fun h => ?_, fun hin hup => ⟨?_, ?_⟩, LinkRx.take_late, fun h => ?_, LinkRx.take_in_order _ _,
      fun hin hcar hf => ⟨fun sp hs => ⟨LinkGrp.spare_mem hs, ?_⟩, fun hs => ?_⟩, fun h => ?_, fun hin hd => ?_, fun hd => ?_,
      by decide, by decide, by decide, by decide, fun a ha b hb => routeOf_direct ha hb⟩
    · rw [exec_flitReceive hl, Chip.doFlitReceive]
      rcases h with h | h <;> simp [h, withChip]
    · rw [exec_flitReceive hl, Chip.doFlitReceive]
      simp [hin, hup]
    · rw [exec_flitReceive hl, Chip.doFlitReceive]
      simp [hin, hup]
    · obtain ⟨hn, he⟩ := LinkRx.take_early h
      exact ⟨hn, by rw [he, mem_setIns]; exact .inl rfl⟩
    · rw [exec_laneRepair hl, Chip.doLaneRepair_spare s.chip l.val rev g.val lane.val hin hcar hf hs]
    · refine ⟨_, exec_laneRepair hl .., ?_⟩
      rw [Chip.doLaneRepair_none s.chip l.val rev g.val lane.val hin hcar hf hs]
      refine ⟨Chip.groupIn_withdraw .., fun h => ?_, fun h => ?_⟩
      · rw [Chip.withdraw_degraded (by simpa using h)]; exact Chip.logEv_boot ..
      · rw [Chip.withdraw_last (by simpa using h)]
        obtain ⟨hsafe, -, -, -, -, hcode, -⟩ := Chip.enterSafe_boot _ 0x10 (Config.linkDetail l.val g.val)
        exact ⟨hsafe, hcode⟩
    · rw [exec_laneRepair hl, Chip.doLaneRepair_sound s.chip l.val rev g.val lane.val h]; rfl
    · have hk := Chip.doLaneRepairDone_links s.chip l.val rev g.val hin hd
      refine ⟨_, exec_laneRepairDone hl .., ?_, by rw [hk]; rfl⟩
      rw [Chip.linkGrp_congr hk, Chip.linkGrp_setLinkGrp]
    · rw [exec_laneRepairDone hl, Chip.doLaneRepairDone_up s.chip l.val rev g.val hd]; rfl
  · intro s a v n key q rest c x hl hc
    refine ⟨?_, fun d p => ⟨Chip.capAsk_room, Chip.capAsk_busy_register, fun k => Chip.capAsk_busy_descriptor⟩, fun hq => ?_, ?_⟩
    · rintro ha hv rfl h1 h8 rfl
      rw [exec_capGo hl hc, Chip.doCapGo_whole s.chip ha hv h1 h8, Chip.capStart_asks s.chip h1 h8]
    · rw [exec_captureExecute hl hc, Chip.doCaptureExecute_idle hq]; rfl
    · rintro hq rfl
      rw [exec_captureExecute hl hc]
      refine ⟨fun hk => ?_, fun hk hd => ?_, fun hk hd => ?_⟩
      · rw [Chip.doCaptureExecute_register hq hk]
      · rw [Chip.doCaptureExecute_gone hq hk hd]
      · rw [Chip.doCaptureExecute_descriptor hq hk hd]
        refine ⟨fun h0 hw => ?_, fun h0 hw => ?_, fun h0 ha => ?_, fun h0 ha => ?_⟩
        · simp [h0, hw]
        · simp [h0, hw]
        · simp [h0, ha]
        · simp [h0, ha]

end Sys2Proof.Machine
end

section
/-!
What leaves the fabric's tables as they were: records, coherent writes, objects, virtual ranges and buckets; and what becomes of a closed
connection while regions, credit and waiting packets of other connections are looked at (13 R349, R357, 11 R310).
-/

open Sys2Proof

namespace Sys2Proof.Machine

/-! Operations that leave ports, regions and connections alone -/

/-- Steps that each leave the fabric alone, done one after another, leave it alone. -/
theorem Chip.foldl_fab {α : Type} {f : Chip → α → Chip} (hf : ∀ d x, (f d x).fab = d.fab) (l : List α) (c : Chip) :
    (l.foldl f c).fab = c.fab :=
  List.foldlRecOn l f (motive := fun d => d.fab = c.fab) rfl (fun d hd x _ => (hf d x).trans hd)

@[simp] theorem Chip.finish_fab (c : Chip) (key status detail : Nat) : (c.finish key status detail).fab = c.fab := by
  unfold Chip.finish Chip.finishSrc; split <;> rfl

@[simp] theorem Chip.meet_fab (c : Chip) (lines : List Nat) (alloc : Bool) : (c.meet lines alloc).fab = c.fab := by
  unfold Chip.meet; split <;> rfl

@[simp] theorem Chip.storeHint_fab (c : Chip) (pa : Nat) (bs : List Byte) (poison : Bool) (hint : Nat) :
    (c.storeHint pa bs poison hint).fab = c.fab := by
  unfold Chip.storeHint; dsimp only; split <;> exact c.meet_fab ..

@[simp] theorem Chip.logRefused_fab (c : Chip) (requester pa n : Nat) : (c.logRefused requester pa n).fab = c.fab :=
  (c.logged_logRefused ..).part Chip.fab

@[simp] theorem Chip.logWin_fab (c : Chip) (ev : Ev) (key : List Nat) (clock len src : Nat) (args : List Nat) :
    (c.logWin ev key clock len src args).fab = c.fab := (c.logged_logWin ..).part Chip.fab

@[simp] theorem Chip.devWrite_fab (c : Chip) (requester pa : Nat) (bs : List Byte) (hint : Nat) :
    (c.devWrite requester pa bs hint).fab = c.fab := by
  unfold Chip.devWrite; split <;> simp

@[simp] theorem Chip.wakeOne_fab (c : Chip) (value : Nat) (w : SoWait) : (c.wakeOne value w).fab = c.fab := by
  unfold Chip.wakeOne; split <;> rfl

@[simp] theorem Chip.soPut_fab (c : Chip) (n v : Nat) : (c.soPut n v).fab = c.fab :=
  Chip.foldl_fab (fun d w => d.wakeOne_fab _ w) _ _

@[simp] theorem Chip.soSignal_fab (c : Chip) (n v : Nat) : (c.soSignal n v).fab = c.fab := c.soPut_fab ..

@[simp] theorem Chip.fwAct_fab (c : Chip) (fp so value : Nat) (isSet : Bool) : (c.fwAct fp so value isSet).fab = c.fab := by
  unfold Chip.fwAct Chip.fwSoOp
  dsimp only
  split
  · rfl
  · split
    · exact Chip.soPut_fab ..
    · exact Chip.soSignal_fab ..

@[simp] theorem Chip.ringMsi_fab (c : Chip) (cm msi : Nat) : (c.ringMsi cm msi).fab = c.fab := by
  unfold Chip.ringMsi
  split
  · exact (c.logged_msi ..).part Chip.fab
  · rfl

@[simp] theorem Chip.recordSeen_fab (c : Chip) (cqn : Nat) (f : Fin_) : (c.recordSeen cqn f).fab = c.fab := by
  have interrupt : ∀ d : Chip, (if (d.cqAt cqn).int && (d.cqAt cqn).armed then
      (d.setCq cqn { d.cqAt cqn with armed := false }).ringMsi (d.cqAt cqn).cm (d.cqAt cqn).msi else d).fab = d.fab := by
    intro d
    split
    · exact Chip.ringMsi_fab ..
    · rfl
  refine (interrupt _).trans ?_
  split
  · split
    · exact c.fwAct_fab ..
    · rfl
  · rfl

@[simp] theorem Chip.writeRecord_fab (c : Chip) (r : LogRec) : (c.writeRecord r).fab = c.fab := by
  unfold Chip.writeRecord
  dsimp only
  split
  · rw [Chip.recordSeen_fab, Chip.devWrite_fab]; rfl
  · rfl

@[simp] theorem Chip.used_fab (c : Chip) (units : List Nat) (src : Nat) (s : Span) : (c.used units src s).fab = c.fab := by
  unfold Chip.used
  dsimp only
  split
  · split
    · rw [Chip.logRefused_fab, Chip.meet_fab]; rfl
    · rw [Chip.meet_fab]; rfl
  · rw [Chip.meet_fab]; rfl

@[simp] theorem Chip.scatter_fab (c : Chip) (s : Span) (bs : List Byte) (bad : Bool) (hint : Nat) : (c.scatter s bs bad hint).fab = c.fab :=
  List.foldlRecOn s.pieces _ (motive := fun (acc : Chip × List Byte) => acc.1.fab = c.fab) rfl
    (fun acc h _ _ => (acc.1.storeHint_fab ..).trans h)

@[simp] theorem Chip.fillSome_fab (c : Chip) (tag pa : Nat) : (c.fillSome tag pa).fab = c.fab := by
  unfold Chip.fillSome; dsimp only; split <;> rfl

@[simp] theorem Chip.contribute_fab (c : Chip) (tag pa mask : Nat) (xs : List Nat) (bad : Bool) (ctx : Option Nat) (src hint : Nat) :
    (c.contribute tag pa mask xs bad ctx src hint).1.fab = c.fab := by
  unfold Chip.contribute
  dsimp only
  split
  · rw [Chip.logWin_fab]; exact c.fillSome_fab ..
  · split
    · exact c.fillSome_fab ..
    · split
      · exact c.fillSome_fab ..
      · exact (Chip.storeHint_fab ..).trans (c.fillSome_fab ..)

@[simp] theorem Chip.holdDown_fab (c : Chip) (ctx va : Nat) : (c.holdDown ctx va).fab = c.fab := by
  unfold Chip.holdDown
  split
  · split
    · rfl
    · exact c.storeHint_fab ..
  · rfl

/-! Connections -/

theorem Chip.connAt_congr {c d : Chip} (h : d.fab = c.fab) (n : Nat) : d.connAt n = c.connAt n := by simp only [Chip.connAt, h]

@[simp] theorem Chip.connAt_setConn_same (c : Chip) (k : Nat) (x : Conn) : (c.setConn k x).connAt k = x := by
  simp [Chip.connAt, Chip.setConn]

theorem Chip.connAt_setConn_other (c : Chip) {k n : Nat} (x : Conn) (h : k ≠ n) : (c.setConn k x).connAt n = c.connAt n := by
  simp [Chip.connAt, Chip.setConn, tabGet_tabSet_other _ _ _ h]

/-! The effects of a packet of one connection on another (13 R343 to R347, R354, R355) -/

theorem Chip.placeRegion_fab (c : Chip) (ctx key off : Nat) (bs : List Byte) (bad : Bool) (proto : Nat) :
    (c.placeRegion ctx key off bs bad proto).1.fab = c.fab := by
  unfold Chip.placeRegion
  split
  · rfl
  · dsimp only
    split
    · exact c.used_fab ..
    · exact (Chip.scatter_fab ..).trans (c.used_fab ..)

theorem Chip.placeAcc_fab (c : Chip) (tag boff : Nat) (bs : List Byte) (bad : Bool) : (c.placeAcc tag boff bs bad).1.fab = c.fab := by
  unfold Chip.placeAcc
  dsimp only
  split
  · exact c.used_fab ..
  · refine List.foldlRecOn _ _ (motive := fun (acc : Chip × Outcome) => acc.1.fab = c.fab) rfl (fun acc h q _ => ?_)
    split
    · exact h
    · exact (acc.1.contribute_fab ..).trans h

theorem Chip.recvWrite_fab (c : Chip) (cq tag detail ctx : Nat) (bs : List Byte) : (c.recvWrite cq tag detail ctx bs).fab = c.fab := by
  unfold Chip.recvWrite
  have record : ∀ (p : Prop) [Decidable p] (d : Chip) (r : LogRec), (if p then d.writeRecord r else d).fab = d.fab := by
    intro p _ d r
    split
    · exact d.writeRecord_fab r
    · rfl
  refine (record _ _ _).trans (Chip.foldl_fab (fun d i => ?_) _ _)
  split
  · exact d.devWrite_fab ..
  · rfl

/-- A READ served for one connection leaves every other as it was. -/
theorem Chip.placeRead_connAt (c : Chip) {k n : Nat} (psn : Nat) (hdr : List Byte) (h : k ≠ n) :
    (c.placeRead k psn hdr).1.connAt n = c.connAt n := by
  unfold Chip.placeRead
  dsimp only
  split
  · rfl
  · have post : ∀ (d : Chip) (m : HMsg), (d.haulPost k m).connAt n = d.connAt n := fun d m => d.connAt_setConn_other _ h
    split
    · exact Chip.connAt_congr (c.used_fab ..) n
    · split
      · rw [post]; exact Chip.connAt_congr (c.used_fab ..) n
      · split
        · exact Chip.connAt_congr (c.used_fab ..) n
        · split
          · exact Chip.connAt_congr (c.used_fab ..) n
          · split
            · rw [post, Chip.connAt_setConn_other _ _ h]
              exact Chip.connAt_congr ((Chip.storeHint_fab ..).trans (c.used_fab ..)) n
            · exact Chip.connAt_congr ((Chip.meet_fab ..).trans (c.used_fab ..)) n

/-- A response to a READ of one connection leaves every other as it was. -/
theorem Chip.placeResp_connAt (c : Chip) {k n : Nat} (hdr bs : List Byte) (bad : Bool) (h : k ≠ n) :
    (c.placeResp k hdr bs bad).1.connAt n = c.connAt n := by
  unfold Chip.placeResp
  dsimp only
  split
  · rfl
  · have placed := Chip.connAt_congr (c.placeRegion_fab (c.connAt k).ctx (fieldBE hdr 0 4) (fieldBE hdr 8 8) bs bad 2) n
    have last : ∀ (d : Chip) (all : Bool) (key : Nat), (if all then d.finish key 0 0 else d).connAt n = d.connAt n := by
      intro d all key
      cases all
      · rfl
      · exact Chip.connAt_congr (d.finish_fab ..) n
    split
    · exact placed
    · exact (last _ _ _).trans ((Chip.connAt_setConn_other _ _ h).trans placed)

/-- The effects of a packet of one connection leave every other as it was. -/
theorem Chip.placePacket_connAt (c : Chip) {k n : Nat} (psn op : Nat) (hdr bs : List Byte) (bad : Bool) (h : k ≠ n) :
    (c.placePacket k psn op hdr bs bad).1.connAt n = c.connAt n := by
  unfold Chip.placePacket
  split
  · exact Chip.connAt_congr (c.placeRegion_fab ..) n
  · exact c.placeRead_connAt _ _ h
  · exact c.placeResp_connAt _ _ _ h
  · exact Chip.connAt_congr (c.placeAcc_fab ..) n
  · unfold Chip.placeSend
    dsimp only
    split
    · rfl
    · exact Chip.connAt_congr (c.recvWrite_fab ..) n
  · unfold Chip.placeSignal
    split
    · exact Chip.connAt_congr (c.soSignal_fab ..) n
    · rfl

theorem Chip.applySlot_connAt (c : Chip) {k n : Nat} (psn : Nat) (s : RxSlot) (h : k ≠ n) :
    (c.applySlot k psn s).connAt n = c.connAt n := by
  unfold Chip.applySlot Chip.setSlot
  dsimp only
  rw [Chip.connAt_setConn_other _ _ h, c.placePacket_connAt _ _ _ _ _ h]

/-- The waiting packets of one connection applied leave every other as it was. -/
theorem Chip.release_connAt (c : Chip) {k n : Nat} (h : k ≠ n) : (c.release k).connAt n = c.connAt n := by
  refine List.foldlRecOn _ _ (motive := fun d : Chip => d.connAt n = c.connAt n) rfl (fun d hd q _ => ?_)
  split
  · split
    · exact (d.applySlot_connAt _ _ h).trans hd
    · exact hd
  · exact hd

/-! A closed connection -/

/-- A connection is IDLE and holds no packet. -/
def Chip.Shut (c : Chip) (n : Nat) : Prop := (c.connAt n).st = .idle ∧ (c.connAt n).rx.slots = []

theorem Chip.Shut.congr {c d : Chip} {n : Nat} (h : c.Shut n) (e : d.connAt n = c.connAt n) : d.Shut n := by
  unfold Chip.Shut; rwa [e]

theorem Chip.Shut.of_fab {c d : Chip} {n : Nat} (h : c.Shut n) (e : d.fab = c.fab) : d.Shut n := h.congr (Chip.connAt_congr e n)

/-- A closed connection has no packet to apply, and those of others do not concern it. -/
theorem Chip.Shut.release {c : Chip} {n : Nat} (h : c.Shut n) (k : Nat) : (c.release k).Shut n := by
  by_cases e : k = n
  · subst e
    unfold Chip.release
    rw [h.2]
    exact h
  · exact h.congr (c.release_connAt e)

theorem Chip.Shut.releaseAll {c : Chip} {n : Nat} (h : c.Shut n) : c.releaseAll.Shut n :=
  List.foldlRecOn _ _ (motive := fun d : Chip => d.Shut n) h (fun _ hd p _ => hd.release p.1)

/-- A connection's gathers abandoned leave it closed. -/
theorem Chip.Shut.letGo {c : Chip} {n : Nat} (h : c.Shut n) : (c.letGo n).Shut n := by
  unfold Chip.letGo
  dsimp only
  split
  · exact h
  · refine Chip.Shut.releaseAll (Chip.Shut.of_fab ?_ (Chip.foldl_fab (fun d x => d.holdDown_fab ..) _ _))
    unfold Chip.Shut
    rw [Chip.connAt_setConn_same]
    exact h

/-- Raising credit changes the limit of one connection at most (13 R349). -/
theorem Chip.raiseCredit_eq (c : Chip) (k : Nat) : c.raiseCredit k = c ∨
    ∃ t, c.raiseCredit k = c.setConn k { c.connAt k with rx := { (c.connAt k).rx with limit := t } } := by
  have raised : ∀ t, (if seqGe t (c.connAt k).rx.limit then
        c.setConn k { c.connAt k with rx := { (c.connAt k).rx with limit := t } } else c) = c ∨
      ∃ u, (if seqGe t (c.connAt k).rx.limit then
        c.setConn k { c.connAt k with rx := { (c.connAt k).rx with limit := t } } else c) =
          c.setConn k { c.connAt k with rx := { (c.connAt k).rx with limit := u } } := by
    intro t
    split
    · exact .inr ⟨t, rfl⟩
    · exact .inl rfl
  exact raised _

/-- Credit raised leaves a connection as it was but for its limit. -/
theorem Chip.raiseCredit_connAt (c : Chip) (k n : Nat) :
    ∃ t, (c.raiseCredit k).connAt n = { c.connAt n with rx := { (c.connAt n).rx with limit := t } } := by
  rcases c.raiseCredit_eq k with e | ⟨t, e⟩
  · exact ⟨(c.connAt n).rx.limit, by rw [e]⟩
  · rw [e]
    by_cases hk : k = n
    · subst hk; exact ⟨t, Chip.connAt_setConn_same ..⟩
    · exact ⟨(c.connAt n).rx.limit, Chip.connAt_setConn_other _ _ hk⟩

theorem Chip.Shut.raiseCredit {c : Chip} {n : Nat} (h : c.Shut n) (k : Nat) : (c.raiseCredit k).Shut n := by
  obtain ⟨t, e⟩ := c.raiseCredit_connAt k n
  unfold Chip.Shut
  rw [e]
  exact h

theorem Chip.Shut.raiseAll {c : Chip} {n : Nat} (h : c.Shut n) : c.raiseAll.Shut n := by
  refine List.foldlRecOn _ _ (motive := fun d : Chip => d.Shut n) h (fun d hd p _ => ?_)
  split
  · exact hd.raiseCredit p.1
  · exact hd

/-- A withdrawal that comes to its end changes no connection. -/
theorem Chip.settleRegion_conn (c : Chip) (r : Nat) : (c.settleRegion r).fab.conn = c.fab.conn := by
  unfold Chip.settleRegion
  dsimp only
  split
  · split
    · rfl
    · rw [Chip.finish_fab]; rfl
  · rfl

theorem Chip.Shut.settleRegions {c : Chip} {n : Nat} (h : c.Shut n) : c.settleRegions.Shut n := by
  have e : c.settleRegions.fab.conn = c.fab.conn :=
    List.foldlRecOn _ _ (motive := fun d : Chip => d.fab.conn = c.fab.conn) rfl (fun d hd p _ => (d.settleRegion_conn p.1).trans hd)
  exact h.congr (by simp only [Chip.connAt, e])

/-- A connection that its commander closes is IDLE and holds no packet (14 Table 14.5 CONN_CLOSE). -/
theorem Chip.connShut_shut (c : Chip) {k : Nat} (h : (c.connAt k).st ≠ .idle) : (c.connShut k).Shut k := by
  unfold Chip.connShut
  dsimp only
  rw [if_neg h]
  refine Chip.Shut.letGo (Chip.Shut.raiseAll (Chip.Shut.settleRegions ?_))
  unfold Chip.Shut
  rw [Chip.connAt_setConn_same]
  exact ⟨rfl, rfl⟩

end Sys2Proof.Machine
end

section
/-!
Ring descriptors of the fabric and of captures (14 Table 14.5, R548; 13 R338, R354, R358, R359; 01 R31): what each does when it starts.
-/

open Sys2Proof

namespace Sys2Proof.Machine

/-- The first descriptor of a ring, when it may start, is of the row's kind and breaks no rule, is carried out, and the ring consumes on. -/
theorem Chip.onDesc_ready {s : State} {r : Fin 1024} {d : Desc} (h : descReady s r d) {kind : Desc → Bool} (hk : kind d = true)
    (f : Chip → Desc → Chip) : s.chip.onDesc r.val kind f = (f s.chip d).pump r.val := by
  obtain ⟨-, hd, hm, hr⟩ := h
  simp [Chip.onDesc, hd, hk, hm, hr]

section Commands

variable {s : State} {r : Fin 1024} {d : Desc} (h : descReady s r d)
include h

/-- A row whose command acts in service carries the descriptor out. -/
theorem exec_onDesc {i : Instr} {kind : Desc → Bool} {f : Chip → Desc → Chip}
    (hi : exec i s = s.liveChip (fun c => c.onDesc r.val kind f)) (hk : kind d = true) :
    exec i s = .next (withChip s ((f s.chip d).pump r.val)) := by
  rw [hi, State.liveChip_live _ h.1, Chip.onDesc_ready h hk]; rfl

/-- A row whose command may have to wait for memory carries the descriptor out on a calm package. -/
theorem exec_onDesc_calm (hc : s.calm = true) {i : Instr} {key : List Nat} {kind : Desc → Bool} {f : Chip → Desc → Chip}
    (hi : exec i s = s.guarded key i (fun c => c.onDesc r.val kind f)) (hk : kind d = true) :
    exec i s = .next (withChip s ((f s.chip d).pump r.val)) := by
  rw [hi, State.guarded_calm _ _ _ h.1 hc, Chip.onDesc_ready h hk]; rfl

/-- A descriptor that posts a message on a connection. -/
theorem exec_post {p : (Fin 1024 → Instr) × (Desc → Bool)} (hp : p ∈ postRows) (hk : p.2 d = true) :
    exec (p.1 r) s = .next (withChip s ((s.chip.postTo d).pump r.val)) := by
  simp only [postRows, List.mem_cons, List.not_mem_nil, or_false] at hp
  rcases hp with rfl | rfl | rfl | rfl | rfl | rfl <;> exact exec_onDesc h rfl hk

/-- A descriptor that posts a work request on a queue pair. -/
theorem exec_qpPost (hc : s.calm = true) {p : (Fin 1024 → Instr) × (Desc → Bool)} (hp : p ∈ qpRows) (hk : p.2 d = true) :
    exec (p.1 r) s = .next (withChip s ((s.chip.qpDesc d).pump r.val)) := by
  simp only [qpRows, List.mem_cons, List.not_mem_nil, or_false] at hp
  rcases hp with rfl | rfl | rfl | rfl | rfl <;> exact exec_onDesc_calm h hc rfl hk

end Commands

/-- A buffer put at the end of a queue pair's receives. -/
def Chip.recvDesc (c : Chip) (d : Desc) : Chip :=
  (c.starts d []).setQp (d.f 16 2)
    { c.qpAt (d.f 16 2) with recvs := (c.qpAt (d.f 16 2)).recvs ++ [{ key := d.key, va := d.f 24 8, len := d.f 32 4 }] }

/-- The connection that a CONN_CREATE makes of one whose last epoch is given, with the addresses of its peers and the moment at which it
begins (13 R338). -/
def Desc.newConn (d : Desc) (epoch : Nat) (addrs : List Byte) (now : Nat) : Conn :=
  { Conn.fresh with
    st := .connecting, ctx := d.ctx, cookie := d.f 24 8, mask := d.f 20 4, epoch := epoch, rxring := d.f 32 2
    peers := (List.range (d.f 18 1)).map (fun i => beVal ((addrs.drop (16 * i)).take 16))
    creditMax := clampN (d.f 36 4) 65536 16777216, timeout := clampN (d.f 34 2) 1 1000
    proposal := if epoch = 0 then 1 else (epoch + 1) % 65536, creator := some d.key, tx := { HSend.fresh with beat := now } }

/-- The queue pair that a QP_CREATE makes (13 R358). -/
def Chip.newQp (c : Chip) (d : Desc) : Qp :=
  { Qp.fresh with
    st := .ready, ctx := d.ctx, mtu := d.f 18 1, sub := d.f 19 1, cq := d.f 20 2, retry := d.f 22 1, rnr := d.f 23 1
    peer := fieldBE d.bytes 24 16, peerQpn := d.f 40 4, texp := d.f 48 1, psn := d.f 44 4, unacked := d.f 44 4, epsn := d.f 44 4
    rate := Rate.start (fp32OfNat (c.lineRate (d.f 19 1))) c.fabric }

@[simp] theorem Chip.qpAt_setQp_same (c : Chip) (n : Nat) (q : Qp) : (c.setQp n q).qpAt n = q := by simp [Chip.qpAt, Chip.setQp]

/-- The entry of the neighbour table that a NEIGH replaces or removes is left out. -/
def Desc.otherNeigh (d : Desc) (l : List (Nat × Nat × Nat)) : List (Nat × Nat × Nat) :=
  l.filter (fun x => !(x.1 == d.f 16 1 && x.2.1 == fieldBE d.bytes 24 16))

section Effects

variable {s : State} {r : Fin 1024} {d : Desc} (h : descReady s r d)
include h

theorem exec_recvPost (hop : d.op = 0x38) :
    exec (.recvPost r) s = .next (withChip s ((s.chip.onQp d (fun c => c.recvDesc d)).pump r.val)) :=
  exec_onDesc h (f := fun c d => c.onQp d (fun x => x.recvDesc d)) rfl (by simp [opIs, hop])

/-! Connections -/

/-- CONN_CLOSE is the context's own, and closes whatever state the connection is in. -/
theorem exec_connClose (hc : s.calm = true) (hop : d.op = 0x31) :
    exec (.connClose r) s = .next (withChip s
      ((if (s.chip.connAt (d.f 16 2)).st ≠ .idle ∧ (s.chip.connAt (d.f 16 2)).ctx ≠ d.ctx then s.chip.finish d.key 0x07 d.ctx
        else (s.chip.connShut (d.f 16 2)).finish d.key 0 0).pump r.val)) :=
  exec_onDesc_calm h hc
    (f := fun e d => if (e.connAt (d.f 16 2)).st ≠ .idle ∧ (e.connAt (d.f 16 2)).ctx ≠ d.ctx then e.finish d.key 0x07 d.ctx
      else (e.connShut (d.f 16 2)).finish d.key 0 0) rfl (by simp [opIs, hop])

/-- CONN_CREATE on a connection in use is BUSY. -/
theorem exec_connCreate_busy (hc : s.calm = true) (hop : d.op = 0x30)
    (hst : (s.chip.connAt (d.f 16 2)).st = .open_ ∨ (s.chip.connAt (d.f 16 2)).st = .connecting) :
    exec (.connCreate r) s = .next (withChip s ((s.chip.finish d.key 0x09 (d.f 16 2)).pump r.val)) := by
  refine (exec_onDesc_calm h hc rfl (by simp [opIs, hop])).trans ?_
  simp only [hst, if_true]

/-- CONN_CREATE on a connection that is not in use, its peers' addresses read: the connection begins CONNECTING with the fields of the
descriptor (13 R338). -/
theorem exec_connCreate_begins (hc : s.calm = true) (hop : d.op = 0x30)
    (hst : (s.chip.connAt (d.f 16 2)).st = .idle ∨ (s.chip.connAt (d.f 16 2)).st = .lost)
    {sp : Span} (hsp : sp = s.chip.spanLines [] d.ctx (d.f 40 8) (16 * d.f 18 1) false) (hf : sp.fault = none)
    (hg : ((s.chip.used [] srcDispatch sp).mem.gather sp).2 = none) :
    exec (.connCreate r) s = .next (withChip s
      (((((s.chip.used [] srcDispatch sp).starts d []).setConn (d.f 16 2)
        (d.newConn (s.chip.connAt (d.f 16 2)).epoch ((s.chip.used [] srcDispatch sp).mem.gather sp).1
          (s.chip.used [] srcDispatch sp).dispatch)).raiseCredit (d.f 16 2)).pump r.val)) := by
  subst hsp
  have hno : ¬ ((s.chip.connAt (d.f 16 2)).st = .open_ ∨ (s.chip.connAt (d.f 16 2)).st = .connecting) := by
    rcases hst with e | e <;> simp [e]
  refine (exec_onDesc_calm h hc rfl (by simp [opIs, hop])).trans ?_
  simp only [hno, if_false, hf, hg]
  rfl

/-! The neighbour table, queue pairs and captures -/

/-- NEIGH without VALID removes its entry. -/
theorem exec_neigh_removes (hop : d.op = 0x32) (hv : d.f 17 1 = 0) :
    exec (.neigh r) s = .next (withChip s
      (((s.chip.modFab (fun f => { f with neigh := d.otherNeigh f.neigh })).finish d.key 0 0).pump r.val)) := by
  refine (exec_onDesc h rfl (by simp [opIs, hop])).trans ?_
  simp only [hv, if_true]
  rfl

/-- NEIGH with VALID writes its entry in the place of an old one, where the table has room. -/
theorem exec_neigh_writes (hop : d.op = 0x32) (hv : d.f 17 1 ≠ 0) (hn : s.chip.fab.neigh.length < 1024) :
    exec (.neigh r) s = .next (withChip s
      (((s.chip.modFab (fun f => { f with neigh := d.otherNeigh f.neigh ++ [(d.f 16 1, fieldBE d.bytes 24 16, fieldBE d.bytes 18 6)] })).finish
        d.key 0 0).pump r.val)) := by
  have room : ¬ 1024 ≤ (d.otherNeigh s.chip.fab.neigh).length :=
    not_le.mpr (lt_of_le_of_lt (List.length_filter_le ..) hn)
  rw [Desc.otherNeigh] at room
  refine (exec_onDesc h rfl (by simp [opIs, hop])).trans ?_
  simp only [hv, room, if_false]
  rfl

/-- QP_CREATE of a queue pair that is not ready. -/
theorem exec_qpCreate (hop : d.op = 0x36) (hst : (s.chip.qpAt (d.f 16 2)).st ≠ .ready) :
    exec (.qpCreate r) s = .next (withChip s
      (((s.chip.setQp (d.f 16 2) (s.chip.newQp d)).finish d.key 0 0).pump r.val)) := by
  refine (exec_onDesc h rfl (by simp [opIs, hop])).trans ?_
  simp only [hst, if_false]
  rfl

/-- CAPTURE is queued and its descriptor stays started (01 R31). -/
theorem exec_capture (hc : s.calm = true) (hop : d.op = 0x05) :
    exec (.capture r) s = .next (withChip s (((s.chip.starts d []).capAsk
      { reqId := d.f 16 2, srcs := (List.range (d.f 18 1)).map (fun i => d.f (24 + 2 * i) 2), record := d.f 40 8
        key := some d.key }).pump r.val)) :=
  exec_onDesc_calm h hc
    (f := fun e d => (e.starts d []).capAsk
      { reqId := d.f 16 2, srcs := (List.range (d.f 18 1)).map (fun i => d.f (24 + 2 * i) 2), record := d.f 40 8, key := some d.key })
    rfl (by simp [opIs, hop])

end Effects

/-! Posting on a connection (14 R548) -/

section Post

variable {c : Chip} {d : Desc}

theorem Chip.postTo_open (hst : (c.connAt (d.f 16 4)).st = .open_) (hx : (c.connAt (d.f 16 4)).ctx = d.ctx) :
    c.postTo d = (c.starts d []).haulPost (d.f 16 4) d.message := by simp [Chip.postTo, hst, hx]

theorem Chip.postTo_connecting (hst : (c.connAt (d.f 16 4)).st = .connecting) (hx : (c.connAt (d.f 16 4)).ctx = d.ctx) :
    c.postTo d = c.starts d [d.f 16 4] := by simp [Chip.postTo, hst, hx]

theorem Chip.postTo_foreign (hst : (c.connAt (d.f 16 4)).st ≠ .idle) (hx : (c.connAt (d.f 16 4)).ctx ≠ d.ctx) :
    c.postTo d = c.finish d.key 0x07 d.ctx := by simp [Chip.postTo, hst, hx]

/-- A connection that is IDLE, or the context's own and LOST, answers CONN_LOST. -/
theorem Chip.postTo_lost (h : (c.connAt (d.f 16 4)).st = .idle ∨
    ((c.connAt (d.f 16 4)).st = .lost ∧ (c.connAt (d.f 16 4)).ctx = d.ctx)) :
    c.postTo d = c.finish d.key 0x0E (d.f 16 4) := by
  rcases h with h | ⟨h, hx⟩
  · simp [Chip.postTo, h]
  · simp [Chip.postTo, h, hx]

/-! Queue pairs (13 R359) -/

theorem Chip.onQp_ready (f : Chip → Chip) (hst : (c.qpAt (d.f 16 2)).st = .ready) (hx : (c.qpAt (d.f 16 2)).ctx = d.ctx) :
    c.onQp d f = f c := by simp [Chip.onQp, hst, hx]

theorem Chip.onQp_foreign (f : Chip → Chip) (h : (c.qpAt (d.f 16 2)).st = .none ∨ (c.qpAt (d.f 16 2)).ctx ≠ d.ctx) :
    c.onQp d f = c.finish d.key 0x07 d.ctx := by simp [Chip.onQp, h]

theorem Chip.onQp_error (f : Chip → Chip) (hst : (c.qpAt (d.f 16 2)).st = .error) (hx : (c.qpAt (d.f 16 2)).ctx = d.ctx) :
    c.onQp d f = (c.qpFinish (d.f 16 2) d.key 0x16 (c.freeVal % 256)).took 1 := by simp [Chip.onQp, hst, hx]

end Post

/-- Every row that gives a queue pair work or a buffer passes the same check of the queue pair. -/
theorem exec_onQp {s : State} {r : Fin 1024} {d : Desc} (h : descReady s r d) (hc : s.calm = true)
    {p : (Fin 1024 → Instr) × (Desc → Bool)} (hp : p ∈ (Instr.recvPost, opIs 0x38) :: qpRows) (hk : p.2 d = true) :
    ∃ f : Chip → Chip, exec (p.1 r) s = .next (withChip s ((s.chip.onQp d f).pump r.val)) := by
  rcases List.mem_cons.mp hp with rfl | hp
  · exact ⟨_, exec_recvPost h (by simpa [opIs] using hk)⟩
  · exact ⟨_, exec_qpPost h hc hp hk⟩

/-- Settles O42: each row carries its descriptor out (`exec_onDesc`), and what that comes to depends on the state of the connection or the
queue pair; a connection that is closed stays closed by `Chip.connShut_shut`. -/
theorem fabricDescriptors : Obligations.FabricDescriptors := by
  rintro s r d n h rfl
  refine ⟨?_, ?_, ?_, ?_, ?_, ?_, ?_, ?_, ?_, ?_, ?_, ?_, ?_⟩
  · intro sp hop hc hst hsp hf hg
    refine ⟨_, exec_connCreate_begins h hc hop hst hsp hf hg, ?_⟩
    obtain ⟨t, ht⟩ := Chip.raiseCredit_connAt (((s.chip.used [] srcDispatch sp).starts d []).setConn (d.f 16 2)
      (d.newConn (s.chip.connAt (d.f 16 2)).epoch ((s.chip.used [] srcDispatch sp).mem.gather sp).1
        (s.chip.used [] srcDispatch sp).dispatch)) (d.f 16 2) (d.f 16 2)
    rw [ht, Chip.connAt_setConn_same]
    exact ⟨rfl, rfl, rfl, rfl, by simp [Desc.newConn], rfl⟩
  · intro hop hc hst
    rw [exec_connClose h hc hop]
    simp [hst, Chip.connShut]
  · intro hop hc hst hx _
    refine ⟨_, exec_connClose h hc hop, ?_⟩
    have shut := (s.chip.connShut_shut (k := d.f 16 2) (by simp [hst])).of_fab (Chip.finish_fab _ d.key 0 0)
    rw [if_neg (fun hn => hn.2 hx)]
    exact shut
  · intro hop hc hst hx
    rw [exec_connClose h hc hop, if_pos ⟨hst, hx⟩]
  · intro hop hc hst
    exact exec_connCreate_busy h hc hop hst
  · exact exec_neigh_removes h
  · exact exec_neigh_writes h
  · intro p hp hk
    rw [exec_post h hp hk]
    exact ⟨fun hst hx => by rw [Chip.postTo_open hst hx]; rfl, fun hst hx => by rw [Chip.postTo_connecting hst hx]; rfl,
      fun hst hx => by rw [Chip.postTo_foreign hst hx], fun hst => by rw [Chip.postTo_lost hst]⟩
  · intro hop hst
    refine ⟨_, exec_qpCreate h hop hst, ?_⟩
    rw [Chip.qpAt_setQp_same]
    exact ⟨rfl, rfl, rfl, rfl, rfl⟩
  · intro p hp hk hc hst hx
    rw [exec_qpPost h hc hp hk, Chip.qpDesc, Chip.onQp_ready _ hst hx]
    rfl
  · intro hop hst hx
    rw [exec_recvPost h hop, Chip.onQp_ready _ hst hx]
    rfl
  · intro p hp hk hc
    obtain ⟨f, hf⟩ := exec_onQp h hc hp hk
    rw [hf]
    exact ⟨fun hq => by rw [Chip.onQp_foreign f hq], fun hst hx => by rw [Chip.onQp_error f hst hx]⟩
  · intro hop hc
    exact exec_capture h hc hop

end Sys2Proof.Machine
end

section
/-!
Controller instructions (07 R178, R179, Table 7.3): what a legal one does when it issues, said once for all of them; the results and the
frame of the arithmetic and control rows.
-/

open Sys2Proof

namespace Sys2Proof.Machine

/-- An instruction whose registers are ready issues also when it is asked for none of them. -/
theorem Tile.issues_nil {v : Tile} {w : BitVec 64} {regs : List Nat} (h : v.issues w regs = true) : v.issues w [] = true := by
  simp only [Tile.issues, Bool.and_eq_true] at h
  simp [Tile.issues, h.1]

/-- An instruction that moves past itself changes the tile alone. -/
theorem retire_withTile {s : State} {t : Fin 200} {v : Tile} (hpc : (tileOf s t).pc + 8 < 0x10000) (hv : v.pc = (tileOf s t).pc) :
    withChip s (s.chip.retire t.val v) = withTile s t { v with pc := (tileOf s t).pc + 8 } := by
  rw [Chip.retire_inside s.chip t.val v (by rw [hv]; exact hpc), hv]
  rfl

section Issue

variable {s : State} {t : Fin 200} {w : BitVec 64} {op : Nat} (h : ctlAt s t w op)
include h

/-- Behind a controller instruction that is the next to issue lies instruction memory. -/
theorem next_of_ctlAt : (tileOf s t).pc + 8 < 0x10000 := by
  obtain ⟨-, -, -, -, -, hpc⟩ := h
  exact hpc

/-- A legal controller instruction that is the next to issue has its operation's effect on the package. -/
theorem exec_ctl {i : Instr} (e : Chip → Nat → BitVec 64 → Chip) {legal : Bool} {f : Tile → Chip}
    (hi : exec i s = s.liveChip (fun c => e c t.val w)) (he : e s.chip t.val w = s.chip.ctl t.val w op legal f) (hl : legal = true) :
    exec i s = .next (withChip s (f (tileOf s t))) := by
  obtain ⟨hlive, hissue, hclass, hop, hrsv, -⟩ := h
  rw [hi, State.liveChip_live _ hlive, he, Chip.ctl_issues s.chip t.val w op legal f hissue hclass hop hrsv hl]
  rfl

/-- One that computes a new tile and moves past itself changes that tile alone. -/
theorem exec_ctl_retires {i : Instr} (e : Chip → Nat → BitVec 64 → Chip) {legal : Bool} {g : Tile → Tile}
    (hi : exec i s = s.liveChip (fun c => e c t.val w))
    (he : e s.chip t.val w = s.chip.ctl t.val w op legal (fun v => s.chip.retire t.val (g v))) (hl : legal = true)
    (hg : (g (tileOf s t)).pc = (tileOf s t).pc) :
    exec i s = .next (withTile s t { g (tileOf s t) with pc := (tileOf s t).pc + 8 }) := by
  rw [exec_ctl h e hi he hl, retire_withTile (next_of_ctlAt h) hg]

end Issue

/-- A tile changed and sent to a place inside instruction memory. -/
theorem goto_withTile (s : State) (t : Fin 200) (v : Tile) {pc : Nat} (h : pc < 0x10000) :
    withChip s ((s.chip.setTile t.val v).goto t.val pc) = withTile s t { v with pc := pc } := by
  rw [Chip.goto_inside _ _ _ h, Chip.tileAt_setTile_same, Chip.setTile_setTile]
  rfl

/-- NOP moves to the next instruction. -/
theorem exec_nop {s : State} {t : Fin 200} {w : BitVec 64} (h : ctlAt s t w 0) (hw : w = 0) :
    exec (.nop t w) s = .next (withTile s t { tileOf s t with pc := (tileOf s t).pc + 8 }) := by
  obtain ⟨hlive, hissue, -⟩ := id h
  have hi : (s.chip.tileAt t.val).issues w [] = true := Tile.issues_nil hissue
  have hn : s.chip.doNop t.val w = s.chip.retire t.val (tileOf s t) := by
    subst hw
    simp only [Chip.doNop, hi]
    rfl
  refine (State.liveChip_live (fun c => c.doNop t.val w) hlive).trans ?_
  rw [hn]
  exact congrArg _ (retire_withTile (next_of_ctlAt h) rfl)

/-- A branch goes where its condition says (07 R181). -/
theorem exec_br {s : State} {t : Fin 200} {w : BitVec 64} (h : ctlAt s t w 0x10) (hd : iRd w.toNat = 0) (hf : iFunc w.toNat ≤ 5)
    (hm : iImm w.toNat % 8 = 0) (ht : ((tileOf s t).pc + iImm w.toNat) % 2 ^ 64 < 0x10000) :
    exec (.br t w) s = .next (withTile s t
      { tileOf s t with
        pc := if brTaken (iFunc w.toNat) ((tileOf s t).xr (iRs1 w.toNat)) ((tileOf s t).xr (iRs2 w.toNat))
              then ((tileOf s t).pc + iImm w.toNat) % 2 ^ 64 else (tileOf s t).pc + 8 }) := by
  rw [exec_ctl h Chip.doBr rfl (by rw [Chip.doBr]) (by simp [hd, hf, hm])]
  split
  · rw [Chip.goto_inside _ _ _ ht]; rfl
  · rw [retire_withTile (next_of_ctlAt h) rfl]

/-- Settles O7: each row is its operation under `exec_ctl`, and moving on inside instruction memory changes the tile alone. -/
theorem controllerResultsAndFrame : Obligations.ControllerResultsAndFrame := by
  refine ⟨fun s t w => ⟨exec_nop, ?_, ?_, ?_, ?_⟩, fun s t w => ⟨exec_br, ?_, ?_⟩⟩
  · intro h h0
    rw [exec_ctl_retires h Chip.doAlu rfl (by rw [Chip.doAlu]) (by simp [h0]) (Tile.setX_pc ..)]
  · intro h h2
    rw [exec_ctl_retires h Chip.doAlui rfl (by rw [Chip.doAlui]) (by simp [h2]) (Tile.setX_pc ..)]
  · intro h h1 h2 hf
    rw [exec_ctl_retires h Chip.doLi rfl (by rw [Chip.doLi]) (by simp [h1, h2, hf]) (Tile.setX_pc ..)]
  · intro h h1 h2 hf
    rw [exec_ctl_retires h Chip.doLih rfl (by rw [Chip.doLih]) (by simp [h1, h2, hf]) (Tile.setX_pc ..)]
  · intro h h1 h2 hf hm ht
    rw [exec_ctl h Chip.doJal rfl (by rw [Chip.doJal]) (by simp [h1, h2, hf, hm]), goto_withTile s t _ ht]
  · intro h h2 hf ht
    rw [exec_ctl h Chip.doJalr rfl (by rw [Chip.doJalr]) (by simp [h2, hf]), goto_withTile s t _ ht]

end Sys2Proof.Machine
end

section
/-!
Synchronisation objects at their home (03 R85 to R88, Table 3.9): the wait condition, what an update writes and what it leaves, whom it
wakes, and the commands of a home.
-/

open Sys2Proof

namespace Sys2Proof.Machine

/-- The condition of a wait is a signed comparison of the difference of 32-bit counters (03 Table 3.9). -/
theorem waitHolds_toNat (counter target : BitVec 32) :
    waitHolds counter.toNat target.toNat = decide (0 ≤ (counter - target).toInt) := by
  have hs : sub32 counter.toNat target.toNat = (counter - target).toNat := by
    simp only [sub32, BitVec.toNat_sub]
    omega
  rw [waitHolds, hs]
  simp only [BitVec.toInt_eq_toNat_cond, decide_eq_decide]
  split <;> omega

/-! What waking can change -/

/-- A package that differs from another at most in its tiles and in the firmware waits whose wake is committed. -/
def Chip.Woken (c d : Chip) : Prop := d = { c with tile := d.tile, so := { c.so with woken := d.so.woken } }

theorem Chip.Woken.refl (c : Chip) : c.Woken c := rfl

theorem Chip.Woken.trans {c d e : Chip} (h : c.Woken d) (g : d.Woken e) : c.Woken e := by
  unfold Chip.Woken at *; rw [g, h]

theorem Chip.woken_wakeOne (c : Chip) (value : Nat) (w : SoWait) : c.Woken (c.wakeOne value w) := by
  unfold Chip.wakeOne; split <;> rfl

theorem Chip.woken_wakes (l : List SoWait) (value : Nat) (c : Chip) : c.Woken (l.foldl (fun e w => e.wakeOne value w) c) :=
  List.foldlRecOn l _ (motive := fun d => c.Woken d) (.refl c) (fun d h w _ => h.trans (d.woken_wakeOne value w))

/-- Each part of the package but those reads as before. -/
theorem Chip.Woken.part {α : Type} {c d : Chip} (h : c.Woken d) (p : Chip → α) :
    p d = p { c with tile := d.tile, so := { c.so with woken := d.so.woken } } := congrArg p h

/-! An update of an object (03 R86, R87) -/

/-- The package with an object's counter set and the waits that hold no longer registered, before their wakes. -/
def Chip.soStored (c : Chip) (n value : Nat) : Chip :=
  c.modSo (fun s =>
    { s with value := tabSet s.value n value, waits := s.waits.filter (fun w => !(w.so == n && waitHolds value w.target)) })

/-- The waits on an object that an update of it satisfies. -/
def Chip.soSatisfied (c : Chip) (n value : Nat) : List SoWait := c.so.waits.filter (fun w => w.so == n && waitHolds value w.target)

theorem Chip.soPut_eq (c : Chip) (n v : Nat) : c.soPut n v =
    (c.soSatisfied n (v % 2 ^ 32)).foldl (fun e w => e.wakeOne (v % 2 ^ 32) w) (c.soStored n (v % 2 ^ 32)) := rfl

theorem Chip.woken_soPut (c : Chip) (n v : Nat) : (c.soStored n (v % 2 ^ 32)).Woken (c.soPut n v) := Chip.woken_wakes ..

@[simp] theorem Chip.soPut_keeps_mem (c : Chip) (n v : Nat) : (c.soPut n v).mem = c.mem := (c.woken_soPut n v).part Chip.mem
@[simp] theorem Chip.soPut_keeps_cm (c : Chip) (n v : Nat) : (c.soPut n v).cm = c.cm := (c.woken_soPut n v).part Chip.cm
@[simp] theorem Chip.soPut_keeps_log (c : Chip) (n v : Nat) : (c.soPut n v).log = c.log := (c.woken_soPut n v).part Chip.log
@[simp] theorem Chip.soPut_so_owner (c : Chip) (n v : Nat) : (c.soPut n v).so.owner = c.so.owner :=
  (c.woken_soPut n v).part (·.so.owner)
@[simp] theorem Chip.soPut_so_value (c : Chip) (n v : Nat) : (c.soPut n v).so.value = tabSet c.so.value n (v % 2 ^ 32) :=
  (c.woken_soPut n v).part (·.so.value)
theorem Chip.soPut_so_waits (c : Chip) (n v : Nat) :
    (c.soPut n v).so.waits = c.so.waits.filter (fun w => !(w.so == n && waitHolds (v % 2 ^ 32) w.target)) :=
  (c.woken_soPut n v).part (·.so.waits)

@[simp] theorem Chip.soValue_soPut_same (c : Chip) (n v : Nat) : (c.soPut n v).soValue n = v % 2 ^ 32 := by simp [Chip.soValue]

theorem Chip.soValue_soPut_other (c : Chip) {n k : Nat} (v : Nat) (h : k ≠ n) : (c.soPut n v).soValue k = c.soValue k := by
  simp [Chip.soValue, tabGet_tabSet_other _ _ _ (Ne.symm h)]

/-! Whom it wakes -/

@[simp] theorem Chip.tileAt_modSo (c : Chip) (g : SoState → SoState) (t : Nat) : (c.modSo g).tileAt t = c.tileAt t := rfl

/-- A firmware wait among those that wake has its wake committed with the value. -/
theorem Chip.wakes_firmware {key value : Nat} {l : List SoWait} (h : ∃ w ∈ l, w.who = .fw key) (c : Chip) :
    tabFind (l.foldl (fun e w => e.wakeOne value w) c).so.woken key = some value := by
  have keeps : ∀ (r : List SoWait) (d : Chip), tabFind d.so.woken key = some value →
      tabFind (r.foldl (fun e w => e.wakeOne value w) d).so.woken key = some value := fun r d hd =>
    List.foldlRecOn r _ (motive := fun e : Chip => tabFind e.so.woken key = some value) hd (fun e he w _ => by
      cases hw : w.who with
      | tile t => simpa [Chip.wakeOne, hw, Chip.setTile] using he
      | fw k =>
        by_cases hk : k = key
        · subst hk; simp [Chip.wakeOne, hw]
        · simpa [Chip.wakeOne, hw, tabFind_tabSet_other _ _ hk] using he)
  obtain ⟨w, hw, hwho⟩ := h
  obtain ⟨l, r, rfl⟩ := List.append_of_mem hw
  rw [List.foldl_append, List.foldl_cons]
  exact keeps r _ (by simp [Chip.wakeOne, hwho])

/-- A tile that waits on nothing is left as it is by every wake. -/
theorem Tile.wake_of_unblocked {v : Tile} (h : v.blocked = none) (value : Nat) (late : Bool) : v.wake value late = v := by
  simp [Tile.wake, h]

/-- A waiting tile among those that wake is woken once. -/
theorem Chip.wakes_tile {t value rd so issued timeout : Nat} {l : List SoWait} (h : ∃ w ∈ l, w.who = .tile t) (c : Chip)
    (hb : (c.tileAt t).blocked = some (.sowait rd so issued timeout)) :
    (l.foldl (fun e w => e.wakeOne value w) c).tileAt t = (c.tileAt t).wake value false := by
  have woken : ((c.tileAt t).wake value false).blocked = none := by simp [Tile.wake, hb]
  induction l generalizing c with
  | nil => simp at h
  | cons x r ih =>
    rw [List.foldl_cons]
    by_cases hx : x.who = .tile t
    · have h1 : (c.wakeOne value x).tileAt t = (c.tileAt t).wake value false := by simp [Chip.wakeOne, hx]
      refine List.foldlRecOn r _ (motive := fun e : Chip => e.tileAt t = (c.tileAt t).wake value false) h1 (fun e he w _ => ?_)
      cases hw : w.who with
      | fw k => simpa [Chip.wakeOne, hw] using he
      | tile u =>
        by_cases hu : u = t
        · subst hu
          simp [Chip.wakeOne, hw, he, Tile.wake_of_unblocked woken]
        · simpa [Chip.wakeOne, hw, Chip.tileAt_setTile_other _ _ hu] using he
    · have h1 : (c.wakeOne value x).tileAt t = c.tileAt t := by
        cases hw : x.who with
        | fw k => simp [Chip.wakeOne, hw]
        | tile u =>
          have hu : u ≠ t := by rintro rfl; exact hx hw
          simp [Chip.wakeOne, hw, Chip.tileAt_setTile_other _ _ hu]
      rw [ih (by simpa [hx] using h) _ (h1 ▸ hb) (h1 ▸ woken), h1]

/-- What a wait that returns in time leaves in the tile (07 R187). -/
theorem Tile.wake_sowait {v : Tile} {rd so issued timeout : Nat} (hb : v.blocked = some (.sowait rd so issued timeout)) (value : Nat) :
    (v.wake value false).blocked = none ∧ (v.wake value false).pc = v.pc + 8 ∧
      (rd ≠ 0 → (v.wake value false).xr rd = value % 2 ^ 32) := by
  have e : v.wake value false = { v.setX rd (value % 2 ^ 32) with blocked := none, pc := v.pc + 8 } := by simp [Tile.wake, hb]
  rw [e]
  refine ⟨rfl, rfl, fun hr => ?_⟩
  have : (v.setX rd (value % 2 ^ 32)).xr rd = value % 2 ^ 32 := by rw [Tile.xr_setX_same _ _ hr]; omega
  exact this

/-! The commands of a home -/

section Commands

variable {s : State} (hl : s.chip.live = true)
include hl

theorem exec_homeSignal (k : Fin 64) (n : Fin 16384) (v : BitVec 32) (haul : Bool) :
    exec (.homeSignal k n v haul) s = .next (withChip s (s.chip.doHomeSignal k.val n.val v haul)) := State.liveChip_live _ hl

theorem exec_homeSet (k : Fin 64) (n : Fin 16384) (v : BitVec 32) :
    exec (.homeSet k n v) s = .next (withChip s (s.chip.doHomeSet k.val n.val v)) := State.liveChip_live _ hl

theorem exec_homeRead (k : Fin 64) (n : Fin 16384) :
    exec (.homeRead k n) s = .next (withChip s (s.chip.doHomeRead k.val n.val)) := State.liveChip_live _ hl

theorem exec_homeWait (k : Fin 64) (n : Fin 16384) (target : BitVec 32) (tile : Option (Fin 200)) (key : Nat) :
    exec (.homeWait k n target tile key) s = .next (withChip s (s.chip.doHomeWait k.val n.val target tile key)) :=
  State.liveChip_live _ hl

end Commands

/-- Settles O20: an update stores its value and wakes one wait after another, which touches tiles and committed wakes alone; the commands
of a home by the cases of their rules. -/
theorem synchronisationObjects : Obligations.SynchronisationObjects := by
  refine ⟨waitHolds_toNat, fun c n v => ?_, ?_⟩
  · refine ⟨c.soValue_soPut_same n v, fun k hk => c.soValue_soPut_other v hk, c.soPut_so_owner n v, c.soPut_so_waits n v, ?_,
      c.soPut_keeps_mem n v, c.soPut_keeps_cm n v, c.soPut_keeps_log n v⟩
    intro w hw hn hh
    have hsat : w ∈ c.soSatisfied n (v % 2 ^ 32) := List.mem_filter.mpr ⟨hw, by rw [hn, hh]; simp⟩
    rw [c.soPut_eq]
    refine ⟨fun key hk => Chip.wakes_firmware ⟨w, hsat, hk⟩ _, fun t rd so issued timeout ht hb => ?_⟩
    have hb' : ((c.soStored n (v % 2 ^ 32)).tileAt t).blocked = some (.sowait rd so issued timeout) := hb
    rw [Chip.wakes_tile ⟨w, hsat, ht⟩ _ hb']
    obtain ⟨hfree, hpc, hx⟩ := Tile.wake_sowait hb' (v % 2 ^ 32)
    exact ⟨hfree, hpc, fun hr => (hx hr).trans (Nat.mod_mod ..)⟩
  · rintro s k n v haul tile key who hl rfl
    rw [exec_homeSignal hl, exec_homeSet hl, exec_homeRead hl, exec_homeWait hl]
    refine ⟨fun ha => ⟨?_, ?_, ?_, fun hh => ?_, fun hh hw => ?_⟩, fun ha => ⟨?_, ?_, ?_, ?_⟩, ?_⟩
    · simp [Chip.doHomeSignal, ha, Chip.soSignal]
    · simp [Chip.doHomeSet, ha]
    · simp [Chip.doHomeRead, ha]
    · simp [Chip.doHomeWait, ha, hh]
    · cases tile with
      | none =>
        have free : ¬ ∃ w ∈ s.chip.so.waits, w.who = .fw key := fun ⟨w, hm, e⟩ => hw w hm e
        simp [Chip.doHomeWait, ha, hh, free]
      | some p =>
        have free : ¬ ∃ w ∈ s.chip.so.waits, w.who = .tile p.val := fun ⟨w, hm, e⟩ => hw w hm e
        simp [Chip.doHomeWait, ha, hh, free]
    · simp [Chip.doHomeSignal, ha]
    · simp [Chip.doHomeSet, ha]
    · simp [Chip.doHomeRead, ha]
    · simp [Chip.doHomeWait, ha]
    · simp [Chip.soAllowed]

end Sys2Proof.Machine
end

section
/-!
Exceptions and the end of work items (03 R66, R68, R69, 07 R184); synchronisation from a tile: held signals, reads and waits (03 R85 to
R89, 07 R185 to R187).
-/

open Sys2Proof

namespace Sys2Proof.Machine

/-! How a stopping item settles (03 R69 steps 2 to 5) -/

/-- An item that is not stopping has nothing to settle. -/
theorem Chip.settleEnd_of_not_ending {c : Chip} {t : Nat} (h : ∀ status detail, (c.tileAt t).item ≠ .ending status detail) :
    c.settleEnd t = c := by
  unfold Chip.settleEnd
  dsimp only
  split
  · rename_i e
    exact absurd e (h _ _)
  · rfl

section Ending

variable {c : Chip} {t status detail : Nat} (hi : (c.tileAt t).item = .ending status detail)
include hi

/-- A stopping item: its held signals behind a cancelled operation go, and it ends once nothing is left in the tile. -/
theorem Chip.settleEnd_ending {u : Tile} (hu : u = { c.tileAt t with held := (c.tileAt t).held.takeWhile (fun h => !(c.tileAt t).discards h) }) :
    c.settleEnd t = if u.drained then (c.setTile t { u with item := .ended status }).workEnded t status detail else c.setTile t u := by
  subst hu
  unfold Chip.settleEnd
  dsimp only
  split
  · rename_i e
    rw [hi] at e
    cases e
    rfl
  · rename_i e
    exact absurd hi (e _ _)

/-- With nothing left in the tile the item ends with its status. -/
theorem Chip.settleEnd_drained (hd : (c.tileAt t).drained = true) :
    c.settleEnd t = (c.setTile t { c.tileAt t with item := .ended status }).workEnded t status detail := by
  have hh : (c.tileAt t).held = [] := by
    simp only [Tile.drained, Bool.and_eq_true, List.isEmpty_iff] at hd
    exact hd.2
  rw [Chip.settleEnd_ending hi (u := c.tileAt t) (by rw [hh, List.takeWhile_nil, ← hh]), if_pos hd]

/-- While an operation is still in the mover the item waits. -/
theorem Chip.settleEnd_moving (hm : (c.tileAt t).mover ≠ []) :
    ∃ hs : List HeldSig, c.settleEnd t = c.setTile t { c.tileAt t with held := hs } ∧ hs <+: (c.tileAt t).held := by
  refine ⟨_, ?_, List.takeWhile_prefix (fun h => !(c.tileAt t).discards h)⟩
  rw [Chip.settleEnd_ending hi rfl, if_neg (by simp [Tile.drained, hm])]

end Ending

/-- An exception leaves in the mover operations that had started, and no other (03 R69 step 2). -/
theorem Tile.raise_mover {v : Tile} {cause tval : Nat} {o : MoverOp} (h : o ∈ (v.raise cause tval).mover) :
    o ∈ v.mover ∧ o.started = true := List.mem_filter.mp h

/-- A withdrawn waiter has no registered wait. -/
theorem Chip.soWithdraw_waits {c : Chip} {who : Waiter} {w : SoWait} (h : w ∈ (c.soWithdraw who).so.waits) : w.who ≠ who := by
  simpa using (List.mem_filter.mp h).2

/-- A halted item with nothing queued ends with DONE (07 R184). -/
theorem Chip.doWorkItemDone_drained {c : Chip} {t : Nat} (hi : (c.tileAt t).item = .halting) (ha : (c.tileAt t).arr.q = [])
    (hv : (c.tileAt t).vec.q = []) (hm : (c.tileAt t).mover = []) (hh : (c.tileAt t).held = []) :
    c.doWorkItemDone t = (c.setTile t { c.tileAt t with item := .ended 0 }).workEnded t 0 0 := by
  simp [Chip.doWorkItemDone, hi, ha, hv, hm, hh]

/-- A detected exception is taken at the next instruction boundary (03 R68). -/
theorem Chip.doAsyncException_pending {c : Chip} {t cause tval : Nat} (hp : (c.tileAt t).paused = false)
    (hi : (c.tileAt t).item = .running) (hx : (c.tileAt t).pend = some (cause, tval)) :
    c.doAsyncException t = c.takeExc t cause tval := by
  simp [Chip.doAsyncException, hp, hi, hx]

/-- Settles O9: the record of an exception is the definition of `Tile.raise`, and how the item then ends is by whether the tile has
drained. -/
theorem exceptionsEndItems : Obligations.ExceptionsEndItems := by
  refine ⟨fun c v t cause tval => ⟨?_, rfl, Chip.settleEnd_of_not_ending, fun _ _ => Chip.settleEnd_drained,
    fun _ _ => Chip.settleEnd_moving, fun _ => Chip.soWithdraw_waits⟩, fun s t w cause tval => ⟨?_, ?_, ?_, ?_⟩⟩
  · exact ⟨rfl, rfl, rfl, rfl, rfl, rfl, rfl, rfl, rfl, fun _ => Tile.raise_mover⟩
  · intro h hw
    rw [exec_ctl h Chip.doHalt rfl (by rw [Chip.doHalt]) (by rw [hw]; rfl)]
    rfl
  · intro h hd h1 h2 hf
    rw [exec_ctl h Chip.doBrk rfl (by rw [Chip.doBrk]) (by simp [hd, h1, h2, hf])]
  · intro hl hi ha hv hm hh
    refine (State.liveChip_live (fun c => c.doWorkItemDone t.val) hl).trans ?_
    rw [Chip.doWorkItemDone_drained hi ha hv hm hh]
    rfl
  · intro hl hp hi hx
    refine (State.liveChip_live (fun c => c.doAsyncException t.val) hl).trans ?_
    rw [Chip.doAsyncException_pending hp hi hx]
    rfl

/-! Objects from a tile (07 R185 to R187) -/

section Objects

variable {s : State} {t : Fin 200} {w : BitVec 64} {op n : Nat} (hn : n = (tileOf s t).xr (iRs1 w.toNat)) (hs : n < 16384)
include hn hs

/-- A signal of a legal instruction with a place among the held ones is held (07 R186). -/
theorem exec_holdSig (h : ctlAt s t w op) {i : Instr} (e : Chip → Nat → BitVec 64 → Chip) (isSet : Bool)
    (hi : exec i s = s.liveChip (fun c => e c t.val w)) (he : e s.chip t.val w = s.chip.holdSig t.val w op isSet)
    (hd : iRd w.toNat = 0) (hf : iFunc w.toNat = 0) (hb : bits w.toNat 31 0 = 0) (hroom : (tileOf s t).held.length < 8) :
    exec i s = .next (withTile s t
      { tileOf s t with
        serial := (tileOf s t).serial + 1
        held := (tileOf s t).held ++ [{ serial := (tileOf s t).serial, so := n
                                        value := if !isSet && iRs2 w.toNat == 0 then 1 else (tileOf s t).xr (iRs2 w.toNat) % 2 ^ 32
                                        isSet := isSet, pc := (tileOf s t).pc }]
        pc := (tileOf s t).pc + 8 }) := by
  rw [exec_ctl h e hi (he.trans (by rw [Chip.holdSig])) (by simp [hd, hf, hb])]
  simp only [← hn, not_le.mpr hs, not_le.mpr hroom, if_false]
  exact congrArg _ (retire_withTile (next_of_ctlAt h) (by rfl))

/-- A read of an object that the context may use returns its counter (07 R187). -/
theorem exec_soread (h : ctlAt s t w 0x2B) (h2 : iRs2 w.toNat = 0) (hf : iFunc w.toNat = 0) (hb : bits w.toNat 31 0 = 0)
    (ha : s.chip.soAllowed (tileOf s t).ctx n = true) :
    exec (.soread t w) s = .next (withTile s t
      { (tileOf s t).setX (iRd w.toNat) (s.chip.soValue n) with pc := (tileOf s t).pc + 8 }) := by
  rw [exec_ctl h Chip.doSoread rfl (by rw [Chip.doSoread]) (by simp [h2, hf, hb])]
  simp only [← hn, not_le.mpr hs, ha, if_false, if_true]
  rw [retire_withTile (next_of_ctlAt h) (Tile.setX_pc ..)]

/-- A wait on an object that the context may use returns the counter at once, or is registered and blocks issue (03 R88). -/
theorem exec_sowait (h : ctlAt s t w 0x2A) (hf : iFunc w.toNat = 0) (ha : s.chip.soAllowed (tileOf s t).ctx n = true) :
    exec (.sowait t w) s =
      if waitHolds (s.chip.soValue n) ((tileOf s t).xr (iRs2 w.toNat) % 2 ^ 32) then
        .next (withTile s t { (tileOf s t).setX (iRd w.toNat) (s.chip.soValue n) with pc := (tileOf s t).pc + 8 })
      else .next (withChip s ((s.chip.setTile t.val
        { tileOf s t with blocked := some (.sowait (iRd w.toNat) n (s.chip.count (srcTile t.val)) (bits w.toNat 31 0)) }).modSo
        (fun q => { q with waits := q.waits ++ [{ so := n, target := (tileOf s t).xr (iRs2 w.toNat) % 2 ^ 32, who := .tile t.val }] }))) := by
  rw [exec_ctl h Chip.doSowait rfl (by rw [Chip.doSowait]) (by simp [hf])]
  simp only [← hn, not_le.mpr hs, ha, if_false, Bool.not_true, Bool.false_eq_true]
  split
  · rw [retire_withTile (next_of_ctlAt h) (Tile.setX_pc ..)]
  · rfl

end Objects

/-- The oldest held signal reaches its home when no mover operation issued before it is outstanding (07 R186, 03 R89). -/
theorem Chip.doHeldSignalSend_first {c : Chip} {t : Nat} {h : HeldSig} {rest : List HeldSig} (hh : (c.tileAt t).held = h :: rest)
    (hp : (c.tileAt t).paused = false) (hd : ∀ k, (c.tileAt t).cancelFrom = some k → h.serial ≤ k)
    (hm : ∀ o ∈ (c.tileAt t).mover, h.serial ≤ o.serial) (ha : c.soAllowed (c.tileAt t).ctx h.so = true) :
    c.doHeldSignalSend t = ((c.setTile t { c.tileAt t with held := rest, sent := true }).soApply
      (c.tileAt t).ctx h.so h.value h.isSet).settleEnd t := by
  have kept : (c.tileAt t).discards h = false := by
    unfold Tile.discards
    split
    · rename_i k hk; simpa using hd k hk
    · rfl
  have none_before : ((c.tileAt t).mover.any fun o => decide (o.serial < h.serial)) = false := by simpa using hm
  unfold Chip.doHeldSignalSend
  dsimp only
  rw [hh]
  dsimp only
  rw [hp, kept, none_before]
  exact if_pos ha

/-- A wait that has waited for its time returns late (03 R88). -/
theorem Chip.doSowaitTimeout_due {c : Chip} {t rd so issued timeout : Nat}
    (hb : (c.tileAt t).blocked = some (.sowait rd so issued timeout)) (ht : timeout ≠ 0) :
    c.doSowaitTimeout t = ((((c.passTo (srcTile t) (issued + timeout)).soWithdraw (.tile t)).setTile t
      { (c.tileAt t).wake (c.soValue so) true with pc := (c.tileAt t).pc }).goto t ((c.tileAt t).pc + 8)) := by
  simp only [Chip.doSowaitTimeout, hb, ht, if_false]

/-- Settles O11: each instruction is its operation under `exec_ctl`, on an object number that exists; the two events by their
preconditions. -/
theorem tileSyncInstructions : Obligations.TileSyncInstructions := by
  intro s t w n hn hs
  refine ⟨fun h hd hf hb hroom => ?_, fun h hd hf hb hroom => ?_, exec_soread hn hs, exec_sowait hn hs, ?_, ?_⟩
  · simpa using exec_holdSig hn hs h Chip.doSosignal false rfl rfl hd hf hb hroom
  · simpa using exec_holdSig hn hs h Chip.doSoset true rfl rfl hd hf hb hroom
  · intro h rest hl hh hp hd hm ha
    refine (State.liveChip_live (fun c => c.doHeldSignalSend t.val) hl).trans ?_
    rw [Chip.doHeldSignalSend_first hh hp hd hm ha]
    rfl
  · intro rd so issued timeout hl hb ht
    refine (State.liveChip_live (fun c => c.doSowaitTimeout t.val) hl).trans ?_
    rw [Chip.doSowaitTimeout_due hb ht]
    rfl

end Sys2Proof.Machine
end

section
/-!
The tile mover (03 R72, R77, R80, 07 R188 to R190, R192): how an instruction enters it, what waits for it, and how an operation ends.
-/

open Sys2Proof

namespace Sys2Proof.Machine

/-! Issue -/

/-- A mover instruction of legal fields that names an existing object, whose operands pass its checks, enters a mover with a place. -/
theorem Chip.mov_issues {c : Chip} {t : Nat} {w : BitVec 64} {op : Nat} {legal : Bool}
    {checks : Tile → Except (Nat × Nat) (Option TDesc × Option TDesc)} {dst src : Option TDesc}
    (hi : (c.tileAt t).issues w (movRegs w.toNat) = true) (hc : iClass w.toNat = 1) (ho : iOp w.toNat = op)
    (hm : moverLegal w.toNat = true) (hs : mSig w.toNat = true → (c.tileAt t).xr (mRso w.toNat) < 16384)
    (hr : (c.tileAt t).mover.length < 16) (hl : legal = true) (hk : checks (c.tileAt t) = .ok (dst, src)) :
    c.mov t w op legal checks = c.retire t { moverIssued (c.tileAt t) w.toNat op dst src with pc := (c.tileAt t).pc } := by
  have object : ¬ (mSig w.toNat = true ∧ 16384 ≤ (c.tileAt t).xr (mRso w.toNat)) := fun ⟨g, k⟩ => absurd (hs g) (by omega)
  unfold Chip.mov
  dsimp only
  rw [hi, hc, ho, hm, hl, if_pos (by simp), if_neg (by simp), if_neg object, hk]
  dsimp only
  rw [if_neg (by omega)]
  cases hg : mSig w.toNat <;> simp [moverIssued, issuedOp, hg]

/-- A mover instruction that is the next to issue and passes its checks puts its operation into the mover, and nothing else changes. -/
theorem exec_mov {s : State} {t : Fin 200} {w : BitVec 64} {op : Nat} (h : movAt s t w op) {i : Instr}
    {legal : Bool} {checks : Tile → Except (Nat × Nat) (Option TDesc × Option TDesc)}
    {dst src : Option TDesc} (hi : exec i s = s.liveChip (fun c => c.mov t.val w op legal checks)) (hl : legal = true)
    (hk : checks (tileOf s t) = .ok (dst, src)) :
    exec i s = .next (withTile s t (moverIssued (tileOf s t) w.toNat op dst src)) := by
  obtain ⟨hlive, hissue, hclass, hop, hlegal, hsig, hroom, hpc⟩ := h
  rw [hi, State.liveChip_live _ hlive, Chip.mov_issues hissue hclass hop hlegal hsig hroom hl hk]
  exact congrArg _ (retire_withTile hpc (by rfl))

/-- A legal MWAIT moves on when what it waits for is not outstanding, and otherwise blocks issue (07 R189). -/
theorem exec_mwait {s : State} {t : Fin 200} {w : BitVec 64} (hl : s.chip.live = true) (hpc : (tileOf s t).pc + 8 < 0x10000)
    (hi : (tileOf s t).issues w [mRs w.toNat] = true) (hc : iClass w.toNat = 1) (ho : iOp w.toNat = 0x10)
    (hf : ¬ (mRt w.toNat ≠ 0 ∨ mRd w.toNat ≠ 0 ∨ mRx w.toNat ≠ 0 ∨ mRso w.toNat ≠ 0 ∨ mSig w.toNat ∨ mSval w.toNat ≠ 0 ∨
      bits w.toNat 28 16 ≠ 0 ∨ (mAll w.toNat ∧ mRs w.toNat ≠ 0))) :
    exec (.mwait t w) s = .next (withTile s t
      (if (tileOf s t).mwaitOver w.toNat then { tileOf s t with pc := (tileOf s t).pc + 8 }
       else { tileOf s t with blocked := some .mwait })) := by
  refine (State.liveChip_live (fun c => c.doMwait t.val w) hl).trans ?_
  have issued : ((tileOf s t).issues w [mRs w.toNat] && iClass w.toNat == 1 && iOp w.toNat == 0x10) = true := by simp [hi, hc, ho]
  have effect : s.chip.doMwait t.val w = if (tileOf s t).mwaitOver w.toNat then s.chip.retire t.val (tileOf s t)
      else s.chip.setTile t.val { tileOf s t with blocked := some .mwait } := (if_pos issued).trans (if_neg hf)
  rw [effect]
  split
  · exact congrArg _ (retire_withTile hpc rfl)
  · rfl

/-- A legal AWAIT moves on when the array queue is empty, and otherwise blocks issue (07 R192). -/
theorem exec_await {s : State} {t : Fin 200} {w : BitVec 64} (hl : s.chip.live = true) (hpc : (tileOf s t).pc + 8 < 0x10000)
    (hi : (tileOf s t).issues w [] = true) (hc : iClass w.toNat = 2) (ho : iOp w.toNat = 0x08) (hf : bits w.toNat 55 0 = 0) :
    exec (.await t w) s = .next (withTile s t
      (if (tileOf s t).arr.q.isEmpty then { tileOf s t with pc := (tileOf s t).pc + 8 }
       else { tileOf s t with blocked := some .await })) := by
  refine (State.liveChip_live (fun c => c.doAwait t.val w) hl).trans ?_
  have issued : ((tileOf s t).issues w [] && iClass w.toNat == 2 && iOp w.toNat == 0x08) = true := by simp [hi, hc, ho]
  have effect : s.chip.doAwait t.val w = if (tileOf s t).arr.q.isEmpty then s.chip.retire t.val (tileOf s t)
      else s.chip.setTile t.val { tileOf s t with blocked := some .await } := (if_pos issued).trans (if_neg (not_not.mpr hf))
  rw [effect]
  split
  · exact congrArg _ (retire_withTile hpc rfl)
  · rfl

/-- COPY's instruction is the operation of its opcode where its opcode is listed. -/
theorem Chip.doCopy_mov (c : Chip) (t : Nat) {w : BitVec 64} (h : iOp w.toNat = 0) :
    c.doCopy t w = c.mov t w 0x00 (mRx w.toNat == 0) (checkCopy w.toNat) := by
  refine if_neg ?_
  rw [h]
  simp [Machine.moverOps]

/-- FILL's operands pass where they are aligned and lie in tile memory. -/
theorem checkFill_ok {n : Nat} {v : Tile} (ha : v.xr (mRd n) % 4 = 0) (hn : v.xr (mRs n) % 4 = 0) (h4 : 4 ≤ v.xr (mRs n))
    (hb : v.xr (mRd n) + v.xr (mRs n) ≤ tmemSize) : checkFill n v = .ok (none, none) := by
  unfold checkFill
  dsimp only
  rw [if_neg (not_not.mpr ha), if_neg (by omega), if_neg (by omega)]

/-- LOADI's operands pass where they are aligned and the image lies in instruction memory. -/
theorem checkLoadi_ok {n : Nat} {v : Tile} (ha : v.xr (mRd n) % 8 = 0) (hv : v.xr (mRs n) % 8 = 0) (hn : v.xr (mRx n) % 8 = 0)
    (h8 : 8 ≤ v.xr (mRx n)) (hb : v.xr (mRd n) + v.xr (mRx n) ≤ 0x10000) : checkLoadi n v = .ok (none, none) := by
  unfold checkLoadi
  dsimp only
  rw [if_neg (not_not.mpr ha), if_neg (not_not.mpr hv), if_neg (by omega), if_neg (by omega)]

/-- An accumulator image's address passes where it is a multiple of 64. -/
theorem checkAcc_ok {va : Nat} (h : va % 64 = 0) : checkAcc va = .ok (none, none) := if_neg (not_not.mpr h)

/-- Settles O12: each mover row is its operation under `exec_mov`, its own operand checks passed. -/
theorem moverIssueAndWaits : Obligations.MoverIssueAndWaits := by
  refine ⟨fun s t w dst src => ⟨?_, ?_, ?_, fun h => ?_, fun h => ?_, fun h ha hn h4 hb => ?_, fun h ha hv hn h8 hb => ?_, ?_, ?_⟩,
    fun s t w hl hpc => ⟨fun hi hc ho ht hd hx hso hsig hsv hr hall => ?_, exec_await hl hpc⟩⟩
  · intro h hx hk
    obtain ⟨-, -, -, hop, -⟩ := id h
    exact exec_mov h (congrArg s.liveChip (funext fun c => Chip.doCopy_mov c t.val hop)) (by simp [hx]) hk
  · exact fun h hx hk => exec_mov h rfl (by simp [hx]) hk
  · exact fun h hx hk => exec_mov h rfl (by simp [hx]) hk
  · exact exec_mov h rfl rfl
  · exact exec_mov h rfl rfl
  · exact exec_mov h rfl rfl (checkFill_ok ha hn h4 hb)
  · exact exec_mov h rfl rfl (checkLoadi_ok ha hv hn h8 hb)
  · intro h h1 h2 ha
    exact exec_mov h (legal := _ == 0 && _ == 0) (checks := fun v => checkAcc (v.xr (mRd w.toNat))) rfl (by simp [h1, h2]) (checkAcc_ok ha)
  · intro h h1 h2 ha
    exact exec_mov h (legal := _ == 0 && _ == 0) (checks := fun v => checkAcc (v.xr (mRs w.toNat))) rfl (by simp [h1, h2]) (checkAcc_ok ha)
  · exact exec_mwait hl hpc hi hc ho (by simp [ht, hd, hx, hso, hsig, hsv, hr]; exact hall)

/-! Completion -/

/-- What an operation of a mover does when it completes, by its opcode. -/
def Chip.runOp (c : Chip) (t : Nat) (o : MoverOp) : Chip :=
  match o.op with
  | 5 => c.runFill t o
  | 6 => c.runLoadi t o
  | 7 => if (c.tileAt t).accFree o.serial then c.runAccsave t o else c
  | 8 => if (c.tileAt t).accFree o.serial then c.runAccrestore t o else c
  | _ => c.runMoves t o

/-- The first five operations move fields. -/
theorem Chip.runOp_moves (c : Chip) (t : Nat) {o : MoverOp} (h : o.op < 5) : c.runOp t o = c.runMoves t o := by
  unfold Chip.runOp
  split
  case h_5 => rfl
  all_goals omega

/-- Moves that meet no fault write what they moved, and the operation ends. -/
theorem Chip.runMoves_ok {c : Chip} {t : Nat} {o : MoverOp} (h : (c.outcome t o o.moves).fault = none) :
    c.runMoves t o = (((c.movesRead t o o.moves []).wrote t (c.outcome t o o.moves).out (c.ctxAt (c.tileAt t).ctx).hint).took
      ((c.outcome t o o.moves).taken + 1)).moverDone t o := by
  unfold Chip.runMoves
  dsimp only
  rw [h]

/-- An image of existing places free of poison comes into instruction memory, and the operation ends. -/
theorem Chip.runLoadi_ok {c : Chip} {t : Nat} {o : MoverOp} {ps : List Place}
    (hps : ps = c.rangePlaces t (c.tileAt t).ctx o.rs o.rx false) (hf : firstFault ps = none)
    (hp : ∀ p ∈ ps, poisonAt (c.mem.seenBy t) (c.tileAt t) p = false) :
    c.runLoadi t o = ((c.rangeUsed t (c.tileAt t).ctx o.rs o.rx false).setTile t
      { c.tileAt t with imem := (c.tileAt t).imem.writeN o.rd (ps.map (byteAt c.mem (c.tileAt t).mem)) }).moverDone t o := by
  have clean : ps.find? (poisonAt (c.mem.seenBy t) (c.tileAt t)) = none := by simpa using hp
  unfold Chip.runLoadi
  dsimp only
  rw [← hps, hf]
  dsimp only
  rw [clean]

/-- An accumulator image goes out to existing places, and the operation ends. -/
theorem Chip.runAccsave_ok {c : Chip} {t : Nat} {o : MoverOp} {ps : List Place}
    (hps : ps = c.rangePlaces t (c.tileAt t).ctx o.rd accImageLen true) (hf : firstFault ps = none) :
    c.runAccsave t o = ((c.rangeUsed t (c.tileAt t).ctx o.rd accImageLen true).commitPhys ((c.tileAt t).acc.saveWrites ps).reverse
      (c.ctxAt (c.tileAt t).ctx).hint).moverDone t o := by
  unfold Chip.runAccsave
  dsimp only
  rw [← hps, hf]

/-- An accumulator image comes back from existing places, and the operation ends. -/
theorem Chip.runAccrestore_ok {c : Chip} {t : Nat} {o : MoverOp} {ps : List Place}
    (hps : ps = c.rangePlaces t (c.tileAt t).ctx o.rs accImageLen false) (hf : firstFault ps = none) :
    c.runAccrestore t o = ((c.rangeUsed t (c.tileAt t).ctx o.rs accImageLen false).setTile t
      { c.tileAt t with
        acc := Acc.ofImage (ps.map (byteAt c.mem (c.tileAt t).mem)) ((c.mem.seenBy t).badOf ps) }).moverDone t o := by
  unfold Chip.runAccrestore
  dsimp only
  rw [← hps, hf]

/-- On a calm package, an operation that has started and waits for no earlier one is carried out. -/
theorem exec_moverOpComplete {s : State} {t : Fin 200} {tok : Fin 16} {o : MoverOp} (hl : s.chip.live = true) (hc : s.calm = true)
    (hf : (tileOf s t).mover.find? (fun x => x.token == tok.val) = some o) (hp : (tileOf s t).paused = false)
    (hs : o.started = true) (hw : o.waits (tileOf s t).mover = false) :
    exec (.moverOpComplete t tok) s = .next (withChip s (s.chip.runOp t.val o)) := by
  refine (State.guarded_calm _ _ (fun c => c.doMoverOpComplete t.val tok.val) hl hc).trans ?_
  have found : (s.chip.tileAt t.val).mover.find? (fun x => x.token == tok.val) = some o := hf
  have goes : ¬ (((s.chip.tileAt t.val).paused || !o.started || o.waits (s.chip.tileAt t.val).mover) = true) := by
    have running : (s.chip.tileAt t.val).paused = false := hp
    have first : o.waits (s.chip.tileAt t.val).mover = false := hw
    simp [running, hs, first]
  have effect : s.chip.doMoverOpComplete t.val tok.val = s.chip.runOp t.val o := by
    unfold Chip.doMoverOpComplete
    dsimp only
    rw [found]
    exact if_neg goes
  rw [← effect]
  rfl

/-- Settles O13: an operation that completes is carried out by its opcode (`Chip.runOp`), each of which then ends it. -/
theorem moverOperationsEnd : Obligations.MoverOperationsEnd := by
  refine ⟨?_, fun c t o cause tval => ⟨_, rfl, rfl, rfl, rfl⟩⟩
  intro s t tok o k hint hl hc hf hp hs hw hk hh
  subst hk hh
  have complete := exec_moverOpComplete hl hc hf hp hs hw
  refine ⟨fun ho hn => ?_, fun ho => ?_, fun ps ho hps hn hclean => ?_, fun ps ho hfree hps hn => ?_, fun ps ho hfree hps hn => ?_, ?_⟩
  · rw [complete, Chip.runOp_moves _ _ ho, Chip.runMoves_ok hn]
    rfl
  · rw [complete, Chip.runOp, ho]
    rfl
  · rw [complete, Chip.runOp, ho]
    exact congrArg _ (congrArg _ (Chip.runLoadi_ok hps hn hclean))
  · rw [complete, Chip.runOp, ho]
    exact congrArg _ (congrArg _ ((if_pos hfree).trans (Chip.runAccsave_ok hps hn)))
  · rw [complete, Chip.runOp, ho]
    exact congrArg _ (congrArg _ ((if_pos hfree).trans (Chip.runAccrestore_ok hps hn)))
  · intro c d hd
    subst hd
    refine ⟨fun h => ?_, fun n h ha => ?_, fun n h ha => ?_⟩
    · rw [Chip.moverDone, h]
    · rw [Chip.moverDone, h]
      exact if_pos ha
    · rw [Chip.moverDone, h]
      exact if_neg (by rw [Bool.not_eq_true]; exact ha)

end Sys2Proof.Machine
end

section
/-!
Starting and switching work items (03 R63, R66, 15 R402, R405 to R407).
-/

open Sys2Proof

namespace Sys2Proof.Machine

/-! The order of service -/

/-- Putting a work item in its place adds that one. -/
theorem mem_insWork {w y : Work} {l : List Work} : y ∈ insWork w l ↔ y = w ∨ y ∈ l := by
  induction l with
  | nil => simp [insWork]
  | cons x r ih =>
    unfold insWork
    split
    · simp only [List.mem_cons, ih]
      tauto
    · simp only [List.mem_cons]

/-- Sorting work items by their place adds none. -/
theorem mem_of_mem_foldl_insWork {y : Work} {l acc : List Work} (h : y ∈ l.foldl (fun a w => insWork w a) acc) : y ∈ acc ∨ y ∈ l := by
  induction l generalizing acc with
  | nil => exact .inl h
  | cons x r ih =>
    rcases ih h with k | k
    · rcases mem_insWork.mp k with rfl | k
      · exact .inr List.mem_cons_self
      · exact .inl k
    · exact .inr (List.mem_cons_of_mem _ k)

/-- A ready RUN is a work item of firmware's list. -/
theorem Chip.mem_work_of_ready {c : Chip} {w : Work} (h : w ∈ c.readyWork) : w ∈ c.fw.work := by
  rcases mem_of_mem_foldl_insWork h with k | k
  · exact absurd k List.not_mem_nil
  · exact List.mem_of_mem_filter k

/-! A RUN takes a tile -/

/-- A work item of the list that is changed stands in the list as changed. -/
theorem Chip.mem_work_setWork {c : Chip} {w x : Work} (hw : w ∈ c.fw.work) (hk : x.key = w.key) : x ∈ (c.setWork x).fw.work :=
  List.mem_map.mpr ⟨w, hw, if_pos hk.symm⟩

/-- The entry of a RUN that takes a tile: at once, or by a switch (R405). -/
def Chip.placed (c : Chip) (w : Work) (t : Nat) : Work :=
  { w with
    phys := t, tile := (c.logicalOf t).getD 0, gen := c.genOf ((c.logicalOf t).getD 0), begun := c.dispatch
    switching := w.preempted || w.restart || (c.tileAt t).item == .saved || c.residentOf t != w.ctx }

/-- The descriptor of a RUN that takes a tile has started. -/
def Chip.markStarted (c : Chip) (key : Nat) : Chip :=
  match c.descAt key with | some e => c.setDesc { e with st := .started } | none => c

/-- What marking a descriptor leaves. -/
theorem Chip.markStarted_keeps (c : Chip) (key : Nat) :
    (c.markStarted key).tile = c.tile ∧ (c.markStarted key).tmap = c.tmap ∧ (c.markStarted key).fw = c.fw := by
  unfold Chip.markStarted
  split <;> exact ⟨rfl, rfl, rfl⟩

/-- A RUN that takes a tile is placed and marked; it begins unless a switch has to come first. -/
theorem Chip.startOn_eq (c : Chip) (w : Work) (t : Nat) :
    c.startOn w t =
      if (c.placed w t).switching then (c.setWork (c.placed w t)).markStarted w.key
      else ((c.setWork (c.placed w t)).markStarted w.key).beginItem (c.placed w t) := rfl

/-- A RUN of the list that takes a tile stands in the list as placed; nothing changes on any tile. -/
theorem Chip.placed_mem {c : Chip} {w : Work} (hw : w ∈ c.fw.work) (t : Nat) :
    c.placed w t ∈ ((c.setWork (c.placed w t)).markStarted w.key).fw.work := by
  obtain ⟨-, -, hfw⟩ := (c.setWork (c.placed w t)).markStarted_keeps w.key
  rw [hfw]
  exact Chip.mem_work_setWork hw rfl

/-- A RUN whose context is not resident, or with something saved in the way, takes its tile by a switch. -/
theorem Chip.startOn_switches {c : Chip} {w : Work} (hw : w ∈ c.fw.work) {t : Nat}
    (h : w.preempted = true ∨ w.restart = true ∨ (c.tileAt t).item = .saved ∨ c.residentOf t ≠ w.ctx) :
    (c.startOn w t).tile = c.tile ∧ (c.startOn w t).tmap = c.tmap ∧
      ∃ x ∈ (c.startOn w t).fw.work, x.key = w.key ∧ x.phys = t ∧ x.switching = true ∧ x.begun = c.dispatch := by
  have switches : (c.placed w t).switching = true := by
    simpa [Chip.placed, or_assoc] using h
  obtain ⟨htile, htmap, -⟩ := (c.setWork (c.placed w t)).markStarted_keeps w.key
  rw [Chip.startOn_eq, if_pos switches]
  exact ⟨htile, htmap, c.placed w t, Chip.placed_mem hw t, rfl, rfl, switches, rfl⟩

/-- A fresh RUN whose context is resident, with nothing saved in the way, begins on its tile at once. -/
theorem Chip.startOn_begins {c : Chip} {w : Work} (hw : w ∈ c.fw.work) {t : Nat} (hp : w.preempted = false) (hr : w.restart = false)
    (hs : (c.tileAt t).item ≠ .saved) (hc : c.residentOf t = w.ctx) :
    ∃ (d : Chip) (x : Work), c.startOn w t = d.beginItem x ∧ d.tile = c.tile ∧ x.key = w.key ∧ x.phys = t ∧ x.switching = false ∧
      x ∈ d.fw.work := by
  have stays : (c.placed w t).switching = false := by
    simp [Chip.placed, hp, hr, hs, hc]
  obtain ⟨htile, -, -⟩ := (c.setWork (c.placed w t)).markStarted_keeps w.key
  rw [Chip.startOn_eq, if_neg (by simp [stays])]
  exact ⟨_, c.placed w t, rfl, htile, rfl, rfl, stays, Chip.placed_mem hw t⟩

/-! The first ready RUN -/

section First

variable {c : Chip} {w : Work} {rest : List Work} (h : c.staleRun w = false)
include h

/-- A RUN with a free tile takes it where an entry is free for its end. -/
theorem Chip.schedule_takes {t : Nat} (ht : c.tileFor w = some t) (hf : c.cm.free = true) :
    c.schedule [] (w :: rest) = c.startOn w t := by
  rw [Chip.schedule, if_neg (by simp [h]), ht]
  exact if_pos (by simp [hf])

/-- A RUN without a free tile has its one victim stopped where it runs. -/
theorem Chip.schedule_stops {x : Work} (ht : c.tileFor w = none) (hv : c.victims w = [x]) (hx : (c.tileAt x.phys).item = .running) :
    c.schedule [] (w :: rest) = c.haltTile x.phys := by
  rw [Chip.schedule, if_neg (by simp [h]), ht]
  simp [hv, hx]

end First

/-- RUN_START on a calm package. -/
theorem exec_runStart {s : State} (hl : s.chip.live = true) (hc : s.calm = true) :
    exec .runStart s = .next (withChip s s.chip.doRunStart) := by
  refine (State.guarded_calm _ _ Chip.doRunStart hl hc).trans ?_
  rfl

/-- With firmware running, RUN_START serves the ready RUNs. -/
theorem exec_runStart_schedule {s : State} (hl : s.chip.live = true) (hc : s.calm = true) (hr : s.chip.fwRuns = true) {l : List Work}
    (h : s.chip.readyWork = l) : exec .runStart s = .next (withChip s (s.chip.schedule [] l)) := by
  rw [exec_runStart hl hc, Chip.doRunStart, if_pos hr, h]

/-- RUN_START changes nothing where firmware does not run or no RUN is ready. -/
theorem exec_runStart_idle {s : State} (hl : s.chip.live = true) (hc : s.calm = true)
    (h : s.chip.fwRuns = false ∨ s.chip.readyWork = []) : exec .runStart s = .next s := by
  have same : s.chip.doRunStart = s.chip := by
    unfold Chip.doRunStart
    rcases h with h | h
    · exact if_neg (by simp [h])
    · rw [h]
      exact ite_self _
  rw [exec_runStart hl hc, same]
  rfl

/-! Switches -/

/-- SWITCH_COMPLETE on a calm package. -/
theorem exec_switchComplete {s : State} (t : Fin 200) (hl : s.chip.live = true) (hc : s.calm = true) :
    exec (.switchComplete t) s = .next (withChip s (s.chip.doSwitchComplete t.val)) :=
  (State.guarded_calm _ _ (fun c => c.doSwitchComplete t.val) hl hc).trans rfl

/-- A tile without a switch under way keeps what it has. -/
theorem Chip.doSwitchComplete_none {c : Chip} {t : Nat}
    (h : c.fw.work.find? (fun x => x.phys == t && x.switching && (c.tileAt t).st == .service) = none) : c.doSwitchComplete t = c := by
  rw [Chip.doSwitchComplete, h]

/-- A work item whose switch is over. -/
def Work.arrived (w : Work) : Work := { w with switching := false, restart := false }

section Switch

variable {c : Chip} {t : Nat} {w : Work}
variable (h : c.fw.work.find? (fun x => x.phys == t && x.switching && (c.tileAt t).st == .service) = some w)
include h

/-- A switch-in that fails wipes the tile, logs the fault, and ends the item. -/
theorem Chip.doSwitchComplete_fault {out : Chip} {f : VFault} (ho : out = c.switchOut t ((c.logicalOf t).getD 0) w)
    (hi : out.switchIn t ((c.logicalOf t).getD 0) w = .error f) :
    c.doSwitchComplete t = (((out.setTile t (out.tileAt t).wipe).setResident t 64).ctxFaulted w.ctx f).workGone w.key
      (faultStatus f) f.detail := by
  rw [Chip.doSwitchComplete, h]
  dsimp only
  rw [← ho, hi]

/-- A switch-in that succeeds leaves the tile with its context; its item ends if it was dropped, waits to resume, or begins. -/
theorem Chip.doSwitchComplete_ok {out d : Chip} (ho : out = c.switchOut t ((c.logicalOf t).getD 0) w)
    (hi : out.switchIn t ((c.logicalOf t).getD 0) w = .ok d) :
    c.doSwitchComplete t =
      match w.drop with
      | some (status, detail) => ((d.setResident t w.ctx).setWork w.arrived).workGone w.key status detail
      | none =>
        if w.preempted then ((d.setResident t w.ctx).setWork w.arrived).setTile t
          { ((d.setResident t w.ctx).setWork w.arrived).tileAt t with item := .saved, work := w.key, ctx := w.ctx }
        else ((d.setResident t w.ctx).setWork w.arrived).beginItem w.arrived := by
  rw [Chip.doSwitchComplete, h]
  dsimp only
  rw [← ho, hi]
  rfl

end Switch

/-- Where the context saved nothing of this generation, a switch-in brings a wiped tile. -/
theorem Chip.switchIn_wiped {c : Chip} {t j : Nat} {w : Work} (hp : w.preempted = false)
    (h : w.restart = true ∨ tabFind (c.ctxAt w.ctx).saved j ≠ some (c.genOf j)) :
    c.switchIn t j w = (c.setTile t (c.tileAt t).wipe).ftLoad t w.ctx true := by
  have has : ¬ ((w.preempted || (!w.restart && tabFind (c.ctxAt w.ctx).saved j == some (c.genOf j))) = true) := by
    simp only [hp, Bool.false_or, Bool.and_eq_true, Bool.not_eq_true', beq_iff_eq, not_and]
    intro hr
    exact h.resolve_left (by simp [hr])
  unfold Chip.switchIn
  dsimp only
  rw [if_neg has]

/-- Where the context saved this generation of the tile, a switch-in restores it. -/
theorem Chip.switchIn_restored {c : Chip} {t j : Nat} {w : Work}
    (h : w.preempted = true ∨ (w.restart = false ∧ tabFind (c.ctxAt w.ctx).saved j = some (c.genOf j))) :
    c.switchIn t j w = (c.restore t w.ctx (c.slotOf w.ctx j)).bind (fun y => y.ftLoad t w.ctx true) := by
  have has : (w.preempted || (!w.restart && tabFind (c.ctxAt w.ctx).saved j == some (c.genOf j))) = true := by
    simpa using h
  unfold Chip.switchIn
  dsimp only
  rw [if_pos has]
  cases c.restore t w.ctx (c.slotOf w.ctx j) <;> rfl

/-! Entry -/

/-- An item without an image whose function tables are up to date enters its tile. -/
theorem Chip.tileAt_beginItem {c d : Chip} {k : Work} (hi : k.image = 0) (hd : c.ftLoad k.phys k.ctx false = .ok d) :
    (c.beginItem k).tileAt k.phys = (d.tileAt k.phys).enter k.key k.ctx k.entry k.args k.tile k.gen := by
  have loaded : c.loadImage k = .ok c := if_pos hi
  unfold Chip.beginItem
  rw [loaded]
  dsimp only
  rw [hd]
  exact Chip.tileAt_setTile_same ..

/-- The registers at the entry of a work item (03 R66). -/
theorem Tile.enter_xr (v : Tile) (key ctx entry args j gen r : Nat) :
    (v.enter key ctx entry args j gen).xr r = if r = 1 then args else if r = 2 then j else if r = 3 then gen else 0 := by
  match r with
  | 0 | 1 | 2 | 3 => rfl
  | r + 4 => simp [Tile.enter, Tile.xr, tabGet_tabSet, tabGet]

/-- Settles O44: RUN_START is the first ready RUN's case of `schedule`, SWITCH_COMPLETE the case of what the switch-in brought. -/
theorem workItemsScheduled : Obligations.WorkItemsScheduled := by
  refine ⟨fun s w rest t j out d x f hl hc => ⟨exec_runStart_idle hl hc,
    fun hr hw => ⟨fun hs => ?_, fun hs ht hf => ?_, ?_⟩, ?_, ?_, ?_⟩, ?_⟩
  · rw [exec_runStart_schedule hl hc hr hw, Chip.schedule, if_pos hs]
  · have mem : w ∈ s.chip.fw.work := Chip.mem_work_of_ready (by simp [hw])
    rw [exec_runStart_schedule hl hc hr hw, Chip.schedule_takes hs ht hf]
    refine ⟨fun h => ?_, fun hp hre hsv hres => ?_⟩
    · exact ⟨_, rfl, Chip.startOn_switches mem h⟩
    · obtain ⟨c, y, he, hrest⟩ := Chip.startOn_begins mem hp hre hsv hres
      exact ⟨c, y, congrArg _ (congrArg _ he), hrest⟩
  · intro y hs ht hv hy
    rw [exec_runStart_schedule hl hc hr hw, Chip.schedule_stops hs ht hv hy]
  · intro hn
    rw [exec_switchComplete t hl hc, Chip.doSwitchComplete_none hn]
    rfl
  · intro hsome hj ho hx
    have hx : x = w.arrived := hx
    subst hj hx
    rw [exec_switchComplete t hl hc]
    refine ⟨fun hi => ?_, fun hi => ⟨fun y hy => ?_, fun hn hp => ⟨_, rfl, ?_⟩, fun hn hp => ?_⟩, fun hsame => ?_,
      Chip.switchIn_wiped, Chip.switchIn_restored⟩
    · rw [Chip.doSwitchComplete_fault hsome ho hi]
    · rw [Chip.doSwitchComplete_ok hsome ho hi, hy]
    · rw [Chip.doSwitchComplete_ok hsome ho hi, hn]
      dsimp only
      rw [if_pos hp]
    · rw [Chip.doSwitchComplete_ok hsome ho hi, hn]
      dsimp only
      rw [if_neg (by simp [hp])]
    · rw [ho]
      exact if_pos hsame
  · exact fun c d k => Chip.tileAt_beginItem
  · intro v key ctx entry args j gen r u hu
    subst hu
    refine ⟨by simp [Tile.enter_xr], by simp [Tile.enter_xr], by simp [Tile.enter_xr], fun hr => ?_, rfl, rfl, rfl, rfl, rfl, rfl, rfl, rfl,
      rfl, rfl, rfl, rfl, rfl, rfl, rfl, rfl, rfl, rfl, rfl⟩
    rw [Tile.enter_xr, if_neg (by omega), if_neg (by omega), if_neg (by omega)]

end Sys2Proof.Machine
end

section
/-!
Ring descriptors of contexts, memory, work items and objects (14 R368, R371, 15 R399, R404 to R408, 03 R84 to R88).
-/

open Sys2Proof

namespace Sys2Proof.Machine

/-- Two packages that are one consume on alike. -/
theorem next_pump {s : State} {r : Nat} {a b : Chip} (h : a = b) :
    (.next (withChip s (a.pump r)) : Host.Outcome State Fault Refusal) = .next (withChip s (b.pump r)) := by rw [h]

/-- Consuming goes on within each case. -/
theorem Chip.pump_ite (p : Prop) [Decidable p] (a b : Chip) (r : Nat) :
    (if p then a else b).pump r = if p then a.pump r else b.pump r := apply_ite (Chip.pump · r) p a b

/-! A context's objects (03 R85) -/

/-- One value written at every place of a list. -/
theorem tabGet_foldl_tabSet {α : Type} (e v : α) (l : List Nat) (t : Tab α) (n : Nat) :
    tabGet e (l.foldl (fun u i => tabSet u i v) t) n = if n ∈ l then v else tabGet e t n := by
  induction l generalizing t with
  | nil => rfl
  | cons i l ih =>
    rw [List.foldl_cons, ih, tabGet_tabSet]
    by_cases hn : n ∈ l
    · simp [hn]
    · simp [hn, eq_comm]

/-- The objects that a new context gets: of those that a free value names, the ones that no context owns. -/
def Chip.given (c : Chip) : List Nat := (Config.objectsGiven c.free).filter (fun n => decide (n < 16384) && c.soOwner n == 64)

/-- No object that a new context gets had an owner. -/
theorem Chip.soOwner_of_mem_given {c : Chip} {n : Nat} (h : n ∈ c.given) : c.soOwner n = 64 := by
  have := (List.mem_filter.mp h).2
  simp only [Bool.and_eq_true, beq_iff_eq] at this
  exact this.2

/-- The objects that a context gets are its own. -/
theorem Chip.soOwner_assignObjects (c : Chip) (k n : Nat) :
    (c.assignObjects k).soOwner n = if n ∈ c.given then k else c.soOwner n := by
  have owners : (c.assignObjects k).so.owner = c.given.foldl (fun t i => tabSet t i k) c.so.owner :=
    (Chip.woken_wakes _ 0 _).part (·.so.owner)
  rw [Chip.soOwner, owners, tabGet_foldl_tabSet]
  rfl

/-- The objects that a context gets count from zero. -/
theorem Chip.soValue_assignObjects (c : Chip) (k n : Nat) :
    (c.assignObjects k).soValue n = if n ∈ c.given then 0 else c.soValue n := by
  have values : (c.assignObjects k).so.value = c.given.foldl (fun t i => tabSet t i 0) c.so.value :=
    (Chip.woken_wakes _ 0 _).part (·.so.value)
  rw [Chip.soValue, values, tabGet_foldl_tabSet]
  rfl

/-- Each object keeps its owner and counter, or had no owner and becomes the context's with counter 0. -/
theorem Chip.assignObjects_object (c : Chip) (k n : Nat) :
    ((c.assignObjects k).soOwner n = c.soOwner n ∧ (c.assignObjects k).soValue n = c.soValue n) ∨
      (c.soOwner n = 64 ∧ (c.assignObjects k).soOwner n = k ∧ (c.assignObjects k).soValue n = 0) := by
  rw [Chip.soOwner_assignObjects, Chip.soValue_assignObjects]
  by_cases hn : n ∈ c.given
  · exact .inr ⟨Chip.soOwner_of_mem_given hn, if_pos hn, if_pos hn⟩
  · exact .inl ⟨if_neg hn, if_neg hn⟩

/-! The end of a context begins (15 R404) -/

/-- A package whose one descriptor is whole may consume where its ring's state and period allow. -/
theorem Chip.mayConsume_lone {c : Chip} {d : Desc} (hd : c.cm.descs = [d]) (hm : d.more = 0) (r : Nat) :
    c.mayConsume r = ((c.serving r).isSome && (c.sqAt r).st == .active && (c.cmAt (c.sqAt r).cm).st == .active &&
      !(c.cmAt (c.sqAt r).cm).dereg && (c.sqAt r).unbinding.isNone && !(c.sqAt r).ahead && (c.sqAt r).head != (c.sqAt r).tail &&
      (c.sqPeriod r == 0 || decide ((c.sqAt r).perUsed < c.sqItems r))) := by
  have whole : c.partialDesc r = none := by
    rw [Chip.partialDesc, List.find?_eq_none]
    intro x hx
    have only : x = d := by simpa [hd] using List.mem_of_mem_filter hx
    simp [only, hm]
  have few : ((c.mine r).filter (fun x => x.st != .started)).length < 8 := by
    have one : (c.mine r).length ≤ c.cm.descs.length := List.length_filter_le ..
    rw [hd, List.length_singleton] at one
    have := List.length_filter_le (fun x : Desc => x.st != .started) (c.mine r)
    omega
  simp [Chip.mayConsume, whole, few]

/-- A ring that may not consume stays as it is. -/
theorem Chip.pump_of_not_mayConsume {c : Chip} {r : Nat} (h : c.mayConsume r = false) : c.pump r = c := by
  unfold Chip.pump Chip.consume
  rw [if_pos (by simp [h])]

/-- The package with the descriptor of a CTX_DESTROY started and its context ENDING. -/
def Chip.ctxMarked (c : Chip) (d : Desc) : Chip := (c.starts d [d.ctx]).setCtx d.ctx { c.ctxAt d.ctx with st := .ending }

/-- The package once CTX_DESTROY has begun for a context that holds nothing but PCIe regions. -/
def Chip.ctxEnding (c : Chip) (d : Desc) : Chip :=
  (c.ctxMarked d).modPcie (fun t => t.map (fun p => if p.2.ctx = d.ctx then (p.1, PcieRegion.fresh) else p))

/-- A lone descriptor that starts is the only one still. -/
theorem Chip.starts_lone {c : Chip} {d : Desc} (hd : c.cm.descs = [d]) (aux : List Nat) :
    (c.starts d aux).cm.descs = [{ d with st := .started, aux := aux }] := by
  change c.cm.descs.map _ = _
  rw [hd]
  exact congrArg (fun x => [x]) (if_pos rfl)

/-- What a descriptor that is first in its ring is. -/
theorem Chip.headDesc_some {c : Chip} {r : Nat} {d : Desc} (h : c.headDesc r = some d) : d.more = 0 := by
  unfold Chip.headDesc at h
  split at h
  · split at h
    · next hm =>
      cases h
      exact hm
    · cases h
  · cases h

/-- CTX_DESTROY of a context that holds no work, queue, bucket, connection or region of FD, with no other descriptor consumed, marks
the context and its descriptor and takes its PCIe regions. -/
theorem exec_ctxDestroy {s : State} {r : Fin 1024} {d : Desc} (h : descReady s r d) (ho : d.op = 0x02) (hc : s.calm = true)
    (hd : s.chip.cm.descs = [d]) (hw : s.chip.fw.work = []) (hb : s.chip.bucket = []) (hn : s.chip.fab.conn = [])
    (hg : s.chip.fab.region = []) (hq : ∀ q, (s.chip.lqAt q).bound = false) :
    exec (.ctxDestroy r) s = .next (withChip s ((s.chip.ctxEnding d).pump r.val)) := by
  refine (exec_onDesc_calm h hc rfl (by simp [opIs, ho])).trans (next_pump ?_)
  have marked : (s.chip.starts d [d.ctx]).setCtx d.ctx { s.chip.ctxAt d.ctx with st := .ending } = s.chip.ctxMarked d := rfl
  have alone : (s.chip.ctxMarked d).cm.descs.filter (fun x => x.ctx == d.ctx && x.key != d.key && x.more == 0) = [] := by
    have descs : (s.chip.ctxMarked d).cm.descs = [{ d with st := .started, aux := [d.ctx] }] := Chip.starts_lone hd _
    simp [descs]
  have unworked : (s.chip.ctxMarked d).fw.work = [] := hw
  have unbound : (List.range 320).filter (fun q => ((s.chip.ctxMarked d).lqAt q).bound && ((s.chip.ctxMarked d).lqAt q).ctx == d.ctx) = [] := by
    have bound : ∀ q, ((s.chip.ctxMarked d).lqAt q).bound = false := hq
    simp [bound]
  have unbucketed : (s.chip.ctxMarked d).bucket = [] := hb
  have unconnected : (s.chip.ctxMarked d).fab.conn = [] := hn
  have unregioned : (s.chip.ctxEnding d).fab.region = [] := hg
  dsimp only
  rw [marked]
  simp only [alone, unworked, unbound, unbucketed, unconnected, List.filter_nil, List.foldl_nil]
  rw [← Chip.ctxEnding]
  rw [unregioned]
  rfl

/-- The ring of a CTX_DESTROY whose descriptor is alone may consume no more than before. -/
theorem Chip.mayConsume_ctxEnding {c : Chip} {d : Desc} (hd : c.cm.descs = [d]) (hm : d.more = 0) (r : Nat) :
    (c.ctxEnding d).mayConsume r = c.mayConsume r := by
  have descs : (c.ctxEnding d).cm.descs = [{ d with st := .started, aux := [d.ctx] }] := Chip.starts_lone hd _
  rw [Chip.mayConsume_lone descs hm, Chip.mayConsume_lone hd hm]
  rfl

/-- A context whose end has begun is ENDING. -/
theorem Chip.ctxAt_ctxEnding (c : Chip) (d : Desc) : ((c.ctxEnding d).ctxAt d.ctx).st = .ending :=
  congrArg CtxEnt.st (tabGet_tabSet_same ..)

/-- No PCIe region of a context whose end has begun is valid. -/
theorem Chip.pcie_ctxEnding {c : Chip} {d : Desc} {p : Nat × PcieRegion} (hp : p ∈ (c.ctxEnding d).pcie) (hk : p.2.ctx = d.ctx) :
    p.2.valid = false := by
  obtain ⟨q, -, rfl⟩ := List.mem_map.mp hp
  by_cases hq : q.2.ctx = d.ctx
  · simp [hq, PcieRegion.fresh]
  · rw [if_neg hq] at hk
    exact absurd hk hq

/-- Settles O40: each row carries out its descriptor (`exec_onDesc`), in the branch that the hypotheses name. -/
theorem contextAndWorkDescriptors : Obligations.ContextAndWorkDescriptors := by
  intro s r d x h hx
  subst hx
  refine ⟨fun ho => ?_, fun ho hs hr => ?_, fun ho hs hr => ?_, Chip.assignObjects_object s.chip d.ctx, fun ho hs => ?_, ?_, fun ho hf => ?_,
    fun ho hf => ?_, fun ho hn => ?_, fun ho hn => ?_, fun sp ho hc hk hsp hf => ?_, fun sp f ho hc hk hsp hf => ?_, fun ho hc hk hm hw => ?_,
    fun ho hc hk hm hw => ?_, fun ho hc hk hm => ?_, fun ho => ?_, fun ha => ⟨fun ho hf => ?_, fun ho hf => ?_, fun ho => ?_⟩,
    fun ha ho => ⟨fun hf => ?_, fun hf => ?_⟩, fun ha ho => ?_⟩
  · exact (exec_onDesc h rfl (by simp [opIs, ho])).trans (next_pump rfl)
  · refine (exec_onDesc h rfl (by simp [opIs, ho])).trans (next_pump ?_)
    exact (if_neg (not_not.mpr hs)).trans (if_pos hr)
  · refine (exec_onDesc h rfl (by simp [opIs, ho])).trans (next_pump ?_)
    exact (if_neg (not_not.mpr hs)).trans (if_neg (by simp [hr]))
  · exact (exec_onDesc h rfl (by simp [opIs, ho])).trans (next_pump (if_pos hs))
  · intro ho hc hd hw hb hn hg hq hm
    obtain ⟨-, hhead, -, -⟩ := id h
    have hmore : d.more = 0 := Chip.headDesc_some hhead
    refine ⟨s.chip.ctxEnding d, ?_, Chip.ctxAt_ctxEnding .., Chip.starts_lone hd _, fun p => Chip.pcie_ctxEnding, rfl⟩
    rw [exec_ctxDestroy h ho hc hd hw hb hn hg hq, Chip.pump_of_not_mayConsume ((Chip.mayConsume_ctxEnding hd hmore _).trans hm)]
  · exact (exec_onDesc h rfl (by simp [ho, hf])).trans (next_pump rfl)
  · exact (exec_onDesc h rfl (by simp [ho, hf])).trans (next_pump rfl)
  · exact (exec_onDesc h rfl (by simp [opIs, ho])).trans (next_pump (if_pos (List.isEmpty_iff.mpr hn)))
  · exact (exec_onDesc h rfl (by simp [opIs, ho])).trans (next_pump (if_neg (mt List.isEmpty_iff.mp hn)))
  · refine (exec_onDesc_calm h hc rfl (by simp [opIs, ho])).trans (next_pump ?_)
    dsimp only
    rw [if_neg (by simp [hk]), if_neg hk, ← hsp, hf]
  · refine (exec_onDesc_calm h hc rfl (by simp [opIs, ho])).trans (next_pump ?_)
    dsimp only
    rw [if_neg (by simp [hk]), if_neg hk, ← hsp, hf]
  · exact (exec_onDesc_calm h hc rfl (by simp [opIs, ho])).trans
      (next_pump ((if_neg (by simp [hm])).trans ((if_pos hk).trans (if_pos hw))))
  · exact (exec_onDesc_calm h hc rfl (by simp [opIs, ho])).trans
      (next_pump ((if_neg (by simp [hm])).trans ((if_pos hk).trans (if_neg (ne_true_of_eq_false hw)))))
  · exact (exec_onDesc_calm h hc rfl (by simp [opIs, ho])).trans (next_pump (if_pos ⟨hk, hm⟩))
  · exact ⟨_, exec_onDesc h rfl (by simp [opIs, ho]), List.length_map .., _, rfl, rfl, rfl, rfl, rfl, rfl, rfl, rfl, rfl, rfl⟩
  · exact (exec_onDesc h rfl (by simp [ho, hf])).trans (next_pump (if_pos (by simp [ha])))
  · exact (exec_onDesc h rfl (by simp [ho, hf])).trans (next_pump (if_pos (by simp [ha])))
  · exact (exec_onDesc h rfl (by simp [opIs, ho])).trans (next_pump (if_pos (by simp [ha])))
  · exact (exec_onDesc h rfl (by simp [ho, hf])).trans (next_pump (if_neg (by simp [ha])))
  · exact (exec_onDesc h rfl (by simp [ho, hf])).trans (next_pump (if_neg (by simp [ha])))
  · rw [← Chip.pump_ite, ← Chip.pump_ite]
    exact (exec_onDesc h rfl (by simp [opIs, ho])).trans (next_pump (if_neg (by simp [ha])))

end Sys2Proof.Machine
end

section
/-!
The array queue (04 R94, R95, R101, R103, R106, 07 R192, R193): what an array instruction that passes its checks puts at its end.
-/

open Sys2Proof

namespace Sys2Proof.Machine

/-! The entries -/

/-- The entry of an MLOAD at issue. -/
def Tile.loadEnt (v : Tile) (w off : Nat) (d : TDesc) : ArrEnt :=
  { mkEntry .load v w off 0 d none with row0 := 0, m := 0, limit := 0, blk := v.serial }

/-- The entry of an MMUL at issue, on the block that it uses. -/
def Tile.passEnt (v : Tile) (w off row0 : Nat) (d : TDesc) (k : Nat) : ArrEnt :=
  { mkEntry .pass v w off row0 d none with blk := k }

/-- The entry of an MVMUL at issue. -/
def Tile.mvmulEnt (v : Tile) (w oa ow : Nat) (a d : TDesc) : ArrEnt :=
  { mkEntry .mvmul v w oa ow a (some d) with row0 := 0, m := a.extent 1, n := d.extent 1, limit := a.extent 1 }

/-- The block that an MMUL uses: with NEW the pending one, if no other has claimed it, and without NEW that of the pass before (04 R101,
R103). -/
def Arr.blockFor (a : Arr) (new : Bool) : Option Nat := if new then (if a.claimed then none else a.pending) else a.use

/-! The checks passed -/

/-- An MLOAD of an image descriptor, with no load pending and room in the queue, makes its block the pending one. -/
theorem Tile.enqMload_ok {v : Tile} {w off : Nat} {d : TDesc} (hd : v.goodDesc off = .ok d) (hl : d.layout = 2)
    (hp : v.arr.pending = none) (hf : v.arr.full = false) :
    v.enqMload w off = .ok (some
      { v with
        serial := v.serial + 1
        arr := { v.arr with
          q := v.arr.q ++ [v.loadEnt w off d], pending := some v.serial, claimed := false
          blocks := tabSet v.arr.blocks v.serial { pc := v.pc, img := off, desc := d, lines := [], scales := [] } } }) := by
  simp only [Tile.enqMload, hd, hl, hp, hf]
  rfl

/-- An MMUL whose rows lie in its region and in the bank, on a block that its region fits, claims that block if it has NEW. -/
theorem Tile.enqMmul_ok {v : Tile} {w off row0 k : Nat} {d : TDesc} {b : Block} (hd : v.goodDesc off = .ok d) (hl : d.layout = 1)
    (h0 : row0 ≤ 8191) (h1 : row0 + (bits w 40 32 + 1) ≤ d.extent 1) (hr : bits w 30 22 + (bits w 40 32 + 1) ≤ 512)
    (hk : v.arr.blockFor (bit w 12) = some k) (hb : tabFind v.arr.blocks k = some b)
    (hp : pairOk d.fmt d.mx b.desc.fmt b.desc.mx = true) (hf : v.arr.full = false) :
    v.enqMmul w off row0 = .ok (some
      { v with
        serial := v.serial + 1
        arr := { v.arr with
          q := v.arr.q ++ [v.passEnt w off row0 d k], use := some k, claimed := v.arr.claimed || bit w 12 } }) := by
  have fits : ¬ (d.layout ≠ 1 ∨ 8191 < row0 ∨ d.extent 1 < row0 + (bits w 40 32 + 1) ∨ 512 < bits w 30 22 + (bits w 40 32 + 1)) := by
    omega
  have used : (if (mkEntry .pass v w off row0 d none).isNew then (if v.arr.claimed then none else v.arr.pending)
    else v.arr.use) = some k := hk
  rw [Tile.enqMmul, hd]
  refine (if_neg fits).trans ?_
  simp only [used, hb, hp, hf]
  rfl

/-- An MVMUL of two plain operands of tile memory that fit each other and the accumulators. -/
theorem Tile.enqMvmul_ok {v : Tile} {w oa ow : Nat} {a d : TDesc} (ha : v.goodDesc oa = .ok a) (hd : v.goodDesc ow = .ok d)
    (pa : a.tmem = true ∧ a.layout = 0 ∧ a.rank = 2) (pd : d.tmem = true ∧ d.layout = 0 ∧ d.rank = 2) (he : a.extent 0 = d.extent 0)
    (hk : a.extent 0 ≤ 16384) (hm : a.extent 1 ≤ 8) (hn : d.extent 1 ≤ 128) (hr : bits w 30 22 + a.extent 1 ≤ 512)
    (hp : pairOk a.fmt a.mx d.fmt d.mx = true) (hf : v.arr.full = false) :
    v.enqMvmul w oa ow = .ok (some
      { v with serial := v.serial + 1, arr := { v.arr with q := v.arr.q ++ [v.mvmulEnt w oa ow a d] } }) := by
  obtain ⟨ta, la, ra⟩ := pa
  obtain ⟨td, ld, rd⟩ := pd
  have fits : ¬ (16384 < d.extent 0 ∨ 8 < a.extent 1 ∨ 128 < d.extent 1 ∨ 512 < bits w 30 22 + a.extent 1) := by omega
  simp [Tile.enqMvmul, ha, hd, ta, la, ra, td, ld, rd, he, hp, hf, fits, Tile.mvmulEnt]

/-! Issue -/

/-- An array instruction that is the next to issue and whose checks are passed changes its tile alone, and the controller goes on behind
it. -/
theorem exec_arr {s : State} {t : Fin 200} {w : BitVec 64} {op : Nat} (h : arrAt s t w op) {i : Instr}
    (e : Chip → Nat → BitVec 64 → Chip) {legal : Bool} {f : Tile → Except (Nat × Nat) (Option Tile)} {u : Tile} (hi : exec i s = s.liveChip (fun c => e c t.val w))
    (he : e s.chip t.val w = s.chip.arr t.val w op legal f) (hl : legal = true) (hf : f (tileOf s t) = .ok (some u))
    (hu : u.pc = (tileOf s t).pc) : exec i s = .next (withTile s t { u with pc := (tileOf s t).pc + 8 }) := by
  obtain ⟨hlive, hissue, hclass, hop, hpc⟩ := h
  have retires : s.chip.arr t.val w op legal f = s.chip.retire t.val u := by
    rw [tileOf] at hissue hf
    simp [Chip.arr, hissue, hclass, hop, hl, hf]
  rw [hi, State.liveChip_live _ hlive, he, retires]
  exact congrArg _ (retire_withTile hpc hu)

/-- An array instruction of the opcode 0x01 is an MMUL. -/
theorem Chip.doMmul_arr (c : Chip) (t : Nat) {w : BitVec 64} (h : iOp w.toNat = 0x01) :
    c.doMmul t w = c.arr t w 0x01 (bits w.toNat 55 51 == 0 && bits w.toNat 11 0 == 0) (fun v => v.issueMmul w.toNat) := by
  simp [Chip.doMmul, arrOps, h]

/-- Settles O14: the checks of each instruction are passed, and `exec_arr` puts its entry into the queue. -/
theorem arrayInstructionsQueue : Obligations.ArrayInstructionsQueue := by
  intro s t w d d2 b k
  refine ⟨?_, ?_, ?_⟩
  · intro h h1 h2 hd hl hp hf
    refine ⟨(tileOf s t).loadEnt w.toNat ((tileOf s t).xr (iRs1 w.toNat)) d, rfl, rfl, rfl, rfl, rfl, ?_⟩
    have checked : (tileOf s t).issueMload w.toNat = .ok (some _) := Tile.enqMload_ok hd hl hp hf
    rw [exec_arr (f := fun v => v.issueMload w.toNat) h Chip.doMload rfl (by rw [Chip.doMload]) (by simp [h1, h2]) checked rfl]
  · intro h h1 h2 hd hl h0 hx hr hk hb hp hf
    refine ⟨(tileOf s t).passEnt w.toNat ((tileOf s t).xr (iRs1 w.toNat)) ((tileOf s t).xr (iRs2 w.toNat)) d k,
      rfl, rfl, rfl, rfl, rfl, rfl, rfl, rfl, rfl, rfl, rfl, rfl, ?_⟩
    have checked : (tileOf s t).issueMmul w.toNat = .ok (some _) := Tile.enqMmul_ok hd hl h0 hx hr hk hb hp hf
    obtain ⟨-, -, -, hop, -⟩ := id h
    rw [exec_arr h Chip.doMmul rfl (Chip.doMmul_arr _ _ hop) (by simp [h1, h2]) checked rfl]
    rfl
  · intro h h1 h2 h3 h4 ha hd ta la ra td ld rd he hk hm hn hr hp hf
    refine ⟨(tileOf s t).mvmulEnt w.toNat ((tileOf s t).xr (iRs1 w.toNat)) ((tileOf s t).xr (iRs2 w.toNat)) d d2,
      rfl, rfl, rfl, rfl, rfl, ?_⟩
    have checked : (tileOf s t).issueMvmul w.toNat = .ok (some _) :=
      Tile.enqMvmul_ok ha hd ⟨ta, la, ra⟩ ⟨td, ld, rd⟩ he hk hm hn hr hp hf
    rw [exec_arr (f := fun v => v.issueMvmul w.toNat) h Chip.doMvmul rfl (by rw [Chip.doMvmul]) (by simp [h1, h2, h3, h4]) checked
      rfl]

end Sys2Proof.Machine
end

section
/-!
The starts of loads and passes, and the step of the array (04 R91, R96 to R100, 05 R123).
-/

open Sys2Proof

namespace Sys2Proof.Machine

/-! Starts (04 R96 to R99) -/

section Starts

variable {c : Chip} {t : Nat} {e : ArrEnt} (hp : (c.tileAt t).paused = false) (hs : (c.tileAt t).arr.stopped = false)
include hp hs

/-- The first queued load starts once nothing holds it. -/
theorem Chip.doLoadStart_free (hq : (c.tileAt t).arr.q.find? (fun x => x.kind == .load && !x.started) = some e)
    (ha : (c.tileAt t).arrWaits e = false) (hw : (c.tileAt t).loadWaits e = false) :
    c.doLoadStart t = c.setTile t { c.tileAt t with arr := (c.tileAt t).arr.startLoad e ((c.tileAt t).arr.loadStart e) } := by
  rw [Chip.doLoadStart, hq]
  exact if_neg (by simp [hp, hs, hw, ha])

/-- The first queued pass starts once nothing holds it. -/
theorem Chip.doPassStart_free (hq : (c.tileAt t).arr.q.find? (fun x => x.kind == .pass && !x.started) = some e)
    (hw : (c.tileAt t).passWaits e = false) :
    c.doPassStart t = c.setTile t
      { c.tileAt t with arr := (c.tileAt t).arr.startPass e ((c.tileAt t).arr.passStart e ((c.tileAt t).arr.waveStart e)) } := by
  rw [Chip.doPassStart, hq]
  exact if_neg (by simp [hp, hs, hw])

end Starts

/-- A bound that something raises where it is there lies below `n` when the bound does and what is there does. -/
theorem elim_max_le {α : Type} (o : Option α) (b n : Nat) (f : α → Nat) :
    o.elim b (fun x => max b (f x)) ≤ n ↔ b ≤ n ∧ ∀ x, o = some x → f x ≤ n := by
  cases o <;> simp

/-- A bound that a condition raises lies below `n` when the bound does and, under the condition, what raises it does. -/
theorem ite_max_le (p : Prop) [Decidable p] (b m n : Nat) : (if p then max b m else b) ≤ n ↔ b ≤ n ∧ (p → m ≤ n) := by
  split <;> simp [*]

/-- The start of a load is a bound that the last load and an active plane of another step length raise (04 R99). -/
theorem Arr.loadStart_eq (a : Arr) (e : ArrEnt) :
    a.loadStart e =
      let base := max (e.issue + 3) (a.step + 1)
      let base := a.lastLoad.elim base (fun l => max base (l + 128))
      (a.active.bind (tabFind a.blocks)).elim base
        (fun b => max base (if stepLen b.desc.fmt = stepLen e.dA.fmt then 0 else a.lastDone)) := by
  rw [Arr.loadStart.eq_def]
  cases a.active.bind (tabFind a.blocks) with
  | none => cases a.lastLoad <;> rfl
  | some b => cases a.lastLoad <;> dsimp <;> split <;> simp

theorem Arr.loadStart_le (a : Arr) (e : ArrEnt) (n : Nat) :
    a.loadStart e ≤ n ↔ e.issue + 3 ≤ n ∧ a.step + 1 ≤ n ∧ (∀ l, a.lastLoad = some l → l + 128 ≤ n) ∧
      (∀ k b, a.active = some k → tabFind a.blocks k = some b → stepLen b.desc.fmt ≠ stepLen e.dA.fmt → a.lastDone ≤ n) := by
  have other (b : Block) : (if stepLen b.desc.fmt = stepLen e.dA.fmt then 0 else a.lastDone) ≤ n ↔
      (stepLen b.desc.fmt ≠ stepLen e.dA.fmt → a.lastDone ≤ n) := by
    split <;> simp [*]
  rw [Arr.loadStart_eq]
  simp only [elim_max_le, other, Nat.max_le, and_assoc, Option.bind_eq_some_iff, forall_exists_index, and_imp]
  grind

/-- The start of a pass is a bound that the last pass, the load that it consumes and another step length raise (04 R99). -/
theorem Arr.passStart_eq (a : Arr) (e : ArrEnt) (load : Option Nat) :
    a.passStart e load =
      let base := max (e.issue + 3) (a.step + 1)
      let base := a.lastE.elim base (fun l => max base (l + a.lastM))
      let base := load.elim base (fun l => max base (l + 1))
      if a.lastE.isSome ∧ a.lastLen ≠ stepLen e.dA.fmt then max base a.lastDone else base := by
  rw [Arr.passStart.eq_def]
  cases a.lastE <;> cases load <;> rfl

theorem Arr.passStart_le (a : Arr) (e : ArrEnt) (load : Option Nat) (n : Nat) :
    a.passStart e load ≤ n ↔ e.issue + 3 ≤ n ∧ a.step + 1 ≤ n ∧ (∀ l, a.lastE = some l → l + a.lastM ≤ n) ∧
      (∀ l, load = some l → l + 1 ≤ n) ∧ (a.lastE.isSome = true → a.lastLen ≠ stepLen e.dA.fmt → a.lastDone ≤ n) := by
  rw [Arr.passStart_eq]
  simp only [ite_max_le, elim_max_le, Nat.max_le, and_imp, and_assoc]

/-! What a step changes on its tile -/

/-- A tile that differs from another at most in its array and its accumulators. -/
def Tile.ArrayOnly (v u : Tile) : Prop := u = { v with arr := u.arr, acc := u.acc }

theorem Tile.ArrayOnly.trans {v u w : Tile} (h : v.ArrayOnly u) (g : u.ArrayOnly w) : v.ArrayOnly w := by
  rw [Tile.ArrayOnly] at h g ⊢
  rw [g, h]

/-- A part of the tile beside the array and the accumulators is the same in both. -/
theorem Tile.ArrayOnly.part {α : Type} {v u : Tile} (h : v.ArrayOnly u) (p : Tile → α)
    (hp : ∀ a b, p { v with arr := a, acc := b } = p v := by exact fun _ _ => rfl) : p u = p v := by
  rw [h, hp]

theorem Tile.arrayOnly_foldl {α : Type} {f : Tile → α → Tile} (hf : ∀ u x, Tile.ArrayOnly u (f u x)) (l : List α) (v : Tile) :
    v.ArrayOnly (l.foldl f v) := by
  induction l generalizing v with
  | nil => rfl
  | cons x r ih => exact (hf v x).trans (ih (f v x))

theorem Tile.arrayOnly_readLines (v : Tile) : v.ArrayOnly v.readLines := rfl

theorem Tile.arrayOnly_markRows (v : Tile) : v.ArrayOnly v.markRows := rfl

theorem Tile.arrayOnly_arrDiscard (v : Tile) (keep : ArrEnt → Nat) (from_ : Nat) : v.ArrayOnly (v.arrDiscard keep from_) := rfl

/-- The rows that leave the array go to the accumulators. -/
theorem Tile.arrayOnly_writeRows (v : Tile) (seed : Nat) : v.ArrayOnly (v.writeRows seed) := by
  refine Tile.arrayOnly_foldl (fun u e => ?_) _ v
  split <;> rfl

/-- A poisoned line stops the array and marks accumulator rows. -/
theorem Tile.arrayOnly_poisonStop (v : Tile) (e : ArrEnt) (row : Nat) : v.ArrayOnly (v.poisonStop e row) := by
  unfold Tile.poisonStop
  split
  · split <;> rfl
  · rfl

/-- A step without hold changes the array and the accumulators. -/
theorem Tile.arrayOnly_advance (v : Tile) (seed : Nat) (hit : Option (ArrEnt × Nat × Nat)) : v.ArrayOnly (v.advance seed hit) := by
  have written : v.ArrayOnly (v.readLines.writeRows seed) := v.arrayOnly_readLines.trans (Tile.arrayOnly_writeRows ..)
  have retired : v.ArrayOnly
      { v.readLines.writeRows seed with arr := (v.readLines.writeRows seed).arr.retireEnts v.arr.step } := written.trans rfl
  cases hit with
  | none => exact retired.trans rfl
  | some h => exact (retired.trans (Tile.arrayOnly_poisonStop _ h.1 h.2.2)).trans rfl

/-! ARRAY_STEP -/

section Step

variable {c : Chip} {t : Nat} (hp : (c.tileAt t).paused = false) (hw : (c.tileAt t).powered = true)
include hp hw

/-- A step whose lines need a bank again, or that meets a row of an MVMUL at its port, is a hold step (04 R100, 05 R123). -/
theorem Chip.doArrayStep_holds (h : (c.tileAt t).arr.held < (c.tileAt t).arr.holds ∨ (c.tileAt t).arr.portMeets = true) :
    c.doArrayStep t = c.setTile t (c.tileAt t).holdStep := by
  rw [Chip.doArrayStep, if_neg (by simp [hp, hw]), if_pos (by simpa using h)]

variable (hh : (c.tileAt t).arr.holds ≤ (c.tileAt t).arr.held) (hm : (c.tileAt t).arr.portMeets = false)
  {d : Chip} (hd : d = if (c.tileAt t).contended then c.took 1 else c)
include hh hm hd

/-- Where another unit may ask for the banks, an odd free value makes the step a hold step (03 R71). -/
theorem Chip.doArrayStep_taken (hc : (c.tileAt t).contended = true) (hf : Config.freeValue c.free % 2 = 1) :
    c.doArrayStep t = d.setTile t (c.tileAt t).holdStep := by
  rw [Chip.doArrayStep, if_neg (by simp [hp, hw]), if_neg (by simp [hh, hm]), if_pos (by simp [hc, hf]), hd]

section Moves

variable (hc : (c.tileAt t).contended = true → Config.freeValue c.free % 2 ≠ 1)
include hc

/-- A step that meets no poison moves on, and what waited for the array goes on. -/
theorem Chip.doArrayStep_moves (hn : (c.tileAt t).stepPoison = none) :
    c.doArrayStep t =
      ((d.setTile t ((c.tileAt t).advance (c.ctxAt (c.tileAt t).ctx).seed none)).unblock t).settleEnd t := by
  rw [Chip.doArrayStep, if_neg (by simp [hp, hw]), if_neg (by simp [hh, hm]), if_neg (by simpa using hc), hn, hd]

/-- A step that meets poison moves on too, with the fault of the reader that met it (04 R115, R116). -/
theorem Chip.doArrayStep_poisoned {e : ArrEnt} {g row : Nat} (hn : (c.tileAt t).stepPoison = some (e, g, row)) :
    c.doArrayStep t =
      ((d.arrFault t ((c.tileAt t).advance (c.ctxAt (c.tileAt t).ctx).seed (some (e, g, row))) exPoison
        (if e.kind = .load then 1 else 0) row e.pc (64 * g + 2 ^ 63)).unblock t).settleEnd t := by
  rw [Chip.doArrayStep, if_neg (by simp [hp, hw]), if_neg (by simp [hh, hm]), if_neg (by simpa using hc), hn, hd]

end Moves

end Step

/-- ARRAY_STEP of a package in service. -/
theorem exec_arrayStep {s : State} (t : Fin 200) (hl : s.chip.live = true) :
    exec (.arrayStep t) s = .next (withChip s (s.chip.doArrayStep t.val)) :=
  State.liveChip_live (fun c => c.doArrayStep t.val) hl

/-- Settles O15: a start is the least number above its constraints, a step is a case of `doArrayStep`, and a tile after it differs in its
array and its accumulators. The hold at the port and the free value of the banks are assumption 69's choice, the step of the scale lines
assumption 98's. -/
theorem arrayStartsAndSteps : Obligations.ArrayStartsAndSteps := by
  refine ⟨⟨fun s t e hl hp hs => ⟨fun hq ha hw => ?_, fun hq hw => ?_⟩,
    fun a e n => ⟨a.loadStart_le e n, fun load => a.passStart_le e load n⟩⟩,
    fun s t hl hp hw => ⟨fun h => ?_, fun hh hm c hc => ⟨fun hcon hf => ?_, fun hf => ⟨fun hn => ?_, fun e g row hn => ?_⟩⟩⟩,
    fun v seed hit => ?_⟩
  · refine (State.liveChip_live (fun c => c.doLoadStart t.val) hl).trans ?_
    rw [Chip.doLoadStart_free hp hs hq ha hw]
    rfl
  · refine (State.liveChip_live (fun c => c.doPassStart t.val) hl).trans ?_
    rw [Chip.doPassStart_free hp hs hq hw]
    rfl
  · rw [exec_arrayStep t hl, Chip.doArrayStep_holds hp hw h]
    rfl
  · rw [exec_arrayStep t hl, Chip.doArrayStep_taken hp hw hh hm hc hcon hf]
    rfl
  · rw [exec_arrayStep t hl, Chip.doArrayStep_moves hp hw hh hm hc hf hn]
    rfl
  · rw [exec_arrayStep t hl, Chip.doArrayStep_poisoned hp hw hh hm hc hf hn]
    rfl
  · have frame := v.arrayOnly_advance seed hit
    exact ⟨rfl, rfl, frame.part Tile.hold, frame.part Tile.x, frame.part Tile.pc, frame.part Tile.item, frame.part Tile.mem,
      frame.part Tile.imem, frame.part Tile.vec, frame.part Tile.mover, rfl, rfl, rfl, rfl⟩

end Sys2Proof.Machine
end

section
/-!
What ends in the array and what stops it (04 R96, R107, R110 to R112, R117, 05 R123, 07 R198): completions, hardware faults, requests for
pre-emption and pauses.
-/

open Sys2Proof

namespace Sys2Proof.Machine

/-- The tile with an entry of the array queue gone. -/
def Tile.without (v : Tile) (e : ArrEnt) : Tile := { v with arr := { v.arr with q := v.arr.q.filter (fun x => x.serial != e.serial) } }

/-- The oldest pass whose last row is written leaves the queue (04 R96, R98). -/
theorem Chip.doPassComplete_written {c : Chip} {t : Nat} {e : ArrEnt} (hp : (c.tileAt t).paused = false)
    (hq : (c.tileAt t).arr.q.find? (fun x => x.kind == .pass && x.started && x.written == x.m &&
      decide (x.start + x.m + 255 ≤ (c.tileAt t).arr.step)) = some e) :
    c.doPassComplete t = ((c.setTile t ((c.tileAt t).without e)).unblock t).settleEnd t := by
  rw [Chip.doPassComplete, if_neg (by simp [hp]), hq]
  rfl

/-! MVMUL_COMPLETE (04 R97, R107, R110) -/

section Mvmul

variable {c : Chip} {t : Nat} {e : ArrEnt} {earlier : List ArrEnt} {u : Tile}
variable (hq : (c.tileAt t).arr.q.find? (fun x => x.kind == .mvmul) = some e)
  (he : earlier = (c.tileAt t).arr.q.filter (fun x => decide (x.serial < e.serial))) (hp : (c.tileAt t).paused = false)
  (hg : (c.tileAt t).arr.going e = true) (ha : (c.tileAt t).arrWaits e = false)
  (hr : ∀ x ∈ earlier, x.kind = .pass → rowsMeet x.rows e.rows = false) (hn : (c.tileAt t).mvPoison e = none)
  (hu : u = Tile.markRows
    { (c.tileAt t).without e with acc := (c.tileAt t).mvWrite e (c.ctxAt (c.tileAt t).ctx).seed e.m })
include hq he hp hg ha hr hn hu

/-- An MVMUL that nothing holds back and whose operands are clean is not refused: it writes its rows and leaves, and what happens then
depends on the form of the array alone. -/
theorem Chip.doMvmulComplete_clean (hw : (c.tileAt t).mvpFenced = false ∨ earlier = []) :
    c.doMvmulComplete t =
      ((c.setTile t
        (if (c.tileAt t).mvpFenced then (if (c.tileAt t).arr.stopped then u else u.reload)
         else { u with arr := { u.arr with port := some (e.bank, e.m) } })).unblock t).settleEnd t := by
  subst he hu
  have apart : ((c.tileAt t).arr.q.filter (fun x => decide (x.serial < e.serial))).any
      (fun x => x.kind == .pass && rowsMeet x.rows e.rows) = false := by
    simpa using hr
  have alone : ((c.tileAt t).mvpFenced && !((c.tileAt t).arr.q.filter (fun x => decide (x.serial < e.serial))).isEmpty) = false := by
    rcases hw with h | h <;> simp [h]
  rw [Chip.doMvmulComplete, hq]
  refine (if_neg (by rw [hp, hg, ha, apart, alone]; decide)).trans ?_
  rw [hn]
  rfl

/-- Its rows then take the array port of their bank (05 R123). -/
theorem Chip.doMvmulComplete_port (hm : (c.tileAt t).mvpFenced = false) :
    c.doMvmulComplete t = ((c.setTile t { u with arr := { u.arr with port := some (e.bank, e.m) } }).unblock t).settleEnd t := by
  rw [Chip.doMvmulComplete_clean hq he hp hg ha hr hn hu (.inl hm), if_neg (by simp [hm])]

/-- In the wide, shallow form the active plane is reloaded behind it (04 R110). -/
theorem Chip.doMvmulComplete_wide (hm : (c.tileAt t).mvpFenced = true) (hnil : earlier = []) (hs : (c.tileAt t).arr.stopped = false) :
    c.doMvmulComplete t = ((c.setTile t u.reload).unblock t).settleEnd t := by
  rw [Chip.doMvmulComplete_clean hq he hp hg ha hr hn hu (.inr hnil), if_pos hm, if_neg (by simp [hs])]

end Mvmul

/-! ARRAY_HW_FAULT (04 R117) -/

/-- The tile with nothing left in its array queue after a fault, and its matrix-vector path fenced or not. -/
def Tile.arrEmptied (v : Tile) (keep : ArrEnt → Nat) (from_ : Nat) (fenced : Bool) : Tile :=
  { v.arrDiscard keep from_ with arr := { (v.arrDiscard keep from_).arr with q := [] }, mvpFenced := fenced }

/-- A tile that has recorded a fault of its array and waits to take the exception. -/
def Tile.arrFaulted (v : Tile) (cause unit row pc tval : Nat) : Tile :=
  { v with pend := some (cause, tval), arr := { v.arr with afault := afaultOf cause unit row pc } }

/-- A running tile with no exception before records the fault and takes it at its next instruction boundary. -/
theorem Chip.arrFault_running {c : Chip} {t : Nat} {v : Tile} (hi : v.item = .running) (hb : v.blocked = none) (hp : v.pend = none)
    (ha : v.arr.afault = 0) (cause unit row pc tval : Nat) :
    c.arrFault t v cause unit row pc tval = c.setTile t (v.arrFaulted cause unit row pc tval) := by
  simp [Chip.arrFault, Chip.detect, Tile.arrFaulted, hi, hb, hp, ha]

section Fault

variable {c : Chip} {t : Nat} {e : ArrEnt} (hi : (c.tileAt t).item = .running) (hb : (c.tileAt t).blocked = none)
  (hp : (c.tileAt t).pend = none) (ha : (c.tileAt t).arr.afault = 0)
include hi hb hp ha

/-- A running tile whose queue a fault empties records the fault and takes HW_FAULT. -/
theorem Chip.arrFault_emptied (keep : ArrEnt → Nat) (from_ : Nat) (fenced : Bool) (unit row pc tval : Nat) :
    c.arrFault t ((c.tileAt t).arrEmptied keep from_ fenced) exHwFault unit row pc tval =
      c.setTile t (((c.tileAt t).arrEmptied keep from_ fenced).arrFaulted exHwFault unit row pc tval) :=
  Chip.arrFault_running (v := (c.tileAt t).arrEmptied keep from_ fenced) hi hb hp ha exHwFault unit row pc tval

/-- A fault of the matrix-vector path empties the queue and fences the path. -/
theorem Chip.doArrayHwFault_mvp (hq : (c.tileAt t).arr.q.find? (fun x => x.kind == .mvmul) = some e) (hm : (c.tileAt t).mvpFenced = false) :
    c.doArrayHwFault t true = c.setTile t
      (((c.tileAt t).arrEmptied (fun x => if e.serial < x.serial then 0 else x.written) e.serial true).arrFaulted
        exHwFault 2 0 e.pc 0x04) := by
  rw [← Chip.arrFault_emptied hi hb hp ha, Chip.doArrayHwFault, if_pos rfl, hq, hm]
  rfl

/-- A fault of the array stops the first pass that has rows to write at its next one, and empties the queue. -/
theorem Chip.doArrayHwFault_pass (hq : (c.tileAt t).arr.q.find? (fun x => x.kind == .pass && decide (x.written < x.m)) = some e) :
    c.doArrayHwFault t false = c.setTile t
      (((c.tileAt t).arrEmptied (faultKeep e.serial e.written) (e.serial + 1) (c.tileAt t).mvpFenced).arrFaulted
        exHwFault 0 e.written e.pc 0x03) := by
  rw [← Chip.arrFault_emptied hi hb hp ha, Chip.doArrayHwFault, if_neg (by decide), hq]
  rfl

end Fault

/-! Pre-emption and pauses (04 R111, R112, 07 R198) -/

section Preempt

variable {c : Chip} {t : Nat} (hi : (c.tileAt t).item = .running)
include hi

/-- A request for pre-emption stops the item, and the array drains. -/
theorem Chip.doPreemptRequest_stops (hp : (c.tileAt t).paused = false) (hn : (c.tileAt t).pend = none) :
    c.doPreemptRequest t = (c.setTile t
      { c.tileAt t with item := .saving, blocked := none, arr := (c.tileAt t).arr.preempt }).soWithdraw (.tile t) := by
  simp [Chip.doPreemptRequest, hi, hp, hn]

/-- An exception that has been detected is taken instead (03 R68, 04 R118). -/
theorem Chip.doPreemptRequest_excepts (hp : (c.tileAt t).paused = false) {cause tval : Nat} (hx : (c.tileAt t).pend = some (cause, tval)) :
    c.doPreemptRequest t = c.takeExc t cause tval := by
  simp [Chip.doPreemptRequest, hi, hp, hx]

/-- A pause holds the request. -/
theorem Chip.doPreemptRequest_paused (hp : (c.tileAt t).paused = true) :
    c.doPreemptRequest t = c.setTile t { c.tileAt t with preAsk := true } := by
  rw [Chip.doPreemptRequest, if_neg (by simp [hi]), if_pos hp]

end Preempt

/-- A pause gates the clock of a tile that has power. -/
theorem Chip.doPauseSegmentStart_powered {c : Chip} {t : Nat} (h : (c.tileAt t).powered = true) :
    c.doPauseSegmentStart t = c.setTile t { c.tileAt t with paused := true } := if_pos h

/-- The end of a pause releases the tile. -/
theorem Chip.doPauseSegmentEnd_free {c : Chip} {t : Nat} (h : (c.tileAt t).preAsk = false) :
    c.doPauseSegmentEnd t = c.setTile t { c.tileAt t with paused := false, preAsk := false } := if_neg (by simp [h])

/-- A request for pre-emption that came in the pause then reaches the tile. -/
theorem Chip.doPauseSegmentEnd_asked {c : Chip} {t : Nat} (h : (c.tileAt t).preAsk = true) :
    c.doPauseSegmentEnd t = (c.setTile t { c.tileAt t with paused := false, preAsk := false }).doPreemptRequest t := if_pos h

/-- ARRAY_HW_FAULT of a package in service. -/
theorem exec_arrayHwFault {s : State} (t : Fin 200) (mvp : Bool) (hl : s.chip.live = true) :
    exec (.arrayHwFault t mvp) s = .next (withChip s (s.chip.doArrayHwFault t.val mvp)) :=
  State.liveChip_live (fun c => c.doArrayHwFault t.val mvp) hl

/-- PREEMPT_REQUEST of a package in service. -/
theorem exec_preemptRequest {s : State} (t : Fin 200) (hl : s.chip.live = true) :
    exec (.preemptRequest t) s = .next (withChip s (s.chip.doPreemptRequest t.val)) :=
  State.liveChip_live (fun c => c.doPreemptRequest t.val) hl

/-- The end of a pause of a package in service. -/
theorem exec_pauseSegmentEnd {s : State} (t : Fin 200) (hl : s.chip.live = true) :
    exec (.pauseSegmentEnd t) s = .next (withChip s (s.chip.doPauseSegmentEnd t.val)) :=
  State.liveChip_live (fun c => c.doPauseSegmentEnd t.val) hl

/-- Settles O16: each event is the case of its command that the state of the tile selects. -/
theorem arrayEventsAct : Obligations.ArrayEventsAct := by
  intro s t e hl
  refine ⟨fun hp hq => ?_, fun earlier u hq he hp hg ha hr hn hu => ⟨fun hm => ?_, fun hm hnil hs => ?_⟩,
    fun hi hb hp ha => ⟨fun hq hm => ?_, fun hq => ?_⟩, fun hi hp hn => ?_, fun cause tval hi hp hx => ?_, fun hi hp => ?_, fun hw => ?_,
    fun hk => ?_, fun hk => ?_⟩
  · refine (State.liveChip_live (fun c => c.doPassComplete t.val) hl).trans ?_
    rw [Chip.doPassComplete_written hp hq]
    rfl
  · refine (State.liveChip_live (fun c => c.doMvmulComplete t.val) hl).trans ?_
    rw [Chip.doMvmulComplete_port hq he hp hg ha hr hn hu hm]
    rfl
  · refine (State.liveChip_live (fun c => c.doMvmulComplete t.val) hl).trans ?_
    rw [Chip.doMvmulComplete_wide hq he hp hg ha hr hn hu hm hnil hs]
    rfl
  · have acts := exec_arrayHwFault t true hl
    rw [Chip.doArrayHwFault_mvp hi hb hp ha hq hm] at acts
    exact ⟨_, acts, rfl, rfl, rfl, rfl, rfl, rfl⟩
  · have acts := exec_arrayHwFault t false hl
    rw [Chip.doArrayHwFault_pass hi hb hp ha hq] at acts
    exact ⟨_, acts, rfl, rfl, rfl, rfl, rfl⟩
  · rw [exec_preemptRequest t hl, Chip.doPreemptRequest_stops hi hp hn]
    rfl
  · rw [exec_preemptRequest t hl, Chip.doPreemptRequest_excepts hi hp hx]
  · rw [exec_preemptRequest t hl, Chip.doPreemptRequest_paused hi hp]
    rfl
  · refine (State.liveChip_live (fun c => c.doPauseSegmentStart t.val) hl).trans ?_
    rw [Chip.doPauseSegmentStart_powered hw]
    rfl
  · rw [exec_pauseSegmentEnd t hl, Chip.doPauseSegmentEnd_free hk]
    rfl
  · rw [exec_pauseSegmentEnd t hl, Chip.doPauseSegmentEnd_asked hk]
    rfl

end Sys2Proof.Machine
end

section
/-!
A stopped item on its tile: dropped, saved to its slot, and resumed (04 R112, R114, 07 R198, 15 R399, R411).
-/

open Sys2Proof

namespace Sys2Proof.Machine

section Stopped

variable {c : Chip} {t : Nat} {k : Work} (hk : c.workOf (c.tileAt t).work = some k) (hi : (c.tileAt t).item = .saving)
  (hp : (c.tileAt t).paused = false) (ht : k.phys = t) (hd : (c.tileAt t).drained = true)
include hk hi hp ht hd

/-- A drained item that is to be dropped ends with its status (15 R411). -/
theorem Chip.doArrayStopped_dropped {status detail : Nat} (hx : k.drop = some (status, detail)) :
    c.doArrayStopped t = (c.setTile t { c.tileAt t with item := .ended status, arr := Arr.fresh }).workEnded t status detail := by
  rw [Chip.doArrayStopped, hk]
  refine (if_neg (by simp [hi, hp, ht, hd])).trans ?_
  rw [hx]

section Slot

variable (hx : k.drop = none) {o : Except VFault Chip}
  (ho : o = c.saveAll t k.ctx (c.ctxAt k.ctx).hint ((c.tileAt t).stopImages (c.slotOf k.ctx ((c.logicalOf t).getD 0))))
include hx ho

/-! In the two proofs below the writes of the images stand behind a name: the kernel would otherwise compute them. -/

/-- A drained item whose images reach its slot leaves the tile (04 R112 steps 5 and 6). -/
theorem Chip.doArrayStopped_saved {d : Chip} (h : o = .ok d) :
    c.doArrayStopped t = (d.setTile t { d.tileAt t with item := .saved }).setWork
      { k with preempted := true, phys := 200, sent := (c.tileAt t).sent } := by
  obtain ⟨saves, hs⟩ : ∃ f, f = Chip.saveAll := ⟨_, rfl⟩
  rw [Chip.doArrayStopped, hk, ← hs]
  rw [← hs] at ho
  refine (if_neg (by simp [hi, hp, ht, hd])).trans ?_
  rw [hx]
  dsimp only
  rw [← ho, h]

/-- A fault of the slot's pages ends the item (15 R399, assumption 61). -/
theorem Chip.doArrayStopped_fault {f : VFault} (h : o = .error f) :
    c.doArrayStopped t = ((c.ctxFaulted k.ctx f).setTile t { c.tileAt t with item := .ended (faultStatus f), arr := Arr.fresh }).workEnded t
      (faultStatus f) f.detail := by
  obtain ⟨saves, hs⟩ : ∃ f, f = Chip.saveAll := ⟨_, rfl⟩
  rw [Chip.doArrayStopped, hk, ← hs]
  rw [← hs] at ho
  refine (if_neg (by simp [hi, hp, ht, hd])).trans ?_
  rw [hx]
  dsimp only
  rw [← ho, h]

end Slot

end Stopped

/-- ARRAY_STOPPED on a calm package. -/
theorem exec_arrayStopped {s : State} (t : Fin 200) (hl : s.chip.live = true) (hc : s.calm = true) :
    exec (.arrayStopped t) s = .next (withChip s (s.chip.doArrayStopped t.val)) :=
  State.guarded_calm _ _ (fun c => c.doArrayStopped t.val) hl hc

/-- The controller of a tile as its save image gives it, running again (04 R114 step 1, 07 Table 7.13). -/
def Tile.resumed (v : Tile) (b : List Byte) (sent : Bool) : Tile :=
  { v with
    pc := fieldLE b 0 8, item := .running, sent := sent
    x := ((List.range 31).map (fun i => (i + 1, fieldLE b (8 * i + 8) 8))).filter (fun q => q.2 != 0) }

/-- A saved item whose image is read and whose entries pass their checks again goes on at its saved program counter (04 R114). -/
theorem Chip.doTileResume_resumed {c d : Chip} {t : Nat} {k : Work} {b : List Byte} {p : List Nat} {u1 u2 : Tile}
    (hf : c.fw.work.find? (fun w => w.phys == t && w.preempted && !w.switching) = some k) (hi : (c.tileAt t).item = .saved)
    (hk : (c.tileAt t).work = k.key)
    (hl : c.loadRange t k.ctx (c.slotOf k.ctx ((c.logicalOf t).getD 0) + 0x610000) 512 = .ok (d, b, p))
    (h1 : ((d.tileAt t).resumed b k.sent).reloadActive ((b.drop 256).take 160) = .ok u1)
    (h2 : u1.reissueAll ((b.drop 256).take 160) = .ok u2) :
    c.doTileResume t = ((d.setTile t ((d.tileAt t).resumed b k.sent)).setWork { k with preempted := false }).setTile t u2 := by
  rw [Tile.resumed] at h1
  rw [Chip.doTileResume, hf]
  refine (if_neg (by simp [hi, hk])).trans ?_
  rw [hl]
  dsimp only
  rw [h1]
  dsimp only
  rw [h2]
  rfl

/-- Settles O17: ARRAY_STOPPED by what is to become of the item and whether its slot can be written; TILE_RESUME from what it reads there. -/
theorem stoppedItemSavedOrDropped : Obligations.StoppedItemSavedOrDropped := by
  refine fun s t k hl hc => ⟨fun hk hi hp ht hd => ⟨fun status detail hx => ?_, fun o hx ho => ?_⟩,
    fun d b p u u1 u2 hf hi hk hr hu h1 h2 => ?_⟩
  · rw [exec_arrayStopped t hl hc, Chip.doArrayStopped_dropped hk hi hp ht hd hx]
    rfl
  · rw [exec_arrayStopped t hl hc]
    cases h : o with
    | ok d => rw [Chip.doArrayStopped_saved hk hi hp ht hd hx ho h]; rfl
    | error f => rw [Chip.doArrayStopped_fault hk hi hp ht hd hx ho h]; rfl
  · subst hu
    refine (State.guarded_calm _ _ (fun c => c.doTileResume t.val) hl hc).trans ?_
    rw [Chip.doTileResume_resumed hf hi hk hr h1 h2]
    rfl

end Sys2Proof.Machine
end

section
/-!
What the vector engine leaves of its tile as it was (06 R150, R159): everything but X registers, tile memory, accumulators and the engine's
own registers.
-/

open Sys2Proof

namespace Sys2Proof.Machine

/-- Steps that each leave what `g` reads alone leave it alone together. -/
theorem foldl_keeps {α β γ : Type} (g : β → γ) {f : β → α → β} (hf : ∀ b x, g (f b x) = g b) (l : List α) (b : β) :
    g (l.foldl f b) = g b :=
  (List.foldl_hom g (g₂ := fun a _ => a) fun b x => (hf b x).symm).symm.trans (List.foldl_fixed l)

/-- The part of the engine that its instructions do not write: the vector queue and the function tables. -/
def Vec.outside (v : Vec) : Vec := { Vec.fresh with q := v.q, ft := v.ft }

/-- The part of a tile that a vector instruction does not write, the rest blank. -/
def Tile.outside (v : Tile) : Tile := { v with x := [], mem := [], poison := [], acc := Acc.fresh, vec := v.vec.outside }

/-! What writes one part of the engine's -/

@[simp] theorem Vec.outside_setLane (v : Vec) (r j x : Nat) : (v.setLane r j x).outside = v.outside := rfl
@[simp] theorem Vec.outside_setMask (v : Vec) (k x : Nat) : (v.setMask k x).outside = v.outside := rfl
@[simp] theorem Tile.outside_putFields (v : Tile) (fs : List ((Nat × Nat × Nat) × Nat)) : (v.putFields fs).outside = v.outside := rfl
@[simp] theorem Tile.outside_vflag (v : Tile) (f : Nat) : (v.vflag f).outside = v.outside := rfl
@[simp] theorem Tile.outside_putBlocks (v : Tile) (x : VCtx) (w : View) (cs : List Nat) (els : List (Nat × FVal × Nat × Nat)) :
    (v.putBlocks x w cs els).outside = v.outside := rfl

@[simp] theorem Tile.outside_setMask (v : Tile) (k x : Nat) : ({ v with vec := v.vec.setMask k x } : Tile).outside = v.outside := rfl

/-- Lanes written one after another. -/
theorem Vec.outside_setLanes {α : Type} (r : Nat) (j x : α → Nat) (l : List α) (v : Vec) :
    (l.foldl (fun u a => u.setLane r (j a) (x a)) v).outside = v.outside :=
  foldl_keeps Vec.outside (fun _ _ => Vec.outside_setLane ..) l v

/-- New contents of the engine change nothing outside it where they keep the queue and the tables. -/
theorem Tile.outside_withVec (v : Tile) {w : Vec} (h : w.outside = v.vec.outside) : ({ v with vec := w } : Tile).outside = v.outside := by
  simp [Tile.outside, h]

@[simp] theorem Tile.outside_setX (v : Tile) (r n : Nat) : (v.setX r n).outside = v.outside := by
  unfold Tile.setX
  split <;> rfl

@[simp] theorem Tile.outside_putRow (v : Tile) (bank row : Nat) (cols : List (Nat × Nat)) :
    (v.putRow bank row cols).outside = v.outside := by
  unfold Tile.putRow
  split <;> rfl

@[simp] theorem Tile.outside_putEls (v : Tile) (w : View) (cs : List Nat) (els : List (Nat × Nat)) :
    (v.putEls w cs els).outside = v.outside := by
  unfold Tile.putEls
  split <;> simp

@[simp] theorem Tile.outside_putLanes (v : Tile) (n d : Nat) (active : List Nat) (rs : List (Nat × Nat)) :
    (v.putLanes n d active rs).outside = v.outside := by
  refine Tile.outside_withVec v ((Vec.outside_setLanes ..).trans ?_)
  split
  · exact Vec.outside_setLanes ..
  · rfl

/-! Descriptor and count form -/

@[simp] theorem Tile.outside_putResult (v : Tile) (x : VCtx) (w : View) (cs : List Nat) (free : Option Nat) (xs : List Nat) :
    (v.putResult x w cs free xs).outside = v.outside := by
  simp [Tile.putResult]

theorem VCtx.outside_strip (x : VCtx) (ws : List View) (thr free : Nat) (r : VRun) (s : List Nat × List Nat) :
    (x.strip ws thr free r s).v.outside = r.v.outside := by
  unfold VCtx.strip
  split
  · rfl
  · dsimp only
    split
    · rfl
    · split_ifs <;> simp

theorem VCtx.outside_gather (x : VCtx) (src : View) (r : VRun) (s : List Nat × List Nat) :
    (x.gather src r s).v.outside = r.v.outside := by
  unfold VCtx.gather
  split
  · rfl
  · split <;> simp

/-- Gathering a whole source writes flags alone. -/
theorem VCtx.outside_gathers (x : VCtx) (src : View) (l : List (List Nat × List Nat)) (r : VRun) :
    (l.foldl (x.gather src) r).v.outside = r.v.outside :=
  foldl_keeps (fun r : VRun => r.v.outside) (x.outside_gather src) l r

/-- The result of what was gathered is written unless poison stopped the gathering. -/
theorem VCtx.outside_resultOf (x : VCtx) (w : View) (cs : List Nat) (r : VRun) :
    (if r.stop.isSome then r else { r with v := r.v.putResult x w cs none r.xs }).v.outside = r.v.outside := by
  split
  · rfl
  · exact Tile.outside_putResult ..

theorem VCtx.outside_reduce (x : VCtx) (ws : List View) (free : Nat) (v : Tile) : (x.reduce ws free v).v.outside = v.outside := by
  unfold VCtx.reduce
  extract_lets w src start
  split
  · exact foldl_keeps Tile.outside (fun _ _ => Tile.outside_putResult ..) _ v
  · split
    · exact (x.outside_resultOf ..).trans (x.outside_gathers ..)
    · split
      · exact (x.outside_resultOf ..).trans (x.outside_gathers ..)
      · refine foldl_keeps (fun r : VRun => r.v.outside) (fun r cs => ?_) _ start
        dsimp only
        split
        · rfl
        · exact (x.outside_resultOf ..).trans (x.outside_gathers ..)

theorem VCtx.outside_triples (x : VCtx) (ws : List View) (v : Tile) : (x.triples ws v).v.outside = v.outside := by
  refine foldl_keeps (fun r : VRun => r.v.outside) (fun r cs => ?_) _ _
  dsimp only
  split
  · rfl
  · split
    · rfl
    · split <;> simp

/-! Register form -/

@[simp] theorem Tile.outside_permute (v : Tile) (n : Nat) : (v.permute n).outside = v.outside := by
  unfold Tile.permute
  extract_lets act idx inRange rs u w
  have written : w.outside = u.outside := by
    unfold w
    split <;> rfl
  rw [Tile.outside_vflag, written, Tile.outside_putLanes]

@[simp] theorem Tile.outside_moveReg (v : Tile) (n : Nat) (os : List VOpnd) : (v.moveReg n os).v.outside = v.outside := by
  unfold Tile.moveReg
  dsimp only
  split
  · split
    · rfl
    · exact Tile.outside_withVec v (Vec.outside_setLanes ..)
  · split
    · rfl
    · exact Tile.outside_withVec v (Vec.outside_setLanes ..)
  · simp
  · simp
  · rfl

@[simp] theorem Tile.outside_moveX (v : Tile) (n : Nat) (os : List VOpnd) : (v.moveX n os).outside = v.outside := by
  unfold Tile.moveX
  dsimp only
  split
  · simp
  · split <;> simp
  · simp
  · rfl
  · rfl
  · simp
  · exact Tile.outside_setX ..

theorem VCtx.outside_register (x : VCtx) (v : Tile) (os : List VOpnd) : (x.register v os).v.outside = v.outside := by
  unfold VCtx.register
  extract_lets n d act done lanesTo
  have outside_lanesTo (rs : List (Nat × Nat)) (f : Nat) : (lanesTo rs f).v.outside = v.outside :=
    (Tile.outside_vflag ..).trans (Tile.outside_putLanes ..)
  split <;> simp only [done, Tile.outside_permute, Tile.outside_moveReg, Tile.outside_moveX, Tile.outside_setMask, outside_lanesTo]
  split <;> exact outside_lanesTo ..

/-- Whatever a vector instruction does, it writes X registers, tile memory, accumulators and the engine's registers alone. -/
theorem outside_vecRun (seed free : Nat) (v : Tile) (e : VqEnt) : (vecRun seed free v e).1.v.outside = v.outside := by
  unfold vecRun
  dsimp only
  split_ifs
  · exact VCtx.outside_register ..
  · exact VCtx.outside_reduce ..
  · exact VCtx.outside_triples ..
  · exact foldl_keeps (fun r : VRun => r.v.outside) (VCtx.outside_strip _ _ _ _) _ _

end Sys2Proof.Machine
end

section
/-!
The vector queue (06 R150, R151, R159, 07 R194): what an instruction that passes its checks puts at its end, and what runs from it.
-/

open Sys2Proof

namespace Sys2Proof.Machine

/-- Each vector instruction is the operation of its row of the command table. -/
theorem exec_vectorRow {p : (Fin 200 → BitVec 64 → Instr) × Nat} (hp : p ∈ vectorRows) (s : State) (t : Fin 200) (w : BitVec 64) :
    exec (p.1 t w) s = s.liveChip (fun c => c.vec t.val w p.2) := by
  fin_cases hp <;> rfl

/-! Issue -/

/-- A tile after a vector instruction has entered its queue. -/
def Tile.vecEntered (v : Tile) (n : Nat) (os : List VOpnd) : Tile :=
  { v with serial := v.serial + 1, pc := v.pc + 8, vec := { v.vec with q := v.vec.q ++ [vecEntry v n os] } }

theorem Tile.vecEntered_empty {v : Tile} (n : Nat) (os : List VOpnd) (h : v.vec.q = []) : v.vecEntered n os = vecQueued v n os := by
  simp [Tile.vecEntered, vecQueued, h]

/-- An instruction whose operands pass enters a queue with room; what can run does, and a running controller goes on behind it. -/
theorem Chip.vecIssue_ok {c : Chip} {t n : Nat} {os : List VOpnd} (hk : (c.tileAt t).vecCheck n = .ok os)
    (hr : (c.tileAt t).vec.q.length < 4) {d : Chip} (hd : d = (c.setTile t ((c.tileAt t).vecEntered n os)).vecSettle t)
    (hi : (d.tileAt t).item = .running) : c.vecIssue t n = d.goto t (d.tileAt t).pc := by
  subst hd
  unfold Chip.vecIssue
  dsimp only
  rw [hk]
  exact (if_neg (by omega)).trans (if_pos hi)

/-- A vector instruction that is the next to issue is what the queue makes of it. -/
theorem exec_vec {p : (Fin 200 → BitVec 64 → Instr) × Nat} (hp : p ∈ vectorRows) {s : State} {t : Fin 200} {w : BitVec 64}
    (hl : s.chip.live = true) (hi : (tileOf s t).issues w (vXregs w.toNat) = true) (hc : iClass w.toNat = 3)
    (hr : vRow w.toNat = p.2) : exec (p.1 t w) s = .next (withChip s (s.chip.vecIssue t.val w.toNat)) := by
  rw [exec_vectorRow hp, State.liveChip_live _ hl]
  have issued : s.chip.vec t.val w p.2 = s.chip.vecIssue t.val w.toNat := if_pos (by rw [tileOf] at hi; simp [hi, hc, hr])
  rw [issued]
  rfl

/-- A tile that issues runs an item, and neither a wait, an exception nor a pause holds it. -/
theorem Tile.running_of_issues {v : Tile} {w : BitVec 64} {regs : List Nat} (h : v.issues w regs = true) :
    v.item = .running ∧ v.blocked = none ∧ v.pend = none ∧ v.paused = false := by
  simp only [Tile.issues, Tile.ready, Bool.and_eq_true, beq_iff_eq, Option.isNone_iff_eq_none, Bool.not_eq_true'] at h
  obtain ⟨⟨⟨⟨⟨⟨⟨⟨hitem, hblocked⟩, hpend⟩, hpaused⟩, -⟩, -⟩, -⟩, -⟩, -⟩ := h
  exact ⟨hitem, hblocked, hpend, hpaused⟩

/-! What runs from the queue -/

/-- Where every entry has executed, nothing runs. -/
theorem Chip.vecStep_idle {c : Chip} {t : Nat} (h : (c.tileAt t).vec.q.find? (fun e => !e.done) = none) : c.vecStep t = c := by
  unfold Chip.vecStep
  dsimp only
  rw [h]

/-- Once every entry has executed, the queue is settled. -/
theorem Chip.vecSettle_once {c d : Chip} {t : Nat} (hs : c.vecStep t = d) (h : (d.tileAt t).vec.q.find? (fun e => !e.done) = none) :
    c.vecSettle t = d := by
  simp only [Chip.vecSettle, hs, Chip.vecStep_idle h]

section Step

variable {c : Chip} {t : Nat} {v : Tile} {e : VqEnt} {r : VRun × Nat} (hv : c.tileAt t = v)
  (he : v.vec.q.find? (fun e => !e.done) = some e) (hp : v.paused = false) (hw : v.vecWaits e = false) (hx : e.wsr = none)
  (hr : r = vecRun (c.ctxAt v.ctx).seed c.free v e)
include hv he hp hw hx hr

/-- The first entry that has not executed runs where nothing holds it, and is then marked (06 R150). -/
theorem Chip.vecStep_runs (hs : r.1.stop = none) :
    c.vecStep t = (c.setTile t { r.1.v with vec := { r.1.v.vec with
      q := r.1.v.vec.q.map (fun y => if y.serial = e.serial then { y with done := true } else y) } }).took r.2 := by
  subst hv hr
  unfold Chip.vecStep
  dsimp only
  rw [he]
  refine (if_neg (by simp [hp, hw])).trans ?_
  rw [hx]
  dsimp only
  rw [hs]

/-- Poison stops it and discards it with every later entry (06 R159). -/
theorem Chip.vecStep_poison {tval : Nat} (hs : r.1.stop = some tval) :
    c.vecStep t = ((c.setTile t { r.1.v with vec := { r.1.v.vec with
      q := r.1.v.vec.q.filter (fun y => decide (y.serial < e.serial)) } }).took r.2).detect t exPoison tval := by
  subst hv hr
  unfold Chip.vecStep
  dsimp only
  rw [he]
  refine (if_neg (by simp [hp, hw])).trans ?_
  rw [hx]
  dsimp only
  rw [hs]

end Step

@[simp] theorem Chip.tileAt_took (c : Chip) (k t : Nat) : (c.took k).tileAt t = c.tileAt t := rfl

/-- Free values are counted apart from the tiles. -/
theorem Chip.setTile_took (c : Chip) (k t : Nat) (v : Tile) : (c.took k).setTile t v = (c.setTile t v).took k := rfl

/-- An exception of a running controller that nothing blocks and that has none pending waits for the next instruction boundary. -/
theorem Chip.detect_pends {c : Chip} {t k cause tval : Nat} {u : Tile} (hi : u.item = .running) (hb : u.blocked = none)
    (hp : u.pend = none) :
    ((c.setTile t u).took k).detect t cause tval = (c.setTile t { u with pend := some (cause, tval) }).took k := by
  simp [Chip.detect, hi, hb, hp, Chip.setTile_took]

section Alone

variable {c : Chip} {t n : Nat} {os : List VOpnd} {r : VRun × Nat} {w : BitVec 64} {regs : List Nat}
  (hk : (c.tileAt t).vecCheck n = .ok os) (hpc : (c.tileAt t).pc + 8 < 0x10000) (hq : (c.tileAt t).vec.q = [])
include hk hpc hq

/-- An instruction that enters an empty queue and needs one step there leaves what that step makes of its tile. -/
theorem Chip.vecIssue_settled {u : Tile} {k : Nat} (hu : u.item = .running) (hp : u.pc = (c.tileAt t).pc + 8)
    (hd : u.vec.q.find? (fun e => !e.done) = none)
    (hs : (c.setTile t (vecQueued (c.tileAt t) n os)).vecStep t = (c.setTile t u).took k) :
    c.vecIssue t n = (c.setTile t u).took k := by
  have settled := Chip.vecSettle_once hs (by simpa using hd)
  have own : ((c.setTile t u).took k).tileAt t = u := Chip.tileAt_setTile_same ..
  have inside : u.pc < 0x10000 := by omega
  rw [Chip.vecIssue_ok hk (by simp [hq]) (by rw [Tile.vecEntered_empty n os hq, settled]) (by rw [own, hu]),
    Chip.goto_inside _ _ _ (by rw [own]; exact inside), own, Chip.setTile_took, Chip.setTile_setTile]

variable (hi : (c.tileAt t).issues w regs = true) (ha : (c.tileAt t).arr.q = []) (hm : (c.tileAt t).mover = [])
  (hr : r = vecRun (c.ctxAt (c.tileAt t).ctx).seed c.free (vecQueued (c.tileAt t) n os) (vecEntry (c.tileAt t) n os))
include hi ha hm hr

/-- With nothing ahead of it, an instruction runs as it issues, and its entry stays as executed. -/
theorem Chip.vecIssue_runs (hs : r.1.stop = none) :
    c.vecIssue t n = (c.setTile t
      { r.1.v with vec := { r.1.v.vec with q := [{ vecEntry (c.tileAt t) n os with done := true }] } }).took r.2 := by
  obtain ⟨hitem, -, -, hpaused⟩ := Tile.running_of_issues hi
  have kept : r.1.v.outside = (vecQueued (c.tileAt t) n os).outside := by rw [hr]; exact outside_vecRun ..
  have queue : r.1.v.vec.q = [vecEntry (c.tileAt t) n os] := congrArg (·.vec.q) kept
  have ran := Chip.vecStep_runs (Chip.tileAt_setTile_same c t (vecQueued (c.tileAt t) n os)) (e := vecEntry (c.tileAt t) n os) rfl
    hpaused (by simp [Tile.vecWaits, vecQueued, ha, hm]) rfl hr hs
  refine Chip.vecIssue_settled hk hpc hq ((congrArg Tile.item kept).trans hitem) (congrArg Tile.pc kept) rfl (ran.trans ?_)
  rw [queue, Chip.setTile_setTile, List.map_singleton, if_pos rfl]

/-- With nothing ahead of it, an instruction that meets poison leaves the queue empty and POISON pending. -/
theorem Chip.vecIssue_poison {tval : Nat} (hs : r.1.stop = some tval) :
    c.vecIssue t n = (c.setTile t
      { r.1.v with pend := some (exPoison, tval), vec := { r.1.v.vec with q := [] } }).took r.2 := by
  obtain ⟨hitem, hblocked, hpend, hpaused⟩ := Tile.running_of_issues hi
  have kept : r.1.v.outside = (vecQueued (c.tileAt t) n os).outside := by rw [hr]; exact outside_vecRun ..
  have queue : r.1.v.vec.q = [vecEntry (c.tileAt t) n os] := congrArg (·.vec.q) kept
  have item : r.1.v.item = .running := (congrArg Tile.item kept).trans hitem
  have discarded : r.1.v.vec.q.filter (fun y => decide (y.serial < (vecEntry (c.tileAt t) n os).serial)) = [] := by simp [queue]
  have stopped := Chip.vecStep_poison (Chip.tileAt_setTile_same c t (vecQueued (c.tileAt t) n os)) (e := vecEntry (c.tileAt t) n os) rfl
    hpaused (by simp [Tile.vecWaits, vecQueued, ha, hm]) rfl hr hs
  refine Chip.vecIssue_settled hk hpc hq item (congrArg Tile.pc kept) rfl (stopped.trans ?_)
  rw [discarded, Chip.setTile_setTile]
  exact Chip.detect_pends item ((congrArg Tile.blocked kept).trans hblocked) ((congrArg Tile.pend kept).trans hpend)

end Alone

/-- Settles O18: each row issues into the queue (`exec_vec`); on an empty queue it runs or meets poison there (`Chip.vecIssue_runs`,
`Chip.vecIssue_poison`); and the rest of the tile is what `outside_vecRun` keeps. -/
theorem vectorInstructionsRun : Obligations.VectorInstructionsRun := by
  refine ⟨fun p hp s t w os r hl hi hc hrow hk hpc => ⟨fun c hroom hset hitem => ?_, fun hq ha hm hr => ⟨fun hs => ?_, fun tval hs => ?_⟩⟩,
    fun seed free v e => ?_⟩
  · rw [exec_vec hp hl hi hc hrow, Chip.vecIssue_ok hk hroom hset hitem]
  · rw [exec_vec hp hl hi hc hrow, Chip.vecIssue_runs hk hpc hq hi ha hm hr hs, tileOf]
  · rw [exec_vec hp hl hi hc hrow, Chip.vecIssue_poison hk hpc hq hi ha hm hr hs]
  · have kept := outside_vecRun seed free v e
    generalize (vecRun seed free v e).1.v = u at kept ⊢
    exact ⟨congrArg (·.pc) kept, congrArg (·.item) kept, congrArg (·.imem) kept, congrArg (·.mover) kept, congrArg (·.arr) kept,
      congrArg (·.held) kept, congrArg (·.vec.ft) kept, congrArg (·.vec.q) kept⟩

end Sys2Proof.Machine
end

section
/-!
Mask registers, SETVL, the waits on the vector queue, and the banks of the function tables (06 R148, R150, R162, R173, R174, Table 6.5).
-/

open Sys2Proof

namespace Sys2Proof.Machine

/-- A command in service makes of the package what its operation does. -/
theorem exec_live {s : State} {i : Instr} (f : Chip → Chip) {d : Chip} (hl : s.chip.live = true) (hi : exec i s = s.liveChip f)
    (hd : f s.chip = d) : exec i s = .next (withChip s d) := by
  rw [hi, State.liveChip_live f hl, hd]
  rfl

/-! Masks (06 Table 6.5) -/

/-- A number built from bits by OR has just these, beside those that it had. -/
theorem testBit_foldl_or (l : List Nat) (m j : Nat) : (l.foldl (fun m i => m ||| 2 ^ i) m).testBit j = (m.testBit j || l.contains j) := by
  induction l generalizing m with
  | nil => simp
  | cons i r ih =>
    rw [List.foldl_cons, ih, Nat.testBit_or, Nat.testBit_two_pow, Bool.or_assoc]
    simp [eq_comm]

theorem testBit_maskOfLanes (l : List Nat) (j : Nat) : (maskOfLanes l).testBit j = l.contains j := by
  simp [maskOfLanes, testBit_foldl_or]

/-- The bits that a number shares with another, taken away from it, leave those that it does not. -/
theorem testBit_sub_and (a b j : Nat) : (a - (a &&& b)).testBit j = (a.testBit j && !b.testBit j) := by
  have shared_le : a &&& b ≤ a := Nat.and_le_left
  have shared_odd : (a &&& b) % 2 = 1 ↔ a % 2 = 1 ∧ b % 2 = 1 := Nat.and_mod_two_eq_one
  induction j generalizing a b with
  | zero =>
    rw [Bool.eq_iff_iff]
    simp only [Nat.testBit_zero, Bool.and_eq_true, Bool.not_eq_true', decide_eq_true_eq, decide_eq_false_iff_not]
    omega
  | succ j ih =>
    have half : (a - (a &&& b)) / 2 = a / 2 - (a / 2 &&& b / 2) := by
      rw [← Nat.and_div_two]
      omega
    simp only [Nat.testBit_succ, half]
    exact ih (a / 2) (b / 2) Nat.and_le_left Nat.and_mod_two_eq_one

theorem bit_sub_and (a b j : Nat) : bit (a - (a &&& b)) j = (bit a j && !bit b j) := by
  simp only [bit_eq_testBit, testBit_sub_and]

/-- Active bits come from the new value and the others from the old. -/
theorem bit_mergeMask (old x : Nat) (act : List Nat) (j : Nat) :
    bit (mergeMask old x act) j = if act.contains j then bit x j else bit old j := by
  have kept := bit_sub_and old (maskOfLanes act) j
  simp only [bit_eq_testBit, testBit_maskOfLanes] at kept ⊢
  rw [mergeMask, Nat.testBit_or, kept, Nat.testBit_and, testBit_maskOfLanes]
  cases act.contains j <;> simp

/-- A mask operation on one bit of each operand. -/
def maskBit (sub : Nat) (p q : Bool) : Bool :=
  match sub with
  | 0 => p && q
  | 1 => p || q
  | 2 => xor p q
  | _ => p && !q

/-- Each mask operation acts bit by bit. -/
theorem bit_maskOp (sub a b j : Nat) : bit (maskOp sub a b) j = maskBit sub (bit a j) (bit b j) := by
  match sub with
  | 0 => simp [maskOp, maskBit, bit_eq_testBit]
  | 1 => simp [maskOp, maskBit, bit_eq_testBit]
  | 2 => simp [maskOp, maskBit, bit_eq_testBit]
  | _ + 3 => exact bit_sub_and a b j

/-- A mask register has 128 bits, and reads back what was written to them (06 R148). -/
theorem Vec.bit_mask_setMask (v : Vec) (k x : Nat) {j : Nat} (hj : j < 128) : bit ((v.setMask k x).mask k) j = bit x j := by
  rw [Vec.mask, Vec.setMask, tabGet_tabSet_same, bit_eq_testBit, Nat.testBit_mod_two_pow, bit_eq_testBit]
  simp [hj]

/-- The mask operations write one mask register. -/
theorem Tile.moveX_masks (v : Tile) {n : Nat} (os : List VOpnd) (h : vVop n = 0x16) :
    (v.moveX n os).vec = v.vec.setMask (vField n 0) (mergeMask (v.vec.mask (vField n 0))
      (maskOp (vSub n) (v.vec.mask (vField n 1)) (v.vec.mask (vField n 2))) (v.lanes n)) := by
  simp [Tile.moveX, h]

/-- The bits of the destination after a mask operation: those of the operation at active lanes, its own elsewhere. -/
theorem Tile.bit_moveX_masks (v : Tile) {n j : Nat} (os : List VOpnd) (h : vVop n = 0x16) (hj : j < 128) :
    bit ((v.moveX n os).vec.mask (vField n 0)) j =
      if (v.lanes n).contains j then maskBit (vSub n) (bit (v.vec.mask (vField n 1)) j) (bit (v.vec.mask (vField n 2)) j)
      else bit (v.vec.mask (vField n 0)) j := by
  rw [v.moveX_masks os h, Vec.bit_mask_setMask _ _ _ hj, bit_mergeMask, bit_maskOp]

/-! SETVL (06 R148) -/

theorem clampN_eq_max_min {lo hi : Nat} (h : lo ≤ hi) (v : Nat) : clampN v lo hi = max lo (min v hi) := by
  unfold clampN
  split_ifs <;> omega

@[simp] theorem Tile.setX_vec (v : Tile) (r x : Nat) : (v.setX r x).vec = v.vec := by unfold Tile.setX; split <;> rfl

/-- SETVL writes the clamped length to VL and to its X register. -/
theorem Tile.moveX_setvl (v : Tile) {n x : Nat} {os : List VOpnd} (h : vVop n = 0x18) (hx : os.getD 1 .none = .scalar x) :
    v.moveX n os = ({ v with vec := { v.vec with vl := max 1 (min x 128) } } : Tile).setX (vField n 0) (max 1 (min x 128)) := by
  rw [← clampN_eq_max_min (by decide)]
  simp only [Tile.moveX, h, hx]

/-! The vector queue (06 R150) -/

/-- The vector-wait moves on when the vector queue is empty, and otherwise blocks issue. -/
theorem exec_vectorWait {s : State} {t : Fin 200} (hl : s.chip.live = true) (hr : (tileOf s t).ready = true)
    (hpc : (tileOf s t).pc + 8 < 0x10000) :
    exec (.vectorWait t) s = .next (withTile s t
      (if (tileOf s t).vec.q.isEmpty then { tileOf s t with pc := (tileOf s t).pc + 8 }
       else { tileOf s t with blocked := some .vwait })) := by
  have effect : s.chip.doVectorWait t.val = if (tileOf s t).vec.q.isEmpty then s.chip.retire t.val (tileOf s t)
      else s.chip.setTile t.val { tileOf s t with blocked := some .vwait } := if_pos hr
  rw [exec_live (fun c => c.doVectorWait t.val) hl rfl effect]
  split
  · exact congrArg _ (retire_withTile hpc rfl)
  · rfl

/-- The oldest entry of a settled queue leaves it once it has executed; then table writes are released and what waited goes on. -/
theorem Chip.doVectorComplete_done {c d : Chip} {t : Nat} {e : VqEnt} {rest : List VqEnt} (hd : d = c.vecSettle t)
    (hq : (d.tileAt t).vec.q = e :: rest) (he : e.done = true) (hp : (d.tileAt t).paused = false) :
    c.doVectorComplete t = ((((d.setTile t ((((({ d.tileAt t with vec := { (d.tileAt t).vec with q := rest } } : Tile).releaseHeld
      0).releaseHeld 1).releaseHeld 2).releaseHeld 3)).vecSettle t).unblock t).settleEnd t) := by
  subst hd
  unfold Chip.doVectorComplete
  dsimp only
  rw [hq]
  exact if_neg (by simp [hp, he])

/-! The function tables (06 R173, R174) -/

section Tables

variable {c : Chip} {t k : Nat}

/-- Between an accepted flip request and the flip a write is refused. -/
theorem Chip.doFtWrite_asked (i : Nat) (d : BitVec 128) (ha : ((c.tileAt t).vec.table k).asked = true) :
    c.doFtWrite t k i d = c.answer [1] := if_pos ha

/-- While a running instruction still reads the back bank, a write is held. -/
theorem Chip.doFtWrite_held (i : Nat) (d : BitVec 128) (ha : ((c.tileAt t).vec.table k).asked = false)
    (hb : (c.tileAt t).vec.readsBack k = true) :
    c.doFtWrite t k i d = (c.setTile t ((c.tileAt t).setTable k { (c.tileAt t).vec.table k with
      closed := false, held := ((c.tileAt t).vec.table k).held ++ [(16 * i, leBytes 16 d.toNat)] })).answer [0] :=
  (if_neg (by simp [ha])).trans (if_pos hb)

/-- Otherwise it goes into the back bank. -/
theorem Chip.doFtWrite_back (i : Nat) (d : BitVec 128) (ha : ((c.tileAt t).vec.table k).asked = false)
    (hb : (c.tileAt t).vec.readsBack k = false) :
    c.doFtWrite t k i d = (c.setTile t ((c.tileAt t).setTable k { (c.tileAt t).vec.table k with
      closed := false, back := ((c.tileAt t).vec.table k).back.writeN (16 * i) (leBytes 16 d.toNat) })).answer [0] :=
  (if_neg (by simp [ha])).trans (if_neg (by simp [hb]))

/-- With no flip requested, a request closes the back bank of its table. -/
theorem Chip.doFtFlipRequest_accepted (ha : ∀ j < 4, ((c.tileAt t).vec.table j).asked = false) :
    c.doFtFlipRequest t k =
      (c.setTile t ((c.tileAt t).setTable k { (c.tileAt t).vec.table k with closed := true, asked := true })).answer [0] := by
  refine if_neg ?_
  simp [ha]

end Tables

/-- A table after its banks have exchanged roles. -/
def FTab.flipped (f : FTab) : FTab :=
  { front := f.back, back := f.front, gen := (f.gen + 1) % 2 ^ 32, closed := false, asked := false, held := [] }

/-- The queue after a flip of a table: an instruction that has started on it keeps its bank. -/
def onOldBank (k : Nat) (q : List VqEnt) : List VqEnt :=
  q.map (fun e => if e.done && e.wsr.isNone && vVop e.w == 7 && vSub e.w % 4 == k && e.ftOld.isNone then { e with ftOld := some k } else e)

theorem serial_onOldBank (k : Nat) (q : List VqEnt) : (onOldBank k q).map (·.serial) = q.map (·.serial) := by
  rw [onOldBank, List.map_map]
  refine List.map_congr_left fun e _ => ?_
  simp only [Function.comp_apply]
  split <;> rfl

/-- A tile after the flip of a table (06 R174). -/
def Tile.flip (v : Tile) (k : Nat) : Tile :=
  { v with vec := { v.vec with ft := tabSet v.vec.ft k (v.vec.table k).flipped, q := onOldBank k v.vec.q } }

/-- A requested flip is made once every earlier write has completed. -/
theorem Chip.doFtFlip_flips {c : Chip} {t k : Nat} (ha : ((c.tileAt t).vec.table k).asked = true)
    (hh : ((c.tileAt t).vec.table k).held = []) : c.doFtFlip t k = c.setTile t ((c.tileAt t).flip k) :=
  if_pos (by simp [ha, hh])

/-- Settles O19: masks bit by bit (`Tile.bit_moveX_masks`), the length by the clamp (`Tile.moveX_setvl`), the queue and the tables each by
what the command does in the case stated. -/
theorem vectorMasksQueueAndTables : Obligations.VectorMasksQueueAndTables := by
  refine ⟨fun v n j os hj => ⟨fun h _ => v.bit_moveX_masks os h hj, fun x h hx hd => ?_⟩, fun s t k i d e hl =>
    ⟨exec_vectorWait hl, fun c rest hc hq he hp => ?_, fun ha hb => ?_, fun ha hb => ?_, fun ha => ?_, fun ha => ?_, fun ha hh => ?_⟩⟩
  · rw [v.moveX_setvl h hx, Tile.setX_vec, Tile.xr_setX_same _ _ hd]
    exact ⟨rfl, Nat.mod_eq_of_lt (by omega)⟩
  · exact exec_live (fun c => c.doVectorComplete t.val) hl rfl (Chip.doVectorComplete_done hc hq he hp)
  · exact exec_live (fun c => c.doFtWrite t.val k.val i.val d) hl rfl (Chip.doFtWrite_held i.val d ha hb)
  · exact exec_live (fun c => c.doFtWrite t.val k.val i.val d) hl rfl (Chip.doFtWrite_back i.val d ha hb)
  · exact exec_live (fun c => c.doFtWrite t.val k.val i.val d) hl rfl (Chip.doFtWrite_asked i.val d ha)
  · exact exec_live (fun c => c.doFtFlipRequest t.val k.val) hl rfl (Chip.doFtFlipRequest_accepted ha)
  · refine ⟨(tileOf s t).flip k.val, exec_live (fun c => c.doFtFlip t.val k.val) hl rfl (Chip.doFtFlip_flips ha hh), ?_,
      fun j hj => ?_, ?_, rfl, rfl⟩
    · exact tabGet_tabSet_same ..
    · exact tabGet_tabSet_other _ _ _ hj.symm
    · exact serial_onOldBank ..

end Sys2Proof.Machine
end

section
/-!
The rest of 07: the functions of ALU and ALUI on 64-bit words (Table 7.4), scalar loads and stores with their traps (R182), and the
state registers (R183, Table 7.5).
-/

open Sys2Proof

namespace Sys2Proof.Machine

/-! The functions of ALU and ALUI (07 Table 7.4) -/

/-- The signed reading of a register is the word's own. -/
@[simp] theorem s64_toNat (a : BitVec 64) : s64 a.toNat = a.toInt := by simp [s64]

section Rows

variable (a b : Nat)

/-- By rewriting to its row: comparing the two sides by computation would count 2^64 down in unary. -/
theorem aluF_sub : aluF 1 a b = (a + 2 ^ 64 - b) % 2 ^ 64 := by
  unfold aluF
  simp only

theorem aluF_sll : aluF 5 a b = a * 2 ^ (b % 64) % 2 ^ 64 := rfl
theorem aluF_srl : aluF 6 a b = a / 2 ^ (b % 64) := rfl
theorem aluF_sra : aluF 7 a b = ((BitVec.ofNat 64 a).sshiftRight (b % 64)).toNat := rfl
theorem aluF_slt : aluF 10 a b = b2n (decide (s64 a < s64 b)) := rfl
theorem aluF_sltu : aluF 11 a b = b2n (decide (a < b)) := rfl
theorem aluF_min : aluF 12 a b = if s64 a < s64 b then a else b := rfl
theorem aluF_max : aluF 13 a b = if s64 a < s64 b then b else a := rfl

end Rows

theorem b2n_decide (p : Prop) [Decidable p] : b2n (decide p) = if p then 1 else 0 := by simp only [b2n, decide_eq_true_eq]

/-- Addition, subtraction and both halves of the product are those of words. -/
theorem aluF_arithmetic (a b : BitVec 64) :
    aluF 0 a.toNat b.toNat = (a + b).toNat ∧ aluF 1 a.toNat b.toNat = (a - b).toNat ∧
      aluF 8 a.toNat b.toNat = (a * b).toNat ∧ aluF 9 a.toNat b.toNat = a.toNat * b.toNat / 2 ^ 64 := by
  refine ⟨(BitVec.toNat_add a b).symm, ?_, (BitVec.toNat_mul a b).symm, rfl⟩
  have hb : b.toNat < 2 ^ 64 := b.isLt
  rw [aluF_sub, BitVec.toNat_sub]
  omega

/-- AND, OR and XOR act bit by bit. -/
theorem aluF_bitwise (a b : BitVec 64) :
    aluF 2 a.toNat b.toNat = (a &&& b).toNat ∧ aluF 3 a.toNat b.toNat = (a ||| b).toNat ∧
      aluF 4 a.toNat b.toNat = (a ^^^ b).toNat :=
  ⟨(BitVec.toNat_and a b).symm, (BitVec.toNat_or a b).symm, (BitVec.toNat_xor a b).symm⟩

/-- A shift counts modulo 64; to the right it fills with zeros or with the sign. -/
theorem aluF_shift (a b : BitVec 64) :
    aluF 5 a.toNat b.toNat = (a <<< (b.toNat % 64)).toNat ∧ aluF 6 a.toNat b.toNat = (a >>> (b.toNat % 64)).toNat ∧
      aluF 7 a.toNat b.toNat = (a.sshiftRight (b.toNat % 64)).toNat := by
  refine ⟨?_, ?_, ?_⟩
  · rw [aluF_sll, BitVec.toNat_shiftLeft, Nat.shiftLeft_eq]
  · rw [aluF_srl, BitVec.toNat_ushiftRight, Nat.shiftRight_eq_div_pow]
  · rw [aluF_sra, BitVec.ofNat_toNat, BitVec.setWidth_eq]

/-- Comparisons, minimum and maximum read both words signed or both unsigned. -/
theorem aluF_order (a b : BitVec 64) :
    aluF 10 a.toNat b.toNat = (if a.toInt < b.toInt then 1 else 0) ∧
      aluF 11 a.toNat b.toNat = (if a.toNat < b.toNat then 1 else 0) ∧
      aluF 12 a.toNat b.toNat = (if a.toInt < b.toInt then a.toNat else b.toNat) ∧
      aluF 13 a.toNat b.toNat = (if a.toInt < b.toInt then b.toNat else a.toNat) ∧
      aluF 14 a.toNat b.toNat = min a.toNat b.toNat ∧ aluF 15 a.toNat b.toNat = max a.toNat b.toNat := by
  refine ⟨?_, ?_, ?_, ?_, rfl, rfl⟩
  · rw [aluF_slt, b2n_decide, s64_toNat, s64_toNat]
  · rw [aluF_sltu, b2n_decide]
  · rw [aluF_min, s64_toNat, s64_toNat]
  · rw [aluF_max, s64_toNat, s64_toNat]

/-- Settles O6: the table's rows are those of arithmetic, of bits, of shifts and of order. -/
theorem aluFunctionsAreTheTables : Obligations.AluFunctionsAreTheTables := by
  intro a b
  obtain ⟨add, sub, mul, mulhu⟩ := aluF_arithmetic a b
  obtain ⟨and, or, xor⟩ := aluF_bitwise a b
  obtain ⟨sll, srl, sra⟩ := aluF_shift a b
  exact ⟨add, sub, and, or, xor, sll, srl, sra, mul, mulhu, aluF_order a b⟩

/-! Scalar loads and stores (07 R182) -/

/-- The checks that LD and ST share, in their order, before an access at `a` is made. -/
def Chip.scalarAccess (c : Chip) (t : Nat) (v : Tile) (size a : Nat) (access : Chip) : Chip :=
  if a % size ≠ 0 then c.takeExc t exMisaligned a
  else if tmemSize < a + size then c.takeExc t exBounds (max a tmemSize)
  else if v.vec.q.any (fun e => e.writesTmem a (a + size)) then c
  else access

section Access

variable (c : Chip) (t : Nat) {v : Tile} {size a : Nat} (access : Chip)

/-- An access that is not aligned to its size is MISALIGNED, wherever it lies. -/
theorem Chip.scalarAccess_misaligned (h : a % size ≠ 0) :
    c.scalarAccess t v size a access = c.takeExc t exMisaligned a := if_pos h

/-- An aligned access that reaches beyond tile memory is out of bounds from the first byte beyond. -/
theorem Chip.scalarAccess_beyond (h : a % size = 0) (hb : tmemSize < a + size) :
    c.scalarAccess t v size a access = c.takeExc t exBounds (max a tmemSize) :=
  (if_neg (not_not.mpr h)).trans (if_pos hb)

/-- An aligned access inside tile memory that no vector write stands before is made. -/
theorem Chip.scalarAccess_made (h : a % size = 0) (hb : a + size ≤ tmemSize)
    (hq : v.vec.q.any (fun e => e.writesTmem a (a + size)) = false) : c.scalarAccess t v size a access = access := by
  rw [Chip.scalarAccess, if_neg (not_not.mpr h), if_neg (Nat.not_lt.mpr hb), hq]
  rfl

end Access

/-- What LD writes: the bytes of its range, sign-extended from their highest bit when asked (07 R182). -/
def Tile.loaded (v : Tile) (size a : Nat) (signed : Bool) : Nat :=
  if signed && bit (v.mem.readLE a size) (8 * size - 1) then v.mem.readLE a size + (2 ^ 64 - 2 ^ (8 * size)) else v.mem.readLE a size

section ScalarAccess

variable {s : State} {t : Fin 200} {w : BitVec 64} {size a : Nat} (hs : size = 2 ^ bits (iFunc w.toNat) 1 0)
  (ha : a = ((tileOf s t).xr (iRs1 w.toNat) + iImm w.toNat) % 2 ^ 64)
include hs ha

/-- A legal LD reads its range, unless it is poisoned, once the access is allowed. -/
theorem exec_ld (h : ctlAt s t w 0x08) (h2 : iRs2 w.toNat = 0) (h3 : bit (iFunc w.toNat) 3 = false)
    (h8 : size = 8 → bit (iFunc w.toNat) 2 = false) :
    exec (.ld t w) s = .next (withChip s (s.chip.scalarAccess t.val (tileOf s t) size a
      (if (tileOf s t).poisonedN a size then s.chip.takeExc t.val exPoison (a + 2 ^ 63)
       else s.chip.retire t.val ((tileOf s t).setX (iRd w.toNat) ((tileOf s t).loaded size a (bit (iFunc w.toNat) 2)))))) := by
  subst hs ha
  have hw : (bits (iFunc w.toNat) 1 0 == 3 && bit (iFunc w.toNat) 2) = false := by
    cases hb : bits (iFunc w.toNat) 1 0 == 3
    · rfl
    · exact h8 (by rw [eq_of_beq hb]; rfl)
  rw [exec_ctl h Chip.doLd rfl (by rw [Chip.doLd]) (by simp [h2, h3, hw])]
  rfl

/-- A legal ST writes its range once the access is allowed. -/
theorem exec_st (h : ctlAt s t w 0x09) (hd : iRd w.toNat = 0) (hf : bits (iFunc w.toNat) 3 2 = 0) :
    exec (.st t w) s = .next (withChip s (s.chip.scalarAccess t.val (tileOf s t) size a (s.chip.retire t.val
      { tileOf s t with mem := (tileOf s t).mem.writeLE a size ((tileOf s t).xr (iRs2 w.toNat)) }))) := by
  subst hs ha
  rw [exec_ctl h Chip.doSt rfl (by rw [Chip.doSt]) (by simp [hd, hf])]
  rfl

end ScalarAccess

/-- Settles O8: LD (`exec_ld`) and ST (`exec_st`) share their checks, and which of those stops the access is the case stated. -/
theorem scalarLoadsAndStores : Obligations.ScalarLoadsAndStores := by
  refine ⟨fun s t w size a hs ha hal hin hq => ⟨fun h h2 h3 h8 hp => ?_, fun h hd hf => ?_⟩,
    fun s t w size a hs ha => ⟨fun h h2 h3 h8 => ?_, fun h hd hf => ?_⟩⟩
  · rw [exec_ld hs ha h h2 h3 h8, Chip.scalarAccess_made _ _ _ hal hin hq, hp, if_neg Bool.false_ne_true,
      retire_withTile (next_of_ctlAt h) (Tile.setX_pc ..)]
    rfl
  · rw [exec_st hs ha h hd hf, Chip.scalarAccess_made _ _ _ hal hin hq]
    exact congrArg _ (retire_withTile (next_of_ctlAt h) rfl)
  · rw [exec_ld hs ha h h2 h3 h8]
    refine ⟨fun hm => ?_, fun hal hb => ?_, fun hal hin hq hp => ?_⟩
    · rw [Chip.scalarAccess_misaligned _ _ _ hm]
    · rw [Chip.scalarAccess_beyond _ _ _ hal hb]
    · rw [Chip.scalarAccess_made _ _ _ hal hin hq, if_pos hp]
  · rw [exec_st hs ha h hd hf]
    exact ⟨fun hm => by rw [Chip.scalarAccess_misaligned _ _ _ hm], fun hal hb => by rw [Chip.scalarAccess_beyond _ _ _ hal hb]⟩

/-! State registers (07 R183, Table 7.5) -/

/-- A vector register written leaves the vector queue. -/
@[simp] theorem Vec.writeReg_q (v : Vec) (r x : Nat) : (v.writeReg r x).q = v.q := by
  unfold Vec.writeReg
  split <;> rfl

section Registers

variable {s : State} {t : Fin 200} {w : BitVec 64} {r : Nat} (hr : r = bits w.toNat 11 0) (hz : bits w.toNat 31 12 = 0)
  (h2 : iRs2 w.toNat = 0) (hf : iFunc w.toNat = 0)
include hr hz h2 hf

/-- RSR reads its register once the queue that it waits for is empty. -/
theorem exec_rsr (h : ctlAt s t w 0x20) (h1 : iRs1 w.toNat = 0) (hn : (regPoints r).1 ≠ .never)
    (harr : (regPoints r).1 = .arrayEmpty → (tileOf s t).arr.q = []) (hvec : (regPoints r).1 = .vectorEmpty → (tileOf s t).vec.q = []) :
    exec (.rsr t w) s = .next (withTile s t
      { (tileOf s t).setX (iRd w.toNat) (s.chip.readReg t.val r) with pc := (tileOf s t).pc + 8 }) := by
  subst hr
  rw [exec_ctl h Chip.doRsr rfl (by rw [Chip.doRsr]) (by simp [h1, h2, hf, hz, hn])]
  dsimp only
  have hgo : ¬ (((regPoints (bits w.toNat 11 0)).1 == .arrayEmpty && !(tileOf s t).arr.q.isEmpty) ||
      ((regPoints (bits w.toNat 11 0)).1 == .vectorEmpty && !(tileOf s t).vec.q.isEmpty)) = true := by
    simpa using ⟨harr, hvec⟩
  rw [if_neg hgo, retire_withTile (next_of_ctlAt h) (Tile.setX_pc ..)]

section Write

variable (h : ctlAt s t w 0x21) (hd : iRd w.toNat = 0)
include h hd

/-- WSR of an accumulator register writes it when the array queue is empty. -/
theorem exec_wsr_acc (hp : (regPoints r).2 = .arrayEmpty) (hq : (tileOf s t).arr.q = []) :
    exec (.wsr t w) s = .next (withTile s t
      { tileOf s t with acc := (tileOf s t).acc.writeReg r ((tileOf s t).xr (iRs1 w.toNat)), pc := (tileOf s t).pc + 8 }) := by
  subst hr
  rw [exec_ctl h Chip.doWsr rfl (by rw [Chip.doWsr]) (by simp [h2, hf, hz, hd, hp])]
  dsimp only
  rw [if_pos hp, hq]
  exact congrArg _ (retire_withTile (next_of_ctlAt h) rfl)

/-- WSR of a vector register takes an entry of the vector queue, and has its effect at once behind entries that have all executed. -/
theorem exec_wsr_vec (hp : (regPoints r).2 = .vectorOrder) (hq : (tileOf s t).vec.q.length < 4) :
    exec (.wsr t w) s = .next (withTile s t
      { tileOf s t with
        serial := (tileOf s t).serial + 1
        vec := { (if (tileOf s t).vec.q.all (·.done) then (tileOf s t).vec.writeReg r ((tileOf s t).xr (iRs1 w.toNat))
                  else (tileOf s t).vec) with
                 q := (tileOf s t).vec.q ++ [{ serial := (tileOf s t).serial, pc := (tileOf s t).pc, w := w.toNat
                                               wsr := some (r, (tileOf s t).xr (iRs1 w.toNat)), xs := [], opnds := []
                                               done := (tileOf s t).vec.q.all (·.done), ftOld := none }] }
        pc := (tileOf s t).pc + 8 }) := by
  subst hr
  rw [exec_ctl h Chip.doWsr rfl (by rw [Chip.doWsr]) (by simp [h2, hf, hz, hd, hp])]
  dsimp only
  have kept : (if (tileOf s t).vec.q.all (·.done) then (tileOf s t).vec.writeReg (bits w.toNat 11 0) ((tileOf s t).xr (iRs1 w.toNat))
      else (tileOf s t).vec).q = (tileOf s t).vec.q := by
    split
    · exact Vec.writeReg_q ..
    · rfl
  rw [if_neg (by simp [hp]), if_neg (Nat.not_le.mpr hq), kept]
  exact congrArg _ (retire_withTile (next_of_ctlAt h) (by rfl))

end Write

end Registers

/-- Settles O10: RSR with what it waits for drained, WSR by the unit of its register. -/
theorem stateRegistersReadAndWritten : Obligations.StateRegistersReadAndWritten := by
  intro s t w r hr hz h2 hf
  refine ⟨exec_rsr hr hz h2 hf, exec_wsr_acc hr hz h2 hf, ?_⟩
  rintro h hd hp hq idle rfl
  exact exec_wsr_vec hr hz h2 hf h hd hp hq

end Sys2Proof.Machine
end

section
/-!
Background work of a memory channel (08 R211 to R219, R222): what a read of a channel finds after an update, activations and RFMs of a
bank, and each command of the channel that goes ahead.
-/

open Sys2Proof

namespace Sys2Proof.Machine

/-! Reading a channel after an update -/

@[simp] theorem Chip.chanAt_setChan_same (c : Chip) (ch : Nat) (x : Chan) : (c.setChan ch x).chanAt ch = x := by
  simp [Chip.chanAt, Chip.setChan]

@[simp] theorem Chip.setChan_setChan (c : Chip) (ch : Nat) (x y : Chan) : (c.setChan ch x).setChan ch y = c.setChan ch y := by
  simp [Chip.setChan, Chip.modChan]

@[simp] theorem Chip.setChan_mem (c : Chip) (ch : Nat) (x : Chan) : (c.setChan ch x).mem = c.mem := rfl

@[simp] theorem Chip.count_setChan (c : Chip) (ch : Nat) (x : Chan) (src : Nat) : (c.setChan ch x).count src = c.count src := rfl

/-- While time passes no channel changes. -/
@[simp] theorem Chip.chanAt_passTo (c : Chip) (src due ch : Nat) : (c.passTo src due).chanAt ch = c.chanAt ch := by
  unfold Chip.passTo
  dsimp only
  split <;> rfl

/-- Scrub and calibration go ahead when no request waits, or from the window's midpoint (R218). -/
theorem Chip.yields_eq_false {c : Chip} {waiting : Bool} (h : waiting = true → windowCounts / 2 ≤ c.count srcPower % windowCounts) :
    c.yields waiting = false := by
  cases waiting
  · rfl
  · simpa [Chip.yields] using h rfl

/-- Work within what is left of its share fits (R217). -/
theorem Chan.fits_of_le {x : Chan} {ch row t : Nat} (h : tabGet 0 x.used row + t ≤ shareOf ch row x.hot) : x.fits ch row t = true :=
  decide_eq_true h

/-! Scrub reads (R213, R214) -/

section Scrub

variable {c : Chip} {ch ns : Nat} {waiting : Bool}

/-- The conditions under which the next line of a pass is read (R213, R217 to R220). -/
def Chip.scrubGoes (c : Chip) (ch ns : Nat) (waiting : Bool) : Prop :=
  (c.chanAt ch).scrubAt < c.mem.chanBytes ch ∧ c.asleep ch = false ∧
    c.bankFull ch (c.mem.bankOf (c.mem.globalOf ch (c.chanAt ch).scrubAt / 64)) = false ∧ c.yields waiting = false ∧
    (c.chanAt ch).fits ch 2 ns = true

variable (h : c.scrubGoes ch ns waiting)
include h

/-- A clean line: the pass goes on to the next, or begins anew after the last. -/
theorem Chip.doScrubRead_clean : c.doScrubRead ch .none ns waiting = c.setChan ch
    (if (c.chanAt ch).scrubAt + 64 < c.mem.chanBytes ch then { (c.chanAt ch).charge 2 ns with scrubAt := (c.chanAt ch).scrubAt + 64 }
     else { (c.chanAt ch).charge 2 ns with scrubAt := 0, scrubFrom := c.count srcPower, scrubErrs := [], scrubLate := false }) := by
  obtain ⟨hin, hawake, hbank, hyield, hfit⟩ := h
  simp only [Chip.doScrubRead, hawake, hbank, hyield, hfit, Nat.not_le.mpr hin, Bool.not_true, Bool.false_eq_true, or_self, if_false,
    Chip.setChan_mem, Chip.chanAt_setChan_same, Chip.setChan_setChan, Chip.count_setChan]
  split <;> rfl

variable (hnext : (c.chanAt ch).scrubAt + 64 < c.mem.chanBytes ch)
include hnext

/-- A corrected line is counted before the pass goes on. -/
theorem Chip.doScrubRead_ce {d : Chip} (hd : d = (c.setChan ch ((c.chanAt ch).charge 2 ns)).lineCe ch (c.chanAt ch).scrubAt) :
    c.doScrubRead ch .ce ns waiting = d.setChan ch { d.chanAt ch with scrubAt := (c.chanAt ch).scrubAt + 64 } := by
  obtain ⟨hin, hawake, hbank, hyield, hfit⟩ := h
  simp [Chip.doScrubRead, hawake, hbank, hyield, hfit, Nat.not_le.mpr hin, hnext, hd]

/-- An uncorrectable line is poisoned before the pass goes on. -/
theorem Chip.doScrubRead_ue {d : Chip}
    (hd : d = (c.setChan ch ((c.chanAt ch).charge 2 ns)).findUe (c.mem.globalOf ch (c.chanAt ch).scrubAt / 64)) :
    c.doScrubRead ch .ue ns waiting = d.setChan ch { d.chanAt ch with scrubAt := (c.chanAt ch).scrubAt + 64 } := by
  obtain ⟨hin, hawake, hbank, hyield, hfit⟩ := h
  simp [Chip.doScrubRead, hawake, hbank, hyield, hfit, Nat.not_le.mpr hin, hnext, hd]

end Scrub

/-! Activations and RFMs of a bank (R216, R219) -/

/-- A channel that differs from another at most in what activations and RFMs change. -/
def Chan.RfmOnly (x y : Chan) : Prop := y = { x with acts := y.acts, want := y.want, used := y.used, rfmWait := y.rfmWait }

theorem Chan.RfmOnly.trans {x y z : Chan} (h : x.RfmOnly y) (g : y.RfmOnly z) : x.RfmOnly z := by
  unfold Chan.RfmOnly at *; rw [g, h]

theorem Chan.rfmOnly_rfms (ch bank ns fuel : Nat) (x : Chan) : x.RfmOnly (x.rfms ch bank ns fuel) := by
  induction fuel generalizing x with
  | zero => exact rfl
  | succ fuel ih =>
    rw [Chan.rfms]
    split
    · exact rfl
    · split
      · exact .trans (y := (x.issueRfm ch bank ns).letIn ch bank) rfl (ih _)
      · exact rfl

theorem Chan.rfmOnly_settle (x : Chan) (ch bank ns : Nat) : x.RfmOnly (x.settle ch bank ns) :=
  .trans (y := x.letIn ch bank) rfl (Chan.rfmOnly_rfms ..)

/-- No activation is held for any bank. -/
def Chan.NoneHeld (x : Chan) : Prop := ∀ p ∈ x.want, p.2 = 0

theorem Chan.NoneHeld.want_eq {x : Chan} (h : x.NoneHeld) (bank : Nat) : tabGet 0 x.want bank = 0 :=
  (tabGet_default_or_mem 0 x.want bank).elim id (h _)

/-- What stands in a table after an update stood there or is the entry set. -/
theorem mem_tabSet {α : Type} {t : Tab α} {i : Nat} {v : α} {p : Nat × α} (h : p ∈ tabSet t i v) : p = (i, v) ∨ p ∈ t := by
  induction t with
  | nil => exact .inl (List.mem_singleton.mp h)
  | cons q r ih =>
    obtain ⟨k, w⟩ := q
    simp only [tabSet] at h
    split at h
    · exact (List.mem_cons.mp h).imp_right (List.mem_cons_of_mem _)
    · split at h
      · exact List.mem_cons.mp h
      · rcases List.mem_cons.mp h with h | h
        · exact .inr (h ▸ List.mem_cons_self)
        · exact (ih h).imp_right (List.mem_cons_of_mem _)

/-- A bank with room takes every activation that waits for it. -/
theorem Chan.letIn_room {x : Chan} {ch bank : Nat} (h : tabGet 0 x.want bank ≤ Config.raammt ch - tabGet 0 x.acts bank) :
    x.letIn ch bank = { x with
      acts := tabSet x.acts bank (tabGet 0 x.acts bank + tabGet 0 x.want bank), want := tabSet x.want bank 0 } := by
  simp [Chan.letIn, Nat.min_eq_left h]

theorem Chan.NoneHeld.letIn {x : Chan} (h : x.NoneHeld) (ch bank : Nat) : (x.letIn ch bank).NoneHeld := by
  intro p hp
  rw [Chan.letIn_room (by simp [h.want_eq])] at hp
  rcases mem_tabSet hp with rfl | hp
  · rfl
  · exact h p hp

theorem Chan.NoneHeld.rfms {x : Chan} (h : x.NoneHeld) (ch bank ns fuel : Nat) : (x.rfms ch bank ns fuel).NoneHeld := by
  induction fuel generalizing x with
  | zero => exact h
  | succ fuel ih =>
    rw [Chan.rfms]
    split
    · exact h
    · split
      · exact ih (Chan.NoneHeld.letIn (x := x.issueRfm ch bank ns) h ch bank)
      · exact h

/-- Where a bank takes all that waits for it, no activation is held for any bank after it has settled. -/
theorem Chan.NoneHeld.settle {x : Chan} {ch bank : Nat} (h : (x.letIn ch bank).NoneHeld) (ns : Nat) : (x.settle ch bank ns).NoneHeld :=
  h.rfms _ _ _ _

/-- A bank below RAAIMT asks for no RFM. -/
theorem Chan.rfms_below {x : Chan} {ch bank : Nat} (h : tabGet 0 x.acts bank < Config.raaimt ch) (ns fuel : Nat) :
    x.rfms ch bank ns fuel = x := by
  cases fuel with
  | zero => rfl
  | succ fuel => rw [Chan.rfms, if_pos (.inr h)]

/-- A bank that none waits for, between RAAIMT and its double, gets one RFM within the share, and its count is lowered by RAAIMT. -/
theorem Chan.rfms_once {x : Chan} {ch bank ns : Nat} (hw : tabGet 0 x.want bank = 0) (h0 : 0 < Config.raaimt ch)
    (hlo : Config.raaimt ch ≤ tabGet 0 x.acts bank) (hhi : tabGet 0 x.acts bank < 2 * Config.raaimt ch) (hf : x.fits ch 1 ns = true)
    (fuel : Nat) :
    tabGet 0 (x.rfms ch bank ns (fuel + 1)).acts bank = tabGet 0 x.acts bank - Config.raaimt ch ∧
      tabGet 0 (x.rfms ch bank ns (fuel + 1)).used 1 = tabGet 0 x.used 1 + ns ∧
      (x.rfms ch bank ns (fuel + 1)).rfmWait = x.rfmWait := by
  have lowered : tabGet 0 ((x.issueRfm ch bank ns).letIn ch bank).acts bank = tabGet 0 x.acts bank - Config.raaimt ch := by
    simp [Chan.letIn, Chan.issueRfm, Chan.charge, hw]
  rw [Chan.rfms, if_neg (by omega), if_pos hf, Chan.rfms_below (by omega)]
  exact ⟨lowered, by simp [Chan.letIn, Chan.issueRfm, Chan.charge], rfl⟩

section Settle

variable {x : Chan} {ch bank : Nat} (hroom : tabGet 0 x.want bank ≤ Config.raammt ch - tabGet 0 x.acts bank)
include hroom

/-- A bank that stays below RAAIMT with all that waits for it takes it and asks for no RFM. -/
theorem Chan.settle_below (hlt : tabGet 0 x.acts bank + tabGet 0 x.want bank < Config.raaimt ch) (ns : Nat) :
    x.settle ch bank ns = x.letIn ch bank :=
  Chan.rfms_below (by simpa [Chan.letIn_room hroom] using hlt) ..

/-- A bank that reaches RAAIMT, and not its double, with all that waits for it gets one RFM. -/
theorem Chan.settle_once {ns : Nat} (h0 : 0 < Config.raaimt ch) (hlo : Config.raaimt ch ≤ tabGet 0 x.acts bank + tabGet 0 x.want bank)
    (hhi : tabGet 0 x.acts bank + tabGet 0 x.want bank < 2 * Config.raaimt ch) (hf : x.fits ch 1 ns = true) :
    tabGet 0 (x.settle ch bank ns).acts bank = tabGet 0 x.acts bank + tabGet 0 x.want bank - Config.raaimt ch ∧
      tabGet 0 (x.settle ch bank ns).used 1 = tabGet 0 x.used 1 + ns ∧ (x.settle ch bank ns).rfmWait = x.rfmWait := by
  have count : tabGet 0 (x.letIn ch bank).acts bank = tabGet 0 x.acts bank + tabGet 0 x.want bank := by simp [Chan.letIn_room hroom]
  have letAllIn : tabGet 0 (x.letIn ch bank).want bank = 0 := by simp [Chan.letIn_room hroom]
  rw [← count]
  exact Chan.rfms_once letAllIn h0 (count ▸ hlo) (count ▸ hhi) hf _

end Settle

/-- A channel for which no activation is held logs none. -/
theorem Chip.throttleHeld_none {c : Chip} {ch : Nat} (h : (c.chanAt ch).NoneHeld) : c.throttleHeld ch = c := by
  have : (c.chanAt ch).want.find? (fun p => decide (0 < p.2)) = none :=
    List.find?_eq_none.mpr fun p hp => by simp [h p hp]
  rw [Chip.throttleHeld, this]

/-! The RFM command (R216) -/

/-- A channel asked for more activations of a bank. -/
def Chan.asks (x : Chan) (bank acts : Nat) : Chan := { x with want := tabSet x.want bank (tabGet 0 x.want bank + acts) }

section Rfm

variable {x : Chan} {ch bank acts : Nat} (hw : x.want = [])
include hw

/-- Where none waited, what waits for a bank is what it was asked for. -/
theorem Chan.want_asks : tabGet 0 (x.asks bank acts).want bank = acts := by simp [Chan.asks, hw, tabGet]

variable (hroom : tabGet 0 x.acts bank + acts ≤ Config.raammt ch)
include hroom

theorem Chan.room_asks : tabGet 0 (x.asks bank acts).want bank ≤ Config.raammt ch - tabGet 0 (x.asks bank acts).acts bank := by
  rw [Chan.want_asks hw]
  exact Nat.le_sub_of_add_le' hroom

/-- A bank with room for all that it is asked for holds none of it. -/
theorem Chan.noneHeld_letIn_asks : ((x.asks bank acts).letIn ch bank).NoneHeld := by
  rw [Chan.letIn_room (Chan.room_asks hw hroom)]
  simp [Chan.NoneHeld, Chan.asks, hw, tabSet]

variable (ns : Nat)

/-- Below RAAIMT the activations raise the bank's count and nothing is charged. -/
theorem Chan.settle_asks_below (hlt : tabGet 0 x.acts bank + acts < Config.raaimt ch) :
    tabGet 0 ((x.asks bank acts).settle ch bank ns).acts bank = tabGet 0 x.acts bank + acts ∧
      ((x.asks bank acts).settle ch bank ns).used = x.used := by
  have room := Chan.room_asks hw hroom
  have asked := Chan.want_asks (bank := bank) (acts := acts) hw
  rw [Chan.settle_below room (by rw [asked]; exact hlt), Chan.letIn_room room, asked]
  exact ⟨tabGet_tabSet_same .., rfl⟩

/-- From RAAIMT on an RFM within the share lowers the count by RAAIMT and is charged. -/
theorem Chan.settle_asks_once (h0 : 0 < Config.raaimt ch) (hlo : Config.raaimt ch ≤ tabGet 0 x.acts bank + acts)
    (hhi : tabGet 0 x.acts bank + acts < 2 * Config.raaimt ch) (hfit : tabGet 0 x.used 1 + ns ≤ shareOf ch 1 x.hot) :
    tabGet 0 ((x.asks bank acts).settle ch bank ns).acts bank = tabGet 0 x.acts bank + acts - Config.raaimt ch ∧
      tabGet 0 ((x.asks bank acts).settle ch bank ns).used 1 = tabGet 0 x.used 1 + ns ∧
      ((x.asks bank acts).settle ch bank ns).rfmWait = x.rfmWait := by
  have asked := Chan.want_asks (bank := bank) (acts := acts) hw
  have settled := Chan.settle_once (Chan.room_asks hw hroom) h0 (by rw [asked]; exact hlo) (by rw [asked]; exact hhi)
    (Chan.fits_of_le hfit)
  rwa [asked] at settled

end Rfm

/-- An RFM command that leaves no activation held: the bank settles, and what a lower count lets through proceeds. -/
theorem Chip.doRfm_settles {c : Chip} {ch bank acts ns : Nat} {z : Chan} (hawake : c.asleep ch = false) (hpop : 0 < c.mem.chanBytes ch)
    (hbank : bank < chanBanks ch) (hz : z = ((c.chanAt ch).asks bank acts).settle ch bank ns) (hnone : z.NoneHeld) :
    c.doRfm ch bank acts ns = (c.setChan ch z).serveAll := by
  rw [Chip.doRfm, if_neg (by simp [hawake]; omega),
    ← Chip.throttleHeld_none (c := c.setChan ch z) (by rwa [Chip.chanAt_setChan_same]), hz]
  rfl

/-! The end of a window (R217, R219) -/

/-- A channel as a window ends: the shares begin anew. -/
def Chan.freshWindow (x : Chan) (window : Nat) (hot : Bool) : Chan :=
  { x with used := [], throttled := false, rfmWait := [], window := window, hot := hot }

/-- The RFMs that waited, issued in turn. -/
def Chan.settleAll (x : Chan) (ch ns : Nat) (banks : List Nat) : Chan := banks.foldl (fun z bank => z.settle ch bank ns) x

theorem Chan.rfmOnly_settleAll (ch ns : Nat) (banks : List Nat) (x : Chan) : x.RfmOnly (x.settleAll ch ns banks) := by
  induction banks generalizing x with
  | nil => exact rfl
  | cons b r ih => exact (x.rfmOnly_settle ch b ns).trans (ih _)

theorem Chan.NoneHeld.settleAll {x : Chan} (h : x.NoneHeld) (ch ns : Nat) (banks : List Nat) : (x.settleAll ch ns banks).NoneHeld := by
  induction banks generalizing x with
  | nil => exact h
  | cons b r ih => exact ih ((h.letIn ch b).settle ns)

section Window

variable {x z : Chan} {ch ns window : Nat} {hot : Bool} (hw : x.want = [])
  (hz : z = (x.freshWindow window hot).settleAll ch ns x.rfmWait)
include hw hz

/-- After the RFMs that waited no activation is held, and the new window stands as it began. -/
theorem Chan.settleAll_freshWindow : z.NoneHeld ∧ z.hot = hot ∧ z.window = window ∧ z.throttled = false := by
  have noneHeld : (x.freshWindow window hot).NoneHeld := by simp [Chan.NoneHeld, Chan.freshWindow, hw]
  have kept := (x.freshWindow window hot).rfmOnly_settleAll ch ns x.rfmWait
  rw [← hz] at kept
  exact ⟨hz ▸ noneHeld.settleAll _ _ _, by rw [kept]; rfl, by rw [kept]; rfl, by rw [kept]; rfl⟩

/-- One bank that waited for an RFM gets it at the beginning of the window. -/
theorem Chan.settleAll_waited {bank : Nat} (hwait : x.rfmWait = [bank]) (h0 : 0 < Config.raaimt ch)
    (hlo : Config.raaimt ch ≤ tabGet 0 x.acts bank) (hhi : tabGet 0 x.acts bank < 2 * Config.raaimt ch) (hfit : ns ≤ shareOf ch 1 hot) :
    tabGet 0 z.acts bank = tabGet 0 x.acts bank - Config.raaimt ch ∧ tabGet 0 z.used 1 = ns ∧ z.rfmWait = [] := by
  have noneAsked : tabGet 0 (x.freshWindow window hot).want bank = 0 := by simp [Chan.freshWindow, hw, tabGet]
  have fits : (x.freshWindow window hot).fits ch 1 ns = true := Chan.fits_of_le ((Nat.zero_add ns).symm ▸ hfit)
  obtain ⟨hacts, hused, hrest⟩ := Chan.settle_once (x := x.freshWindow window hot) (bank := bank) (by simp [noneAsked]) h0
    (by rw [noneAsked]; exact hlo) (by rw [noneAsked]; exact hhi) fits
  rw [noneAsked] at hacts
  rw [hz, hwait]
  exact ⟨hacts, hused.trans (Nat.zero_add ns), hrest⟩

end Window

/-- A window's end that leaves no activation held: the RFMs that waited are issued, and what they let through proceeds. -/
theorem Chip.doBackgroundWindow_settles {c d : Chip} {ch ns : Nat} {hot : Bool} {z : Chan}
    (hd : d = c.passTo srcPower ((min (c.chanAt ch).window (c.count srcPower / windowCounts) + 1) * windowCounts))
    (hz : z = ((c.chanAt ch).freshWindow (d.count srcPower / windowCounts) hot).settleAll ch ns (c.chanAt ch).rfmWait)
    (hnone : z.NoneHeld) :
    c.doBackgroundWindow ch ns hot = (d.setChan ch z).serveAll := by
  have same : d.chanAt ch = c.chanAt ch := by rw [hd, Chip.chanAt_passTo]
  rw [← same] at hz
  rw [← Chip.throttleHeld_none (c := d.setChan ch z) (by rwa [Chip.chanAt_setChan_same]), hz, hd]
  rfl

/-! The other commands of a channel -/

/-- Errors corrected in a 1 ms window are logged at its end (R222). -/
theorem Chip.doMemCe_corrected {c : Chip} {ch : Nat} {x : Chan} (hx : x = c.chanAt ch) (h : 0 < x.ceWin) :
    c.doMemCe ch = ((c.passTo srcDispatch ((x.ceAt + 1) * msDispatch)).setChan ch { x with ceWin := 0 }).logEv
      .memCe (chanSrc ch) [ch, x.ceWin] := by
  subst hx
  simp [Chip.doMemCe, Chip.flushCe, Nat.pos_iff_ne_zero.mp h]

/-- A pass that has not been found late is found so once (R215). -/
theorem Chip.doScrubBehind_first {c : Chip} {ch : Nat} {x : Chan} (hx : x = c.chanAt ch) (hlate : x.scrubLate = false)
    (hpop : 0 < c.mem.chanBytes ch) :
    c.doScrubBehind ch = ((c.passTo srcPower (x.scrubFrom + c.rf (0x900000 + 8 * ch) 14 8 * 360000000000 * 11 / 10 + 1)).setChan ch
      { x with scrubLate := true }).logEv .scrubBehind (chanSrc ch) [ch] := by
  subst hx
  simp [Chip.doScrubBehind, hlate, Nat.pos_iff_ne_zero.mp hpop]

/-- A retry of a backed line is counted; one that persists through the third poisons the line (R211). -/
theorem Chip.doChannelRetry_backed {c : Chip} {pa : BitVec 52} {nth : Nat} {persists : Bool} {ch : Nat} {d : Chip}
    (hb : c.mem.backed pa.toNat = true) (hch : c.mem.chanOf pa.toNat = ch)
    (hd : d = c.setChan ch { c.chanAt ch with retries := (c.chanAt ch).retries + 1 }) :
    c.doChannelRetry pa nth persists = if nth = 2 ∧ persists = true then
        (d.modMem (fun m => { m with poison := setIns m.poison (pa.toNat / 64) })).logEv .memLinkErr (chanSrc ch) [ch, pa.toNat]
      else d := by
  subst hd hch
  rw [Chip.doChannelRetry]
  exact if_pos hb

section Commands

variable {s : State} (hl : s.chip.live = true) (ch : Fin 400)
include hl

theorem exec_scrubRead (turn : ScrubTurn) :
    exec (.scrubRead ch turn) s = .next (withChip s (s.chip.doScrubRead ch.val turn.err turn.ns turn.waiting)) :=
  State.liveChip_live _ hl

theorem exec_scrubBehind : exec (.scrubBehind ch) s = .next (withChip s (s.chip.doScrubBehind ch.val)) := State.liveChip_live _ hl

theorem exec_refresh (allBanks : Bool) (ns : Nat) :
    exec (.refresh ch allBanks ns) s = .next (withChip s (s.chip.doRefresh ch.val allBanks ns)) :=
  State.liveChip_live _ hl

theorem exec_calibration (burst : Burst) :
    exec (.calibration ch burst) s = .next (withChip s (s.chip.doCalibration ch.val burst.ns burst.waiting)) :=
  State.liveChip_live _ hl

theorem exec_rfm (bank : Fin 64) (acts ns : Nat) :
    exec (.rfm ch bank acts ns) s = .next (withChip s (s.chip.doRfm ch.val bank.val acts ns)) :=
  State.liveChip_live _ hl

theorem exec_backgroundWindow (w : WindowEnd) :
    exec (.backgroundWindow ch w) s = .next (withChip s (s.chip.doBackgroundWindow ch.val w.ns w.hot)) :=
  State.liveChip_live _ hl

theorem exec_memCe : exec (.memCe ch) s = .next (withChip s (s.chip.doMemCe ch.val)) := State.liveChip_live _ hl

theorem exec_channelRetry (pa : BitVec 52) (nth : Fin 3) (persists : Bool) :
    exec (.channelRetry pa nth persists) s = .next (withChip s (s.chip.doChannelRetry pa nth.val persists)) :=
  State.liveChip_live _ hl

end Commands

/-- Settles O25: each command goes ahead under its conditions; no activation is held where a bank has room, so the RFM and the window's
end settle the banks and log no throttling. -/
theorem channelBackgroundWork : Obligations.ChannelBackgroundWork := by
  rintro s ch x ns acts n waiting hot bank pa nth persists hl rfl hawake hpop rfl
  refine ⟨fun hin hbank hturn hfit => ?_, fun hlate => ⟨_, rfl, ?_⟩, ?_, fun hns hturn hfit => ?_, fun hb hw hroom => ?_,
    fun c hc hw => ?_, fun hce => ?_, fun hbacked hch => ?_⟩
  · have goes : s.chip.scrubGoes ch.val ns waiting := ⟨hin, hawake, hbank, Chip.yields_eq_false hturn, Chan.fits_of_le hfit⟩
    refine ⟨?_, fun hnext c d hc => ⟨fun hd => ?_, fun hd => ?_⟩⟩
    · rw [exec_scrubRead hl, Chip.doScrubRead_clean goes]
    · rw [exec_scrubRead hl, Chip.doScrubRead_ce goes hnext (hc ▸ hd)]
    · rw [exec_scrubRead hl, Chip.doScrubRead_ue goes hnext (hc ▸ hd)]
  · rw [exec_scrubBehind hl, Chip.doScrubBehind_first rfl hlate hpop]
  · rw [exec_refresh hl, Chip.doRefresh, if_neg (by simp [hawake]; omega)]
  · rw [exec_calibration hl, Chip.doCalibration,
      if_neg (by simp [hawake, Chip.yields_eq_false hturn, Chan.fits_of_le hfit]; omega)]
  · have noneHeld := (Chan.noneHeld_letIn_asks hw hroom).settle ns
    refine ⟨_, ?_, Chan.settle_asks_below hw hroom ns, Chan.settle_asks_once hw hroom ns⟩
    rw [exec_rfm hl, Chip.doRfm_settles hawake hpop hb rfl noneHeld]
  · obtain ⟨noneHeld, hhot, hwindow, hthrottled⟩ := Chan.settleAll_freshWindow (ch := ch.val) (ns := ns) (hot := hot)
      (window := c.count srcPower / windowCounts) hw rfl
    refine ⟨_, ?_, hhot, hwindow, hthrottled, fun hwait => ?_, fun hwait _ h0 hlo hhi _ hfit => ?_⟩
    · rw [exec_backgroundWindow hl, Chip.doBackgroundWindow_settles hc rfl noneHeld]
    · rw [hwait]
      exact ⟨rfl, rfl, rfl⟩
    · exact Chan.settleAll_waited hw rfl hwait h0 hlo hhi hfit
  · rw [exec_memCe hl, Chip.doMemCe_corrected rfl hce]
  · rw [exec_channelRetry hl, Chip.doChannelRetry_backed hbacked hch rfl]
    simp only [Fin.ext_iff, Fin.val_two]

end Sys2Proof.Machine
end

section
/-!
Coherence at the home of a line (09 R225 to R238, Table 9.4): what a request's holders become in the filter, when it begins, and what it
does once it has begun.
-/

open Sys2Proof

namespace Sys2Proof.Machine

/-! Filter entries (09 R228, R229, R233) -/

@[simp] theorem tabFind_tabDel_same {α : Type} (t : Tab α) (i : Nat) : tabFind (tabDel t i) i = none := by
  induction t with
  | nil => rfl
  | cons p r ih =>
    obtain ⟨k, w⟩ := p
    by_cases h : k = i <;> simp [tabDel, tabFind, h, ih]

theorem tabFind_tabDel_other {α : Type} (t : Tab α) {i j : Nat} (hij : i ≠ j) : tabFind (tabDel t i) j = tabFind t j := by
  induction t with
  | nil => rfl
  | cons p r ih =>
    obtain ⟨k, w⟩ := p
    by_cases h : k = i
    · subst h; simp [tabDel, tabFind, hij, ih]
    · simp [tabDel, tabFind, h, ih]

theorem Mem.find_driftLine_other (m : Mem) {v k : Nat} (h : v ≠ k) : tabFind (m.driftLine v).dir k = tabFind m.dir k := by
  unfold Mem.driftLine
  split
  · split
    · exact tabFind_tabSet_other _ _ h
    · rfl
  · rfl

@[simp] theorem Mem.flush_dir (m : Mem) (v : Nat) : (m.flush v).dir = m.dir := by
  unfold Mem.flush
  split
  · split
    · split <;> rfl
    · rfl
  · rfl

theorem Mem.find_leave_other (m : Mem) {v k : Nat} (h : Nat) (hv : v ≠ k) : tabFind (m.leave v h).dir k = tabFind m.dir k := by
  unfold Mem.leave
  split
  · simp only [apply_ite Mem.dir, apply_ite (tabFind · k), Mem.drop, tabFind_tabDel_other _ hv, tabFind_tabSet_other _ _ hv, ite_self]
  · rfl

/-- The line that a cache evicts to make room is another than the one that it makes room for. -/
theorem Mem.find_evictFor (m : Mem) (ln h : Nat) : tabFind (m.evictFor ln h).dir ln = tabFind m.dir ln := by
  unfold Mem.evictFor
  dsimp only
  split
  · rfl
  · rename_i notHeld
    split
    · rfl
    · rename_i v hv
      have hmem := (List.mem_filter.mp (List.mem_of_getElem? hv)).1
      have hne : v ≠ ln := by
        rintro rfl
        simp [hmem] at notHeld
      rw [Mem.find_leave_other _ h hne]
      split
      · rw [Mem.flush_dir, Mem.find_driftLine_other m hne]
      · rfl

theorem Mem.evictFor_of_room {m : Mem} {ln h : Nat} (room : (m.cached h ln).length < cacheLines h) : m.evictFor ln h = m := by
  simp [Mem.evictFor, room]

section Entry
variable {m : Mem} {ln : Nat} {old : DirEnt} (found : tabFind m.dir ln = some old)
include found

/-- An entry that is there is replaced in its place and keeps its order. -/
theorem Mem.setEnt_of_found (x : DirEnt) : m.setEnt ln x = { m with dir := tabSet m.dir ln { x with order := old.order } } := by
  simp only [Mem.setEnt, found]

theorem Mem.find_setEnt (x : DirEnt) : tabFind (m.setEnt ln x).dir ln = some { x with order := old.order } := by
  rw [Mem.setEnt_of_found found, tabFind_tabSet_same]

theorem Mem.find_setEnt_other (x : DirEnt) {k : Nat} (hk : k ≠ ln) : tabFind (m.setEnt ln x).dir k = tabFind m.dir k := by
  rw [Mem.setEnt_of_found found, tabFind_tabSet_other _ _ hk.symm]

theorem Mem.setEnt_bytes (x : DirEnt) : (m.setEnt ln x).bytes = m.bytes := by
  rw [Mem.setEnt_of_found found]

end Entry

/-! The transitions of Table 9.4 -/

/-- The entry of a line once one more cache reads it. -/
def DirEnt.joined (e : DirEnt) (h : Nat) : DirEnt :=
  match e.owner, e.st with
  | some o, .e =>
    { e with owner := none, sharers := setIns (setIns e.sharers o) h, clean := if e.clean.contains o then setIns e.clean h else e.clean }
  | some _, _ => { e with st := .o, sharers := setIns e.sharers h }
  | none, _ => { e with sharers := setIns e.sharers h }

/-- The entry of a line once one cache has taken its only copy. -/
def DirEnt.taken (e : DirEnt) (h : Nat) : DirEnt :=
  let good := if e.ownerClean then [h] else []
  if e.owner.isSome ∧ e.st ≠ .e then { e with owner := some h, st := .m, sharers := [], clean := good, offered := false }
  else { e with owner := some h, st := .e, sharers := [], data := [], poison := false, clean := good, offered := false }

@[simp] theorem DirEnt.joined_data (e : DirEnt) (h : Nat) : (e.joined h).data = e.data := by
  unfold DirEnt.joined; split <;> rfl

theorem DirEnt.reader_mem_joined (e : DirEnt) (h : Nat) : h ∈ (e.joined h).sharers := by
  unfold DirEnt.joined; split <;> simp [mem_setIns]

theorem DirEnt.sharer_mem_joined {e : DirEnt} (h : Nat) {j : Nat} (hj : j ∈ e.sharers) : j ∈ (e.joined h).sharers := by
  unfold DirEnt.joined; split <;> simp [mem_setIns, hj]

theorem DirEnt.joined_of_exclusive {e : DirEnt} (h : Nat) {o : Nat} (ho : e.owner = some o) (hs : e.st = .e) :
    (e.joined h).owner = none ∧ o ∈ (e.joined h).sharers := by
  simp [DirEnt.joined, ho, hs, mem_setIns]

theorem DirEnt.joined_of_dirty {e : DirEnt} (h : Nat) {o : Nat} (ho : e.owner = some o) (hs : e.st ≠ .e) :
    (e.joined h).owner = some o ∧ (e.joined h).st = .o := by
  unfold DirEnt.joined
  split
  · contradiction
  · exact ⟨ho, rfl⟩
  · simp_all

theorem DirEnt.joined_of_unowned {e : DirEnt} (h : Nat) (ho : e.owner = none) : (e.joined h).owner = none := by
  simp [DirEnt.joined, ho]

theorem DirEnt.taken_holder (e : DirEnt) (h : Nat) : (e.taken h).owner = some h ∧ (e.taken h).sharers = [] := by
  unfold DirEnt.taken; dsimp only; split <;> exact ⟨rfl, rfl⟩

theorem DirEnt.taken_st (e : DirEnt) (h : Nat) : (e.taken h).st = if e.owner.isSome ∧ e.st ≠ .e then .m else .e := by
  unfold DirEnt.taken; dsimp only; split <;> rfl

section Holders
variable {m : Mem} {ln : Nat} {e : DirEnt} (found : tabFind m.dir ln = some e)
include found

theorem Mem.share_of_found (h : Nat) :
    m.share ln h = if e.heldBy h then m else (m.evictFor ln h).setEnt ln (e.joined h) := by
  simp only [Mem.share, Mem.find_evictFor, found]
  split
  · rfl
  · cases owner : e.owner with
    | none => simp only [DirEnt.joined, owner]
    | some o => cases st : e.st <;> simp only [DirEnt.joined, owner, st]

theorem Mem.takeUnique_of_found (h : Nat) : m.takeUnique ln h = (m.evictFor ln h).setEnt ln (e.taken h) := by
  simp only [Mem.takeUnique, Mem.find_evictFor, found, DirEnt.taken]
  split <;> rfl

theorem Mem.upgrade_of_found (h : Nat) : m.upgrade ln h = m.setEnt ln { e with owner := some h, st := .m, sharers := [] } := by
  simp only [Mem.upgrade, found]

/-- The line's entry is there still when its reader's cache has made room. -/
theorem Mem.found_evictFor (h : Nat) : tabFind (m.evictFor ln h).dir ln = some e := (m.find_evictFor ln h).trans found

theorem Mem.find_share {h : Nat} (ho : e.owner ≠ some h) (hs : h ∉ e.sharers) :
    tabFind (m.share ln h).dir ln = some { e.joined h with order := e.order } := by
  have notHeld : e.heldBy h = false := by simp [DirEnt.heldBy, ho, hs]
  rw [Mem.share_of_found found, notHeld]
  exact Mem.find_setEnt (Mem.found_evictFor found h) _

theorem Mem.find_takeUnique (h : Nat) : tabFind (m.takeUnique ln h).dir ln = some { e.taken h with order := e.order } := by
  rw [Mem.takeUnique_of_found found]
  exact Mem.find_setEnt (Mem.found_evictFor found h) _

theorem Mem.find_upgrade (h : Nat) :
    tabFind (m.upgrade ln h).dir ln = some { e with owner := some h, st := .m, sharers := [] } := by
  rw [Mem.upgrade_of_found found, Mem.find_setEnt found]

section Room
variable {h : Nat} (room : (m.cached h ln).length < cacheLines h)
include room

theorem Mem.share_frame : (∀ k, k ≠ ln → tabFind (m.share ln h).dir k = tabFind m.dir k) ∧ (m.share ln h).bytes = m.bytes := by
  rw [Mem.share_of_found found, Mem.evictFor_of_room room]
  split
  · exact ⟨fun _ _ => rfl, rfl⟩
  · exact ⟨fun k hk => Mem.find_setEnt_other found _ hk, Mem.setEnt_bytes found _⟩

theorem Mem.takeUnique_frame :
    (∀ k, k ≠ ln → tabFind (m.takeUnique ln h).dir k = tabFind m.dir k) ∧ (m.takeUnique ln h).bytes = m.bytes := by
  rw [Mem.takeUnique_of_found found, Mem.evictFor_of_room room]
  exact ⟨fun k hk => Mem.find_setEnt_other found _ hk, Mem.setEnt_bytes found _⟩

end Room

theorem Mem.upgrade_frame (h : Nat) :
    (∀ k, k ≠ ln → tabFind (m.upgrade ln h).dir k = tabFind m.dir k) ∧ (m.upgrade ln h).bytes = m.bytes := by
  rw [Mem.upgrade_of_found found]
  exact ⟨fun k hk => Mem.find_setEnt_other found _ hk, Mem.setEnt_bytes found _⟩

end Holders

/-! When a request begins (09 R225, R234) -/

/-- A request needs an entry of the snoop filter: a cache gets a copy, or a hint that can be used places one. -/
def Chip.needsEntry (c : Chip) (q : Txn) : Bool :=
  match q.kind with
  | .readShared | .readUnique | .upgrade => true
  | .writeFull | .writePartial => (c.hintUsable q.hint).isSome
  | _ => false

theorem Chip.canServe_eq (c : Chip) (ln : Nat) (q : Txn) :
    c.canServe ln q =
      (q.kind != .held && (tabFind c.mem.busy ln).isNone && c.accepts ln && (!c.needsEntry q || c.mem.hasRoom ln)) := rfl

theorem Chip.canServe_of_busy {c : Chip} {ln : Nat} {b : Txn} (hb : tabFind c.mem.busy ln = some b) (q : Txn) :
    c.canServe ln q = false := by
  simp [Chip.canServe_eq, hb]

/-- A request for a busy line whose channel accepts requests joins the line's queue. -/
theorem Chip.request_of_busy {c : Chip} {ln : Nat} {b : Txn} (hb : tabFind c.mem.busy ln = some b) (ha : c.accepts ln = true) (q : Txn) :
    c.request ln q = c.modMem (fun m => { m with waitq := tabSet m.waitq ln (tabGet [] m.waitq ln ++ [q]) }) := by
  have roomInBank : c.bankFull (c.mem.chanOf (64 * ln)) (c.mem.bankOf ln) = false := by
    simp only [Chip.accepts, Bool.and_eq_true, Bool.not_eq_true'] at ha
    exact ha.2
  simp [Chip.request, Chip.canServe_of_busy hb, roomInBank]

/-- Memory takes a request for a backed address at the line's home. (Said of the function: unfolded at an argument, the kernel would
evaluate the address map on it.) -/
theorem Chip.requestAt_of_backed {c : Chip} {pa : Nat} (hb : c.mem.backed pa = true) (src : Nat) :
    c.requestAt src pa = c.request (pa / 64) := by
  have inMemory : c.placeOf pa = .memory := if_pos hb
  delta Chip.requestAt
  rw [inMemory]

section Idle
variable {s : State} {pa : BitVec 52} (idle : lineIdle s pa)
include idle

theorem backed_of_lineIdle : s.chip.mem.backed pa.toNat = true := by
  obtain ⟨-, -, backed, -⟩ := idle
  exact backed

theorem notBusy_of_lineIdle : tabFind s.chip.mem.busy (pa.toNat / 64) = none := by
  obtain ⟨-, -, -, -, notBusy, -⟩ := idle
  exact notBusy

/-- A command that goes to the home of an idle line has its operation's effect. -/
theorem exec_of_lineIdle {i : Instr} {agent : Nat} {f : Chip → Chip} {d : Chip} (hi : exec i s = s.toHome agent pa.toNat i f)
    (hd : f s.chip = d) : exec i s = .next (withChip s d) := by
  obtain ⟨live, noneHeld, -, -, -, -, room⟩ := idle
  rw [hi, State.toHome_room _ _ _ _ live noneHeld room, hd]
  rfl

/-- A request for an idle line begins when the filter has a way for the entry that it needs. -/
theorem request_of_lineIdle {q : Txn} (hk : q.kind ≠ .held)
    (hr : s.chip.needsEntry q = true → s.chip.mem.hasRoom (pa.toNat / 64) = true) :
    s.chip.request (pa.toNat / 64) q = lineBegun s.chip (s.chip.homeAct (pa.toNat / 64) q) (pa.toNat / 64) q := by
  obtain ⟨-, -, -, noneWait, notBusy, accepts, -⟩ := idle
  have serves : s.chip.canServe (pa.toNat / 64) q = true := by
    cases hn : s.chip.needsEntry q <;> simp_all [Chip.canServe_eq]
  rw [Chip.request, noneWait, serves]
  rfl

/-- A command that sends a request for an idle line begins it. -/
theorem exec_request_of_lineIdle {i : Instr} {agent src : Nat} (f : Chip → Chip) {q : Txn}
    (hi : exec i s = s.toHome agent pa.toNat i f) (hf : f s.chip = s.chip.requestAt src pa.toNat q) (hk : q.kind ≠ .held)
    (hr : s.chip.needsEntry q = true → s.chip.mem.hasRoom (pa.toNat / 64) = true) :
    exec i s = .next (withChip s (lineBegun s.chip (s.chip.homeAct (pa.toNat / 64) q) (pa.toNat / 64) q)) := by
  refine exec_of_lineIdle idle hi ?_
  rw [hf, Chip.requestAt_of_backed (backed_of_lineIdle idle), request_of_lineIdle idle hk hr]

end Idle

/-! What a request does once it has begun (09 R229, Table 9.4) -/

@[simp] theorem Chip.cacheUe_none (c : Chip) (ln : Nat) : c.cacheUe ln none = c := rfl

@[simp] theorem Chip.supply_none (c : Chip) (ln h : Nat) : c.supply ln h .none = c := by
  unfold Chip.supply
  split
  · split <;> rfl
  · rfl

@[simp] theorem Mem.answerOwn_none (m : Mem) (ln : Nat) : m.answerOwn ln none = m := rfl

@[simp] theorem Chip.corePoison_none (c : Chip) (ln k : Nat) (poison : Bool) : c.corePoison ln k poison none = c := rfl

theorem Chip.fillL1_of_agent (c : Chip) (ln : Nat) {k : Nat} (h : 64 ≤ k) (use : Option CoreUse) : c.fillL1 ln k use = c := by
  simp [Chip.fillL1, h]

theorem agentOf_no_cache (src : Nat) : 64 ≤ agentOf src := by
  unfold agentOf; omega

section Reads
variable (c : Chip) (ln h : Nat) (use : Option CoreUse)

theorem Chip.homeAct_readShared :
    c.homeAct ln { Txn.of .readShared h none .none with use := use } =
      (((c.modMem (fun m => m.share ln h)).fillL1 ln h use).corePoison ln h (c.mem.line ln).2 use).answer
        (0 :: b2n (c.mem.line ln).2 :: (c.mem.line ln).1.map (·.toNat)) := by
  simp only [Chip.homeAct, Txn.of, Chip.cacheUe_none, Chip.supply_none, Mem.answerOwn_none, Chip.modMem]

theorem Chip.homeAct_readUnique :
    c.homeAct ln { Txn.of .readUnique h none .none with use := use } =
      (((c.modMem (fun m => m.takeUnique ln h)).fillL1 ln h use).corePoison ln h (c.mem.line ln).2 use).answer
        (0 :: b2n (c.mem.line ln).2 :: (c.mem.line ln).1.map (·.toNat)) := by
  simp only [Chip.homeAct, Txn.of, Chip.cacheUe_none, Chip.supply_none, Mem.answerOwn_none, Chip.modMem]

theorem Chip.homeAct_upgrade_shared (hs : c.mem.holdsShared ln h = true) (own : Option LineCopy) (err : MemErr) :
    c.homeAct ln (Txn.of .upgrade h own err) = (c.modMem (fun m => m.upgrade ln h)).answer [0] := by
  simp only [Chip.homeAct, Txn.of, hs, if_true]

theorem Chip.homeAct_upgrade_gone (hs : c.mem.holdsShared ln h = false) :
    c.homeAct ln (Txn.of .upgrade h none .none) =
      ((c.modMem (fun m => m.takeUnique ln h)).fillL1 ln h none).answer
        (0 :: b2n (c.mem.line ln).2 :: (c.mem.line ln).1.map (·.toNat)) := by
  simp only [Chip.homeAct, Txn.of, hs, Bool.false_eq_true, if_false, Chip.cacheUe_none, Chip.supply_none, Mem.answerOwn_none,
    Chip.corePoison_none, Chip.modMem]

theorem Chip.homeAct_readOnce (src : Nat) :
    c.homeAct ln (Txn.of .readOnce (agentOf src) none .none) =
      c.answer (0 :: b2n (c.mem.line ln).2 :: (c.mem.line ln).1.map (·.toNat)) := by
  simp only [Chip.homeAct, Txn.of, Chip.cacheUe_none, Chip.supply_none, Mem.answerOwn_none, Chip.corePoison_none,
    Chip.fillL1_of_agent _ _ (agentOf_no_cache src), Chip.modMem]

end Reads

/-- Settles O21: the entries are those of Table 9.4, and each read of an idle line begins with its effect. -/
theorem holdersAndReads : Obligations.HoldersAndReads := by
  refine ⟨fun m ln h e found => ⟨fun ho hs => ?_, ?_, ?_, fun room => ?_⟩, ?_⟩
  · refine ⟨_, Mem.find_share found ho hs, e.reader_mem_joined h, e.joined_data h, fun j hj => DirEnt.sharer_mem_joined h hj,
      fun o howner hst => DirEnt.joined_of_exclusive h howner hst, fun o howner hst => DirEnt.joined_of_dirty h howner hst,
      fun howner => DirEnt.joined_of_unowned h howner⟩
  · obtain ⟨howner, hsharers⟩ := e.taken_holder h
    exact ⟨_, Mem.find_takeUnique found h, howner, hsharers, e.taken_st h⟩
  · exact ⟨_, Mem.find_upgrade found h, rfl, rfl, rfl, rfl⟩
  · obtain ⟨shareDir, shareBytes⟩ := Mem.share_frame found room
    obtain ⟨uniqueDir, uniqueBytes⟩ := Mem.takeUnique_frame found room
    obtain ⟨upgradeDir, upgradeBytes⟩ := Mem.upgrade_frame found h
    exact ⟨fun k hk => ⟨shareDir k hk, uniqueDir k hk, upgradeDir k hk⟩, shareBytes, uniqueBytes, upgradeBytes⟩
  · rintro s pa h src own err use ln l rfl idle rfl
    refine ⟨fun room => ⟨?_, ?_, ?_⟩, ?_, ?_, ?_, ?_, ?_, ?_⟩
    · exact exec_request_of_lineIdle idle (fun c => c.doReadShared h pa own err use) rfl rfl (by simp [Txn.of]) fun _ => room
    · exact exec_request_of_lineIdle idle (fun c => c.doReadUnique h pa own err use) rfl rfl (by simp [Txn.of]) fun _ => room
    · exact exec_request_of_lineIdle idle (fun c => c.doUpgrade h pa own err) rfl rfl (by simp [Txn.of]) fun _ => room
    · exact exec_request_of_lineIdle idle (fun c => c.doReadOnce src pa own err) rfl rfl (by simp [Txn.of])
        (by simp [Chip.needsEntry, Txn.of])
    · exact Chip.homeAct_readShared ..
    · exact Chip.homeAct_readUnique ..
    · exact fun shared => Chip.homeAct_upgrade_shared _ _ _ shared own err
    · exact fun gone => Chip.homeAct_upgrade_gone _ _ _ gone
    · exact Chip.homeAct_readOnce ..

end Sys2Proof.Machine
end

section
/-!
Writes at the home of a line (09 R229): WRITE_FULL without a hint replaces bytes of the line that the home has on record.
-/

open Sys2Proof

namespace Sys2Proof.Machine

theorem Chip.hintUsable_zero (c : Chip) : c.hintUsable 0 = none := by
  simp [Chip.hintUsable, hintTarget, bits]

theorem Mem.hintLost_zero (m : Mem) (ln : Nat) : m.hintLost ln 0 = m := by
  simp [Mem.hintLost, bits]

/-- A write of all 64 bytes of a line writes each of them. -/
theorem maskFull_lineBytes (d : BitVec 512) : maskFull ((lineBytes d).zipIdx.map (fun x => (x.2, x.1))) = true := by
  simp only [maskFull, List.all_eq_true, List.mem_range, List.any_eq_true]
  intro i hi
  have inLine : i < (lineBytes d).length := by simpa [lineBytes] using hi
  exact ⟨(i, (lineBytes d)[i]), List.mem_map.mpr ⟨((lineBytes d)[i], i), List.mk_mem_zipIdx_iff_getElem?.mpr
    (List.getElem?_eq_getElem inLine), rfl⟩, by simp⟩

theorem Chip.homeAct_writeFull (c : Chip) (ln agent : Nat) (d : BitVec 512) (p : Bool) :
    c.homeAct ln { Txn.of .writeFull agent none .none with
        data := (lineBytes d).zipIdx.map (fun x => (x.2, x.1)), poison := p, hint := 0 } =
      c.modMem (fun m => m.putLine ln (maskLine (m.line ln).1 ((lineBytes d).zipIdx.map (fun x => (x.2, x.1)))) p) := by
  simp only [Chip.homeAct, Txn.of, Mem.answerOwn_none, Chip.hintUsable_zero, Mem.hintLost_zero, Mem.maskWrite, maskFull_lineBytes,
    Option.isNone_none, if_true, Bool.not_true, Bool.false_and, Bool.or_false, Chip.modMem]

/-- Line 1 with an owner's data on record that is one byte long, where a line has 64. -/
def shortEnt : DirEnt := DirEnt.sole 3 .m [7] false
def shortLine : State := withChip State.reset (State.reset.chip.modMem (fun m => { m with dir := [(1, shortEnt)] }))

theorem shortLine_idle : lineIdle shortLine 64 := by decide +kernel

theorem shortLine_unprotected : shortLine.chip.protectedN (64 * 1) 64 = false := by decide +kernel

/-- Refutes O22: the statement is about every state, also about one whose filter entry holds owner's data of another length than 64
bytes. WRITE_FULL replaces bytes of what the home has on record, so there it writes one byte to memory and not the line: byte 1 of the
line, written as 1, stays 0. (No request builds such an entry; the statement does not ask for a line of 64 bytes.) -/
theorem not_writesReachTheirHome : ¬ Obligations.WritesReachTheirHome := by
  intro h
  obtain ⟨begins, -⟩ := h
  obtain ⟨-, -, full, -⟩ := begins shortLine 64 0 0x100 0 false 0 (.put 0 []) none .none 1 _ _ _ rfl shortLine_idle
    shortLine_unprotected rfl rfl rfl
  have sameLine := (Chip.homeAct_writeFull ..).symm.trans (full rfl)
  have sameByte := congrArg (fun c : Chip => c.mem.bytes.read 65) sameLine
  exact absurd sameByte (by decide +kernel)

end Sys2Proof.Machine
end

section
/-!
Transactions of a line (09 R225, R228, R231, R235, R238): write-backs, evictions, the queue of a busy line, dropped hints and snoops that
go unanswered.
-/

open Sys2Proof

namespace Sys2Proof.Machine

/-! Write-backs and evictions (09 R228) -/

theorem Mem.crossing_of_idle {m : Mem} {ln : Nat} (hb : tabFind m.busy ln = none) (h : Nat) : m.crossing ln h = none := by
  simp only [Mem.crossing, hb]

section Entry
variable {c : Chip} {h : Nat} {e : DirEnt}

/-- An owner's data goes to memory, and an error of its array is logged. -/
theorem Chip.homeAct_writeBack {ln : Nat} (found : tabFind c.mem.dir ln = some e) (owns : e.owner = some h) (y : LineCopy) :
    c.homeAct ln (Txn.of .writeBack h (some y) .none) =
      (if y.ue then c.logEv .cacheUe (cacheSrc h) [64 * ln] else c).modMem (fun m => m.writeBack ln y) := by
  simp [Chip.homeAct, Txn.of, Chip.cacheUe, found, owns]

theorem Chip.homeAct_evict (ln : Nat) :
    c.homeAct ln (Txn.of .evict h none .none) = c.modMem (fun m => m.leave ln h) := by
  simp only [Chip.homeAct, Txn.of]

variable {pa : BitVec 52} (found : tabFind c.mem.dir (pa.toNat / 64) = some e) (notBusy : tabFind c.mem.busy (pa.toNat / 64) = none)
include found notBusy

theorem Chip.doWriteBack_of_owner (hb : c.mem.backed pa.toNat = true) (owns : e.owner = some h) {y : LineCopy}
    (hy : y.bytes.length = 64) :
    c.doWriteBack h pa y = c.request (pa.toNat / 64) (Txn.of .writeBack h (some y) .none) := by
  simp [Chip.doWriteBack, hy, hb, Mem.crossing_of_idle notBusy, found, owns]

theorem Chip.doEvict_of_holder (holds : h ∈ e.sharers ∨ e.owner = some h ∧ e.st = .e) :
    c.doEvict h pa = c.request (pa.toNat / 64) (Txn.of .evict h none .none) := by
  simp [Chip.doEvict, Mem.crossing_of_idle notBusy, found, holds]

end Entry

/-! Completion (09 R231) -/

theorem Chip.doTransactionComplete_of_busy {c : Chip} {pa : BitVec 52} {q : Txn} (hb : tabFind c.mem.busy (pa.toNat / 64) = some q) :
    c.doTransactionComplete pa =
      ((c.modMem (fun m => { m with busy := tabDel m.busy (pa.toNat / 64) })).serveNext (pa.toNat / 64)).serveAll :=
  if_pos (by rw [hb]; rfl)

/-- With nothing waiting at any line no request begins; the rings are read on. -/
theorem Chip.serve_of_noneWaiting {c : Chip} (hw : c.mem.waitq = []) (ln : Nat) : (c.serveNext ln).serveAll = c.pumpAll := by
  have nothing : c.serveNext ln = c := by simp [Chip.serveNext, hw, tabGet]
  rw [nothing, Chip.serveAll, hw]
  rfl

/-! Dropped hints (09 R238) -/

/-- A hint that can be used is of a kind that counts when it is lost. -/
theorem Chip.hintKind_of_usable {c : Chip} {hint : Nat} (usable : (c.hintUsable hint).isSome = true) : bits hint 15 14 ≠ 0 := by
  intro kind
  simp [Chip.hintUsable, hintTarget, kind] at usable

theorem Mem.unhint_of_kind (m : Mem) (ln : Nat) {hint : Nat} (kind : bits hint 15 14 ≠ 0) :
    m.unhint ln hint = { m.putLine ln (m.line ln).1 (m.line ln).2 with
      hintDropped := tabSet m.hintDropped (homeOf (64 * ln)) (tabGet 0 m.hintDropped (homeOf (64 * ln)) + 1) } := by
  rw [Mem.unhint, Mem.hintLost, if_neg kind]
  rfl

theorem Chip.doHintDropped_of_busy {c : Chip} {pa : BitVec 52} {q : Txn} (hb : tabFind c.mem.busy (pa.toNat / 64) = some q)
    (writes : q.kind = .writeFull ∨ q.kind = .writePartial) (usable : (c.hintUsable q.hint).isSome = true) :
    c.doHintDropped pa = c.modMem (fun m =>
      { m.unhint (pa.toNat / 64) q.hint with busy := tabSet m.busy (pa.toNat / 64) { q with hint := 0 } }) := by
  simp only [Chip.doHintDropped, hb]
  exact if_pos ⟨writes, usable⟩

theorem Chip.doHintDropped_of_offered {c : Chip} {pa : BitVec 52} {e : DirEnt} (hb : tabFind c.mem.busy (pa.toNat / 64) = none)
    (found : tabFind c.mem.dir (pa.toNat / 64) = some e) (offered : e.offered = true) (owned : e.owner.isSome = true)
    (alone : e.sharers = []) :
    c.doHintDropped pa = c.modMem (fun m => m.unhint (pa.toNat / 64) 0x4000) := by
  simp only [Chip.doHintDropped, hb]
  exact if_pos (by simp [found, offered, owned, alone])

/-! Unanswered snoops (09 R235) -/

/-- The snoop that a cache owes an answer is one of the transaction in progress or, where none is, of an access made in one step
(assumption 108). -/
theorem Chip.doSnoopTimeout_of_owed {c : Chip} {pa : BitVec 52} {h : Nat} {q : Txn} {e : DirEnt}
    (owed : tabFind c.mem.busy (pa.toNat / 64) = some q ∧ h ∈ q.snooped ∨
      tabFind c.mem.busy (pa.toNat / 64) = none ∧ tabFind c.mem.dir (pa.toNat / 64) = some e ∧ (e.owner = some h ∨ h ∈ e.sharers)) :
    c.doSnoopTimeout pa h =
      c.fatal .snoopTimeout (srcNoc (homeOf (64 * (pa.toNat / 64)))) [64 * (pa.toNat / 64), cacheSrc h] 0x11 (cacheSrc h) := by
  rcases owed with ⟨busy, snooped⟩ | ⟨notBusy, found, holds⟩
  · simp only [Chip.doSnoopTimeout, busy]
    exact if_pos (by simpa using snooped)
  · simp only [Chip.doSnoopTimeout, notBusy]
    exact if_pos (by simpa [found, DirEnt.heldBy] using holds)

/-- Settles O23: each command has its operation's effect at the home of the line. -/
theorem lineTransactions : Obligations.LineTransactions := by
  rintro s pa h y ln e q own err use rfl live backed
  refine ⟨fun idle found owns hy => ?_, fun idle found holds => ?_, fun busy noneHeld room accepts => ?_,
    fun busy => ⟨?_, fun hw => ?_⟩, fun busy writes usable => ?_, fun notBusy found offered owned alone => ?_, fun owed => ?_⟩
  · refine exec_of_lineIdle idle (f := fun c => c.doWriteBack h pa y) rfl ?_
    rw [Chip.doWriteBack_of_owner found (notBusy_of_lineIdle idle) backed owns hy,
      request_of_lineIdle idle (by simp [Txn.of]) (by simp [Chip.needsEntry, Txn.of]),
      Chip.homeAct_writeBack found owns]
  · refine exec_of_lineIdle idle (f := fun c => c.doEvict h pa) rfl ?_
    rw [Chip.doEvict_of_holder found (notBusy_of_lineIdle idle) holds,
      request_of_lineIdle idle (by simp [Txn.of]) (by simp [Chip.needsEntry, Txn.of]),
      Chip.homeAct_evict]
  · have reaches := State.toHome_room h.val pa.toNat (.readShared h pa own ⟨err, use⟩) (fun c => c.doReadShared h pa own err use) live
      noneHeld room
    refine reaches.trans ?_
    rw [Chip.doReadShared, Chip.requestAt_of_backed backed, Chip.request_of_busy busy accepts]
    rfl
  · exact exec_live (fun c => c.doTransactionComplete pa) live rfl (Chip.doTransactionComplete_of_busy busy)
  · refine exec_live (fun c => c.doTransactionComplete pa) live rfl ?_
    rw [Chip.doTransactionComplete_of_busy busy, Chip.serve_of_noneWaiting]
    exact hw
  · refine exec_live (fun c => c.doHintDropped pa) live rfl ((Chip.doHintDropped_of_busy busy writes usable).trans ?_)
    simp only [Mem.unhint_of_kind _ _ (Chip.hintKind_of_usable usable)]
  · refine exec_live (fun c => c.doHintDropped pa) live rfl ((Chip.doHintDropped_of_offered notBusy found offered owned alone).trans ?_)
    simp only [Mem.unhint_of_kind _ _ (show bits 0x4000 15 14 ≠ 0 by decide)]
  · exact exec_live (fun c => c.doSnoopTimeout pa h) live rfl (Chip.doSnoopTimeout_of_owed owed)

end Sys2Proof.Machine
end

section
/-!
On a package with nothing under way: ranges that agents outside tiles access, and line operations of the ledge engines, meet no home that
has to be waited for (03 R82, 09 R225, 10 R282).
-/

open Sys2Proof

namespace Sys2Proof.Machine

theorem State.quiet_of_calm {s : State} (h : s.calm = true) : s.chip.quiet = true := by
  simp only [State.calm, Bool.and_eq_true] at h
  exact h.2

/-- A command of an agent that may have to wait has its operation's effect on a calm package. -/
theorem exec_calm {s : State} {i : Instr} {key : List Nat} (f : Chip → Chip) {d : Chip} (hl : s.chip.live = true) (hc : s.calm = true)
    (hi : exec i s = s.guarded key i f) (hd : f s.chip = d) : exec i s = .next (withChip s d) := by
  rw [hi, State.guarded_calm _ _ _ hl hc, hd]
  rfl

@[simp] theorem Chip.quiet_modMmu (c : Chip) (f : Mmu → Mmu) : (c.modMmu f).quiet = c.quiet := rfl
@[simp] theorem Chip.quiet_modLedge (c : Chip) (f : Ledge → Ledge) : (c.modLedge f).quiet = c.quiet := rfl
@[simp] theorem Chip.quiet_modClk (c : Chip) (f : Clocks → Clocks) : (c.modClk f).quiet = c.quiet := rfl
@[simp] theorem Chip.quiet_tlbFill (c : Chip) (units : List Nat) (es : List TlbEnt) : (c.tlbFill units es).quiet = c.quiet := rfl

/-- No line of a quiet package has to be waited for. -/
theorem Chip.quiet_none_unready {c : Chip} (h : c.quiet = true) (lines : List Nat) (alloc : Bool) :
    lines.any (fun ln => !c.ready ln alloc) = false := by
  rw [List.any_eq_false]
  intro ln _
  simp [Chip.quiet_ready h]

/-- A range that translates throughout enters its translations in the TLB. -/
theorem Chip.quiet_used {c : Chip} (h : c.quiet = true) (units : List Nat) (src : Nat) {sp : Span} (hf : sp.fault = none) :
    c.used units src sp = c.tlbFill units sp.ents := by
  simp only [Chip.used, hf]
  exact Chip.quiet_meet (by simpa using h) ..

/-- Only a held operation has the number of one: no fault of a translation has. -/
theorem Chip.place_error_kind {c : Chip} {units : List Nat} {ctx va : Nat} {wr : Bool} {f : VFault}
    (h : c.place units ctx va wr = .error f) : f.kind ≠ .held := by
  unfold Chip.place at h
  split at h
  · split at h
    · cases h; simp
    · cases h
  all_goals cases h; simp

/-- A range that ends in a fault does not end in a held operation. -/
theorem Chip.span_fault_kind {c : Chip} {units : List Nat} {ctx : Nat} {wr : Bool} {unit fuel va n : Nat} {f : VFault}
    (h : (c.span units ctx wr unit fuel va n).fault = some f) : f.kind ≠ .held := by
  induction fuel generalizing va n with
  | zero => cases h
  | succ fuel ih =>
    unfold Chip.span at h
    split at h
    · cases h
    · dsimp only at h
      split at h
      · next g hp =>
        obtain rfl : g = f := by simpa using h
        exact Chip.place_error_kind hp
      · exact ih h

theorem Chip.spanLines_fault_kind {c : Chip} {units : List Nat} {ctx va n : Nat} {wr : Bool} {f : VFault}
    (h : (c.spanLines units ctx va n wr).fault = some f) : f.kind ≠ .held := Chip.span_fault_kind h

/-- The number of a fault is a status. -/
theorem VKind.code_ne_zero (k : VKind) : k.code ≠ 0 := by cases k <;> simp [VKind.code]

/-- A fault that is not a held operation does not have its number. -/
theorem VKind.code_ne_held {k : VKind} (h : k ≠ .held) : k.code ≠ VKind.held.code := by
  cases k with
  | held => exact absurd rfl h
  | xlate | access | poison => simp [VKind.code]

end Sys2Proof.Machine
end

section
/-!
Ring descriptors that bind and release ledge queues, buckets, regions, the raw queue and rings, each in its own table (10 R252, R287, 11
R290, R299, 12 R322, R325, 13 R356, R357, 14 R369, R389).
-/

open Sys2Proof

namespace Sys2Proof.Machine

/-! What the end of a descriptor can change -/

/-- A package that differs from another at most in its consumed descriptors, their records, and its firmware. -/
def Chip.Finished (c d : Chip) : Prop := d = { c with cm := { c.cm with descs := d.cm.descs, fin := d.cm.fin }, fw := d.fw }

theorem Chip.finished_finish (c : Chip) (key status detail : Nat) : c.Finished (c.finish key status detail) := by
  unfold Chip.finish Chip.finishSrc
  split <;> rfl

/-- Each part of the package but those reads as before. -/
theorem Chip.Finished.part {α : Type} {c d : Chip} (h : c.Finished d) (p : Chip → α) :
    p d = p { c with cm := { c.cm with descs := d.cm.descs, fin := d.cm.fin }, fw := d.fw } := congrArg p h

@[simp] theorem Chip.finish_cm_log (c : Chip) (key status detail : Nat) : (c.finish key status detail).cm.log = c.cm.log :=
  (c.finished_finish ..).part (·.cm.log)
@[simp] theorem Chip.finish_cm_sq (c : Chip) (key status detail : Nat) : (c.finish key status detail).cm.sq = c.cm.sq :=
  (c.finished_finish ..).part (·.cm.sq)

/-! Ledge queues (10 R252, R287) -/

@[simp] theorem Chip.lqAt_setLq_same (c : Chip) (q : Nat) (x : Lq) : (c.setLq q x).lqAt q = x := by simp [Chip.lqAt, Chip.setLq]

@[simp] theorem Chip.setLq_setLq (c : Chip) (q : Nat) (x y : Lq) : (c.setLq q x).setLq q y = c.setLq q y := by
  simp [Chip.setLq, Chip.modLedge]

@[simp] theorem Chip.lqCmds_setLq (c : Chip) (q p : Nat) (x : Lq) : (c.setLq q x).lqCmds p = c.lqCmds p := rfl

/-- A resource that is bound to another context is another context's. -/
theorem Desc.foreign_of_ne {d : Desc} {bound : Bool} {owner : Nat} (hb : bound = true) (ho : owner ≠ d.ctx) :
    d.foreign bound owner = true := by simp [Desc.foreign, hb, ho]

/-- With no command in execution there is none to cancel. -/
theorem Chip.lqCancel_of_idle {c : Chip} {q : Nat} (hc : c.lqCmds q = []) : c.lqCancel q = c := by simp [Chip.lqCancel, hc]

/-- A queue none of whose commands is in execution is unbound at once. -/
theorem Chip.settleLq_of_idle {c : Chip} {q key : Nat} (hu : (c.lqAt q).unbind = some key) (hc : c.lqCmds q = []) :
    c.settleLq q = (c.setLq q Lq.fresh).finish key 0 0 := by simp [Chip.settleLq, hu, hc]

/-! Buckets (11 R290, R299) -/

/-- The fields that a BUCKET_OPEN gives its entry. -/
def Desc.newBucket (d : Desc) : Bucket :=
  { Bucket.fresh with
    ctx := d.ctx, base := d.f 24 8, len := d.f 32 8, expect := d.f 40 8, so := d.f 20 2, sval := d.f 48 4, record := d.f 56 8
    rhint := d.f 22 2, norm := d.f 64 8, timeout := d.f 52 4, nosq := bit (d.f 18 1) 0 }

@[simp] theorem Chip.bucketAt_setBucket_same (c : Chip) (tag : Nat) (b : Bucket) : (c.setBucket tag b).bucketAt tag = b := by
  simp [Chip.bucketAt, Chip.setBucket]

/-- An open that is accepted has found its whole region. -/
theorem Chip.openCheck_accepted {c : Chip} {tag : Nat} {b : Bucket} (h : (c.openCheck tag b).1 = 0) :
    (c.openCheck tag b).2.2.fault = none := by
  unfold Chip.openCheck at h ⊢
  dsimp only at h ⊢
  split at h
  · cases h
  · split at h
    · cases h
    · split at h
      · exact absurd h (VKind.code_ne_zero _)
      · next hfree hown _ hf =>
        rw [if_neg hfree, if_neg hown]
        split
        · exact hf
        · split <;> exact hf

/-- An accepted open sets its entry and enters translations, and does nothing else (R290, R291). -/
theorem Chip.bucketOpen_accepted {c : Chip} (hq : c.quiet = true) {tag : Nat} {b : Bucket} (h : (c.bucketOpen tag b).2.1 = 0) :
    (c.bucketOpen tag b).1 = (c.tlbFill [] (c.openCheck tag b).2.2.ents).setBucket tag
      (b.opened c.dispatch (c.openCheck tag b).2.2.pieces) := by
  unfold Chip.bucketOpen at h ⊢
  dsimp only at h ⊢
  split at h
  · next hc => rw [if_pos hc, Chip.quiet_used hq _ _ (Chip.openCheck_accepted hc)]
  · next hc => exact absurd h hc

@[simp] theorem Chip.used_keeps_bucket (c : Chip) (units : List Nat) (src : Nat) (sp : Span) : (c.used units src sp).bucket = c.bucket := by
  have met : ((c.tlbFill units sp.ents).meet sp.lines false).bucket = c.bucket := by unfold Chip.meet; split <;> rfl
  unfold Chip.used
  dsimp only
  split
  · split
    · exact ((Chip.logged_logRefused ..).part Chip.bucket).trans met
    · exact met
  · exact met

/-- A refused open changes no entry. -/
theorem Chip.bucketOpen_refused {c : Chip} {tag : Nat} {b : Bucket} (h : (c.bucketOpen tag b).2.1 ≠ 0) :
    (c.bucketOpen tag b).1.bucket = c.bucket := by
  unfold Chip.bucketOpen at h ⊢
  dsimp only at h ⊢
  split at h
  · exact absurd rfl h
  · next hc => rw [if_neg hc]; exact c.used_keeps_bucket ..

/-- BUCKET_OPEN opens its entry and ends with the status of the open. -/
theorem exec_bucketOpen {s : State} {r : Fin 1024} {d : Desc} (h : descReady s r d) (hc : s.calm = true) (ho : d.op = 0x22) :
    exec (.bucketOpen r) s = .next (withChip s
      (((s.chip.bucketOpen (d.f 16 2) d.newBucket).1.finish d.key (s.chip.bucketOpen (d.f 16 2) d.newBucket).2.1
        (s.chip.bucketOpen (d.f 16 2) d.newBucket).2.2).pump r.val)) :=
  exec_onDesc_calm h hc
    (f := fun e d => (e.bucketOpen (d.f 16 2) d.newBucket).1.finish d.key (e.bucketOpen (d.f 16 2) d.newBucket).2.1
      (e.bucketOpen (d.f 16 2) d.newBucket).2.2) rfl (by simp [opIs, ho])

section Abort

variable {c : Chip} {tag ctx : Nat} {key : Option Nat}

/-- Outside its own context and CTX0 no one aborts a bucket (R299). -/
theorem Chip.bucketAbort_denied (hf : (c.bucketAt tag).st ≠ .free) (hx : ctx ≠ (c.bucketAt tag).ctx) (h0 : ctx ≠ 0) :
    c.bucketAbort tag ctx key = (c, 0x02, (c.bucketAt tag).so, false) := by simp [Chip.bucketAbort, hf, hx, h0]

theorem Chip.bucketAbort_free (hf : (c.bucketAt tag).st = .free) : c.bucketAbort tag ctx key = (c, 0x0B, tag, false) := by
  simp [Chip.bucketAbort, hf]

theorem Chip.bucketAbort_closing (hs : (c.bucketAt tag).st = .closing) (hx : ctx = (c.bucketAt tag).ctx ∨ ctx = 0) :
    c.bucketAbort tag ctx key = (c, 0x0C, tag, false) := by
  rcases hx with hx | hx <;> simp [Chip.bucketAbort, hs, hx]

theorem Chip.bucketAbort_begins (hs : (c.bucketAt tag).st = .filling ∨ (c.bucketAt tag).st = .open_)
    (hx : ctx = (c.bucketAt tag).ctx ∨ ctx = 0) :
    c.bucketAbort tag ctx key = (c.setBucket tag { c.bucketAt tag with st := .aborting, abort := key }, 0, 0, true) := by
  rcases hs with hs | hs <;> rcases hx with hx | hx <;> simp [Chip.bucketAbort, hs, hx]

end Abort

/-- BUCKET_ABORT of an entry that is not aborted by it ends at once with the status that the home answers. -/
theorem exec_bucketAbort_refused {s : State} {r : Fin 1024} {d : Desc} (h : descReady s r d) (ho : d.op = 0x23) {status detail : Nat}
    (ha : ∀ c : Chip, c.bucket = s.chip.bucket → c.bucketAbort (d.f 16 2) d.ctx (some d.key) = (c, status, detail, false)) :
    exec (.bucketAbort r) s = .next (withChip s ((s.chip.finish d.key status detail).pump r.val)) := by
  refine (exec_onDesc h rfl (by simp [opIs, ho])).trans (next_pump ?_)
  dsimp only
  rw [ha (s.chip.starts d []) rfl, ha s.chip rfl]
  rfl

/-! Regions (13 R356, R357) -/

/-- A new CHECK is not the one before, not zero, and of 16 bits (13 R356). -/
theorem newCheck_fresh (old free : Nat) : newCheck old free ≠ old ∧ 0 < newCheck old free ∧ newCheck old free < 65536 := by
  unfold newCheck
  dsimp only
  split <;> omega

@[simp] theorem Chip.regionAt_setRegion_same (c : Chip) (k : Nat) (x : FdRegion) : (c.setRegion k x).regionAt k = x := by
  simp [Chip.regionAt, Chip.setRegion]

@[simp] theorem Chip.regionAt_finish (c : Chip) (key status detail k : Nat) : (c.finish key status detail).regionAt k = c.regionAt k := by
  simp only [Chip.regionAt, Chip.finish_fab]

/-- With no connection in the table, an entry withdrawn is free at once. -/
theorem Chip.regionDrop_unused {c : Chip} {k key : Nat} (hn : c.fab.conn = []) (hc : (c.regionAt k).closing = none) :
    ((c.regionDrop k (some key)).regionAt k).valid = false ∧ ((c.regionDrop k (some key)).regionAt k).closing = none := by
  unfold Chip.regionDrop
  dsimp only
  split
  · next hv => exact ⟨by simpa using hv, by simpa using hc⟩
  · unfold Chip.settleRegion
    have unused : (c.setRegion k { c.regionAt k with valid := false, closing := some key }).fab.conn = [] := hn
    simp [unused]

/-! Commanders (14 R389) -/

/-- The package without what a released entry holds: its rings FREE, its logged records counted as dropped, its descriptors and records
those of no entry, and its grants revoked. -/
def Chip.cmReleased (c : Chip) (k : Nat) : Chip :=
  (((c.freeRings k).modCm (fun m =>
    { m with
      log := m.log.filter (fun l => l.rcd.cm != k), dropped := m.dropped + (c.cm.log.filter (fun l => l.rcd.cm == k)).length
      descs := m.descs.map (fun z => if z.cm = k then { z with cm := 32 } else z)
      fin := m.fin.map (fun z => if z.cm = k then { z with cm := 32 } else z) })).modCtx (fun t =>
        t.map (fun p => (p.1, { p.2 with grants := p.2.grants.filter (· != (c.cmAt k).key) })))).setCm k
    { Cmdr.fresh with ignored := (c.cmAt k).ignored, regAddr := (c.cmAt k).regAddr }

/-- What a release leaves: the entry FREE, none of its records in the log, and none of its submission rings bound. -/
theorem Chip.cmReleased_freed (c : Chip) (k : Nat) :
    ((c.cmReleased k).cmAt k).st = .free ∧ (∀ l ∈ (c.cmReleased k).cm.log, l.rcd.cm ≠ k) ∧
      ∀ p ∈ (c.cmReleased k).cm.sq, p.2.cm = k → p.2.st = .free := by
  refine ⟨congrArg Cmdr.st (tabGet_tabSet_same ..), fun l hl => by simpa using (List.mem_filter.mp hl).2, fun p hp hk => ?_⟩
  obtain ⟨q, -, rfl⟩ := List.mem_map.mp hp
  by_cases hb : q.2.cm = k ∧ q.2.st ≠ .free
  · rw [if_pos hb]; rfl
  · rw [if_neg hb] at hk ⊢
    exact not_not.mp (fun hst => hb ⟨hk, hst⟩)

/-- Settles O41: each row carries out its descriptor (`exec_onDesc`), in the branch that the hypotheses name. -/
theorem bindingDescriptors : Obligations.BindingDescriptors := by
  rintro s r d n h rfl
  refine ⟨fun ho hf hc hu hso => ?_, fun ho hb hx => ?_, fun ho hf hb => ?_, fun ho hb hx => ?_, fun ho hf hc hu => ?_, fun ho hc => ?_,
    fun ho hs hx => ?_, fun ho hs => ?_, fun ho hs hx => ?_, fun ho hs hx h0 => ?_, fun ho hv hf => ?_, fun ho hv hf => ?_,
    fun ho hv hf hc => ?_, fun ho hv hf hc hn => ?_, fun ho hn => ?_, fun ho hn hr hs => ?_, fun ho hq hs hs' hm hr => ?_, fun ho hq hs => ?_,
    fun ho hq hs hm => ?_, fun ho hq hs hm hu => ?_, fun ho hs => ?_⟩
  · refine (exec_onDesc h rfl (by simp [opIs, ho])).trans (next_pump ?_)
    simp [hf, hc, hu, hso]
  · refine (exec_onDesc h rfl (by simp [opIs, ho])).trans (next_pump (if_pos ?_))
    exact Desc.foreign_of_ne hb hx
  · refine (exec_onDesc h rfl (by simp [opIs, ho])).trans (next_pump ?_)
    dsimp only
    rw [if_neg (ne_true_of_eq_false hf), if_pos (by simpa using hb)]
  · refine (exec_onDesc h rfl (by simp [opIs, ho])).trans (next_pump (if_pos ?_))
    exact Desc.foreign_of_ne hb hx
  · have idle : (s.chip.starts d []).lqCmds (d.f 16 2) = [] := hc
    refine ⟨((s.chip.starts d []).setLq (d.f 16 2) Lq.fresh).finish d.key 0 0,
      (exec_onDesc h rfl (by simp [opIs, ho])).trans (next_pump ?_), ?_, ?_⟩
    · dsimp only
      rw [if_neg (ne_true_of_eq_false hf), if_neg (by simp [hu]), Chip.lqCancel_of_idle idle,
        Chip.settleLq_of_idle (key := d.key) (by rw [Chip.lqAt_setLq_same]) ((Chip.lqCmds_setLq ..).trans idle), Chip.setLq_setLq]
    · exact ((Chip.finished_finish ..).part (·.lqAt (d.f 16 2))).trans (Chip.lqAt_setLq_same ..)
    · exact (Chip.finished_finish ..).part (·.ledge.cmds)
  · refine ⟨d.newBucket, exec_bucketOpen h hc ho, rfl, rfl, rfl, rfl, rfl, fun hz => ?_, Chip.bucketOpen_refused⟩
    rw [Chip.bucketOpen_accepted (State.quiet_of_calm hc) hz, Chip.bucketAt_setBucket_same]
    exact ⟨rfl, rfl, rfl, rfl⟩
  · refine (exec_onDesc h rfl (by simp [opIs, ho])).trans (next_pump ?_)
    dsimp only
    rw [Chip.bucketAbort_begins (c := s.chip.starts d []) hs hx]
    rfl
  · exact exec_bucketAbort_refused h ho fun c hb => Chip.bucketAbort_free (by simpa [Chip.bucketAt, hb] using hs)
  · exact exec_bucketAbort_refused h ho fun c hb =>
      Chip.bucketAbort_closing (by simpa [Chip.bucketAt, hb] using hs) (by simpa [Chip.bucketAt, hb] using hx)
  · refine exec_bucketAbort_refused h ho fun c hb => ?_
    have same : c.bucketAt (d.f 16 2) = s.chip.bucketAt (d.f 16 2) := by simp only [Chip.bucketAt, hb]
    rw [← same] at hs hx ⊢
    exact Chip.bucketAbort_denied hs hx h0
  · exact (exec_onDesc h rfl (by simp [ho, hv])).trans (next_pump (if_neg (ne_true_of_eq_false hf)))
  · exact (exec_onDesc h rfl (by simp [ho, hv])).trans (next_pump (if_neg (ne_true_of_eq_false hf)))
  · obtain ⟨hne, hpos, hlt⟩ := newCheck_fresh (s.chip.regionAt (d.f 16 2)).check s.chip.freeVal
    refine ⟨_, hne, hpos, hlt, (exec_onDesc h rfl (by simp [ho, hv])).trans (next_pump ?_)⟩
    exact (if_neg (ne_true_of_eq_false hf)).trans (if_neg (by simp [hc]))
  · have gone := Chip.regionDrop_unused (c := s.chip.starts d []) (k := d.f 16 2) (key := d.key) hn hc
    refine ⟨_, (exec_onDesc h rfl (by simp [ho, hv])).trans (next_pump ?_), gone⟩
    exact (if_neg (ne_true_of_eq_false hf)).trans (if_neg (by simp [hc]))
  · exact (exec_onDesc h rfl (by simp [opIs, ho])).trans (next_pump (if_pos hn))
  · exact (exec_onDesc h rfl (by simp [opIs, ho])).trans (next_pump ((if_neg hn).trans (if_pos ⟨hr, hs⟩)))
  · refine (exec_onDesc h rfl (by simp [opIs, ho])).trans (next_pump ((if_pos hq).trans ((if_neg (by simp [hs])).trans (if_neg ?_))))
    simp [hs', hm, hr]
  · exact (exec_onDesc h rfl (by simp [opIs, ho])).trans (next_pump ((if_neg hq).trans (if_neg (by simp [hs]))))
  · exact (exec_onDesc h rfl (by simp [opIs, ho])).trans
      (next_pump ((if_pos hq).trans ((if_neg hs).trans (if_neg (by simp [hm])))))
  · exact (exec_onDesc h rfl (by simp [opIs, ho])).trans (next_pump ((if_neg (by simp [hq])).trans
      ((if_neg hs).trans ((if_neg (by simp [hm])).trans (if_neg (by simp [hu]))))))
  · obtain ⟨hst, hlog, hsq⟩ := s.chip.cmReleased_freed (d.f 16 1)
    refine ⟨(s.chip.cmReleased (d.f 16 1)).finish d.key 0 (s.chip.cm.log.filter (fun l => l.rcd.cm == d.f 16 1)).length,
      (exec_onDesc h rfl (by simp [opIs, ho])).trans (next_pump ?_), ?_, ?_, ?_⟩
    · dsimp only
      rw [hs]
      rfl
    · exact (congrArg Cmdr.st ((Chip.finished_finish ..).part (·.cmAt (d.f 16 1)))).trans hst
    · rwa [Chip.finish_cm_log]
    · rwa [Chip.finish_cm_sq]

end Sys2Proof.Machine
end

section
/-!
Ledge queues (10 R252 to R255, R271, R272, R286): what line operations leave as it was, fetching, a queue that falls behind, and the
completion of a command.
-/

open Sys2Proof

namespace Sys2Proof.Machine

/-! What a line operation can change -/

/-- A package that differs from another at most in memory, its logs and interrupt files, TLBs, buckets, the fabric, the free values drawn,
and whose turn it is at the ledge front-ends. -/
def Chip.Worked (c d : Chip) : Prop :=
  d = { c with
        log := d.log, mem := d.mem, irq := d.irq, mmu := d.mmu, bucket := d.bucket, fab := d.fab, free := d.free
        ledge := { c.ledge with turns := d.ledge.turns } }

theorem Chip.Worked.refl (c : Chip) : c.Worked c := rfl

theorem Chip.Worked.trans {c d e : Chip} (h : c.Worked d) (g : d.Worked e) : c.Worked e := by
  unfold Chip.Worked at *; rw [g, h]

/-- Each part of the package but those reads as before. -/
theorem Chip.Worked.part {α : Type} {c d : Chip} (h : c.Worked d) (p : Chip → α) :
    p d = p { c with
              log := d.log, mem := d.mem, irq := d.irq, mmu := d.mmu, bucket := d.bucket, fab := d.fab, free := d.free
              ledge := { c.ledge with turns := d.ledge.turns } } := congrArg p h

theorem Chip.Logged.worked {c d : Chip} (h : c.Logged d) : c.Worked d := by
  unfold Chip.Logged at h
  unfold Chip.Worked
  rw [h]

theorem Chip.worked_tlbFill (c : Chip) (units : List Nat) (es : List TlbEnt) : c.Worked (c.tlbFill units es) := rfl

theorem Chip.worked_meet (c : Chip) (lines : List Nat) (alloc : Bool) : c.Worked (c.meet lines alloc) := by
  unfold Chip.meet; split <;> rfl

theorem Chip.worked_storeHint (c : Chip) (pa : Nat) (bs : List Byte) (poison : Bool) (hint : Nat) :
    c.Worked (c.storeHint pa bs poison hint) := by
  unfold Chip.storeHint
  dsimp only
  split <;> exact (c.worked_meet ..).trans rfl

theorem Chip.worked_used (c : Chip) (units : List Nat) (src : Nat) (sp : Span) : c.Worked (c.used units src sp) := by
  have met : c.Worked ((c.tlbFill units sp.ents).meet sp.lines false) := (c.worked_tlbFill ..).trans (Chip.worked_meet ..)
  unfold Chip.used
  dsimp only
  split
  · split
    · exact met.trans (Chip.logged_logRefused ..).worked
    · exact met
  · exact met

theorem Chip.worked_scatter (c : Chip) (sp : Span) (bs : List Byte) (bad : Bool) (hint : Nat) : c.Worked (c.scatter sp bs bad hint) :=
  List.foldlRecOn sp.pieces _ (motive := fun acc : Chip × List Byte => c.Worked acc.1) (.refl c)
    (fun acc h _ _ => h.trans (acc.1.worked_storeHint ..))

/-- Time that passes moves the clocks alone. -/
theorem Chip.passTo_eq_modClk (c : Chip) (src due : Nat) : ∃ f, c.passTo src due = c.modClk f := by
  unfold Chip.passTo
  dsimp only
  split
  · exact ⟨_, rfl⟩
  · exact ⟨id, rfl⟩

/-! Fetching (R253, R254) -/

section Fetch

variable {c : Chip} {q : Nat}

/-- A queue may fetch when it is bound, has not stopped or fallen behind, and has a command pending and room for it. -/
theorem Chip.lqMay_iff : c.lqMay q = true ↔ (c.lqAt q).bound = true ∧ (c.lqAt q).overrun = false ∧ (c.lqAt q).ahead = false ∧
    (c.lqAt q).unbind = none ∧ 0 < c.lqPending q ∧ (c.lqCmds q).length < 8 := by
  simp only [Chip.lqMay, Bool.and_eq_true, Bool.not_eq_true', decide_eq_true_eq, Option.isNone_iff_eq_none, and_assoc]

theorem Chip.lqMay_of_none_pending (h : c.lqPending q = 0) : c.lqMay q = false := by
  rw [Bool.eq_false_iff]
  intro may
  obtain ⟨-, -, -, -, pending, -⟩ := Chip.lqMay_iff.mp may
  omega

theorem Chip.lqFetch_of_not_may (h : c.lqMay q = false) (fuel : Nat) : c.lqFetch q fuel = c := by
  cases fuel with
  | zero => rfl
  | succ n => simp [Chip.lqFetch, h]

/-- More commands pending than slots stop the queue (R253). -/
theorem Chip.lqFetch_overrun (may : c.lqMay q = true) (many : 2 ^ (c.lqAt q).log2 < c.lqPending q) (fuel : Nat) :
    c.lqFetch q (fuel + 1) = (c.setLq q { c.lqAt q with overrun := true }).logEv .ledgeOverrun (lqSrc q) [q] := by
  simp [Chip.lqFetch, may, many]

/-- A slot that is read whole has translated whole. -/
theorem Chip.lqSlot_ok {bs : List Byte} (h : (c.lqSlot q).1 = .ok bs) : (c.lqSlot q).2.2.fault = none := by
  unfold Chip.lqSlot at h ⊢
  dsimp only at h ⊢
  split at h
  · cases h
  · next hf =>
    split
    · exact hf
    · split <;> exact hf

/-- The package with the command in a slot fetched: counted as consumed, and in execution behind the others (R253). -/
def Chip.lqTaken (c : Chip) (q : Nat) (bs : List Byte) : Chip :=
  ((c.tlbFill (lqTlb q) (c.lqSlot q).2.2.ents).setLq q
    { c.lqAt q with consumed := ((c.lqAt q).consumed + 1) % 2 ^ 32, miss := none }).modLedge (fun l =>
      { l with
        cmds := l.cmds ++ [{ key := c.ledge.next, lq := q, ctx := (c.lqAt q).ctx, bytes := bs, ran := false, stats := [], flags := 0
                             count := 0, run := none, next := 0, got := [] }]
        next := l.next + 1 })

/-- A matching slot is fetched and fetching goes on. -/
theorem Chip.lqFetch_taken (hq : c.quiet = true) (may : c.lqMay q = true) (fits : c.lqPending q ≤ 2 ^ (c.lqAt q).log2) {bs : List Byte}
    (slot : (c.lqSlot q).1 = .ok bs) (fuel : Nat) : c.lqFetch q (fuel + 1) = (c.lqTaken q bs).lqFetch q fuel := by
  simp only [Chip.lqFetch, may, Bool.not_true, Bool.false_eq_true, if_false, if_neg (not_lt.mpr fits), Chip.quiet_none_unready hq, slot,
    Chip.quiet_used hq _ _ (Chip.lqSlot_ok slot)]
  rfl

/-- A slot that does not match is noted with its cause unless a mismatch is noted already. -/
theorem Chip.lqFetch_missed (hq : c.quiet = true) (may : c.lqMay q = true) (fits : c.lqPending q ≤ 2 ^ (c.lqAt q).log2) {j : Nat}
    (slot : (c.lqSlot q).1 = .error j) (fuel : Nat) :
    c.lqFetch q (fuel + 1) = if (c.lqAt q).miss.isSome then c.used (lqTlb q) (lqSrc q) (c.lqSlot q).2.2
      else (c.used (lqTlb q) (lqSrc q) (c.lqSlot q).2.2).setLq q
        { c.lqAt q with miss := some ((c.used (lqTlb q) (lqSrc q) (c.lqSlot q).2.2).count (lqSrc q), j) } := by
  simp only [Chip.lqFetch, may, Bool.not_true, Bool.false_eq_true, if_false, if_neg (not_lt.mpr fits), Chip.quiet_none_unready hq, slot]

/-! LEDGE_NOTIFY (R253, R255) -/

/-- The package as a notified queue begins to fetch: it no longer waits for its next update. -/
def Chip.lqNotified (c : Chip) (q : Nat) : Chip := c.setLq q { c.lqAt q with ahead := false }

theorem Chip.doLedgeNotify_of_bound (h : (c.lqAt q).bound = true) : c.doLedgeNotify q = (c.lqNotified q).lqFetch q 9 := if_pos h

@[simp] theorem Chip.lqAt_lqNotified (c : Chip) (q : Nat) : (c.lqNotified q).lqAt q = { c.lqAt q with ahead := false } :=
  Chip.lqAt_setLq_same ..

@[simp] theorem Chip.lqPending_lqNotified (c : Chip) (q : Nat) : (c.lqNotified q).lqPending q = c.lqPending q := by
  simp only [Chip.lqPending, Chip.lqAt_lqNotified]
  rfl

@[simp] theorem Chip.lqCmds_lqNotified (c : Chip) (q : Nat) : (c.lqNotified q).lqCmds q = c.lqCmds q := rfl

@[simp] theorem Chip.lqSlot_lqNotified (c : Chip) (q : Nat) : (c.lqNotified q).lqSlot q = c.lqSlot q := by
  simp only [Chip.lqSlot, Chip.lqAt_lqNotified]
  rfl

@[simp] theorem Chip.quiet_lqNotified (c : Chip) (q : Nat) : (c.lqNotified q).quiet = c.quiet := rfl

/-- A bound queue that has not stopped may fetch what is pending once it is notified. -/
theorem Chip.lqMay_lqNotified (hb : (c.lqAt q).bound = true) (ho : (c.lqAt q).overrun = false) (hu : (c.lqAt q).unbind = none)
    (hp : 0 < c.lqPending q) (hn : (c.lqCmds q).length < 8) : (c.lqNotified q).lqMay q = true := by
  rw [Chip.lqMay_iff, Chip.lqAt_lqNotified, Chip.lqPending_lqNotified, Chip.lqCmds_lqNotified]
  exact ⟨hb, ho, rfl, hu, hp, hn⟩

/-- The one command that was pending is fetched, and none is pending any more. -/
theorem Chip.lqPending_lqTaken (h : c.lqPending q = 1) (bs : List Byte) : (c.lqTaken q bs).lqPending q = 0 := by
  have taken : (c.lqTaken q bs).lqAt q = { c.lqAt q with consumed := ((c.lqAt q).consumed + 1) % 2 ^ 32, miss := none } :=
    Chip.lqAt_setLq_same ..
  have value : (c.lqTaken q bs).soValue (c.lqAt q).so = c.soValue (c.lqAt q).so := rfl
  rw [Chip.lqPending, sub32] at h ⊢
  simp only [taken, value]
  omega

/-- The one pending command of a notified queue is fetched from its slot. -/
theorem Chip.doLedgeNotify_fetches (hq : c.quiet = true) (hb : (c.lqAt q).bound = true) (ho : (c.lqAt q).overrun = false)
    (hu : (c.lqAt q).unbind = none) (hp : c.lqPending q = 1) (hn : (c.lqCmds q).length < 8) {bs : List Byte}
    (slot : (c.lqSlot q).1 = .ok bs) : c.doLedgeNotify q = (c.lqNotified q).lqTaken q bs := by
  have slots := Nat.one_le_two_pow (n := (c.lqAt q).log2)
  have rest : ((c.lqNotified q).lqTaken q bs).lqPending q = 0 := Chip.lqPending_lqTaken ((Chip.lqPending_lqNotified ..).trans hp) bs
  rw [Chip.doLedgeNotify_of_bound hb,
    Chip.lqFetch_taken (c := c.lqNotified q) hq (Chip.lqMay_lqNotified hb ho hu (by omega) hn) (by simpa [hp] using slots)
      (by rwa [Chip.lqSlot_lqNotified]),
    Chip.lqFetch_of_not_may (Chip.lqMay_of_none_pending rest)]

/-- The queue once its one pending command is fetched. -/
theorem Chip.lqAt_lqTaken_lqNotified (c : Chip) (q : Nat) (bs : List Byte) : ((c.lqNotified q).lqTaken q bs).lqAt q =
    { c.lqAt q with ahead := false, consumed := ((c.lqAt q).consumed + 1) % 2 ^ 32, miss := none } := by
  have taken : ((c.lqNotified q).lqTaken q bs).lqAt q =
      { (c.lqNotified q).lqAt q with consumed := (((c.lqNotified q).lqAt q).consumed + 1) % 2 ^ 32, miss := none } :=
    Chip.lqAt_setLq_same ..
  rw [taken, Chip.lqAt_lqNotified]

/-- The fetched command is in execution, of the queue's context and with the bytes of its slot. -/
theorem Chip.exists_lqTaken (c : Chip) (q : Nat) (bs : List Byte) : ∃ k ∈ ((c.lqNotified q).lqTaken q bs).ledge.cmds,
    k.lq = q ∧ k.ctx = (c.lqAt q).ctx ∧ k.bytes = bs ∧ k.ran = false :=
  ⟨_, List.mem_append_right _ (List.mem_singleton_self _), rfl,
    (congrArg Lq.ctx (c.lqAt_lqNotified q)).trans rfl, rfl, rfl⟩

/-- A slot that does not match is noted by a notified queue. -/
theorem Chip.doLedgeNotify_misses (hq : c.quiet = true) (hb : (c.lqAt q).bound = true) (ho : (c.lqAt q).overrun = false)
    (hu : (c.lqAt q).unbind = none) (hp : 0 < c.lqPending q) (fits : c.lqPending q ≤ 2 ^ (c.lqAt q).log2)
    (hn : (c.lqCmds q).length < 8) (hm : (c.lqAt q).miss = none) {j : Nat} (slot : (c.lqSlot q).1 = .error j) :
    ∃ since, c.doLedgeNotify q = ((c.lqNotified q).used (lqTlb q) (lqSrc q) (c.lqSlot q).2.2).setLq q
      { c.lqAt q with ahead := false, miss := some (since, j) } := by
  rw [Chip.doLedgeNotify_of_bound hb,
    Chip.lqFetch_missed (c := c.lqNotified q) hq (Chip.lqMay_lqNotified hb ho hu hp hn) (by simpa using fits)
      (by rwa [Chip.lqSlot_lqNotified]),
    Chip.lqAt_lqNotified, Chip.lqSlot_lqNotified, if_neg (by simp [hm])]
  exact ⟨_, rfl⟩

end Fetch

/-! LEDGE_AHEAD (R254) -/

/-- A mismatch that still stands when 4,000 cycles have passed makes the queue wait for its next update, and is logged. -/
theorem Chip.doLedgeAhead_stands {c c0 : Chip} {q since cause j : Nat} (hq : c.quiet = true) (miss : (c.lqAt q).miss = some (since, cause))
    (h0 : c0 = c.passTo (lqSrc q) (since + 4000)) (may : c0.lqMay q = true) (fits : c0.lqPending q ≤ 2 ^ (c.lqAt q).log2)
    (slot : (c0.lqSlot q).1 = .error j) :
    ∃ args, c.doLedgeAhead q = ((c0.used (lqTlb q) (lqSrc q) (c0.lqSlot q).2.2).setLq q
      { c.lqAt q with miss := none, ahead := true }).logEv .ledgeAhead (lqSrc q) args := by
  obtain ⟨f, hf⟩ := c.passTo_eq_modClk (lqSrc q) (since + 4000)
  have at0 : c0.lqAt q = c.lqAt q := by rw [h0, hf]; rfl
  have quiet0 : c0.quiet = true := by rw [h0, hf]; exact hq
  have fetched : c0.lqFetch q 9 = c0.used (lqTlb q) (lqSrc q) (c0.lqSlot q).2.2 := by
    rw [Chip.lqFetch_missed quiet0 may (by rwa [at0]) slot, at0, miss]
    rfl
  have atd : (c0.used (lqTlb q) (lqSrc q) (c0.lqSlot q).2.2).lqAt q = c.lqAt q := ((Chip.worked_used ..).part (·.lqAt q)).trans at0
  simp only [Chip.doLedgeAhead, miss, ← h0, fetched, atd, if_true]
  exact ⟨_, rfl⟩

/-! Completion (R271, R272) -/

theorem Chip.settleLq_of_bound {c : Chip} {q : Nat} (h : (c.lqAt q).unbind = none) : c.settleLq q = c := by simp [Chip.settleLq, h]

@[simp] theorem Chip.soSignal_keeps_ledge (c : Chip) (n v : Nat) : (c.soSignal n v).ledge = c.ledge := (c.woken_soPut n _).part Chip.ledge

/-- The package without a command. -/
def Chip.lcmdGone (c : Chip) (k : LCmd) : Chip := c.modLedge (fun l => { l with cmds := l.cmds.filter (fun x => x.key != k.key) })

/-- A command's record written, where it asks for one (R271). -/
def Chip.lcmdRecorded (c : Chip) (q : Nat) (k : LCmd) (sp : Span) : Chip :=
  if bit k.hflags 2 then (c.used (lqTlb q) (lqSrc q) sp).scatter sp k.recordBytes false (k.f 12 2) else c

/-- A command's object signalled, where it asks for that and its context may use the object (R272). -/
def Chip.lcmdSignalled (c : Chip) (k : LCmd) : Chip :=
  if bit k.hflags 1 ∧ k.f 6 2 < 16384 ∧ c.soAllowed k.ctx (k.f 6 2) = true then c.soSignal (k.f 6 2) (k.f 8 4) else c

theorem Chip.worked_lcmdRecorded (c : Chip) (q : Nat) (k : LCmd) (sp : Span) : c.Worked (c.lcmdRecorded q k sp) := by
  unfold Chip.lcmdRecorded
  split
  · exact (c.worked_used ..).trans (Chip.worked_scatter ..)
  · exact .refl c

@[simp] theorem Chip.lcmdSignalled_keeps_ledge (c : Chip) (k : LCmd) : (c.lcmdSignalled k).ledge = c.ledge := by
  unfold Chip.lcmdSignalled; split <;> simp

/-- The signal of a command is an operation of its context on the object, which takes effect where the context may use it (03 R85). -/
theorem Chip.lcmdSignalled_eq (c : Chip) (k : LCmd) :
    (if bit k.hflags 1 && decide (k.f 6 2 < 16384) then c.soApply k.ctx (k.f 6 2) (k.f 8 4) false else c) = c.lcmdSignalled k := by
  unfold Chip.lcmdSignalled Chip.soApply
  by_cases hs : bit k.hflags 1 = true <;> by_cases hn : k.f 6 2 < 16384 <;> simp [hs, hn]

/-- The first command of a queue that is over leaves it, writes its record and signals; with none pending, and no step that is mirrored,
nothing else happens. -/
theorem Chip.doLedgeCommandComplete_first {c : Chip} {q : Nat} {k : LCmd} {sp : Span} (judged : c.lqJudge q = c)
    (first : (c.lqCmds q).find? (fun x => x.over && !c.versionOut x) = some k) (alone : k.run = none ∨ k.op ≠ 6 ∨ k.mirrored = false)
    (bound : (c.lqAt q).unbind = none) (hsp : sp = (c.lcmdGone k).spanLines (lqTlb q) k.ctx (k.f 16 8) 32 true)
    (served : bit k.hflags 2 = true → sp.fault = none)
    (idle : (((c.lcmdGone k).lcmdRecorded q k sp).lcmdSignalled k).lqPending q = 0) :
    c.doLedgeCommandComplete q = ((c.lcmdGone k).lcmdRecorded q k sp).lcmdSignalled k := by
  have recorded : (if bit k.hflags 2 then
        if sp.fault.isSome then (c.lcmdGone k).used (lqTlb q) (lqSrc q) sp
        else ((c.lcmdGone k).used (lqTlb q) (lqSrc q) sp).scatter sp k.recordBytes false (k.f 12 2)
      else c.lcmdGone k) = (c.lcmdGone k).lcmdRecorded q k sp := by
    unfold Chip.lcmdRecorded
    split
    · next hr => simp [served hr]
    · rfl
  have unmirrored : ∀ r, k.run = some r → ¬ (k.op = 6 ∧ k.mirrored = true) := by
    rintro r hr ⟨h6, hm⟩
    rcases alone with h | h | h
    · rw [hr] at h; cases h
    · exact h h6
    · rw [hm] at h; cases h
  have still : ((((c.lcmdGone k).lcmdRecorded q k sp).lcmdSignalled k).lqAt q).unbind = none := by
    have same : (((c.lcmdGone k).lcmdRecorded q k sp).lcmdSignalled k).ledge.lq = c.ledge.lq := by
      rw [Chip.lcmdSignalled_keeps_ledge]
      exact (Chip.worked_lcmdRecorded ..).part (·.ledge.lq)
    simpa only [Chip.lqAt, same] using bound
  have finished : ((((c.lcmdGone k).lcmdRecorded q k sp).lcmdSignalled k).settleLq q).lqFetch q 9 =
      ((c.lcmdGone k).lcmdRecorded q k sp).lcmdSignalled k := by
    rw [Chip.settleLq_of_bound still, Chip.lqFetch_of_not_may (Chip.lqMay_of_none_pending idle)]
  simp only [Chip.doLedgeCommandComplete, judged, first]
  rw [← Chip.lcmdGone, ← hsp, recorded, Chip.lcmdSignalled_eq]
  split
  · next r hr => rwa [if_neg (unmirrored r hr)]
  · exact finished

/-- Settles O28: a notified queue fetches from its slot (`Chip.lqFetch_taken`, `Chip.lqFetch_missed`, `Chip.lqFetch_overrun`), and the first
command that is over leaves by `Chip.doLedgeCommandComplete_first`. -/
theorem ledgeQueuesFetchAndComplete : Obligations.LedgeQueuesFetchAndComplete := by
  constructor
  · rintro s q x e hl hc rfl
    have hq := State.quiet_of_calm hc
    refine ⟨fun hb _ _ hp => ?_, fun hb ho hu hp hn => ?_, fun bs hb ho hu hp hn hs => ?_, fun j hb ho hu hp hf hn hm hs => ?_,
      fun since cause j c0 hm h0 may hp hs => ?_, fun hf => ?_⟩
    · refine exec_calm (fun c => c.doLedgeNotify q.val) hl hc rfl ((Chip.doLedgeNotify_of_bound hb).trans ?_)
      exact Chip.lqFetch_of_not_may (Chip.lqMay_of_none_pending ((Chip.lqPending_lqNotified ..).trans hp)) 9
    · refine exec_calm (fun c => c.doLedgeNotify q.val) hl hc rfl ((Chip.doLedgeNotify_of_bound hb).trans ?_)
      rw [Chip.lqFetch_overrun (Chip.lqMay_lqNotified hb ho hu (Nat.zero_lt_of_lt hp) hn) (by simpa using hp), Chip.lqAt_lqNotified, Chip.lqNotified,
        Chip.setLq_setLq]
    · refine ⟨_, exec_calm (fun c => c.doLedgeNotify q.val) hl hc rfl (Chip.doLedgeNotify_fetches hq hb ho hu hp hn hs), ?_, ?_,
        Chip.exists_lqTaken .., rfl, rfl⟩
      · rw [Chip.lqAt_lqTaken_lqNotified]
      · rw [Chip.lqAt_lqTaken_lqNotified]
    · obtain ⟨since, he⟩ := Chip.doLedgeNotify_misses hq hb ho hu hp hf hn hm hs
      refine ⟨_, since, exec_calm (fun c => c.doLedgeNotify q.val) hl hc rfl he, ?_, ?_, ?_, ?_⟩
      · rw [Chip.lqAt_setLq_same]
      · rw [Chip.lqAt_setLq_same]
      · exact (Chip.worked_used ..).part (·.ledge.cmds)
      · exact (Chip.worked_used ..).part Chip.so
    · obtain ⟨args, he⟩ := Chip.doLedgeAhead_stands hq hm h0 may hp hs
      obtain ⟨f, hpass⟩ := s.chip.passTo_eq_modClk (lqSrc q.val) (since + 4000)
      have used := c0.worked_used (lqTlb q.val) (lqSrc q.val) (c0.lqSlot q.val).2.2
      have logged := Chip.logged_logEv ((c0.used (lqTlb q.val) (lqSrc q.val) (c0.lqSlot q.val).2.2).setLq q.val
        { s.chip.lqAt q.val with miss := none, ahead := true }) .ledgeAhead (lqSrc q.val) args
      refine ⟨_, exec_calm (fun c => c.doLedgeAhead q.val) hl hc rfl he, ?_, ?_, ?_, ?_⟩
      · exact congrArg Lq.ahead ((logged.part (·.lqAt q.val)).trans (Chip.lqAt_setLq_same ..))
      · exact congrArg Lq.miss ((logged.part (·.lqAt q.val)).trans (Chip.lqAt_setLq_same ..))
      · exact (logged.part (·.ledge.cmds)).trans ((used.part (·.ledge.cmds)).trans (by rw [h0, hpass]; rfl))
      · exact (logged.part Chip.so).trans ((used.part Chip.so).trans (by rw [h0, hpass]; rfl))
    · exact exec_live (fun c => c.doLedgeHwFault e.val) hl rfl (if_neg (ne_true_of_eq_false hf))
  · rintro s q k sp c1 c2 c3 hl hc judged first alone bound rfl hsp served rfl rfl idle
    exact exec_calm (fun c => c.doLedgeCommandComplete q.val) hl hc rfl
      (Chip.doLedgeCommandComplete_first judged first alone bound hsp served idle)

end Sys2Proof.Machine
end

section
/-!
Lines and benches of the ledge engines (10 R257, R260 to R262, R266 to R268, R274, R284, R286, 11 R306 to R309) on a package with nothing
under way.
-/

open Sys2Proof

namespace Sys2Proof.Machine

/-! The command that runs and the turn of its queue (R257) -/

/-- The command that runs next is one of its queue that has not run. -/
theorem Chip.lqTurn_some {c : Chip} {q : Nat} {k : LCmd} (h : c.lqTurn q = some k) : k ∈ c.ledge.cmds ∧ k.lq = q ∧ k.ran = false := by
  simp only [Chip.lqTurn] at h
  split at h
  · next x hx =>
    obtain ⟨⟨hran, -⟩, rfl⟩ : (x.ran = false ∧ _) ∧ x = k := by simpa using h
    have mine := List.mem_filter.mp (List.mem_of_find?_eq_some hx)
    exact ⟨mine.1, by simpa using mine.2, hran⟩
  · cases h

/-- A turn taken changes whose turn it is and nothing else. -/
theorem Chip.takeTurn_eq_modLedge {c d : Chip} {q cost left : Nat} (h : c.takeTurn q cost = some (d, left)) :
    ∃ t, d = c.modLedge (fun l => { l with turns := t }) := by
  simp only [Chip.takeTurn] at h
  split at h
  · cases h; exact ⟨c.ledge.turns, rfl⟩
  · split at h
    · cases h
    · cases h; exact ⟨_, rfl⟩

theorem Chip.takeTurn_quiet {c d : Chip} {q cost left : Nat} (h : c.takeTurn q cost = some (d, left)) : d.quiet = c.quiet := by
  obtain ⟨t, rfl⟩ := Chip.takeTurn_eq_modLedge h
  rfl

/-! One line (R260 to R262) -/

/-- An address that translates is served at once, and its translation is kept. -/
theorem Chip.ledgeLineAt_of_place {c : Chip} (hq : c.quiet = true) {k : LCmd} {va pa : Nat} {wr : Bool} {e : TlbEnt}
    (hp : c.place (lqTlb k.lq) k.ctx (va % 2 ^ 64) wr = .ok (pa, e)) :
    c.ledgeLineAt k va wr = .ok (c.tlbFill (lqTlb k.lq) [e], pa) := by
  simp only [Chip.ledgeLineAt, hp, Chip.quiet_ready hq, if_true]

theorem Chip.ledgeStep_of_place {c : Chip} (hq : c.quiet = true) {k : LCmd} {va pa : Nat} {wr : Bool} {e : TlbEnt}
    (hp : c.place (lqTlb k.lq) k.ctx (va % 2 ^ 64) wr = .ok (pa, e)) :
    c.ledgeStep k va wr = .ok (c.tlbFill (lqTlb k.lq) [e], pa) := by
  simp only [Chip.ledgeStep, Chip.ledgeLineAt_of_place hq hp]

/-- A command whose turn has room for one unit, which it carries out, has that unit's effect and ends with its last. -/
theorem Chip.lqLines_one {c c0 d : Chip} {q op left : Nat} {units cost : LCmd → Nat}
    {step : LCmd → Chip → LCmd → Nat → Except (Chip × LCmd × VFault) (Chip × LCmd)} {k m : LCmd} (ht : c.lqTurn q = some k)
    (ho : k.op = op) (hr : c.lcmdRefusals k = []) (turn : c.takeTurn q (cost k) = some (c0, left))
    (one : min (units k - k.next) (left / cost k) = 1) (hs : step k c0 k k.next = .ok (d, m)) (hm : m.ran = false) :
    c.lqLines q op units cost step LCmd.done =
      (d.spent q (cost k)).setLcmd { m with next := k.next + 1, ran := decide (units k ≤ k.next + 1) } := by
  have walked : ledgeWalk (step k) 1 k.next c0 k = (d, { m with next := k.next + 1 }) := by simp only [ledgeWalk, hs]
  simp only [Chip.lqLines, ht, ho, hr, turn, one, walked, ne_eq, not_true_eq_false, if_false, List.isEmpty_nil, Bool.not_true,
    Bool.false_eq_true, hm, Bool.not_false, Bool.true_and, Nat.add_sub_cancel_left, Nat.one_mul]
  by_cases last : units k ≤ k.next + 1
  · simp [last, LCmd.done]
  · simp [last]

section Line

variable {c : Chip} (hq : c.quiet = true) {k : LCmd} {i pd : Nat} {ed : TlbEnt}
  (hd : c.place (lqTlb k.lq) k.ctx ((k.f 24 8 + 64 * i) % 2 ^ 64) true = .ok (pd, ed))
include hq hd

/-- LEDGE_FILL writes its pattern (R260). -/
theorem ledgeFillStep_writes (hf : c.fencedAt pd = false) :
    ledgeFillStep k c k i = .ok ((c.tlbFill (lqTlb k.lq) [ed]).storeHint pd (List.replicate 16 (leBytes 4 (k.f 40 4))).flatten false k.hint,
      { k with count := k.count + 1 }) := by
  have inService : (c.tlbFill (lqTlb k.lq) [ed]).fencedAt pd = false := hf
  simp only [ledgeFillStep, Chip.ledgeStep_of_place hq hd, inService, Bool.false_eq_true, if_false]
  rfl

/-- A fenced engine refuses its line (R286). -/
theorem ledgeFillStep_fenced (hf : c.fencedAt pd = true) :
    ledgeFillStep k c k i = .ok (c.tlbFill (lqTlb k.lq) [ed], k.tally 8 (k.f 24 8 + 64 * i)) := by
  have fenced : (c.tlbFill (lqTlb k.lq) [ed]).fencedAt pd = true := hf
  simp only [ledgeFillStep, Chip.ledgeStep_of_place hq hd, fenced, if_true]

/-- SCALE writes the products of a line's elements, which keeps its poison (R262). -/
theorem scaleStep_writes (hf : c.fencedAt pd = false) :
    scaleStep k c k i = .ok
      ((c.tlbFill (lqTlb k.lq) [ed]).storeHint pd (scaleLine (c.mem.line (pd / 64)).1 (k.f 40 4) (k.f 44 1)).1 (c.mem.line (pd / 64)).2 k.hint,
        (k.applied (k.f 24 8 + 64 * i) (c.mem.line (pd / 64)).2).flag
          (8 * b2n (scaleLine (c.mem.line (pd / 64)).1 (k.f 40 4) (k.f 44 1)).2.1 +
            16 * b2n (scaleLine (c.mem.line (pd / 64)).1 (k.f 40 4) (k.f 44 1)).2.2)) := by
  have inService : (c.tlbFill (lqTlb k.lq) [ed]).fencedAt pd = false := hf
  simp only [scaleStep, Chip.ledgeStep_of_place hq hd, inService, Bool.false_eq_true, if_false]
  rfl

/-- ACCUM outside a bucket writes the sums of the elements of two lines, poisoned where either is (R261). -/
theorem accumStep_writes {ps : Nat} {es : TlbEnt} {r : List Byte × Bool × Bool} {bad : Bool} (hb : bit k.hflags 3 = false)
    (hf : c.fencedAt pd = false)
    (hp : (c.tlbFill (lqTlb k.lq) [ed]).place (lqTlb k.lq) k.ctx ((k.f 32 8 + 64 * i) % 2 ^ 64) false = .ok (ps, es))
    (hr : r = accLine (c.mem.line (pd / 64)).1 0xFFFF (lineElems (c.mem.line (ps / 64)).1))
    (hbad : bad = ((c.mem.line (pd / 64)).2 || (c.mem.line (ps / 64)).2)) :
    accumStep k c k i = .ok
      (((c.tlbFill (lqTlb k.lq) [ed]).tlbFill (lqTlb k.lq) [es]).storeHint pd r.1 bad k.hint,
        (k.applied (k.f 24 8 + 64 * i) bad).flag (8 * b2n r.2.1 + 16 * b2n r.2.2)) := by
  have inService : ((c.tlbFill (lqTlb k.lq) [ed]).tlbFill (lqTlb k.lq) [es]).fencedAt pd = false := hf
  have quiet1 : (c.tlbFill (lqTlb k.lq) [ed]).quiet = true := hq
  simp only [accumStep, Chip.ledgeStep_of_place hq hd, Chip.ledgeStep_of_place quiet1 hp, hb, inService, Bool.false_eq_true, if_false]
  rw [hr, hbad]
  rfl

end Line

@[simp] theorem LCmd.tally_ran (k : LCmd) (code detail : Nat) : (k.tally code detail).ran = k.ran := by
  unfold LCmd.tally LCmd.stat; split <;> rfl

@[simp] theorem LCmd.applied_ran (k : LCmd) (va : Nat) (bad : Bool) : (k.applied va bad).ran = k.ran := by
  cases bad
  · rfl
  · exact LCmd.tally_ran ..

/-! Benches and version blocks (R266 to R268, 11 R306, R307, R309) -/

/-- A bench that can be carried out is: its translations are kept, and it takes its room in the queue's turn. -/
theorem Chip.doBenchOp_runs {c c0 : Chip} {q left : Nat} {k : LCmd} {r : OptRun} {l : List (Nat × TlbEnt)} {copy : Span} {pas : List Nat}
    (hq : c.quiet = true) (step : c.lqStep q = some (k, r)) (more : r.next < r.last) (begun : fieldLE r.desc 40 8 = 0 ∨ r.begun = true)
    (places : c.placesOf k (r.tensors r.next) = .ok l) (hpas : pas = l.map (·.1)) (served : fieldLE r.desc 32 8 = 0 ∨ copy.fault = none)
    (hcopy : copy = c.spanLines (lqTlb q) k.ctx (fieldLE r.desc 32 8 + 64 * lowSize (fieldLE r.desc 53 1) * r.next)
      (64 * lowSize (fieldLE r.desc 53 1)) true)
    (home : ∀ p ∈ pas, homeOf p = homeOf (pas.getD 2 0) ∧ c.mem.poisonedN p 256 = false) (fence : c.fencedAt (pas.getD 2 0) = false)
    (room : c.benchesOut (c.mem.engineOf (pas.getD 2 0)) < 64)
    (turn : (c.tlbFill (lqTlb q) (l.map (·.2) ++ (if fieldLE r.desc 32 8 = 0 then [] else copy.ents))).takeTurn q (4 * pas.length) =
      some (c0, left)) :
    c.doBenchOp q = (c0.benchRun k r pas copy).spent q (4 * pas.length) := by
  have goes : ¬ (r.last ≤ r.next ∨ (fieldLE r.desc 40 8 ≠ 0 ∧ (!r.begun) = true)) := by
    rintro (h | ⟨h, g⟩)
    · omega
    · rcases begun with b | b
      · exact h b
      · simp [b] at g
  have together : pas.any (fun p => homeOf p != homeOf (pas.getD 2 0)) = false := by
    rw [List.any_eq_false]
    intro p hp
    simp only [(home p hp).1, bne_self_eq_false, Bool.false_eq_true, not_false_eq_true]
  have clean : pas.any (fun p => c.mem.poisonedN p 256) = false := by
    rw [List.any_eq_false]
    intro p hp
    simp only [(home p hp).2, Bool.false_eq_true, not_false_eq_true]
  subst hpas
  simp only [Chip.doBenchOp, step, places, ← hcopy]
  rw [if_neg goes]
  split
  · next x found =>
    exfalso
    split at found
    · cases found
    · next low => simp [served.resolve_left low] at found
  · next l' found =>
    obtain rfl : l = l' := by
      split at found
      · simpa using found
      · next low => simpa [served.resolve_left low] using found
    simp only [Chip.quiet_none_unready hq, together, fence, clean, not_le.mpr room, turn, Bool.false_eq_true, if_false]

/-- A step without a low-precision copy and without a mirror writes its tensors and counts the bench. -/
theorem Chip.benchRun_plain (c : Chip) {k : LCmd} {r : OptRun} (pas : List Nat) (copy : Span) (low : fieldLE r.desc 32 8 = 0)
    (mirror : k.mirrored = false) :
    c.benchRun k r pas copy = (c.benchStore k r pas (c.benchOut r pas).1).setLcmd
      { k.flag (8 * b2n (c.benchOut r pas).2.1 + 16 * b2n (c.benchOut r pas).2.2) with
        count := k.count + 1, run := some { r with next := r.next + 1 } } := by
  simp [Chip.benchRun, low, mirror]

/-- A version block without holds turns BUSY; with holds the step waits (R309). -/
theorem Chip.doVersionBegin_found {c : Chip} {q pa v h : Nat} {k : LCmd} {r : OptRun} (step : c.lqStep q = some (k, r))
    (block : fieldLE r.desc 40 8 ≠ 0) (fresh : r.begun = false) (more : r.next < r.last)
    (at_ : c.versionAt (lqTlb q) k.ctx (fieldLE r.desc 40 8) = .ok (pa, v, h)) :
    c.doVersionBegin q = if h ≠ 0 then c
      else (c.storeHint pa (leBytes 8 (v % 2 ^ 63 + 2 ^ 63)) false 0).setLcmd { k with run := some { r with begun := true } } := by
  simp [Chip.doVersionBegin, step, block, fresh, not_le.mpr more, at_]

/-- After the last bench VERSION counts up and BUSY is clear (R309). -/
theorem Chip.doVersionEnd_found {c : Chip} {q pa v h : Nat} {k : LCmd} {r : OptRun} (step : c.lqStep q = some (k, r))
    (begun : r.begun = true) (open_ : r.ended = false) (last : r.last ≤ r.next)
    (at_ : c.versionAt (lqTlb q) k.ctx (fieldLE r.desc 40 8) = .ok (pa, v, h)) :
    c.doVersionEnd q = (((c.storeHint pa (leBytes 8 (versionNext v (r.torn || k.stopped))) false 0).setLcmd
      { k with run := some { r with ended := true, version := versionNext v (r.torn || k.stopped) } }).mirrorVersion
        { k with run := some { r with ended := true, version := versionNext v (r.torn || k.stopped) } }).snapTry := by
  simp [Chip.doVersionEnd, step, begun, open_, last, at_]

/-- A coherent write without a hint puts its bytes into memory as memory's own write does. -/
theorem Chip.storeHint_none_bytes {c : Chip} (hq : c.quiet = true) (pa : Nat) (bs : List Byte) (bad : Bool) :
    (c.storeHint pa bs bad 0).mem.bytes = (c.mem.store pa bs bad).bytes := by
  have unhinted : c.hintUsable 0 = none := rfl
  have kept : ∀ (m : Mem) (ln : Nat), m.hintLost ln 0 = m := fun _ _ => rfl
  simp only [Chip.storeHint, unhinted, Chip.quiet_meet hq, Chip.modMem_mem, kept, List.foldl_fixed]

/-- Settles O27: a line by its command's step (`ledgeFillStep_writes`, `scaleStep_writes`, `accumStep_writes`), carried out by
`Chip.lqLines_one`; benches and version blocks by the operations that BENCH_OP, VERSION_BEGIN and VERSION_END carry out. -/
theorem ledgeLinesAndBenches : Obligations.LedgeLinesAndBenches := by
  constructor
  · rintro s q k n left a pd ps ed es c0 c1 c2 old src r hl hc ht hlq hr turn rfl hd rfl rfl
    have quiet0 : c0.quiet = true := (Chip.takeTurn_quiet turn).trans (State.quiet_of_calm hc)
    have mem0 : c0.mem = s.chip.mem := by obtain ⟨t, rfl⟩ := Chip.takeTurn_eq_modLedge turn; rfl
    obtain ⟨-, -, hran⟩ := Chip.lqTurn_some ht
    rw [← hlq] at ht turn hd
    refine ⟨fun ho hn one => ⟨fun hf => ?_, fun hf => ?_⟩, fun ho hn one hf hrr => ?_, fun ho hn one hb hf hp hc2 hsrc hrr => ?_⟩
    · subst hn
      refine exec_calm (fun c => c.doLedgeFill q.val) hl hc rfl ?_
      rw [← hlq]
      exact Chip.lqLines_one ht ho hr turn (by simpa using one) (ledgeFillStep_writes quiet0 hd hf) hran
    · subst hn
      refine exec_calm (fun c => c.doLedgeFill q.val) hl hc rfl ?_
      rw [← hlq]
      exact Chip.lqLines_one ht ho hr turn (by simpa using one) (ledgeFillStep_fenced quiet0 hd hf) (by simpa using hran)
    · subst hn hrr
      refine exec_calm (fun c => c.doScale q.val) hl hc rfl ?_
      rw [← mem0, ← hlq]
      exact Chip.lqLines_one ht ho hr turn (by simpa using one) (scaleStep_writes quiet0 hd hf) (by simpa [LCmd.flag] using hran)
    · subst hn hc2 hsrc hrr
      refine exec_calm (fun c => c.doAccum q.val) hl hc rfl ?_
      rw [← hlq] at hp
      rw [← mem0, ← hlq]
      exact Chip.lqLines_one ht ho hr turn one (accumStep_writes quiet0 hd hb hf hp rfl rfl) (by simpa [LCmd.flag] using hran)
  · rintro s q k r hl hc step
    refine ⟨fun l copy pas c0 c1 left low u hlow more begun places hpas served hcopy home fence room hc1 turn hu => ⟨?_, fun h0 hm => ?_⟩,
      fun pa v h block fresh more at_ => ⟨fun h0 => ?_, fun h0 => ?_⟩, fun pa v h n k1 begun opened last at_ hn hk1 => ?_, fun pa v => ?_⟩
    · subst hlow hc1
      exact exec_calm (fun c => c.doBenchOp q.val) hl hc rfl
        (Chip.doBenchOp_runs (State.quiet_of_calm hc) step more begun places hpas served hcopy home fence room turn)
    · subst hlow hu
      exact c0.benchRun_plain pas copy h0 hm
    · exact exec_calm (fun c => c.doVersionBegin q.val) hl hc rfl
        ((Chip.doVersionBegin_found step block fresh more at_).trans (if_neg (not_not.mpr h0)))
    · exact exec_calm (fun c => c.doVersionBegin q.val) hl hc rfl ((Chip.doVersionBegin_found step block fresh more at_).trans (if_pos h0))
    · subst hn hk1
      exact exec_calm (fun c => c.doVersionEnd q.val) hl hc rfl (Chip.doVersionEnd_found step begun opened last at_)
    · exact Chip.storeHint_none_bytes (State.quiet_of_calm hc) pa _ false

end Sys2Proof.Machine
end

section
/-!
Ledge commands run in turn (10 R257 to R269, R273): whatever its range meets, a command that its queue's turn lets run changes its own entry
and what line operations change, and has gone on by a unit or ended.
-/

open Sys2Proof

namespace Sys2Proof.Machine

/-! What the operations of a command's lines can change -/

theorem Chip.worked_fillSome (c : Chip) (tag pa : Nat) : c.Worked (c.fillSome tag pa) := by
  unfold Chip.fillSome
  dsimp only
  split <;> rfl

theorem Chip.worked_setBucket (c : Chip) (tag : Nat) (b : Bucket) : c.Worked (c.setBucket tag b) := rfl

theorem Chip.worked_contribute (c : Chip) (tag pa mask : Nat) (xs : List Nat) (bad : Bool) (ctx : Option Nat) (src hint : Nat) :
    c.Worked (c.contribute tag pa mask xs bad ctx src hint).1 := by
  have filled := c.worked_fillSome tag pa
  unfold Chip.contribute
  dsimp only
  split
  · exact (filled.trans (Chip.worked_setBucket ..)).trans (Chip.logged_logWin ..).worked
  · split
    · exact filled
    · split
      · exact filled.trans rfl
      · exact (filled.trans (Chip.worked_storeHint ..)).trans (Chip.worked_setBucket ..)

theorem Chip.worked_spent (c : Chip) (q n : Nat) : c.Worked (c.spent q n) := rfl

theorem Chip.worked_haulPost (c : Chip) (k : Nat) (m : HMsg) : c.Worked (c.haulPost k m) := rfl

theorem Chip.worked_takeTurn {c d : Chip} {q cost left : Nat} (h : c.takeTurn q cost = some (d, left)) : c.Worked d := by
  obtain ⟨t, rfl⟩ := Chip.takeTurn_eq_modLedge h
  rfl

/-- An accepted turn has room for what is asked, when a turn of the queue has at all. -/
theorem Chip.cost_le_left {c d : Chip} {q cost left : Nat} (h : c.takeTurn q cost = some (d, left)) (fits : cost ≤ (c.lqAt q).weight * 64) :
    cost ≤ left := by
  simp only [Chip.takeTurn] at h
  split at h
  · next room =>
    cases h
    exact room.2
  · split at h
    · cases h
    · cases h
      exact fits

/-! A command changed -/

/-- A command at another stage is the same command: its key, queue, context and bytes stay. -/
def LCmd.SameAs (m k : LCmd) : Prop := m.key = k.key ∧ m.lq = k.lq ∧ m.ctx = k.ctx ∧ m.bytes = k.bytes

theorem LCmd.SameAs.refl (k : LCmd) : k.SameAs k := ⟨rfl, rfl, rfl, rfl⟩

theorem LCmd.SameAs.trans {a b k : LCmd} (h : a.SameAs b) (g : b.SameAs k) : a.SameAs k := by
  obtain ⟨hkey, hlq, hctx, hbytes⟩ := h
  obtain ⟨gkey, glq, gctx, gbytes⟩ := g
  exact ⟨hkey.trans gkey, hlq.trans glq, hctx.trans gctx, hbytes.trans gbytes⟩

theorem LCmd.sameAs_tally (k : LCmd) (code detail : Nat) : (k.tally code detail).SameAs k := by
  unfold LCmd.tally; split <;> exact .refl k

theorem LCmd.sameAs_applied (k : LCmd) (va : Nat) (bad : Bool) : (k.applied va bad).SameAs k := by
  cases bad
  · exact .refl k
  · exact LCmd.sameAs_tally { k with count := k.count + 1 } 5 va

/-- Setting the same command twice is setting it once. -/
theorem Chip.setLcmd_setLcmd (c : Chip) {k m : LCmd} (h : m.key = k.key) : (c.setLcmd k).setLcmd m = c.setLcmd m := by
  have twice : (c.ledge.cmds.map (fun x => if x.key = k.key then k else x)).map (fun x => if x.key = m.key then m else x) =
      c.ledge.cmds.map (fun x => if x.key = m.key then m else x) := by
    rw [List.map_map]
    refine List.map_congr_left fun x _ => ?_
    by_cases hx : x.key = k.key <;> simp [hx, h]
  show (c.modLedge fun l => { l with cmds := _ }) = c.modLedge fun l => { l with cmds := _ }
  exact congrArg (fun cmds => c.modLedge fun l => { l with cmds := cmds }) twice

/-- Line work done after a command is changed could be done before. -/
theorem Chip.Worked.of_setLcmd {c d : Chip} {k : LCmd} (h : (c.setLcmd k).Worked d) : ∃ e, c.Worked e ∧ d = e.setLcmd k :=
  ⟨{ d with ledge := { d.ledge with cmds := c.ledge.cmds } }, by unfold Chip.Worked at h; rw [h]; rfl, by
    unfold Chip.Worked at h; rw [h]; rfl⟩

/-- A command has been given its turn: it ends or has gone on from the lines that it has done, and every other command, the queues, tiles,
objects and contexts, and the package's boot state are as before. -/
def Chip.LedgeRan (c : Chip) (k : LCmd) (d : Chip) : Prop :=
  (∃ k' ∈ d.ledge.cmds, k'.key = k.key ∧ k'.bytes = k.bytes ∧ (k'.ran = true ∨ k.next < k'.next)) ∧
    (∀ j ∈ c.ledge.cmds, j.key ≠ k.key → j ∈ d.ledge.cmds) ∧ d.ledge.lq = c.ledge.lq ∧ d.tile = c.tile ∧ d.so = c.so ∧ d.ctx = c.ctx ∧
    d.boot = c.boot

/-- Line work and a change of the command's own entry are such a turn. -/
theorem Chip.ledgeRan_of_worked {c d : Chip} {k m : LCmd} (mem : k ∈ c.ledge.cmds) (work : c.Worked d) (same : m.SameAs k)
    (goes : m.ran = true ∨ k.next < m.next) : c.LedgeRan k (d.setLcmd m) := by
  obtain ⟨hkey, -, -, hbytes⟩ := same
  have cmds : (d.setLcmd m).ledge.cmds = c.ledge.cmds.map (fun x => if x.key = m.key then m else x) :=
    congrArg (List.map _) (work.part (·.ledge.cmds))
  refine ⟨⟨m, ?_, hkey, hbytes, goes⟩, fun j hj hne => ?_, work.part (·.ledge.lq), work.part Chip.tile, work.part Chip.so, work.part Chip.ctx,
    work.part Chip.boot⟩
  · rw [cmds, List.mem_map]
    exact ⟨k, mem, if_pos hkey.symm⟩
  · rw [cmds, List.mem_map]
    exact ⟨j, hj, if_neg (hkey ▸ hne)⟩

/-! Units and walks (R270, R282) -/

/-- What one unit of a command may leave: the package with line work done and the same command, and on a package with nothing under way it
is not held. -/
def UnitSound (c : Chip) (l : LCmd) : Except (Chip × LCmd × VFault) (Chip × LCmd) → Prop
  | .ok (d, m) => c.Worked d ∧ m.SameAs l
  | .error (d, m, f) => c.Worked d ∧ m.SameAs l ∧ (c.quiet = true → f.kind ≠ .held)

/-- A unit after one more line is found is sound where it is sound on the package that the finding leaves. -/
theorem UnitSound.after {c d : Chip} {l : LCmd} {r : Except (Chip × LCmd × VFault) (Chip × LCmd)} (work : c.Worked d)
    (still : c.quiet = true → d.quiet = true) (h : UnitSound d l r) : UnitSound c l r := by
  match r, h with
  | .ok _, ⟨w, same⟩ => exact ⟨work.trans w, same⟩
  | .error _, ⟨w, same, free⟩ => exact ⟨work.trans w, same, fun hq => free (still hq)⟩

/-- A command is sound in every unit. -/
def StepSound (step : Chip → LCmd → Nat → Except (Chip × LCmd × VFault) (Chip × LCmd)) : Prop := ∀ c l i, UnitSound c l (step c l i)

/-- The line of a unit is found, or a fault ends the unit, which is no hold on a package with nothing under way. -/
theorem Chip.ledgeLineAt_cases (c : Chip) (k : LCmd) (va : Nat) (wr : Bool) :
    (∃ pa es, c.ledgeLineAt k va wr = .ok (c.tlbFill (lqTlb k.lq) es, pa)) ∨
      ∃ d f, c.ledgeLineAt k va wr = .error (d, f) ∧ c.Worked d ∧ (c.quiet = true → f.kind ≠ .held) := by
  unfold Chip.ledgeLineAt
  dsimp only
  split
  · next pa e hp =>
    split
    · exact .inl ⟨pa, [e], rfl⟩
    · next held => exact .inr ⟨_, _, rfl, .refl c, fun hq => absurd (Chip.quiet_ready hq _ _) held⟩
  · next f hp => exact .inr ⟨_, _, rfl, c.worked_used .., fun _ => Chip.place_error_kind hp⟩

theorem Chip.ledgeStep_cases (c : Chip) (k : LCmd) (va : Nat) (wr : Bool) :
    (∃ pa es, c.ledgeStep k va wr = .ok (c.tlbFill (lqTlb k.lq) es, pa)) ∨
      ∃ d f, c.ledgeStep k va wr = .error (d, k, f) ∧ c.Worked d ∧ (c.quiet = true → f.kind ≠ .held) := by
  unfold Chip.ledgeStep
  rcases c.ledgeLineAt_cases k va wr with ⟨pa, es, h⟩ | ⟨d, f, h, work, free⟩
  · exact .inl ⟨pa, es, by rw [h]⟩
  · exact .inr ⟨d, f, by rw [h], work, free⟩

/-- A walk does line work for the same command. -/
theorem ledgeWalk_works {step : Chip → LCmd → Nat → Except (Chip × LCmd × VFault) (Chip × LCmd)} (hs : StepSound step) (n i : Nat) (c : Chip)
    (k : LCmd) : c.Worked (ledgeWalk step n i c k).1 ∧ (ledgeWalk step n i c k).2.SameAs k := by
  induction n generalizing i c k with
  | zero => exact ⟨.refl c, .refl k⟩
  | succ n ih =>
    have sound := hs c k i
    unfold ledgeWalk
    split
    · next d l h =>
      rw [h] at sound
      obtain ⟨work, same⟩ := ih (i + 1) d { l with next := i + 1 }
      exact ⟨sound.1.trans work, same.trans sound.2⟩
    · next d l f h =>
      rw [h] at sound
      split
      · exact ⟨.refl c, .refl k⟩
      · exact ⟨sound.1, sound.2.1⟩

/-- A walk does not fall behind where it starts. -/
theorem ledgeWalk_next {step : Chip → LCmd → Nat → Except (Chip × LCmd × VFault) (Chip × LCmd)} {j : Nat} (n i : Nat) (c : Chip) (k : LCmd)
    (hk : j ≤ k.next) (hi : j ≤ i) : (ledgeWalk step n i c k).2.ran = true ∨ j ≤ (ledgeWalk step n i c k).2.next := by
  induction n generalizing i c k with
  | zero => exact .inr hk
  | succ n ih =>
    unfold ledgeWalk
    split
    · exact ih (i + 1) _ _ (Nat.le_succ_of_le hi) (Nat.le_succ_of_le hi)
    · split
      · exact .inr hk
      · exact .inl rfl

/-- A walk over one unit or more, with nothing under way, gets past the first or ends. -/
theorem ledgeWalk_goes_on {step : Chip → LCmd → Nat → Except (Chip × LCmd × VFault) (Chip × LCmd)} (hs : StepSound step) {n : Nat} (hn : 0 < n)
    (i : Nat) {c : Chip} (hq : c.quiet = true) (k : LCmd) : (ledgeWalk step n i c k).2.ran = true ∨ i < (ledgeWalk step n i c k).2.next := by
  obtain ⟨n, rfl⟩ := Nat.exists_eq_add_of_lt hn
  have sound := hs c k i
  rw [Nat.zero_add]
  unfold ledgeWalk
  split
  · exact ledgeWalk_next n (i + 1) _ _ (le_refl _) (le_refl _)
  · next d l f h =>
    rw [h] at sound
    rw [if_neg (sound.2.2 hq)]
    exact .inl rfl

/-- What may end a command after its last unit: line work for the same command, which ends it or leaves it as it is, and ends it on a package
with nothing under way. -/
def EndSound (fin : Chip → LCmd → Chip × LCmd) : Prop :=
  ∀ c k, c.Worked (fin c k).1 ∧ (fin c k).2.SameAs k ∧ ((fin c k).2.ran = true ∨ (fin c k).2 = k ∧ c.quiet = false)

theorem endSound_done : EndSound LCmd.done := fun c k => ⟨.refl c, .refl k, .inl rfl⟩

/-! The turn of a command (R257) -/

/-- A legal command that its queue's turn lets run, on a package with nothing under way. -/
structure Chip.Serves (c : Chip) (q : Nat) (k : LCmd) : Prop where
  quiet : c.quiet = true
  turn : c.lqTurn q = some k
  legal : c.lcmdRefusals k = []
  fresh : k.stats = []
  turns : ∀ n, (c.takeTurn q n).isSome = true
  weight : 1 ≤ (c.lqAt q).weight

/-- A command that is carried out over units has gone on by one or ended after its turn. -/
theorem Chip.lqLines_works {c : Chip} {q op : Nat} {units cost : LCmd → Nat}
    {step : LCmd → Chip → LCmd → Nat → Except (Chip × LCmd × VFault) (Chip × LCmd)} {fin : Chip → LCmd → Chip × LCmd} {k : LCmd}
    (hq : c.quiet = true) (ht : c.lqTurn q = some k) (hr : c.lcmdRefusals k = []) (turn : (c.takeTurn q (cost k)).isSome = true)
    (hw : 1 ≤ (c.lqAt q).weight) (ho : k.op = op) (some_cost : 0 < cost k) (fits : cost k ≤ 64) (hs : StepSound (step k))
    (hf : EndSound fin) :
    ∃ d m, c.lqLines q op units cost step fin = d.setLcmd m ∧ c.Worked d ∧ m.SameAs k ∧ (m.ran = true ∨ k.next < m.next) := by
  obtain ⟨⟨c0, left⟩, took⟩ := Option.isSome_iff_exists.mp turn
  obtain ⟨-, -, hran⟩ := Chip.lqTurn_some ht
  have room : 0 < left / cost k := Nat.div_pos (Chip.cost_le_left took (by omega)) some_cost
  have quiet0 : c0.quiet = true := (Chip.takeTurn_quiet took).trans hq
  simp only [Chip.lqLines, ht, ho, hr, took, ne_eq, not_true_eq_false, if_false, List.isEmpty_nil, Bool.not_true, Bool.false_eq_true]
  generalize hwalk : ledgeWalk (step k) (min (units k - k.next) (left / cost k)) k.next c0 k = r
  obtain ⟨work, same⟩ : c0.Worked r.1 ∧ r.2.SameAs k := by rw [← hwalk]; exact ledgeWalk_works hs ..
  have goes : k.next < units k → r.2.ran = true ∨ k.next < r.2.next := fun more => by
    rw [← hwalk]; exact ledgeWalk_goes_on hs (by omega) _ quiet0 _
  have stays : units k ≤ k.next → r = (c0, k) := fun none_left => by
    rw [← hwalk, Nat.sub_eq_zero_of_le none_left, Nat.zero_min]; rfl
  obtain ⟨fwork, fsame, fends⟩ := hf r.1 r.2
  have start := Chip.worked_takeTurn took
  split
  · next last =>
    refine ⟨_, _, rfl, ((start.trans work).trans fwork).trans (Chip.worked_spent ..), fsame.trans same, ?_⟩
    rcases fends with ended | ⟨unchanged, busy⟩
    · exact .inl ended
    · rcases Nat.lt_or_ge k.next (units k) with more | none_left
      · rw [unchanged]; exact goes more
      · rw [stays none_left, quiet0] at busy
        cases busy
  · next open_ =>
    refine ⟨_, _, rfl, (start.trans work).trans (Chip.worked_spent ..), same, ?_⟩
    rcases Nat.lt_or_ge k.next (units k) with more | none_left
    · exact goes more
    · rw [stays none_left] at open_
      simp [hran, none_left] at open_

/-- A command carried out over units, given its turn. -/
theorem Chip.Serves.lqLines {c : Chip} {q op : Nat} {k : LCmd} (h : c.Serves q k) {units cost : LCmd → Nat}
    {step : LCmd → Chip → LCmd → Nat → Except (Chip × LCmd × VFault) (Chip × LCmd)} {fin : Chip → LCmd → Chip × LCmd} (ho : k.op = op)
    (some_cost : 0 < cost k) (fits : cost k ≤ 64) (hs : StepSound (step k)) (hf : EndSound fin) :
    c.LedgeRan k (c.lqLines q op units cost step fin) := by
  obtain ⟨d, m, he, work, same, goes⟩ := Chip.lqLines_works (units := units) h.quiet h.turn h.legal (h.turns _) h.weight ho some_cost fits hs hf
  rw [he]
  exact Chip.ledgeRan_of_worked (Chip.lqTurn_some h.turn).1 work same goes

/-- What a command carried out in one piece leaves: line work done and the same command, not held. -/
def PieceSound (c : Chip) (k : LCmd) (r : Chip × LCmd) : Prop :=
  c.Worked r.1 ∧ r.2.SameAs k ∧ r.2.stats.any (fun s => s.1 == VKind.held.code) = false

/-- A command carried out in one piece by line work that is not held, given its turn. -/
theorem Chip.Serves.lqRun {c : Chip} {q op : Nat} {k : LCmd} (h : c.Serves q k) {f : Chip → LCmd → Chip × LCmd} (ho : k.op = op)
    (piece : PieceSound c k (f c k)) : c.LedgeRan k (c.lqRun q op f) := by
  obtain ⟨work, same, free⟩ := piece
  simp only [Chip.lqRun, h.turn, ho, h.legal, free, ne_eq, not_true_eq_false, if_false, List.isEmpty_nil, if_true, Bool.false_eq_true]
  exact Chip.ledgeRan_of_worked (Chip.lqTurn_some h.turn).1 work same (.inl rfl)

/-! The units of each opcode -/

theorem stepSound_ledgeFillStep (k : LCmd) : StepSound (ledgeFillStep k) := by
  intro c l i
  rcases c.ledgeStep_cases l (k.f 24 8 + 64 * i) true with ⟨pa, es, h⟩ | ⟨d, f, h, work, free⟩
  · refine UnitSound.after (c.worked_tlbFill (lqTlb l.lq) es) id ?_
    simp only [ledgeFillStep, h]
    split
    · exact ⟨.refl _, LCmd.sameAs_tally ..⟩
    · exact ⟨Chip.worked_storeHint .., LCmd.sameAs_applied ..⟩
  · simp only [ledgeFillStep, h]
    exact ⟨work, .refl l, free⟩

theorem stepSound_scaleStep (k : LCmd) : StepSound (scaleStep k) := by
  intro c l i
  rcases c.ledgeStep_cases l (k.f 24 8 + 64 * i) true with ⟨pa, es, h⟩ | ⟨d, f, h, work, free⟩
  · refine UnitSound.after (c.worked_tlbFill (lqTlb l.lq) es) id ?_
    simp only [scaleStep, h]
    split
    · exact ⟨.refl _, LCmd.sameAs_tally ..⟩
    · exact ⟨Chip.worked_storeHint .., (LCmd.sameAs_applied ..).trans (.refl _)⟩
  · simp only [scaleStep, h]
    exact ⟨work, .refl l, free⟩

theorem stepSound_sumsqStep (k : LCmd) : StepSound (sumsqStep k) := by
  intro c l i
  rcases c.ledgeStep_cases l (k.f 24 8 + 64 * i) false with ⟨pa, es, h⟩ | ⟨d, f, h, work, free⟩
  · refine UnitSound.after (c.worked_tlbFill (lqTlb l.lq) es) id ?_
    simp only [sumsqStep, h]
    split
    · exact ⟨.refl _, LCmd.sameAs_tally ..⟩
    · exact ⟨rfl, (LCmd.sameAs_applied ..).trans (.refl _)⟩
  · simp only [sumsqStep, h]
    exact ⟨work, .refl l, free⟩

theorem stepSound_mirrorStep (k : LCmd) : StepSound (mirrorStep k) := by
  intro c l i
  rcases c.ledgeStep_cases l (k.f 24 8 + 64 * i) false with ⟨pa, es, h⟩ | ⟨d, f, h, work, free⟩
  · refine UnitSound.after (c.worked_tlbFill (lqTlb l.lq) es) id ?_
    simp only [mirrorStep, h]
    split
    · split
      · exact ⟨.refl _, .refl l⟩
      · exact ⟨Chip.worked_haulPost .., .refl l⟩
    · exact ⟨.refl _, .refl l⟩
  · simp only [mirrorStep, h]
    exact ⟨work, .refl l, free⟩

/-- On a package with nothing under way no bucket's fill holds a contribution, and its home serves it (R291): it is applied, refused, or
refused by a fenced engine. -/
theorem Chip.quiet_contribute {c : Chip} (hq : c.quiet = true) {tag pa mask : Nat} {xs : List Nat} {bad : Bool} {ctx : Option Nat}
    {src hint : Nat} (applied : (c.contribute tag pa mask xs bad ctx src hint).2 ≠ 0)
    (refused : (c.contribute tag pa mask xs bad ctx src hint).2 ≠ 1) : (c.contribute tag pa mask xs bad ctx src hint).2 = 2 := by
  have filling : (c.bucketAt tag).st ≠ .filling := by
    intro hst
    have none_fills := hq
    simp only [Chip.quiet, Bool.and_eq_true, Bool.not_eq_true', List.any_eq_false] at none_fills
    rcases tabGet_default_or_mem Bucket.fresh c.bucket tag with e | e
    · rw [Chip.bucketAt, e] at hst; cases hst
    · exact none_fills.2 _ e (by simpa [Chip.bucketAt] using hst)
  have unfilled : c.fillSome tag pa = c := by
    unfold Chip.fillSome
    exact if_neg (fun h => filling h.1)
  have waits : c.fillWaits tag pa = false := by simp [Chip.fillWaits, filling]
  simp only [Chip.contribute, unfilled, waits, Chip.quiet_ready hq] at applied refused ⊢
  split at applied
  · next why => simp [why] at refused
  · next why =>
    simp only [why, if_false] at applied ⊢
    split at applied
    · next fenced => rw [if_pos fenced]
    · simp at applied

theorem stepSound_accumStep (k : LCmd) : StepSound (accumStep k) := by
  intro c l i
  rcases c.ledgeStep_cases l (k.f 24 8 + 64 * i) true with ⟨pd, es, h⟩ | ⟨d, f, h, work, free⟩
  · refine UnitSound.after (c.worked_tlbFill (lqTlb l.lq) es) id ?_
    rcases (c.tlbFill (lqTlb l.lq) es).ledgeStep_cases l (k.f 32 8 + 64 * i) false with ⟨ps, fs, g⟩ | ⟨d, f, g, work, free⟩
    · refine UnitSound.after (Chip.worked_tlbFill _ (lqTlb l.lq) fs) id ?_
      simp only [accumStep, h, g]
      split
      · split
        · exact ⟨Chip.worked_contribute .., (LCmd.sameAs_applied ..).trans (.refl _)⟩
        · exact ⟨Chip.worked_contribute .., LCmd.sameAs_tally ..⟩
        · exact ⟨Chip.worked_contribute .., LCmd.sameAs_tally ..⟩
        · refine ⟨.refl _, .refl l, fun hq => ?_⟩
          rename_i applied refused fenced
          exact absurd (Chip.quiet_contribute hq applied refused) fenced
      · split
        · exact ⟨.refl _, LCmd.sameAs_tally ..⟩
        · exact ⟨Chip.worked_storeHint .., (LCmd.sameAs_applied ..).trans (.refl _)⟩
    · simp only [accumStep, h, g]
      exact ⟨work, .refl l, free⟩
  · simp only [accumStep, h]
    exact ⟨work, .refl l, free⟩

theorem stepSound_convertStep (k : LCmd) : StepSound (convertStep k) := by
  intro c l i
  rcases c.ledgeStep_cases l (k.f 24 8 + (64 * i - k.f 24 8 % 64)) true with ⟨pd, es, h⟩ | ⟨d, f, h, work, free⟩
  · refine UnitSound.after (c.worked_tlbFill (lqTlb l.lq) es) id ?_
    simp only [convertStep, h]
    generalize hsp : Chip.spanLines _ _ _ _ _ _ = sp
    split
    · next unready =>
      refine ⟨.refl _, .refl l, fun hq => ?_⟩
      rw [Chip.quiet_none_unready hq] at unready
      cases unready
    · have read := Chip.worked_used (c.tlbFill (lqTlb l.lq) es) (lqTlb k.lq) (lqSrc k.lq) sp
      rcases hf : sp.fault with - | f
      · simp only [Option.isSome_none, Bool.false_eq_true, if_false]
        split
        · exact ⟨read, .refl l⟩
        · split
          · exact ⟨read, LCmd.sameAs_tally ..⟩
          · exact ⟨read.trans (Chip.worked_storeHint ..), (LCmd.sameAs_applied ..).trans (.refl _)⟩
      · have free : f.kind ≠ .held := Chip.spanLines_fault_kind (hsp ▸ hf)
        simp only [Option.isSome_some, if_true]
        split
        · exact ⟨read, .refl l, fun _ => free⟩
        · split
          · exact ⟨read, LCmd.sameAs_tally .., fun _ => free⟩
          · exact ⟨read.trans (Chip.worked_storeHint ..), (LCmd.sameAs_applied ..).trans (.refl _), fun _ => free⟩
  · simp only [convertStep, h]
    exact ⟨work, .refl l, free⟩

theorem endSound_sumsqEnd : EndSound sumsqEnd := by
  intro c k
  by_cases missed : k.got.length < k.f 32 8 / 64
  · simp only [sumsqEnd, missed, if_true]
    exact ⟨.refl c, .refl k, .inl trivial⟩
  rcases c.ledgeLineAt_cases k (k.f 40 8) true with ⟨pa, es, h⟩ | ⟨d, f, h, work, free⟩
  · simp only [sumsqEnd, missed, if_false, h]
    refine ⟨(c.worked_tlbFill ..).trans (Chip.worked_storeHint ..), ?_, .inl trivial⟩
    split <;> exact .refl k
  · simp only [sumsqEnd, missed, if_false, h]
    split
    · next held => exact ⟨.refl c, .refl k, .inr ⟨rfl, Bool.eq_false_iff.mpr fun hq => free hq held⟩⟩
    · refine ⟨work, ?_, .inl rfl⟩
      split <;> exact .refl k

/-! The command of each opcode, given its turn (R260 to R269) -/

section Turn

variable {c : Chip} {q : Nat} {k : LCmd}

theorem PieceSound.of_stat {d : Chip} (work : c.Worked d) (fresh : k.stats = []) {code : Nat} (free : code ≠ VKind.held.code) (detail count : Nat) :
    PieceSound c k (d, k.stat code detail count) := ⟨work, .refl k, by simp [LCmd.stat, fresh, free]⟩

/-- A descriptor of a command read with nothing under way: a status that is not a hold, or its bytes. -/
theorem Chip.ledgeRead_cases (hq : c.quiet = true) (k : LCmd) (va n : Nat) :
    (∃ d s, c.ledgeRead k va n = (d, .error s) ∧ c.Worked d ∧ s.1 ≠ VKind.held.code) ∨
      ∃ es bs, c.ledgeRead k va n = (c.tlbFill (lqTlb k.lq) es, .ok bs) := by
  unfold Chip.ledgeRead
  dsimp only
  split
  · next f hf => exact .inl ⟨_, _, rfl, c.worked_used .., VKind.code_ne_held (Chip.spanLines_fault_kind hf)⟩
  · next hf =>
    rw [Chip.quiet_none_unready hq, Chip.quiet_used hq _ _ hf]
    split
    · contradiction
    · split
      · exact .inl ⟨_, _, rfl, c.worked_tlbFill .., (by decide : 5 ≠ VKind.held.code)⟩
      · exact .inr ⟨_, _, rfl⟩

/-- A descriptor that is read, or stands for the bytes of none: a status that is not a hold, or bytes with nothing under way still. -/
def ReadSound (c : Chip) (r : Chip × Except (Nat × Nat × Nat) (List Byte)) : Prop :=
  (∃ d s, r = (d, .error s) ∧ c.Worked d ∧ s.1 ≠ VKind.held.code) ∨ ∃ d bs, r = (d, .ok bs) ∧ c.Worked d ∧ d.quiet = true

theorem Chip.readSound_ledgeRead (hq : c.quiet = true) (k : LCmd) (va n : Nat) : ReadSound c (c.ledgeRead k va n) := by
  rcases Chip.ledgeRead_cases hq k va n with ⟨d, s, read, work, free⟩ | ⟨es, bs, read⟩
  · exact .inl ⟨d, s, read, work, free⟩
  · exact .inr ⟨_, bs, read, c.worked_tlbFill .., hq⟩

theorem Chip.readSound_none (hq : c.quiet = true) (bs : List Byte) : ReadSound c (c, .ok bs) := .inr ⟨c, bs, rfl, .refl c, hq⟩

theorem Chip.Serves.doLedgeNop (h : c.Serves q k) (ho : k.op = 0) : c.LedgeRan k (c.doLedgeNop q) :=
  h.lqRun ho ⟨.refl c, .refl k, by simp [h.fresh]⟩

theorem Chip.Serves.doLedgeFill (h : c.Serves q k) (ho : k.op = 1) : c.LedgeRan k (c.doLedgeFill q) :=
  h.lqLines ho (by decide) (by decide) (stepSound_ledgeFillStep k) endSound_done

theorem Chip.Serves.doAccum (h : c.Serves q k) (ho : k.op = 2) : c.LedgeRan k (c.doAccum q) :=
  h.lqLines ho (by decide) (by decide) (stepSound_accumStep k) endSound_done

theorem Chip.Serves.doScale (h : c.Serves q k) (ho : k.op = 3) : c.LedgeRan k (c.doScale q) :=
  h.lqLines ho (by decide) (by decide) (stepSound_scaleStep k) endSound_done

/-- An element takes four bits or more (03 Table 3.6). -/
theorem four_le_fmtBits (code : Nat) : 4 ≤ fmtBits code := by unfold fmtBits; split <;> decide

theorem Chip.Serves.doConvert (h : c.Serves q k) (ho : k.op = 4) : c.LedgeRan k (c.doConvert q) := by
  have few : 16 * 32 / fmtBits (k.f 48 1) ≤ 128 := Nat.div_le_div_left (four_le_fmtBits _) (by decide)
  exact h.lqLines ho (Nat.lt_add_right _ Nat.one_pos) (by omega) (stepSound_convertStep k) endSound_done

theorem Chip.Serves.doSumsq (h : c.Serves q k) (ho : k.op = 5) : c.LedgeRan k (c.doSumsq q) :=
  h.lqLines ho (by decide) (by decide) (stepSound_sumsqStep k) endSound_sumsqEnd

theorem Chip.Serves.doOptstep (h : c.Serves q k) (ho : k.op = 6) : c.LedgeRan k (c.doOptstep q) := by
  refine h.lqRun ho ?_
  have malformed : 1 ≠ VKind.held.code := by decide
  rcases Chip.readSound_ledgeRead h.quiet k (k.f 24 8) 128 with ⟨d, s, read, work, free⟩ | ⟨c1, o, read, work1, quiet1⟩
  · simp only [read]
    exact .of_stat work h.fresh free _ _
  simp only [read]
  split
  · exact .of_stat work1 h.fresh malformed _ _
  split
  · exact .of_stat work1 h.fresh malformed _ _
  split
  · exact .of_stat work1 h.fresh malformed _ _
  split
  · exact .of_stat work1 h.fresh malformed _ _
  split
  · exact .of_stat work1 h.fresh malformed _ _
  have mirror : ReadSound c1 (if k.f 32 8 = 0 then (c1, .ok (zeros 64)) else c1.ledgeRead k (k.f 32 8) 64) := by
    split
    · exact Chip.readSound_none quiet1 _
    · exact Chip.readSound_ledgeRead quiet1 ..
  rcases mirror with ⟨d, s, read, work, free⟩ | ⟨c2, m, read, work2, quiet2⟩
  · rw [read]
    exact .of_stat (work1.trans work) h.fresh free _ _
  rw [read]
  dsimp only
  split
  · exact .of_stat (work1.trans work2) h.fresh malformed _ _
  have norms : ReadSound c2 (if fieldLE o 55 1 = 2 then c2.ledgeRead k (fieldLE o 96 8) (4 * fieldLE o 104 4) else (c2, .ok [])) := by
    split
    · exact Chip.readSound_ledgeRead quiet2 ..
    · exact Chip.readSound_none quiet2 _
  rcases norms with ⟨d, s, read, work, free⟩ | ⟨c3, ns, read, work3, -⟩
  · rw [read]
    exact .of_stat ((work1.trans work2).trans work) h.fresh free _ _
  · rw [read]
    exact ⟨(work1.trans work2).trans work3, .refl k, by simp [h.fresh]⟩

/-- The first command with a property is changed into one with the property: it is the first still. -/
theorem find?_map_key {l : List LCmd} {p : LCmd → Bool} {x m : LCmd} (h : l.find? p = some x) (hx : x.key = m.key) (hm : p m = true) :
    (l.map (fun y => if y.key = m.key then m else y)).find? p = some m := by
  induction l with
  | nil => cases h
  | cons z l ih =>
    rw [List.map_cons]
    by_cases hz : z.key = m.key
    · rw [if_pos hz, List.find?_cons_of_pos hm]
    · have skipped : p z ≠ true := fun hp => hz (by rw [List.find?_cons_of_pos hp] at h; cases h; exact hx)
      rw [List.find?_cons_of_neg skipped] at h
      rw [if_neg hz, List.find?_cons_of_neg skipped]
      exact ih h

/-- The turn of a queue is its first command that has not issued, unless that runs or its FENCE waits for the first of all. -/
theorem Chip.lqTurn_eq_some_iff : c.lqTurn q = some k ↔
    c.ledge.cmds.find? (fun x => decide ((x.lq == q) = true ∧ (!x.issued) = true)) = some k ∧ k.ran = false ∧
      (bit k.hflags 0 = true → ((c.ledge.cmds.find? (fun x => x.lq == q)).getD k).key = k.key) := by
  simp only [Chip.lqTurn, Chip.lqCmds, List.find?_filter, List.headD_eq_head?_getD, List.head?_filter]
  split
  · next x hx =>
    rw [hx]
    constructor
    · intro h
      split at h
      · cases h
      · next free =>
        cases h
        simpa using free
    · rintro ⟨hxk, ran, fence⟩
      cases hxk
      simpa [ran] using fence
  · next none_waits => rw [none_waits]; simp only [reduceCtorEq, false_and]

/-- A command that is changed, and has not run, keeps its queue's turn. -/
theorem Chip.lqTurn_setLcmd {m : LCmd} (h : c.lqTurn q = some k) (same : m.SameAs k) (ran : m.ran = false) :
    (c.setLcmd m).lqTurn q = some m := by
  obtain ⟨hkey, hlq, -, hbytes⟩ := same
  obtain ⟨mem, here, -⟩ := Chip.lqTurn_some h
  obtain ⟨first, -, fence⟩ := Chip.lqTurn_eq_some_iff.mp h
  have queued : m.lq = q := hlq.trans here
  refine Chip.lqTurn_eq_some_iff.mpr ⟨find?_map_key first hkey.symm (by simp [queued, LCmd.issued, ran]), ran, fun hb => ?_⟩
  have leads := fence (by unfold LCmd.hflags at hb ⊢; rwa [← hbytes])
  rcases hx : c.ledge.cmds.find? (fun x => x.lq == q) with - | x
  · exact absurd (List.find?_eq_none.mp hx k mem) (by simp [here])
  · rw [hx, Option.getD_some] at leads
    exact congrArg (fun o => (Option.getD o m).key) (find?_map_key hx (leads.trans hkey.symm) (by simp [queued]))

/-- A turn has room as before when no other queue waits that did not. -/
theorem Chip.takeTurn_isSome_of {d : Chip} {n : Nat} (turns : d.ledge.turns = c.ledge.turns)
    (others : ∀ x ∈ d.ledge.cmds, x.lq ≠ q → x ∈ c.ledge.cmds) (h : (c.takeTurn q n).isSome = true) : (d.takeTurn q n).isSome = true := by
  simp only [Chip.takeTurn, turns] at h ⊢
  split
  · rfl
  · next no_room =>
    rw [if_neg no_room] at h
    split
    · next waits =>
      rw [if_pos] at h
      · cases h
      · simp only [Bool.and_eq_true, List.any_eq_true, List.mem_map, List.mem_filter] at waits ⊢
        obtain ⟨done, x, ⟨j, ⟨hj, ⟨front, diff⟩, open_⟩, hx⟩, hw⟩ := waits
        exact ⟨done, x, ⟨j, ⟨others j hj (by simpa using diff), ⟨front, diff⟩, open_⟩, hx⟩, hw⟩
    · rfl

/-- The start of a MIRROR: it ends with a status that is not a hold, or has its descriptor. -/
theorem Chip.mirrorOpen_cases (hq : c.quiet = true) (k : LCmd) :
    (∃ d code detail count, c.mirrorOpen k = (d, { k.stat code detail count with ran := true }) ∧ c.Worked d ∧ code ≠ VKind.held.code) ∨
      ∃ es r, c.mirrorOpen k = (c.tlbFill (lqTlb k.lq) es, { k with run := some r }) := by
  rcases Chip.ledgeRead_cases hq k (k.f 40 8) 64 with ⟨d, s, read, work, free⟩ | ⟨es, m, read⟩
  · exact .inl ⟨d, _, _, _, by simp only [Chip.mirrorOpen, read]; rfl, work, free⟩
  · simp only [Chip.mirrorOpen, read]
    split
    · exact .inl ⟨_, _, _, _, rfl, c.worked_tlbFill .., by decide⟩
    · exact .inr ⟨es, _, rfl⟩

/-- The package with the descriptor of a MIRROR read, whose run is kept. -/
def Chip.mirrorStarted (c : Chip) (k : LCmd) (es : List TlbEnt) (r : OptRun) : Chip :=
  (c.tlbFill (lqTlb k.lq) es).setLcmd { k with run := some r }

/-- A MIRROR that has its descriptor has its turn still. -/
theorem Chip.Serves.takeTurn_mirrorStarted (h : c.Serves q k) (es : List TlbEnt) (r : OptRun) (n : Nat) :
    ((c.mirrorStarted k es r).takeTurn q n).isSome = true := by
  obtain ⟨-, hlq, -⟩ := Chip.lqTurn_some h.turn
  refine Chip.takeTurn_isSome_of (c := c) rfl (fun x hx hne => ?_) (h.turns n)
  obtain ⟨j, hj, rfl⟩ := List.mem_map.mp hx
  split at hne
  · exact absurd hlq hne
  · next hkey => rw [if_neg hkey]; exact hj

theorem Chip.Serves.doMirror (h : c.Serves q k) (ho : k.op = 7) : c.LedgeRan k (c.doMirror q) := by
  obtain ⟨mem, hlq, hran⟩ := Chip.lqTurn_some h.turn
  by_cases opened : k.run.isSome = true
  · have started : c.doMirror q = c.lqLines q 7 (fun k => k.f 32 8 / 64) (fun _ => 1) mirrorStep LCmd.done := by
      simp [Chip.doMirror, h.turn, opened]
    rw [started]
    exact h.lqLines ho (by decide) (by decide) (stepSound_mirrorStep k) endSound_done
  rcases Chip.mirrorOpen_cases h.quiet k with ⟨d, code, detail, count, hopen, work, free⟩ | ⟨es, r, hopen⟩
  · have ended : c.doMirror q = d.setLcmd { k.stat code detail count with ran := true } := by
      simp [Chip.doMirror, h.turn, ho, h.legal, opened, hopen, LCmd.stat, h.fresh, free]
    rw [ended]
    exact Chip.ledgeRan_of_worked mem work (.refl k) (.inl rfl)
  · have goes : c.doMirror q = (c.mirrorStarted k es r).lqLines q 7 (fun k => k.f 32 8 / 64) (fun _ => 1) mirrorStep LCmd.done := by
      simp [Chip.doMirror, h.turn, ho, h.legal, opened, hopen, h.fresh, hran, Chip.mirrorStarted]
    obtain ⟨d, m, done, work, same, next⟩ := Chip.lqLines_works (c := c.mirrorStarted k es r) (units := fun k => k.f 32 8 / 64)
      (cost := fun _ => 1) h.quiet (Chip.lqTurn_setLcmd (c := c.tlbFill (lqTlb k.lq) es) h.turn (.refl k) hran) h.legal
      (h.takeTurn_mirrorStarted es r 1) h.weight ho (by decide) (by decide) (stepSound_mirrorStep _) endSound_done
    obtain ⟨e, line_work, rfl⟩ := work.of_setLcmd
    rw [goes, done, Chip.setLcmd_setLcmd e same.1]
    exact Chip.ledgeRan_of_worked mem ((c.worked_tlbFill ..).trans line_work) same next

end Turn

/-! Refused commands (R258, R273) -/

section Refused

variable {c : Chip} {q : Nat} {k : LCmd}

/-- A refused command ends with the statuses that refuse it. -/
def Chip.ledgeRefused (c : Chip) (k : LCmd) : Chip := c.setLcmd { k with ran := true, stats := c.lcmdRefusals k }

theorem Chip.lqLines_refused {op : Nat} {units cost : LCmd → Nat}
    {step : LCmd → Chip → LCmd → Nat → Except (Chip × LCmd × VFault) (Chip × LCmd)} {fin : Chip → LCmd → Chip × LCmd}
    (ht : c.lqTurn q = some k) (ho : k.op = op) (hr : c.lcmdRefusals k ≠ []) : c.lqLines q op units cost step fin = c.ledgeRefused k := by
  simp [Chip.lqLines, Chip.ledgeRefused, ht, ho, hr]

theorem Chip.lqRun_refused {op : Nat} {f : Chip → LCmd → Chip × LCmd} (ht : c.lqTurn q = some k) (ho : k.op = op)
    (hr : c.lcmdRefusals k ≠ []) : c.lqRun q op f = c.ledgeRefused k := by
  simp [Chip.lqRun, Chip.ledgeRefused, ht, ho, hr]

theorem Chip.doOptstep_refused (ht : c.lqTurn q = some k) (ho : k.op = 6) (hr : c.lcmdRefusals k ≠ []) :
    c.doOptstep q = c.ledgeRefused k := by
  unfold Chip.doOptstep
  exact Chip.lqRun_refused ht ho hr

theorem Chip.doMirror_refused (ht : c.lqTurn q = some k) (ho : k.op = 7) (hr : c.lcmdRefusals k ≠ []) :
    c.doMirror q = c.ledgeRefused k := by
  have lines : c.doMirror q = c.lqLines q 7 (fun k => k.f 32 8 / 64) (fun _ => 1) mirrorStep LCmd.done := by
    simp [Chip.doMirror, ht, hr]
  rw [lines, Chip.lqLines_refused ht ho hr]

/-- A command with an offending field is MALFORMED with the offset of its first. -/
theorem Chip.malformed_mem_lcmdRefusals {o : Nat} (h : firstBad (k.headBad ++ k.opBad) = some o) : (1, o, 0) ∈ c.lcmdRefusals k := by
  simp [Chip.lcmdRefusals, h]

/-- A command whose object its context may not use is SO_DENIED with it. -/
theorem Chip.denied_mem_lcmdRefusals (hs : bit k.hflags 1 = true) (hn : k.f 6 2 < 16384) (ha : c.soAllowed k.ctx (k.f 6 2) = false) :
    (2, k.f 6 2, 0) ∈ c.lcmdRefusals k := by
  simp [Chip.lcmdRefusals, hs, hn, ha]

end Refused

/-! The commands (R257) -/

/-- The operation of a command's opcode. -/
def Chip.doLedge (c : Chip) (q op : Nat) : Chip :=
  match op with
  | 0 => c.doLedgeNop q
  | 1 => c.doLedgeFill q
  | 2 => c.doAccum q
  | 3 => c.doScale q
  | 4 => c.doConvert q
  | 5 => c.doSumsq q
  | 6 => c.doOptstep q
  | _ => c.doMirror q

theorem mem_ledgeRows {p : (Fin 320 → Instr) × Nat} (h : p ∈ ledgeRows) :
    p = (Instr.ledgeNop, 0) ∨ p = (Instr.ledgeFill, 1) ∨ p = (Instr.accum, 2) ∨ p = (Instr.scale, 3) ∨ p = (Instr.convert, 4) ∨
      p = (Instr.sumsq, 5) ∨ p = (Instr.optstep, 6) ∨ p = (Instr.mirror, 7) := by
  simpa [ledgeRows] using h

theorem exec_ledgeRow {p : (Fin 320 → Instr) × Nat} (hp : p ∈ ledgeRows) {s : State} (q : Fin 320) (hl : s.chip.live = true)
    (hc : s.calm = true) : exec (p.1 q) s = .next (withChip s (s.chip.doLedge q.val p.2)) := by
  rcases mem_ledgeRows hp with rfl | rfl | rfl | rfl | rfl | rfl | rfl | rfl
  · exact exec_live (fun c => c.doLedgeNop q.val) hl rfl rfl
  · exact exec_calm (fun c => c.doLedgeFill q.val) hl hc rfl rfl
  · exact exec_calm (fun c => c.doAccum q.val) hl hc rfl rfl
  · exact exec_calm (fun c => c.doScale q.val) hl hc rfl rfl
  · exact exec_calm (fun c => c.doConvert q.val) hl hc rfl rfl
  · exact exec_calm (fun c => c.doSumsq q.val) hl hc rfl rfl
  · exact exec_calm (fun c => c.doOptstep q.val) hl hc rfl rfl
  · exact exec_calm (fun c => c.doMirror q.val) hl hc rfl rfl

theorem Chip.Serves.doLedge {c : Chip} {q : Nat} {k : LCmd} (h : c.Serves q k) {p : (Fin 320 → Instr) × Nat} (hp : p ∈ ledgeRows)
    (ho : k.op = p.2) : c.LedgeRan k (c.doLedge q p.2) := by
  rcases mem_ledgeRows hp with rfl | rfl | rfl | rfl | rfl | rfl | rfl | rfl
  · exact h.doLedgeNop ho
  · exact h.doLedgeFill ho
  · exact h.doAccum ho
  · exact h.doScale ho
  · exact h.doConvert ho
  · exact h.doSumsq ho
  · exact h.doOptstep ho
  · exact h.doMirror ho

theorem Chip.doLedge_refused {c : Chip} {q : Nat} {k : LCmd} {p : (Fin 320 → Instr) × Nat} (hp : p ∈ ledgeRows) (ht : c.lqTurn q = some k)
    (ho : k.op = p.2) (hr : c.lcmdRefusals k ≠ []) : c.doLedge q p.2 = c.ledgeRefused k := by
  rcases mem_ledgeRows hp with rfl | rfl | rfl | rfl | rfl | rfl | rfl | rfl
  · exact Chip.lqRun_refused ht ho hr
  · exact Chip.lqLines_refused ht ho hr
  · exact Chip.lqLines_refused ht ho hr
  · exact Chip.lqLines_refused ht ho hr
  · exact Chip.lqLines_refused ht ho hr
  · exact Chip.lqLines_refused ht ho hr
  · exact Chip.doOptstep_refused ht ho hr
  · exact Chip.doMirror_refused ht ho hr

/-- Settles O26: each opcode's unit does line work for the same command and is not held with nothing under way, so the walk of a turn gets
past its first unit or ends; a refused command only ends with its statuses. -/
theorem ledgeCommandsRun : Obligations.LedgeCommandsRun := by
  unfold Obligations.LedgeCommandsRun
  constructor
  · intro p hp s q k hl hc ht ho hr fresh turns weight
    have serves : s.chip.Serves q.val k := ⟨State.quiet_of_calm hc, ht, hr, fresh, turns, weight⟩
    exact ⟨_, exec_ledgeRow hp q hl hc, serves.doLedge hp ho⟩
  · intro p hp s q k hl hc ht ho hr
    exact ⟨by rw [exec_ledgeRow hp q hl hc, Chip.doLedge_refused hp ht ho hr]; rfl, fun o => Chip.malformed_mem_lcmdRefusals,
      Chip.denied_mem_lcmdRefusals⟩

end Sys2Proof.Machine
end

section
/-!
What memory traffic leaves as it was: accesses of agents, completion records and events, the requests of a line taken as its home can serve
them, and rings read on (09 R225, R231, 14 R377, R382).
-/

open Sys2Proof

namespace Sys2Proof.Machine

/-- A package that differs from another at most in what traffic with memory and commanders moves: memory, its channels and their health, the
logs, interrupt files and TLBs, host cores, rings and CXL, the answer, and the free values drawn. -/
def Chip.Traffic (c d : Chip) : Prop :=
  d = { c with
        log := d.log, mem := d.mem, irq := d.irq, mmu := d.mmu, chan := d.chan, res := d.res, hart := d.hart, cm := d.cm, cxl := d.cxl
        reply := d.reply, free := d.free }

theorem Chip.Traffic.refl (c : Chip) : c.Traffic c := rfl

theorem Chip.Traffic.trans {c d e : Chip} (h : c.Traffic d) (g : d.Traffic e) : c.Traffic e := by
  unfold Chip.Traffic at *; rw [g, h]

/-- Each part of the package but those reads as before. -/
theorem Chip.Traffic.part {α : Type} {c d : Chip} (h : c.Traffic d) (p : Chip → α) :
    p d = p { c with
              log := d.log, mem := d.mem, irq := d.irq, mmu := d.mmu, chan := d.chan, res := d.res, hart := d.hart, cm := d.cm, cxl := d.cxl
              reply := d.reply, free := d.free } := congrArg p h

theorem Chip.Traffic.bucket {c d : Chip} (h : c.Traffic d) : d.bucket = c.bucket := h.part Chip.bucket

theorem Chip.traffic_foldl {α : Type} {f : Chip → α → Chip} (hf : ∀ d x, Chip.Traffic d (f d x)) (l : List α) (c : Chip) :
    c.Traffic (l.foldl f c) :=
  List.foldlRecOn l f (motive := fun d => c.Traffic d) (.refl c) (fun d h x _ => h.trans (hf d x))

theorem Chip.Logged.traffic {c d : Chip} (h : c.Logged d) : c.Traffic d := by
  unfold Chip.Logged at h
  unfold Chip.Traffic
  rw [h]

theorem Chip.traffic_modMem (c : Chip) (f : Mem → Mem) : c.Traffic (c.modMem f) := rfl
theorem Chip.traffic_modCm (c : Chip) (f : Cm → Cm) : c.Traffic (c.modCm f) := rfl
theorem Chip.traffic_setChan (c : Chip) (ch : Nat) (x : Chan) : c.Traffic (c.setChan ch x) := rfl
theorem Chip.traffic_answer (c : Chip) (l : List Nat) : c.Traffic (c.answer l) := rfl
theorem Chip.traffic_took (c : Chip) (n : Nat) : c.Traffic (c.took n) := rfl
theorem Chip.traffic_logEv (c : Chip) (ev : Ev) (src : Nat) (args : List Nat) : c.Traffic (c.logEv ev src args) :=
  (c.logged_logEv ..).traffic

/-! Accesses of agents without a cache -/

theorem Chip.traffic_meet (c : Chip) (lines : List Nat) (alloc : Bool) : c.Traffic (c.meet lines alloc) := by
  unfold Chip.meet; split <;> rfl

theorem Chip.traffic_storeHint (c : Chip) (pa : Nat) (bs : List Byte) (poison : Bool) (hint : Nat) :
    c.Traffic (c.storeHint pa bs poison hint) := by
  unfold Chip.storeHint
  dsimp only
  split <;> exact (c.traffic_meet ..).trans (Chip.traffic_modMem ..)

theorem Chip.traffic_fetchN (c : Chip) (pa n : Nat) : c.Traffic (c.fetchN pa n).1 :=
  (c.traffic_meet (rangeLines pa n) false).trans rfl

theorem Chip.traffic_devWrite (c : Chip) (requester pa : Nat) (bs : List Byte) (hint : Nat) :
    c.Traffic (c.devWrite requester pa bs hint) := by
  unfold Chip.devWrite
  split
  · exact c.traffic_storeHint ..
  · exact (c.logged_logRefused ..).traffic

theorem Chip.traffic_used (c : Chip) (units : List Nat) (src : Nat) (sp : Span) : c.Traffic (c.used units src sp) := by
  have met : c.Traffic ((c.tlbFill units sp.ents).meet sp.lines false) :=
    Chip.Traffic.trans (d := c.tlbFill units sp.ents) rfl (Chip.traffic_meet ..)
  unfold Chip.used
  dsimp only
  split
  · split
    · exact met.trans (Chip.logged_logRefused ..).traffic
    · exact met
  · exact met

theorem Chip.traffic_scatter (c : Chip) (sp : Span) (bs : List Byte) (bad : Bool) (hint : Nat) : c.Traffic (c.scatter sp bs bad hint) :=
  List.foldlRecOn sp.pieces _ (motive := fun acc : Chip × List Byte => c.Traffic acc.1) (.refl c)
    (fun acc h _ _ => h.trans (acc.1.traffic_storeHint ..))

/-! Records without an object, and events (14 R382, R384) -/

theorem Chip.traffic_ringMsi (c : Chip) (cm msi : Nat) : c.Traffic (c.ringMsi cm msi) := by
  unfold Chip.ringMsi
  split
  · exact (c.logged_msi ..).traffic
  · rfl

theorem Chip.traffic_recordSeen (c : Chip) (cqn : Nat) {f : Fin_} (h : f.dso = none) : c.Traffic (c.recordSeen cqn f) := by
  unfold Chip.recordSeen
  rw [h]
  dsimp only
  split
  · exact (c.traffic_modCm _).trans (Chip.traffic_ringMsi ..)
  · exact .refl c

theorem Chip.traffic_writeRecord (c : Chip) {r : LogRec} (h : r.rcd.dso = none) : c.Traffic (c.writeRecord r) := by
  unfold Chip.writeRecord
  dsimp only
  split
  · exact (c.traffic_modCm _).trans ((Chip.traffic_devWrite ..).trans (Chip.traffic_recordSeen _ _ h))
  · exact (c.traffic_modCm _).trans rfl

theorem Chip.traffic_deliver (c : Chip) {r : LogRec} (h : r.rcd.dso = none) : c.Traffic (c.deliver r) := by
  unfold Chip.deliver
  dsimp only
  split
  · exact c.traffic_modCm _
  · split
    · exact c.traffic_writeRecord h
    · split <;> exact c.traffic_modCm _

/-- An event names no object, so that it moves a record and nothing else. -/
theorem Chip.traffic_event (c : Chip) (cq op ctx detail tag : Nat) : c.Traffic (c.event cq op ctx detail tag) := by
  unfold Chip.event
  dsimp only
  split
  · exact .refl c
  · exact c.traffic_deliver rfl

/-! A line at its home (08 R212, R222, 09 Table 9.4, R225, R230) -/

theorem Chip.traffic_throttle (c : Chip) (ch bank : Nat) : c.Traffic (c.throttle ch bank) := by
  unfold Chip.throttle
  dsimp only
  split
  · exact .refl c
  · exact (c.traffic_setChan ..).trans (Chip.traffic_logEv ..)

theorem Chip.traffic_flushCe (c : Chip) (ch : Nat) : c.Traffic (c.flushCe ch) := by
  unfold Chip.flushCe
  dsimp only
  split
  · exact .refl c
  · exact (c.traffic_setChan ..).trans (Chip.traffic_logEv ..)

theorem Chip.traffic_countCe (c : Chip) (ch : Nat) : c.Traffic (c.countCe ch) := by
  unfold Chip.countCe
  dsimp only
  split
  · rfl
  · exact (c.traffic_flushCe ch).trans rfl

theorem Chip.traffic_lineCe (c : Chip) (ch a : Nat) : c.Traffic (c.lineCe ch a) := by
  have counted : ∀ x : Chan, c.Traffic ((c.countCe ch).setChan ch x) := fun x => (c.traffic_countCe ch).trans (Chip.traffic_setChan ..)
  unfold Chip.lineCe
  dsimp only
  split
  · exact (counted _).trans (Chip.traffic_logEv ..)
  · exact counted _

theorem Chip.traffic_findUe (c : Chip) (ln : Nat) : c.Traffic (c.findUe ln) := by
  unfold Chip.findUe
  split
  · exact .refl c
  · exact (c.traffic_modMem _).trans (Chip.traffic_logEv ..)

theorem Chip.traffic_chanRead (c : Chip) (ln : Nat) (err : MemErr) : c.Traffic (c.chanRead ln err) := by
  cases err with
  | none => exact .refl c
  | ce => exact c.traffic_lineCe ..
  | ue => exact c.traffic_findUe ln

theorem Chip.traffic_cacheUe (c : Chip) (ln : Nat) (own : Option LineCopy) : c.Traffic (c.cacheUe ln own) := by
  unfold Chip.cacheUe
  split
  · split
    · exact c.traffic_logEv ..
    · exact .refl c
  · exact .refl c

theorem Chip.traffic_supply (c : Chip) (ln h : Nat) (err : MemErr) : c.Traffic (c.supply ln h err) := by
  unfold Chip.supply
  split
  · split
    · exact .refl c
    · exact c.traffic_chanRead ..
  · exact c.traffic_chanRead ..

theorem Chip.traffic_fillL1 (c : Chip) (ln k : Nat) (use : Option CoreUse) : c.Traffic (c.fillL1 ln k use) := by
  unfold Chip.fillL1; split <;> rfl

theorem Chip.traffic_coreTrap (c : Chip) (k : Nat) (use : Option CoreUse) : c.Traffic (c.coreTrap k use) := by
  unfold Chip.coreTrap
  split
  · split <;> rfl
  · exact .refl c

theorem Chip.traffic_corePoison (c : Chip) (ln k : Nat) (poison : Bool) (use : Option CoreUse) :
    c.Traffic (c.corePoison ln k poison use) := by
  unfold Chip.corePoison
  split
  · split
    · exact (c.traffic_coreTrap ..).trans (Chip.traffic_logEv ..)
    · exact .refl c
  · exact .refl c

/-- What a request does at its home moves the line, the logs, the core that asked and the answer. -/
theorem Chip.traffic_homeAct (c : Chip) (ln : Nat) (q : Txn) : c.Traffic (c.homeAct ln q) := by
  have supplied : c.Traffic ((c.cacheUe ln q.own).supply ln q.agent q.err) := (c.traffic_cacheUe ..).trans (Chip.traffic_supply ..)
  have replied : ∀ {d : Chip} (bad : Bool) (l : List Nat), c.Traffic d →
      c.Traffic (((d.fillL1 ln q.agent q.use).corePoison ln q.agent bad q.use).answer l) := fun bad l h =>
    ((h.trans (Chip.traffic_fillL1 ..)).trans (Chip.traffic_corePoison ..)).trans (Chip.traffic_answer ..)
  unfold Chip.homeAct
  cases q.kind with
  | readShared | readUnique | readOnce => exact replied _ _ (supplied.trans (Chip.traffic_modMem ..))
  | upgrade =>
    dsimp only
    split
    · exact (c.traffic_modMem _).trans (Chip.traffic_answer ..)
    · exact replied _ _ (supplied.trans (Chip.traffic_modMem ..))
  | writeBack =>
    dsimp only
    split
    · split
      · exact (c.traffic_cacheUe ..).trans (Chip.traffic_modMem ..)
      · exact .refl c
    · exact .refl c
  | evict | posted => exact c.traffic_modMem _
  | writeFull => exact c.traffic_modMem _
  | writePartial => exact supplied.trans (Chip.traffic_modMem ..)
  | held => exact .refl c
  | ledgeOp =>
    dsimp only
    split
    · exact supplied.trans (Chip.traffic_modMem ..)
    · exact supplied

theorem Chip.traffic_serve (c : Chip) (ln : Nat) (q : Txn) : c.Traffic (c.serve ln q) := by
  unfold Chip.serve
  exact (c.traffic_homeAct ln q).trans (Chip.traffic_modMem ..)

theorem Chip.traffic_crossed (c : Chip) (ln : Nat) (q w : Txn) : c.Traffic (c.crossed ln q w) := by
  unfold Chip.crossed
  refine Chip.Traffic.trans ?_ (Chip.traffic_modMem ..)
  split
  · refine Chip.Traffic.trans ?_ (Chip.traffic_modMem ..)
    split
    · exact c.traffic_logEv ..
    · exact .refl c
  · exact c.traffic_modMem _

theorem Chip.traffic_meetBacks (c : Chip) (ln : Nat) : c.Traffic (c.meetBacks ln) := by
  unfold Chip.meetBacks
  split
  · dsimp only
    split
    · exact .refl c
    · exact (c.traffic_modMem _).trans (Chip.traffic_foldl (fun d w => d.traffic_crossed ..) ..)
  · exact .refl c

theorem Chip.traffic_serveList (ln : Nat) (l : List Txn) (c : Chip) : c.Traffic (c.serveList ln l) := by
  induction l generalizing c with
  | nil => exact c.traffic_modMem _
  | cons q rest ih =>
    unfold Chip.serveList
    split
    · exact c.traffic_modMem _
    · split
      · exact (c.traffic_homeAct ..).trans (ih _)
      · split
        · exact (c.traffic_answer _).trans (ih _)
        · exact ((c.traffic_modMem _).trans (Chip.traffic_serve ..)).trans (Chip.traffic_meetBacks ..)

theorem Chip.traffic_serveNext (c : Chip) (ln : Nat) : c.Traffic (c.serveNext ln) := by
  unfold Chip.serveNext
  split
  · exact .refl c
  · split
    · exact c.traffic_serveList ln _
    · exact .refl c

/-! Rings read on (14 R377) -/

theorem Chip.traffic_missSlot (c : Chip) (r found : Nat) : c.Traffic (c.missSlot r found) := by
  unfold Chip.missSlot
  dsimp only
  split
  · exact .refl c
  · exact c.traffic_modCm _

theorem Chip.traffic_takeSlot (c : Chip) (r : Nat) (bs : List Byte) : c.Traffic (c.takeSlot r bs) := by
  unfold Chip.takeSlot
  dsimp only
  split
  · exact (c.traffic_modCm _).trans (Chip.traffic_modCm ..)
  · exact ((c.traffic_modCm _).trans (Chip.traffic_modCm ..)).trans (Chip.traffic_modCm ..)

theorem Chip.traffic_consume (r fuel : Nat) (c : Chip) : c.Traffic (c.consume r fuel) := by
  induction fuel generalizing c with
  | zero => exact .refl c
  | succ fuel ih =>
    unfold Chip.consume
    split
    · exact .refl c
    · dsimp only
      split
      · split
        · exact ((c.logged_logUnbacked ..).traffic.trans (Chip.traffic_took ..)).trans (Chip.traffic_missSlot ..)
        · split
          · exact .refl c
          · split
            · exact ((c.traffic_fetchN ..).trans (Chip.traffic_takeSlot ..)).trans (ih _)
            · exact (c.traffic_fetchN ..).trans (Chip.traffic_missSlot ..)
      · split
        · exact .refl c
        · rfl

theorem Chip.traffic_pump (c : Chip) (r : Nat) : c.Traffic (c.pump r) := by
  unfold Chip.pump
  exact Chip.traffic_consume ..

theorem Chip.traffic_pumpAll (c : Chip) : c.Traffic c.pumpAll := by
  unfold Chip.pumpAll
  refine Chip.traffic_foldl (fun d p => ?_) ..
  exact d.traffic_pump p.1

theorem Chip.traffic_serveAll (c : Chip) : c.Traffic c.serveAll := by
  unfold Chip.serveAll
  refine Chip.Traffic.trans (Chip.traffic_foldl (fun d p => ?_) ..) (Chip.traffic_pumpAll _)
  exact d.traffic_serveNext p.1

/-! Commands that wait (assumption 103) -/

theorem Chip.traffic_attempt (c : Chip) (id : Nat) : c.Traffic (c.attempt id) := c.traffic_modMem _

theorem Chip.traffic_unmark (c : Chip) (id : Nat) : c.Traffic (c.unmark id) := (c.traffic_modMem _).trans (Chip.traffic_serveAll _)

theorem Chip.traffic_markAll (c : Chip) (id : Nat) (lines : List Nat) : c.Traffic (c.markAll id lines) := by
  refine Chip.traffic_foldl (fun d ln => ?_) ..
  refine Chip.Traffic.trans ?_ (Chip.traffic_modMem ..)
  split
  · exact d.traffic_throttle ..
  · exact .refl d

/-- Whether a command that may have to wait is kept or takes effect, the package that it leaves is its operation's, on the package as it was
or as it found it on trying again, but for traffic; or it is the one before. -/
theorem State.guarded_traffic {s t : State} {key : List Nat} {i : Instr} {f : Chip → Chip} (h : s.guarded key i f = .next t) :
    s.chip.Traffic t.chip ∨ (f s.chip).Traffic t.chip ∨ (f (s.chip.attempt s.ident)).Traffic t.chip := by
  have kept : ∀ (lines : List Nat) (free : Nat), s.chip.Traffic (s.keep s.ident key i lines free).chip := fun lines free =>
    (s.chip.traffic_markAll ..).trans rfl
  unfold State.guarded State.guardedBoth at h
  dsimp only at h
  split at h
  · cases h; exact .inl (.refl _)
  · split at h
    · cases h; exact .inr (.inl (.refl _))
    · split at h
      · cases h; exact .inl (kept ..)
      · split at h
        · cases h; exact .inr (.inr (Chip.traffic_unmark ..))
        · cases h; exact .inl (kept ..)

end Sys2Proof.Machine
end

section
/-!
Buckets (11 R291, R293, R294, R298 to R300): entries, the bound on what they count, the zero-fill of a region, contributions, and the end.
-/

open Sys2Proof

namespace Sys2Proof.Machine

/-! Entries -/

theorem Chip.bucketAt_setBucket_other (c : Chip) {tag g : Nat} (b : Bucket) (h : g ≠ tag) :
    (c.setBucket tag b).bucketAt g = c.bucketAt g := tabGet_tabSet_other _ _ _ h.symm

@[simp] theorem Chip.setBucket_setBucket (c : Chip) (tag : Nat) (a b : Bucket) :
    (c.setBucket tag a).setBucket tag b = c.setBucket tag b := by simp [Chip.setBucket, Chip.modBucket]

theorem Chip.bucketAt_congr {c d : Chip} (h : d.bucket = c.bucket) (g : Nat) : d.bucketAt g = c.bucketAt g := by
  simp only [Chip.bucketAt, h]

theorem Chip.Traffic.bucketAt {c d : Chip} (h : c.Traffic d) (g : Nat) : d.bucketAt g = c.bucketAt g := Chip.bucketAt_congr h.bucket g

@[simp] theorem Bucket.settle_applied (b : Bucket) : b.settle.applied = b.applied := by unfold Bucket.settle; split <;> rfl
@[simp] theorem Bucket.settle_expect (b : Bucket) : b.settle.expect = b.expect := by unfold Bucket.settle; split <;> rfl

/-- An OPEN entry closes at once when it expects nothing more, and otherwise stays as it is (R300). -/
theorem Bucket.settle_of_open {b : Bucket} (h : b.st = .open_) :
    b.settle = { b with st := if b.applied = b.expect then .closing else .open_ } := by
  unfold Bucket.settle
  by_cases full : b.applied = b.expect
  · rw [if_pos ⟨h, full⟩, if_pos full]
  · rw [if_neg (fun g => full g.2), if_neg full, ← h]

/-- A quiet package has no bucket whose region is being filled. -/
theorem Chip.quiet_not_filling {c : Chip} (hq : c.quiet = true) (tag : Nat) : (c.bucketAt tag).st ≠ .filling := by
  intro fills
  simp only [Chip.quiet, Bool.and_eq_true, Bool.not_eq_true', List.any_eq_false] at hq
  obtain ⟨-, none_fills⟩ := hq
  rcases tabGet_default_or_mem Bucket.fresh c.bucket tag with e | e
  · rw [Chip.bucketAt, e] at fills; cases fills
  · exact none_fills _ e (by simpa [Chip.bucketAt] using fills)

/-! The bound (R293) -/

/-- No bucket counts more elements than it expects. -/
def Chip.Bounded (c : Chip) : Prop := ∀ g, (c.bucketAt g).applied ≤ (c.bucketAt g).expect

theorem Chip.Bounded.traffic {c d : Chip} (h : c.Bounded) (t : c.Traffic d) : d.Bounded := fun g => by rw [t.bucketAt g]; exact h g

theorem Chip.Bounded.setBucket {c : Chip} (h : c.Bounded) {tag : Nat} {b : Bucket} (hb : b.applied ≤ b.expect) :
    (c.setBucket tag b).Bounded := by
  intro g
  by_cases hg : g = tag
  · subst hg; rwa [Chip.bucketAt_setBucket_same]
  · rw [Chip.bucketAt_setBucket_other _ _ hg]; exact h g

/-- Filling counts no element. -/
theorem Chip.Bounded.fillOn {c : Chip} (h : c.Bounded) (tag n : Nat) : (c.fillOn tag n).Bounded :=
  (h.traffic (c.traffic_modMem _)).setBucket (h tag)

theorem Chip.Bounded.fillSome {c : Chip} (h : c.Bounded) (tag pa : Nat) : (c.fillSome tag pa).Bounded := by
  unfold Chip.fillSome
  dsimp only
  split
  · exact (h.fillOn _ _).traffic (Chip.traffic_took ..)
  · exact h

/-- An entry that refuses nothing of a contribution accepts contributions and has room for its elements. -/
theorem Bucket.accepts_of_refuses_zero {b : Bucket} {pa mask : Nat} {ctx : Option Nat} (h : b.refuses pa mask ctx = 0) :
    b.accepting = true ∧ b.applied + maskCount mask ≤ b.expect := by
  unfold Bucket.refuses at h
  split at h
  · cases h
  · next acc =>
    split at h
    · cases h
    · split at h
      · cases h
      · split at h
        · cases h
        · next room => exact ⟨by simpa using acc, not_lt.mp room⟩

/-- A contribution that would exceed what its bucket expects is refused, and no other counts more (R293). -/
theorem Chip.Bounded.contribute {c : Chip} (h : c.Bounded) (tag pa mask : Nat) (xs : List Nat) (bad : Bool) (ctx : Option Nat)
    (src hint : Nat) : (c.contribute tag pa mask xs bad ctx src hint).1.Bounded := by
  have filled := h.fillSome tag pa
  unfold Chip.contribute
  dsimp only
  split
  · refine Chip.Bounded.traffic (Chip.Bounded.setBucket filled ?_) (Chip.logged_logWin ..).traffic
    exact filled tag
  · next accepted =>
    obtain ⟨-, room⟩ := Bucket.accepts_of_refuses_zero (not_not.mp accepted)
    split
    · exact filled
    · split
      · exact filled.traffic rfl
      · exact (filled.traffic (Chip.traffic_storeHint ..)).setBucket (by simpa using room)

/-! Lines written whole (08 R212) -/

theorem Memory.getElem_readN (m : Memory) (a n i : Nat) (h : i < (m.readN a n).length) : (m.readN a n)[i] = m.read (a + i) := by
  induction n generalizing a i with
  | zero => simp at h
  | succ n ih =>
    cases i with
    | zero => rfl
    | succ i =>
      simp only [Memory.readN, List.getElem_cons_succ]
      rw [ih, show a + 1 + i = a + (i + 1) by omega]

theorem Memory.readN_writeN_same {m : Memory} (w : m.wf = true) (a : Nat) (l : List Byte) : (m.writeN a l).readN a l.length = l := by
  refine List.ext_getElem (by simp) fun i hi hl => ?_
  rw [Memory.getElem_readN, Memory.read_writeN_same a l i hl w]

theorem Memory.readN_writeN_other (m : Memory) {a b n : Nat} {l : List Byte} (h : b + n ≤ a ∨ a + l.length ≤ b) :
    (m.writeN a l).readN b n = m.readN b n := by
  refine List.ext_getElem (by simp) fun i hi _ => ?_
  have inside : i < n := by simpa using hi
  rw [Memory.getElem_readN, Memory.getElem_readN, Memory.read_writeN_other l (by omega)]

theorem setHas_setDel_other (l : List Nat) {a b : Nat} (h : a ≠ b) : setHas (setDel l a) b = setHas l b := by
  rw [Bool.eq_iff_iff]; simp [setHas, mem_setDel, Ne.symm h]

@[simp] theorem Mem.putLine_met (m : Mem) (ln : Nat) (bs : List Byte) (poison : Bool) : (m.putLine ln bs poison).met = m.met := rfl

theorem Mem.putLine_bytes (m : Mem) (ln : Nat) (bs : List Byte) (poison : Bool) :
    (m.putLine ln bs poison).bytes = m.bytes.writeN (64 * ln) bs := rfl

/-- A line written whole reads back, with its poison. -/
theorem Mem.line_putLine_same {m : Mem} (w : m.bytes.wf = true) (ln : Nat) {bs : List Byte} (h : bs.length = 64) (poison : Bool) :
    (m.putLine ln bs poison).line ln = (bs, poison) := by
  have bytes := Memory.readN_writeN_same w (64 * ln) bs
  rw [h] at bytes
  cases poison <;> simp [Mem.line, Mem.putLine, Mem.drop, setPut, bytes]

theorem Mem.line_putLine_other (m : Mem) {ln k : Nat} (hk : k ≠ ln) {bs : List Byte} (h : bs.length = 64) (poison : Bool) :
    (m.putLine ln bs poison).line k = m.line k := by
  have bytes : (m.bytes.writeN (64 * ln) bs).readN (64 * k) 64 = m.bytes.readN (64 * k) 64 :=
    Memory.readN_writeN_other _ (by omega)
  have entry : tabFind (tabDel m.dir ln) k = tabFind m.dir k := tabFind_tabDel_other _ (Ne.symm hk)
  cases poison <;>
    simp [Mem.line, Mem.putLine, Mem.drop, setPut, bytes, entry, setHas_setDel_other _ (Ne.symm hk), setHas_setIns_other _ (Ne.symm hk)]

/-! The zero-fill (R291) -/

/-- The lines of some addresses zero-filled. -/
def Mem.zeroLines (m : Mem) (l : List Nat) : Mem := l.foldl (fun x pa => x.putLine (pa / 64) (zeros 64) false) m

theorem Mem.zeroLines_cons (m : Mem) (x : Nat) (l : List Nat) :
    m.zeroLines (x :: l) = (m.putLine (x / 64) (zeros 64) false).zeroLines l := List.foldl_cons ..

theorem Mem.zeroLines_met (m : Mem) (l : List Nat) : (m.zeroLines l).met = m.met := by
  unfold Mem.zeroLines
  exact foldl_keeps Mem.met (fun x _ => x.putLine_met ..) l m

/-- A line that is zero, or is among those filled, is zero without poison after the fill. -/
theorem Mem.line_zeroLines {l : List Nat} {ln : Nat} {m : Mem} (w : m.bytes.wf = true)
    (h : m.line ln = (zeros 64, false) ∨ ∃ g ∈ l, g / 64 = ln) : (m.zeroLines l).line ln = (zeros 64, false) := by
  induction l generalizing m with
  | nil => simpa [Mem.zeroLines] using h
  | cons x r ih =>
    rw [Mem.zeroLines_cons]
    refine ih (by rw [Mem.putLine_bytes]; exact Memory.wf_writeN _ _ w) ?_
    by_cases hx : ln = x / 64
    · subst hx; exact .inl (Mem.line_putLine_same w _ (zeros_length 64) false)
    · rw [Mem.line_putLine_other m hx (zeros_length 64)]
      refine h.imp_right fun ⟨g, hg, he⟩ => ?_
      rcases List.mem_cons.mp hg with rfl | hr
      · exact absurd he.symm hx
      · exact ⟨g, hr, he⟩

/-- A region filled to its end has no line left to fill. -/
theorem Bucket.unfilled_of_filled (b : Bucket) : { b with filled := b.filled + 64 * b.unfilled.length }.unfilled = [] := by
  simp only [Bucket.unfilled, List.length_drop, List.drop_eq_nil_iff]
  omega

/-- The entry whose region has been filled to its end: OPEN, or CLOSING when it expects nothing more. -/
def Bucket.filledUp (b : Bucket) : Bucket :=
  { b with filled := b.filled + 64 * b.unfilled.length, st := if b.applied = b.expect then .closing else .open_ }

section Fill

variable {c : Chip} {tag : Nat} (ready : ∀ ln, c.ready ln false = true)
include ready

/-- Where every home serves its line at once, a fill goes on over all lines that it may. -/
theorem Chip.fillOn_whole {n : Nat} (hn : (c.bucketAt tag).unfilled.length ≤ n) :
    c.fillOn tag n = (c.modMem (·.zeroLines (c.bucketAt tag).unfilled)).setBucket tag
      { c.bucketAt tag with filled := (c.bucketAt tag).filled + 64 * (c.bucketAt tag).unfilled.length } := by
  have whole : ((c.bucketAt tag).unfilled.take n).takeWhile (fun pa => c.ready (pa / 64) false) = (c.bucketAt tag).unfilled := by
    rw [List.take_of_length_le hn, List.takeWhile_eq_self_iff]
    exact fun pa _ => ready (pa / 64)
  simp only [Chip.fillOn, whole]
  rfl

/-- BUCKET_FILLED fills the rest of the region and opens the bucket. -/
theorem Chip.doBucketFilled_whole (hst : (c.bucketAt tag).st = .filling)
    (hn : (c.bucketAt tag).unfilled.length ≤ (c.bucketAt tag).len / 64) :
    c.doBucketFilled tag = (c.modMem (·.zeroLines (c.bucketAt tag).unfilled)).setBucket tag (c.bucketAt tag).filledUp := by
  unfold Chip.doBucketFilled
  dsimp only
  rw [if_neg (not_not.mpr hst), Chip.fillOn_whole ready hn, Chip.bucketAt_setBucket_same, Bucket.unfilled_of_filled]
  dsimp only
  rw [Chip.setBucket_setBucket, Bucket.settle_of_open rfl]
  rfl

end Fill

/-! Trying again (assumptions 103, 104) -/

/-- Memory as its cores have made it differs in the entries of the snoop filter, and in the free values drawn. -/
theorem Mem.driftLine_eq (m : Mem) (ln : Nat) :
    m.driftLine ln = { m with dir := (m.driftLine ln).dir, serial := (m.driftLine ln).serial } := by
  unfold Mem.driftLine
  split
  · split <;> rfl
  · rfl

theorem Mem.drift_eq (m : Mem) : m.drift = { m with dir := m.drift.dir, serial := m.drift.serial } :=
  List.foldlRecOn m.dir _ (motive := fun d : Mem => d = { m with dir := d.dir, serial := d.serial }) rfl
    (fun d h p _ => by rw [d.driftLine_eq p.1, h])

theorem Chip.attempt_eq (c : Chip) (id : Nat) : c.attempt id = c.modMem (fun m =>
    { m with dir := m.drift.dir, serial := m.drift.serial, met := [], retry := some id }) := by
  unfold Chip.attempt Chip.modMem
  dsimp only
  rw [Mem.drift_eq c.mem]

/-- With no transaction in progress or waiting, a command that is tried again is served wherever channels accept requests. -/
theorem Chip.ready_attempt {c : Chip} (busy : c.mem.busy = []) (waitq : c.mem.waitq = []) (id : Nat) {ln : Nat}
    (accepts : c.accepts ln = true) : (c.attempt id).ready ln false = true := by
  have accepts' : (c.attempt id).accepts ln = true := by rw [← accepts, Chip.attempt_eq]; rfl
  have busy' : (c.attempt id).mem.busy = [] := by rw [← busy, Chip.attempt_eq]; rfl
  have waitq' : (c.attempt id).mem.waitq = [] := by rw [← waitq, Chip.attempt_eq]; rfl
  simp [Chip.ready, Mem.turn, accepts', busy', waitq', tabFind, tabGet]

@[simp] theorem Chip.attempt_met (c : Chip) (id : Nat) : (c.attempt id).mem.met = [] := rfl

@[simp] theorem Chip.attempt_bytes (c : Chip) (id : Nat) : (c.attempt id).mem.bytes = c.mem.bytes := by
  rw [Chip.attempt_eq]; rfl

/-- A command that is tried again and has met no home to wait for takes effect, and what stood behind it goes on. -/
theorem State.guarded_served {s : State} (key : List Nat) (i : Instr) (f : Chip → Chip) (hl : s.chip.live = true) (hc : s.calm = false)
    (hh : s.held = []) (hm : (f (s.chip.attempt s.ident)).mem.met = []) :
    s.guarded key i f = .next (withChip s ((f (s.chip.attempt s.ident)).unmark s.ident)) := by
  simp [State.guarded, State.guardedBoth, State.behind, hl, hc, hh, hm, withChip]

/-! Contributions on a package with nothing under way (R293, R294) -/

section Contribution

variable {c : Chip} (hq : c.quiet = true) {tag pa mask : Nat} {xs : List Nat} {bad : Bool} {ctx : Option Nat} {src hint : Nat}
include hq

theorem Chip.quiet_fillSome : c.fillSome tag pa = c := if_neg (fun h => Chip.quiet_not_filling hq tag h.1)

/-- A refused contribution is counted, and logged with its first reason. -/
theorem Chip.contribute_refused {b : Bucket} (hb : b = c.bucketAt tag) (hw : b.refuses pa mask ctx ≠ 0) :
    c.contribute tag pa mask xs bad ctx src hint =
      ((c.setBucket tag { b with refused := min (b.refused + 1) (2 ^ 32 - 1) }).logWin .bucketRefused [tag, b.refuses pa mask ctx]
        srcDispatch msDispatch (srcNoc b.home) [tag, b.refuses pa mask ctx, src], 1) := by
  subst hb
  simp only [Chip.contribute, Chip.quiet_fillSome hq]
  rw [if_pos hw]

/-- An accepted contribution is added to its line and counted, and the last one closes the bucket. -/
theorem Chip.contribute_accepted {b : Bucket} (hb : b = c.bucketAt tag) (hw : b.refuses pa mask ctx = 0)
    (hf : c.ledge.fenced.contains (c.mem.engineOf pa) = false) {old : List Byte × Bool} (ho : old = c.mem.line (pa / 64))
    {r : List Byte × Bool × Bool} (hr : r = accLine old.1 mask xs) :
    c.contribute tag pa mask xs bad ctx src hint =
      ((c.storeHint (pa / 64 * 64) r.1 (old.2 || bad) hint).setBucket tag
        { b with applied := b.applied + maskCount mask, ovf := b.ovf || r.2.1, invalid := b.invalid || r.2.2
                 poison := b.poison || (old.2 || bad), st := if b.applied + maskCount mask = b.expect then .closing else .open_ }, 0) := by
  have filled := Chip.quiet_not_filling hq tag
  have waits : c.fillWaits tag pa = false := by simp [Chip.fillWaits, filled]
  obtain ⟨accepting, -⟩ := Bucket.accepts_of_refuses_zero hw
  have opened : b.st = .open_ := by simpa [Bucket.accepting, hb, filled] using accepting
  subst hb ho hr
  simp only [Chip.contribute, Chip.quiet_fillSome hq, hw, hf, waits, Chip.quiet_ready hq]
  rw [Bucket.settle_of_open]
  · simp
  · exact opened

end Contribution

/-! Lateness (R298) -/

/-- Time stands in the clocks, whatever memory holds. -/
theorem Chip.passTo_attempt (c : Chip) (id src due : Nat) : (c.attempt id).passTo src due = (c.passTo src due).attempt id := by
  have island : (c.attempt id).island src = c.island src := rfl
  have count : (c.attempt id).count src = c.count src := rfl
  simp only [Chip.passTo, island, count]
  split <;> rfl

/-- A late bucket is noted, and what reports it moves nothing but logs and records. -/
theorem Chip.traffic_doBucketLate {c : Chip} {tag : Nat} (hst : (c.bucketAt tag).st = .filling ∨ (c.bucketAt tag).st = .open_)
    (ht : (c.bucketAt tag).timeout ≠ 0) (hl : (c.bucketAt tag).late = false) :
    ((c.passTo srcDispatch ((c.bucketAt tag).since + 1000 * (c.bucketAt tag).timeout)).setBucket tag
      { c.bucketAt tag with late := true }).Traffic (c.doBucketLate tag) := by
  have due : ((c.bucketAt tag).accepting && (c.bucketAt tag).timeout != 0 && !(c.bucketAt tag).late) = true := by
    simp [Bucket.accepting, hst, ht, hl]
  unfold Chip.doBucketLate
  dsimp only
  rw [if_pos due]
  exact (Chip.traffic_logEv ..).trans (Chip.traffic_event ..)

/-! The end (R299, R300) -/

/-- A bucket has ended: its entry is FREE, its object is signalled once, and every other bucket is as it was. -/
def Chip.BucketEnded (c : Chip) (tag : Nat) (b : Bucket) (d : Chip) : Prop :=
  (d.bucketAt tag).st = .free ∧ d.soValue b.so = (c.soValue b.so + b.sval) % 2 ^ 32 ∧ ∀ g, g ≠ tag → d.bucketAt g = c.bucketAt g

theorem Chip.traffic_bucketWrite (c : Chip) (tag field va : Nat) (bs : List Byte) (hint : Nat) :
    c.Traffic (c.bucketWrite tag field va bs hint) := by
  unfold Chip.bucketWrite
  dsimp only
  split
  · exact (c.traffic_used ..).trans (Chip.traffic_logEv ..)
  · exact (c.traffic_used ..).trans (Chip.traffic_scatter ..)

@[simp] theorem Chip.soSignal_keeps_bucket (c : Chip) (n v : Nat) : (c.soSignal n v).bucket = c.bucket :=
  (c.woken_soPut n _).part Chip.bucket

/-- The package with the record and the norm slot of a bucket written. -/
def Chip.bucketRecorded (c : Chip) (tag status sum : Nat) : Chip :=
  let b := c.bucketAt tag
  let d := c.bucketWrite tag 0 b.record (b.recordBytes tag status sum) b.rhint
  if b.norm = 0 then d else d.bucketWrite tag 1 b.norm (leBytes 4 sum) 0

theorem Chip.bucketEnd_eq (c : Chip) (tag status sum : Nat) : c.bucketEnd tag status sum =
    ((c.bucketRecorded tag status sum).soApply (c.bucketAt tag).ctx (c.bucketAt tag).so (c.bucketAt tag).sval false).setBucket tag
      { c.bucketAt tag with st := .free } := rfl

theorem Chip.traffic_bucketRecorded (c : Chip) (tag status sum : Nat) : c.Traffic (c.bucketRecorded tag status sum) := by
  unfold Chip.bucketRecorded
  dsimp only
  split
  · exact c.traffic_bucketWrite ..
  · exact (c.traffic_bucketWrite ..).trans (Chip.traffic_bucketWrite ..)

/-- Record and norm slot written, the object is signalled and the entry becomes FREE. -/
theorem Chip.bucketEnded_bucketEnd {c : Chip} {tag : Nat} (allowed : c.soAllowed (c.bucketAt tag).ctx (c.bucketAt tag).so = true)
    (status sum : Nat) : c.BucketEnded tag (c.bucketAt tag) (c.bucketEnd tag status sum) := by
  have recorded := c.traffic_bucketRecorded tag status sum
  have so : (c.bucketRecorded tag status sum).so = c.so := recorded.part Chip.so
  have signalled : (c.bucketRecorded tag status sum).soApply (c.bucketAt tag).ctx (c.bucketAt tag).so (c.bucketAt tag).sval false =
      (c.bucketRecorded tag status sum).soSignal (c.bucketAt tag).so (c.bucketAt tag).sval := by
    simp only [Chip.soApply, Chip.soAllowed, Chip.soOwner, so] at allowed ⊢
    simp only [allowed, if_true, Bool.false_eq_true, if_false]
  rw [Chip.bucketEnd_eq, signalled]
  refine ⟨by rw [Chip.bucketAt_setBucket_same], ?_, fun g hg => ?_⟩
  · refine (Chip.soValue_soPut_same ..).trans ?_
    simp only [Chip.soValue, so]
  · rw [Chip.bucketAt_setBucket_other _ _ hg, Chip.bucketAt_congr (Chip.soSignal_keeps_bucket ..), recorded.bucketAt]

/-- The end of a bucket is told of the package before traffic and before changes of its entry that keep its object and SO_VALUE. -/
theorem Chip.BucketEnded.of_entry {c d e : Chip} {tag : Nat} {a b : Bucket} (h : (d.setBucket tag a).BucketEnded tag a e)
    (t : c.Traffic d) (so : a.so = b.so) (sval : a.sval = b.sval) : c.BucketEnded tag b e := by
  obtain ⟨free, value, others⟩ := h
  refine ⟨free, ?_, fun g hg => ?_⟩
  · have same : d.so = c.so := t.part Chip.so
    rw [← so, ← sval, value]
    simp only [Chip.soValue, ← same]
    rfl
  · rw [others g hg, Chip.bucketAt_setBucket_other _ _ hg, t.bucketAt]

/-- BUCKET_COMPLETE ends a CLOSING bucket, whether or not its sum of squares is formed. -/
theorem Chip.bucketEnded_doBucketComplete {c : Chip} {tag : Nat} (hst : (c.bucketAt tag).st = .closing)
    (allowed : c.soAllowed (c.bucketAt tag).ctx (c.bucketAt tag).so = true) :
    c.BucketEnded tag (c.bucketAt tag) (c.doBucketComplete tag) := by
  -- the reads of the region are traffic, and what they find changes POISON and OVERFLOW alone
  have summed : ∀ {d : Chip} (a : Bucket) (status sum : Nat), c.Traffic d → a.ctx = (c.bucketAt tag).ctx →
      a.so = (c.bucketAt tag).so → a.sval = (c.bucketAt tag).sval →
      c.BucketEnded tag (c.bucketAt tag) ((d.setBucket tag a).bucketEnd tag status sum) := by
    intro d a status sum t ctx so sval
    have allowed' : (d.setBucket tag a).soAllowed a.ctx a.so = true := by
      have same : d.so = c.so := t.part Chip.so
      rw [← allowed, ctx, so]
      simp only [Chip.soAllowed, Chip.soOwner, ← same]
      rfl
    have ended := Chip.bucketEnded_bucketEnd (tag := tag) (by rwa [Chip.bucketAt_setBucket_same]) status sum
    rw [Chip.bucketAt_setBucket_same] at ended
    exact ended.of_entry t so sval
  unfold Chip.doBucketComplete
  dsimp only
  rw [if_pos hst]
  split
  · exact Chip.bucketEnded_bucketEnd allowed ..
  · exact summed _ _ _ ((c.traffic_meet ..).trans (Chip.traffic_modMem ..)) rfl rfl rfl

/-- BUCKET_ABORT_DONE ends an ABORTING bucket, and then the descriptor that aborted it. -/
theorem Chip.bucketEnded_doBucketAbortDone {c : Chip} {tag : Nat} (hst : (c.bucketAt tag).st = .aborting)
    (allowed : c.soAllowed (c.bucketAt tag).ctx (c.bucketAt tag).so = true) :
    c.BucketEnded tag (c.bucketAt tag) (c.doBucketAbortDone tag) := by
  have ended := Chip.bucketEnded_bucketEnd allowed 1 nan32
  unfold Chip.doBucketAbortDone
  dsimp only
  rw [if_pos hst]
  split
  · next key _ =>
    obtain ⟨free, value, others⟩ := ended
    have finished := (c.bucketEnd tag 1 nan32).finished_finish key 0 0
    exact ⟨(congrArg Bucket.st (finished.part (·.bucketAt tag))).trans free, (finished.part (·.soValue _)).trans value,
      fun g hg => (finished.part (·.bucketAt g)).trans (others g hg)⟩
  · exact ended

/-! The commands of a bucket -/

theorem Chip.Bounded.doContribution {c : Chip} (h : c.Bounded) (tag : Nat) (pa : BitVec 52) (mask : BitVec 16) (xs : List (BitVec 32))
    (bad : Bool) (ctx : Option (Fin 64)) (src : BitVec 16) : (c.doContribution tag pa mask xs bad ctx src).Bounded := by
  unfold Chip.doContribution
  exact Chip.Bounded.traffic (Chip.Bounded.contribute h _ _ _ _ _ _ _ _) (Chip.traffic_answer ..)

theorem Chip.Bounded.exec_contribution {s t : State} (h : s.chip.Bounded) {tag : Fin 4096} {pa : BitVec 52} {mask : BitVec 16}
    {xs : List (BitVec 32)} {bad : Bool} {ctx : Option (Fin 64)} {src : BitVec 16}
    (run : exec (.contribution tag pa mask xs bad ctx src) s = .next t) : t.chip.Bounded := by
  rcases State.guarded_traffic (f := fun c => c.doContribution tag.val pa mask xs bad ctx src) run with moved | moved | moved
  · exact h.traffic moved
  · exact Chip.Bounded.traffic (Chip.Bounded.doContribution h _ _ _ _ _ _ _) moved
  · exact Chip.Bounded.traffic (Chip.Bounded.doContribution (h.traffic (Chip.traffic_attempt ..)) _ _ _ _ _ _ _) moved

section Commands

variable {s : State} {tag : Fin 4096} {b : Bucket} (hl : s.chip.live = true) (hb : b = s.chip.bucketAt tag.val)
include hl hb

/-- With no command waiting and every channel accepting requests, a FILLING bucket's fill reaches its end at the next try. -/
theorem exec_bucketFilled_whole {c : Chip} (hst : b.st = .filling) (held : s.held = []) (busy : s.chip.mem.busy = [])
    (waitq : s.chip.mem.waitq = []) (accepts : ∀ ln, s.chip.accepts ln = true) (hn : b.unfilled.length ≤ b.len / 64)
    (hc : c = (s.chip.attempt s.ident).doBucketFilled tag.val) :
    c = ((s.chip.attempt s.ident).modMem (·.zeroLines b.unfilled)).setBucket tag.val b.filledUp ∧
      exec (.bucketFilled tag) s = .next (withChip s (c.unmark s.ident)) := by
  have whole : c = ((s.chip.attempt s.ident).modMem (·.zeroLines b.unfilled)).setBucket tag.val b.filledUp := by
    subst hb
    exact hc.trans (Chip.doBucketFilled_whole (fun ln => Chip.ready_attempt busy waitq _ (accepts ln)) hst hn)
  have met : c.mem.met = [] := by rw [whole]; exact (Mem.zeroLines_met ..).trans (Chip.attempt_met ..)
  have notCalm : s.calm = false := by
    rw [Bool.eq_false_iff]
    exact fun calm => Chip.quiet_not_filling (State.quiet_of_calm calm) tag.val (hb ▸ hst)
  subst hc
  exact ⟨whole, State.guarded_served _ _ (fun c => c.doBucketFilled tag.val) hl notCalm held met⟩

/-- A late bucket is noted and reported, and the package is otherwise as it was when its time had passed, but for logs and records. -/
theorem exec_bucketLate_reports {c0 : Chip} (try_ : s.calm = true ∧ c0 = s.chip ∨ s.held = [] ∧ s.calm = false ∧
      c0 = s.chip.attempt s.ident ∧ (c0.doBucketLate tag.val).mem.met = [])
    (hst : b.st = .filling ∨ b.st = .open_) (ht : b.timeout ≠ 0) (late : b.late = false) :
    exec (.bucketLate tag) s =
        .next (withChip s (if s.calm then c0.doBucketLate tag.val else (c0.doBucketLate tag.val).unmark s.ident)) ∧
      ((s.chip.passTo srcDispatch (b.since + 1000 * b.timeout)).setBucket tag.val { b with late := true }).Traffic
        (c0.doBucketLate tag.val) := by
  subst hb
  rcases try_ with ⟨calm, rfl⟩ | ⟨held, notCalm, rfl, met⟩
  · rw [if_pos calm]
    exact ⟨exec_calm (fun c => c.doBucketLate tag.val) hl calm rfl rfl, Chip.traffic_doBucketLate hst ht late⟩
  · rw [if_neg (by simp [notCalm])]
    refine ⟨State.guarded_served _ _ (fun c => c.doBucketLate tag.val) hl notCalm held met, ?_⟩
    have noted := Chip.traffic_doBucketLate (c := s.chip.attempt s.ident) (tag := tag.val) hst ht late
    rw [Chip.passTo_attempt] at noted
    exact Chip.Traffic.trans (d := ((s.chip.passTo _ _).attempt s.ident).setBucket tag.val _) rfl noted

end Commands

/-- Settles O29: the bound by what a command that may wait leaves (`State.guarded_traffic`) and by the room that an accepted contribution
finds; the rest by what each operation makes of its entry, everything else that it does being traffic (`Chip.Traffic`). -/
theorem bucketsFillAndEnd : Obligations.BucketsFillAndEnd := by
  refine ⟨fun s t tag pa mask xs bad ctx src bound run => Chip.Bounded.exec_contribution bound run, ?_, ?_⟩
  · rintro s tag b pa mask xs bad ctx src a r old hl hb rfl ho hr
    have line : pa.toNat / 64 * 64 / 64 = pa.toNat / 64 := by omega
    refine ⟨fun c hst held busy waitq accepts hn hc => ?_, fun calm hw hf => ?_, fun why calm hw h0 => ?_,
      fun c0 try_ hst ht late => ?_⟩
    · obtain ⟨whole, run⟩ := exec_bucketFilled_whole hl hb hst held busy waitq accepts hn hc
      refine ⟨run, ?_, ?_, ?_, fun wf g hg => ?_⟩
      · rw [whole, Chip.bucketAt_setBucket_same]; rfl
      · rw [whole, Chip.bucketAt_setBucket_same]; exact b.unfilled_of_filled
      · rw [whole, Chip.bucketAt_setBucket_same]; rfl
      · rw [whole]
        exact Mem.line_zeroLines (by rwa [Chip.attempt_bytes]) (.inr ⟨g, hg, rfl⟩)
    · refine exec_calm (fun c => c.doContribution tag.val pa mask xs bad ctx src) hl calm rfl ?_
      unfold Chip.doContribution
      rw [Chip.contribute_accepted (State.quiet_of_calm calm) hb hw hf ho hr, line]
    · subst hw
      refine exec_calm (fun c => c.doContribution tag.val pa mask xs bad ctx src) hl calm rfl ?_
      unfold Chip.doContribution
      rw [Chip.contribute_refused (State.quiet_of_calm calm) hb h0]
    · obtain ⟨run, reported⟩ := exec_bucketLate_reports hl hb try_ hst ht late
      obtain ⟨f, passed⟩ := s.chip.passTo_eq_modClk srcDispatch (b.since + 1000 * b.timeout)
      refine ⟨run, ?_, ?_, ?_, reported.part Chip.clk⟩
      · rw [reported.bucketAt, Chip.bucketAt_setBucket_same]
      · exact (reported.part Chip.tile).trans (by rw [passed]; rfl)
      · exact (reported.part Chip.so).trans (by rw [passed]; rfl)
  · rintro s tag b hl calm rfl allowed
    refine ⟨fun hst => ⟨_, exec_calm (fun c => c.doBucketComplete tag.val) hl calm rfl rfl, ?_⟩,
      fun hst => ⟨_, exec_calm (fun c => c.doBucketAbortDone tag.val) hl calm rfl rfl, ?_⟩⟩
    · exact Chip.bucketEnded_doBucketComplete hst allowed
    · exact Chip.bucketEnded_doBucketAbortDone hst allowed

end Sys2Proof.Machine
end

section
/-!
The host complex (12 R314, R321 to R327, 18 R461, R463): what an interrupt makes of the core that it is sent to, the entries that a PCIe
transaction goes through, and transactions on a package with nothing under way.
-/

open Sys2Proof

namespace Sys2Proof.Machine

/-! Waking a core (18 R461) -/

/-- What an interrupt makes of the state of a core that is not off: a GATED core runs, every other one is as it was. -/
def CoreSt.woken (x : CoreSt) : CoreSt := if x = .gated then .active else x

/-- The package with core `k` woken. -/
def Chip.wakeCore (c : Chip) (k : Nat) : Chip := if c.coreSt k = .gated then c.setCore k .active else c

@[simp] theorem Chip.coreSt_setCore_same (c : Chip) (k : Nat) (x : CoreSt) : (c.setCore k x).coreSt k = x := tabGet_tabSet_same ..

theorem Chip.coreSt_wakeCore (c : Chip) (k : Nat) : (c.wakeCore k).coreSt k = (c.coreSt k).woken := by
  unfold Chip.wakeCore CoreSt.woken
  split
  · exact c.coreSt_setCore_same ..
  · rfl

/-- Waking a core changes the states of cores alone. -/
theorem Chip.wakeCore_eq_modIrq (c : Chip) (k : Nat) : ∃ t, c.wakeCore k = c.modIrq (fun q => { q with core := t }) := by
  unfold Chip.wakeCore
  split
  · exact ⟨_, rfl⟩
  · exact ⟨c.irq.core, rfl⟩

/-! Timer interrupts (R314) -/

/-- A core whose compare register of one mode holds `cmp`. -/
def Hart.withCompare (x : Hart) (machine : Bool) (cmp : Nat) : Hart :=
  if machine then { x with mtimecmp := cmp } else { x with csr := tabSet x.csr 0x14D cmp }

theorem Hart.compare_withCompare (x : Hart) (machine : Bool) (cmp : Nat) :
    (if machine then (x.withCompare machine cmp).mtimecmp else tabGet 0 (x.withCompare machine cmp).csr 0x14D) = cmp := by
  cases machine
  · exact tabGet_tabSet_same ..
  · rfl

@[simp] theorem Chip.hartAt_setHart_same (c : Chip) (k : Nat) (x : Hart) : (c.setHart k x).hartAt k = x := tabGet_tabSet_same ..

/-- The package with a core's timer interrupt of one mode raised. -/
def Chip.raiseTimer (c : Chip) (k : Nat) (machine : Bool) : Chip :=
  c.modIrq (fun q => { q with timer := tabSet q.timer k (tabGet 0 q.timer k ||| (if machine then 2 else 1)) })

/-- A counter that reaches a compare register of a core that is not off raises the timer interrupt and wakes the core. -/
theorem Chip.doTimerCompare_of_on {c : Chip} {k : Nat} (on : c.coreSt k ≠ .off) (machine : Bool) (cmp : BitVec 64) :
    c.doTimerCompare k machine cmp =
      (((c.passTo srcPower cmp.toNat).setHart k ((c.hartAt k).withCompare machine cmp.toNat)).raiseTimer k machine).wakeCore k := by
  unfold Chip.doTimerCompare
  rw [if_neg on]
  cases machine <;> rfl

/-- What a timer interrupt leaves: the interrupt raised, the compare register as written, the core woken, and interrupt files, memory and
tiles as they were. -/
theorem Chip.timerCompare_of_on {c : Chip} {k : Nat} (on : c.coreSt k ≠ .off) (machine : Bool) (cmp : BitVec 64) {d : Chip}
    (hd : d = c.doTimerCompare k machine cmp) :
    tabGet 0 d.irq.timer k = tabGet 0 c.irq.timer k ||| (if machine then 2 else 1) ∧
      (if machine then (d.hartAt k).mtimecmp else tabGet 0 (d.hartAt k).csr 0x14D) = cmp.toNat ∧
      d.coreSt k = (c.coreSt k).woken ∧ d.irq.pending = c.irq.pending ∧ d.mem = c.mem ∧ d.tile = c.tile := by
  rw [Chip.doTimerCompare_of_on on] at hd
  obtain ⟨f, passed⟩ := c.passTo_eq_modClk srcPower cmp.toNat
  rw [passed] at hd
  have core : d.coreSt k = (c.coreSt k).woken := by rw [hd, Chip.coreSt_wakeCore]; rfl
  obtain ⟨t, woke⟩ := Chip.wakeCore_eq_modIrq
    (((c.modClk f).setHart k ((c.hartAt k).withCompare machine cmp.toNat)).raiseTimer k machine) k
  rw [woke] at hd
  have hart : d.hartAt k = (c.hartAt k).withCompare machine cmp.toNat := by rw [hd]; exact Chip.hartAt_setHart_same ..
  refine ⟨?_, hart ▸ Hart.compare_withCompare .., core, ?_, ?_, ?_⟩
  · rw [hd]; exact tabGet_tabSet_same ..
  all_goals rw [hd]; rfl

/-! Message-signalled interrupts (R326) -/

/-- The package with an identity pending in an interrupt file. -/
def Chip.setPending (c : Chip) (core file ident : Nat) : Chip :=
  c.modIrq (fun q => { q with pending := tabSet q.pending (8 * core + file) (setIns (tabGet [] q.pending (8 * core + file)) ident) })

theorem Chip.pendingIds_setPending (c : Chip) (core file ident : Nat) :
    (c.setPending core file ident).pendingIds core file = setIns (c.pendingIds core file) ident := tabGet_tabSet_same ..

/-- The package with one more MSI to a core counted as dropped. -/
def Chip.dropMsi (c : Chip) (core : Nat) : Chip :=
  c.modIrq (fun q => { q with dropped := tabSet q.dropped core (tabGet 0 q.dropped core + 1) })

section Msi

variable {c : Chip} {core file ident : Nat}

/-- Identity 0, identities above 2,047 and the reserved page of a core have no effect. -/
theorem Chip.msi_reserved (h : ident = 0 ∨ 2047 < ident ∨ 63 < core ∨ 6 < file) : c.msi core file ident = c := if_pos h

variable (valid : ¬ (ident = 0 ∨ 2047 < ident ∨ 63 < core ∨ 6 < file))
include valid

/-- A core that is off drops it (18 R463). -/
theorem Chip.msi_of_off (off : c.coreSt core = .off) : c.msi core file ident = c.dropMsi core := by
  unfold Chip.msi
  rw [if_neg valid, if_pos off]
  rfl

/-- Any other core has the identity pending in its file, and is woken. -/
theorem Chip.msi_of_on (on : c.coreSt core ≠ .off) : c.msi core file ident = (c.setPending core file ident).wakeCore core := by
  unfold Chip.msi Chip.wakeCore
  rw [if_neg valid, if_neg on]
  have same : (c.setPending core file ident).coreSt core = tabGet .active c.irq.core core := rfl
  rw [same]
  split
  · next gated => simp only [Chip.modIrq, gated, if_true]; rfl
  · next running => simp only [Chip.modIrq, running, if_false]; rfl

end Msi

theorem Chip.coreSt_msi_of_on {c : Chip} {core file ident : Nat} (valid : ¬ (ident = 0 ∨ 2047 < ident ∨ 63 < core ∨ 6 < file))
    (on : c.coreSt core ≠ .off) : (c.msi core file ident).coreSt core = (c.coreSt core).woken := by
  rw [Chip.msi_of_on valid on, Chip.coreSt_wakeCore]; rfl

/-- The file of a core that is not off holds the identity and what it held. -/
theorem Chip.mem_pendingIds_msi {c : Chip} {core file ident : Nat} (valid : ¬ (ident = 0 ∨ 2047 < ident ∨ 63 < core ∨ 6 < file))
    (on : c.coreSt core ≠ .off) (i : Nat) :
    i ∈ (c.msi core file ident).pendingIds core file ↔ i = ident ∨ i ∈ c.pendingIds core file := by
  rw [Chip.msi_of_on valid on]
  obtain ⟨t, woke⟩ := (c.setPending core file ident).wakeCore_eq_modIrq core
  have files : ((c.setPending core file ident).wakeCore core).pendingIds core file = setIns (c.pendingIds core file) ident := by
    rw [woke]; exact c.pendingIds_setPending ..
  rw [files, mem_setIns]

theorem Chip.msi_mem (c : Chip) (core file ident : Nat) : (c.msi core file ident).mem = c.mem := by
  obtain ⟨f, h⟩ := c.msi_eq_modIrq core file ident; rw [h]; rfl

/-! Memory transactions of PCIe devices (R321 to R324) -/

section Transactions

variable {c : Chip} {p : Tlp} (port : c.rootPort p.port.val = true)
include port

/-- A write that no entry lets through, or to a window of a root port, is refused and logged. -/
theorem Chip.doPcieWriteTlp_refused (h : c.pcieMatch p p.bytes.length true = none ∨ tlpPeer p p.bytes.length = true) :
    c.doPcieWriteTlp p = c.pcieLog .pcieUnreg p := by
  unfold Chip.doPcieWriteTlp
  cases peer : tlpPeer p p.bytes.length with
  | true => simp [port]
  | false =>
    have unmatched : c.pcieMatch p p.bytes.length true = none := h.resolve_right (by simp [peer])
    simp [port, unmatched]

/-- A read that no entry lets through, or to a window of a root port, is refused, logged and answered with Unsupported Request. -/
theorem Chip.doPcieReadTlp_refused {len : Nat} (h : c.pcieMatch p len false = none ∨ tlpPeer p len = true) :
    c.doPcieReadTlp p len = (c.pcieLog .pcieUnreg p).answer [1] := by
  unfold Chip.doPcieReadTlp
  cases peer : tlpPeer p len with
  | true => simp [port]
  | false =>
    have unmatched : c.pcieMatch p len false = none := h.resolve_right (by simp [peer])
    simp [port, unmatched]

variable (quiet : c.quiet = true) {r : PcieRegion} {sp : Span}
include quiet

/-- A write that an entry lets through is translated by the IOTLB, and written with the entry's hint or logged as a fault. -/
theorem Chip.doPcieWriteTlp_admitted (admitted : c.pcieMatch p p.bytes.length true = some r) (peer : tlpPeer p p.bytes.length = false)
    (hs : sp = c.spanLines iotlb r.ctx p.addr.toNat p.bytes.length true) :
    (sp.fault = none → c.doPcieWriteTlp p = (c.tlbFill iotlb sp.ents).scatter sp p.bytes p.poison r.hint) ∧
      (∀ g, sp.fault = some g → c.doPcieWriteTlp p = (c.tlbFill iotlb sp.ents).pcieFault p g) := by
  have met : (c.tlbFill iotlb sp.ents).meet sp.lines false = c.tlbFill iotlb sp.ents := Chip.quiet_meet (by simpa using quiet) ..
  unfold Chip.doPcieWriteTlp
  exact ⟨fun hf => by simp [port, peer, admitted, ← hs, met, hf], fun g hf => by simp [port, peer, admitted, ← hs, met, hf]⟩

/-- A read that an entry lets through is translated by the IOTLB, and answered line by line or logged as a fault and aborted. -/
theorem Chip.doPcieReadTlp_admitted {len : Nat} (admitted : c.pcieMatch p len false = some r) (peer : tlpPeer p len = false)
    (hs : sp = c.spanLines iotlb r.ctx p.addr.toNat len false) :
    (sp.fault = none → c.doPcieReadTlp p len = (c.tlbFill iotlb sp.ents).answer (0 :: sp.pieces.flatMap (fun q =>
        b2n (c.mem.poisonedN q.2.1 q.2.2) :: q.2.2 :: (c.mem.readN q.2.1 q.2.2).map (·.toNat)))) ∧
      (∀ g, sp.fault = some g → c.doPcieReadTlp p len = ((c.tlbFill iotlb sp.ents).pcieFault p g).answer [2]) := by
  have met : (c.tlbFill iotlb sp.ents).meet sp.lines false = c.tlbFill iotlb sp.ents := Chip.quiet_meet (by simpa using quiet) ..
  unfold Chip.doPcieReadTlp
  exact ⟨fun hf => by simp [port, peer, admitted, ← hs, met, hf], fun g hf => by simp [port, peer, admitted, ← hs, met, hf]⟩

end Transactions

/-! MSIs of PCIe devices (R325, R327) -/

/-- A write of the page of one interrupt file reaches it through an entry that names the requester and the file, and is logged otherwise. -/
theorem Chip.doPcieMsi_of_page {c : Chip} {port core file : Nat} {addr : BitVec 64} (root : c.rootPort port = true)
    (page : addr.toNat = 0xFD0000000000 + 0x8000 * core + 0x1000 * file) (small : file < 8) (reqid : BitVec 16) (v : BitVec 32) :
    c.doPcieMsi port reqid addr v =
      if c.pcie.any (fun x => x.2.names port reqid.toNat && x.2.msi && x.2.hart == core && x.2.file == file)
      then c.msi core file v.toNat else c.logEv .pcieMsiDenied srcRoot [reqid.toNat, addr.toNat] := by
  have coreOf : (addr.toNat - 0xFD0000000000) / 0x8000 = core := by omega
  have fileOf : (addr.toNat - 0xFD0000000000) % 0x8000 / 0x1000 = file := by omega
  have base : 0xFD0000000000 ≤ addr.toNat := by omega
  have aligned : (addr.toNat - 0xFD0000000000) % 0x1000 = 0 := by omega
  unfold Chip.doPcieMsi
  simp only [root, coreOf, fileOf, aligned, decide_eq_true base, beq_self_eq_true, Bool.true_and, Bool.not_true,
    Bool.false_eq_true, if_false]

/-! The commands -/

section Cores

variable {s : State} {k : Fin 64} (hl : s.chip.live = true)
include hl

theorem exec_coreWfi_of_active (active : s.chip.coreSt k.val = .active) :
    exec (.coreWfi k) s = .next (withChip s (s.chip.setCore k.val .gated)) :=
  exec_live (fun c => c.doCoreWfi k.val) hl rfl (if_pos active)

theorem exec_timerCompare (m : Bool) (cmp : BitVec 64) :
    exec (.timerCompare k m cmp) s = .next (withChip s (s.chip.doTimerCompare k.val m cmp)) :=
  exec_live (fun c => c.doTimerCompare k.val m cmp) hl rfl rfl

theorem exec_msiWrite (file : Fin 8) (v : BitVec 32) :
    exec (.msiWrite k file v) s = .next (withChip s (s.chip.msi k.val file.val v.toNat)) :=
  exec_live (fun c => c.doMsiWrite k.val file.val v) hl rfl rfl

theorem exec_mtimeWrite (addr : BitVec 52) (a : SetupAcc) :
    exec (.mtimeWrite addr a) s = .next (withChip s (s.chip.doMtimeWrite addr a)) :=
  exec_live (fun c => c.doMtimeWrite addr a) hl rfl rfl

end Cores

section Devices

variable {s : State} (hl : s.chip.live = true) (hc : s.calm = true)
include hl hc

theorem exec_pcieWriteTlp (p : Tlp) : exec (.pcieWriteTlp p) s = .next (withChip s (s.chip.doPcieWriteTlp p)) :=
  exec_calm (fun c => c.doPcieWriteTlp p) hl hc rfl rfl

theorem exec_pcieReadTlp (p : Tlp) (len : Nat) : exec (.pcieReadTlp p len) s = .next (withChip s (s.chip.doPcieReadTlp p len)) :=
  exec_calm (fun c => c.doPcieReadTlp p len) hl hc rfl rfl

theorem exec_pcieMsi (port : Fin 8) (reqid : BitVec 16) (addr : BitVec 64) (v : BitVec 32) :
    exec (.pcieMsi port reqid addr v) s = .next (withChip s (s.chip.doPcieMsi port.val reqid addr v)) :=
  exec_calm (fun c => c.doPcieMsi port.val reqid addr v) hl hc rfl rfl

end Devices

/-- Settles O30: an interrupt of either kind is noted in its own table and wakes its core (`Chip.wakeCore`); a transaction of a device is
refused by the entries, or translated on a package on which no line has to be waited for. -/
theorem coresInterruptsAndPcie : Obligations.CoresInterruptsAndPcie := by
  refine ⟨?_, ?_⟩
  · intro s k file v m cmp addr a hl
    have hk := k.isLt
    rw [exec_timerCompare hl, exec_msiWrite hl, exec_mtimeWrite hl]
    refine ⟨exec_coreWfi_of_active hl, fun on => ⟨_, rfl, Chip.timerCompare_of_on on m cmp rfl⟩, fun on h0 hv hf => ?_,
      fun off h0 hv hf => ?_, fun h => ?_, rfl⟩
    · have valid : ¬ (v.toNat = 0 ∨ 2047 < v.toNat ∨ 63 < k.val ∨ 6 < file.val) := by omega
      exact ⟨_, rfl, (Chip.mem_pendingIds_msi valid on _).mpr (.inl rfl), fun i hi => (Chip.mem_pendingIds_msi valid on i).mpr (.inr hi),
        Chip.coreSt_msi_of_on valid on, Chip.msi_mem ..⟩
    · rw [Chip.msi_of_off (by omega) off]; rfl
    · rw [Chip.msi_reserved (by omega)]; rfl
  · intro s p len r sp port reqid addr v core file hl hc hp hport
    have quiet := State.quiet_of_calm hc
    rw [exec_pcieWriteTlp hl hc, exec_pcieReadTlp hl hc, exec_pcieMsi hl hc]
    refine ⟨fun admitted peer hs => ?_, fun admitted peer hs => ?_, fun h => ?_, fun h => ?_, fun page small => ?_⟩
    · obtain ⟨whole, faulted⟩ := Chip.doPcieWriteTlp_admitted hp quiet admitted peer hs
      exact ⟨fun hf => by rw [whole hf], fun g hf => by rw [faulted g hf]⟩
    · obtain ⟨whole, faulted⟩ := Chip.doPcieReadTlp_admitted hp quiet admitted peer hs
      exact ⟨fun hf => by rw [whole hf], fun g hf => by rw [faulted g hf]⟩
    · rw [Chip.doPcieWriteTlp_refused hp h]
    · rw [Chip.doPcieReadTlp_refused hp h]
    · rw [Chip.doPcieMsi_of_page hport page small]

end Sys2Proof.Machine
end

section
/-!
Frames and Haul packets as they arrive: what is counted, which connection a packet reaches, and a sequenced packet by its place in the window
(13 R332, R336, R342, R343, R349).
-/

open Sys2Proof

namespace Sys2Proof.Machine

/-! Sub-ports -/

@[simp] theorem Chip.portAt_setPort_same (c : Chip) (p : Nat) (x : SubPort) : (c.setPort p x).portAt p = x := tabGet_tabSet_same ..

@[simp] theorem Chip.setPort_setPort (c : Chip) (p : Nat) (x y : SubPort) : (c.setPort p x).setPort p y = c.setPort p y := by
  simp [Chip.setPort, Chip.modFab]

@[simp] theorem Chip.connAt_setPort (c : Chip) (p k : Nat) (x : SubPort) : (c.setPort p x).connAt k = c.connAt k := rfl

/-! Frames (R332) -/

section Frames

variable {c : Chip} {sub : Nat} {f : Frame} (up : (c.portAt sub).up = true)
include up

theorem Chip.frameIn_badFcs (bad : f.fcsOk = false) :
    c.frameIn sub f = (c.setPort sub { c.portAt sub with badFcs := (c.portAt sub).badFcs + 1 }, false) := by
  simp [Chip.frameIn, up, bad]

theorem Chip.frameIn_long (good : f.fcsOk = true) (long : 9216 < f.bytes.length) :
    c.frameIn sub f = (c.setPort sub { c.portAt sub with dropped := (c.portAt sub).dropped + 1 }, false) := by
  simp [Chip.frameIn, up, good, long]

theorem Chip.frameIn_good (good : f.fcsOk = true) (fits : f.bytes.length ≤ 9216) : c.frameIn sub f = (haulSeen c sub, true) := by
  have short : ¬ 9216 < f.bytes.length := by omega
  simp [Chip.frameIn, up, good, short, haulSeen]

end Frames

/-! Haul packets and their connection (R336) -/

section Arrival

variable {s : State} {sub : Fin 32} {f : Frame} {op k : Nat} {p : Pkt} (arr : haulArrives s sub f op p)
include arr

/-- A well-formed CONNECT or ACCEPT reaches its operation once it has been counted. -/
theorem Chip.helloIn_arrived (g : Chip → Pkt → Chip) : s.chip.helloIn sub.val f op g = g (haulSeen s.chip sub.val) p := by
  obtain ⟨-, packet, isOp, up, good, fits, formed⟩ := arr
  simp [Chip.helloIn, packet, isOp, Chip.frameIn_good up good fits, formed]

/-- A well-formed packet of an OPEN connection in its epoch reaches its operation once it and what it tells have been counted. -/
theorem Chip.haulIn_named (named : haulNamed s.chip p k) (g : Chip → Nat → Pkt → Chip) :
    s.chip.haulIn sub.val f op g = g (haulOn s.chip sub.val k p) k p := by
  obtain ⟨-, packet, isOp, up, good, fits, formed⟩ := arr
  obtain ⟨rfl, small, open_, epoch⟩ := named
  have known : ¬ ((s.chip.connAt (fieldBE p.bytes 4 2)).st ≠ .open_ ∨ 16384 ≤ fieldBE p.bytes 4 2 ∨
      (s.chip.connAt (fieldBE p.bytes 4 2)).epoch ≠ fieldBE p.bytes 6 2) := by simp [open_, epoch]; omega
  have same : (haulSeen s.chip sub.val).connAt (fieldBE p.bytes 4 2) = s.chip.connAt (fieldBE p.bytes 4 2) := rfl
  simp only [Chip.haulIn, packet, isOp, Chip.frameIn_good up good fits, formed, same, known, ne_eq, not_true_eq_false, if_false, Bool.not_true,
    Bool.false_eq_true, haulOn]
  cases p.ce <;> rfl

/-- A well-formed packet of no OPEN connection, or of another epoch, is counted as stale and discarded. -/
theorem Chip.haulIn_stale (stale : (s.chip.connAt (fieldBE p.bytes 4 2)).st ≠ .open_ ∨
      (s.chip.connAt (fieldBE p.bytes 4 2)).epoch ≠ fieldBE p.bytes 6 2) (g : Chip → Nat → Pkt → Chip) :
    s.chip.haulIn sub.val f op g = s.chip.setPort sub.val { s.chip.portAt sub.val with
      frames := (s.chip.portAt sub.val).frames + 1, stale := (s.chip.portAt sub.val).stale + 1 } := by
  obtain ⟨-, packet, isOp, up, good, fits, formed⟩ := arr
  have unknown : (haulSeen s.chip sub.val).connAt (fieldBE p.bytes 4 2) = s.chip.connAt (fieldBE p.bytes 4 2) := rfl
  simp only [Chip.haulIn, packet, isOp, Chip.frameIn_good up good fits, formed, unknown, ne_eq, not_true_eq_false, if_false, Bool.not_true,
    Bool.false_eq_true]
  rw [if_pos (stale.imp_right .inr)]
  simp [haulSeen]

end Arrival

/-! A sequenced packet by its place in the window (R342, R343, R349) -/

/-- The payload units of a packet. -/
def Pkt.units (p : Pkt) : Nat := (fieldBE p.bytes 2 2 + 63) / 64

/-- A packet asks for an ACK at once. -/
def Pkt.acknow (p : Pkt) : Bool := bit (fieldBE p.bytes 0 1) 1

/-- The slot of a packet that has been accepted and not yet applied. -/
def Pkt.slot (p : Pkt) : RxSlot :=
  { st := .waiting, report := p.acknow, op := fieldBE p.bytes 1 1, hdr := haulHdr p.bytes, payload := haulPay p.bytes
    poison := bit (fieldBE p.bytes 0 1) 3, code := 0, detail := 0, region := none, units := p.units }

/-- The package after a duplicate has been counted. -/
def Chip.dupSeen (c : Chip) (sub : Nat) : Chip := c.setPort sub { c.portAt sub with dup := (c.portAt sub).dup + 1 }

/-- The answer to a packet that asks for an ACK. -/
def Chip.ackIf (c : Chip) (k : Nat) (now : Bool) : Chip := if now then c.sendAck k true else c

/-- The package with a packet's credit and its slot taken. -/
def Chip.accepted (c : Chip) (k : Nat) (p : Pkt) : Chip :=
  (c.setConn k { c.connAt k with rx := { (c.connAt k).rx with acc := ((c.connAt k).rx.acc + p.units) % 2 ^ 32 } }).setSlot k
    (fieldBE p.bytes 8 4) p.slot

section Window

variable {c : Chip} {sub k : Nat} {p : Pkt}

theorem Chip.sequenced_below (below : seqGe (fieldBE p.bytes 8 4) (c.connAt k).rx.w = false) :
    c.sequenced sub k p = (c.dupSeen sub).sendAck k true := by
  simp [Chip.sequenced, below, Chip.dupSeen]

variable (above : seqGe (fieldBE p.bytes 8 4) (c.connAt k).rx.w = true)
include above

theorem Chip.sequenced_beyond (beyond : 1024 ≤ sub32 (fieldBE p.bytes 8 4) (c.connAt k).rx.w) :
    c.sequenced sub k p = c.setPort sub { c.portAt sub with window := (c.portAt sub).window + 1 } := by
  simp [Chip.sequenced, above, beyond]

variable (inside : sub32 (fieldBE p.bytes 8 4) (c.connAt k).rx.w < 1024)
include inside

/-- A packet that the receiver holds already is a duplicate: one that was refused draws its NAK again, one that is done an ACK, and one
without status is reported once it has one. -/
theorem Chip.sequenced_held {old : RxSlot} (held : tabFind (c.connAt k).rx.slots (fieldBE p.bytes 8 4) = some old) :
    c.sequenced sub k p =
      if old.st = .complete then
        if old.code = 0 then (c.dupSeen sub).sendAck k true
        else ((c.dupSeen sub).sendNak k (fieldBE p.bytes 8 4) old.code old.detail).ackIf k p.acknow
      else ((c.dupSeen sub).setSlot k (fieldBE p.bytes 8 4) { old with report := true }).ackIf k p.acknow := by
  simp only [Chip.sequenced, above, held, Nat.not_le.mpr inside, Bool.not_true, Bool.false_eq_true, if_false]
  cases old.st <;> rfl

variable (free : tabFind (c.connAt k).rx.slots (fieldBE p.bytes 8 4) = none)
include free

theorem Chip.sequenced_overrun (uncredited : seqGe (c.connAt k).rx.limit (((c.connAt k).rx.acc + p.units) % 2 ^ 32) = false) :
    c.sequenced sub k p = c.setPort sub { c.portAt sub with overrun := (c.portAt sub).overrun + 1 } := by
  rw [Pkt.units] at uncredited
  simp only [Chip.sequenced, above, free, Nat.not_le.mpr inside, uncredited, Bool.not_true, Bool.not_false, Bool.false_eq_true, if_false,
    if_true]

/-- A new packet takes its credit and its slot, and is applied unless it has to wait. -/
theorem Chip.sequenced_new (credited : seqGe (c.connAt k).rx.limit (((c.connAt k).rx.acc + p.units) % 2 ^ 32) = true) :
    c.sequenced sub k p = (if (c.accepted k p).mustWait k (fieldBE p.bytes 8 4) p.slot.op p.slot.hdr then c.accepted k p
      else (c.accepted k p).applySlot k (fieldBE p.bytes 8 4) p.slot).ackIf k p.acknow := by
  rw [Pkt.units] at credited
  simp only [Chip.sequenced, above, free, Nat.not_le.mpr inside, credited, Bool.not_true, Bool.false_eq_true, if_false]
  rfl

end Window

/-- A row of a sequenced operation has its packet met by its connection's window. -/
theorem exec_haulRow {q : (Fin 32 → Frame → Instr) × Nat} (hq : q ∈ haulRows) {s : State} {sub : Fin 32} {f : Frame} {p : Pkt} {k : Nat}
    (arr : haulArrives s sub f q.2 p) (hc : s.calm = true) (named : haulNamed s.chip p k) :
    exec (q.1 sub f) s = .next (withChip s ((haulOn s.chip sub.val k p).sequenced sub.val k p)) := by
  have met := Chip.haulIn_named arr named (fun d k p => d.sequenced sub.val k p)
  have hl := arr.1
  clear arr
  simp only [haulRows, List.mem_cons, List.not_mem_nil, or_false] at hq
  rcases hq with rfl | rfl | rfl | rfl | rfl | rfl
  · exact exec_calm (fun c => c.doHaulWrite sub.val f) hl hc rfl met
  · exact exec_calm (fun c => c.doHaulReadPacket sub.val f) hl hc rfl met
  · exact exec_calm (fun c => c.doReadResp sub.val f) hl hc rfl met
  · exact exec_calm (fun c => c.doAccumulateFp32 sub.val f) hl hc rfl met
  · exact exec_calm (fun c => c.doSendToRing sub.val f) hl hc rfl met
  · exact exec_calm (fun c => c.doHaulSignal sub.val f) hl hc rfl met

end Sys2Proof.Machine
end

section
/-!
What a sequenced packet that is applied does, and what becomes of it once its effects are placed (13 R344 to R346, R349, R354 to R357, 14
R383).
-/

open Sys2Proof

namespace Sys2Proof.Machine

section Place

variable {c : Chip} {k : Nat}

/-! Signals and sends (R346, 14 R383) -/

theorem Chip.placeSignal_allowed {so : Nat} (h : c.soAllowed (c.connAt k).ctx so = true) (value : Nat) :
    c.placeSignal k so value = (c.soSignal so value, .of 0 0) := by simp [Chip.placeSignal, h]

theorem Chip.placeSignal_denied {so : Nat} (h : c.soAllowed (c.connAt k).ctx so = false) (value : Nat) :
    c.placeSignal k so value = (c.modSo (fun q => { q with haulDropped := q.haulDropped + 1 }), .of 6 so) := by simp [Chip.placeSignal, h]

theorem Chip.placeSend_full {bs : List Byte} (h : c.recvRoom (c.connAt k).rxring < recvSlots bs.length) (tag : Nat) :
    c.placeSend k tag bs = (c, .of 8 0) := by simp [Chip.placeSend, h]

theorem Chip.placeSend_room {bs : List Byte} (h : recvSlots bs.length ≤ c.recvRoom (c.connAt k).rxring) (tag : Nat) :
    c.placeSend k tag bs = (c.recvWrite (c.connAt k).rxring tag (bs.length + 2 ^ 16 * k) (c.connAt k).ctx bs, .of 0 0) := by
  unfold Chip.placeSend
  dsimp only
  rw [if_neg (by omega)]

/-! Regions (R356, R357) -/

section Region

variable {ctx key off len perm proto : Nat}

theorem Chip.regionFor_invalid (h : (c.regionAt (key / 65536)).valid = false) :
    c.regionFor ctx key off len perm proto = .error (1, key) := by simp [Chip.regionFor, h]

/-- A key that reaches a range does so through the entry that it names, which is the context's own, bears the key's check and covers the
range. -/
theorem Chip.regionFor_ok {n : Nat} {e : FdRegion} (h : c.regionFor ctx key off len perm proto = .ok (n, e)) :
    e = c.regionAt (key / 65536) ∧ e.valid = true ∧ e.ctx = ctx ∧ e.check = key % 65536 ∧ off + len ≤ e.len := by
  unfold Chip.regionFor at h
  dsimp only at h
  split at h
  · cases h
  · next named =>
    split at h
    · cases h
    · next covered =>
      split at h
      · cases h
      · obtain ⟨-, rfl⟩ : key / 65536 = n ∧ c.regionAt (key / 65536) = e := by simpa using h
        simp only [Bool.not_eq_true, Bool.or_eq_false_iff, Bool.not_eq_false', bne_eq_false_iff_eq] at named
        obtain ⟨⟨⟨valid, -⟩, check⟩, own⟩ := named
        exact ⟨rfl, valid, own, check, by omega⟩

variable {bs : List Byte} (bad : Bool)

theorem Chip.placeRegion_invalid (h : (c.regionAt (key / 65536)).valid = false) :
    c.placeRegion ctx key off bs bad proto = (c, .of 1 key) := by simp [Chip.placeRegion, Chip.regionFor_invalid h]

variable {n : Nat} {e : FdRegion} (reached : c.regionFor ctx key off bs.length 0 proto = .ok (n, e)) {sp : Span}
  (hs : sp = c.spanLines fdTlb e.ctx (e.vbase + off) bs.length true)
include reached hs

theorem Chip.placeRegion_whole (hf : sp.fault = none) : c.placeRegion ctx key off bs bad proto =
    ((c.used fdTlb srcFabric sp).scatter sp bs bad e.hint, { code := 0, detail := 0, region := some n }) := by
  subst hs
  simp [Chip.placeRegion, reached, hf]

theorem Chip.placeRegion_fault {g : VFault} (hf : sp.fault = some g) : c.placeRegion ctx key off bs bad proto =
    (c.used fdTlb srcFabric sp, { code := 4, detail := if g.kind = .poison then e.vbase + off else g.detail, region := some n }) := by
  subst hs
  simp [Chip.placeRegion, reached, hf]

end Region

/-! Reads (R354, R355) -/

/-- The message that answers a READ with the responses of a region. -/
def readAnswer (psn : Nat) (h : List Byte) (e : FdRegion) : HMsg :=
  { owner := .resp psn, op := 0x03, ctx := e.ctx, va := e.vbase + fieldBE h 8 8, data := none, left := fieldBE h 4 4, key := fieldBE h 16 4
    off := fieldBE h 24 8, val := psn, poison := false }

/-- A READ without a version, whose region translates, posts its responses. -/
theorem Chip.placeRead_plain {h : List Byte} {n : Nat} {e : FdRegion} {sp : Span} (plain : fieldBE h 20 4 = 0)
    (reached : c.regionFor (c.connAt k).ctx (fieldBE h 0 4) (fieldBE h 8 8) (fieldBE h 4 4) 1 2 = .ok (n, e))
    (hs : sp = c.spanPages fdTlb e.ctx (e.vbase + fieldBE h 8 8) (fieldBE h 4 4) false) (hf : sp.fault = none) (psn : Nat) :
    c.placeRead k psn h = ((c.used fdTlb srcFabric sp).haulPost k (readAnswer psn h e), { code := 0, detail := 0, region := some n }) := by
  subst hs
  simp [Chip.placeRead, reached, hf, plain, readAnswer]

end Place

/-! Completion (R344 to R346, R349) -/

/-- A placed packet's slot once its effects are visible or refused. -/
def RxSlot.completed (q : RxSlot) : RxSlot := { q with st := .complete, payload := [] }

/-- A connection whose placed packet has completed: its units have left the buffer, and its status waits to be reported. -/
def Conn.completes (x : Conn) (psn now : Nat) (q : RxSlot) : Conn :=
  { x with rx := { x.rx with
      left := (x.rx.left + q.units) % 2 ^ 32, slots := tabSet x.rx.slots psn q.completed, unrep := x.rx.unrep + 1
      unrepAt := some (x.rx.unrepAt.getD now) } }

/-- A connection whose placed packet was not ready to be received: as if it had not been accepted (assumption 33). -/
def Conn.unaccepts (x : Conn) (psn : Nat) (q : RxSlot) : Conn :=
  { x with rx := { x.rx with acc := sub32 x.rx.acc q.units, slots := tabDel x.rx.slots psn } }

section Complete

variable {c : Chip} {k : Nat} {psn : BitVec 32} {q : RxSlot} (open_ : (c.connAt k).st = .open_)
  (found : tabFind (c.connAt k).rx.slots psn.toNat = some q) (placed : q.st = .placed)
include open_ found placed

/-- A packet with a final status: the credit may rise, a refusal is told at once, sixteen completions or a report that is due are, and
what waited for it goes on. -/
theorem Chip.doPacketComplete_final (final : q.code ≠ 8) {d e : Chip}
    (hd : d = (c.setConn k ((c.connAt k).completes psn.toNat c.fabric q)).raiseAll)
    (he : e = if q.code = 0 then d else d.sendNak k psn.toNat q.code q.detail) :
    c.doPacketComplete k psn =
      ((if 16 ≤ (c.connAt k).rx.unrep + 1 ∨ q.report = true then e.sendAck k true else e).release k).settleRegions := by
  subst hd he
  have settles : ¬ (q.st ≠ .placed ∨ (c.connAt k).st ≠ .open_) := by simp [placed, open_]
  simp only [Chip.doPacketComplete, found, settles, final, if_false]
  rfl

/-- A packet that was not ready to be received. -/
theorem Chip.doPacketComplete_rnr (rnr : q.code = 8) :
    c.doPacketComplete k psn = (c.setConn k ((c.connAt k).unaccepts psn.toNat q)).sendNak k psn.toNat 8 0 := by
  have settles : ¬ (q.st ≠ .placed ∨ (c.connAt k).st ≠ .open_) := by simp [placed, open_]
  simp only [Chip.doPacketComplete, found, settles, rnr, if_false, if_true]
  rfl

end Complete

theorem exec_packetComplete {s : State} (hl : s.chip.live = true) (hc : s.calm = true) (k : Fin 16384) (psn : BitVec 32) :
    exec (.packetComplete k psn) s = .next (withChip s (s.chip.doPacketComplete k.val psn)) :=
  exec_calm (fun c => c.doPacketComplete k.val psn) hl hc rfl rfl

/-- Settles O31: a packet is met by the window of its connection (`exec_haulRow`), an applied one has the effects of its operation, and a
placed one has a final status or is to come again. -/
theorem haulPacketsReceived : Obligations.HaulPacketsReceived := by
  refine ⟨?_, ?_, ?_⟩
  · rintro q hq s sub f p k psn units c d dup x slot old now ack arr hc named rfl rfl rfl rfl rfl rfl hslot rfl
    have isOp : fieldBE p.bytes 1 1 = q.2 := arr.2.2.1
    rw [exec_haulRow hq arr hc named]
    obtain rfl : slot = p.slot := by rw [hslot, Pkt.slot, isOp]; rfl
    refine ⟨?_, fun above inside free uncredited => by rw [Chip.sequenced_overrun above inside free uncredited],
      fun above beyond => by rw [Chip.sequenced_beyond above beyond], fun below => by rw [Chip.sequenced_below below]; rfl, ?_⟩
    · rintro above inside free credited rfl
      rw [Chip.sequenced_new above inside free credited, ← isOp]
      rfl
    · intro above inside held
      rw [Chip.sequenced_held above inside held]
      refine ⟨fun done fine => ?_, fun done refused => ?_, fun pending => ?_⟩
      · rw [if_pos done, if_pos fine]; rfl
      · rw [if_pos done, if_neg refused]; rfl
      · rw [if_neg pending]; rfl
  · intro c k so value tag ctx key off proto bs bad
    refine ⟨fun h => ?_, fun h => ?_, fun h => ?_, fun h => ?_, fun h psn n e sp plain reached hs hf => ?_, fun h => ?_,
      fun n e sp reached hs => ⟨fun hf => ?_, fun g hf => ?_⟩, fun n e reached => Chip.regionFor_ok reached⟩
    · rw [Chip.placeSignal_allowed h]; exact ⟨rfl, rfl⟩
    · rw [Chip.placeSignal_denied h]; exact ⟨rfl, rfl, rfl⟩
    · rw [Chip.placeSend_full h]; exact ⟨rfl, rfl⟩
    · rw [Chip.placeSend_room h]; exact ⟨rfl, rfl⟩
    · rw [Chip.placeRead_plain plain reached hs hf]; exact ⟨rfl, rfl⟩
    · rw [Chip.placeRegion_invalid bad h]; exact ⟨rfl, rfl⟩
    · rw [Chip.placeRegion_whole bad reached hs hf]; exact ⟨rfl, rfl⟩
    · rw [Chip.placeRegion_fault bad reached hs hf]; exact ⟨rfl, rfl⟩
  · rintro s k psn x q d e hl hc rfl open_ found placed
    rw [exec_packetComplete hl hc]
    exact ⟨fun final hd he => by rw [Chip.doPacketComplete_final open_ found placed final hd he],
      fun rnr => by rw [Chip.doPacketComplete_rnr open_ found placed rnr]; rfl⟩

end Sys2Proof.Machine
end

section
/-!
What the traffic of a connection leaves alone: sub-ports, and the state of every connection, through transmission, placement, settlement and
loss (13 R339 to R357).
-/

open Sys2Proof

namespace Sys2Proof.Machine

/-- Every sub-port stands as it was, and every connection is in the state that it was in. -/
def Chip.StatesKept (c d : Chip) : Prop := d.fab.port = c.fab.port ∧ ∀ n, (d.connAt n).st = (c.connAt n).st

theorem Chip.StatesKept.refl (c : Chip) : c.StatesKept c := ⟨rfl, fun _ => rfl⟩

theorem Chip.StatesKept.trans {c d e : Chip} (h : c.StatesKept d) (g : d.StatesKept e) : c.StatesKept e :=
  ⟨g.1.trans h.1, fun n => (g.2 n).trans (h.2 n)⟩

theorem Chip.StatesKept.of_fab {c d : Chip} (h : d.fab = c.fab) : c.StatesKept d :=
  ⟨by rw [h], fun n => by rw [Chip.connAt_congr h]⟩

theorem Chip.statesKept_foldl {α : Type} {f : Chip → α → Chip} (hf : ∀ d x, Chip.StatesKept d (f d x)) (l : List α) (c : Chip) :
    c.StatesKept (l.foldl f c) :=
  List.foldlRecOn l f (motive := fun d => c.StatesKept d) (.refl c) (fun d h x _ => h.trans (hf d x))

theorem Chip.statesKept_setConn (c : Chip) {k : Nat} {x : Conn} (h : x.st = (c.connAt k).st) : c.StatesKept (c.setConn k x) := by
  refine ⟨rfl, fun n => ?_⟩
  by_cases e : k = n
  · subst e; rw [Chip.connAt_setConn_same, h]
  · rw [Chip.connAt_setConn_other _ _ e]

/-! Sending -/

/-- A packet that is sent changes what has been sent and the free values drawn. -/
theorem Chip.sendIp_eq (c : Chip) (sub peer sport dport : Nat) (bs : List Byte) :
    ∃ (n : Nat) (f : Sent), c.sendIp sub peer sport dport bs = (c.took n).modFab (fun g => { g with sent := g.sent ++ [f] }) := by
  unfold Chip.sendIp
  dsimp only
  split
  · exact ⟨0, _, rfl⟩
  · exact ⟨1, _, rfl⟩

theorem Chip.sendOn_eq (c : Chip) (k : Nat) (p : Nat × Nat) (bs : List Byte) :
    ∃ (n : Nat) (l : List Sent), c.sendOn k p bs = (c.took n).modFab (fun g => { g with sent := g.sent ++ l }) := by
  unfold Chip.sendOn
  dsimp only
  split
  · obtain ⟨n, f, h⟩ := c.sendIp_eq p.1 ((c.connAt k).peers.getD _ 0) (0xC000 + p.2) c.haulUdp bs
    exact ⟨n, [f], h⟩
  · exact ⟨0, [], by simp [Chip.took, Chip.modFab]⟩

/-- A control packet changes, beside what has been sent, the place of its connection on its paths. -/
theorem Chip.sendControl_eq (c : Chip) (k op : Nat) (hdr payload : List Byte) : c.sendControl k op hdr payload = c ∨
    ∃ (t : HSend) (n : Nat) (l : List Sent), c.sendControl k op hdr payload =
      ((c.setConn k { c.connAt k with tx := t }).took n).modFab (fun g => { g with sent := g.sent ++ l }) := by
  unfold Chip.sendControl
  dsimp only
  split
  · next p _ =>
    obtain ⟨n, l, h⟩ := Chip.sendOn_eq (c.setConn k { c.connAt k with tx := { (c.connAt k).tx with pos := some p, changed := false } }) k p
      ((c.connAt k).packet 0 op 0 hdr payload)
    exact .inr ⟨_, n, l, h⟩
  · exact .inl rfl

theorem Chip.sendControl_connAt (c : Chip) (k op : Nat) (hdr payload : List Byte) :
    ∃ t : HSend, (c.sendControl k op hdr payload).connAt k = { c.connAt k with tx := t } := by
  rcases c.sendControl_eq k op hdr payload with h | ⟨t, n, l, h⟩
  · exact ⟨(c.connAt k).tx, by rw [h]⟩
  · exact ⟨t, by rw [h]; exact Chip.connAt_setConn_same ..⟩

theorem Chip.sendControl_mem (c : Chip) (k op : Nat) (hdr payload : List Byte) : (c.sendControl k op hdr payload).mem = c.mem := by
  rcases c.sendControl_eq k op hdr payload with h | ⟨t, n, l, h⟩
  · rw [h]
  · rw [h]; rfl

theorem Chip.statesKept_sendControl (c : Chip) (k op : Nat) (hdr payload : List Byte) : c.StatesKept (c.sendControl k op hdr payload) := by
  rcases c.sendControl_eq k op hdr payload with h | ⟨t, n, l, h⟩
  · rw [h]; exact .refl c
  · rw [h]; exact Chip.statesKept_setConn c rfl

theorem Chip.statesKept_haulPost (c : Chip) (k : Nat) (m : HMsg) : c.StatesKept (c.haulPost k m) := Chip.statesKept_setConn c rfl

/-! Placement (R343 to R347, R354, R355) -/

theorem Chip.statesKept_placeRead (c : Chip) (k psn : Nat) (h : List Byte) : c.StatesKept (c.placeRead k psn h).1 := by
  unfold Chip.placeRead
  dsimp only
  split
  · exact .refl c
  · have used : ∀ (units : List Nat) (src : Nat) (sp : Span), c.StatesKept (c.used units src sp) := fun _ _ _ => .of_fab (Chip.used_fab ..)
    split
    · exact used ..
    · split
      · exact (used ..).trans (Chip.statesKept_haulPost ..)
      · split
        · exact used ..
        · split
          · exact used ..
          · split
            · refine Chip.StatesKept.trans ?_ (Chip.statesKept_haulPost ..)
              refine Chip.StatesKept.trans ?_ (Chip.statesKept_setConn _ rfl)
              exact (used ..).trans (.of_fab (Chip.storeHint_fab ..))
            · exact (used ..).trans (.of_fab (Chip.meet_fab ..))

theorem Chip.statesKept_placeResp (c : Chip) (k : Nat) (h bs : List Byte) (bad : Bool) : c.StatesKept (c.placeResp k h bs bad).1 := by
  unfold Chip.placeResp
  dsimp only
  split
  · exact ⟨rfl, fun _ => rfl⟩
  · have placed : c.StatesKept (c.placeRegion (c.connAt k).ctx (fieldBE h 0 4) (fieldBE h 8 8) bs bad 2).1 := .of_fab (Chip.placeRegion_fab ..)
    have last : ∀ (d : Chip) (all : Bool) (key : Nat), d.StatesKept (if all then d.finish key 0 0 else d) := by
      intro d all key
      cases all
      · exact .refl d
      · exact .of_fab (d.finish_fab ..)
    split
    · exact placed
    · refine Chip.StatesKept.trans ?_ (last ..)
      exact placed.trans (Chip.statesKept_setConn _ rfl)

theorem Chip.statesKept_placePacket (c : Chip) (k psn op : Nat) (h bs : List Byte) (bad : Bool) :
    c.StatesKept (c.placePacket k psn op h bs bad).1 := by
  unfold Chip.placePacket
  split
  · exact .of_fab (Chip.placeRegion_fab ..)
  · exact c.statesKept_placeRead ..
  · exact c.statesKept_placeResp ..
  · exact .of_fab (Chip.placeAcc_fab ..)
  · unfold Chip.placeSend
    dsimp only
    split
    · exact .refl c
    · exact .of_fab (Chip.recvWrite_fab ..)
  · unfold Chip.placeSignal
    split
    · exact .of_fab (Chip.soSignal_fab ..)
    · exact .of_fab rfl

theorem Chip.statesKept_applySlot (c : Chip) (k psn : Nat) (s : RxSlot) : c.StatesKept (c.applySlot k psn s) :=
  (c.statesKept_placePacket ..).trans (Chip.statesKept_setConn _ rfl)

theorem Chip.statesKept_release (c : Chip) (k : Nat) : c.StatesKept (c.release k) := by
  refine Chip.statesKept_foldl (fun d q => ?_) _ c
  split
  · split
    · exact d.statesKept_applySlot ..
    · exact .refl d
  · exact .refl d

theorem Chip.statesKept_releaseAll (c : Chip) : c.StatesKept c.releaseAll :=
  Chip.statesKept_foldl (fun d (p : Nat × Conn) => d.statesKept_release p.1) _ c

/-! Loss (R339) -/

theorem Chip.statesKept_letGo (c : Chip) (k : Nat) : c.StatesKept (c.letGo k) := by
  unfold Chip.letGo
  dsimp only
  split
  · exact .refl c
  · refine Chip.StatesKept.trans ?_ (Chip.statesKept_releaseAll _)
    refine Chip.StatesKept.trans ?_ (Chip.statesKept_foldl (fun d h => .of_fab (d.holdDown_fab ..)) _ _)
    exact c.statesKept_setConn rfl

theorem Chip.statesKept_raiseAll (c : Chip) : c.StatesKept c.raiseAll := by
  refine Chip.statesKept_foldl (fun d p => ?_) _ c
  split
  · rcases d.raiseCredit_eq p.1 with h | ⟨t, h⟩
    · rw [h]; exact .refl d
    · rw [h]; exact d.statesKept_setConn rfl
  · exact .refl d

theorem Chip.settleRegion_port (c : Chip) (r : Nat) : (c.settleRegion r).fab.port = c.fab.port := by
  unfold Chip.settleRegion
  dsimp only
  split
  · split
    · rfl
    · rw [Chip.finish_fab]; rfl
  · rfl

theorem Chip.statesKept_settleRegions (c : Chip) : c.StatesKept c.settleRegions :=
  Chip.statesKept_foldl (fun d (p : Nat × FdRegion) => ⟨d.settleRegion_port p.1, fun n => by simp only [Chip.connAt, d.settleRegion_conn]⟩) _ c

theorem Chip.statesKept_mirrorVersion (c : Chip) (k : LCmd) : c.StatesKept (c.mirrorVersion k) := by
  unfold Chip.mirrorVersion
  split
  · split
    · exact (Chip.StatesKept.of_fab rfl).trans (Chip.statesKept_haulPost ..)
    · exact .refl c
  · exact .refl c

theorem Chip.statesKept_mirrorSettled (c : Chip) (key b : Nat) (ok : Bool) : c.StatesKept (c.mirrorSettled key b ok) := by
  unfold Chip.mirrorSettled
  split
  · split
    · exact (Chip.StatesKept.of_fab rfl).trans (Chip.statesKept_mirrorVersion ..)
    · exact .refl c
  · exact .refl c

theorem Chip.versionSettled_fab (c : Chip) (key : Nat) (ok : Bool) : (c.versionSettled key ok).fab = c.fab := by
  unfold Chip.versionSettled
  split
  · split
    · split <;> rfl
    · rfl
  · rfl

theorem Chip.statesKept_abandon (c : Chip) (k : Nat) : c.StatesKept (c.abandon k) := by
  unfold Chip.abandon
  refine Chip.StatesKept.trans (c.statesKept_setConn ?_) (Chip.statesKept_foldl (fun d o => ?_) _ _)
  · rfl
  split
  · exact .of_fab (d.finish_fab ..)
  · exact d.statesKept_mirrorSettled ..
  · exact .of_fab (d.versionSettled_fab ..)
  · exact .refl d

theorem Chip.pairLost_fab (c : Chip) (k : Nat) : (c.pairLost k).fab = c.fab := by
  unfold Chip.pairLost
  split
  · exact ((Chip.logged_setGevent _ 4).part Chip.fab).trans ((Chip.logged_logEv ..).part Chip.fab)
  · rfl

/-- A connection that is lost is LOST, whatever its loss settles, and the sub-ports stand. -/
theorem Chip.connLose_open {c : Chip} {k : Nat} (open_ : (c.connAt k).st = .open_) :
    (c.connLose k).fab.port = c.fab.port ∧ ((c.connLose k).connAt k).st = .lost := by
  unfold Chip.connLose
  dsimp only
  rw [if_pos open_]
  have logged : ∀ (d : Chip) (ev : Ev) (src : Nat) (args : List Nat), d.StatesKept (d.logEv ev src args) :=
    fun d ev src args => .of_fab ((d.logged_logEv ..).part Chip.fab)
  have told : ∀ (d : Chip) (cq op ctx detail tag : Nat), d.StatesKept (d.event cq op ctx detail tag) :=
    fun d cq op ctx detail tag => .of_fab ((d.traffic_event ..).part Chip.fab)
  obtain ⟨port, st⟩ := (((((((logged (c.setConn k _) ..).trans (told ..)).trans (Chip.statesKept_abandon _ k)).trans
    (Chip.statesKept_settleRegions _)).trans (Chip.statesKept_raiseAll _)).trans (.of_fab (Chip.pairLost_fab _ k))).trans
    (Chip.statesKept_letGo _ k))
  exact ⟨port, (st k).trans (by rw [Chip.connAt_setConn_same])⟩

theorem Chip.connLose_port (c : Chip) (k : Nat) : (c.connLose k).fab.port = c.fab.port := by
  by_cases open_ : (c.connAt k).st = .open_
  · exact (Chip.connLose_open open_).1
  · simp [Chip.connLose, open_]

theorem Chip.checkPaths_port (c : Chip) (k : Nat) : (c.checkPaths k).fab.port = c.fab.port := by
  unfold Chip.checkPaths
  dsimp only
  split
  · exact c.connLose_port k
  · split <;> rfl

end Sys2Proof.Machine
end

section
/-!
Frames by their kind, and sub-ports that come up, go down and rejoin (13 R331 to R333, R336, R352, 14 R383).
-/

open Sys2Proof

namespace Sys2Proof.Machine

/-! Frames that are counted and discarded -/

section Frames

variable {c : Chip} {sub : Nat} {f : Frame}

/-- A Haul frame that its sub-port discards reaches no connection. -/
theorem Chip.haulIn_discarded {p : Pkt} {op : Nat} {d : Chip} (packet : c.haulOf sub f = some p) (isOp : fieldBE p.bytes 1 1 = op)
    (discarded : c.frameIn sub f = (d, false)) (g : Chip → Nat → Pkt → Chip) : c.haulIn sub f op g = d := by
  simp [Chip.haulIn, packet, isOp, discarded]

variable (up : (c.portAt sub).up = true) (good : f.fcsOk = true) (fits : f.bytes.length ≤ 9216)
include up good fits

theorem Chip.doHaulMalformed_counted {p : Pkt} (packet : c.haulOf sub f = some p)
    (odd : hdrLen (fieldBE p.bytes 1 1) = none ∨ fieldBE p.bytes 0 1 / 16 ≠ 1) :
    c.doHaulMalformed sub f = c.setPort sub { c.portAt sub with
      frames := (c.portAt sub).frames + 1, malformed := (c.portAt sub).malformed + 1 } := by
  have isOdd : ((hdrLen (fieldBE p.bytes 1 1)).isNone || fieldBE p.bytes 0 1 / 16 != 1) = true := by simpa using odd
  simp [Chip.doHaulMalformed, packet, isOdd, Chip.frameIn_good up good fits, Chip.malformed, haulSeen]

theorem Chip.doPauseFrame_counted (flow : c.frameEther sub f = 0x8808) :
    c.doPauseFrame sub f = c.setPort sub { c.portAt sub with frames := (c.portAt sub).frames + 1, paused := (c.portAt sub).paused + 1 } := by
  simp [Chip.doPauseFrame, flow, Chip.frameIn_good up good fits, haulSeen]

theorem Chip.doRawFrame_unqueued (other : c.known sub f = false) (unbound : c.fab.rawq = none) :
    c.doRawFrame sub f = haulSeen c sub := by
  have none_ : (haulSeen c sub).fab.rawq = none := unbound
  simp [Chip.doRawFrame, other, Chip.frameIn_good up good fits, none_]

theorem Chip.doRawFrame_queued {cq : Nat} (other : c.known sub f = false) (bound : c.fab.rawq = some cq) :
    c.doRawFrame sub f = if c.recvRoom cq < recvSlots f.bytes.length then (haulSeen c sub).modFab (fun g => { g with raw := g.raw + 1 })
      else (haulSeen c sub).recvWrite cq 0 (f.bytes.length + 2 ^ 16 * 0xFFFF) 0 f.bytes := by
  have some_ : (haulSeen c sub).fab.rawq = some cq := bound
  have room : (haulSeen c sub).recvRoom cq = c.recvRoom cq := rfl
  simp [Chip.doRawFrame, other, Chip.frameIn_good up good fits, some_, room]

/-! Neighbours (R332) -/

/-- A request for the sub-port's own IPv4 address is answered with its MAC address. -/
theorem Chip.doArpRequest_own (arp : c.frameEther sub f = 0x0806) (asks : fieldBE (c.frameBody sub f) 6 2 = 1)
    (set : c.portReg sub 0x10 % 2 ^ 32 ≠ 0) (own : fieldBE (c.frameBody sub f) 24 4 = c.portReg sub 0x10 % 2 ^ 32) :
    c.doArpRequest sub f = (haulSeen c sub).sendFrame sub (fieldBE (c.frameBody sub f) 8 6)
      (beBytes 2 0x0806 ++ (c.frameBody sub f).take 6 ++ beBytes 2 2 ++ beBytes 6 (c.portReg sub 0 % 2 ^ 48) ++
        beBytes 4 (c.portReg sub 0x10 % 2 ^ 32) ++ ((c.frameBody sub f).drop 8).take 10) := by
  have answered : (c.portReg sub 0x10 % 2 ^ 32 != 0 && fieldBE (c.frameBody sub f) 24 4 == c.portReg sub 0x10 % 2 ^ 32) = true := by
    rw [own, beq_self_eq_true, Bool.and_true]; exact bne_iff_ne.mpr set
  simp only [Chip.doArpRequest, arp, asks, Chip.frameIn_good up good fits, answered, Bool.true_and, and_self, if_true]

end Frames

/-- A neighbour advertisement for an address and a MAC address, with its checksum (R332). -/
def advertisement (own mac sum : Nat) : List Byte :=
  beBytes 1 136 ++ beBytes 1 0 ++ beBytes 2 sum ++ beBytes 4 0x60000000 ++ beBytes 16 own ++ beBytes 2 0x0201 ++ beBytes 6 mac

@[simp] theorem beBytes_length (n v : Nat) : (beBytes n v).length = n := by simp [beBytes]

/-- Where the advertisement carries its type, the address and the MAC address. -/
theorem advertisement_fields (own mac sum : Nat) : (advertisement own mac sum).take 1 = beBytes 1 136 ∧
    ((advertisement own mac sum).drop 8).take 16 = beBytes 16 own ∧ (advertisement own mac sum).drop 26 = beBytes 6 mac := by
  refine ⟨?_, ?_, ?_⟩ <;> simp [advertisement, List.drop_append, List.drop_of_length_le]

/-- A solicitation of the sub-port's own IPv6 address is answered with an advertisement of its MAC address. -/
theorem Chip.doNeighbourSolicitation_own {c : Chip} {sub : Nat} {f : Frame} {p : Pkt} (up : (c.portAt sub).up = true)
    (good : f.fcsOk = true) (fits : f.bytes.length ≤ 9216) (asks : c.solicits sub f = some p)
    (set : c.portReg sub 0x18 * 2 ^ 64 + c.portReg sub 0x20 ≠ 0)
    (own : fieldBE p.bytes 8 16 = c.portReg sub 0x18 * 2 ^ 64 + c.portReg sub 0x20) :
    ∃ sum, c.doNeighbourSolicitation sub f = (haulSeen c sub).modFab (fun g => { g with sent := g.sent ++
      [{ sub := sub, mac := srcMac f.bytes, tag := c.tagOf sub, dscp := Config.dscp 0 % 64, src := fieldBE p.bytes 8 16, dst := p.src, ttl := 64
         ecn := 2, sport := 0, dport := 0, bytes := advertisement (fieldBE p.bytes 8 16) (c.portReg sub 0 % 2 ^ 48) sum }] }) := by
  have answered : (c.portReg sub 0x18 * 2 ^ 64 + c.portReg sub 0x20 != 0 &&
      fieldBE p.bytes 8 16 == c.portReg sub 0x18 * 2 ^ 64 + c.portReg sub 0x20) = true := by
    rw [own, beq_self_eq_true, Bool.and_true]; exact bne_iff_ne.mpr set
  simp only [Chip.doNeighbourSolicitation, asks, Chip.frameIn_good up good fits, answered, Bool.true_and, if_true]
  rw [own]
  exact ⟨_, rfl⟩

/-! Sub-ports that go down and rejoin (R333, R352) -/

/-- A connection whose path set a sub-port leaves: what was last sent on it is queued again, and its peer is told. -/
def Chip.leavesPath (sub : Nat) (e : Chip) (q : Nat × Conn) : Chip :=
  if (e.connAt q.1).st = .open_ ∧ bit (e.connAt q.1).mask sub then
    ((e.setConn q.1 { e.connAt q.1 with
      away := (e.connAt q.1).away ||| 2 ^ sub, tx := (e.connAt q.1).tx.requeue (fun t => t.sub == sub) }).sendPathdown q.1).checkPaths q.1
  else e

/-- A connection whose path set a sub-port rejoins: its peer is told. -/
def Chip.rejoinsPath (sub : Nat) (e : Chip) (q : Nat × Conn) : Chip :=
  if (e.connAt q.1).st = .open_ ∧ bit (e.connAt q.1).mask sub ∧ bit (e.connAt q.1).away sub then
    (e.setConn q.1 { e.connAt q.1 with
      away := (e.connAt q.1).away - 2 ^ sub, tx := { (e.connAt q.1).tx with changed := true } }).sendPathdown q.1
  else e

theorem Chip.leavesPath_port (sub : Nat) (e : Chip) (q : Nat × Conn) : (e.leavesPath sub q).fab.port = e.fab.port := by
  unfold Chip.leavesPath
  split
  · exact (Chip.checkPaths_port ..).trans (Chip.statesKept_sendControl ..).1
  · rfl

theorem Chip.rejoinsPath_keeps (sub : Nat) (e : Chip) (q : Nat × Conn) :
    (e.rejoinsPath sub q).fab.port = e.fab.port ∧ (e.rejoinsPath sub q).mem = e.mem := by
  unfold Chip.rejoinsPath
  split
  · exact ⟨(Chip.statesKept_sendControl ..).1, Chip.sendControl_mem ..⟩
  · exact ⟨rfl, rfl⟩

/-- A connection that a sub-port had left no longer counts it as away. -/
theorem Chip.rejoinsPath_away {sub : Nat} {e : Chip} {q : Nat × Conn} (open_ : (e.connAt q.1).st = .open_)
    (has : bit (e.connAt q.1).mask sub = true) (away : bit (e.connAt q.1).away sub = true) :
    ((e.rejoinsPath sub q).connAt q.1).away = (e.connAt q.1).away - 2 ^ sub := by
  unfold Chip.rejoinsPath
  rw [if_pos ⟨open_, has, away⟩]
  obtain ⟨t, h⟩ := Chip.sendControl_connAt (e.setConn q.1 { e.connAt q.1 with
    away := (e.connAt q.1).away - 2 ^ sub, tx := { (e.connAt q.1).tx with changed := true } }) q.1 0x23 _ []
  unfold Chip.sendPathdown
  rw [h, Chip.connAt_setConn_same]

section Ports

variable {c : Chip} {sub : Nat} (up : (c.portAt sub).up = true)
include up

/-- A sub-port that goes down is logged, and leaves the path sets of the connections. -/
theorem Chip.portFails_up (ev : Ev) :
    c.portFails sub ev = c.fab.conn.foldl (Chip.leavesPath sub) ((c.setPort sub { c.portAt sub with up := false }).logEv ev srcFabric [sub]) := by
  have conns : ((c.setPort sub { c.portAt sub with up := false }).logEv ev srcFabric [sub]).fab.conn = c.fab.conn :=
    (Chip.logged_logEv ..).part (fun d => d.fab.conn)
  unfold Chip.portFails
  rw [if_pos up, ← conns]
  rfl

theorem Chip.portFails_down (ev : Ev) : ((c.portFails sub ev).portAt sub).up = false := by
  have ports : (c.portFails sub ev).fab.port = (c.setPort sub { c.portAt sub with up := false }).fab.port := by
    rw [Chip.portFails_up up]
    exact List.foldlRecOn _ _ (motive := fun d : Chip => d.fab.port = (c.setPort sub { c.portAt sub with up := false }).fab.port)
      ((Chip.logged_logEv ..).part (fun d => d.fab.port)) (fun d h q _ => (d.leavesPath_port sub q).trans h)
  have port : (c.portFails sub ev).portAt sub = (c.setPort sub { c.portAt sub with up := false }).portAt sub := by
    simp only [Chip.portAt, ports]
  rw [port, Chip.portAt_setPort_same]

theorem Chip.doPathRejoin_up : c.doPathRejoin sub =
    c.fab.conn.foldl (Chip.rejoinsPath sub) (c.passTo srcDispatch ((c.portAt sub).since + msDispatch)) := by
  obtain ⟨g, passed⟩ := c.passTo_eq_modClk srcDispatch ((c.portAt sub).since + msDispatch)
  unfold Chip.doPathRejoin
  dsimp only
  rw [if_pos up, passed]
  rfl

/-- A sub-port that rejoins stands as it was, and memory with it. -/
theorem Chip.doPathRejoin_keeps : (c.doPathRejoin sub).portAt sub = c.portAt sub ∧ (c.doPathRejoin sub).mem = c.mem := by
  obtain ⟨g, passed⟩ := c.passTo_eq_modClk srcDispatch ((c.portAt sub).since + msDispatch)
  have kept : (c.doPathRejoin sub).fab.port = c.fab.port ∧ (c.doPathRejoin sub).mem = c.mem := by
    rw [Chip.doPathRejoin_up up, passed]
    refine List.foldlRecOn _ _ (motive := fun d : Chip => d.fab.port = c.fab.port ∧ d.mem = c.mem) ⟨rfl, rfl⟩ (fun d h q _ => ?_)
    exact ⟨(d.rejoinsPath_keeps sub q).1.trans h.1, (d.rejoinsPath_keeps sub q).2.trans h.2⟩
  exact ⟨by simp only [Chip.portAt, kept.1], kept.2⟩

/-- The only connection, away from a sub-port that rejoins, has it again. -/
theorem Chip.doPathRejoin_away {k : Nat} {y : Conn} (only : c.fab.conn = [(k, y)]) (open_ : y.st = .open_) (has : bit y.mask sub = true)
    (away : bit y.away sub = true) : ((c.doPathRejoin sub).connAt k).away = y.away - 2 ^ sub := by
  obtain ⟨g, passed⟩ := c.passTo_eq_modClk srcDispatch ((c.portAt sub).since + msDispatch)
  have at_ : (c.modClk g).connAt k = y := by simp [Chip.connAt, only, tabGet]
  rw [Chip.doPathRejoin_up up, passed, only]
  refine (Chip.rejoinsPath_away (q := (k, y)) ?_ ?_ ?_).trans ?_ <;> rw [at_] <;> assumption

end Ports

section Commands

variable {s : State} (hl : s.chip.live = true) (sub : Fin 32)
include hl

theorem exec_haulMalformed (f : Frame) : exec (.haulMalformed sub f) s = .next (withChip s (s.chip.doHaulMalformed sub.val f)) :=
  exec_live (fun c => c.doHaulMalformed sub.val f) hl rfl rfl

theorem exec_pauseFrame (f : Frame) : exec (.pauseFrame sub f) s = .next (withChip s (s.chip.doPauseFrame sub.val f)) :=
  exec_live (fun c => c.doPauseFrame sub.val f) hl rfl rfl

theorem exec_arpRequest (f : Frame) : exec (.arpRequest sub f) s = .next (withChip s (s.chip.doArpRequest sub.val f)) :=
  exec_live (fun c => c.doArpRequest sub.val f) hl rfl rfl

theorem exec_neighbourSolicitation (f : Frame) :
    exec (.neighbourSolicitation sub f) s = .next (withChip s (s.chip.doNeighbourSolicitation sub.val f)) :=
  exec_live (fun c => c.doNeighbourSolicitation sub.val f) hl rfl rfl

theorem exec_subportUp : exec (.subportUp sub) s = .next (withChip s (s.chip.doSubportUp sub.val)) :=
  exec_live (fun c => c.doSubportUp sub.val) hl rfl rfl

theorem exec_pathRejoin : exec (.pathRejoin sub) s = .next (withChip s (s.chip.doPathRejoin sub.val)) :=
  exec_live (fun c => c.doPathRejoin sub.val) hl rfl rfl

variable (hc : s.calm = true)
include hc

theorem exec_haulWrite (f : Frame) : exec (.haulWrite sub f) s = .next (withChip s (s.chip.doHaulWrite sub.val f)) :=
  exec_calm (fun c => c.doHaulWrite sub.val f) hl hc rfl rfl

theorem exec_rawFrame (f : Frame) : exec (.rawFrame sub f) s = .next (withChip s (s.chip.doRawFrame sub.val f)) :=
  exec_calm (fun c => c.doRawFrame sub.val f) hl hc rfl rfl

theorem exec_portDown : exec (.portDown sub) s = .next (withChip s (s.chip.portFails sub.val .portDown)) :=
  exec_calm (fun c => c.doPortDown sub.val) hl hc rfl rfl

end Commands

/-- Settles O32: a frame is counted by its sub-port (`Chip.frameIn_good` and its kin) before anything looks into it; a sub-port that goes
down or rejoins meets one connection after another, none of which changes a sub-port. -/
theorem framesAndSubPorts : Obligations.FramesAndSubPorts := by
  refine ⟨?_, ?_⟩
  · rintro s sub f p x hl hc rfl up
    rw [exec_haulWrite hl sub hc, exec_haulMalformed hl, exec_pauseFrame hl, exec_rawFrame hl sub hc]
    refine ⟨fun packet isOp bad => ?_, fun packet isOp good long => ?_, fun arr stale => ?_, fun packet odd good fits => ?_,
      fun flow good fits => ?_, fun other good fits unbound => ?_, fun cq other good fits bound => ?_⟩
    · rw [Chip.doHaulWrite, Chip.haulIn_discarded packet isOp (Chip.frameIn_badFcs up bad)]
    · rw [Chip.doHaulWrite, Chip.haulIn_discarded packet isOp (Chip.frameIn_long up good long)]
    · rw [Chip.doHaulWrite, Chip.haulIn_stale arr stale]
    · rw [Chip.doHaulMalformed_counted up good fits packet odd]
    · rw [Chip.doPauseFrame_counted up good fits flow]
    · rw [Chip.doRawFrame_unqueued up good fits other unbound]; rfl
    · rw [Chip.doRawFrame_queued up good fits other bound]; rfl
  · rintro s sub f p x hl rfl
    rw [exec_arpRequest hl, exec_neighbourSolicitation hl, exec_subportUp hl, exec_pathRejoin hl]
    refine ⟨fun up good fits arp asks set own => ?_, fun up good fits asks set own => ?_, fun used down => ?_,
      fun up hc => ⟨_, exec_portDown hl sub hc, Chip.portFails_down up .portDown⟩, fun up => ⟨_, rfl, Chip.doPathRejoin_keeps up⟩,
      fun up hc none_ => ⟨?_, ?_⟩, fun k y up only open_ has away => ⟨_, rfl, Chip.doPathRejoin_away up only open_ has away⟩⟩
    · rw [Chip.doArpRequest_own up good fits arp asks set own]
    · obtain ⟨sum, answer⟩ := Chip.doNeighbourSolicitation_own up good fits asks set own
      rw [answer]
      exact ⟨_, rfl, advertisement_fields ..⟩
    · rw [Chip.doSubportUp, if_pos ⟨used, by simp [down]⟩]
    · rw [exec_portDown hl sub hc, Chip.portFails_up up, none_]; rfl
    · rw [Chip.doPathRejoin_up up, none_]; rfl

end Sys2Proof.Machine
end

section
/-!
Connections: CONNECT and ACCEPT, what opening makes of a connection, and its timers (13 R338, R339, R341, R345, R348, R351, 11 R310).
-/

open Sys2Proof

namespace Sys2Proof.Machine

/-! Opening (R338) -/

section Hello

variable {s : State} {sub : Fin 32} {f : Frame} {p : Pkt} {k : Nat} {h : List Byte} (hh : h = haulHdr p.bytes)
include hh

/-- A CONNECT that a connection in CONNECTING matches is answered, and opens it. -/
theorem Chip.doConnect_connecting (arr : haulArrives s sub f 0x20 p) (named : (haulSeen s.chip sub.val).connFor .connecting p = some k) :
    s.chip.doConnect sub.val f =
      ((haulSeen s.chip sub.val).sendHello k 0x21).connOpen k (fieldBE h 8 2) (fieldBE h 10 2) (fieldBE h 12 4) := by
  subst hh
  rw [Chip.doConnect, Chip.helloIn_arrived arr]
  simp only [named]

/-- A CONNECT that an OPEN connection matches is a late copy, which is answered, or shows that the peer has restarted. -/
theorem Chip.doConnect_open (arr : haulArrives s sub f 0x20 p) (none_ : (haulSeen s.chip sub.val).connFor .connecting p = none)
    (named : (haulSeen s.chip sub.val).connFor .open_ p = some k) {x : Conn} (hx : x = s.chip.connAt k) :
    s.chip.doConnect sub.val f =
      if s.chip.dispatch ≤ x.since + msDispatch ∧ (fieldBE h 10 2 = x.epoch ∨ fieldBE h 10 2 = x.peerProp)
      then (haulSeen s.chip sub.val).sendHello k 0x21 else (haulSeen s.chip sub.val).connLose k := by
  subst hh hx
  rw [Chip.doConnect, Chip.helloIn_arrived arr]
  simp only [none_, named]
  rfl

/-- An ACCEPT that a connection in CONNECTING matches opens it. -/
theorem Chip.doAccept_connecting (arr : haulArrives s sub f 0x21 p) (named : (haulSeen s.chip sub.val).connFor .connecting p = some k) :
    s.chip.doAccept sub.val f =
      (haulSeen s.chip sub.val).connOpen k (fieldBE h 8 2) (fieldBE h 10 2) (fieldBE h 12 4) := by
  subst hh
  rw [Chip.doAccept, Chip.helloIn_arrived arr]
  simp only [named]

end Hello

/-- A connection that opens: the larger proposal is its epoch, its counters start at zero, and its credit is the peer's. -/
def Chip.opened (c : Chip) (x : Conn) (peer prop credit : Nat) : Conn :=
  { x with
    st := .open_, peerConn := peer, epoch := max x.proposal prop, peerProp := prop, since := c.dispatch, peerDown := 0, away := 0
    rx := { HRecv.fresh with limit := x.rx.limit, last := c.dispatch }, tx := { HSend.fresh with limit := credit, beat := c.dispatch }
    rate := Rate.start (c.rMax { x with away := 0 }) c.fabric, creator := none }

/-- A connection for which no descriptor waits opens, and nothing else happens. -/
theorem Chip.connOpen_alone {c : Chip} {k : Nat} (done : (c.connAt k).creator = none) (none_ : ∀ d ∈ c.cm.descs, d.awaits k = false)
    (peer prop credit : Nat) : c.connOpen k peer prop credit = c.setConn k (c.opened (c.connAt k) peer prop credit) := by
  have idle : ∀ x : Conn, (c.setConn k x).postWaiting k = c.setConn k x := by
    intro x
    have empty : (c.setConn k x).cm.descs.filter (fun d => d.awaits k) = [] :=
      List.filter_eq_nil_iff.mpr (fun d hd => by simp [none_ d hd])
    rw [Chip.postWaiting, empty]
    rfl
  simp only [Chip.connOpen, done]
  exact idle _

/-! Timers -/

theorem Chip.connAt_passTo (c : Chip) (src due k : Nat) : (c.passTo src due).connAt k = c.connAt k := by
  obtain ⟨g, passed⟩ := c.passTo_eq_modClk src due
  rw [passed]
  rfl

/-- A path that times out leaves the packets without final status as they were (R341). -/
theorem Chip.strike_tx (c : Chip) (k sub ent : Nat) : ((c.strike k sub ent).connAt k).tx.tx = (c.connAt k).tx.tx := by
  unfold Chip.strike
  dsimp only
  split
  · rw [Chip.connAt_setConn_same]
  · rw [Chip.connAt_setPort, Chip.connAt_setConn_same]

/-- A packet's timeout set. -/
def HSend.withRto (t : HSend) (psn rto : Nat) : HSend := { t with tx := t.tx.map (fun p => if p.psn = psn then { p with rto := rto } else p) }

section Timers

variable {c : Chip} {k : Nat} {x : Conn} (hx : x = c.connAt k)
include hx

/-- A gather whose hold is not in use any more gives it back (11 R310). -/
theorem Chip.doHoldRelease_held {psn : BitVec 32} {ctx va : Nat} (free : x.st = .open_ → x.tx.msgs.any (fun m => m.owner == .resp psn.toNat) = false)
    (held : tabFind x.rx.holds psn.toNat = some (ctx, va)) :
    c.doHoldRelease k psn =
      ((c.setConn k { x with rx := { x.rx with holds := tabDel x.rx.holds psn.toNat } }).holdDown ctx va).releaseAll := by
  subst hx
  have unused : ¬ ((c.connAt k).st = .open_ ∧ (c.connAt k).tx.msgs.any (fun m => m.owner == .resp psn.toNat) = true) :=
    fun h => by simp [free h.1] at h
  simp only [Chip.doHoldRelease, held]
  exact if_neg unused

theorem Chip.doQuarantineEnd_found {sub ent : Nat} {q : Nat × Nat × Nat} (found : x.tx.quar.find? (fun q => q.1 == sub && q.2.1 == ent) = some q) :
    c.doQuarantineEnd k sub ent = (c.passTo srcDispatch q.2.2).setConn k
      { x with tx := { x.tx with quar := x.tx.quar.filter (fun z => !(z.1 == sub && z.2.1 == ent)) } } := by
  subst hx
  simp only [Chip.doQuarantineEnd, found]

theorem Chip.doConnectRetry_connecting (connecting : x.st = .connecting) {d : Chip}
    (hd : d = if x.tx.pos = none then c else c.passTo srcDispatch (x.tx.beat + 100000)) :
    c.doConnectRetry k = (d.setConn k { x with tx := { x.tx with beat := d.dispatch } }).sendHello k 0x20 := by
  subst hx hd
  exact if_pos connecting

variable (open_ : x.st = .open_)
include open_

theorem Chip.doAckTimer_unreported {t : Nat} (unreported : x.rx.unrepAt = some t) :
    c.doAckTimer k = (c.passTo srcFabric (t + 3000)).sendAck k true := by
  subst hx
  simp only [Chip.doAckTimer, unreported]
  exact if_pos open_

theorem Chip.doKeepalive_idle (settled : x.tx.tx = []) (sent : x.tx.msgs = []) :
    c.doKeepalive k = (c.passTo srcDispatch (x.tx.beat + msDispatch)).sendAck k false := by
  subst hx
  exact if_pos ⟨open_, by simp [settled], by simp [sent]⟩

theorem Chip.doConnTimeout_open : c.doConnTimeout k =
    (c.passTo srcDispatch (x.tx.tx.foldl (fun a p => min a p.disp0) x.rx.last + x.timeout * msDispatch)).connLose k := by
  subst hx
  exact if_pos open_

theorem Chip.connRate_open {d : Chip} (hd : d = c.passTo srcFabric (x.rate.per + c.rf 0xA00008 17 0)) :
    c.connRate k = d.setConn k { x with rate := d.rateStep x.rate (d.rMax x) x.rate.ce x.rate.units d.fabric } := by
  subst hx hd
  exact if_pos open_

variable {psn : BitVec 32} {p : HTx} (found : x.tx.tx.find? (fun t => t.psn == psn.toNat) = some p)
include found

/-- A packet that an RNR has delayed is sent again with its timeout as it was (R348). -/
theorem Chip.doRetxTimeout_rnr (delayed : p.rnr = true) : c.doRetxTimeout k psn =
    ((c.passTo srcFabric p.due).setConn k { x with tx := x.tx.withRto psn.toNat p.rto }).retransmit k psn.toNat 0 := by
  subst hx
  simp only [Chip.doRetxTimeout, found, open_, delayed, ne_eq, not_true_eq_false, if_false, if_true, Chip.connAt_passTo]
  rfl

/-- A packet that has timed out is sent again with its timeout doubled, and its path has timed out (R341, R348). -/
theorem Chip.doRetxTimeout_late (late : p.rnr = false) {d : Chip} (hd : d = (c.passTo srcFabric p.due).strike k p.sub p.ent) :
    c.doRetxTimeout k psn =
      (d.setConn k { d.connAt k with tx := (d.connAt k).tx.withRto psn.toNat (min (2 * p.rto) 6000000) }).retransmit k psn.toNat 0 := by
  subst hx hd
  simp only [Chip.doRetxTimeout, found, open_, late, ne_eq, not_true_eq_false, if_false, Bool.false_eq_true]
  rfl

end Timers

/-! The commands -/

section Commands

variable {s : State} (hl : s.chip.live = true) (k : Fin 16384)
include hl

theorem exec_accept (sub : Fin 32) (f : Frame) : exec (.accept sub f) s = .next (withChip s (s.chip.doAccept sub.val f)) :=
  exec_live (fun c => c.doAccept sub.val f) hl rfl rfl

theorem exec_ackTimer : exec (.ackTimer k) s = .next (withChip s (s.chip.doAckTimer k.val)) :=
  exec_live (fun c => c.doAckTimer k.val) hl rfl rfl

theorem exec_keepalive : exec (.keepalive k) s = .next (withChip s (s.chip.doKeepalive k.val)) :=
  exec_live (fun c => c.doKeepalive k.val) hl rfl rfl

theorem exec_retxTimeout (psn : BitVec 32) : exec (.retxTimeout k psn) s = .next (withChip s (s.chip.doRetxTimeout k.val psn)) :=
  exec_live (fun c => c.doRetxTimeout k.val psn) hl rfl rfl

theorem exec_quarantineEnd (sub : Fin 32) (ent : Fin 16) :
    exec (.quarantineEnd k sub ent) s = .next (withChip s (s.chip.doQuarantineEnd k.val sub.val ent.val)) :=
  exec_live (fun c => c.doQuarantineEnd k.val sub.val ent.val) hl rfl rfl

theorem exec_connectRetry : exec (.connectRetry k) s = .next (withChip s (s.chip.doConnectRetry k.val)) :=
  exec_live (fun c => c.doConnectRetry k.val) hl rfl rfl

theorem exec_rcPeriod (qp : Bool) : exec (.rcPeriod k qp) s = .next (withChip s (s.chip.doRcPeriod k.val qp)) :=
  exec_live (fun c => c.doRcPeriod k.val qp) hl rfl rfl

variable (hc : s.calm = true)
include hc

theorem exec_connect (sub : Fin 32) (f : Frame) : exec (.connect sub f) s = .next (withChip s (s.chip.doConnect sub.val f)) :=
  exec_calm (fun c => c.doConnect sub.val f) hl hc rfl rfl

theorem exec_connTimeout : exec (.connTimeout k) s = .next (withChip s (s.chip.doConnTimeout k.val)) :=
  exec_calm (fun c => c.doConnTimeout k.val) hl hc rfl rfl

theorem exec_holdRelease (psn : BitVec 32) : exec (.holdRelease k psn) s = .next (withChip s (s.chip.doHoldRelease k.val psn)) :=
  exec_calm (fun c => c.doHoldRelease k.val psn) hl hc rfl rfl

end Commands

/-- Settles O33: a CONNECT or ACCEPT acts on the connection that it names, and each timer is the case of its command that the state of its
connection selects. -/
theorem connectionsAndTheirTimers : Obligations.ConnectionsAndTheirTimers := by
  refine ⟨?_, ?_⟩
  · rintro s sub f p k x y h hh hx
    refine ⟨fun arr hc none_ named => ?_, fun arr hc named => ?_, fun arr named => ?_, ?_⟩
    · rw [exec_connect arr.1 hc, Chip.doConnect_open hh arr none_ named hx]
    · rw [exec_connect arr.1 hc, Chip.doConnect_connecting hh arr named]
    · rw [exec_accept arr.1, Chip.doAccept_connecting hh arr named]
    · rintro c peer prop credit done none_ rfl
      rw [Chip.connOpen_alone done none_, Chip.connAt_setConn_same]
      exact ⟨rfl, rfl, rfl, rfl, rfl, rfl, rfl, rfl, rfl, rfl⟩
  · rintro s k psn sub ent x hl hx
    rw [exec_ackTimer hl, exec_keepalive hl, exec_retxTimeout hl, exec_quarantineEnd hl, exec_connectRetry hl, exec_rcPeriod hl]
    refine ⟨fun t open_ unreported => ?_, fun open_ settled sent => ?_, fun open_ hc => ?_, fun p open_ found delayed => ?_, ?_,
      fun q found => ?_, fun ctx va hc free held => ?_, fun c connecting hd => ?_, fun c open_ hd => ?_⟩
    · rw [Chip.doAckTimer_unreported hx open_ unreported]
    · rw [Chip.doKeepalive_idle hx open_ settled sent]
    · rw [exec_connTimeout hl k hc, Chip.doConnTimeout_open hx open_]
    · rw [Chip.doRetxTimeout_rnr hx open_ found delayed]; rfl
    · intro p c open_ found late hd
      have kept : (c.connAt k.val).tx.tx = x.tx.tx := by rw [hd, Chip.strike_tx, Chip.connAt_passTo, hx]
      rw [Chip.doRetxTimeout_late hx open_ found late hd, HSend.withRto, kept]
      exact ⟨rfl, rfl⟩
    · rw [Chip.doQuarantineEnd_found hx found]
    · rw [exec_holdRelease hl k hc, Chip.doHoldRelease_held hx free held]
    · rw [Chip.doConnectRetry_connecting hx connecting hd]
    · rw [Chip.doRcPeriod, Chip.connRate_open hx open_ hd]; rfl

end Sys2Proof.Machine
end

section
/-!
Control packets of an OPEN connection: what ACK, NAK, CLOSE and PATHDOWN make of it (13 R339, R344, R345, R348, R349, R351, R352).
-/

open Sys2Proof

namespace Sys2Proof.Machine

/-- The status that an ACK gives a packet is taken: DONE, REFUSED, or none yet (R345, Table 13.3). -/
def Chip.ackTakes (k : Nat) (h pay : List Byte) (y : Chip) (i : Nat) : Chip :=
  match fieldBE pay (i / 4) 1 / 4 ^ (i % 4) % 4 with
  | 1 => y.ackDone k ((fieldBE h 0 4 + i) % 2 ^ 32)
  | 2 => y.ackRefused k ((fieldBE h 0 4 + i) % 2 ^ 32)
  | _ => y

/-- The marks that an ACK reports are counted, unless its count lies behind (R351). -/
def Rate.marked (r : Rate) (count : Nat) : Rate :=
  if sub32 count r.seen < 2 ^ 31 then { r with ce := r.ce + sub32 count r.seen, seen := count } else r

/-- A connection that an ACK has told its credit and its marks. -/
def Conn.acked (x : Conn) (h : List Byte) : Conn :=
  { x with
    tx := { x.tx with limit := if seqGe (fieldBE h 4 4) x.tx.limit then fieldBE h 4 4 else x.tx.limit }
    rate := x.rate.marked (fieldBE h 8 4) }

/-- A packet that was not ready to be received is delayed by 30,000 cycles (R348). -/
def HSend.delayed (t : HSend) (psn now : Nat) : HSend :=
  { t with tx := t.tx.map (fun p => if p.psn = psn then { p with due := now + 30000, rnr := true } else p) }

/-! Paths named down (R352) -/

/-- A connection whose peer has named addresses down: what was last sent to them is queued again. -/
def Conn.pathsDown (x : Conn) (mask : Nat) : Conn :=
  { x with peerDown := mask, tx := x.tx.requeue (fun t => bit mask t.addr && !bit x.peerDown t.addr) }

/-- Whether a connection keeps a path rests on its sub-ports and addresses, not on what it has sent. -/
theorem Chip.hasPath_pathsDown (c : Chip) (k : Nat) (y x : Conn) (mask : Nat) :
    (c.setConn k y).hasPath (x.pathsDown mask) = c.hasPath { x with peerDown := mask } := rfl

theorem Chip.checkPaths_lost {c : Chip} {k : Nat} (open_ : (c.connAt k).st = .open_) (none_ : c.hasPath (c.connAt k) = false) :
    ((c.checkPaths k).connAt k).st = .lost := by
  simp only [Chip.checkPaths, none_, Bool.not_false, if_true]
  exact (Chip.connLose_open open_).2

/-- A connection that keeps a path goes on, at most with its quarantines lifted (R341). -/
theorem Chip.checkPaths_kept {c : Chip} {k : Nat} (kept : c.hasPath (c.connAt k) = true) :
    ∃ t : HSend, (c.checkPaths k).connAt k = { c.connAt k with tx := t } := by
  simp only [Chip.checkPaths, kept, Bool.not_true, Bool.false_eq_true, if_false]
  split
  · exact ⟨_, Chip.connAt_setConn_same ..⟩
  · exact ⟨(c.connAt k).tx, rfl⟩

section Packets

variable {s : State} {sub : Fin 32} {f : Frame} {p : Pkt} {k : Nat} (named : haulNamed s.chip p k) {c : Chip}
  (hc : c = haulOn s.chip sub.val k p) {h : List Byte} (hh : h = haulHdr p.bytes)
include named hc hh

theorem exec_nak_final (arr : haulArrives s sub f 0x11 p) (low : 1 ≤ fieldBE h 4 1) (high : fieldBE h 4 1 ≤ 9) (final : fieldBE h 4 1 ≠ 8) :
    exec (.nak sub f) s = .next (withChip s (c.settlePsn k (fieldBE h 0 4) (fieldBE h 4 1) (fieldBE h 8 8))) := by
  subst hh hc
  refine exec_live (fun c => c.doNak sub.val f) arr.1 rfl ?_
  rw [Chip.doNak, Chip.haulIn_named arr named]
  exact (if_neg final).trans (if_pos ⟨low, high⟩)

variable {x : Conn} (hx : x = c.connAt k)
include hx

theorem exec_ack (arr : haulArrives s sub f 0x10 p) : exec (.ack sub f) s =
    .next (withChip s ((List.range (fieldBE h 12 2)).foldl (Chip.ackTakes k h (haulPay p.bytes)) (c.setConn k (x.acked h)))) := by
  subst hx hh hc
  refine exec_live (fun c => c.doAck sub.val f) arr.1 rfl ?_
  rw [Chip.doAck, Chip.haulIn_named arr named]
  have rate : ∀ r : Rate,
      { r with ce := if decide (sub32 (fieldBE (haulHdr p.bytes) 8 4) r.seen < 2 ^ 31) then
                       r.ce + sub32 (fieldBE (haulHdr p.bytes) 8 4) r.seen else r.ce
               seen := if decide (sub32 (fieldBE (haulHdr p.bytes) 8 4) r.seen < 2 ^ 31) then
                         fieldBE (haulHdr p.bytes) 8 4 else r.seen } = r.marked (fieldBE (haulHdr p.bytes) 8 4) := by
    intro r
    unfold Rate.marked
    split <;> simp_all
  simp only [rate]
  rfl

theorem exec_nak_rnr (arr : haulArrives s sub f 0x11 p) (rnr : fieldBE h 4 1 = 8) :
    exec (.nak sub f) s = .next (withChip s (c.setConn k { x with tx := x.tx.delayed (fieldBE h 0 4) c.fabric })) := by
  subst hx hh hc
  refine exec_live (fun c => c.doNak sub.val f) arr.1 rfl ?_
  rw [Chip.doNak, Chip.haulIn_named arr named]
  exact if_pos rnr

theorem exec_close (arr : haulArrives s sub f 0x22 p) (calm : s.calm = true) (cookie : fieldBE h 0 8 = x.cookie) :
    exec (.close sub f) s = .next (withChip s (c.connLose k)) := by
  subst hx hh hc
  refine exec_calm (fun c => c.doClose sub.val f) arr.1 calm rfl ?_
  rw [Chip.doClose, Chip.haulIn_named arr named]
  exact if_pos cookie.symm

theorem exec_pathdown (arr : haulArrives s sub f 0x23 p) (calm : s.calm = true) : exec (.pathdown sub f) s =
    .next (withChip s ((c.setConn k (x.pathsDown (fieldBE h 0 4 % 2 ^ x.peers.length))).checkPaths k)) := by
  subst hx hh hc
  refine exec_calm (fun c => c.doPathdown sub.val f) arr.1 calm rfl ?_
  rw [Chip.doPathdown, Chip.haulIn_named arr named]
  rfl

end Packets

/-- A packet that has been counted leaves its connection in its state. -/
theorem haulOn_st (c : Chip) (sub k : Nat) (p : Pkt) : ((haulOn c sub k p).connAt k).st = (c.connAt k).st := by
  unfold haulOn
  rw [Chip.connAt_setConn_same]

/-- Settles O34: each packet has the effect of its operation on the connection that it names; one that keeps no path is lost
(`Chip.checkPaths_lost`). -/
theorem haulControlPackets : Obligations.HaulControlPackets := by
  rintro s sub f p k c x h named hc hx hh
  refine ⟨?_, fun arr rnr => exec_nak_rnr named hc hh hx arr rnr, fun arr low high final => exec_nak_final named hc hh arr low high final,
    fun arr calm cookie => exec_close named hc hh hx arr calm cookie, fun arr calm => ⟨_, exec_pathdown named hc hh hx arr calm, ?_⟩⟩
  · rintro e arr rfl
    rw [exec_ack named hc hh hx arr]
    exact ⟨fun none_ => by rw [none_]; rfl, rfl⟩
  · have open_ : x.st = .open_ := by rw [hx, hc, haulOn_st]; exact named.2.2.1
    have down := Chip.connAt_setConn_same c k (x.pathsDown (fieldBE h 0 4 % 2 ^ x.peers.length))
    refine ⟨fun kept => ?_, fun none_ => ?_⟩
    · obtain ⟨t, goesOn⟩ := Chip.checkPaths_kept (c := c.setConn k (x.pathsDown (fieldBE h 0 4 % 2 ^ x.peers.length))) (k := k)
        (by rw [down, Chip.hasPath_pathsDown]; exact kept)
      rw [goesOn, down]
      exact ⟨rfl, open_⟩
    · exact Chip.checkPaths_lost (by rw [down]; exact open_) (by rw [down, Chip.hasPath_pathsDown]; exact none_)

end Sys2Proof.Machine
end

section
/-!
What a connection sends: retransmissions first, then its next new packet (13 R340, R342, R346 to R349, R352).
-/

open Sys2Proof

namespace Sys2Proof.Machine

@[simp] theorem Chip.setConn_setConn (c : Chip) (k : Nat) (x y : Conn) : (c.setConn k x).setConn k y = c.setConn k y := by
  simp [Chip.setConn, Chip.modFab]

/-- Tokens are taken from the connection's bucket, when time has filled it (R351). -/
theorem Chip.takeTokens_eq (c : Chip) (k n : Nat) :
    ∃ (g : Clocks → Clocks) (r : Rate), c.takeTokens k n = (c.modClk g).setConn k { c.connAt k with rate := r } := by
  obtain ⟨g, passed⟩ := c.passTo_eq_modClk srcFabric (c.fabric + ((c.connAt k).rate.fill c.fabric).waitFor (min n 65536))
  unfold Chip.takeTokens
  dsimp only
  rw [passed]
  exact ⟨g, _, rfl⟩

/-- The package once the bytes of a message's next packet have been read, where the message does not hold them. -/
def Chip.msgRead (c : Chip) (m : HMsg) : Chip :=
  if m.data.isSome ∨ m.chunk = 0 then c else c.used fdTlb srcFabric (c.spanLines fdTlb m.ctx m.va m.chunk false)

@[simp] theorem Chip.msgRead_fab (c : Chip) (m : HMsg) : (c.msgRead m).fab = c.fab := by
  unfold Chip.msgRead
  split
  · rfl
  · exact c.used_fab ..

theorem Chip.msgRead_of_held {c : Chip} {m : HMsg} (h : m.op = 0x06 ∨ m.data.isSome = true) : c.msgRead m = c :=
  if_pos (h.elim (fun signal => .inr (by simp [HMsg.chunk, signal])) .inl)

/-- Reading moves the objects of no one. -/
theorem Chip.msgRead_so (c : Chip) (m : HMsg) : (c.msgRead m).so = c.so := by
  unfold Chip.msgRead
  split
  · rfl
  · exact (c.traffic_used ..).part Chip.so

/-- A packet carries the next bytes of a message on a path of its connection. -/
def HTx.carries (p : HTx) (x : Conn) (m : HMsg) (path : Nat × Nat) (i : Nat) : Prop :=
  p.psn = x.tx.next ∧ p.op = m.op ∧ p.owner = m.owner ∧ p.tries = 0 ∧ p.sub = path.1 ∧ p.ent = path.2 ∧ p.addr = i ∧ p.rto = x.tx.rto ∧
    (∀ bs, m.data = some bs → m.op ≠ 0x02 → m.op ≠ 0x06 → p.payload = bs.take m.chunk)

/-- A connection that has sent a packet of its first message. -/
def Conn.sends (x : Conn) (m : HMsg) (rest : List HMsg) (path : Nat × Nat) (p : HTx) (reads : List HRead) (rate : Rate) : Conn :=
  { x with
    tx := { x.tx with
      next := (x.tx.next + 1) % 2 ^ 32, sent := (x.tx.sent + (m.chunk + 63) / 64) % 2 ^ 32, tx := x.tx.tx ++ [p]
      msgs := (if m.op = 0x02 ∨ m.op = 0x06 then none else m.advance m.chunk).toList ++ rest, pos := some path, changed := false
      reads := reads }
    rate := rate }

section New

variable {c : Chip} {k full : Nat} {x : Conn} (hx : x = c.connAt k) {m : HMsg} {rest : List HMsg} {path : Nat × Nat} {i : Nat}
  (first : x.tx.msgs = m :: rest) (hpath : c.newPath x full = some path) (addr : c.addrOf x path.1 = some i)
  (window : seqGe ((x.tx.scum + 1023) % 2 ^ 32) x.tx.next = true)
  (credit : m.chunk = 0 ∨ seqGe x.tx.limit ((x.tx.sent + (m.chunk + 63) / 64) % 2 ^ 32) = true)
  (readable : m.chunk = 0 ∨ m.data.isSome = true ∨ (c.spanLines fdTlb m.ctx m.va m.chunk false).fault = none)
include hx first hpath addr window credit readable

/-- With window, credit, a path and bytes that can be read, the first message's next packet is sent. -/
theorem Chip.sendNew_sends : ∃ (g : Clocks → Clocks) (p : HTx) (reads : List HRead) (r : Rate) (bs : List Byte),
    c.sendNew k full = (((c.msgRead m).modClk g).setConn k (x.sends m rest path p reads r)).sendOn k path bs ∧
      p.carries x m path i := by
  subst hx
  have allowed : ¬ ((!seqGe (((c.connAt k).tx.scum + 1023) % 2 ^ 32) (c.connAt k).tx.next ||
      (m.chunk != 0 && !seqGe (c.connAt k).tx.limit (((c.connAt k).tx.sent + (m.chunk + 63) / 64) % 2 ^ 32))) = true) := by
    rw [window]
    rcases credit with h | h <;> rw [h] <;> simp
  have unfaulted : ¬ ((m.data.isNone && m.chunk != 0 && (c.spanLines fdTlb m.ctx m.va m.chunk false).fault.isSome) = true) := by
    rcases readable with h | h | h
    · simp [h]
    · simp [Option.isSome_iff_ne_none.mp h]
    · simp [h]
  simp only [Chip.sendNew, first, hpath, addr]
  rw [if_neg allowed, if_neg unfaulted]
  generalize hread : (if m.data.isSome = true ∨ m.chunk = 0 then c
    else c.used fdTlb srcFabric (c.spanLines fdTlb m.ctx m.va m.chunk false)) = c1
  obtain rfl : c.msgRead m = c1 := hread
  generalize htok : (c.msgRead m).takeTokens k _ = c2
  obtain ⟨g, r, took⟩ := (c.msgRead m).takeTokens_eq k _
  rw [htok, Chip.connAt_congr (c.msgRead_fab m)] at took
  have now : c2.connAt k = { c.connAt k with rate := r } := by rw [took, Chip.connAt_setConn_same]
  rw [now, took, Chip.setConn_setConn]
  refine ⟨g, _, _, r, _, rfl, rfl, rfl, rfl, rfl, rfl, rfl, rfl, rfl, fun bs held notRead notSignal => ?_⟩
  simp [held, notRead, notSignal]

end New

/-- A path is paired with the address that the sub-ports give, whatever else stands in the package. -/
theorem Chip.addrOf_congr {c d : Chip} (h : d.fab.port = c.fab.port) (x : Conn) (sub : Nat) : d.addrOf x sub = c.addrOf x sub := by
  simp only [Chip.addrOf, Chip.subsOf, Chip.portAt, h]

/-- On a path with an address, one frame is sent. -/
theorem Chip.sendOn_addr {c : Chip} {k i : Nat} {p : Nat × Nat} (addr : c.addrOf (c.connAt k) p.1 = some i) (bs : List Byte) :
    ∃ (n : Nat) (f : Sent), c.sendOn k p bs = (c.took n).modFab (fun g => { g with sent := g.sent ++ [f] }) := by
  unfold Chip.sendOn
  dsimp only
  rw [addr]
  exact Chip.sendIp_eq ..

theorem exec_packetSend {s : State} (hl : s.chip.live = true) (hc : s.calm = true) (k : Fin 16384) (full : BitVec 32) :
    exec (.packetSend k full) s = .next (withChip s (s.chip.doPacketSend k.val full)) :=
  exec_calm (fun c => c.doPacketSend k.val full) hl hc rfl rfl

section Turn

variable {c : Chip} {k : Nat} {x : Conn} (hx : x = c.connAt k) (open_ : x.st = .open_)
include hx open_

theorem Chip.doPacketSend_again {psn : Nat} {r : List Nat} (queued : x.tx.retx = psn :: r) (full : BitVec 32) :
    c.doPacketSend k full = c.retransmit k psn full.toNat := by
  subst hx
  simp only [Chip.doPacketSend, open_, queued, if_true]

theorem Chip.doPacketSend_new (none_ : x.tx.retx = []) (full : BitVec 32) : c.doPacketSend k full = c.sendNew k full.toNat := by
  subst hx
  simp only [Chip.doPacketSend, open_, none_, if_true]

end Turn

/-- Settles O35: a connection with nothing to send again sends its first message's next packet (`Chip.sendNew_sends`) on the path whose turn
it is, which has an address. -/
theorem packetSending : Obligations.PacketSending := by
  rintro s k full x hl hc hx open_
  rw [exec_packetSend hl hc]
  refine ⟨fun psn r queued => by rw [Chip.doPacketSend_again hx open_ queued], ?_⟩
  rintro m rest path i n none_ first rfl hpath addr window credit readable
  obtain ⟨g, p, reads, r, bs, sends, carries⟩ := Chip.sendNew_sends hx first hpath addr window credit readable
  have addr' : (((s.chip.msgRead m).modClk g).setConn k.val (x.sends m rest path p reads r)).addrOf
      ((((s.chip.msgRead m).modClk g).setConn k.val (x.sends m rest path p reads r)).connAt k.val) path.1 = some i := by
    have ports : (((s.chip.msgRead m).modClk g).setConn k.val (x.sends m rest path p reads r)).fab.port = s.chip.fab.port := by
      rw [← s.chip.msgRead_fab m]; rfl
    rw [Chip.connAt_setConn_same, Chip.addrOf_congr ports]
    exact addr
  obtain ⟨t, f, sent⟩ := Chip.sendOn_addr addr' bs
  rw [Chip.doPacketSend_new hx open_ none_, sends, sent]
  have conn : (((((s.chip.msgRead m).modClk g).setConn k.val (x.sends m rest path p reads r)).took t).modFab
      (fun g => { g with sent := g.sent ++ [f] })).connAt k.val = x.sends m rest path p reads r := Chip.connAt_setConn_same ..
  refine ⟨_, rfl, ?_⟩
  rw [conn]
  refine ⟨rfl, rfl, rfl, rfl, ⟨p, rfl, carries⟩, ?_, s.chip.msgRead_so m, fun held => ?_⟩
  · have before : (s.chip.msgRead m).fab.sent.length = s.chip.fab.sent.length := by rw [Chip.msgRead_fab]
    exact (List.length_append ..).trans (congrArg (· + 1) before)
  · rw [Chip.msgRead_of_held held]; rfl

end Sys2Proof.Machine
end

section
/-!
RoCEv2 queue pairs: requests carried out in sequence, and what a requester does with acknowledgements, responses and timers (13 R351, R358,
R359, Table 13.8).
-/

open Sys2Proof

namespace Sys2Proof.Machine

@[simp] theorem Chip.setQp_setQp (c : Chip) (n : Nat) (q r : Qp) : (c.setQp n q).setQp n r = c.setQp n r := by
  simp [Chip.setQp, Chip.modRoce]

/-! Packets that arrive (Table 13.8) -/

section Arrival

variable {c : Chip} {n : Nat} (ready : (c.qpAt n).st = .ready)
include ready

theorem Chip.qpIn_badIcrc (ce : Bool) (f : Chip → Chip) :
    c.qpIn n false ce f = c.setQp n { c.qpAt n with badIcrc := (c.qpAt n).badIcrc + 1 } := by
  simp [Chip.qpIn, ready]

theorem Chip.qpIn_unmarked (f : Chip → Chip) : c.qpIn n true false f = f c := by simp [Chip.qpIn, ready]

/-- A marked packet is answered with CNP, unless one went out in the last 50 µs. -/
theorem Chip.qpIn_marked (due : ∀ t, (c.qpAt n).cnpAt = some t → t + cnpCounts ≤ c.fabric) (f : Chip → Chip) :
    c.qpIn n true true f = f ((c.setQp n { c.qpAt n with cnpAt := some c.fabric }).qpEmit n
      { qpn := n, kind := 19, psn := 0, fields := [], payload := [] }) := by
  cases last : (c.qpAt n).cnpAt with
  | none => simp [Chip.qpIn, ready, last]
  | some t => simp [Chip.qpIn, ready, last, due t last]

variable {p : RocePkt} (whole : p.icrcOk = true) (unmarked : p.ce = false) (again f : Chip → Chip)
include whole unmarked

/-- A request with the expected number is carried out. -/
theorem Chip.qpRequest_inSequence (expected : p.psn.toNat = (c.qpAt n).epsn) :
    c.qpRequest n p again f = f (c.setQp n { c.qpAt n with nakSent := false }) := by
  rw [Chip.qpRequest, whole, unmarked, Chip.qpIn_unmarked ready]
  exact if_pos expected

/-- A request that is ahead draws one NAK. -/
theorem Chip.qpRequest_ahead (other : p.psn.toNat ≠ (c.qpAt n).epsn) (ahead : psnGe p.psn.toNat (c.qpAt n).epsn = true)
    (unsent : (c.qpAt n).nakSent = false) :
    c.qpRequest n p again f = (c.setQp n { c.qpAt n with nakSent := true }).qpNak n (c.qpAt n).epsn 0x60 := by
  rw [Chip.qpRequest, whole, unmarked, Chip.qpIn_unmarked ready]
  dsimp only
  rw [if_neg other, if_pos ahead, unsent]
  rfl

end Arrival

/-- The commands of a request that a queue pair receives. -/
def roceRequests (n : Fin 4096) (p : RocePkt) : List Instr :=
  [Instr.roceSend n p, Instr.roceRdmaWrite n p, Instr.roceRdmaRead n p, Instr.roceInvalidRequest n p]

section Requests

variable {s : State} (hl : s.chip.live = true) (n : Fin 4096) (p : RocePkt)
include hl

theorem exec_roceInvalidRequest : exec (.roceInvalidRequest n p) s = .next (withChip s (s.chip.doRoceInvalidRequest n.val p)) :=
  exec_live (fun c => c.doRoceInvalidRequest n.val p) hl rfl rfl

variable (hc : s.calm = true)
include hc

theorem exec_roceSend : exec (.roceSend n p) s = .next (withChip s (s.chip.doRoceSend n.val p)) :=
  exec_calm (fun c => c.doRoceSend n.val p) hl hc rfl rfl

theorem exec_roceRdmaWrite : exec (.roceRdmaWrite n p) s = .next (withChip s (s.chip.doRoceRdmaWrite n.val p)) :=
  exec_calm (fun c => c.doRoceRdmaWrite n.val p) hl hc rfl rfl

theorem exec_roceRdmaRead : exec (.roceRdmaRead n p) s = .next (withChip s (s.chip.doRoceRdmaRead n.val p)) :=
  exec_calm (fun c => c.doRoceRdmaRead n.val p) hl hc rfl rfl

/-- Every request is met by the sequence of its queue pair. -/
theorem exec_roceRequest {i : Instr} (hi : i ∈ roceRequests n p) :
    ∃ again f : Chip → Chip, exec i s = .next (withChip s (s.chip.qpRequest n.val p again f)) := by
  simp only [roceRequests, List.mem_cons, List.not_mem_nil, or_false] at hi
  rcases hi with rfl | rfl | rfl | rfl
  · exact ⟨_, _, exec_roceSend hl n p hc⟩
  · exact ⟨_, _, exec_roceRdmaWrite hl n p hc⟩
  · exact ⟨_, _, exec_roceRdmaRead hl n p hc⟩
  · exact ⟨_, _, exec_roceInvalidRequest hl n p⟩

end Requests

/-! Requests in sequence (R358, R359) -/

section InSequence

variable {c d : Chip} {n : Nat} {p : RocePkt} {q : Qp} (hq : q = c.qpAt n) (ready : q.st = .ready) (whole : p.icrcOk = true)
  (unmarked : p.ce = false) (expected : p.psn.toNat = q.epsn) (hd : d = c.setQp n { q with nakSent := false })
include hq ready whole unmarked expected hd

theorem Chip.doRoceSend_unbuffered (empty : q.recvs = []) : c.doRoceSend n p = d.qpRnr n := by
  subst hq
  have now : d.qpAt n = { c.qpAt n with nakSent := false } := by rw [hd, Chip.qpAt_setQp_same]
  rw [Chip.doRoceSend, Chip.qpRequest_inSequence ready whole unmarked _ _ expected, ← hd]
  simp only [now, empty]

/-- A SEND whose payload its buffer takes goes there; the message's last packet completes the buffer. -/
theorem Chip.doRoceSend_placed {b : RecvBuf} {r : List RecvBuf} {got : Nat} {sp : Span} {e : Chip} (oldest : q.recvs = b :: r)
    (begun : p.first = true ∧ q.rx = none ∧ got = 0 ∨ p.first = false ∧ ∃ x, q.rx = some x ∧ x.op = 0 ∧ got = x.got)
    (fits : got + p.payload.length ≤ b.len) (hs : sp = d.spanLines fdTlb q.ctx (b.va + got) p.payload.length true)
    (hf : sp.fault = none) (he : e = (d.used fdTlb srcFabric sp).scatter sp p.payload false 0) :
    c.doRoceSend n p = if p.last then (e.recvDone n 0 0).qpTaken n p none
      else e.qpTaken n p (some { op := 0, va := b.va, rkey := 0, len := b.len, got := got + p.payload.length }) := by
  subst hq
  have now : d.qpAt n = { c.qpAt n with nakSent := false } := by rw [hd, Chip.qpAt_setQp_same]
  rw [Chip.doRoceSend, Chip.qpRequest_inSequence ready whole unmarked _ _ expected, ← hd]
  simp only [now, oldest]
  have short : ¬ b.len < got + p.payload.length := by omega
  rcases begun with ⟨first, none_, rfl⟩ | ⟨later, x, some_, op, rfl⟩
  · simp only [first, none_, if_true, Bool.not_true, Bool.false_eq_true, if_false, short, ← hs, hf, he]
  · simp [later, some_, op, short, ← hs, hf, he]

/-- A WRITE whose payload its region takes goes there, packet by packet of its message. -/
theorem Chip.doRoceRdmaWrite_placed {x : RoceIn} {r : Option FdRegion} {sp : Span} {e : Chip}
    (begun : p.first = true ∧ q.rx = none ∧ x = { op := 2, va := p.va.toNat, rkey := p.rkey.toNat, len := p.len.toNat, got := 0 } ∨
      p.first = false ∧ q.rx = some x ∧ x.op = 2)
    (fits : x.got + p.payload.length ≤ x.len) (buffered : p.last = true → p.imm.isSome = true → q.recvs ≠ [])
    (hr : r = d.qpRegion n x.rkey x.va x.len 0) (reached : 0 < x.len → r.isSome = true)
    (hs : sp = d.spanLines fdTlb q.ctx (x.va + x.got) p.payload.length true) (hf : sp.fault = none)
    (he : e = (d.used fdTlb srcFabric sp).scatter sp p.payload false ((r.map (·.hint)).getD 0)) :
    c.doRoceRdmaWrite n p = (if p.last = true ∧ p.imm.isSome = true then e.recvDone n 0 0 else e).qpTaken n p
      (if p.last then none else some { x with got := x.got + p.payload.length }) := by
  subst hq
  have now : d.qpAt n = { c.qpAt n with nakSent := false } := by rw [hd, Chip.qpAt_setQp_same]
  rw [Chip.doRoceRdmaWrite, Chip.qpRequest_inSequence ready whole unmarked _ _ expected, ← hd]
  have message : (if p.first = true then ({ op := 2, va := p.va.toNat, rkey := p.rkey.toNat, len := p.len.toNat, got := 0 } : RoceIn)
      else (c.qpAt n).rx.getD { op := 0, va := 0, rkey := 0, len := 0, got := 0 }) = x := by
    rcases begun with ⟨first, -, rfl⟩ | ⟨later, some_, -⟩
    · rw [if_pos first]
    · simp [later, some_]
  have legal : ¬ (x.op ≠ 2 ∨ (p.first = true ∧ (c.qpAt n).rx.isSome = true) ∨ x.len < x.got + p.payload.length) := by
    have short : ¬ x.len < x.got + p.payload.length := by omega
    rcases begun with ⟨first, none_, rfl⟩ | ⟨later, some_, op⟩
    · simp [none_]; simpa using fits
    · simp [later, op]; exact fits
  have taken : ¬ (p.last = true ∧ p.imm.isSome = true ∧ (c.qpAt n).recvs.isEmpty = true) :=
    fun ⟨last, imm, empty⟩ => buffered last imm (List.isEmpty_iff.mp empty)
  have named : ¬ (0 < x.len ∧ r.isNone = true) := fun ⟨some_, none_⟩ => by simp [Option.isNone_iff_eq_none.mp none_] at reached; omega
  simp only [now, message, legal, taken, if_false, ← hr, named, ← hs, hf, he]

/-- A READ whose region can be read is answered, and takes the numbers of its responses. -/
theorem Chip.doRoceRdmaRead_served {sp : Span}
    (reached : 0 < p.len.toNat → (d.qpRegion n p.rkey.toNat p.va.toNat p.len.toNat 1).isSome = true)
    (hs : sp = d.spanLines fdTlb q.ctx p.va.toNat p.len.toNat false) (hf : sp.fault = none)
    (clean : ((d.used fdTlb srcFabric sp).mem.gather sp).2 = none) :
    c.doRoceRdmaRead n p = (((d.used fdTlb srcFabric sp).setQp n { q with
      nakSent := false, epsn := (q.epsn + q.count p.len.toNat) % 2 ^ 24, msn := (q.msn + 1) % 2 ^ 24 }).qpRespond n p
      ((d.used fdTlb srcFabric sp).mem.gather sp).1) := by
  subst hq
  have now : d.qpAt n = { c.qpAt n with nakSent := false } := by rw [hd, Chip.qpAt_setQp_same]
  rw [Chip.doRoceRdmaRead, Chip.qpRequest_inSequence ready whole unmarked _ _ expected, ← hd]
  have named : ¬ (0 < p.len.toNat ∧ (d.qpRegion n p.rkey.toNat p.va.toNat p.len.toNat 1).isNone = true) :=
    fun ⟨some_, none_⟩ => by simp [Option.isNone_iff_eq_none.mp none_] at reached; omega
  have readable : ¬ (sp.fault.isSome = true ∨ ((d.used fdTlb srcFabric sp).mem.gather sp).2.isSome = true) := by simp [hf, clean]
  simp only [Chip.qpServe, now, named, if_false, ← hs, readable, if_true]
  rfl

theorem Chip.doRoceInvalidRequest_refused : c.doRoceInvalidRequest n p = (d.qpNak n q.epsn 0x61).qpError n := by
  subst hq
  have now : d.qpAt n = { c.qpAt n with nakSent := false } := by rw [hd, Chip.qpAt_setQp_same]
  rw [Chip.doRoceInvalidRequest, Chip.qpRequest_inSequence ready whole unmarked _ _ expected, ← hd, Chip.qpRefuse, now]

end InSequence

/-! At the requester (R351, R358) -/

section Requester

variable {c : Chip} {n : Nat} {q : Qp} (hq : q = c.qpAt n) (ready : q.st = .ready)
include hq ready

theorem Chip.doRoceAck_positive {y : BitVec 8} (positive : y.toNat < 32) (psn : BitVec 24) :
    c.doRoceAck n psn y true = c.qpAcked n psn.toNat := by
  subst hq
  rw [Chip.doRoceAck, Chip.qpIn_unmarked ready]
  exact if_pos (by omega)

theorem Chip.doRoceCnp_counted : c.doRoceCnp n true = c.setQp n { q with rate := { q.rate with ce := q.rate.ce + 1 } } := by
  subst hq
  rw [Chip.doRoceCnp, Chip.qpIn_unmarked ready]

/-- A response in sequence settles what went before its READ, and is placed; the last one settles the READ. -/
theorem Chip.doRoceReadResponse_placed {p : RocePkt} {w : Wqe} {d e : Chip} {bs : List Byte} {sp : Span} (whole : p.icrcOk = true)
    (unmarked : p.ce = false) (found : q.readFor p.psn.toNat = some w) (hd : d = c.qpAcked n ((w.psn + 2 ^ 24 - 1) % 2 ^ 24))
    (oldest : (d.qpAt n).wqes.head?.map (·.key) = some w.key) (hb : bs = p.payload.take (w.len - w.got))
    (hs : sp = d.spanLines fdTlb (d.qpAt n).ctx (w.lva + w.got) bs.length true) (hf : sp.fault = none)
    (he : e = ((d.used fdTlb srcFabric sp).scatter sp bs false 0).setQp n { d.qpAt n with
      wqes := (d.qpAt n).wqes.map (fun x => if x.key = w.key then { x with got := w.got + bs.length } else x), tries := 0, rnrTries := 0 }) :
    c.doRoceReadResponse n p = if w.len ≤ w.got + bs.length then e.qpAcked n ((w.psn + w.pkts - 1) % 2 ^ 24) else e := by
  subst hq
  rw [Chip.doRoceReadResponse, whole, unmarked, Chip.qpIn_unmarked ready]
  simp only [found, ← hd, oldest, ← hb, ← hs, hf, ← he, ne_eq, not_true_eq_false, if_false]

section Waiting

variable (waits : q.wqes ≠ [])
include waits

theorem Chip.doRoceTimeout_rnr (delayed : q.rnrWait = true) :
    c.doRoceTimeout n = (c.setQp n { q with rnrWait := false }).qpBack n q.unacked := by
  subst hq
  have due : ¬ ((c.qpAt n).st ≠ .ready ∨ (c.qpAt n).wqes.isEmpty = true) := by simp [ready, waits]
  exact (if_neg due).trans (if_pos delayed)

theorem Chip.doRoceTimeout_expired (undelayed : q.rnrWait = false) (timer : q.texp ≠ 0) : c.doRoceTimeout n =
    ((c.passTo srcFabric (q.sentAt + 6144 * 2 ^ q.texp)).took 1).qpRetry n q.unacked (c.freeVal % 256) := by
  subst hq
  have due : ¬ ((c.qpAt n).st ≠ .ready ∨ (c.qpAt n).wqes.isEmpty = true) := by simp [ready, waits]
  exact (if_neg due).trans ((if_neg (by simp [undelayed])).trans (if_neg timer))

end Waiting

theorem Chip.doRcPeriod_qp {d : Chip} (hd : d = c.passTo srcFabric (q.rate.per + c.rf 0xA00008 17 0)) : c.doRcPeriod n true =
    d.setQp n { q with rate := d.rateStep q.rate (fp32OfNat (d.lineRate q.sub)) q.rate.ce (max q.rate.ce 1) d.fabric } := by
  subst hq hd
  have live : ¬ (c.qpAt n).st ≠ .ready := by simp [ready]
  exact (if_pos rfl).trans (if_neg live)

end Requester

section Responses

variable {s : State} (hl : s.chip.live = true) (n : Fin 4096)
include hl

theorem exec_roceAck (psn : BitVec 24) (y : BitVec 8) (icrcOk : Bool) :
    exec (.roceAck n psn y icrcOk) s = .next (withChip s (s.chip.doRoceAck n.val psn y icrcOk)) :=
  exec_live (fun c => c.doRoceAck n.val psn y icrcOk) hl rfl rfl

theorem exec_roceCnp (icrcOk : Bool) : exec (.roceCnp n icrcOk) s = .next (withChip s (s.chip.doRoceCnp n.val icrcOk)) :=
  exec_live (fun c => c.doRoceCnp n.val icrcOk) hl rfl rfl

theorem exec_roceTimeout : exec (.roceTimeout n) s = .next (withChip s (s.chip.doRoceTimeout n.val)) :=
  exec_live (fun c => c.doRoceTimeout n.val) hl rfl rfl

theorem exec_roceReadResponse (hc : s.calm = true) (p : RocePkt) :
    exec (.roceReadResponse n p) s = .next (withChip s (s.chip.doRoceReadResponse n.val p)) :=
  exec_calm (fun c => c.doRoceReadResponse n.val p) hl hc rfl rfl

end Responses

/-- What a queue pair emits stands with the queue pairs. -/
theorem Chip.qpEmit_eq (c : Chip) (n : Nat) (p : RoceSent) : ∃ l, c.qpEmit n p = c.modRoce (fun r => { r with sent := r.sent ++ l }) := by
  unfold Chip.qpEmit
  split
  · exact ⟨[p], rfl⟩
  · exact ⟨[], by simp [Chip.modRoce]⟩

/-- The package after a marked packet has been answered with CNP. -/
def Chip.cnpSent (c : Chip) (n : Nat) : Chip :=
  (c.setQp n { c.qpAt n with cnpAt := some c.fabric }).qpEmit n { qpn := n, kind := 19, psn := 0, fields := [], payload := [] }

theorem Chip.qpAt_cnpSent (c : Chip) (n : Nat) : (c.cnpSent n).qpAt n = { c.qpAt n with cnpAt := some c.fabric } := by
  obtain ⟨l, emitted⟩ := (c.setQp n { c.qpAt n with cnpAt := some c.fabric }).qpEmit_eq n
    { qpn := n, kind := 19, psn := 0, fields := [], payload := [] }
  rw [Chip.cnpSent, emitted]
  exact Chip.qpAt_setQp_same ..

/-- A CNP leaves a package in service, and what a command would wait for as it was. -/
theorem State.cnpSent_serves {s : State} (hl : s.chip.live = true) (hc : s.calm = true) (n : Nat) :
    (withChip s (s.chip.cnpSent n)).chip.live = true ∧ (withChip s (s.chip.cnpSent n)).calm = true := by
  obtain ⟨l, emitted⟩ := (s.chip.setQp n { s.chip.qpAt n with cnpAt := some s.chip.fabric }).qpEmit_eq n
    { qpn := n, kind := 19, psn := 0, fields := [], payload := [] }
  rw [Chip.cnpSent, emitted]
  exact ⟨hl, hc⟩

/-- A marked SEND is answered with CNP and then met as an unmarked one. -/
theorem exec_roceSend_marked {s : State} (hl : s.chip.live = true) (hc : s.calm = true) {n : Fin 4096} {p : RocePkt}
    (ready : (s.chip.qpAt n.val).st = .ready) (whole : p.icrcOk = true) (unmarked : p.ce = false)
    (due : ∀ t, (s.chip.qpAt n.val).cnpAt = some t → t + cnpCounts ≤ s.chip.fabric) :
    exec (.roceSend n { p with ce := true }) s = exec (.roceSend n p) (withChip s (s.chip.cnpSent n.val)) := by
  obtain ⟨hl', hc'⟩ := State.cnpSent_serves hl hc n.val
  have ready' : ((s.chip.cnpSent n.val).qpAt n.val).st = .ready := by rw [Chip.qpAt_cnpSent]; exact ready
  rw [exec_roceSend hl n _ hc, exec_roceSend hl' n p hc', Chip.doRoceSend, Chip.qpRequest, Chip.doRoceSend, Chip.qpRequest]
  dsimp only [withChip]
  rw [whole, unmarked, Chip.qpIn_marked ready due, Chip.qpIn_unmarked ready']
  rfl

/-- Settles O36: a request is met by the sequence of its queue pair (`Chip.qpRequest_inSequence`, `Chip.qpRequest_ahead`) and then by its
operation; a response or a timer by what the queue pair waits for. -/
theorem roceQueuePairs : Obligations.RoceQueuePairs := by
  refine ⟨?_, ?_⟩
  · rintro s n p q d e sp hl hc hq ready unmarked hd
    have ready_ : (s.chip.qpAt n.val).st = .ready := hq ▸ ready
    refine ⟨fun broken i hi => ?_, fun whole other ahead unsent i hi => ?_, fun whole due => ?_, fun whole expected =>
      ⟨fun empty => ?_, fun b r got oldest begun fits hs hf he => ?_, fun x r begun fits buffered hr reached hs hf he => ?_,
        fun reached hs hf clean => ?_, ?_⟩⟩
    · obtain ⟨again, f, met⟩ := exec_roceRequest hl n p hc hi
      rw [met, Chip.qpRequest, broken, Chip.qpIn_badIcrc ready_, hq]
    · subst hq
      obtain ⟨again, f, met⟩ := exec_roceRequest hl n p hc hi
      rw [met, Chip.qpRequest_ahead ready whole unmarked _ _ other ahead unsent]
    · subst hq
      exact exec_roceSend_marked hl hc ready whole unmarked due
    · rw [exec_roceSend hl n p hc, Chip.doRoceSend_unbuffered hq ready whole unmarked expected hd empty]
    · rw [exec_roceSend hl n p hc, Chip.doRoceSend_placed hq ready whole unmarked expected hd oldest begun fits hs hf he]
    · rw [exec_roceRdmaWrite hl n p hc, Chip.doRoceRdmaWrite_placed hq ready whole unmarked expected hd begun fits buffered hr reached hs hf he]
    · rw [exec_roceRdmaRead hl n p hc, Chip.doRoceRdmaRead_served hq ready whole unmarked expected hd reached hs hf clean]
    · rw [exec_roceInvalidRequest hl, Chip.doRoceInvalidRequest_refused hq ready whole unmarked expected hd]
  · rintro s n p q psn y c hl hq ready
    rw [exec_roceAck hl, exec_roceCnp hl, exec_roceTimeout hl, exec_rcPeriod hl]
    refine ⟨fun positive => ?_, ?_, fun w d e bs sp hc whole unmarked found hd oldest hb hs hf he => ?_, fun waits delayed => ?_,
      fun waits undelayed timer hd => ?_, fun hd => ?_⟩
    · rw [Chip.doRoceAck_positive hq ready positive]
    · rw [Chip.doRoceCnp_counted hq ready]
    · rw [exec_roceReadResponse hl n hc, Chip.doRoceReadResponse_placed hq ready whole unmarked found hd oldest hb hs hf he]
    · rw [Chip.doRoceTimeout_rnr hq ready waits delayed]
    · rw [Chip.doRoceTimeout_expired hq ready waits undelayed timer, hd]
    · rw [Chip.doRcPeriod_qp hq ready hd]

end Sys2Proof.Machine
end

section
/-!
Registers with behaviour of their own: how a write of a whole register is judged field by field (20 R509, 21 R514, R517), what the registers
of rings, ports and periods do (13 R331, 15 R410, 21 R525, R530, R532), and the power registers (18 R461 to R465, R474, R475).
-/

open Sys2Proof

namespace Sys2Proof.Machine

/-! Bit fields (00 R9) -/

theorem bits_eq (v hi lo : Nat) : bits v hi lo = v / 2 ^ lo % 2 ^ (hi + 1 - lo) := by rw [bits, Nat.shiftRight_eq_div_pow]

theorem bits_of_lt {v lo : Nat} (hi : Nat) (h : v < 2 ^ lo) : bits v hi lo = 0 := by
  rw [bits_eq, Nat.div_eq_of_lt h, Nat.zero_mod]

/-- A field that starts at bit 0 and holds the whole number. -/
theorem bits_whole {v hi : Nat} (h : v < 2 ^ (hi + 1)) : bits v hi 0 = v := by simp [bits_eq, Nat.mod_eq_of_lt h]

/-- A field put into a word leaves what is above it and below it. -/
theorem putBits_eq (w lo x : Nat) {n : Nat} (hn : 0 < n) :
    putBits w lo n x = w / 2 ^ (lo + n) * 2 ^ (lo + n) + x % 2 ^ n * 2 ^ lo + w % 2 ^ lo := by
  have width : lo + n - 1 + 1 - lo = n := by omega
  have low := Nat.div_add_mod w (2 ^ lo)
  have high := Nat.div_add_mod (w / 2 ^ lo) (2 ^ n)
  rw [Nat.div_div_eq_div_mul, ← pow_add] at high
  rw [putBits, bits_eq, width]
  have split : w = w / 2 ^ (lo + n) * 2 ^ (lo + n) + w / 2 ^ lo % 2 ^ n * 2 ^ lo + w % 2 ^ lo := by
    calc w = 2 ^ lo * (2 ^ n * (w / 2 ^ (lo + n)) + w / 2 ^ lo % 2 ^ n) + w % 2 ^ lo := by rw [high, low]
      _ = _ := by ring
  omega

/-- The bits from `lo` on of a number, as those above a field and the field. -/
theorem div_eq_above_add_bits (x : Nat) {hi lo : Nat} (h : lo ≤ hi) :
    x / 2 ^ lo * 2 ^ lo = x / 2 ^ (hi + 1) * 2 ^ (hi + 1) + bits x hi lo * 2 ^ lo := by
  have e : lo + (hi + 1 - lo) = hi + 1 := by omega
  have high := Nat.div_add_mod (x / 2 ^ lo) (2 ^ (hi + 1 - lo))
  rw [Nat.div_div_eq_div_mul, ← pow_add, e] at high
  rw [bits_eq]
  calc x / 2 ^ lo * 2 ^ lo
      = (2 ^ (hi + 1 - lo) * (x / 2 ^ (hi + 1)) + x / 2 ^ lo % 2 ^ (hi + 1 - lo)) * 2 ^ lo := by rw [high]
    _ = x / 2 ^ (hi + 1) * 2 ^ (lo + (hi + 1 - lo)) + x / 2 ^ lo % 2 ^ (hi + 1 - lo) * 2 ^ lo := by ring
    _ = _ := by rw [e]

/-- A word that has a number's bits above a field has, once that number's field is put into it, the bits from the field on. -/
theorem putBits_above {w x hi lo : Nat} (h : lo ≤ hi) (above : w / 2 ^ (hi + 1) = x / 2 ^ (hi + 1)) :
    putBits w lo (hi + 1 - lo) (bits x hi lo) = x / 2 ^ lo * 2 ^ lo + w % 2 ^ lo := by
  have e : lo + (hi + 1 - lo) = hi + 1 := by omega
  have small : bits x hi lo % 2 ^ (hi + 1 - lo) = bits x hi lo := by rw [bits_eq, Nat.mod_mod]
  rw [putBits_eq w lo _ (by omega), e, above, small, div_eq_above_add_bits x h]

/-! The fields of a register together (21 R513) -/

/-- The fields lie one under the other, from below bit `n` down to bit 0. -/
def tileFrom : Nat → List Fld → Bool
  | n, [] => n == 0
  | n, f :: r => f.hi + 1 == n && decide (f.lo ≤ f.hi) && tileFrom f.lo r

theorem tileFrom_cons {n : Nat} {f : Fld} {r : List Fld} : tileFrom n (f :: r) = true ↔ f.hi + 1 = n ∧ f.lo ≤ f.hi ∧ tileFrom f.lo r = true := by
  simp [tileFrom, and_assoc]

/-- A word with each field of a list replaced. -/
def putFlds (g : Fld → Nat) (w : Nat) (flds : List Fld) : Nat := flds.foldl (fun acc f => putBits acc f.lo (f.hi + 1 - f.lo) (g f)) w

/-- All the fields of a number put into a word give the number. -/
theorem putFlds_eq {g : Fld → Nat} {x : Nat} {flds : List Fld} (hg : ∀ f ∈ flds, g f = bits x f.hi f.lo) {n w : Nat}
    (tiles : tileFrom n flds = true) (above : w / 2 ^ n = x / 2 ^ n) : putFlds g w flds = x := by
  induction flds generalizing n w with
  | nil =>
    have zero : n = 0 := by simpa [tileFrom] using tiles
    simpa [zero, putFlds] using above
  | cons f r ih =>
    obtain ⟨rfl, ordered, rest⟩ := tileFrom_cons.mp tiles
    have next : putBits w f.lo (f.hi + 1 - f.lo) (g f) / 2 ^ f.lo = x / 2 ^ f.lo := by
      rw [hg f List.mem_cons_self, putBits_above ordered above, mul_comm, Nat.mul_add_div (by positivity)]
      simp [Nat.div_eq_of_lt (Nat.mod_lt w (Nat.two_pow_pos f.lo))]
    exact ih (fun y hy => hg y (List.mem_cons_of_mem f hy)) rest next

/-- A field that the bank holds: every kind but read-only, reserved and write-only. -/
def Fld.banked (f : Fld) : Bool := f.kind != .ro && f.kind != .rsvd && f.kind != .wo

/-- One step of `bankPart`. -/
def bankStep (x acc : Nat) (f : Fld) : Nat := if f.banked then putBits acc f.lo (f.hi + 1 - f.lo) (bits x f.hi f.lo) else acc

theorem bankPart_eq_foldl (flds : List Fld) (x : Nat) : bankPart flds x = flds.foldl (bankStep x) 0 := by
  unfold bankPart
  congr 1
  funext acc f
  cases h : f.kind <;> simp [bankStep, Fld.banked, h]

/-- The bank holds a number whole when the fields that it does not hold are zero. -/
theorem foldl_bankStep {x : Nat} {flds : List Fld} (zero : ∀ f ∈ flds, f.banked = true ∨ bits x f.hi f.lo = 0) {n : Nat}
    (tiles : tileFrom n flds = true) : flds.foldl (bankStep x) (x / 2 ^ n * 2 ^ n) = x := by
  induction flds generalizing n with
  | nil =>
    have zero : n = 0 := by simpa [tileFrom] using tiles
    simp [zero]
  | cons f r ih =>
    obtain ⟨rfl, ordered, rest⟩ := tileFrom_cons.mp tiles
    have step : bankStep x (x / 2 ^ (f.hi + 1) * 2 ^ (f.hi + 1)) f = x / 2 ^ f.lo * 2 ^ f.lo := by
      have aligned : x / 2 ^ (f.hi + 1) * 2 ^ (f.hi + 1) % 2 ^ f.lo = 0 :=
        Nat.mod_eq_zero_of_dvd ((pow_dvd_pow 2 (by omega)).mul_left _)
      by_cases b : f.banked = true
      · rw [bankStep, if_pos b, putBits_above ordered (Nat.mul_div_cancel _ (by positivity)), aligned, add_zero]
      · rw [bankStep, if_neg b, div_eq_above_add_bits x ordered, (zero f List.mem_cons_self).resolve_left b]
        simp
    rw [List.foldl_cons, step]
    exact ih (fun y hy => zero y (List.mem_cons_of_mem f hy)) rest

/-- The fields of the register at an offset cover its 64 bits. -/
abbrev regTiled (off : Nat) : Prop := tileFrom 64 (regFlds off) = true

theorem toBank_eq {off x : Nat} (c : Chip) (tiles : regTiled off) (small : x < 2 ^ 64)
    (zero : ∀ f ∈ regFlds off, f.banked = true ∨ bits x f.hi f.lo = 0) : toBank off c x = c.setReg off x := by
  have all := foldl_bankStep zero tiles
  rw [Nat.div_eq_of_lt small, zero_mul] at all
  rw [toBank, bankPart_eq_foldl, all]

/-! A write of a whole register judged (20 R509, 21 R514, R517) -/

/-- What a field of a write is judged to, with the reason where it is not what was written. -/
def Fld.judged (lock : Fld → Nat → Option (Nat × Nat)) (cur new : Nat) (f : Fld) : Nat × Option Nat :=
  let r := f.kind.judge f.lo (bits cur f.hi f.lo) (bits new f.hi f.lo)
  match lock f r.1 with
  | some (x, why) => (x, some why)
  | none => r

/-- The entry of the report log for a field that is not applied as written. -/
def Fld.entry (f : Fld) (why : Nat) : Nat × Nat × Nat := (why, f.lo, f.hi + 1 - f.lo)

/-- One step of `judgeWrite`. -/
def judgeStep (lock : Fld → Nat → Option (Nat × Nat)) (cur new : Nat) (j : Judged) (f : Fld) : Judged :=
  { value := putBits j.value f.lo (f.hi + 1 - f.lo) (f.judged lock cur new).1
    logs := match (f.judged lock cur new).2 with | some why => j.logs ++ [f.entry why] | none => j.logs }

theorem foldl_judgeStep (lock : Fld → Nat → Option (Nat × Nat)) (cur new : Nat) (flds : List Fld) (j : Judged) :
    flds.foldl (judgeStep lock cur new) j =
      { value := putFlds (fun f => (f.judged lock cur new).1) j.value flds
        logs := j.logs ++ flds.filterMap (fun f => (f.judged lock cur new).2.map f.entry) } := by
  induction flds generalizing j with
  | nil => simp [putFlds]
  | cons f r ih =>
    rw [List.foldl_cons, ih]
    cases h : (f.judged lock cur new).2 <;> simp [judgeStep, putFlds, h]

theorem judgeWrite_none (flds : List Fld) (cur new : Nat) (lock : Fld → Nat → Option (Nat × Nat)) :
    judgeWrite flds cur new none lock = flds.foldl (judgeStep lock cur new) { value := cur, logs := [] } := by
  have all : flds.filter (covered none) = flds := List.filter_eq_self.mpr fun _ _ => rfl
  rw [judgeWrite, all]
  rfl

section Whole

variable {c : Chip} {off v : Nat} {a : SetupAcc} (whole : wholeWrite a v) (tiles : regTiled off)
  {lock : Fld → Nat → Option (Nat × Nat)} {apply : Chip → Nat → Chip}
include whole tiles

/-- A write whose fields are judged to those of a number applies that number, and reports the fields that differ. -/
theorem Chip.regStore_judged {x : Nat} (small : x < 2 ^ 64)
    (judged : ∀ f ∈ regFlds off, (f.judged lock (c.regRead off % 2 ^ 64) v).1 = bits x f.hi f.lo) :
    c.regStore off a lock apply = (apply c x).report off a
      ((regFlds off).filterMap (fun f => (f.judged lock (c.regRead off % 2 ^ 64) v).2.map f.entry)) := by
  obtain ⟨half, rfl, reaches⟩ := whole
  have unsplit : (regFlds off).find? (splits none) = none := List.find?_eq_none.mpr fun _ _ => by simp [splits]
  have above : c.regRead off % 2 ^ 64 / 2 ^ 64 = x / 2 ^ 64 := by
    rw [Nat.div_eq_of_lt (Nat.mod_lt _ (by decide)), Nat.div_eq_of_lt small]
  unfold Chip.regStore
  simp only [reaches, half, unsplit, accValue, judgeWrite_none, foldl_judgeStep, List.nil_append, putFlds_eq judged tiles above]
  rfl

/-- A field takes its part of a number as written, whatever it held. -/
def Fld.takes (f : Fld) (v : Nat) : Prop := ∀ old, f.kind.judge f.lo old (bits v f.hi f.lo) = (bits v f.hi f.lo, none)

omit whole tiles in
theorem Fld.judged_of_takes {f : Fld} (takes : f.takes v) (free : lock f (bits v f.hi f.lo) = none) (cur : Nat) :
    f.judged lock cur v = (bits v f.hi f.lo, none) := by
  simp [Fld.judged, takes _, free]

/-- A write that every field takes is applied as written, and nothing is reported. -/
theorem Chip.regStore_taken (takes : ∀ f ∈ regFlds off, f.takes v) (free : ∀ f ∈ regFlds off, lock f (bits v f.hi f.lo) = none) :
    c.regStore off a lock apply = apply c v := by
  have judged f (hf : f ∈ regFlds off) := Fld.judged_of_takes (takes f hf) (free f hf) (c.regRead off % 2 ^ 64)
  have small : v < 2 ^ 64 := whole.2.1 ▸ a.value.isLt
  rw [Chip.regStore_judged whole tiles small fun f hf => by rw [judged f hf]]
  have none_differ : (regFlds off).filterMap (fun f => (f.judged lock (c.regRead off % 2 ^ 64) v).2.map f.entry) = [] :=
    List.filterMap_eq_nil_iff.mpr fun f hf => by rw [judged f hf]; rfl
  rw [none_differ]
  rfl

end Whole

/-! What each kind of field takes (20 R509) -/

theorem takes_fAny (v : Nat) {hi lo : Nat} : (fAny hi lo).takes v := by
  intro old
  have top : ¬ 2 ^ (hi + 1 - lo) - 1 < bits v hi lo := by
    have := Nat.mod_lt (v / 2 ^ lo) (Nat.two_pow_pos (hi + 1 - lo))
    rw [bits_eq]; omega
  simp [fAny, FldKind.judge, top]

theorem takes_fWo (v hi lo : Nat) : (fWo hi lo).takes v := fun _ => rfl

theorem takes_fRsv {v hi lo : Nat} (h : bits v hi lo = 0) : (fRsv hi lo).takes v := fun _ => by simp [fRsv, FldKind.judge, h]

theorem takes_fNum {v hi lo x y : Nat} (hx : x ≤ bits v hi lo) (hy : bits v hi lo ≤ y) : (fNum hi lo x y).takes v := fun _ => by
  simp [fNum, FldKind.judge, not_lt.mpr hx, not_lt.mpr hy]

theorem takes_codes {v hi lo : Nat} (hw : hi + 1 - lo = 2) (h : bits v hi lo ≠ 3) : Fld.takes ⟨hi, lo, .codes [0, 1, 2]⟩ v := fun _ => by
  have width : bits v hi lo < 4 := by rw [bits_eq, hw]; omega
  have listed : bits v hi lo = 0 ∨ bits v hi lo = 1 ∨ bits v hi lo = 2 := by omega
  simp [FldKind.judge, listed]

/-- A field takes its part of a number, and the bank holds it. -/
def Fld.stores (f : Fld) (v : Nat) : Prop := f.takes v ∧ (f.banked = true ∨ bits v f.hi f.lo = 0)

theorem stores_fAny (v : Nat) {hi lo : Nat} : (fAny hi lo).stores v := ⟨takes_fAny v, .inl rfl⟩

theorem stores_fRsv {v hi lo : Nat} (h : bits v hi lo = 0) : (fRsv hi lo).stores v := ⟨takes_fRsv h, .inr h⟩

theorem stores_fNum {v hi lo x y : Nat} (hx : x ≤ bits v hi lo) (hy : bits v hi lo ≤ y) : (fNum hi lo x y).stores v :=
  ⟨takes_fNum hx hy, .inl rfl⟩

theorem stores_codes {v hi lo : Nat} (hw : hi + 1 - lo = 2) (h : bits v hi lo ≠ 3) : Fld.stores ⟨hi, lo, .codes [0, 1, 2]⟩ v :=
  ⟨takes_codes hw h, .inl rfl⟩

/-- The reserved part and the two-bit fields of a register of `n` states. -/
def codeFlds (n : Nat) : List Fld :=
  fRsv 63 (2 * n) :: (List.range n).map (fun i => { hi := 2 * n - 1 - 2 * i, lo := 2 * n - 2 - 2 * i, kind := .codes [0, 1, 2] })

theorem codeFlds_store {v n : Nat} (ok : codesOk v n) : ∀ f ∈ codeFlds n, f.stores v := by
  obtain ⟨small, states⟩ := ok
  refine List.forall_mem_cons.mpr ⟨stores_fRsv (bits_of_lt _ (by rwa [pow_mul])), List.forall_mem_map.mpr fun i hi => ?_⟩
  have hi := List.mem_range.mp hi
  have state := states (n - 1 - i) (by omega)
  rw [show 2 * (n - 1 - i) + 1 = 2 * n - 1 - 2 * i by omega, show 2 * (n - 1 - i) = 2 * n - 2 - 2 * i by omega] at state
  exact stores_codes (by omega) state

section Stored

variable {c : Chip} {off v : Nat} {a : SetupAcc} (whole : wholeWrite a v) (tiles : regTiled off) (stores : ∀ f ∈ regFlds off, f.stores v)
  {lock : Fld → Nat → Option (Nat × Nat)} {apply : Chip → Nat → Chip}
include whole tiles stores

/-- A write that every field takes, none of them locked, is applied as written. -/
theorem Chip.regStore_stored (free : ∀ f ∈ regFlds off, lock f (bits v f.hi f.lo) = none) : c.regStore off a lock apply = apply c v :=
  Chip.regStore_taken whole tiles (fun f hf => (stores f hf).1) free

theorem toBank_stored : toBank off c v = c.setReg off v :=
  toBank_eq c tiles (whole.2.1 ▸ a.value.isLt) fun f hf => (stores f hf).2

/-- A register without further effect keeps the value in the bank. -/
theorem Chip.regStore_bank (free : ∀ f ∈ regFlds off, lock f (bits v f.hi f.lo) = none) :
    c.regStore off a lock (toBank off) = c.setReg off v := by
  rw [Chip.regStore_stored whole tiles stores free, toBank_stored whole tiles stores]

end Stored

/-! What a report leaves unchanged (20 R510) -/

theorem Chip.ringPut_cfgNext (c : Chip) (e : Event) : (c.ringPut e).1.log.cfgNext = c.log.cfgNext := by
  unfold Chip.ringPut
  dsimp only
  split
  · rfl
  · split
    · rw [Chip.setGevent_log]; rfl
    · split
      · rw [Chip.post_log]; rfl
      · rfl

theorem Chip.winNote_cfgNext (c : Chip) (code : Ev) (key : List Nat) (w : Nat) : (c.winNote code key w).1.log.cfgNext = c.log.cfgNext := by
  unfold Chip.winNote
  split
  · dsimp only
    split <;> rfl
  · rfl

/-- An entry of the event log is none of the report log. -/
theorem Chip.ringEvent_cfgNext (c : Chip) (e : Event) : (c.ringEvent e).log.cfgNext = c.log.cfgNext := by
  have noted := (Chip.winNote_cfgNext (c.ringPut e).1 .addrUnbacked [srcPower] (c.dispatch / 1000000)).trans (c.ringPut_cfgNext e)
  unfold Chip.ringEvent
  dsimp only
  split
  · exact c.ringPut_cfgNext e
  · split
    · exact noted
    · exact (Chip.ringPut_cfgNext ..).trans noted

section Report

variable (c : Chip) (off address written applied reason lsb width writer : Nat) (a : SetupAcc)

theorem Chip.logged_cfgReport : c.Logged (c.cfgReport address written applied reason lsb width writer) := by
  unfold Chip.cfgReport
  dsimp only
  refine Chip.Logged.trans ?_ (Chip.logged_setGevent ..)
  split
  · exact c.logged_modLog _
  · exact (c.logged_modLog _).trans (Chip.logged_ringEvent ..)

/-- A report takes the next sequence number. -/
theorem Chip.cfgReport_cfgNext :
    (c.cfgReport address written applied reason lsb width writer).log.cfgNext = (c.log.cfgNext + 1) % 2 ^ 32 := by
  unfold Chip.cfgReport
  rw [Chip.setGevent_log]
  dsimp only [LogState.flag]
  split
  · rfl
  · rw [Chip.ringEvent_cfgNext]; rfl

theorem Chip.logged_report (logs : List (Nat × Nat × Nat)) : c.Logged (c.report off a logs) :=
  Chip.logged_foldl (fun _ _ => Chip.logged_cfgReport ..) logs c

theorem Chip.report_one_cfgNext (e : Nat × Nat × Nat) : (c.report off a [e]).log.cfgNext = (c.log.cfgNext + 1) % 2 ^ 32 :=
  Chip.cfgReport_cfgNext ..

end Report

/-! The bank (21 R513) -/

theorem Chip.rf_setReg (c : Chip) (off x hi lo : Nat) : (c.setReg off x).rf off hi lo = bits (x % 2 ^ 64) hi lo := by
  simp [Chip.rf, Chip.rw, Chip.setReg, Chip.modRegs]

/-- A field below bit `n` does not see the bits from there on. -/
theorem bits_mod {hi n : Nat} (w lo : Nat) (h : hi < n) : bits (w % 2 ^ n) hi lo = bits w hi lo := by
  by_cases ordered : lo ≤ n
  · have e : 2 ^ n = 2 ^ lo * 2 ^ (n - lo) := by rw [← pow_add]; congr 1; omega
    rw [bits_eq, bits_eq, e, Nat.mod_mul_right_div_self, Nat.mod_mod_of_dvd _ (pow_dvd_pow 2 (by omega))]
  · have empty : hi + 1 - lo = 0 := by omega
    simp [bits_eq, empty, Nat.mod_one]

/-! Rings (21 R525) -/

section Rings

variable (c : Chip) {a : SetupAcc} {v : Nat} (whole : wholeWrite a v)

theorem baseFlds_store (aligned : v % 4096 = 0) (small : v < 2 ^ 42) : ∀ f ∈ [fRsv 63 42, fAny 41 12, fRsv 11 0], f.stores v := by
  have low : bits v 11 0 = 0 := by simpa [bits_eq] using aligned
  exact List.forall_mem_cons.mpr ⟨stores_fRsv (bits_of_lt 63 small),
    List.forall_mem_cons.mpr ⟨stores_fAny v, List.forall_mem_singleton.mpr (stores_fRsv low)⟩⟩

include whole

theorem Chip.doTeleBase_aligned (aligned : v % 4096 = 0) (small : v < 2 ^ 42) :
    c.doTeleBase a = (c.setReg 0x500000 v).modPow (fun p => { p with teleSeq := 0 }) := by
  have stores : ∀ f ∈ regFlds 0x500000, f.stores v := baseFlds_store aligned small
  rw [Chip.doTeleBase, Chip.regStore_stored whole (by decide) stores fun _ _ => rfl, toBank_stored whole (by decide) stores]

theorem Chip.doLogBase_base (aligned : v % 4096 = 0) (small : v < 2 ^ 42) :
    c.doLogBase false a = c.modLog (fun l => { l with logBase := v, tail := 0, head := 0 }) := by
  have stores : ∀ f ∈ regFlds 0x500018, f.stores v := baseFlds_store aligned small
  rw [Chip.doLogBase, if_neg (by decide), Chip.regStore_stored whole (by decide) stores fun _ _ => rfl]

theorem Chip.doLogBase_size (least : 8 ≤ v % 2 ^ 63) (most : v % 2 ^ 63 ≤ 16) :
    c.doLogBase true a = c.modLog (fun l => { l with logEn := bit v 63, logLog2 := v % 32, tail := 0, head := 0 }) := by
  have between : bits v 62 5 = 0 := by rw [bits_eq]; omega
  have size : bits v 4 0 = v % 2 ^ 63 := by rw [bits_eq]; omega
  have stores : ∀ f ∈ regFlds 0x500020, f.stores v :=
    List.forall_mem_cons.mpr ⟨stores_fAny v, List.forall_mem_cons.mpr ⟨stores_fRsv between,
      List.forall_mem_singleton.mpr (stores_fNum (size ▸ least) (size ▸ most))⟩⟩
  rw [Chip.doLogBase, if_pos rfl, Chip.regStore_stored whole (by decide) stores fun _ _ => rfl]
  simp [whole.1]

/-- LOG_HEAD takes a value between its own and LOG_TAIL. -/
theorem Chip.doLogHead_between (small : v < 2 ^ 32) (between : sub32 v c.log.head ≤ sub32 c.log.tail c.log.head) :
    c.doLogHead a = c.modLog (fun l => { l with head := v }) := by
  have value : bits v 31 0 = v := bits_whole small
  have stores : ∀ f ∈ regFlds 0x500030, f.stores v :=
    List.forall_mem_cons.mpr ⟨stores_fRsv (bits_of_lt 63 small), List.forall_mem_singleton.mpr (stores_fAny v)⟩
  rw [Chip.doLogHead, Chip.regStore_stored whole (by decide) stores]
  · rw [Nat.mod_eq_of_lt small]
  · show ∀ f ∈ [fRsv 63 32, fAny 31 0], _
    simp [fRsv, fAny, value, between]

end Rings

/-! Registers with one field above a reserved part -/

section Low

variable {c : Chip} {off v n : Nat} {f : Fld} {a : SetupAcc} (whole : wholeWrite a v) (tiles : regTiled off) (one : regFlds off = [fRsv 63 n, f])
  (low : f.lo = 0) (high : f.hi + 1 = n) {lock : Fld → Nat → Option (Nat × Nat)} {apply : Chip → Nat → Chip}
include whole tiles one low high

/-- A value that the field does not take is replaced, and the replacement is reported. -/
theorem Chip.regStore_low_reported {x why : Nat} (hn : n ≤ 64) (small : v < 2 ^ n) (fits : x < 2 ^ n) (free : lock (fRsv 63 n) 0 = none)
    (judged : f.judged lock (c.regRead off % 2 ^ 64) v = (x, some why)) :
    c.regStore off a lock apply = (apply c x).report off a [f.entry why] := by
  have reserved cur : (fRsv 63 n).judged lock cur v = (0, none) := by
    have zero : bits v 63 n = 0 := bits_of_lt _ small
    exact (Fld.judged_of_takes (takes_fRsv zero) (zero.symm ▸ free) cur).trans (congrArg (·, none) zero)
  have field : bits x f.hi f.lo = x := by rw [low]; exact bits_whole (high ▸ fits)
  rw [Chip.regStore_judged whole tiles (fits.trans_le (Nat.pow_le_pow_right (by decide) hn)), one]
  · simp only [List.filterMap_cons, reserved, judged, Option.map_none, Option.map_some, List.filterMap_nil]
  · rw [one]
    refine List.forall_mem_cons.mpr ⟨?_, List.forall_mem_singleton.mpr ?_⟩
    · rw [reserved]; exact (bits_of_lt _ fits).symm
    · rw [judged, field]

omit whole low high in
theorem toBank_low {x : Nat} (hn : n ≤ 64) (fits : x < 2 ^ n) (banked : f.banked = true) : toBank off c x = c.setReg off x := by
  refine toBank_eq c tiles (fits.trans_le (Nat.pow_le_pow_right (by decide) hn)) ?_
  simp [one, banked, bits_of_lt _ fits, fRsv]

end Low

/-! Ports (13 R331, 21 R530) -/

/-- A field locked at its value keeps it, whatever is written. -/
theorem Fld.judged_kept {f : Fld} {lock : Fld → Nat → Option (Nat × Nat)} {cur new old : Nat}
    (locked : ∀ x, x ≠ old → ∃ why, lock f x = some (old, why)) (same : lock f old = none) : (f.judged lock cur new).1 = old := by
  unfold Fld.judged
  by_cases h : (f.kind.judge f.lo (bits cur f.hi f.lo) (bits new f.hi f.lo)).1 = old
  · simp [h, same]
  · obtain ⟨why, he⟩ := locked _ h
    simp [he]

section Ports

variable {c : Chip} {a : SetupAcc} {v : Nat} (whole : wholeWrite a v)
include whole

theorem Chip.doMode_allDown (codes : codesOk v 8) (down : ∀ k < 32, (c.portAt k).up = false) : c.doMode a = c.setReg 0xA00010 v := by
  have stores : ∀ f ∈ regFlds 0xA00010, f.stores v := codeFlds_store codes
  refine Chip.regStore_bank whole (by decide) stores ?_
  show ∀ f ∈ codeFlds 8, _
  refine List.forall_mem_cons.mpr ⟨by simp [fRsv], List.forall_mem_map.mpr fun i _ => if_neg ?_⟩
  have quiet s (hs : s < 4) : (c.portAt (2 * (2 * 8 - 2 - 2 * i) + s)).up = false := down _ (by omega)
  rintro ⟨-, -, anyUp⟩
  rw [List.any_eq_true] at anyUp
  obtain ⟨s, listed, up⟩ := anyUp
  rw [quiet s (by simp at listed; omega)] at up
  exact Bool.false_ne_true up

/-- A port with a sub-port that is up keeps its mode. -/
theorem Chip.doMode_allUp (codes : codesOk v 8) (up : ∀ k < 32, (c.portAt k).up = true) :
    ∃ logs, c.doMode a = (c.setReg 0xA00010 (c.rw 0xA00010 % 2 ^ 16)).report 0xA00010 a logs := by
  have fits : c.rw 0xA00010 % 2 ^ 16 < 2 ^ 16 := Nat.mod_lt _ (by decide)
  have banked : toBank 0xA00010 c (c.rw 0xA00010 % 2 ^ 16) = c.setReg 0xA00010 (c.rw 0xA00010 % 2 ^ 16) := by
    refine toBank_eq c (by decide) (fits.trans (by decide)) ?_
    show ∀ f ∈ codeFlds 8, _
    exact List.forall_mem_cons.mpr ⟨.inr (bits_of_lt _ fits), List.forall_mem_map.mpr fun _ _ => .inl rfl⟩
  refine ⟨_, (Chip.regStore_judged whole (by decide) (fits.trans (by decide)) ?_).trans (by rw [banked])⟩
  show ∀ f ∈ codeFlds 8, _
  refine List.forall_mem_cons.mpr ⟨?_, List.forall_mem_map.mpr fun i _ => ?_⟩
  · have zero : bits v 63 16 = 0 := bits_of_lt _ codes.1
    rw [Fld.judged_of_takes (takes_fRsv zero) (by simp [fRsv])]
    exact zero.trans (bits_of_lt _ fits).symm
  · have old (n : Nat) (h : 15 < n) :
        bits (c.rw 0xA00010 % 2 ^ n) (2 * 8 - 1 - 2 * i) (2 * 8 - 2 - 2 * i) = c.rf 0xA00010 (2 * 8 - 1 - 2 * i) (2 * 8 - 2 - 2 * i) :=
      bits_mod _ _ (by omega)
    rw [old 16 (by decide)]
    have port : [0, 1, 2, 3].any (fun s => (c.portAt (2 * (2 * 8 - 2 - 2 * i) + s)).up) = true :=
      List.any_eq_true.mpr ⟨0, by simp, up _ (by omega)⟩
    exact Fld.judged_kept (fun x other => ⟨7, if_pos ⟨by dsimp only; omega, other, port⟩⟩) (if_neg fun locked => locked.2.1 rfl)

theorem Chip.doHaulUdp_allDown (least : 1024 ≤ v) (most : v < 65536) (own : v ≠ 4791) (down : ∀ k < 32, (c.portAt k).up = false) :
    c.doHaulUdp a = c.setReg 0xA00000 v := by
  have value : bits v 15 0 = v := bits_whole most
  have none_up : (List.range 32).any (fun k => (c.portAt k).up) = false :=
    List.any_eq_false.mpr fun k hk => by simp [down k (List.mem_range.mp hk)]
  have stores : ∀ f ∈ regFlds 0xA00000, f.stores v :=
    List.forall_mem_cons.mpr ⟨stores_fRsv (bits_of_lt 63 (lo := 16) most),
      List.forall_mem_singleton.mpr (stores_fNum (value.symm ▸ least) (value.symm ▸ Nat.le_of_lt_succ most))⟩
  refine Chip.regStore_bank whole (by decide) stores ?_
  show ∀ f ∈ [fRsv 63 16, fNum 15 0 1024 65535], _
  simp only [List.forall_mem_cons, fRsv, fNum, value, own, none_up]
  simp

end Ports

theorem Chip.haulUdp_lt (c : Chip) : c.haulUdp < 2 ^ 16 := by
  unfold Chip.haulUdp Chip.rf
  rw [bits_eq]
  exact Nat.mod_lt _ (by decide)

/-- RoCEv2's port is refused for HAUL_UDP, and the refusal is reported. -/
theorem Chip.doHaulUdp_roce {c : Chip} {a : SetupAcc} (whole : wholeWrite a 4791) (other : c.haulUdp ≠ 4791) :
    ∃ e, c.doHaulUdp a = (c.setReg 0xA00000 c.haulUdp).report 0xA00000 a [e] := by
  have fits := c.haulUdp_lt
  have one : regFlds 0xA00000 = [fRsv 63 16, fNum 15 0 1024 65535] := rfl
  have value : bits 4791 15 0 = 4791 := by decide
  refine ⟨(fNum 15 0 1024 65535).entry 7, ?_⟩
  rw [Chip.doHaulUdp, Chip.regStore_low_reported (x := c.haulUdp) (why := 7) whole (by decide) one rfl rfl (by decide) (by decide) fits,
    toBank_low (by decide) one (by decide) fits rfl]
  · simp [fRsv]
  · simp [Fld.judged, fNum, FldKind.judge, value, other.symm]

/-! Periodic queues (15 R410, 21 R532) -/

theorem regFlds_period {r : Nat} (hr : r < 1024) : regFlds (0xC00000 + 8 * r) = [fRsv 63 40, fNum 39 32 1 255, fAny 31 0] := by
  unfold regFlds portFlds
  rw [if_neg (by omega), if_neg (by omega), if_neg (by omega), if_neg (by omega), if_neg (by omega), if_neg (by omega),
    if_neg (by omega), if_neg (by omega), if_pos (by omega)]

section Period

variable {c : Chip} {a : SetupAcc} {r items p : Nat} (hr : r < 1024) (least : 1 ≤ items) (most : items ≤ 255)
include hr least most

/-- The present period begins with a write of PERIOD and ITEMS. -/
theorem Chip.doPeriod_begins (whole : wholeWrite a (items * 2 ^ 32 + p)) (legal : p = 0 ∨ 10 ≤ p ∧ p ≤ 10000000) (none_now : c.sqPeriod r = 0) :
    c.doPeriod r a = ((c.setReg (0xC00000 + 8 * r) (items * 2 ^ 32 + p)).setSq r
      { c.sqAt r with perSince := c.dispatch, perUsed := 0 }).pump r := by
  have flds := regFlds_period hr
  have tiles : regTiled (0xC00000 + 8 * r) := by rw [regTiled, flds]; decide
  have above : bits (items * 2 ^ 32 + p) 63 40 = 0 := by rw [bits_eq]; omega
  have count : bits (items * 2 ^ 32 + p) 39 32 = items := by rw [bits_eq]; omega
  have period : bits (items * 2 ^ 32 + p) 31 0 = p := by rw [bits_eq]; omega
  have stores : ∀ f ∈ regFlds (0xC00000 + 8 * r), f.stores (items * 2 ^ 32 + p) := by
    rw [flds]
    exact List.forall_mem_cons.mpr ⟨stores_fRsv above,
      List.forall_mem_cons.mpr ⟨stores_fNum (count.symm ▸ least) (count.symm ▸ most), List.forall_mem_singleton.mpr (stores_fAny _)⟩⟩
  rw [Chip.doPeriod, Chip.regStore_stored whole tiles stores, toBank_stored whole tiles stores]
  · simp only [none_now, ne_eq, not_true_eq_false, if_false]
    rfl
  · rw [flds]
    have notShort : ¬ (1 ≤ p ∧ p < 10) := by omega
    have notLong : ¬ 10000000 < p := by omega
    simp only [List.forall_mem_cons, fRsv, fNum, fAny, period]
    simp [notShort, notLong]

end Period

/-! Commanded power states (18 R461 to R465) -/

section Commanded

variable (c : Chip) {a : SetupAcc} {v : Nat} (whole : wholeWrite a v)

/-- What ENVELOPE_W is judged to, and why it differs from the value written (18 R465). -/
theorem judge_envelope (lo old : Nat) : ∃ why, (FldKind.step 1000 3000 5).judge lo old v = (clampW v, why) ∧
    (why = none ↔ 1000 ≤ v ∧ v ≤ 3000 ∧ v % 5 = 0) := by
  unfold FldKind.judge clampW clampN
  dsimp only
  by_cases low : v < 1000
  · exact ⟨some 1, by simp [low], by simp; omega⟩
  by_cases high : 3000 < v
  · exact ⟨some 2, by simp [low, high], by simp; omega⟩
  by_cases step : v % 5 = 0
  · exact ⟨none, by simp [low, high, step], by simp; omega⟩
  · exact ⟨some 3, by simp [low, high, step], by simp [step]⟩

theorem clampW_lt (v : Nat) : clampW v < 2 ^ 16 := by
  unfold clampW
  rw [clampN_eq_max_min (by decide)]
  dsimp only
  omega

include whole

theorem Chip.doEnvelopeW_legal (least : 1000 ≤ v) (most : v ≤ 3000) (step : v % 5 = 0) : c.doEnvelopeW a = c.setReg 0x400000 v := by
  have small : v < 2 ^ 16 := by omega
  have field : Fld.takes ⟨15, 0, .step 1000 3000 5⟩ v := fun _ => by
    simp [bits_whole small, FldKind.judge, not_lt.mpr least, not_lt.mpr most, step]
  have stores : ∀ f ∈ regFlds 0x400000, f.stores v :=
    List.forall_mem_cons.mpr ⟨stores_fRsv (bits_of_lt 63 small), List.forall_mem_singleton.mpr ⟨field, .inl rfl⟩⟩
  exact Chip.regStore_bank whole (by decide) stores fun _ _ => rfl

/-- An envelope that is out of range or off the step is rounded and clamped, and reported. -/
theorem Chip.doEnvelopeW_clamped (small : v < 65536) (illegal : v < 1000 ∨ 3000 < v ∨ v % 5 ≠ 0) :
    ∃ e, c.doEnvelopeW a = (c.setReg 0x400000 (clampW v)).report 0x400000 a [e] := by
  have one : regFlds 0x400000 = [fRsv 63 16, ⟨15, 0, .step 1000 3000 5⟩] := rfl
  have value : bits v 15 0 = v := bits_whole small
  obtain ⟨why, judged, legal⟩ := judge_envelope (v := v) 0 (bits (c.regRead 0x400000 % 2 ^ 64) 15 0)
  obtain ⟨n, rfl⟩ := Option.ne_none_iff_exists'.mp fun h => absurd (legal.mp h) (by omega)
  refine ⟨Fld.entry ⟨15, 0, .step 1000 3000 5⟩ n, ?_⟩
  rw [Chip.doEnvelopeW, Chip.regStore_low_reported (x := clampW v) (why := n) whole (by decide) one rfl rfl (by decide) small (clampW_lt v) rfl,
    toBank_low (by decide) one (by decide) (clampW_lt v) rfl]
  simp only [Fld.judged, noLock, value, judged]

theorem Chip.doTileGroup_codes (codes : codesOk v 20) : c.doTileGroup a = (c.setReg 0x400060 v).groupsApply := by
  have stores : ∀ f ∈ regFlds 0x400060, f.stores v := codeFlds_store codes
  rw [Chip.doTileGroup, Chip.regStore_stored whole (by decide) stores fun _ _ => rfl, toBank_stored whole (by decide) stores]

theorem Chip.doCoreOff_whole :
    c.doCoreOff a = (List.range 64).foldl (fun c k => c.corePower k (bit v k)) (c.setReg 0x400068 v) := by
  have stores : ∀ f ∈ regFlds 0x400068, f.stores v := List.forall_mem_singleton.mpr (stores_fAny v)
  rw [Chip.doCoreOff, Chip.regStore_stored whole (by decide) stores fun _ _ => rfl, toBank_stored whole (by decide) stores]

theorem Chip.srStore_legal (small : v < 2 ^ 13) : c.srStore a = (c.setReg 0x400070 v).serveAll := by
  have stores : ∀ f ∈ regFlds 0x400070, f.stores v :=
    List.forall_mem_cons.mpr ⟨stores_fRsv (bits_of_lt 63 small),
      List.forall_mem_cons.mpr ⟨stores_fAny v, List.forall_mem_singleton.mpr (stores_fAny v)⟩⟩
  rw [Chip.srStore, Chip.regStore_stored whole (by decide) stores fun _ _ => rfl, toBank_stored whole (by decide) stores]

theorem Chip.doSubportDis_legal (small : v < 2 ^ 32) :
    c.doSubportDis a = (List.range 32).foldl (fun c k => if bit v k then c.portFails k .portDisabled else c) (c.setReg 0x400078 v) := by
  have stores : ∀ f ∈ regFlds 0x400078, f.stores v :=
    List.forall_mem_cons.mpr ⟨stores_fRsv (bits_of_lt 63 small), List.forall_mem_singleton.mpr (stores_fAny v)⟩
  rw [Chip.doSubportDis, Chip.regStore_stored whole (by decide) stores fun _ _ => rfl, toBank_stored whole (by decide) stores]

end Commanded

/-! Host cores without power (18 R463, 01 R26) -/

theorem tabGet_filter_none {α : Type} (d : α) (t : Tab α) (p : Nat × α → Bool) (i : Nat) (gone : ∀ x, p (i, x) = false) :
    tabGet d (t.filter p) i = d := by
  induction t with
  | nil => rfl
  | cons e r ih =>
    obtain ⟨k, x⟩ := e
    by_cases kept : p (k, x) = true
    · have other : k ≠ i := fun h => by simp [h ▸ gone x] at kept
      simp [kept, tabGet, other, ih]
    · simp [kept, ih]

/-- The interrupt side of a package with a core in OFF: its timers stopped, its files empty. -/
def Irq.coreOff (q : Irq) (k : Nat) : Irq :=
  { q with core := tabSet q.core k .off, timer := tabDel q.timer k, pending := q.pending.filter (fun p => p.1 / 8 != k) }

theorem Chip.islandOff_irq (c : Chip) (src : Nat) : (c.islandOff src).irq = c.irq := by
  unfold Chip.islandOff
  split <;> rfl

theorem Chip.island_islandOff (c : Chip) (src : Nat) : ((c.islandOff src).island src).on = false := by
  unfold Chip.islandOff
  split
  · simp [Chip.island, Chip.setIsland, Chip.modClk]
  · simpa using ‹¬ (c.island src).on = true›

theorem Chip.corePower_off {c : Chip} {k : Nat} (active : c.coreSt k = .active) :
    c.corePower k true = ((c.modMem (fun m => m.emptyCache k)).modIrq (fun q => q.coreOff k)).islandOff (srcCore k) := by
  simp [Chip.corePower, active, Irq.coreOff]

/-- A core put into OFF has nothing pending, and its island no power. -/
theorem Chip.corePower_off_state {c : Chip} {k : Nat} (active : c.coreSt k = .active) :
    (c.corePower k true).coreSt k = .off ∧ (∀ f < 8, (c.corePower k true).pendingIds k f = []) ∧
      ((c.corePower k true).island (srcCore k)).on = false := by
  rw [Chip.corePower_off active]
  refine ⟨?_, fun f hf => ?_, Chip.island_islandOff ..⟩
  · rw [Chip.coreSt, Chip.islandOff_irq]
    exact tabGet_tabSet_same ..
  · rw [Chip.pendingIds, Chip.islandOff_irq]
    refine tabGet_filter_none _ _ _ _ fun x => ?_
    have own : (8 * k + f) / 8 = k := by omega
    simp [own]

/-! Facility cap requests (18 R474, R475) -/

theorem Chip.doFacCapReq_aon {c : Chip} (aon : c.boot.aon = true) (live : c.live = true) (w : BitVec 32) :
    c.doFacCapReq w = (c.modPow (fun p =>
      { p with capW := clampW w.toNat, capId := (p.capId + 1) % 65536, capAnswer := 0 })).setGevent 0 := by
  simp [Chip.doFacCapReq, aon, live]

section CapAck

variable {c : Chip} {a : SetupAcc} {v : Nat} (whole : wholeWrite a v) (small : v < 2 ^ 17)
include whole small

/-- The answer to the current request is taken. -/
theorem Chip.doFacCapAck_current (current : v % 65536 = c.pow.capId) :
    c.doFacCapAck a = c.modPow (fun p => { p with capAnswer := if 65536 ≤ v then 1 else 2 }) := by
  have value : accValue 0 a = v := by rw [accValue, whole.1, ← whole.2.1]
  have takes : ∀ f ∈ regFlds 0x400088, f.takes v :=
    List.forall_mem_cons.mpr ⟨takes_fRsv (bits_of_lt 63 small),
      List.forall_mem_cons.mpr ⟨takes_fWo v 16 16, List.forall_mem_singleton.mpr (takes_fWo v 15 0)⟩⟩
  have reduced : (bit v 16 = true) = (65536 ≤ v) := by
    simp only [bit, Nat.shiftRight_eq_div_pow, beq_iff_eq, eq_iff_iff]
    omega
  unfold Chip.doFacCapAck
  rw [Chip.regStore_taken whole (by decide) takes fun f _ => by simp [value, current]]
  simp [value, current, whole.1, reduced]

/-- The answer to another request is ignored and reported. -/
theorem Chip.doFacCapAck_other (other : v % 65536 ≠ c.pow.capId) : ∃ e, c.doFacCapAck a = c.report 0x400088 a [e] := by
  have value : accValue 0 a = v := by rw [accValue, whole.1, ← whole.2.1]
  have one : regFlds 0x400088 = [fRsv 63 17, fWo 16 16, fWo 15 0] := rfl
  have above : bits v 63 17 = 0 := bits_of_lt _ small
  have reserved : bits v 63 17 = bits (v / 65536 * 65536) 63 17 := by simp only [bits_eq]; omega
  have answer : bits v 16 16 = bits (v / 65536 * 65536) 16 16 := by simp only [bits_eq]; omega
  have request : bits (v / 65536 * 65536) 15 0 = 0 := by simp only [bits_eq]; omega
  refine ⟨(fWo 15 0).entry 7, ?_⟩
  unfold Chip.doFacCapAck
  rw [Chip.regStore_judged (x := v / 65536 * 65536) whole (by decide) (by omega), one]
  · simp [value, other, Fld.judged, fRsv, fWo, FldKind.judge, above, Fld.entry]
  · rw [one]
    simp [value, other, Fld.judged, fRsv, fWo, FldKind.judge, above, ← reserved, ← answer, request]

end CapAck

/-! The commands -/

section Commands

variable {s : State} {a : SetupAcc} {v : Nat} (hl : s.chip.live = true) (whole : wholeWrite a v)
include hl whole

theorem exec_mode_allUp (codes : codesOk v 8) (up : ∀ k < 32, (s.chip.portAt k).up = true) : ∃ c : Chip,
    exec (.mode a) s = .next (withChip s c) ∧ (∀ p < 8, c.rf 0xA00010 (2 * p + 1) (2 * p) = s.chip.rf 0xA00010 (2 * p + 1) (2 * p)) := by
  obtain ⟨logs, kept⟩ := Chip.doMode_allUp whole codes up
  refine ⟨_, exec_live (fun c => c.doMode a) hl rfl kept, fun p hp => ?_⟩
  rw [(Chip.logged_report ..).part (fun c => c.rf 0xA00010 (2 * p + 1) (2 * p))]
  refine (Chip.rf_setReg ..).trans ?_
  rw [bits_mod _ _ (by omega), bits_mod _ _ (by omega)]
  rfl

theorem exec_haulUdp_roce (roce : v = 4791) (other : s.chip.haulUdp ≠ 4791) : ∃ c : Chip, exec (.haulUdp a) s = .next (withChip s c) ∧
    c.haulUdp = s.chip.haulUdp ∧ c.log.cfgNext = (s.chip.log.cfgNext + 1) % 2 ^ 32 := by
  subst roce
  obtain ⟨e, refused⟩ := Chip.doHaulUdp_roce whole other
  refine ⟨_, exec_live (fun c => c.doHaulUdp a) hl rfl refused, ?_, Chip.report_one_cfgNext ..⟩
  rw [(Chip.logged_report ..).part Chip.haulUdp]
  refine (Chip.rf_setReg ..).trans ?_
  rw [bits_mod _ _ (by decide), bits_whole (Chip.haulUdp_lt _)]

/-- A ring that had no period begins its first. -/
theorem exec_period_begins (sq : Fin 1024) {p items : Nat} (parts : v = items * 2 ^ 32 + p) (least : 1 ≤ items) (most : items ≤ 255)
    (legal : p = 0 ∨ 10 ≤ p ∧ p ≤ 10000000) (none_now : s.chip.sqPeriod sq.val = 0) :
    ∃ c : Chip, exec (.period sq a) s = .next (withChip s (c.pump sq.val)) ∧ c.sqPeriod sq.val = p ∧ c.sqItems sq.val = items ∧
      (c.sqAt sq.val).perSince = s.chip.dispatch ∧ (c.sqAt sq.val).perUsed = 0 ∧ c.cm.descs = s.chip.cm.descs := by
  subst parts
  refine ⟨_, exec_live (fun c => c.doPeriod sq.val a) hl rfl (Chip.doPeriod_begins sq.isLt least most whole legal none_now), ?_, ?_, ?_, ?_, rfl⟩
  · refine (Chip.rf_setReg ..).trans ?_
    rw [bits_eq]; omega
  · refine (Chip.rf_setReg ..).trans ?_
    rw [bits_eq]; omega
  · exact congrArg Sq.perSince (tabGet_tabSet_same ..)
  · exact congrArg Sq.perUsed (tabGet_tabSet_same ..)

theorem exec_envelopeW_clamped (small : v < 65536) (illegal : v < 1000 ∨ 3000 < v ∨ v % 5 ≠ 0) : ∃ c : Chip,
    exec (.envelopeW a) s = .next (withChip s c) ∧ c.rf 0x400000 15 0 = clampW v ∧ c.log.cfgNext = (s.chip.log.cfgNext + 1) % 2 ^ 32 ∧
      c.pow = s.chip.pow := by
  obtain ⟨e, clamped⟩ := Chip.doEnvelopeW_clamped s.chip whole small illegal
  refine ⟨_, exec_live (fun c => c.doEnvelopeW a) hl rfl clamped, ?_, Chip.report_one_cfgNext .., (Chip.logged_report ..).part Chip.pow⟩
  rw [(Chip.logged_report ..).part (fun c => c.rf 0x400000 15 0)]
  refine (Chip.rf_setReg ..).trans ?_
  rw [bits_mod _ _ (by decide), bits_whole (clampW_lt v)]

theorem exec_facCapAck_other (small : v < 2 ^ 17) (other : v % 65536 ≠ s.chip.pow.capId) : ∃ c : Chip,
    exec (.facCapAck a) s = .next (withChip s c) ∧ c.pow = s.chip.pow ∧ c.log.cfgNext = (s.chip.log.cfgNext + 1) % 2 ^ 32 := by
  obtain ⟨e, ignored⟩ := Chip.doFacCapAck_other whole small other
  exact ⟨_, exec_live (fun c => c.doFacCapAck a) hl rfl ignored, (Chip.logged_report ..).part Chip.pow, Chip.report_one_cfgNext ..⟩

end Commands

/-- Settles O49: every write of a whole register is judged field by field; a value that all fields take is applied as written, and where a
field or a lock refuses one the value put in its place is reported once. -/
theorem registerWritesAct : Obligations.RegisterWritesAct := by
  unfold Obligations.RegisterWritesAct
  refine ⟨fun s a v sq hl whole => ⟨?_, ?_, ?_, ?_, ?_, exec_mode_allUp hl whole, ?_, exec_haulUdp_roce hl whole,
      fun _ _ => exec_period_begins hl whole sq⟩,
    fun s a v hl whole => ⟨?_, exec_envelopeW_clamped hl whole, ?_, ?_, fun small => ⟨?_, ?_⟩, ?_, ?_, ?_, exec_facCapAck_other hl whole,
      fun _ _ => Chip.corePower_off_state⟩⟩
  · exact fun aligned small => exec_live (fun c => c.doTeleBase a) hl rfl (Chip.doTeleBase_aligned _ whole aligned small)
  · exact fun aligned small => exec_live (fun c => c.doLogBase false a) hl rfl (Chip.doLogBase_base _ whole aligned small)
  · exact fun least most => exec_live (fun c => c.doLogBase true a) hl rfl (Chip.doLogBase_size _ whole least most)
  · exact fun small between => exec_live (fun c => c.doLogHead a) hl rfl (Chip.doLogHead_between _ whole small between)
  · exact fun codes down => exec_live (fun c => c.doMode a) hl rfl (Chip.doMode_allDown whole codes down)
  · exact fun least most own down => exec_live (fun c => c.doHaulUdp a) hl rfl (Chip.doHaulUdp_allDown whole least most own down)
  · exact fun least most step => exec_live (fun c => c.doEnvelopeW a) hl rfl (Chip.doEnvelopeW_legal _ whole least most step)
  · exact fun codes => exec_live (fun c => c.doTileGroup a) hl rfl (Chip.doTileGroup_codes _ whole codes)
  · exact exec_live (fun c => c.doCoreOff a) hl rfl (Chip.doCoreOff_whole _ whole)
  · exact exec_live (fun c => c.doHbmSr a) hl rfl (Chip.srStore_legal _ whole small)
  · exact exec_live (fun c => c.doDdrSr a) hl rfl (Chip.srStore_legal _ whole small)
  · exact fun small hc => exec_calm (fun c => c.doSubportDis a) hl hc rfl (Chip.doSubportDis_legal _ whole small)
  · intro w aon
    rw [← Chip.doFacCapReq_aon aon hl w]
    rfl
  · exact fun small current => exec_live (fun c => c.doFacCapAck a) hl rfl (Chip.doFacCapAck_current whole small current)

end Sys2Proof.Machine
end

section
/-!
The anti-rollback counters (19 R484 to R486): what a raise makes of the record in force, and what each command with an effect on management
flash makes of the counters.
-/

open Sys2Proof

namespace Sys2Proof.Machine

/-! Records of counters -/

/-- No counter of a record is above that of another. -/
def CtrRec.AtMost (r x : CtrRec) : Prop :=
  r.mgmt ≤ x.mgmt ∧ r.hostboot ≤ x.hostboot ∧ r.dispatch ≤ x.dispatch ∧ r.microcode ≤ x.microcode ∧ r.keyGen ≤ x.keyGen

theorem CtrRec.AtMost.refl (r : CtrRec) : r.AtMost r := ⟨le_rfl, le_rfl, le_rfl, le_rfl, le_rfl⟩

theorem CtrRec.AtMost.trans {r x y : CtrRec} (h : r.AtMost x) (g : x.AtMost y) : r.AtMost y := by
  obtain ⟨h1, h2, h3, h4, h5⟩ := h
  obtain ⟨g1, g2, g3, g4, g5⟩ := g
  exact ⟨h1.trans g1, h2.trans g2, h3.trans g3, h4.trans g4, h5.trans g5⟩

theorem countersKept_iff (k l : Secure) : countersKept k l ↔ k.rec_.AtMost l.rec_ := Iff.rfl

/-- A raise takes the greater of two values, whatever the type (19 R486). -/
theorem CtrRec.atMost_raised (r : CtrRec) (type svn keyGen : Nat) : r.AtMost (r.raised type svn keyGen) := by
  unfold CtrRec.raised
  split <;> simp [CtrRec.AtMost]

/-! The record in force (19 R485) -/

/-- A record that is written is in force afterwards: its copy is valid and has the higher WRITE_NO. -/
theorem Secure.rec_putRec (k : Secure) (r : CtrRec) :
    (k.putRec r).rec_ = { r with valid := true, writeNo := max k.recA.writeNo k.recB.writeNo + 1, flashNo := r.flashNo + 1 } := by
  unfold Secure.putRec Secure.rec_
  dsimp only
  by_cases h : k.recA.writeNo ≤ k.recB.writeNo
  · simp [h]
  · simp [h]

theorem Secure.atMost_putRec {k : Secure} {r : CtrRec} (h : k.rec_.AtMost r) : countersKept k (k.putRec r) := by
  rw [countersKept_iff, Secure.rec_putRec]
  exact h

theorem Secure.countersKept_raise (k : Secure) (type svn keyGen : Nat) : countersKept k (k.raise type svn keyGen) := by
  unfold Secure.raise
  dsimp only
  split
  · exact CtrRec.AtMost.refl _
  · exact Secure.atMost_putRec (CtrRec.atMost_raised ..)

/-- The records of the images that run are raised one after another. -/
theorem Secure.countersKept_raiseRun (k : Secure) (run : Tab (Nat × Nat)) : countersKept k (k.raiseRun run) := by
  have raised : ∀ (l : List Nat) (f : CtrRec → Nat → CtrRec) (r : CtrRec), (∀ a t, CtrRec.AtMost a (f a t)) → r.AtMost (l.foldl f r) := by
    intro l f r hf
    induction l generalizing r with
    | nil => exact .refl r
    | cons t l ih => exact (hf r t).trans (ih _)
  unfold Secure.raiseRun
  dsimp only
  split
  · exact CtrRec.AtMost.refl _
  · refine Secure.atMost_putRec (raised _ _ _ fun a t => ?_)
    split
    · split
      · exact CtrRec.atMost_raised ..
      · exact .refl a
    · exact .refl a

/-- What keeps both copies of the record keeps the counters. -/
theorem countersKept_of_copies {k l : Secure} (a : l.recA = k.recA) (b : l.recB = k.recB) : countersKept k l := by
  have : l.rec_ = k.rec_ := by simp only [Secure.rec_, a, b]
  rw [countersKept_iff, this]
  exact .refl _

theorem countersKept_refl (k : Secure) : countersKept k k := countersKept_of_copies rfl rfl

theorem countersKept_trans {k l m : Secure} (h : countersKept k l) (g : countersKept l m) : countersKept k m :=
  CtrRec.AtMost.trans (r := k.rec_) h g

/-! Commands with an effect on management flash -/

theorem Chip.countersKept_raiseFor (c : Chip) (k : Secure) : countersKept k (c.raiseFor k) := by
  unfold Chip.raiseFor
  dsimp only
  split
  · exact Secure.countersKept_raise ..
  · exact countersKept_refl k

theorem Chip.countersKept_secLoad (c : Chip) (k : Secure) (crypto : Bool) : countersKept k (c.secLoad k crypto).2 := by
  unfold Chip.secLoad
  split
  · exact countersKept_refl k
  · split
    · exact c.countersKept_raiseFor k
    · exact countersKept_refl k

theorem Chip.countersKept_secUpdate (c : Chip) (k : Secure) (crypto : Bool) : countersKept k (c.secUpdate k crypto).2 := by
  unfold Chip.secUpdate
  split
  · exact countersKept_refl k
  · split
    · exact countersKept_refl k
    · split
      · exact c.countersKept_raiseFor k
      · exact countersKept_refl k

theorem Chip.countersKept_fence (c : Chip) (k : Secure) (t : Nat) : countersKept k (c.fence k t).2 := by
  unfold Chip.fence
  dsimp only
  split <;> exact countersKept_of_copies rfl rfl

theorem Chip.countersKept_secTileHwFault (c : Chip) (k : Secure) (t : Nat) (unit : BitVec 8) :
    countersKept k (c.secTileHwFault k t unit).2 := by
  unfold Chip.secTileHwFault
  dsimp only
  split
  · exact countersKept_refl k
  · exact Chip.countersKept_fence ..

theorem Chip.countersKept_secTileEccFence (c : Chip) (k : Secure) (t : Nat) (n : BitVec 32) :
    countersKept k (c.secTileEccFence k t n).2 := by
  unfold Chip.secTileEccFence
  split
  · exact countersKept_refl k
  · exact Chip.countersKept_fence ..

theorem Chip.countersKept_secRepairDone (c : Chip) (k : Secure) (pass : Bool) : countersKept k (c.secRepairDone k pass).2 := by
  unfold Chip.secRepairDone
  split
  · exact countersKept_refl k
  · dsimp only
    split
    · split <;> exact countersKept_of_copies rfl rfl
    · exact countersKept_refl k

theorem Chip.secGetMeasurements_flash (c : Chip) (k : Secure) (tr op : Nat) (signed : Bool) :
    (c.secGetMeasurements k tr op signed).2 = k := by
  unfold Chip.secGetMeasurements
  repeat' split
  all_goals rfl

theorem Chip.countersKept_secPldmFirmwareUpdate (c : Chip) (k : Secure) (iface type : Nat) (arrived : Bool) (header : List Byte)
    (crypto : Bool) : countersKept k (c.secPldmFirmwareUpdate k iface type arrived header crypto).2 := by
  unfold Chip.secPldmFirmwareUpdate
  dsimp only
  repeat' split
  all_goals exact countersKept_of_copies rfl rfl

theorem Secure.countersKept_tear (k : Secure) (u : Option (Nat × Nat)) : countersKept k (k.tear u) := by
  unfold Secure.tear
  split <;> exact countersKept_of_copies rfl rfl

theorem Chip.countersKept_secWarmReset (c : Chip) (k : Secure) : countersKept k (c.secWarmReset k).2 := by
  unfold Chip.secWarmReset
  split
  · exact k.countersKept_tear _
  · exact countersKept_refl k

theorem Chip.countersKept_secPkgReset (c : Chip) (k : Secure) (iface : Nat) (confirm : BitVec 32) :
    countersKept k (c.secPkgReset k iface confirm).2 := by
  unfold Chip.secPkgReset
  split
  · exact countersKept_refl k
  · split
    · exact countersKept_refl k
    · split
      · exact countersKept_refl k
      · exact k.countersKept_tear _

theorem Chip.countersKept_stepFive (c : Chip) (k : Secure) (r : SelfTest) : countersKept k (c.stepFive k r).2 := by
  unfold Chip.stepFive
  split <;> exact countersKept_of_copies rfl rfl

theorem Chip.countersKept_stepSix (c : Chip) (k : Secure) : countersKept k (c.stepSix k).2 := by
  unfold Chip.stepSix
  split
  · exact countersKept_refl k
  · exact k.countersKept_raiseRun _

theorem Chip.countersKept_secSelfTestStep (c : Chip) (k : Secure) (r : SelfTest) : countersKept k (c.secSelfTestStep k r).2 := by
  unfold Chip.secSelfTestStep
  split
  · exact countersKept_refl k
  · split
    case h_5 => exact c.countersKept_stepFive k r
    case h_6 => exact c.countersKept_stepSix k
    all_goals exact countersKept_refl k

end Sys2Proof.Machine
end

section
/-!
What a command is on the whole state, said once for all of them, and what follows: the counters never fall, units without power do nothing,
and no command touches the queue (19 R486, 20 R503, R505, 09 R225).
-/

open Sys2Proof

namespace Sys2Proof.Machine

/-- The forms of a command: the command and what it answers from a state. -/
inductive Means (s : State) (i : Instr) : Host.Outcome State Fault Refusal → Prop where
  /-- A unit that works in service. -/
  | service (f : Chip → Chip) : Means s i (s.liveChip f)
  /-- The same with an effect on management flash. -/
  | serviceFlash (f : Chip → Secure → Chip × Secure) (kept : ∀ c k, countersKept k (f c k).2) : Means s i (s.liveBoth f)
  /-- A command in service that accesses memory, and may have to wait. -/
  | waits (key : List Nat) (f : Chip → Chip) : Means s i (s.guarded key i f)
  /-- A call of the dispatch mailbox with an image in memory. -/
  | image (code : Nat) (f : Chip → Secure → Chip × Secure) (kept : ∀ c k, countersKept k (f c k).2) : Means s i (s.imageCall code i f)
  /-- A request to the home of a line. -/
  | home (agent pa : Nat) (f : Chip → Chip) : Means s i (s.toHome agent pa i f)
  /-- A unit that works outside service too. -/
  | always (f : Chip → Chip) (dark : actsInDark i = true) : Means s i (s.onChip f)
  /-- The same with an effect on management flash. -/
  | alwaysFlash (f : Chip → Secure → Chip × Secure) (dark : actsInDark i = true) (kept : ∀ c k, countersKept k (f c k).2) :
      Means s i (s.onBoth f)
  /-- A step of self-test. -/
  | selfTest (f : Chip → Secure → Chip × Secure) (dark : actsInDark i = true) (kept : ∀ c k, countersKept k (f c k).2) :
      Means s i ((if s.chip.live then s else { s with held := [] }).onBoth f)

/-- Every command is of one of these forms. -/
theorem exec_means (i : Instr) (s : State) : Means s i (exec i s) := by
  cases i with
  | load crypto => exact .image 1 (fun c k => c.secLoad k crypto) (fun c k => c.countersKept_secLoad k crypto)
  | update crypto => exact .image 4 (fun c k => c.secUpdate k crypto) (fun c k => c.countersKept_secUpdate k crypto)
  | tileHwFault t unit => exact .serviceFlash _ (fun c k => c.countersKept_secTileHwFault k t.val unit)
  | tileEccFence t n => exact .serviceFlash _ (fun c k => c.countersKept_secTileEccFence k t.val n)
  | repairDone pass => exact .serviceFlash _ (fun c k => c.countersKept_secRepairDone k pass)
  | getDigests tr => exact .alwaysFlash (fun c k => c.secGetDigests k tr.val) rfl (fun _ k => countersKept_refl k)
  | getCertificate tr slot off len =>
    exact .alwaysFlash (fun c k => c.secGetCertificate k tr.val slot.val off.val len.val) rfl (fun _ k => countersKept_refl k)
  | challenge tr slot => exact .alwaysFlash (fun c k => c.secChallenge k tr.val slot.val) rfl (fun _ k => countersKept_refl k)
  | getMeasurements tr op signed =>
    exact .alwaysFlash (fun c k => c.secGetMeasurements k tr.val op.val signed) rfl
      (fun c k => by rw [Chip.secGetMeasurements_flash]; exact countersKept_refl k)
  | pldmFirmwareUpdate iface type arrived header crypto =>
    exact .alwaysFlash _ rfl (fun c k => c.countersKept_secPldmFirmwareUpdate k iface.val type.val arrived header crypto)
  | pkgReset iface confirm => exact .alwaysFlash _ rfl (fun c k => c.countersKept_secPkgReset k iface.val confirm)
  | coldReset => exact .alwaysFlash Chip.secColdReset rfl (fun c k => k.countersKept_tear _)
  | warmReset => exact .alwaysFlash Chip.secWarmReset rfl (fun c k => c.countersKept_secWarmReset k)
  | powerLoss => exact .alwaysFlash Chip.secPowerLoss rfl (fun c k => k.countersKept_tear _)
  | selfTestStep r => exact .selfTest _ rfl (fun c k => c.countersKept_secSelfTestStep k r)
  | _ => unfold exec; constructor <;> rfl

/-! Commands that may have to wait (assumption 103) -/

/-- What such a command answers: nothing happens where its unit is dark, it takes effect, or, where something is under way, it is kept. -/
theorem State.guardedBoth_cases (s : State) (key : List Nat) (i : Instr) (f : Chip → Secure → Chip × Secure) :
    ∃ t, s.guardedBoth key i f = .next t ∧
      (t = s ∨ (∃ c d : Chip, t = { s with chip := c, sec := (f d s.sec).2 }) ∨
        s.chip.live = true ∧ s.calm = false ∧ ∃ lines free, t = s.keep s.ident key i lines free) := by
  unfold State.guardedBoth
  split
  · exact ⟨s, rfl, .inl rfl⟩
  · rename_i dark
    have live : s.chip.live = true := by simpa using dark
    split
    · exact ⟨_, rfl, .inr (.inl ⟨_, _, rfl⟩)⟩
    · rename_i hc
      have busy : s.calm = false := by simpa using hc
      dsimp only
      split
      · exact ⟨_, rfl, .inr (.inr ⟨live, busy, _, _, rfl⟩)⟩
      · split
        · exact ⟨_, rfl, .inr (.inl ⟨_, _, rfl⟩)⟩
        · exact ⟨_, rfl, .inr (.inr ⟨live, busy, _, _, rfl⟩)⟩

/-- The homes of a package with nothing under way have room. -/
theorem Chip.quiet_room {c : Chip} (h : c.quiet = true) (ln : Nat) : c.mem.queueFull ln = false := by
  simp only [Chip.quiet, Bool.and_eq_true, List.isEmpty_iff] at h
  obtain ⟨⟨⟨⟨⟨-, empty⟩, -⟩, -⟩, -⟩, -⟩ := h
  simp only [Mem.queueFull, Mem.queued, empty, List.map_nil, List.sum_nil, decide_eq_false_iff_not]
  split <;> omega

theorem State.held_of_calm {s : State} (h : s.calm = true) : s.held = [] := by
  simp only [State.calm, Bool.and_eq_true, List.isEmpty_iff] at h
  exact h.1.2

/-- What a request answers: nothing happens where its unit is dark, it reaches its home, or, where something is under way, it is kept. -/
theorem State.toHome_cases (s : State) (agent pa : Nat) (i : Instr) (f : Chip → Chip) :
    ∃ t, s.toHome agent pa i f = .next t ∧
      (t = s ∨ t = { s with chip := f s.chip } ∨
        s.calm = false ∧ ∃ key free, t = s.keep s.ident key i [] free) := by
  unfold State.toHome
  split
  · exact ⟨s, rfl, .inl rfl⟩
  · dsimp only
    split
    · rename_i waits
      refine ⟨_, rfl, .inr (.inr ⟨?_, _, _, rfl⟩)⟩
      by_contra hc
      have calm : s.calm = true := by simpa using hc
      simp [State.behind, State.held_of_calm calm, Chip.quiet_room (State.quiet_of_calm calm)] at waits
    · exact ⟨_, rfl, .inr (.inl rfl)⟩

/-- A package that differs from another at most in its log, in memory, in its interrupt files and in its channels. -/
def Chip.Marked (c d : Chip) : Prop := d = { c with log := d.log, mem := d.mem, irq := d.irq, chan := d.chan }

theorem Chip.Marked.trans {c d e : Chip} (h : c.Marked d) (g : d.Marked e) : c.Marked e := by
  unfold Chip.Marked at *; rw [g, h]

/-- Each part of the package but those four reads as before. -/
theorem Chip.Marked.part {α : Type} {c d : Chip} (h : c.Marked d) (p : Chip → α) :
    p d = p { c with log := d.log, mem := d.mem, irq := d.irq, chan := d.chan } := congrArg p h

theorem Chip.Logged.marked {c d : Chip} (h : c.Logged d) : c.Marked d := by
  unfold Chip.Marked; rw [show d = _ from h]

theorem Chip.marked_throttle (c : Chip) (ch bank : Nat) : c.Marked (c.throttle ch bank) := by
  unfold Chip.throttle
  dsimp only
  split
  · rfl
  · exact Chip.Marked.trans (d := c.setChan ch { c.chanAt ch with throttled := true }) rfl (Chip.logged_logEv ..).marked

/-- A waiting command's places at its lines change memory, and log what a bank holds. -/
theorem Chip.marked_markAll (c : Chip) (id : Nat) (lines : List Nat) : c.Marked (c.markAll id lines) := by
  unfold Chip.markAll
  induction lines generalizing c with
  | nil => rfl
  | cons ln r ih =>
    rw [List.foldl_cons]
    refine Chip.Marked.trans ?_ (ih _)
    dsimp only
    split
    · exact (c.marked_throttle ..).trans rfl
    · rfl

/-! The queue (O2) -/

/-- A command that is kept has none of its effect: it waits, numbered, behind the lines that it has met (and its call reads BUSY). -/
def State.Keeps (s : State) (i : Instr) (t : State) : Prop :=
  ∃ (key lines : List Nat) (free : Nat) (u : State), u = s.keep s.ident key i lines free ∧
    (t = u ∨ ∃ code : Nat, t = withChip u (u.chip.callEnd code 1)) ∧ t.sec = s.sec ∧ t.chip.tile = s.chip.tile ∧ t.chip.so = s.chip.so ∧
    t.chip.cm = s.chip.cm

theorem State.keeps_keep (s : State) (key : List Nat) (i : Instr) (lines : List Nat) (free : Nat) :
    s.Keeps i (s.keep s.ident key i lines free) := by
  have marked := s.chip.marked_markAll s.ident lines
  refine ⟨key, lines, free, _, rfl, .inl rfl, rfl, ?_, ?_, ?_⟩
  · exact marked.part Chip.tile
  · exact marked.part Chip.so
  · exact marked.part Chip.cm

/-- A call that is kept reads BUSY. -/
theorem State.keeps_busy (s : State) (key : List Nat) (i : Instr) (lines : List Nat) (free code : Nat) :
    s.Keeps i (withChip (s.keep s.ident key i lines free) ((s.keep s.ident key i lines free).chip.callEnd code 1)) := by
  have marked := s.chip.marked_markAll s.ident lines
  refine ⟨key, lines, free, _, rfl, .inr ⟨code, rfl⟩, rfl, ?_, ?_, ?_⟩
  · exact marked.part Chip.tile
  · exact marked.part Chip.so
  · exact marked.part Chip.cm

/-- What a command leaves of the queue and of the commands that wait. -/
def State.Leaves (s : State) (i : Instr) (t : State) : Prop :=
  t.pending = s.pending ∧ t.tried = s.tried ∧ t.retrying = s.retrying ∧ (t.held = s.held ∨ t.held = [] ∨ s.Keeps i t) ∧
    (s.calm = true → t.held = [])

/-- A command whose effect is on the package and on management flash alone leaves what waits. -/
theorem State.leaves_effect (s : State) (i : Instr) (c : Chip) (k : Secure) : s.Leaves i { s with chip := c, sec := k } :=
  ⟨rfl, rfl, rfl, .inl rfl, fun calm => State.held_of_calm (s := s) calm⟩

theorem State.leaves_kept {s : State} {i : Instr} {t : State} (busy : s.calm = false) (kept : s.Keeps i t) (hp : t.pending = s.pending)
    (ht : t.tried = s.tried) (hr : t.retrying = s.retrying) : s.Leaves i t :=
  ⟨hp, ht, hr, .inr (.inr kept), fun calm => by rw [busy] at calm; cases calm⟩

theorem State.liveChip_leaves (s : State) (i : Instr) (f : Chip → Chip) : ∃ t, s.liveChip f = .next t ∧ s.Leaves i t := by
  cases live : s.chip.live with
  | true => exact ⟨_, State.liveChip_live f live, s.leaves_effect i _ s.sec⟩
  | false => exact ⟨s, State.liveChip_dark f live, s.leaves_effect i s.chip s.sec⟩

theorem State.guardedBoth_leaves (s : State) (key : List Nat) (i : Instr) (f : Chip → Secure → Chip × Secure) :
    ∃ t, s.guardedBoth key i f = .next t ∧ s.Leaves i t := by
  obtain ⟨t, answer, rfl | ⟨c, d, rfl⟩ | ⟨-, busy, lines, free, rfl⟩⟩ := s.guardedBoth_cases key i f
  · exact ⟨_, answer, t.leaves_effect i t.chip t.sec⟩
  · exact ⟨_, answer, s.leaves_effect i c _⟩
  · exact ⟨_, answer, State.leaves_kept busy (s.keeps_keep key i lines free) rfl rfl rfl⟩

/-- A kept command stands among those that wait, under its sender. -/
theorem State.keep_any (s : State) (id : Nat) (key : List Nat) (i : Instr) (lines : List Nat) (free : Nat) :
    (s.keep id key i lines free).held.any (fun h => h.key == key) = true := by
  simp [State.keep]

/-- What a call with an image in memory answers: it is ignored, decided, or kept and reads BUSY. -/
theorem State.imageCall_cases (s : State) (code : Nat) (i : Instr) (f : Chip → Secure → Chip × Secure) :
    ∃ t, s.imageCall code i f = .next t ∧
      ((∃ c : Chip, t = { s with chip := c }) ∨ (∃ c d : Chip, t = { s with chip := c, sec := (f d s.sec).2 }) ∨
        s.calm = false ∧ ∃ lines free, t = withChip (s.keep s.ident [15] i lines free)
          ((s.keep s.ident [15] i lines free).chip.callEnd code 1)) := by
  unfold State.imageCall
  split
  · cases live : s.chip.live with
    | true => exact ⟨_, State.liveChip_live _ live, .inl ⟨_, rfl⟩⟩
    | false => exact ⟨_, State.liveChip_dark _ live, .inl ⟨s.chip, rfl⟩⟩
  · obtain ⟨t, answer, rfl | ⟨c, d, rfl⟩ | ⟨live, busy, lines, free, rfl⟩⟩ := s.guardedBoth_cases [15] i f
    · rw [answer]
      dsimp only
      split
      · exact ⟨_, rfl, .inl ⟨_, rfl⟩⟩
      · exact ⟨_, rfl, .inl ⟨t.chip, rfl⟩⟩
    · rw [answer]
      dsimp only
      split
      · exact ⟨_, rfl, .inr (.inl ⟨_, d, rfl⟩)⟩
      · exact ⟨_, rfl, .inr (.inl ⟨_, d, rfl⟩)⟩
    · rw [answer]
      dsimp only
      rw [live, s.keep_any, Bool.and_self, if_pos rfl]
      exact ⟨_, rfl, .inr (.inr ⟨busy, lines, free, rfl⟩)⟩

theorem State.imageCall_leaves (s : State) (code : Nat) (i : Instr) (f : Chip → Secure → Chip × Secure) :
    ∃ t, s.imageCall code i f = .next t ∧ s.Leaves i t := by
  obtain ⟨t, answer, ⟨c, rfl⟩ | ⟨c, d, rfl⟩ | ⟨busy, lines, free, rfl⟩⟩ := s.imageCall_cases code i f
  · exact ⟨_, answer, s.leaves_effect i c s.sec⟩
  · exact ⟨_, answer, s.leaves_effect i c _⟩
  · exact ⟨_, answer, State.leaves_kept busy (s.keeps_busy [15] i lines free code) rfl rfl rfl⟩

theorem State.toHome_leaves (s : State) (agent pa : Nat) (i : Instr) (f : Chip → Chip) :
    ∃ t, s.toHome agent pa i f = .next t ∧ s.Leaves i t := by
  obtain ⟨t, answer, rfl | rfl | ⟨busy, key, free, rfl⟩⟩ := s.toHome_cases agent pa i f
  · exact ⟨_, answer, t.leaves_effect i t.chip t.sec⟩
  · exact ⟨_, answer, s.leaves_effect i _ s.sec⟩
  · exact ⟨_, answer, State.leaves_kept busy (s.keeps_keep key i [] free) rfl rfl rfl⟩

/-- Every command, by its form, answers a next state and leaves the queue. -/
theorem Means.leaves {s : State} {i : Instr} {o : Host.Outcome State Fault Refusal} (h : Means s i o) : ∃ t, o = .next t ∧ s.Leaves i t := by
  cases h with
  | service f => exact s.liveChip_leaves i f
  | serviceFlash f kept =>
    cases live : s.chip.live with
    | true => exact ⟨_, State.liveBoth_live f live, s.leaves_effect i _ _⟩
    | false => exact ⟨s, State.liveBoth_dark f live, s.leaves_effect i s.chip s.sec⟩
  | waits key f => exact s.guardedBoth_leaves key i _
  | image code f kept => exact s.imageCall_leaves code i f
  | home agent pa f => exact s.toHome_leaves agent pa i f
  | always f dark => exact ⟨_, rfl, s.leaves_effect i _ s.sec⟩
  | alwaysFlash f dark kept => exact ⟨_, rfl, s.leaves_effect i _ _⟩
  | selfTest f dark kept =>
    split
    · exact ⟨_, rfl, s.leaves_effect i _ _⟩
    · exact ⟨_, rfl, rfl, rfl, rfl, .inr (.inl rfl), fun _ => rfl⟩

/-- Settles O2, by the form of the command. -/
theorem commandsLeaveTheQueue : Obligations.CommandsLeaveTheQueue := by
  intro c s
  obtain ⟨t, answer, pending, tried, retrying, held, calm⟩ := (exec_means c s).leaves
  exact ⟨t, answer, pending, tried, retrying, held, calm⟩

/-! Units without power (O3) -/

theorem State.imageCall_dark {s : State} (code : Nat) (i : Instr) (f : Chip → Secure → Chip × Secure) (h : s.chip.live = false) :
    s.imageCall code i f = .next s := by
  unfold State.imageCall
  split
  · exact State.liveChip_dark _ h
  · simp [State.guardedBoth_dark [15] i f h, h]

/-- Settles O3: every form but those of the supplies, the management controller and the security block works in service only. -/
theorem darkUnitsDoNothing : Obligations.DarkUnitsDoNothing := by
  intro c s dark unit
  have only : ∀ {p : Prop}, actsInDark c = true → p := fun acts => by rw [unit] at acts; cases acts
  generalize answer : exec c s = o
  cases (answer ▸ exec_means c s : Means s c o) with
  | service f => exact State.liveChip_dark f dark
  | serviceFlash f kept => exact State.liveBoth_dark f dark
  | waits key f => exact State.guarded_dark key c f dark
  | image code f kept => exact State.imageCall_dark code c f dark
  | home agent pa f => exact State.toHome_dark agent pa c f dark
  | always f acts => exact only acts
  | alwaysFlash f acts kept => exact only acts
  | selfTest f acts kept => exact only acts

/-! The counters (O4) -/

/-- No command, whatever its form, lowers a counter. -/
theorem Means.countersKept {s t : State} {i : Instr} {o : Host.Outcome State Fault Refusal} (h : Means s i o) (answer : o = .next t) :
    countersKept s.sec t.sec := by
  cases h with
  | service f =>
    obtain ⟨-, flash, -⟩ := State.liveChip_inv answer
    rw [flash]; exact countersKept_refl _
  | serviceFlash f kept =>
    obtain ⟨-, ⟨-, flash, -⟩ | ⟨rfl, -⟩⟩ := State.liveBoth_inv answer
    · rw [flash]; exact kept ..
    · exact countersKept_refl _
  | waits key f =>
    obtain ⟨u, answers, rfl | ⟨c, d, rfl⟩ | ⟨-, -, lines, free, rfl⟩⟩ := s.guardedBoth_cases key i (fun c k => (f c, k))
    all_goals
      cases answers.symm.trans answer
      exact countersKept_refl _
  | image code f kept =>
    obtain ⟨u, answers, ⟨c, rfl⟩ | ⟨c, d, rfl⟩ | ⟨-, lines, free, rfl⟩⟩ := s.imageCall_cases code i f
    all_goals cases answers.symm.trans answer
    · exact countersKept_refl _
    · exact kept ..
    · exact countersKept_refl _
  | home agent pa f =>
    obtain ⟨u, answers, rfl | rfl | ⟨-, key, free, rfl⟩⟩ := s.toHome_cases agent pa i f
    all_goals
      cases answers.symm.trans answer
      exact countersKept_refl _
  | always f dark => cases answer; exact countersKept_refl _
  | alwaysFlash f dark kept =>
    obtain ⟨-, -, flash⟩ := State.onBoth_inv answer
    rw [flash]; exact kept ..
  | selfTest f dark kept =>
    obtain ⟨-, -, flash⟩ := State.onBoth_inv answer
    rw [flash]
    split <;> exact kept ..

theorem exec_countersKept {s t : State} {i : Instr} (h : exec i s = .next t) : countersKept s.sec t.sec := (exec_means i s).countersKept h

/-- A step runs a command on the same management flash, or lets time pass. -/
theorem step_countersKept {s t : State} (h : step s = .next t) : countersKept s.sec t.sec := by
  unfold step at h
  split at h
  · have kept := exec_countersKept h
    exact kept
  · split at h
    · unfold State.again at h
      split at h
      case h_1 u answer =>
        cases h
        have kept := exec_countersKept answer
        exact kept
      case h_2 o other => exact absurd h (other t)
    · cases h
      exact countersKept_refl _

/-- Settles O4: no command lowers a counter, and what is not above a counter is not above a greater one. -/
theorem countersNeverFall : Obligations.CountersNeverFall := fun _ _ _ before h => countersKept_trans before (step_countersKept h)

/-! One step (O1) -/

/-- A waiting command is tried again when the queue is empty. -/
theorem step_again {s t : State} {h : Held} (empty : s.pending = []) (next : s.nextHeld = some h)
    (answer : exec h.cmd { s with held := s.held.filter (fun x => x.id != h.id), tried := h.id, retrying := some h.id } = .next t) :
    step s = .next { t with retrying := none } := by
  unfold step
  rw [empty]
  dsimp only
  rw [next]
  dsimp only
  rw [State.again, answer]

/-- With every waiting command tried, model time passes. -/
theorem step_passes {s : State} (empty : s.pending = []) (all : ∀ h ∈ s.held, h.id ≤ s.tried) :
    step s = .next { s.tick with tried := 0 } := by
  have none_ : s.nextHeld = none := List.find?_eq_none.mpr fun h mem => by simpa using all h mem
  simp only [step, empty, none_]

/-- Settles O1: the cases of `step`. -/
theorem stepRunsTheFrontCommand : Obligations.StepRunsTheFrontCommand := by
  refine ⟨fun c s rest => step_cons _ c rest rfl, fun s empty all => step_passes empty all, ?_, fun s nbits w => rfl⟩
  exact fun s t h empty next answer => step_again empty next answer

end Sys2Proof.Machine
end

section
/-!
What reset leaves (14 R367, R369, 15 R398, 21): no unit is listed in a table of `Chip.reset`, so each reads as its fresh entry.
-/

open Sys2Proof

namespace Sys2Proof.Machine

/-- Every group that is good is enabled, for the two numbers are the same, and the always-on group has power. -/
theorem reset_suppliesSound : suppliesSound State.reset := ⟨fun _ good => good, fun off => by cases off⟩

/-- A reset package is in service, not in the safe state. -/
theorem reset_safeIsDark : safeIsDark State.reset := fun safe => by cases safe

/-- Settles O5: entries by their tables, which list nothing, and setup registers by `regReset`. -/
theorem resetValues : Obligations.ResetValues := by
  refine ⟨rfl, rfl, rfl, fun k => ⟨rfl, rfl, rfl, rfl⟩, fun k => rfl, rfl, rfl, rfl, rfl, rfl, rfl, rfl, rfl, rfl, rfl, rfl, rfl, rfl, rfl,
    fun t r => ?_, Memory.wf_nil, reset_suppliesSound, reset_safeIsDark, countersKept_refl _⟩
  show (if r = 0 then 0 else tabGet 0 [] r) = 0
  exact ite_self 0

end Sys2Proof.Machine
end

section
/-!
NOP (15 R408): what it makes of its context and of its descriptor.
-/

open Sys2Proof

namespace Sys2Proof.Machine

/-- A consumed descriptor that ends otherwise than by being dropped leaves its record, and nothing else (14 R378, R379). -/
theorem Chip.finish_found {c : Chip} {key status : Nat} {d : Desc} (found : c.descAt key = some d) (kept : status ≠ 0x11) (detail : Nat) :
    c.finish key status detail = c.modCm (fun m =>
      { m with descs := m.descs.filter (fun e => e.key != key), fin := m.fin ++ [c.finOf d status detail srcDispatch] }) := by
  simp only [Chip.finish, Chip.finishSrc, found, if_neg kept]
  rfl

/-- A descriptor that has ended is consumed no longer. -/
theorem Chip.descAt_finish (c : Chip) (key status detail : Nat) : (c.finish key status detail).descAt key = none := by
  unfold Chip.finish Chip.finishSrc
  split
  · refine List.find?_eq_none.mpr fun e mem => ?_
    simpa using (List.mem_filter.mp mem).2
  · assumption

@[simp] theorem Chip.ctxAt_setCtx_same (c : Chip) (k : Nat) (x : CtxEnt) : (c.setCtx k x).ctxAt k = x := by simp [Chip.ctxAt, Chip.setCtx]

theorem Chip.ctxAt_setCtx_other (c : Chip) {k j : Nat} (x : CtxEnt) (h : j ≠ k) : (c.setCtx k x).ctxAt j = c.ctxAt j := by
  simp [Chip.ctxAt, Chip.setCtx, tabGet_tabSet_other _ _ _ (Ne.symm h)]

/-- The package with a context that is PARKED returned to ACTIVE. -/
def Chip.unparkCtx (c : Chip) (k : Nat) : Chip :=
  if (c.ctxAt k).st = .parked then c.setCtx k { c.ctxAt k with st := .active } else c

theorem Chip.unparkCtx_of_active {c : Chip} {k : Nat} (active : (c.ctxAt k).st = .active) : c.unparkCtx k = c := by
  rw [Chip.unparkCtx, active, if_neg (by decide)]

theorem Chip.ctxAt_unparkCtx_same {c : Chip} {k : Nat} (h : (c.ctxAt k).st = .parked ∨ (c.ctxAt k).st = .active) :
    ((c.unparkCtx k).ctxAt k).st = .active := by
  obtain parked | active := h
  · rw [Chip.unparkCtx, if_pos parked, Chip.ctxAt_setCtx_same]
  · rw [Chip.unparkCtx_of_active active, active]

theorem Chip.ctxAt_unparkCtx_other (c : Chip) {k j : Nat} (h : j ≠ k) : (c.unparkCtx k).ctxAt j = c.ctxAt j := by
  unfold Chip.unparkCtx
  split
  · exact c.ctxAt_setCtx_other _ h
  · rfl

/-- Nothing but contexts changes. -/
theorem Chip.unparkCtx_eq_modCtx (c : Chip) (k : Nat) : ∃ f, c.unparkCtx k = c.modCtx f := by
  unfold Chip.unparkCtx
  split
  · exact ⟨_, rfl⟩
  · exact ⟨id, rfl⟩

/-- Settles O55: the context is returned (`Chip.unparkCtx`), and the descriptor ends, which leaves its record and touches no context. -/
theorem nopReturnsParkedContext : Obligations.NopReturnsParkedContext := by
  intro s r d ready op _ _ found state
  obtain ⟨f, only⟩ := s.chip.unparkCtx_eq_modCtx d.ctx
  have ends := (s.chip.unparkCtx d.ctx).finished_finish d.key 0 0
  have consumed : (s.chip.unparkCtx d.ctx).descAt d.key = some d := by rw [only]; exact found
  have records : ((s.chip.unparkCtx d.ctx).finish d.key 0 0).cm.fin =
      s.chip.cm.fin ++ [(s.chip.unparkCtx d.ctx).finOf d 0 0 srcDispatch] := by
    have same : (s.chip.unparkCtx d.ctx).cm = s.chip.cm := by rw [only]; rfl
    rw [Chip.finish_found consumed (by decide), Chip.modCm_cm, same]
  have runs : exec (.ringNop r) s = .next (withChip s (((s.chip.unparkCtx d.ctx).finish d.key 0 0).pump r.val)) :=
    exec_onDesc (f := fun e d => (e.unparkCtx d.ctx).finish d.key 0 0) ready rfl (by simp [opIs, op])
  refine ⟨_, runs, ?_, fun k other => ?_, fun active => ?_,
    ⟨(s.chip.unparkCtx d.ctx).finOf d 0 0 srcDispatch, records, rfl, rfl, rfl⟩, Chip.descAt_finish .., ?_, ?_⟩
  · rw [ends.part (Chip.ctxAt · d.ctx)]
    exact Chip.ctxAt_unparkCtx_same state
  · rw [ends.part (Chip.ctxAt · k)]
    exact s.chip.ctxAt_unparkCtx_other other
  · rw [ends.part Chip.ctx, Chip.unparkCtx_of_active active]
  · rw [ends.part Chip.mem, only]
    rfl
  · rw [ends.part Chip.tile, only]
    rfl

end Sys2Proof.Machine
end

section
/-!
Attestation and the management interfaces (19 R488 to R499).
-/

open Sys2Proof

namespace Sys2Proof.Machine

/-- A command of a unit that works outside service too makes of the package what its operation does. -/
theorem exec_always {s : State} {i : Instr} (f : Chip → Chip) {d : Chip} (hi : exec i s = s.onChip f) (hd : f s.chip = d) :
    exec i s = .next (withChip s d) := by
  rw [hi, ← hd]
  rfl

/-- The same with what it makes of management flash. -/
theorem exec_alwaysFlash {s : State} {i : Instr} (f : Chip → Secure → Chip × Secure) {d : Chip} {k : Secure} (hi : exec i s = s.onBoth f)
    (hd : f s.chip s.sec = (d, k)) : exec i s = .next { s with chip := d, sec := k } := by
  rw [hi, State.onBoth, hd]

theorem Chip.passTo_mgmt (c : Chip) (src due : Nat) : (c.passTo src due).mgmt = c.mgmt := by
  obtain ⟨f, h⟩ := c.passTo_eq_modClk src due
  rw [h]
  rfl

/-! The latch of sensors 2 and 3 (19 R498) -/

section Sensors

variable {c : Chip} {i : Nat} (up : c.mgmtUp = true) (carried : i ≠ 3)
include up carried

/-- A sensor that exists answers; sensor 2 latches the high half of the energy besides. -/
theorem Chip.doPldmSensorRead_some {n x : Nat} {t : BitVec 8} (found : c.sensor i n t = some x) :
    c.doPldmSensorRead i n t =
      (if n = 2 then c.modMgmt (fun m => { m with latch := tabSet m.latch i (c.pow.energy.headD 0 / 2 ^ 32) }) else c).answer [0, x] := by
  simp [Chip.doPldmSensorRead, up, carried, found]

theorem Chip.doPldmSensorRead_absent {n : Nat} {t : BitVec 8} (absent : c.sensor i n t = none) : c.doPldmSensorRead i n t = c.answer [1] := by
  simp [Chip.doPldmSensorRead, up, carried, absent]

/-- Sensor 2 answers the low half and latches the high half. -/
theorem Chip.doPldmSensorRead_energy (t : BitVec 8) :
    c.doPldmSensorRead i 2 t = (c.modMgmt (fun m => { m with latch := tabSet m.latch i (c.pow.energy.headD 0 / 2 ^ 32) })).answer
      [0, c.pow.energy.headD 0 % 2 ^ 32] := Chip.doPldmSensorRead_some up carried rfl

/-- Sensor 3 answers what is latched. -/
theorem Chip.doPldmSensorRead_latched (t : BitVec 8) : c.doPldmSensorRead i 3 t = c.answer [0, tabGet 0 c.mgmt.latch i] :=
  Chip.doPldmSensorRead_some up carried rfl

/-- A temperature sensor answers what it measures. -/
theorem Chip.doPldmSensorRead_temp {n : Nat} (least : 9 ≤ n) (most : n ≤ 26) (t : BitVec 8) :
    c.doPldmSensorRead i n t = c.answer [0, t.toNat] := by
  have temp : c.sensor i n t = some t.toNat := by
    unfold Chip.sensor
    iterate 8 rw [if_neg (by omega)]
    exact if_pos ⟨least, most⟩
  rw [Chip.doPldmSensorRead_some up carried temp]
  exact congrArg (Chip.answer · [0, t.toNat]) (if_neg (by omega))

/-- A number that no sensor has is refused. -/
theorem Chip.doPldmSensorRead_none {n : Nat} (other : n = 0 ∨ 26 < n) (t : BitVec 8) : c.doPldmSensorRead i n t = c.answer [1] := by
  have absent : c.sensor i n t = none := by
    unfold Chip.sensor
    iterate 8 rw [if_neg (by omega)]
    exact if_neg (by omega)
  exact Chip.doPldmSensorRead_absent up carried absent

/-- A sensor read by one interface leaves what another has latched. -/
theorem Chip.doPldmSensorRead_latch_other {j : Nat} (other : i ≠ j) (n : Nat) (t : BitVec 8) :
    tabGet 0 (c.doPldmSensorRead i n t).mgmt.latch j = tabGet 0 c.mgmt.latch j := by
  cases found : c.sensor i n t with
  | none => rw [Chip.doPldmSensorRead_absent up carried found]; rfl
  | some x =>
    rw [Chip.doPldmSensorRead_some up carried found]
    split
    · exact tabGet_tabSet_other _ _ _ other
    · rfl

end Sensors

/-- Settles O56, by the reads of sensors 2 and 3 and what a read leaves of the other interfaces' latches. -/
theorem sensorLatchPerInterface : Obligations.SensorLatchPerInterface := by
  rintro s i j n t e up hi hj other rfl
  refine ⟨⟨_, exec_always (fun c => c.doPldmSensorRead i 2 t) rfl (Chip.doPldmSensorRead_energy up hi t), rfl, ?_, rfl⟩,
    ⟨_, exec_always (fun c => c.doPldmSensorRead j n t) rfl rfl,
      Chip.doPldmSensorRead_latch_other up hj (fun same => other (Fin.ext same)) n t⟩,
    exec_always (fun c => c.doPldmSensorRead i 3 t) rfl (Chip.doPldmSensorRead_latched up hi t)⟩
  exact tabGet_tabSet_same ..

/-! MCTP, PLDM and the vendor messages (19 R495 to R499) -/

/-- What an update whose image has arrived makes of management flash: the inactive slot holds the image, and runs next if it is accepted
(19 R496). -/
def Secure.updated (k : Secure) (type : Nat) (h : List Byte) (crypto : Bool) : Secure :=
  let slot := 1 - tabGet 0 k.active type
  let k1 := { k with img := tabSet k.img (2 * type + slot) (FlashImg.of h type crypto) }
  if k.rec_.judge h type crypto = 0 then { k1 with active := tabSet k1.active type slot } else k1

section Interfaces

variable {c : Chip} (up : c.mgmtUp = true) (whole : c.recovery = false)
include up

theorem Chip.doPldmDiscovery_mctp : c.doPldmDiscovery 3 = c.mgmtRefuse 3 [1] := by simp [Chip.doPldmDiscovery, up]

theorem Chip.doPldmDiscovery_types {i : Nat} (carried : i ≠ 3) :
    c.doPldmDiscovery i = c.answer (if i = 2 then [0, 0, 2] else [0, 0, 2, 5]) := by
  simp only [Chip.doPldmDiscovery, up, carried, Bool.not_true, Bool.false_eq_true, if_false]
  split <;> rfl

theorem Chip.doReadEvents_range {i start count : Nat} (carried : i ≠ 3) (outside : 1023 < start ∨ count = 0 ∨ 15 < count) :
    c.doReadEvents i start count = c.answer [0x01, 2] := by
  simp [Chip.doReadEvents, up, carried, outside]

theorem Chip.doReadEvents_entries {i start count : Nat} (carried : i ≠ 3) (first : start ≤ 1023) (least : 1 ≤ count) (most : count ≤ 15) :
    c.doReadEvents i start count = c.answer
      (0x01 :: 0 :: ((c.log.held.drop start).take count).flatMap (fun e => (e.bytes c.log.period).map (·.toNat))) := by
  have inside : ¬ (1023 < start ∨ count = 0 ∨ 15 < count) := by omega
  simp only [Chip.doReadEvents, up, carried, Bool.not_true, Bool.false_eq_true, if_false, inside]

theorem Chip.doReadReport_which {i which : Nat} (carried : i ≠ 3) :
    c.doReadReport i which = c.answer (if 1 < which then [0x02, 2]
      else 0x02 :: 0 :: ((if which = 0 then c.boot.report else c.boot.prev).bytes).map (·.toNat)) := by
  simp only [Chip.doReadReport, up, carried, Bool.not_true, Bool.false_eq_true, if_false]
  split <;> rfl

/-- The dispatch image is not updated this way (19 R497). -/
theorem Chip.secPldmFirmwareUpdate_dispatch {k : Secure} {i : Nat} {arrived crypto : Bool} {h : List Byte} (here : i < 2) :
    c.secPldmFirmwareUpdate k i 3 arrived h crypto = (c.answer [1], k) := by
  have near : ¬ 2 ≤ i := by omega
  simp [Chip.secPldmFirmwareUpdate, up, near]

include whole

theorem Chip.doMctpControl_up {i : Nat} (cmd : Nat) : c.doMctpControl i cmd = if i = 3 then c.mgmtRefuse i [1] else c.answer [0, cmd] := by
  simp [Chip.doMctpControl, up, whole]

/-- Firmware updates come by SMBus and I3C alone (19 R497). -/
theorem Chip.secPldmFirmwareUpdate_elsewhere {k : Secure} {i type : Nat} {arrived crypto : Bool} {h : List Byte} (elsewhere : 2 ≤ i) :
    c.secPldmFirmwareUpdate k i type arrived h crypto = (c.mgmtRefuse i [1], k) := by
  simp [Chip.secPldmFirmwareUpdate, up, whole, elsewhere]

/-- An update begins unless one is in progress. -/
theorem Chip.secPldmFirmwareUpdate_begins {k : Secure} {i type : Nat} {crypto : Bool} {h : List Byte} (here : i < 2)
    (kind : type = 1 ∨ type = 2 ∨ type = 4) : c.secPldmFirmwareUpdate k i type false h crypto =
      (if c.mgmt.update.isSome then c.answer [2] else (c.modMgmt (fun m => { m with update := some (i, type) })).answer [0], k) := by
  have near : ¬ 2 ≤ i := by omega
  have updated : ¬ (type ≠ 1 ∧ type ≠ 2 ∧ type ≠ 4) := by omega
  simp only [Chip.secPldmFirmwareUpdate, up, whole, near, updated, Bool.not_true, Bool.false_and, Bool.false_eq_true, if_false, false_and,
    or_self, Bool.not_false, if_true]
  split <;> rfl

theorem Chip.secPldmFirmwareUpdate_arrives {k : Secure} {i type : Nat} {crypto : Bool} {h : List Byte} (here : i < 2)
    (kind : type = 1 ∨ type = 2 ∨ type = 4) (own : c.mgmt.update = some (i, type)) : c.secPldmFirmwareUpdate k i type true h crypto =
      ((c.modMgmt (fun m => { m with update := none })).answer
        (if k.rec_.judge h type crypto = 0 then [0] else [3, k.rec_.judge h type crypto]), k.updated type h crypto) := by
  have near : ¬ 2 ≤ i := by omega
  have updated : ¬ (type ≠ 1 ∧ type ≠ 2 ∧ type ≠ 4) := by omega
  simp only [Chip.secPldmFirmwareUpdate, Secure.updated, up, whole, near, updated, own, Bool.not_true, Bool.false_and, Bool.false_eq_true,
    if_false, false_and, or_self, ne_eq, not_true_eq_false]
  split <;> rfl

end Interfaces

section Update

variable (k : Secure) (type : Nat) (h : List Byte) (crypto : Bool)

theorem Secure.updated_img : (k.updated type h crypto).img =
    tabSet k.img (2 * type + (1 - tabGet 0 k.active type)) (FlashImg.of h type crypto) := by
  unfold Secure.updated
  dsimp only
  split <;> rfl

/-- The image stands in the slot that was inactive. -/
theorem Secure.slot_updated_same : (k.updated type h crypto).slot type (1 - tabGet 0 k.active type) = FlashImg.of h type crypto := by
  rw [Secure.slot, Secure.updated_img, tabGet_tabSet_same]

/-- The other slot keeps its image. -/
theorem Secure.slot_updated_other : (k.updated type h crypto).slot type (1 - (1 - tabGet 0 k.active type)) =
    k.slot type (1 - (1 - tabGet 0 k.active type)) := by
  rw [Secure.slot, Secure.updated_img, tabGet_tabSet_other _ _ _ (by omega)]
  rfl

theorem Secure.updated_accepted (ok : k.rec_.judge h type crypto = 0) :
    tabGet 0 (k.updated type h crypto).active type = 1 - tabGet 0 k.active type := by
  rw [Secure.updated, ok]
  exact tabGet_tabSet_same ..

theorem Secure.updated_refused (bad : k.rec_.judge h type crypto ≠ 0) : (k.updated type h crypto).active = k.active := by
  rw [Secure.updated, if_neg bad]

theorem Secure.updated_records : (k.updated type h crypto).recA = k.recA ∧ (k.updated type h crypto).recB = k.recB := by
  unfold Secure.updated
  dsimp only
  split <;> exact ⟨rfl, rfl⟩

end Update

/-- Settles O58: each message is the case of its command that its interface and its fields select. -/
theorem managementInterfacesAnswer : Obligations.ManagementInterfacesAnswer := by
  intro s iface cmd sensor temp type h crypto start count which slot v up whole
  refine ⟨fun carried => ⟨?_, ?_, fun other => ?_, fun energy => ?_, fun latched => ?_, fun least most => ?_, fun outside => ?_,
    fun first least most => ?_, fun one => ?_, fun more => ?_⟩, fun doe => ⟨?_, ?_, ?_, rfl⟩, fun here kind hslot hv => ?_, fun here dispatch => ?_,
    fun elsewhere => ?_⟩
  · exact exec_always (fun c => c.doMctpControl iface cmd) rfl ((Chip.doMctpControl_up up whole cmd).trans (if_neg carried))
  · exact exec_always (fun c => c.doPldmDiscovery iface) rfl (Chip.doPldmDiscovery_types up carried)
  · exact exec_always (fun c => c.doPldmSensorRead iface sensor temp) rfl (Chip.doPldmSensorRead_none up carried other temp)
  · exact exec_always (fun c => c.doPldmSensorRead iface sensor temp) rfl (energy ▸ Chip.doPldmSensorRead_energy up carried temp)
  · exact exec_always (fun c => c.doPldmSensorRead iface sensor temp) rfl (latched ▸ Chip.doPldmSensorRead_latched up carried temp)
  · exact exec_always (fun c => c.doPldmSensorRead iface sensor temp) rfl (Chip.doPldmSensorRead_temp up carried least most temp)
  · exact exec_always (fun c => c.doReadEvents iface start count) rfl (Chip.doReadEvents_range up carried outside)
  · exact exec_always (fun c => c.doReadEvents iface start count) rfl (Chip.doReadEvents_entries up carried first least most)
  · exact exec_always (fun c => c.doReadReport iface which) rfl
      ((Chip.doReadReport_which up carried).trans (by rw [if_neg (by omega)]))
  · exact exec_always (fun c => c.doReadReport iface which) rfl
      ((Chip.doReadReport_which up carried).trans (by rw [if_pos more]))
  · exact exec_always (fun c => c.doMctpControl iface cmd) rfl (by rw [doe, Chip.doMctpControl_up up whole, if_pos rfl])
  · exact exec_always (fun c => c.doPldmDiscovery iface) rfl (by rw [doe, Chip.doPldmDiscovery_mctp up])
  · exact exec_always (fun c => c.doReadEvents iface start count) rfl (by simp [Chip.doReadEvents, up, doe])
  · subst hslot hv
    refine ⟨fun idle => ?_, fun busy => ?_, fun own => ?_⟩
    · exact exec_alwaysFlash (fun c k => c.secPldmFirmwareUpdate k iface type false h crypto) rfl
        ((Chip.secPldmFirmwareUpdate_begins up whole here kind).trans (by rw [idle]; rfl))
    · exact exec_alwaysFlash (fun c k => c.secPldmFirmwareUpdate k iface type false h crypto) rfl
        ((Chip.secPldmFirmwareUpdate_begins up whole here kind).trans (by rw [if_pos busy]))
    · have arrives := Chip.secPldmFirmwareUpdate_arrives (k := s.sec) (crypto := crypto) (h := h) up whole here kind own
      obtain ⟨recA, recB⟩ := s.sec.updated_records type h crypto
      refine ⟨_, _, exec_alwaysFlash (fun c k => c.secPldmFirmwareUpdate k iface type true h crypto) rfl arrives, rfl, s.sec.slot_updated_same .., s.sec.slot_updated_other ..,
        fun ok => ⟨s.sec.updated_accepted _ _ _ ok, if_pos ok⟩, fun bad => ⟨s.sec.updated_refused _ _ _ bad, if_neg bad⟩, recA, recB⟩
  · exact exec_alwaysFlash (fun c k => c.secPldmFirmwareUpdate k iface type false h crypto) rfl
      (dispatch ▸ Chip.secPldmFirmwareUpdate_dispatch up here)
  · exact exec_alwaysFlash (fun c k => c.secPldmFirmwareUpdate k iface type false h crypto) rfl
      (Chip.secPldmFirmwareUpdate_elsewhere up whole elsewhere)

end Sys2Proof.Machine
end

section
/-!
SPDM (19 R488 to R492): requests and their responses, and the signing queue.
-/

open Sys2Proof

namespace Sys2Proof.Machine

/-- A request on a transport that answers is answered by its operation. -/
theorem Chip.spdm_up {s : State} {tr : Fin 4} (up : spdmUp s tr) (f : Chip → Chip) : s.chip.spdm tr.val f = f s.chip := by
  obtain ⟨mgmt, doe, secure, sound⟩ := up
  have answers : ¬ ((!s.chip.mgmtUp) = true ∨ tr.val = 3 ∧ (!s.chip.live) = true) := by
    rintro (down | ⟨mailbox, dark⟩)
    · simp [mgmt] at down
    · simp [doe mailbox] at dark
  have able : ¬ ((!s.chip.mgmt.secure) = true ∨ s.chip.boot.safe = true ∧ s.chip.boot.report.code = 0x03) := by
    rintro (failed | identity)
    · simp [secure] at failed
    · exact sound identity
  rw [Chip.spdm, if_neg answers, if_neg able]

/-- A request of a transport that answers, whose operation does not look at management flash. -/
theorem exec_spdm {s : State} {tr : Fin 4} (up : spdmUp s tr) {i : Instr} (f : Chip → Chip) {d : Chip}
    (hi : exec i s = s.onChip (fun c => c.spdm tr.val f)) (hd : f s.chip = d) : exec i s = .next (withChip s d) :=
  exec_always _ hi ((Chip.spdm_up up f).trans hd)

/-- A request of a transport that answers, whose operation looks at management flash. -/
theorem exec_spdmFlash {s : State} {tr : Fin 4} (up : spdmUp s tr) {i : Instr} (f : Chip → Secure → Chip) {d : Chip}
    (hi : exec i s = s.onBoth (fun c k => (c.spdm tr.val (fun e => f e k), k))) (hd : f s.chip s.sec = d) :
    exec i s = .next (withChip s d) :=
  exec_alwaysFlash _ hi (congrArg (·, s.sec) ((Chip.spdm_up up (f · s.sec)).trans hd))

/-! The chain and its portions (19 R488) -/

/-- What GET_CERTIFICATE answers. -/
def Chip.certificate (c : Chip) (k : Secure) (slot off len : Nat) : Chip :=
  let all := c.chain k
  if slot ≠ 0 ∨ all.length < off then c.spdmError spdmInvalid
  else
    let part := (all.drop off).take len
    c.answer (0 :: part.length :: (all.length - off - part.length) :: part)

/-- A portion of the chain comes with its length and the length of what remains. -/
theorem Chip.certificate_portion {c : Chip} {k : Secure} {off : Nat} (inside : off ≤ (c.chain k).length) (len : Nat) :
    c.certificate k 0 off len = c.answer (0 :: min len ((c.chain k).length - off) ::
      ((c.chain k).length - off - min len ((c.chain k).length - off)) :: ((c.chain k).drop off).take len) := by
  have within : ¬ ((0 : Nat) ≠ 0 ∨ (c.chain k).length < off) := by omega
  have size : (((c.chain k).drop off).take len).length = min len ((c.chain k).length - off) := by
    rw [List.length_take, List.length_drop]
  unfold Chip.certificate
  rw [if_neg within]
  dsimp only
  rw [size]

theorem Chip.certificate_refused {c : Chip} {k : Secure} {slot off : Nat} (outside : slot ≠ 0 ∨ (c.chain k).length < off) (len : Nat) :
    c.certificate k slot off len = c.spdmError 0x01 := if_pos outside

/-! Measurements (19 R491) -/

/-- What GET_MEASUREMENTS answers. -/
def Chip.measurements (c : Chip) (k : Secure) (tr op : Nat) (signed : Bool) : Chip :=
  let idx := if op = 255 then [1, 2, 3, 4, 5, 6, 7] else if 1 ≤ op ∧ op ≤ 7 then [op] else []
  if op ≠ 0 ∧ idx.isEmpty then c.spdmError spdmInvalid
  else
    let all := (List.range 7).map (fun i => c.measure k (i + 1))
    let changed := match (c.spdmConn tr).meas with
      | some old => idx.any (fun i => old.getD (i - 1) [] != all.getD (i - 1) [])
      | none => false
    let e := c.setSpdm tr { c.spdmConn tr with meas := some all }
    let body := if op = 0 then [7] else b2n changed :: idx.flatMap (fun i => i :: all.getD (i - 1) [])
    if signed then e.sign tr (0x60 :: body) else e.answer (0 :: body)

theorem Chip.measurements_refused {c : Chip} {k : Secure} {tr op : Nat} (more : 7 < op) (less : op < 255) (signed : Bool) :
    c.measurements k tr op signed = c.spdmError 0x01 := by
  have all : ¬ op = 255 := by omega
  have one : ¬ (1 ≤ op ∧ op ≤ 7) := by omega
  unfold Chip.measurements
  rw [if_neg all, if_neg one]
  exact if_pos ⟨by omega, rfl⟩

/-- The indices that an operation asks for, each with its measurement. -/
theorem measOf_eq (s : State) {op : Nat} (asked : 1 ≤ op ∧ op ≤ 7 ∨ op = 255) :
    (if op = 255 then [1, 2, 3, 4, 5, 6, 7] else if 1 ≤ op ∧ op ≤ 7 then [op] else []).flatMap
      (fun i => i :: ((List.range 7).map (fun j => s.chip.measure s.sec (j + 1))).getD (i - 1) []) = measOf s op := by
  have value : ∀ i, 1 ≤ i → i ≤ 7 → ((List.range 7).map (fun j => s.chip.measure s.sec (j + 1))).getD (i - 1) [] = s.chip.measure s.sec i := by
    intro i least most
    have place : i - 1 < 7 := by omega
    rw [List.getD_eq_getElem?_getD, List.getElem?_map, List.getElem?_range place, Option.map_some, Option.getD_some, Nat.sub_add_cancel least]
  obtain ⟨least, most⟩ | rfl := asked
  · have one : ¬ op = 255 := by omega
    simp only [measOf, if_neg one, if_pos (And.intro least most), List.flatMap_cons, List.flatMap_nil, value op least most]
  · rfl

/-- The first measurements of a transcript come with ContentChanged clear, and are kept for the next. -/
theorem measurements_first {s : State} {tr op : Nat} (asked : 1 ≤ op ∧ op ≤ 7 ∨ op = 255) (fresh : (s.chip.spdmConn tr).meas = none)
    (signed : Bool) : s.chip.measurements s.sec tr op signed =
      let e := s.chip.setSpdm tr { s.chip.spdmConn tr with meas := some ((List.range 7).map (fun i => s.chip.measure s.sec (i + 1))) }
      if signed then e.sign tr (0x60 :: 0 :: measOf s op) else e.answer (0 :: 0 :: measOf s op) := by
  have nonzero : op ≠ 0 := by omega
  have some_ : ¬ (op ≠ 0 ∧ (if op = 255 then [1, 2, 3, 4, 5, 6, 7] else if 1 ≤ op ∧ op ≤ 7 then [op] else []).isEmpty = true) := by
    rintro ⟨-, empty⟩
    obtain one | rfl := asked
    · rw [if_neg (by omega), if_pos one] at empty
      cases empty
    · cases empty
  unfold Chip.measurements
  dsimp only
  rw [if_neg some_, measOf_eq s asked, if_neg nonzero, fresh]
  rfl

/-! Signatures (19 R492) -/

/-- RESPOND_IF_READY finds its response. -/
def Chip.respond (c : Chip) (tr token : Nat) : Chip :=
  match c.mgmt.kept.find? (fun r => r.id == token && r.tr == tr) with
  | some r => (c.modMgmt (fun m => { m with kept := m.kept.filter (fun x => x.id != token) })).answer (0 :: r.values)
  | none =>
    if c.mgmt.queue.any (fun r => r.id == token && r.tr == tr) then c.answer [1, spdmNotReadyCode, 14, 4, token]
    else c.spdmError spdmInvalid

theorem Chip.respond_kept {c : Chip} {r : SignReq} (kept : c.mgmt.kept = [r]) :
    c.respond r.tr r.id = (c.modMgmt (fun m => { m with kept := [] })).answer (0 :: r.values) := by
  have found : c.mgmt.kept.find? (fun x => x.id == r.id && x.tr == r.tr) = some r := by simp [kept]
  have gone : c.mgmt.kept.filter (fun x => x.id != r.id) = [] := by simp [kept]
  unfold Chip.respond
  rw [found]
  dsimp only [Chip.modMgmt]
  rw [gone]

theorem Chip.respond_unknown {c : Chip} (kept : c.mgmt.kept = []) (queue : c.mgmt.queue = []) (tr token : Nat) :
    c.respond tr token = c.spdmError 0x01 := by
  simp [Chip.respond, kept, queue, spdmInvalid]

/-- The first request of the queue that is not late is answered as not ready, and is late from then on. -/
theorem Chip.doSpdmNotReady_first {c : Chip} {r : SignReq} {rest : List SignReq} (queue : c.mgmt.queue = r :: rest) (early : r.late = false)
    (alone : ∀ x ∈ rest, x.id ≠ r.id) :
    (c.doSpdmNotReady).mgmt.queue = { r with late := true } :: rest ∧ c.doSpdmNotReady.reply = [1, 0x42, 14, 4, r.id] := by
  have found : c.mgmt.queue.find? (fun x => !x.late) = some r := by simp [queue, early]
  have others : rest.map (fun x => if x.id = r.id then { x with late := true } else x) = rest := by
    rw [List.map_congr_left (fun x mem => if_neg (alone x mem)), List.map_id']
  unfold Chip.doSpdmNotReady
  rw [found]
  refine ⟨?_, rfl⟩
  change ((c.passTo srcMgmt (r.since + 500000)).mgmt.queue).map _ = _
  rw [Chip.passTo_mgmt, queue, List.map_cons, if_pos rfl, others]

theorem Chip.doSpdmNotReady_late {c : Chip} (late : ∀ x ∈ c.mgmt.queue, x.late = true) : c.doSpdmNotReady = c := by
  have none_ : c.mgmt.queue.find? (fun x => !x.late) = none := List.find?_eq_none.mpr fun x mem => by simp [late x mem]
  rw [Chip.doSpdmNotReady, none_]

theorem Chip.doSpdmSignDone_first {c : Chip} {r : SignReq} {rest : List SignReq} (queue : c.mgmt.queue = r :: rest) :
    c.doSpdmSignDone = if r.late then c.modMgmt (fun m => { m with queue := rest, kept := m.kept ++ [r] })
      else (c.modMgmt (fun m => { m with queue := rest })).answer (0 :: r.tr :: r.values) := by
  rw [Chip.doSpdmSignDone, queue]
  dsimp only
  cases r.late <;> rfl

/-- Settles O57: requests by their operations on a transport that answers, and the queue by its first request. -/
theorem spdmAnswers : Obligations.SpdmAnswers := by
  refine ⟨?_, ?_⟩
  · rintro s tr slot off len op all r up rfl
    have certificate (c : Chip) := exec_spdmFlash up (fun c k => c.certificate k slot.val off.val len.val) (i := .getCertificate tr slot off len) (d := c) rfl
    have challenge (c : Chip) := exec_spdmFlash up (i := .challenge tr slot) (d := c)
      (fun c k => if slot.val ≠ 0 then c.spdmError spdmInvalid else c.sign tr.val (0x03 :: digest64 (Config.shake256 (c.chain k)))) rfl
    have measure (signed : Bool) (c : Chip) := exec_spdmFlash up (i := .getMeasurements tr op signed) (d := c)
      (fun c k => c.measurements k tr.val op.val signed) rfl
    have respond (c : Chip) := exec_spdm up (fun c => c.respond tr.val r.id) (i := .respondIfReady tr r.id) (d := c) rfl
    have algorithms (f k : Bool) (c : Chip) := exec_spdm up (i := .negotiateAlgorithms tr f k) (d := c)
      (fun d => if f && k then (d.setSpdm tr.val { d.spdmConn tr.val with algs := true }).answer [0, 0x04, 102202, 0x0001, 0x04, 102202, 0x0002]
        else d.spdmError spdmInvalid) rfl
    refine ⟨exec_spdm up (fun c => (c.setSpdm tr.val SpdmConn.fresh).answer [0, 0x12, 0x13]) rfl rfl,
      exec_spdm up (fun c => c.answer [0, 0x16]) rfl rfl, fun f k one => algorithms f k _ (if_neg (by simp [one])),
      ⟨_, algorithms true true _ rfl, ?_, rfl⟩,
      exec_spdmFlash up (fun c k => c.answer (0 :: 0x01 :: digest64 (Config.shake256 (c.chain k)))) rfl rfl, fun zero inside => ?_, fun outside => ?_,
      fun other => ?_, fun zero => ?_, fun asked fresh => ?_, fun more less => ?_, exec_spdm up (fun c => c.spdmError spdmUnsupportedCode) rfl rfl,
      fun c values => ⟨fun full => if_pos full, fun room => ?_⟩, fun kept same => ?_, fun kept queue => ?_⟩
    · exact congrArg SpdmConn.algs (tabGet_tabSet_same ..)
    · exact certificate _ (zero ▸ Chip.certificate_portion inside len.val)
    · exact certificate _ (Chip.certificate_refused outside len.val)
    · exact challenge _ (if_pos other)
    · exact challenge _ (if_neg (not_not.mpr zero))
    · refine ⟨_, measure false _ (measurements_first asked fresh false), rfl, ?_, _, measure true _ (measurements_first asked fresh true), rfl⟩
      exact congrArg SpdmConn.meas (tabGet_tabSet_same ..)
    · exact measure false _ (Chip.measurements_refused more less false)
    · rw [Chip.sign, if_neg (by omega)]
      exact ⟨rfl, rfl⟩
    · exact ⟨_, respond _ (same ▸ Chip.respond_kept kept), rfl, rfl⟩
    · exact respond _ (Chip.respond_unknown kept queue ..)
  · intro s r rest
    refine ⟨fun empty => ⟨exec_always (fun c => c.doSpdmSignDone) rfl (by rw [Chip.doSpdmSignDone, empty]),
      exec_always (fun c => c.doSpdmNotReady) rfl (Chip.doSpdmNotReady_late (by simp [empty]))⟩, fun queue => ⟨fun early => ?_, fun late => ?_,
      fun early alone => ?_, fun late => ?_⟩⟩
    · exact exec_always (fun c => c.doSpdmSignDone) rfl ((Chip.doSpdmSignDone_first queue).trans (if_neg (by simp [early])))
    · exact exec_always (fun c => c.doSpdmSignDone) rfl ((Chip.doSpdmSignDone_first queue).trans (if_pos late))
    · obtain ⟨first, reply⟩ := Chip.doSpdmNotReady_first queue early alone
      exact ⟨_, exec_always (fun c => c.doSpdmNotReady) rfl rfl, first, reply⟩
    · exact exec_always (fun c => c.doSpdmNotReady) rfl (Chip.doSpdmNotReady_late (queue ▸ late))

end Sys2Proof.Machine
end

section
/-!
GEVENT and GEVENT_EN (21 R519, R520, 00 R10): what a write of either leaves, and when the MSI goes out.
-/

open Sys2Proof

namespace Sys2Proof.Machine

/-! A write that reaches every field of its register (20 R509, 21 R514) -/

/-- A write of the whole register or of its low half is judged over every field, where all begin in the low half and none is split. -/
theorem Chip.regStore_lowHalf {c : Chip} {off : Nat} {a : SetupAcc} {lock : Fld → Nat → Option (Nat × Nat)} {apply : Chip → Nat → Chip}
    (reaches : reachesSetup a.writer.toNat = true) (low : a.half ≠ some true) (begins : ∀ f ∈ regFlds off, f.lo < 32)
    (whole : ∀ f ∈ regFlds off, splits (some false) f = false) : ∃ j : Judged,
      j = (regFlds off).foldl (judgeStep lock (c.regRead off % 2 ^ 64) (accValue (c.regRead off % 2 ^ 64) a))
        { value := c.regRead off % 2 ^ 64, logs := [] } ∧
      c.regStore off a lock apply = (apply c j.value).report off a j.logs := by
  have reach : (regFlds off).filter (covered a.half) = regFlds off := by
    refine List.filter_eq_self.mpr fun f mem => ?_
    match half : a.half with
    | none => rfl
    | some false => exact decide_eq_true (begins f mem)
    | some true => exact absurd half low
  have unsplit : (regFlds off).find? (splits a.half) = none := by
    refine List.find?_eq_none.mpr fun f mem => Bool.eq_false_iff.mp ?_
    match half : a.half with
    | none => rfl
    | some false => exact whole f mem
    | some true => exact absurd half low
  refine ⟨_, rfl, ?_⟩
  unfold Chip.regStore
  simp only [reaches, unsplit, judgeWrite, reach]
  rfl

/-- The value written to a register whose present value ends in the low half, the half that is not written being zero. -/
theorem accValue_small {a : SetupAcc} (low : a.half ≠ some true) {cur : Nat} (small : cur < 2 ^ 32) : accValue cur a = accValue 0 a := by
  unfold accValue
  match half : a.half with
  | none => rfl
  | some false => simp only [Nat.div_eq_of_lt small, Nat.zero_div]
  | some true => exact absurd half low

theorem accValue_lt {a : SetupAcc} (low : a.half ≠ some true) : accValue 0 a < 2 ^ 64 := by
  unfold accValue
  match half : a.half with
  | none => exact a.value.isLt
  | some false => dsimp only; omega
  | some true => exact absurd half low

/-- A bit of the low half of the value written. -/
theorem getLsbD_accValue {a : SetupAcc} (low : a.half ≠ some true) {i : Nat} (hi : i < 32) : a.value.getLsbD i = bit (accValue 0 a) i := by
  rw [bit_eq_testBit]
  unfold accValue
  match half : a.half with
  | none => rfl
  | some false =>
    show a.value.toNat.testBit i = (0 + a.value.toNat % 2 ^ 32).testBit i
    simp only [zero_add, Nat.testBit_mod_two_pow, hi, decide_true, Bool.true_and]
  | some true => exact absurd half low

/-! Flags (21 R519) -/

/-- The mask of ten bits without bit `e` has every other bit below ten. -/
theorem testBit_flagMask : ∀ e < 10, ∀ i < 10, (1023 - 2 ^ e).testBit i = decide (i ≠ e) := by decide

/-- Flags cleared one after another: those named go, the others stay. -/
theorem testBit_foldl_clear (p : Nat → Bool) (l : List Nat) (small : ∀ e ∈ l, e < 10) (g : Nat) {i : Nat} (hi : i < 10) :
    (l.foldl (fun g e => if p e then g &&& (1023 - 2 ^ e) else g) g).testBit i = (g.testBit i && !(p i && l.contains i)) := by
  induction l generalizing g with
  | nil => simp
  | cons e r ih =>
    rw [List.foldl_cons, ih (fun x hx => small x (List.mem_cons_of_mem e hx))]
    by_cases named : p e = true
    · rw [if_pos named, Nat.testBit_and, testBit_flagMask e (small e List.mem_cons_self) i hi]
      by_cases same : i = e
      · simp [same, named]
      · simp [same]
    · by_cases same : i = e
      · simp [same, named]
      · simp [named, same]

/-- The log with the flags of `p` cleared. -/
def LogState.clear (l : LogState) (p : Nat → Bool) : LogState :=
  { l with gevent := (List.range 10).foldl (fun g e => if p e then g &&& (1023 - 2 ^ e) else g) l.gevent }

/-- The log with the enables of GEVENT_EN replaced. -/
def LogState.enable (l : LogState) (n : Nat) : LogState := { l with geventEn := n }

theorem LogState.bit_clear (l : LogState) (p : Nat → Bool) {i : Nat} (hi : i < 10) :
    bit (l.clear p).gevent i = (bit l.gevent i && !p i) := by
  rw [bit_eq_testBit, bit_eq_testBit]
  refine (testBit_foldl_clear p _ (fun _ => List.mem_range.mp) _ hi).trans ?_
  simp [hi]

/-- The chip after the MSI that follows a write, if any (21 R520). -/
theorem Chip.gintAgain_eq (c : Chip) : c.gintAgain = if c.log.live = 0 then c else c.msi c.log.gintCore 0 c.log.gintId := by
  unfold Chip.gintAgain Chip.gint
  by_cases quiet : c.log.live = 0 <;> simp [quiet]

/-- The MSI of a flag that is set: it goes out when the flags that are set and enabled leave zero (21 R520). -/
theorem Chip.setGevent_eq (c : Chip) (i : Nat) : c.setGevent i =
    if c.log.live = 0 ∧ (c.log.flag i).live ≠ 0 then (c.modLog (LogState.flag · i)).msi c.log.gintCore 0 c.log.gintId
    else c.modLog (LogState.flag · i) := rfl

/-! A write of either register (21 R520) -/

/-- The reserved part above ten bits is judged to zero, and reported where something is written there. -/
theorem judged_aboveFlags {cur v : Nat} (small : v < 2 ^ 64) :
    (fRsv 63 10).judged noLock cur v = (0, if v < 1024 then none else some 6) := by
  have above : bits v 63 10 = 0 ↔ v < 1024 := by rw [bits_eq]; omega
  by_cases h : v < 1024
  · simp [Fld.judged, noLock, fRsv, FldKind.judge, above, h]
  · simp [Fld.judged, noLock, fRsv, FldKind.judge, above, h]

theorem entry_aboveFlags : (fRsv 63 10).entry 6 = (6, 10, 54) := rfl

theorem judged_enables (cur v : Nat) : (fAny 9 0).judged noLock cur v = (v % 1024, none) := by
  have field : bits v 9 0 = v % 1024 := by simp [bits_eq]
  rw [Fld.judged_of_takes (takes_fAny v) rfl]
  exact congrArg (·, none) field

/-- The fields of GEVENT_EN are judged to the ten enables written. -/
theorem judged_flagEnables (cur : Nat) {v : Nat} (small : v < 2 ^ 64) :
    ∀ f ∈ [fRsv 63 10, fAny 9 0], (f.judged noLock cur v).1 = bits (v % 1024) f.hi f.lo := by
  have above : bits (v % 1024) 63 10 = 0 := bits_of_lt 63 (Nat.mod_lt _ (by decide))
  have whole : bits (v % 1024) 9 0 = v % 1024 := bits_whole (Nat.mod_lt _ (by decide))
  refine List.forall_mem_cons.mpr ⟨?_, List.forall_mem_singleton.mpr ?_⟩
  · rw [judged_aboveFlags small]; exact above.symm
  · rw [judged_enables]; exact whole.symm

/-- What a write of GEVENT or GEVENT_EN reports: something written above the flags. -/
def flagLogs (v : Nat) : List (Nat × Nat × Nat) := if v < 1024 then [] else [(6, 10, 54)]

theorem Chip.report_flagLogs (c : Chip) (off : Nat) (a : SetupAcc) (v : Nat) :
    (v < 1024 → c.report off a (flagLogs v) = c) ∧
    (1024 ≤ v → ∃ x y w : Nat, c.report off a (flagLogs v) = c.cfgReport x y w 6 10 54 a.writer.toNat) := by
  refine ⟨fun small => by rw [flagLogs, if_pos small]; rfl, fun large => ⟨(accShown a off).1, (accShown a off).2, c.regRead off, ?_⟩⟩
  rw [flagLogs, if_neg (by omega)]
  rfl

section Writes

variable {c : Chip} {a : SetupAcc} (reaches : reachesSetup a.writer.toNat = true) (low : a.half ≠ some true)
include reaches low

theorem Chip.doGevent_low (small : c.log.gevent < 1024) : c.doGevent a =
    ((c.modLog (LogState.clear · a.value.getLsbD)).gintAgain).report 0x20 a (flagLogs (accValue 0 a)) := by
  have cur : c.regRead 0x20 % 2 ^ 64 = c.log.gevent := Nat.mod_eq_of_lt (show c.log.gevent < 2 ^ 64 by omega)
  have flds : regFlds 0x20 = [fRsv 63 10] := rfl
  obtain ⟨j, hj, judged⟩ := Chip.regStore_lowHalf (c := c) (off := 0x20) (lock := noLock)
    (apply := fun d _ => if a.half = some true then d else (d.modLog (LogState.clear · a.value.getLsbD)).gintAgain) reaches low (by decide) (by decide)
  have logs : j.logs = flagLogs (accValue 0 a) := by
    rw [hj, foldl_judgeStep, cur, accValue_small low (by omega)]
    by_cases h : accValue 0 a < 1024 <;>
      simp [flds, judged_aboveFlags (accValue_lt low), flagLogs, h, entry_aboveFlags]
  refine judged.trans ?_
  rw [logs, if_neg low]

theorem Chip.doGeventEn_low (small : c.log.geventEn < 1024) : c.doGeventEn a =
    ((c.modLog (LogState.enable · (accValue 0 a % 1024))).gintAgain).report 0x28 a (flagLogs (accValue 0 a)) := by
  have cur : c.regRead 0x28 % 2 ^ 64 = c.log.geventEn := Nat.mod_eq_of_lt (show c.log.geventEn < 2 ^ 64 by omega)
  have flds : regFlds 0x28 = [fRsv 63 10, fAny 9 0] := rfl
  obtain ⟨j, hj, judged⟩ := Chip.regStore_lowHalf (c := c) (off := 0x28) (lock := noLock)
    (apply := fun d v => if a.half = some true then d else (d.modLog (LogState.enable · (v % 1024))).gintAgain) reaches low (by decide) (by decide)
  rw [foldl_judgeStep, cur, accValue_small low (by omega)] at hj
  have logs : j.logs = flagLogs (accValue 0 a) := by
    rw [hj]
    by_cases h : accValue 0 a < 1024 <;>
      simp [flds, judged_aboveFlags (accValue_lt low), judged_enables, flagLogs, h, entry_aboveFlags]
  have value : j.value = accValue 0 a % 1024 := by
    rw [hj, flds]
    exact putFlds_eq (judged_flagEnables _ (accValue_lt low)) (n := 64) (by decide)
      (by rw [Nat.div_eq_of_lt (show c.log.geventEn < 2 ^ 64 by omega), Nat.div_eq_of_lt (show accValue 0 a % 1024 < 2 ^ 64 by omega)])
  refine judged.trans ?_
  rw [logs, if_neg low, value, Nat.mod_mod]

end Writes

/-- Settles O48: the fields of both registers begin in the low half, so that a write which is not of the high half alone is judged over all of
them; what it leaves in the log decides the MSI. -/
theorem eventFlagsInterrupt : Obligations.EventFlagsInterrupt := by
  unfold Obligations.EventFlagsInterrupt
  refine ⟨fun s a v hl reaches low hv smallFlags smallEn => ⟨?_, ?_⟩, fun c i hi => ?_⟩
  · have wrote := Chip.doGevent_low reaches low smallFlags
    rw [Chip.gintAgain_eq, ← hv] at wrote
    obtain ⟨taken, reported⟩ := Chip.report_flagLogs (if (s.chip.log.clear a.value.getLsbD).live = 0 then
      s.chip.modLog (LogState.clear · a.value.getLsbD) else
        (s.chip.modLog (LogState.clear · a.value.getLsbD)).msi s.chip.log.gintCore 0 s.chip.log.gintId) 0x20 a v
    refine ⟨s.chip.modLog (LogState.clear · a.value.getLsbD), _, _, rfl, exec_live (fun c => c.doGevent a) hl rfl wrote, taken, reported,
      fun i hi => ?_, rfl, rfl, rfl, rfl⟩
    rw [hv, ← getLsbD_accValue low (by omega)]
    exact LogState.bit_clear _ _ hi
  · have wrote := Chip.doGeventEn_low reaches low smallEn
    rw [Chip.gintAgain_eq, ← hv] at wrote
    obtain ⟨taken, reported⟩ := Chip.report_flagLogs (if (s.chip.log.enable (v % 1024)).live = 0 then
      s.chip.modLog (LogState.enable · (v % 1024)) else
        (s.chip.modLog (LogState.enable · (v % 1024))).msi s.chip.log.gintCore 0 s.chip.log.gintId) 0x28 a v
    exact ⟨s.chip.modLog (LogState.enable · (v % 1024)), _, _, rfl, exec_live (fun c => c.doGeventEn a) hl rfl wrote, taken, reported,
      rfl, rfl, rfl, rfl⟩
  · refine ⟨c.modLog (LogState.flag · i), ?_, tabGet_tabSet_same .., fun k _ other => ?_, rfl, rfl, fun quiet leaves => ?_, fun stays => ?_⟩
    · rw [bit_eq_testBit]; simp [Chip.modLog, LogState.flag, Nat.testBit_or]
    · rw [bit_eq_testBit, bit_eq_testBit]; simp [Chip.modLog, LogState.flag, Nat.testBit_or, other.symm]
    · rw [Chip.setGevent_eq]; exact if_pos ⟨quiet, leaves⟩
    · rw [Chip.setGevent_eq]; exact if_neg fun ⟨quiet, leaves⟩ => stays.elim (· quiet) leaves

end Sys2Proof.Machine
end

section
/-!
Writes of setup registers: how a field and a whole register are judged (20 R509, R510, 21 R514, R515), and where SETUP_WRITE arrives
(21 R513, R514).
-/

open Sys2Proof

namespace Sys2Proof.Machine

/-! Fields (20 R509, Table 20.8) -/

section Numeric

variable {a b new : Nat} (lo old : Nat)

theorem judge_num_value (ordered : a ≤ b) : ((FldKind.num a b).judge lo old new).1 = max a (min b new) := by
  unfold FldKind.judge
  dsimp only
  split
  · dsimp only; omega
  · split <;> (dsimp only; omega)

theorem judge_num_reason : ((FldKind.num a b).judge lo old new).2 = none ↔ a ≤ new ∧ new ≤ b := by
  unfold FldKind.judge
  dsimp only
  split
  · simp; omega
  · split <;> simp <;> omega

theorem judge_num_below (below : new < a) : (FldKind.num a b).judge lo old new = (a, some 1) := if_pos below

theorem judge_num_above (above : b < new) (least : a ≤ new) : (FldKind.num a b).judge lo old new = (b, some 2) := by
  simp [FldKind.judge, above, not_lt.mpr least]

/-- Between two steps a field takes the lower one. -/
theorem judge_step_value {n : Nat} (least : a ≤ new) (most : new ≤ b) : ((FldKind.step a b n).judge lo old new).1 = new / n * n := by
  have parts := Nat.div_add_mod' new n
  unfold FldKind.judge
  dsimp only
  rw [if_neg (not_lt.mpr least), if_neg (not_lt.mpr most)]
  split <;> (dsimp only; omega)

end Numeric

theorem judge_codes_listed {l : List Nat} {new : Nat} (h : new ∈ l) (lo old : Nat) : (FldKind.codes l).judge lo old new = (new, none) :=
  if_pos (List.contains_iff_mem.mpr h)

theorem judge_codes_other {l : List Nat} {new : Nat} (h : new ∉ l) (lo old : Nat) : (FldKind.codes l).judge lo old new = (old, some 4) :=
  if_neg (mt List.contains_iff_mem.mp h)

theorem judge_ro_value (lo old new : Nat) : (FldKind.ro.judge lo old new).1 = old := by unfold FldKind.judge; dsimp only; split <;> rfl

theorem judge_rsvd_value (lo old new : Nat) : (FldKind.rsvd.judge lo old new).1 = 0 := by unfold FldKind.judge; dsimp only; split <;> rfl

/-! Registers (21 R514, R515) -/

section Registers

variable {c : Chip} {off : Nat} {a : SetupAcc} {lock : Fld → Nat → Option (Nat × Nat)} {apply : Chip → Nat → Chip}

theorem Chip.regStore_unreached (far : reachesSetup a.writer.toNat = false) : c.regStore off a lock apply = c := by
  simp [Chip.regStore, far]

/-- A write of the whole register applies what it is judged to and reports what is not as written. -/
theorem Chip.regStore_whole (reaches : reachesSetup a.writer.toNat = true) (whole : a.half = none) {j : Judged}
    (hj : j = judgeWrite (regFlds off) (c.regRead off % 2 ^ 64) a.value.toNat none lock) :
    c.regStore off a lock apply = (apply c j.value).report off a j.logs := by
  have unsplit : (regFlds off).find? (splits none) = none := List.find?_eq_none.mpr fun _ _ => by simp [splits]
  rw [hj]
  simp only [Chip.regStore, reaches, whole, unsplit, accValue]
  rfl

/-- A half of a field wider than a half is not written. -/
theorem Chip.regStore_split (reaches : reachesSetup a.writer.toNat = true) {h : Bool} {f : Fld} (half : a.half = some h)
    (split : (regFlds off).find? (splits (some h)) = some f) : c.regStore off a lock apply = c.report off a [f.entry 8] := by
  simp only [Chip.regStore, reaches, half, split]
  rfl

theorem Chip.report_one (e : Nat × Nat × Nat) :
    c.report off a [e] = c.cfgReport (accShown a off).1 (accShown a off).2 (c.regRead off) e.1 e.2.1 e.2.2 a.writer.toNat := rfl

end Registers

/-! SETUP_WRITE (21 R513, R514) -/

section SetupWrite

variable {c : Chip} {addr : BitVec 52} {bytes : BitVec 8} {value : BitVec 64} {writer : BitVec 32}

theorem Chip.doSetupWrite_outside (h : addr.toNat < 0xF00000000000 ∨ 0xF80000000000 ≤ addr.toNat ∨ reachesSetup writer.toNat = false) :
    c.doSetupWrite addr bytes value writer = c := by
  unfold Chip.doSetupWrite
  dsimp only
  refine if_pos ?_
  obtain low | high | far := h
  · exact .inl low
  · exact .inr (.inl high)
  · exact .inr (.inr (.inr (by simp [far])))

variable {off : Nat} (reaches : reachesSetup writer.toNat = true) (inside : addr.toNat = 0xF00000000000 + off) (below : off < 0x40000000)
include reaches inside below

/-- Inside the region and before the doorbells, the width and the offset decide. -/
theorem Chip.doSetupWrite_inside : c.doSetupWrite addr bytes value writer =
    if (bytes.toNat ≠ 4 ∧ bytes.toNat ≠ 8) ∨ addr.toNat % bytes.toNat ≠ 0 then
      (c.cfgReport addr.toNat (value.toNat % 2 ^ (8 * bytes.toNat)) (c.regRead (off / 8 * 8)) 8 (c.freeVal % 64)
        (Config.freeValue (c.free + 1) % 256) writer.toNat).took 2
    else if unassigned (off / 8 * 8) then c.cfgReport addr.toNat (value.toNat % 2 ^ (8 * bytes.toNat)) 0 6 0 64 writer.toNat
    else c.regAnyWrite (off / 8 * 8)
      { value := value, half := if bytes.toNat = 8 then none else some (off % 8 == 4), writer := writer } := by
  have at_ : addr.toNat - setupBase = off := by simp [setupBase, inside]
  have arrives : ¬ (addr.toNat < setupBase ∨ 0xF80000000000 ≤ addr.toNat ∨ (0x40000000 ≤ off ∧ off < 0x40800000) ∨
      !reachesSetup writer.toNat) := by
    simp only [reaches, setupBase, inside]
    simp
    omega
  unfold Chip.doSetupWrite
  dsimp only
  rw [at_, if_neg arrives]

/-- Another width than four and eight bytes. -/
theorem Chip.doSetupWrite_width (width : bytes.toNat ≠ 4 ∧ bytes.toNat ≠ 8) :
    ∃ x y w l n, c.doSetupWrite addr bytes value writer = (c.cfgReport x y w 8 l n writer.toNat).took 2 := by
  rw [Chip.doSetupWrite_inside reaches inside below, if_pos (.inl width)]
  exact ⟨_, _, _, _, _, rfl⟩

variable (eight : bytes = 8) (aligned : off % 8 = 0)
include eight aligned

theorem Chip.doSetupWrite_eight : c.doSetupWrite addr bytes value writer =
    if unassigned off then c.cfgReport addr.toNat value.toNat 0 6 0 64 writer.toNat
    else c.regAnyWrite off { value := value, half := none, writer := writer } := by
  have width : bytes.toNat = 8 := by rw [eight]; rfl
  have whole : off / 8 * 8 = off := by omega
  have legal : ¬ ((8 ≠ 4 ∧ 8 ≠ 8) ∨ addr.toNat % 8 ≠ 0) := by omega
  have value64 : value.toNat % 2 ^ (8 * 8) = value.toNat := Nat.mod_eq_of_lt value.isLt
  rw [Chip.doSetupWrite_inside reaches inside below, width, whole, if_neg legal, value64, if_pos rfl]

end SetupWrite

/-! The core ceiling, a register without behaviour of its own (18 R464, 21 Table 21.7) -/

/-- The ceiling's register is judged by its fields alone and kept in the bank. -/
theorem Chip.regAnyWrite_ceiling (c : Chip) (a : SetupAcc) :
    c.regAnyWrite 0x400008 a = c.regStore 0x400008 a noLock (toBank 0x400008) := by
  have plain : c.regAnyWrite 0x400008 a = c.plainWrite 0x400008 a := by simp [Chip.regAnyWrite]
  rw [plain, Chip.plainWrite]
  rfl

section Ceiling

variable {c : Chip} {a : SetupAcc} {v : Nat} (whole : wholeWrite a v)
include whole

theorem Chip.regAnyWrite_ceiling_legal (least : 800 ≤ v) (most : v ≤ 3000) (step : v % 100 = 0) :
    c.regAnyWrite 0x400008 a = c.setReg 0x400008 v := by
  have small : v < 2 ^ 12 := by omega
  have field : Fld.takes ⟨11, 0, .step 800 3000 100⟩ v := fun _ => by
    simp [bits_whole small, FldKind.judge, not_lt.mpr least, not_lt.mpr most, step]
  have stores : ∀ f ∈ regFlds 0x400008, f.stores v :=
    List.forall_mem_cons.mpr ⟨stores_fRsv (bits_of_lt 63 small), List.forall_mem_singleton.mpr ⟨field, .inl rfl⟩⟩
  rw [Chip.regAnyWrite_ceiling, Chip.regStore_bank whole (by decide) stores fun _ _ => rfl]

/-- A ceiling below the least is put to the least, and reported. -/
theorem Chip.regAnyWrite_ceiling_low (low : v < 800) :
    c.regAnyWrite 0x400008 a = (c.setReg 0x400008 800).cfgReport (setupBase + 0x400008) v 800 1 0 12 a.writer.toNat := by
  have one : regFlds 0x400008 = [fRsv 63 12, ⟨11, 0, .step 800 3000 100⟩] := rfl
  have small : v < 2 ^ 12 := by omega
  have value : bits v 11 0 = v := bits_whole small
  have judged : Fld.judged noLock (c.regRead 0x400008 % 2 ^ 64) v ⟨11, 0, .step 800 3000 100⟩ = (800, some 1) := by
    simp [Fld.judged, value, FldKind.judge, low, noLock]
  rw [Chip.regAnyWrite_ceiling, Chip.regStore_low_reported whole (by decide) one rfl rfl (by decide) small (by decide) rfl judged,
    toBank_low (by decide) one (by decide) (by decide) rfl, Chip.report_one]
  have shown : accShown a 0x400008 = (setupBase + 0x400008, v) := by simp [accShown, whole.1, whole.2.1]
  have reads : (c.setReg 0x400008 800).regRead 0x400008 = 800 := by
    show (c.setReg 0x400008 800).rw 0x400008 = 800
    simp [Chip.rw, Chip.setReg, Chip.modRegs]
  rw [shown, reads]
  rfl

end Ceiling

/-- Settles O47: a field's own kind judges it; a write of a whole register applies the judged fields and reports the others; and SETUP_WRITE is
that write where the address and the width are those of a register. -/
theorem setupWritesJudged : Obligations.SetupWritesJudged := by
  unfold Obligations.SetupWritesJudged
  refine ⟨⟨fun a b n lo old new ordered _ => ⟨judge_num_value lo old ordered, judge_num_reason lo old, ?_, ?_, judge_step_value lo old⟩,
    fun l lo old new => ⟨fun h => judge_codes_listed h lo old, fun h => judge_codes_other h lo old, judge_ro_value .., judge_rsvd_value ..⟩,
    fun c off a lock apply j => ⟨Chip.regStore_unreached, fun reaches whole hj => ⟨?_, ?_⟩, ?_⟩⟩,
    fun s addr bytes value writer off n hl hc => ⟨?_, fun reaches inside below => ⟨?_, ?_, ?_, ?_, ?_⟩⟩⟩
  · exact fun below => congrArg Prod.snd (judge_num_below lo old below)
  · exact fun above least => congrArg Prod.snd (judge_num_above lo old above least)
  · exact fun none_differ => by rw [Chip.regStore_whole reaches whole hj, none_differ]; rfl
  · exact fun l one => ⟨(apply c j.value).regRead off, by
      rw [Chip.regStore_whole reaches whole hj, one, Chip.report_one]; simp [accShown, whole]⟩
  · exact fun reaches h f half split => ⟨_, _, _, (Chip.regStore_split reaches half split).trans (Chip.report_one _)⟩
  · exact fun outside => exec_calm (fun c => c.doSetupWrite addr bytes value writer) hl hc rfl (Chip.doSetupWrite_outside outside)
  · rintro rfl notFour notEight
    obtain ⟨x, y, w, l, k, wrote⟩ := Chip.doSetupWrite_width (c := s.chip) (value := value) reaches inside below ⟨notFour, notEight⟩
    exact ⟨_, exec_calm (fun c => c.doSetupWrite addr bytes value writer) hl hc rfl wrote, (Chip.logged_cfgReport ..).part Chip.regs,
      (Chip.logged_cfgReport ..).part Chip.tile, Chip.cfgReport_cfgNext ..⟩
  · intro eight aligned none
    refine ⟨_, exec_calm (fun c => c.doSetupWrite addr bytes value writer) hl hc rfl
        ((Chip.doSetupWrite_eight reaches inside below eight aligned).trans (if_pos none)),
      (Chip.logged_cfgReport ..).part Chip.regs, (Chip.logged_cfgReport ..).part Chip.tile, Chip.cfgReport_cfgNext ..⟩
  · exact fun eight aligned some => exec_calm (fun c => c.doSetupWrite addr bytes value writer) hl hc rfl
      ((Chip.doSetupWrite_eight reaches inside below eight aligned).trans (if_neg (by simp [some])))
  · rintro rfl eight least most step
    refine exec_calm (fun c => c.doSetupWrite addr bytes value writer) hl hc rfl
      ((Chip.doSetupWrite_eight reaches inside below eight rfl).trans ((if_neg (by decide)).trans ?_))
    exact Chip.regAnyWrite_ceiling_legal ⟨rfl, rfl, reaches⟩ least most step
  · rintro rfl eight low
    refine ⟨_, exec_calm (fun c => c.doSetupWrite addr bytes value writer) hl hc rfl
      ((Chip.doSetupWrite_eight reaches inside below eight rfl).trans ((if_neg (by decide)).trans ?_)), rfl⟩
    rw [inside]
    exact Chip.regAnyWrite_ceiling_low ⟨rfl, rfl, reaches⟩ low

end Sys2Proof.Machine
end

section
/-!
CX0 as the host port of its domain (16 R420 to R422): what a worker's request writes, what a refused one leaves, and upstream writes.
-/

open Sys2Proof

namespace Sys2Proof.Machine

/-! Bytes that byte enables select -/

/-- The bytes of a line with their offsets. -/
theorem mem_offsets {data : BitVec 512} {x : Nat × Byte} :
    x ∈ (leBytes 64 data.toNat).zipIdx.map (fun p => (p.2, p.1)) ↔ (leBytes 64 data.toNat)[x.1]? = some x.2 := by
  simp only [List.mem_map, Prod.exists, List.mk_mem_zipIdx_iff_getElem?]
  exact ⟨fun ⟨b, i, at_, same⟩ => same ▸ at_, fun at_ => ⟨x.2, x.1, at_, rfl⟩⟩

theorem mem_enabled {be : BitVec 64} {data : BitVec 512} {x : Nat × Byte} :
    x ∈ enabled be data ↔ (leBytes 64 data.toNat)[x.1]? = some x.2 ∧ be.getLsbD x.1 = true := by
  rw [enabled, List.mem_filter, mem_offsets]

/-- All byte enables select the whole line. -/
theorem enabled_allOnes (data : BitVec 512) :
    enabled (BitVec.allOnes 64) data = (lineBytes data).zipIdx.map (fun x => (x.2, x.1)) := by
  refine List.filter_eq_self.mpr fun x mem => ?_
  have inLine := (List.getElem?_eq_some_iff.mp (mem_offsets.mp mem)).1
  rw [leBytes_length] at inLine
  rw [BitVec.getLsbD_allOnes, decide_eq_true inLine]

theorem enabled_eq_filter (be : BitVec 64) (data : BitVec 512) :
    enabled be data = ((lineBytes data).zipIdx.filter (fun x => bit be.toNat x.2)).map (fun x => (x.2, x.1)) := by
  rw [enabled, List.filter_map]
  simp only [lineBytes, bit_eq_testBit]
  rfl

/-- The bytes selected are the whole line when, and only when, every byte is enabled. -/
theorem maskFull_enabled (be : BitVec 64) (data : BitVec 512) : maskFull (enabled be data) = decide (be = BitVec.allOnes 64) := by
  rw [Bool.eq_iff_iff, decide_eq_true_iff]
  constructor
  · intro full
    refine BitVec.eq_of_getLsbD_eq fun i hi => ?_
    simp only [maskFull, List.all_eq_true, List.mem_range, List.any_eq_true] at full
    obtain ⟨x, mem, same⟩ := full i hi
    rw [beq_iff_eq] at same
    rw [← same, (mem_enabled.mp mem).2, BitVec.getLsbD_allOnes, decide_eq_true (by omega)]
  · rintro rfl
    rw [enabled_allOnes]
    exact maskFull_lineBytes data

/-! What the events of a refused request leave, the log being off (18 R479) -/

theorem Chip.winNote_modLog (c : Chip) (code : Ev) (key : List Nat) (w : Nat) :
    ∃ l, (c.winNote code key w).1 = c.modLog (fun k => { k with wins := l }) := by
  unfold Chip.winNote
  split
  · dsimp only
    split <;> exact ⟨_, rfl⟩
  · exact ⟨_ :: c.log.wins, rfl⟩

theorem Chip.emit_off_mem {c : Chip} (off : c.log.logEn = false) (code : Ev) (src : Nat) (args : List Nat) (k : Nat) :
    (c.emit code src args k).mem = c.mem := by
  rw [Chip.emit, Chip.ringEvent_off]
  · rfl
  · exact .inr off

/-- With the log off, an event of a window is noted in the package's own records alone. -/
theorem Chip.logWin_off_mem {c : Chip} (off : c.log.logEn = false) (code : Ev) (key : List Nat) (clock len src : Nat) (args : List Nat) :
    (c.logWin code key clock len src args).mem = c.mem := by
  obtain ⟨l, noted⟩ := c.winNote_modLog code key (c.count clock / len)
  unfold Chip.logWin
  dsimp only
  rw [noted]
  split
  · rfl
  · rw [Chip.emit_off_mem]
    · rfl
    · exact off

/-! Workers' requests (16 R421) -/

section Workers

variable {c : Chip} {slot pa : Nat} {f : Chip → Nat → Chip}

theorem Chip.cxhCarry_worker (worker : c.boot.manager = false) : c.cxhCarry slot pa f = c := by simp [Chip.cxhCarry, worker]

theorem Chip.cxhCarry_outside (manager : c.boot.manager = true) (outside : c.inWindow (pa / 64 * 64) = false) :
    c.cxhCarry slot pa f = c.cxhRefuse slot (pa / 64 * 64) := by simp [Chip.cxhCarry, manager, outside]

theorem Chip.cxhCarry_inside (manager : c.boot.manager = true) (inside : c.inWindow (pa / 64 * 64) = true) :
    c.cxhCarry slot pa f = f c (pa / 64 * 64) := by simp [Chip.cxhCarry, manager, inside]

variable {addr : BitVec 52} (manager : c.boot.manager = true) (inside : c.inWindow (addr.toNat / 64 * 64) = true)
include manager inside

theorem Chip.doRdcurr_backed (quiet : c.quiet = true) (backed : c.mem.backedN (addr.toNat / 64 * 64) 64 = true) :
    c.doRdcurr slot addr = c.answer (0 :: b2n (c.mem.poisonedN (addr.toNat / 64 * 64) 64) ::
      (c.mem.readN (addr.toNat / 64 * 64) 64).map (·.toNat)) := by
  rw [Chip.doRdcurr, Chip.cxhCarry_inside manager inside, if_pos backed, Chip.quiet_fetchN quiet]

theorem Chip.doRdcurr_unbacked (unbacked : c.mem.backedN (addr.toNat / 64 * 64) 64 = false) :
    c.doRdcurr slot addr = (c.logUnbacked srcRoot (addr.toNat / 64 * 64)).answer [1] := by
  rw [Chip.doRdcurr, Chip.cxhCarry_inside manager inside, if_neg (by simp [unbacked])]

theorem Chip.cxhWrite_refused (refused : c.writable (addr.toNat / 64 * 64) 64 = false) (ps : List (Nat × Byte)) :
    c.cxhWrite slot addr ps = (c.logRefused srcRoot (addr.toNat / 64 * 64) 64).answer [1] := by
  rw [Chip.cxhWrite, Chip.cxhCarry_inside manager inside, if_neg (by simp [refused])]

theorem Chip.cxhWrite_writable (quiet : c.quiet = true) (writable : c.writable (addr.toNat / 64 * 64) 64 = true) (ps : List (Nat × Byte)) :
    c.cxhWrite slot addr ps = (c.modMem (fun m => m.putLine (addr.toNat / 64) (maskLine (m.line (addr.toNat / 64)).1 ps)
      (!maskFull ps && (m.line (addr.toNat / 64)).2))).answer [0] := by
  rw [Chip.cxhWrite, Chip.cxhCarry_inside manager inside, if_pos writable, Chip.quiet_meet quiet, Nat.mul_div_cancel _ (by decide)]
  rfl

end Workers

/-! Upstream writes (16 R422) -/

theorem Chip.doUpstreamCxlio_page {c : Chip} (manager : c.boot.manager = true) {core file : Nat} (hc : core < 64) (hf : file < 7)
    {va : BitVec 64} (page : va.toNat = 0xFD0000000000 + 0x8000 * core + 0x1000 * file) (v : BitVec 32) :
    c.doUpstreamCxlio true va v = (c.msi core file v.toNat).answer [0] := by
  have inFiles : 0xFD0000000000 ≤ va.toNat ∧ va.toNat - 0xFD0000000000 < 64 * 0x8000 := by omega
  have ofFile : (va.toNat - 0xFD0000000000) % 0x1000 = 0 ∧ (va.toNat - 0xFD0000000000) % 0x8000 / 0x1000 < 7 := by omega
  have coreIs : (va.toNat - 0xFD0000000000) / 0x8000 = core := by omega
  have fileIs : (va.toNat - 0xFD0000000000) % 0x8000 / 0x1000 = file := by omega
  unfold Chip.doUpstreamCxlio
  dsimp only
  rw [if_neg (by simp [manager]), if_pos ⟨rfl, inFiles⟩, if_pos ofFile, coreIs, fileIs]

/-- A read, and a write elsewhere, is no supported request. -/
theorem Chip.doUpstreamCxlio_unsupported {c : Chip} (manager : c.boot.manager = true) {write : Bool} {va : BitVec 64}
    (elsewhere : write = true → va.toNat < 0xFD0000000000 ∨ 0xFD0000200000 ≤ va.toNat) (v : BitVec 32) :
    c.doUpstreamCxlio write va v = c.answer [1] := by
  have notFiles : ¬ (write = true ∧ 0xFD0000000000 ≤ va.toNat ∧ va.toNat - 0xFD0000000000 < 64 * 0x8000) := by
    rintro ⟨written, least, below⟩
    have outside := elsewhere written
    omega
  unfold Chip.doUpstreamCxlio
  dsimp only
  rw [if_neg (by simp [manager]), if_neg notFiles]

/-! Domain slots (16 R422) -/

section Slots

variable {c : Chip} (manager : c.boot.manager = true) (strap : BitVec 8) (reqid : BitVec 16)
include manager

theorem Chip.doDomainSlotAssign_free (slot : strap.toNat % 32 ≠ 0) (free : tabFind c.cxl.slots (strap.toNat % 32) = none) :
    c.doDomainSlotAssign strap reqid = c.modCxl (fun x =>
      { x with slots := tabSet x.slots (strap.toNat % 32) { strap := strap.toNat, reqid := reqid.toNat } }) := by
  simp [Chip.doDomainSlotAssign, manager, slot, free]

theorem Chip.doDomainSlotAssign_bad (bad : strap.toNat % 32 = 0 ∨ tabFind c.cxl.slots (strap.toNat % 32) ≠ none) :
    c.doDomainSlotAssign strap reqid = c.logEv .domainSlotBad srcRoot [strap.toNat, reqid.toNat] := by
  unfold Chip.doDomainSlotAssign
  dsimp only
  rw [if_neg (by simp [manager]), if_pos (bad.imp_right Option.isSome_iff_ne_none.mpr)]

end Slots

/-- Settles O46: a request is carried, refused or answered with an error by the window and by what its line admits; on a calm package nothing
has to be waited for. -/
theorem workersRequestsCarried : Obligations.WorkersRequestsCarried := by
  unfold Obligations.WorkersRequestsCarried
  rintro s slot addr be data a ln hl hc rfl rfl
  have quiet := State.quiet_of_calm hc
  have rdcurr {d : Chip} (hd : s.chip.doRdcurr slot.val addr = d) : exec (.rdcurr slot addr) s = .next (withChip s d) :=
    exec_calm (fun c => c.doRdcurr slot.val addr) hl hc rfl hd
  have itomwr {d : Chip} (hd : s.chip.cxhWrite slot.val addr (enabled (BitVec.allOnes 64) data) = d) :
      exec (.itomwr slot addr data) s = .next (withChip s d) := exec_calm (fun c => c.doItomwr slot.val addr data) hl hc rfl hd
  have wowrinv {d : Chip} (hd : s.chip.cxhWrite slot.val addr (enabled be data) = d) :
      exec (.wowrinv slot addr be data) s = .next (withChip s d) := exec_calm (fun c => c.doWowrinv slot.val addr be data) hl hc rfl hd
  refine ⟨fun worker => ⟨rdcurr (Chip.cxhCarry_worker worker), itomwr (Chip.cxhCarry_worker worker), wowrinv (Chip.cxhCarry_worker worker)⟩,
    fun manager outside => ⟨rdcurr (Chip.cxhCarry_outside manager outside), itomwr (Chip.cxhCarry_outside manager outside),
      wowrinv (Chip.cxhCarry_outside manager outside), rfl, fun off => Chip.logWin_off_mem off ..⟩,
    fun manager inside => ⟨fun backed => rdcurr (Chip.doRdcurr_backed manager inside quiet backed), fun writable => ⟨itomwr ?_, wowrinv ?_⟩,
      fun unbacked => rdcurr (Chip.doRdcurr_unbacked manager inside unbacked),
      fun refused => ⟨itomwr (Chip.cxhWrite_refused manager inside refused _), wowrinv (Chip.cxhWrite_refused manager inside refused _)⟩⟩,
    ?_, ?_⟩
  · rw [Chip.cxhWrite_writable manager inside quiet writable, maskFull_enabled, enabled_allOnes]
    simp
  · rw [Chip.cxhWrite_writable manager inside quiet writable, maskFull_enabled, enabled_eq_filter]
  · rintro strap reqid n rfl manager
    exact ⟨fun slot free => exec_live (fun c => c.doDomainSlotAssign strap reqid) hl rfl (Chip.doDomainSlotAssign_free manager strap reqid slot free),
      fun bad => exec_live (fun c => c.doDomainSlotAssign strap reqid) hl rfl (Chip.doDomainSlotAssign_bad manager strap reqid bad)⟩
  · intro core file va v manager
    exact ⟨fun page => exec_live (fun c => c.doUpstreamCxlio true va v) hl rfl (Chip.doUpstreamCxlio_page manager core.isLt file.isLt page v),
      fun outside => exec_live (fun c => c.doUpstreamCxlio true va v) hl rfl (Chip.doUpstreamCxlio_unsupported manager (fun _ => outside) v),
      exec_live (fun c => c.doUpstreamCxlio false va v) hl rfl (Chip.doUpstreamCxlio_unsupported manager (fun h => absurd h (by decide)) v)⟩

end Sys2Proof.Machine
end

section
/-!
Power (18 R465 to R471, R476, R480, 22 R540): the order of the actuators, the boundary of a control period, droops, trips and telemetry.
-/

open Sys2Proof

namespace Sys2Proof.Machine

/-! Actuators (18 R466) -/

section Actuators

variable {g x : Grants} {floor : Nat}

theorem Grants.lower_tile (tile : 400 < g.tile) : g.lower floor = some { g with tile := g.tile - 25 } := if_pos tile

theorem Grants.lower_core (tile : g.tile ≤ 400) (core : floor < g.core) : g.lower floor = some { g with core := g.core - 100 } := by
  simp [Grants.lower, not_lt.mpr tile, core]

theorem Grants.lower_ledge (tile : g.tile ≤ 400) (core : g.core ≤ floor) (ledge : 625 < g.ledge) :
    g.lower floor = some { g with ledge := g.ledge - 25 } := by
  simp [Grants.lower, not_lt.mpr tile, not_lt.mpr core, ledge]

theorem Grants.lower_pause (tile : g.tile ≤ 400) (core : g.core ≤ floor) (ledge : g.ledge ≤ 625) :
    g.lower floor = if g.pause < 90 then some { g with pause := g.pause + 10 } else none := by
  simp [Grants.lower, not_lt.mpr tile, not_lt.mpr core, not_lt.mpr ledge]

variable (lowered : g.lower floor = some x)
include lowered

/-- The pause is the last of the actuators. -/
theorem Grants.lower_some_pause (tile : g.tile ≤ 400) (core : g.core ≤ floor) (ledge : g.ledge ≤ 625) :
    g.pause < 90 ∧ x = { g with pause := g.pause + 10 } := by
  rw [Grants.lower_pause tile core ledge] at lowered
  split at lowered
  · exact ⟨‹_›, (Option.some.inj lowered).symm⟩
  · cases lowered

/-- Only an actuator whose predecessors are at their limits is lowered: the four cases of a step. -/
theorem Grants.lower_cases :
    (400 < g.tile ∧ x = { g with tile := g.tile - 25 }) ∨
    (g.tile ≤ 400 ∧ floor < g.core ∧ x = { g with core := g.core - 100 }) ∨
    (g.tile ≤ 400 ∧ g.core ≤ floor ∧ 625 < g.ledge ∧ x = { g with ledge := g.ledge - 25 }) ∨
    (g.tile ≤ 400 ∧ g.core ≤ floor ∧ g.ledge ≤ 625 ∧ x = { g with pause := g.pause + 10 }) := by
  rcases lt_or_ge 400 g.tile with tile | tile
  · exact .inl ⟨tile, Option.some.inj (lowered.symm.trans (Grants.lower_tile tile))⟩
  rcases lt_or_ge floor g.core with core | core
  · exact .inr (.inl ⟨tile, core, Option.some.inj (lowered.symm.trans (Grants.lower_core tile core))⟩)
  rcases lt_or_ge 625 g.ledge with ledge | ledge
  · exact .inr (.inr (.inl ⟨tile, core, ledge, Option.some.inj (lowered.symm.trans (Grants.lower_ledge tile core ledge))⟩))
  · exact .inr (.inr (.inr ⟨tile, core, ledge, (Grants.lower_some_pause lowered tile core ledge).2⟩))

/-- The pause changes only once every other actuator is at its limit. -/
theorem Grants.limits_of_pause (changed : x.pause ≠ g.pause) :
    x.tile = g.tile ∧ x.core = g.core ∧ x.ledge = g.ledge ∧ g.tile ≤ 400 ∧ g.core ≤ floor ∧ g.ledge ≤ 625 := by
  obtain ⟨_, rfl⟩ | ⟨_, _, rfl⟩ | ⟨_, _, _, rfl⟩ | ⟨tile, core, ledge, rfl⟩ := Grants.lower_cases lowered
  · exact absurd rfl changed
  · exact absurd rfl changed
  · exact absurd rfl changed
  · exact ⟨rfl, rfl, rfl, tile, core, ledge⟩

/-- A raise undoes the step that a lowering made from grants in which every later actuator stood at its top. -/
theorem Grants.raise_lowered (tileTop : g.tile ≤ 1600) (coreTop : g.core ≤ 3000) (step : 100 ≤ g.core) (ledgeTop : g.ledge ≤ 1250)
    (pause : g.pause = 0 ∨ g.tile ≤ 400 ∧ g.core ≤ floor ∧ g.ledge ≤ 625) (ledge : g.ledge = 1250 ∨ g.tile ≤ 400 ∧ g.core ≤ floor)
    (core : g.core = 3000 ∨ g.tile ≤ 400) : x.raise = g := by
  obtain ⟨tile, rfl⟩ | ⟨_, above, rfl⟩ | ⟨_, _, above, rfl⟩ | ⟨_, _, _, rfl⟩ := Grants.lower_cases lowered
  · have noPause : g.pause = 0 := by omega
    have noLedge : g.ledge = 1250 := by omega
    have noCore : g.core = 3000 := by omega
    have back : g.tile - 25 + 25 = g.tile := by omega
    have below : g.tile - 25 < 1600 := by omega
    simp only [Grants.raise, noPause, noLedge, noCore, below, back]
    cases g
    simp_all
  · have noPause : g.pause = 0 := by omega
    have noLedge : g.ledge = 1250 := by omega
    have back : min 3000 (g.core - 100 + 100) = g.core := by omega
    have below : g.core - 100 < 3000 := by omega
    simp only [Grants.raise, noPause, noLedge, below, back]
    cases g
    simp_all
  · have noPause : g.pause = 0 := by omega
    have back : g.ledge - 25 + 25 = g.ledge := by omega
    have below : g.ledge - 25 < 1250 := by omega
    simp only [Grants.raise, noPause, below, back]
    cases g
    simp_all
  · simp [Grants.raise]

end Actuators

/-! The boundary of a control period (18 R465 to R468) -/

/-- Clocks set one after another change the islands alone. -/
theorem Chip.foldl_setClock (c : Chip) (src : Nat → Nat) (mhz : Nat) (l : List Nat) :
    ∃ t, l.foldl (fun (x : Chip) n => x.setClock (src n) mhz) c = c.modClk (fun k => { k with isl := t }) := by
  induction l generalizing c with
  | nil => exact ⟨c.clk.isl, rfl⟩
  | cons n r ih =>
    obtain ⟨t, rest⟩ := ih (c.setClock (src n) mhz)
    exact ⟨t, rest⟩

/-- Grants that come into force change the power controller's own and the clocks of islands. -/
theorem Chip.grant_eq (c : Chip) (g : Grants) :
    ∃ t, c.grant g = (c.modPow (fun p => { p with now := g })).modClk (fun k => { k with isl := t }) := by
  have one (d : Chip) (same : Prop) [Decidable same] (l : List Nat) (src : Nat → Nat) (mhz : Nat) :
      ∃ t, (if same then d else l.foldl (fun (x : Chip) n => x.setClock (src n) mhz) d) = d.modClk (fun k => { k with isl := t }) := by
    split
    · exact ⟨d.clk.isl, rfl⟩
    · exact d.foldl_setClock src mhz l
  unfold Chip.grant
  dsimp only
  obtain ⟨t, tiles⟩ := one (c.modPow (fun p => { p with now := g })) (g.tile = c.pow.now.tile) (List.range 200) srcTile g.tile
  obtain ⟨u, cores⟩ := one ((c.modPow (fun p => { p with now := g })).modClk (fun k => { k with isl := t })) (g.core = c.pow.now.core)
    (List.range 64) srcCore g.core
  rw [tiles, cores]
  exact one _ _ _ _ _

theorem Chip.passTo_now_le (c : Chip) (src due : Nat) : c.clk.now ≤ (c.passTo src due).clk.now := by
  unfold Chip.passTo
  dsimp only
  split
  · exact Nat.le_add_right ..
  · exact le_rfl

/-- The package at the boundary: the grants of the period that ends are in force, or dropped because they are late. -/
def Chip.controlStart (c : Chip) (late : Bool) : Chip :=
  let d := c.passTo srcPower ((c.count srcPower / 100000 + 1) * 100000)
  if late then (d.modPow (fun p => { p with dropped := p.dropped + 1 })).logEv .envPeriodDropped srcPower [] else d.grant d.pow.next

theorem Chip.controlStart_frame (c : Chip) (late : Bool) :
    (c.controlStart late).pow = { c.pow with now := if late then c.pow.now else c.pow.next, dropped := c.pow.dropped + b2n late } ∧
      (c.controlStart late).regs = c.regs ∧ c.clk.now ≤ (c.controlStart late).clk.now := by
  obtain ⟨f, passed⟩ := c.passTo_eq_modClk srcPower ((c.count srcPower / 100000 + 1) * 100000)
  have later := c.passTo_now_le srcPower ((c.count srcPower / 100000 + 1) * 100000)
  rw [passed] at later
  unfold Chip.controlStart
  dsimp only
  rw [passed]
  cases late with
  | true =>
    rw [if_pos rfl]
    refine ⟨(Chip.logged_logEv ..).part Chip.pow, (Chip.logged_logEv ..).part Chip.regs, ?_⟩
    rw [Chip.logEv_clk]
    exact later
  | false =>
    obtain ⟨t, granted⟩ := (c.modClk f).grant_eq (c.modClk f).pow.next
    rw [if_neg Bool.false_ne_true, granted]
    exact ⟨rfl, rfl, later⟩

/-- The envelope in force at a boundary. -/
def Chip.envNow (c : Chip) : Nat := c.rf 0x400000 15 0

/-- The grants computed over a period from the power measured in it (18 R466): below the envelope, above it, or in between. -/
def Chip.computed (c : Chip) (pkg : Nat) : Grants :=
  if 10 * c.envNow < pkg then c.pow.now.lowerBy (c.rf 0x400008 11 0) (1 + c.freeVal % 156)
  else if pkg * 100 < c.envNow * 950 then c.pow.now.raise else c.pow.now

/-- A control period ends with its measures taken and the next grants computed; an envelope that cannot be met is logged besides. -/
theorem Chip.doControlPeriod_eq (c : Chip) (watts mj : List Nat) (late : Bool) : ∃ c1 e : Chip, c1 = c.controlStart late ∧
    e.Logged (c.doControlPeriod watts mj late) ∧ e.regs = c1.regs ∧ e.clk = c1.clk ∧ e.pow.now = c1.pow.now ∧
    e.pow.dropped = c1.pow.dropped ∧ e.pow.pkg = watts.headD 0 ∧ e.pow.env = c1.envNow ∧
    e.pow.energy = (List.range 8).map (fun i => (c1.pow.energy.getD i 0 + mj.getD i 0) % 2 ^ 64) ∧
    e.pow.next = (c1.computed (watts.headD 0)).above (c1.rf 0x400008 11 0) := by
  generalize run : c.doControlPeriod watts mj late = d
  unfold Chip.doControlPeriod at run
  extract_lets t c0 c1 p env floor pkg above stuck next age w c2 at run
  refine ⟨c1, c2, rfl, ?logged, rfl, rfl, rfl, rfl, rfl, rfl, rfl, ?next⟩
  case logged =>
    rw [← run]
    split
    · split
      · exact Chip.logged_winNote ..
      · exact ((Chip.logged_winNote ..).trans (Chip.logged_emit ..)).trans (Chip.logged_setGevent ..)
    · exact .refl _
  case next =>
    have same : next = c1.computed pkg := by simp only [next, above, Chip.computed, decide_eq_true_eq]; rfl
    exact congrArg (Grants.above · floor) same

section Computed

variable {c : Chip} {pkg : Nat}

theorem Chip.computed_above (above : 10 * c.envNow < pkg) :
    ∃ n, 0 < n ∧ c.computed pkg = c.pow.now.lowerBy (c.rf 0x400008 11 0) n := ⟨_, Nat.add_pos_left one_pos _, if_pos above⟩

theorem Chip.computed_below (below : pkg * 100 < c.envNow * 950) : c.computed pkg = c.pow.now.raise := by
  rw [Chip.computed, if_neg (by omega), if_pos below]

theorem Chip.computed_between (least : c.envNow * 950 ≤ pkg * 100) (most : pkg ≤ 10 * c.envNow) : c.computed pkg = c.pow.now := by
  rw [Chip.computed, if_neg (by omega), if_neg (by omega)]

end Computed

/-! Droops (18 R470) -/

/-- One island that a droop reaches. -/
def Chip.stretch (c : Chip) (s : Nat) : Chip :=
  if (c.island s).stretched then c else c.setIsland s { c.island s with base := c.count s, since := c.clk.now, stretched := true }

@[simp] theorem Chip.island_setIsland_same (c : Chip) (s : Nat) (i : Island) : (c.setIsland s i).island s = i := tabGet_tabSet_same ..

theorem Chip.island_setIsland_other (c : Chip) {s k : Nat} (other : s ≠ k) (i : Island) : (c.setIsland s i).island k = c.island k :=
  tabGet_tabSet_other _ _ _ other

theorem Chip.stretch_eq (c : Chip) (s : Nat) : ∃ t, c.stretch s = c.modClk (fun k => { k with isl := t }) := by
  unfold Chip.stretch
  split
  · exact ⟨c.clk.isl, rfl⟩
  · exact ⟨_, rfl⟩

theorem Chip.stretched_stretch_same (c : Chip) (s : Nat) : ((c.stretch s).island s).stretched = true := by
  unfold Chip.stretch
  split
  · assumption
  · simp

theorem Chip.island_stretch_other (c : Chip) {s k : Nat} (other : s ≠ k) : (c.stretch s).island k = c.island k := by
  unfold Chip.stretch
  split
  · rfl
  · exact c.island_setIsland_other other _

theorem Chip.foldl_stretch_eq (c : Chip) (l : List Nat) : ∃ t, l.foldl Chip.stretch c = c.modClk (fun k => { k with isl := t }) := by
  induction l generalizing c with
  | nil => exact ⟨c.clk.isl, rfl⟩
  | cons s r ih =>
    obtain ⟨t, first⟩ := c.stretch_eq s
    obtain ⟨u, rest⟩ := ih (c.stretch s)
    exact ⟨u, by rw [List.foldl_cons, rest, first]; rfl⟩

theorem Chip.island_foldl_stretch_other (c : Chip) {l : List Nat} {k : Nat} (none : k ∉ l) : (l.foldl Chip.stretch c).island k = c.island k := by
  induction l generalizing c with
  | nil => rfl
  | cons s r ih =>
    obtain ⟨other, rest⟩ := not_or.mp (mt List.mem_cons.mpr none)
    exact (ih _ rest).trans (c.island_stretch_other (Ne.symm other))

theorem Chip.stretched_foldl_stretch (c : Chip) {l : List Nat} {k : Nat} (listed : k ∈ l ∨ (c.island k).stretched = true) :
    ((l.foldl Chip.stretch c).island k).stretched = true := by
  induction l generalizing c with
  | nil => exact listed.resolve_left List.not_mem_nil
  | cons s r ih =>
    refine ih _ ?_
    by_cases same : s = k
    · exact .inr (same ▸ c.stretched_stretch_same s)
    · rw [c.island_stretch_other same]
      exact listed.imp_left fun mem => (List.mem_cons.mp mem).resolve_left (Ne.symm same)

theorem Chip.doSupplyDroop_eq (c : Chip) (rail : Nat) (isl : List (BitVec 16)) : ∃ l d, l = (isl.map (·.toNat)).filter (fun s => !steady s) ∧
    d = l.foldl Chip.stretch c ∧ c.doSupplyDroop rail isl =
      (d.modPow (fun p => { p with drooping := tabSet p.drooping rail l, droops := p.droops + 1 })).modRes (fun r =>
        { r with droopAt := d.count srcPower :: r.droopAt }) := ⟨_, _, rfl, rfl, rfl⟩

/-- One island of a rail that has recovered: other rails that droop may still supply it. -/
def Chip.unstretch (c : Chip) (s : Nat) : Chip :=
  if c.pow.drooping.any (fun p => p.2.contains s) ∨ !(c.island s).stretched then c
  else c.setIsland s { c.island s with base := c.count s, since := c.clk.now, stretched := false }

theorem Chip.unstretch_pow (c : Chip) (s : Nat) : (c.unstretch s).pow = c.pow := by
  unfold Chip.unstretch
  split <;> rfl

theorem Chip.stretched_unstretch_same {c : Chip} {s : Nat} (free : c.pow.drooping.any (fun p => p.2.contains s) = false) :
    ((c.unstretch s).island s).stretched = false := by
  unfold Chip.unstretch
  rw [free]
  split
  · simp_all
  · simp

theorem Chip.stretched_unstretch_kept {c : Chip} {s k : Nat} (released : (c.island k).stretched = false) :
    ((c.unstretch s).island k).stretched = false := by
  unfold Chip.unstretch
  split
  · exact released
  · by_cases same : s = k
    · simp [same]
    · rw [c.island_setIsland_other same]
      exact released

theorem Chip.foldl_unstretch_pow (c : Chip) (l : List Nat) : (l.foldl Chip.unstretch c).pow = c.pow := by
  induction l generalizing c with
  | nil => rfl
  | cons s r ih => exact (ih _).trans (c.unstretch_pow s)

theorem Chip.stretched_foldl_unstretch (c : Chip) {l : List Nat} {k : Nat} (free : c.pow.drooping.any (fun p => p.2.contains k) = false)
    (listed : k ∈ l ∨ (c.island k).stretched = false) : ((l.foldl Chip.unstretch c).island k).stretched = false := by
  induction l generalizing c with
  | nil => exact listed.resolve_left List.not_mem_nil
  | cons s r ih =>
    refine ih _ (by rwa [c.unstretch_pow s]) ?_
    by_cases same : s = k
    · exact .inr (same ▸ Chip.stretched_unstretch_same (same ▸ free))
    · exact listed.imp (fun mem => (List.mem_cons.mp mem).resolve_left (Ne.symm same)) Chip.stretched_unstretch_kept

theorem Chip.doRailRecovery_eq (c : Chip) (rail : Nat) : c.doRailRecovery rail = (tabGet [] c.pow.drooping rail).foldl Chip.unstretch
    (c.modPow (fun p => { p with drooping := tabDel p.drooping rail })) := rfl

/-- What a table holds once an entry is removed. -/
theorem mem_tabDel {α : Type} {t : Tab α} {i : Nat} {p : Nat × α} (h : p ∈ tabDel t i) : p ∈ t ∧ p.1 ≠ i := by
  induction t with
  | nil => exact absurd h List.not_mem_nil
  | cons e r ih =>
    unfold tabDel at h
    split at h
    · exact (ih h).imp_left (List.mem_cons_of_mem e)
    · rcases List.mem_cons.mp h with rfl | rest
      · exact ⟨List.mem_cons_self, ‹_›⟩
      · exact (ih rest).imp_left (List.mem_cons_of_mem e)

/-! Trips (18 R471) -/

theorem Chip.safe_of_live {c : Chip} (live : c.live = true) : c.boot.safe = false := by
  simp only [Chip.live, Bool.and_eq_true, Bool.not_eq_true'] at live
  exact live.2

theorem Chip.doProtectTrip_powered {c : Chip} (live : c.live = true) (aon : c.boot.aon = true) (en : c.boot.en ≠ 0) (rail : Bool) (n : Nat) :
    c.doProtectTrip rail n = (c.fatal .protectTrip srcPower [b2n rail, n, c.count srcPower] 0x12 n).modBoot (fun b =>
      { b with tripOut := true }) := if_neg (by simp [aon, en, Chip.safe_of_live live])

/-! Telemetry (18 R476, R477) -/

/-! The period number of the log, which no event changes. -/

theorem Chip.ringPut_period (c : Chip) (e : Event) : (c.ringPut e).1.log.period = c.log.period := by
  unfold Chip.ringPut
  dsimp only
  split
  · rfl
  · split
    · rw [Chip.setGevent_log]; rfl
    · split
      · rw [Chip.post_log]; rfl
      · rfl

theorem Chip.winNote_period (c : Chip) (code : Ev) (key : List Nat) (w : Nat) : (c.winNote code key w).1.log.period = c.log.period := by
  obtain ⟨l, noted⟩ := c.winNote_modLog code key w
  rw [noted]
  rfl

theorem Chip.ringEvent_period (c : Chip) (e : Event) : (c.ringEvent e).log.period = c.log.period := by
  have noted := (Chip.winNote_period (c.ringPut e).1 .addrUnbacked [srcPower] (c.dispatch / 1000000)).trans (c.ringPut_period e)
  unfold Chip.ringEvent
  dsimp only
  split
  · exact c.ringPut_period e
  · split
    · exact noted
    · exact (Chip.ringPut_period ..).trans noted

theorem Chip.logWin_period (c : Chip) (code : Ev) (key : List Nat) (clock len src : Nat) (args : List Nat) :
    (c.logWin code key clock len src args).log.period = c.log.period := by
  have noted := c.winNote_period code key (c.count clock / len)
  unfold Chip.logWin
  dsimp only
  split
  · exact noted
  · exact (Chip.ringEvent_period ..).trans noted

theorem Chip.logRefused_period (c : Chip) (requester pa n : Nat) : (c.logRefused requester pa n).log.period = c.log.period := by
  unfold Chip.logRefused Chip.logUnbacked
  split
  · exact Chip.ringEvent_period ..
  · split
    · rfl
    · exact Chip.logWin_period ..

/-- What the records of a telemetry period leave: everything but the ring's own count, the records dropped, and what logging changes. -/
def Chip.Told (c d : Chip) : Prop :=
  d.pow = { c.pow with teleSeq := d.pow.teleSeq, teleDrops := d.pow.teleDrops } ∧ d.log.period = c.log.period ∧ d.tile = c.tile ∧ d.regs = c.regs

theorem Chip.Told.refl (c : Chip) : c.Told c := ⟨rfl, rfl, rfl, rfl⟩

theorem Chip.Told.trans {c d e : Chip} (h : c.Told d) (g : d.Told e) : c.Told e := by
  obtain ⟨hpow, hper, htile, hregs⟩ := h
  obtain ⟨gpow, gper, gtile, gregs⟩ := g
  exact ⟨by rw [gpow, hpow], gper.trans hper, gtile.trans htile, gregs.trans hregs⟩

theorem Chip.told_foldl {α : Type} {f : Chip → α → Chip} (hf : ∀ d x, Chip.Told d (f d x)) (l : List α) (c : Chip) : c.Told (l.foldl f c) := by
  induction l generalizing c with
  | nil => exact .refl c
  | cons x r ih => exact (hf c x).trans (ih _)

theorem Chip.told_of_logged {c d : Chip} (logged : c.Logged d) (period : d.log.period = c.log.period) : c.Told d :=
  ⟨by rw [logged.part Chip.pow], period, logged.part Chip.tile, logged.part Chip.regs⟩

theorem Chip.told_teleWrite (c : Chip) (r : TeleRec) : c.Told (c.teleWrite r) := by
  unfold Chip.teleWrite
  dsimp only
  split
  · refine Chip.Told.trans ?counted (Chip.told_of_logged (Chip.logged_post ..) (by rw [Chip.post_log]))
    exact ⟨rfl, rfl, rfl, rfl⟩
  · refine Chip.Told.trans ?dropped (Chip.told_of_logged (Chip.logged_logRefused ..) (Chip.logRefused_period ..))
    exact ⟨rfl, rfl, rfl, rfl⟩

/-- The package after the records of a telemetry period, if it has a ring. -/
theorem Chip.doTelemetryPeriod_eq (c : Chip) (temps : List (BitVec 8)) (fec : List Nat) (late : List (BitVec 16)) :
    ∃ (d e : Chip) (at_ : Nat), (∃ f, d = c.modClk f) ∧ d.Told e ∧ ((d.rf 0x500008 63 63 = 0 ∨ d.pow.teleBase = 0) → e = d) ∧
    c.doTelemetryPeriod temps fec late = ((e.took 4096).modPow (fun q =>
      { q with
        teleAt := at_, droops := 0, sum := List.replicate 8 0, sums := 0
        teleBase := e.rf 0x500000 41 12 * 4096, teleLog2 := e.rf 0x500008 4 0, telePeriod := e.rf 0x500008 25 16 })).modLog (fun l =>
      { l with period := (l.period + 1) % 2 ^ 32 }) := by
  refine ⟨c.passTo srcPower (c.pow.teleAt + c.pow.telePeriod * 100000), _, _, c.passTo_eq_modClk .., ?told, ?off, rfl⟩
  case told =>
    split
    · exact .refl _
    · refine Chip.told_foldl (fun d r => ?_) _ _
      split
      · exact ⟨rfl, rfl, rfl, rfl⟩
      · exact d.told_teleWrite r
  case off => exact fun off => if_pos off

theorem Chip.rf_of_regs {c d : Chip} {off hi lo : Nat} (h : c.regs = d.regs) : c.rf off hi lo = d.rf off hi lo := by
  simp only [Chip.rf, Chip.rw, h]

theorem isEmpty_setIns (l : List Nat) (a : Nat) : (setIns l a).isEmpty = false :=
  List.isEmpty_eq_false_iff.mpr (List.ne_nil_of_mem ((mem_setIns l a a).mpr (.inl rfl)))

/-! The commands -/

section Commands

variable {s : State} (hl : s.chip.live = true)
include hl

theorem exec_controlPeriod (watts mj : List Nat) (late : Bool) : ∃ c : Chip, exec (.controlPeriod watts mj late) s = .next (withChip s c) ∧
    c.pow.now = (if late then s.chip.pow.now else s.chip.pow.next) ∧ c.pow.dropped = s.chip.pow.dropped + b2n late ∧
    c.pow.pkg = watts.headD 0 ∧ c.pow.env = c.rf 0x400000 15 0 ∧ c.regs = s.chip.regs ∧ s.chip.clk.now ≤ c.clk.now ∧
    (∀ i < 8, c.pow.energy.getD i 0 = (s.chip.pow.energy.getD i 0 + mj.getD i 0) % 2 ^ 64) ∧
    (10 * c.pow.env < c.pow.pkg → (c.pow.now.lower (c.rf 0x400008 11 0)).isSome →
      ∃ n, 0 < n ∧ c.pow.next = (c.pow.now.lowerBy (c.rf 0x400008 11 0) n).above (c.rf 0x400008 11 0)) ∧
    (c.pow.pkg * 100 < c.pow.env * 950 → c.pow.next = c.pow.now.raise.above (c.rf 0x400008 11 0)) ∧
    (c.pow.env * 950 ≤ c.pow.pkg * 100 → c.pow.pkg ≤ 10 * c.pow.env → c.pow.next = c.pow.now.above (c.rf 0x400008 11 0)) ∧
    c.rf 0x400008 11 0 ≤ c.pow.next.core := by
  obtain ⟨c1, e, hc1, logged, regs, clk, now, dropped, pkg, env, energy, next⟩ := s.chip.doControlPeriod_eq watts mj late
  obtain ⟨startPow, startRegs, later⟩ := s.chip.controlStart_frame late
  rw [← hc1] at startPow startRegs later
  refine ⟨_, exec_live (fun c => c.doControlPeriod watts mj late) hl rfl rfl, ?_⟩
  have endPow : (s.chip.doControlPeriod watts mj late).pow = e.pow := logged.part Chip.pow
  have endRegs : (s.chip.doControlPeriod watts mj late).regs = c1.regs := (logged.part Chip.regs).trans regs
  have reg hi lo off := Chip.rf_of_regs (off := off) (hi := hi) (lo := lo) endRegs
  have inForce : c1.pow.now = if late then s.chip.pow.now else s.chip.pow.next := by rw [startPow]
  simp only [endPow, reg]
  refine ⟨now.trans inForce, ?_, pkg, env, endRegs.trans startRegs, ?_, fun i hi => ?_, fun above _ => ?_, fun below => ?_, fun least most => ?_, ?_⟩
  · rw [dropped, startPow]
  · rw [logged.part (fun c => c.clk.now)]
    exact later.trans_eq (by rw [← clk])
  · rw [energy, startPow]
    simp [hi]
  · obtain ⟨n, pos, computed⟩ := Chip.computed_above (c := c1) (by rwa [env, pkg] at above)
    exact ⟨n, pos, by rw [next, computed, now]⟩
  · rw [next, Chip.computed_below (by rwa [env, pkg] at below), now]
  · rw [next, Chip.computed_between (by rwa [env, pkg] at least) (by rwa [env, pkg] at most), now]
  · rw [next]
    exact le_max_right ..

theorem exec_supplyDroop (rail : Fin 32) (isl : List (BitVec 16)) : ∃ c : Chip, exec (.supplyDroop rail isl) s = .next (withChip s c) ∧
    c.pow.now = s.chip.pow.now ∧ c.pow.droops = s.chip.pow.droops + 1 ∧ c.clk.now = s.chip.clk.now ∧
    (∀ i ∈ isl, steady i.toNat = false → (c.island i.toNat).stretched = true) ∧
    (∀ k, (∀ i ∈ isl, i.toNat ≠ k) → c.island k = s.chip.island k) := by
  obtain ⟨l, d, hl', rfl, droop⟩ := s.chip.doSupplyDroop_eq rail.val isl
  obtain ⟨t, reached⟩ := s.chip.foldl_stretch_eq l
  refine ⟨_, exec_live (fun c => c.doSupplyDroop rail.val isl) hl rfl droop, ?_, ?_, ?_, fun i mem unsteady => ?_, fun k others => ?_⟩
  · rw [reached]; rfl
  · rw [reached]; rfl
  · rw [reached]; rfl
  · refine s.chip.stretched_foldl_stretch (.inl ?_)
    rw [hl', List.mem_filter]
    exact ⟨List.mem_map_of_mem mem, by simp [unsteady]⟩
  · refine s.chip.island_foldl_stretch_other fun mem => ?_
    rw [hl', List.mem_filter, List.mem_map] at mem
    obtain ⟨⟨i, listed, same⟩, -⟩ := mem
    exact others i listed same

theorem exec_railRecovery (rail : Fin 32) : ∃ c : Chip, exec (.railRecovery rail) s = .next (withChip s c) ∧
    tabFind c.pow.drooping rail.val = none ∧
    (∀ k ∈ tabGet [] s.chip.pow.drooping rail.val, (∀ p ∈ s.chip.pow.drooping, p.1 ≠ rail.val → k ∉ p.2) →
      (c.island k).stretched = false) := by
  refine ⟨_, exec_live (fun c => c.doRailRecovery rail.val) hl rfl (s.chip.doRailRecovery_eq rail.val), ?_, fun k mem alone => ?_⟩
  · rw [Chip.foldl_unstretch_pow]
    exact tabFind_tabDel_same ..
  · refine Chip.stretched_foldl_unstretch _ (List.any_eq_false.mpr fun p listed => ?_) (.inl mem)
    obtain ⟨before, other⟩ := mem_tabDel listed
    simpa using alone p before other

theorem exec_protectTrip (b : Bool) (rail : Fin 32) (aon : s.chip.boot.aon = true) (en : s.chip.boot.en ≠ 0) : ∃ c : Chip,
    exec (.protectTrip b rail) s = .next (withChip s c) ∧ c.boot.safe = true ∧ c.boot.en = 0 ∧ c.boot.tripOut = true ∧
    c.boot.report.code = 0x12 ∧ c.boot.report.detail = rail.val :=
  ⟨_, exec_always (fun c => c.doProtectTrip b rail.val) rfl (Chip.doProtectTrip_powered hl aon en b rail.val), rfl, rfl, rfl, rfl, rfl⟩

theorem exec_telemetryPeriod (temps : List (BitVec 8)) (fec : List Nat) (lt : List (BitVec 16)) : ∃ c : Chip,
    exec (.telemetryPeriod temps fec lt) s = .next (withChip s c) ∧ c.log.period = (s.chip.log.period + 1) % 2 ^ 32 ∧
    c.pow.droops = 0 ∧ c.pow.sums = 0 ∧ c.pow.teleBase = c.rf 0x500000 41 12 * 4096 ∧ c.pow.telePeriod = c.rf 0x500008 25 16 ∧
    c.pow.now = s.chip.pow.now ∧ c.tile = s.chip.tile ∧
    ((s.chip.rf 0x500008 63 63 = 0 ∨ s.chip.pow.teleBase = 0) → c.mem = s.chip.mem ∧ c.pow.teleSeq = s.chip.pow.teleSeq) := by
  obtain ⟨d, e, at_, ⟨f, rfl⟩, ⟨pow, period, tile, _⟩, off, told⟩ := s.chip.doTelemetryPeriod_eq temps fec lt
  refine ⟨_, exec_live (fun c => c.doTelemetryPeriod temps fec lt) hl rfl told, ?_, rfl, rfl, rfl, rfl, ?_, tile, fun none => ?_⟩
  · exact congrArg (fun n => (n + 1) % 2 ^ 32) period
  · show e.pow.now = _
    rw [pow]
    rfl
  · rw [off none]
    exact ⟨rfl, rfl⟩

end Commands

/-- Settles O50: each event of the power controller has the effect of its lemma above, and a lowering step has four cases. -/
theorem powerEvents : Obligations.PowerEvents := by
  unfold Obligations.PowerEvents
  refine ⟨fun s watts mj late rail isl b die temps fec lt l g hl => ⟨exec_controlPeriod hl watts mj late, exec_supplyDroop hl rail isl,
      exec_railRecovery hl rail, exec_protectTrip hl b rail, ?_, fun one => ?_, exec_telemetryPeriod hl temps fec lt, ?_, rfl⟩,
    fun g x floor lowered => ⟨fun tile => ?_, fun tile core => ?_, fun tile core ledge => ?_, Grants.lower_some_pause lowered,
      Grants.limits_of_pause lowered, Grants.raise_lowered lowered, rfl⟩⟩
  · refine exec_always (fun c => c.doThermAlert die.val true) rfl ?_
    simp [Chip.doThermAlert, Chip.modBoot, isEmpty_setIns]
  · refine exec_always (fun c => c.doThermAlert die.val false) rfl ?_
    simp [Chip.doThermAlert, Chip.modBoot, one]
  · exact exec_live (fun c => c.doGroupRecalibration l.val g.val) hl rfl rfl
  · exact Option.some.inj (lowered.symm.trans (Grants.lower_tile tile))
  · exact Option.some.inj (lowered.symm.trans (Grants.lower_core tile core))
  · exact Option.some.inj (lowered.symm.trans (Grants.lower_ledge tile core ledge))

end Sys2Proof.Machine
end

section
/-!
Tiles fenced, replaced by spares and repaired (17 R444 to R450, 21 R526).
-/

open Sys2Proof

namespace Sys2Proof.Machine

/-- A command of a unit that works only in service, with its effect on management flash. -/
theorem exec_liveFlash {s : State} {i : Instr} (f : Chip → Secure → Chip × Secure) {d : Chip} {k : Secure} (hl : s.chip.live = true)
    (hi : exec i s = s.liveBoth f) (hd : f s.chip s.sec = (d, k)) : exec i s = .next { s with chip := d, sec := k } := by
  rw [hi, State.liveBoth_live f hl, State.onBoth, hd]

/-! The first index of a die (01 R22) -/

/-- The least index of a die with a property is the one that a search of the die finds. -/
theorem find?_dieIndex {p : Nat → Bool} {die j : Nat} (mem : j / 48 = die) (hj : p j = true) (least : ∀ i, i / 48 = die → i < j → p i = false) :
    ((List.range 48).map (fun i => die * 48 + i)).find? p = some j := by
  have found : (List.range 48).find? (p ∘ fun i => die * 48 + i) = some (j - die * 48) := by
    rw [List.find?_range_eq_some]
    refine ⟨?_, List.mem_range.mpr (by omega), fun i hi => ?_⟩
    · rw [Function.comp_apply, show die * 48 + (j - die * 48) = j by omega]
      exact hj
    · rw [Function.comp_apply, least _ (by omega) (by omega)]
      rfl
  rw [List.find?_map, found]
  exact congrArg some (show die * 48 + (j - die * 48) = j by omega)

theorem find?_dieIndex_none {p : Nat → Bool} {die : Nat} (none : ∀ i, i / 48 = die → p i = false) :
    ((List.range 48).map (fun i => die * 48 + i)).find? p = Option.none := by
  refine List.find?_eq_none.mpr fun j mem => ?_
  obtain ⟨i, hi, rfl⟩ := List.mem_map.mp mem
  rw [none _ (by have := List.mem_range.mp hi; omega)]
  exact Bool.false_ne_true

/-! The item of a tile that is fenced (17 R444, R446) -/

theorem Chip.endNow_settled {c : Chip} {t : Nat} (settled : ∀ y z, (c.tileAt t).item ≠ .ending y z) : c.endNow t = c := by
  unfold Chip.endNow
  split
  · exact absurd ‹_› (settled _ _)
  · rfl

section HwFault

variable {c : Chip} {k : Secure} {t : Nat} {unit : BitVec 8}

theorem Chip.secTileHwFault_fenced (fenced : ((c.endNow t).tileAt t).st = .fenced) : c.secTileHwFault k t unit = (c.endNow t, k) :=
  if_pos fenced

variable (whole : ((c.endNow t).tileAt t).st ≠ .fenced)
include whole

/-- A tile whose item has ended with this fault takes it no second time. -/
theorem Chip.secTileHwFault_ended (ended : ((c.endNow t).tileAt t).item = .ended (0x40 + exHwFault)) :
    c.secTileHwFault k t unit = (c.endNow t).fence k t := by
  unfold Chip.secTileHwFault
  dsimp only
  rw [if_neg whole, if_pos ended]

/-- The fault that a tile takes: the one that waits at its next boundary, or the unit that failed. -/
theorem Chip.secTileHwFault_taken (fresh : ((c.endNow t).tileAt t).item ≠ .ended (0x40 + exHwFault)) {tv : Nat}
    (waits : ∀ x, ((c.endNow t).tileAt t).pend = some (exHwFault, x) → tv = x)
    (none : (∀ x, ((c.endNow t).tileAt t).pend ≠ some (exHwFault, x)) → tv = unit.toNat) :
    c.secTileHwFault k t unit = ((c.endNow t).takeExc t exHwFault tv).fence k t := by
  unfold Chip.secTileHwFault
  dsimp only
  rw [if_neg whole, if_neg fresh]
  congr 2
  split
  case h_1 cause x pend =>
    by_cases same : cause = exHwFault
    · rw [if_pos same, waits x (by rw [pend, same])]
    · rw [if_neg same, none fun y other => same (congrArg Prod.fst (Option.some.inj (pend.symm.trans other)))]
  case h_2 pend => rw [none fun y other => by rw [pend] at other; cases other]

end HwFault

theorem Chip.secTileEccFence_few {c : Chip} {k : Secure} {t : Nat} {n : BitVec 32} (few : n.toNat ≤ 64 ∨ c.fwRuns = false ∨ (c.tileAt t).st = .fenced) :
    c.secTileEccFence k t n = (c, k) := by
  refine if_pos ?_
  obtain small | dark | fenced := few
  · exact .inr (.inl small)
  · exact .inr (.inr (by simp [dark]))
  · exact .inl fenced

theorem Chip.secTileEccFence_many {c : Chip} {k : Secure} {t : Nat} {n : BitVec 32} (many : 64 < n.toNat) (runs : c.fwRuns = true)
    (whole : (c.tileAt t).st ≠ .fenced) : c.secTileEccFence k t n = (c.endNow t).fence k t :=
  if_neg (by simp [runs, whole, many])

/-! The fence (17 R445, R447 to R449) -/

/-- The package with a tile fenced and its waits withdrawn, before its index moves. -/
def Chip.cutOff (c : Chip) (t : Nat) : Chip :=
  ((c.setTile t (c.tileAt t).fenced).soWithdraw (.tile t)).modTmap (fun m => { m with resident := tabDel m.resident t })

theorem Chip.tileAt_cutOff (c : Chip) (t : Nat) : (c.cutOff t).tileAt t = (c.tileAt t).fenced := c.tileAt_setTile_same t _

theorem Chip.tileAt_cutOff_other (c : Chip) {t u : Nat} (other : t ≠ u) : (c.cutOff t).tileAt u = c.tileAt u := c.tileAt_setTile_other _ other

theorem Chip.fence_spare {c : Chip} {k : Secure} {t : Nat} (free : c.logicalOf t = none) :
    c.fence k t = (c.cutOff t, { k with fenceList := setIns k.fenceList t }) := by
  simp only [Chip.fence, free]
  rfl

/-- A tile that serves an index is no spare. -/
theorem Chip.not_mem_sparesOf {c : Chip} {t j : Nat} (serves : c.logicalOf t = some j) (die : Nat) : t ∉ c.sparesOf die := by
  intro mem
  have idle := (List.mem_filter.mp mem).2
  simp [serves] at idle

/-- Fencing a tile that serves an index leaves the spares of its die as they were. -/
theorem Chip.sparesOf_cutOff {c : Chip} {t j : Nat} (serves : c.logicalOf t = some j) (die : Nat) : (c.cutOff t).sparesOf die = c.sparesOf die := by
  refine List.filter_congr fun u _ => ?_
  have sameIndex : (c.cutOff t).logicalOf u = c.logicalOf u := rfl
  by_cases same : t = u
  · subst same
    simp [Chip.tileAt_cutOff, Tile.fenced, sameIndex, serves]
  · simp only [c.tileAt_cutOff_other same, sameIndex]

/-- The package in which a spare has taken the index of a fenced tile, with the generation raised. -/
def Chip.moved (c : Chip) (t j sp : Nat) : Chip :=
  ((c.cutOff t).modTmap (fun m => { m with phys := tabSet m.phys j sp, gen := tabSet m.gen j ((c.genOf j + 1) % 2 ^ 32) })).setTile sp
    { (c.cutOff t).tileAt sp with spare := false }

/-- The package in which the index of a fenced tile has become ABSENT. -/
def Chip.degraded (c : Chip) (t j : Nat) : Chip :=
  let d := (c.cutOff t).modTmap (fun m => { m with phys := tabSet m.phys j 200 })
  (d.logEv .dieDegraded srcDispatch [t / 50, 48 - d.absent (t / 50)]).setGevent 5

section Fence

variable {c : Chip} {k : Secure} {t j : Nat} (serves : c.logicalOf t = some j)
include serves

theorem Chip.fence_list : t ∈ (c.fence k t).2.fenceList := by
  simp only [Chip.fence, serves]
  exact (mem_setIns ..).mpr (.inl rfl)

theorem Chip.fence_moved_idle {sp : Nat} {rest : List Nat} (spares : c.sparesOf (t / 50) = sp :: rest) (idle : c.fw.work = []) :
    (c.fence k t).1 = c.moved t j sp := by
  have first : ((c.cutOff t).sparesOf (t / 50)).head? = some sp := by rw [Chip.sparesOf_cutOff serves, spares]; rfl
  simp only [Chip.cutOff] at first
  simp only [Chip.fence, serves, idle, first]
  rfl

theorem Chip.fence_degraded_idle (spares : c.sparesOf (t / 50) = []) (idle : c.fw.work = []) : (c.fence k t).1 = c.degraded t j := by
  have first : ((c.cutOff t).sparesOf (t / 50)).head? = none := by rw [Chip.sparesOf_cutOff serves, spares]; rfl
  simp only [Chip.cutOff] at first
  simp only [Chip.fence, serves, idle, first]
  rfl

/-- The one item of a tile follows its index. -/
theorem Chip.fence_moved_one {sp : Nat} {rest : List Nat} (spares : c.sparesOf (t / 50) = sp :: rest) {w : Work} (one : c.fw.work = [w])
    (bound : w.phys = t) (fresh : w.preempted = false) (settled : w.switching = false) :
    (c.fence k t).1 = (c.moved t j sp).refit t j (some sp) (c.tileAt t).sent w := by
  have first : ((c.cutOff t).sparesOf (t / 50)).head? = some sp := by rw [Chip.sparesOf_cutOff serves, spares]; rfl
  simp only [Chip.cutOff] at first
  simp only [Chip.fence, serves, one, first, bound, beq_self_eq_true, Bool.true_or, List.filter_cons_of_pos, List.filter_nil,
    List.foldl_cons, List.foldl_nil, fresh, settled]
  rfl

end Fence

theorem Chip.physOf_moved (c : Chip) (t j sp i : Nat) : (c.moved t j sp).physOf i = if i = j then sp else c.physOf i := by
  split
  · subst ‹i = j›
    exact tabGet_tabSet_same ..
  · exact tabGet_tabSet_other _ _ _ (Ne.symm ‹_›)

theorem Chip.genOf_moved (c : Chip) (t j sp i : Nat) : (c.moved t j sp).genOf i = if i = j then (c.genOf j + 1) % 2 ^ 32 else c.genOf i := by
  split
  · subst ‹i = j›
    exact tabGet_tabSet_same ..
  · exact tabGet_tabSet_other _ _ _ (Ne.symm ‹_›)

theorem Chip.tileAt_moved {c : Chip} {t sp : Nat} (other : sp ≠ t) (j : Nat) : (c.moved t j sp).tileAt t = (c.tileAt t).fenced :=
  (Chip.tileAt_setTile_other _ _ other).trans (c.tileAt_cutOff t)

theorem Chip.physOf_degraded (c : Chip) (t j i : Nat) : (c.degraded t j).physOf i = if i = j then 200 else c.physOf i := by
  refine ((Chip.logged_logEv ..).trans (Chip.logged_setGevent ..)).part (fun d => d.physOf i) |>.trans ?_
  split
  · subst ‹i = j›
    exact tabGet_tabSet_same ..
  · exact tabGet_tabSet_other _ _ _ (Ne.symm ‹_›)

theorem Chip.bit_setGevent (c : Chip) (e : Nat) : bit (c.setGevent e).log.gevent e = true := by
  rw [Chip.setGevent_log, bit_eq_testBit]
  simp [LogState.flag, Nat.testBit_or]

/-! The item bound to it (17 R446) -/

/-- A descriptor that ends leaves the allocation table as it is. -/
theorem Chip.finishSrc_work (c : Chip) (key status detail src : Nat) : (c.finishSrc key status detail src).fw.work = c.fw.work := by
  unfold Chip.finishSrc
  split
  · show (if status = 0x11 then { c.fw with drops := c.fw.drops + 1 } else c.fw).work = _
    split <;> rfl
  · rfl

section Refit

variable {c : Chip} {t j sp : Nat} {w : Work} (one : c.fw.work = [w]) (kept : w.drop = none)
include one kept

/-- An item that has sent nothing restarts from its image on the spare. -/
theorem Chip.refit_restarts (bound : w.phys = t) (image : w.image ≠ 0) : (c.refit t j (some sp) false w).fw.work =
    [{ w with preempted := false, restart := true, sent := false, phys := sp, tile := j, gen := c.genOf j, switching := true }] := by
  simp [Chip.refit, Chip.imageOf, Chip.setWork, Chip.modFw, one, kept, bound, image]

/-- An item that has sent something ends. -/
theorem Chip.refit_ends : (c.refit t j (some sp) true w).fw.work = [] := by
  simp [Chip.refit, kept, Chip.finishSrc_work, Chip.modFw, one]

end Refit

/-! Repair (17 R450, 21 R526) -/

section TileRepair

variable {c : Chip} {a : SetupAcc} {t : Nat} (whole : wholeWrite a t) (exists_ : t < 200)
include whole exists_

/-- A tile that may be repaired goes to MAINTENANCE, under test. -/
theorem Chip.doTileRepair_starts (fenced : (c.tileAt t).st = .fenced) (free : c.res.repair = none) : c.doTileRepair a =
    (c.setTile t { c.tileAt t with st := .maintenance }).modRes (fun r => { r with repair := some t }) := by
  have named : min 199 (a.value.toNat % 256) = t := by rw [← whole.2.1]; omega
  have may : c.repairable t = true := by simp [Chip.repairable, fenced, free]
  have value : bits t 7 0 = t := bits_whole (by omega)
  have takes : ∀ f ∈ regFlds 0x600058, f.takes t :=
    List.forall_mem_cons.mpr ⟨takes_fRsv (bits_of_lt 63 (by omega)),
      List.forall_mem_singleton.mpr (takes_fNum (Nat.zero_le _) (by rw [value]; omega))⟩
  unfold Chip.doTileRepair
  rw [named, Chip.regStore_taken whole (by decide) takes fun f _ => by simp [may]]
  simp [whole.1, may]

/-- Any other is refused and reported. -/
theorem Chip.doTileRepair_refused (refused : c.repairable t = false) : ∃ e, c.doTileRepair a = c.report 0x600058 a [e] := by
  have named : min 199 (a.value.toNat % 256) = t := by rw [← whole.2.1]; omega
  have one : regFlds 0x600058 = [fRsv 63 8, fNum 7 0 0 199] := rfl
  refine ⟨(fNum 7 0 0 199).entry 7, ?_⟩
  unfold Chip.doTileRepair
  rw [named, Chip.regStore_low_reported (x := 0) (why := 7) whole (by decide) one rfl rfl (by decide) (by omega) (by decide)]
  · simp [refused]
  · simp [fRsv]
  · simp [Fld.judged, fNum, refused]

end TileRepair

/-- A group in ACTIVE leaves a tile that is not parked as it is, but for its clock (18 R461). -/
theorem Chip.groupApply_active {c : Chip} {t : Nat} (active : c.groupCmd t = 0) (awake : (c.tileAt t).st ≠ .parked) :
    ∃ g, c.groupApply t = c ∨ c.groupApply t = c.setTile t { c.tileAt t with gated := g } := by
  refine ⟨false, ?_⟩
  unfold Chip.groupApply
  dsimp only
  rw [active, if_neg awake]
  split
  · exact .inl rfl
  · rw [if_neg (by decide)]
    split
    · exact .inl rfl
    · exact .inr rfl

section RepairDone

variable {c : Chip} {k : Secure} {t : Nat}

theorem Chip.secRepairDone_none (idle : c.res.repair = none) (pass : Bool) : c.secRepairDone k pass = (c, k) := by
  simp only [Chip.secRepairDone, idle]

variable (tested : c.res.repair = some t)
include tested

theorem Chip.secRepairDone_failed : c.secRepairDone k false =
    (((c.modRes (fun r => { r with repair := none })).setTile t { c.tileAt t with st := .fenced }).logEv .repairFailed srcDispatch [t], k) := by
  simp only [Chip.secRepairDone, tested]
  rfl

variable (few : (c.tileAt t).fences < 3)
include few

/-- A tile that passes becomes a spare where its die has no index to give. -/
theorem Chip.secRepairDone_spare (served : ∀ i, i / 48 = t / 50 → c.physOf i ≠ 200) : c.secRepairDone k true =
    ((((c.modRes (fun r => { r with repair := none })).setTile t
        { (c.tileAt t).wipe with st := .maintenance, listed := false, spare := true, failed := false }).logEv .tileRepaired srcDispatch [t]).groupApply t,
      { k with fenceList := k.fenceList.filter (· != t) }) := by
  have none : ((List.range 48).map (fun i => t / 50 * 48 + i)).find? (fun j =>
      (c.modRes (fun r => { r with repair := Option.none })).physOf j == 200) = Option.none :=
    find?_dieIndex_none fun i hi => beq_false_of_ne (served i hi)
  have passes : (true = true) ∧ (c.tileAt t).fences < 3 := ⟨rfl, few⟩
  unfold Chip.secRepairDone
  rw [tested]
  refine (if_pos passes).trans ?_
  rw [none]
  rfl

/-- It takes the least index of its die that is ABSENT. -/
theorem Chip.secRepairDone_index {j : Nat} (own : j / 48 = t / 50) (absent : c.physOf j = 200)
    (least : ∀ i, i / 48 = t / 50 → i < j → c.physOf i ≠ 200) : c.secRepairDone k true =
    ((((((c.modRes (fun r => { r with repair := none })).setTile t
        { (c.tileAt t).wipe with st := .service, listed := false, spare := false, failed := false }).modTmap (fun m =>
          { m with phys := tabSet m.phys j t, gen := tabSet m.gen j ((c.genOf j + 1) % 2 ^ 32) })).logEv .tileRepaired srcDispatch [t]).groupApply t),
      { k with fenceList := k.fenceList.filter (· != t), map := tabSet k.map j t }) := by
  have found : ((List.range 48).map (fun i => t / 50 * 48 + i)).find? (fun j =>
      (c.modRes (fun r => { r with repair := Option.none })).physOf j == 200) = some j :=
    find?_dieIndex own (beq_iff_eq.mpr absent) fun i hi lt => beq_false_of_ne (least i hi lt)
  have passes : (true = true) ∧ (c.tileAt t).fences < 3 := ⟨rfl, few⟩
  unfold Chip.secRepairDone
  rw [tested]
  refine (if_pos passes).trans ?_
  rw [found]
  rfl

end RepairDone

/-- What is left of a tile that has been repaired, its group being in ACTIVE, once that is logged and the group's command applied. -/
theorem Chip.repaired_frame {c : Chip} {t : Nat} {u : Tile} (tile : c.tileAt t = u) (active : c.groupCmd t = 0) (awake : u.st ≠ .parked) :
    ∃ e, e = (c.logEv .tileRepaired srcDispatch [t]).groupApply t ∧ (e.tileAt t).st = u.st ∧ (e.tileAt t).spare = u.spare ∧
      (e.tileAt t).listed = u.listed ∧ e.tmap = c.tmap ∧ e.res = c.res := by
  have logged := c.logged_logEv .tileRepaired srcDispatch [t]
  have sameTile : (c.logEv .tileRepaired srcDispatch [t]).tileAt t = u := (logged.part (fun d => d.tileAt t)).trans tile
  have sameMap : (c.logEv .tileRepaired srcDispatch [t]).tmap = c.tmap := logged.part Chip.tmap
  have sameRes : (c.logEv .tileRepaired srcDispatch [t]).res = c.res := logged.part Chip.res
  refine ⟨_, rfl, ?_⟩
  obtain ⟨g, same | gated⟩ := Chip.groupApply_active ((logged.part (fun d => d.groupCmd t)).trans active) (sameTile ▸ awake)
  · rw [same, sameTile]
    exact ⟨rfl, rfl, rfl, sameMap, sameRes⟩
  · rw [gated, Chip.tileAt_setTile_same, sameTile]
    exact ⟨rfl, rfl, rfl, sameMap, sameRes⟩

/-! A spare that comes to SERVICE (17 R445) -/

theorem Chip.doWorkItemRestart_other {c : Chip} {t : Nat} (other : (c.tileAt t).st ≠ .maintenance) : c.doWorkItemRestart t = c :=
  if_pos (.inl other)

theorem Chip.doWorkItemRestart_up {c : Chip} {t : Nat} (tested : (c.tileAt t).st = .maintenance) (serves : (c.logicalOf t).isSome)
    (done : c.res.repair ≠ some t) (powered : (c.tileAt t).powered = true) : c.doWorkItemRestart t =
      ((c.setTile t { (c.tileAt t).wipe with st := .service, sent := false }).modTmap (fun m =>
        { m with resident := tabDel m.resident t })).doSwitchComplete t :=
  if_neg (by simp [tested, done, powered, Option.isSome_iff_ne_none.mp serves])

/-! The commands -/

section FenceCommands

variable {s : State} {t : Fin 200}

/-- A spare that is fenced serves no index, and none moves. -/
theorem fence_spare_result (free : s.chip.logicalOf t.val = none) : ∃ c : Chip, c = (s.chip.fence s.sec t.val).1 ∧
    (c.tileAt t.val).st = .fenced ∧ (c.tileAt t.val).spare = false ∧ c.tmap.phys = s.chip.tmap.phys ∧ c.tmap.gen = s.chip.tmap.gen ∧
    c.fw.work = s.chip.fw.work ∧ t.val ∈ (s.chip.fence s.sec t.val).2.fenceList := by
  rw [Chip.fence_spare free]
  refine ⟨_, rfl, ?_, ?_, rfl, rfl, rfl, (mem_setIns ..).mpr (.inl rfl)⟩
  · rw [Chip.tileAt_cutOff]; rfl
  · rw [Chip.tileAt_cutOff]; rfl

variable {j : Nat} (serves : s.chip.logicalOf t.val = some j)
include serves

theorem fence_moved_result (idle : s.chip.fw.work = []) {sp : Nat} {rest : List Nat} (spares : s.chip.sparesOf (t.val / 50) = sp :: rest) :
    ∃ c : Chip, c = (s.chip.fence s.sec t.val).1 ∧ (c.tileAt t.val).st = .fenced ∧ (c.tileAt t.val).item = .none ∧
      (c.tileAt t.val).listed = true ∧ (c.tileAt t.val).mover = [] ∧ (c.tileAt t.val).tcause = (tileOf s t).tcause ∧
      (c.tileAt t.val).tval = (tileOf s t).tval ∧ c.physOf j = sp ∧ c.genOf j = (s.chip.genOf j + 1) % 2 ^ 32 ∧
      (∀ i, i ≠ j → c.physOf i = s.chip.physOf i ∧ c.genOf i = s.chip.genOf i) ∧ t.val ∈ (s.chip.fence s.sec t.val).2.fenceList ∧
      c.log = s.chip.log ∧ c.cm = s.chip.cm := by
  have other : sp ≠ t.val := by
    rintro rfl
    exact Chip.not_mem_sparesOf serves _ (spares ▸ List.mem_cons_self)
  refine ⟨_, (Chip.fence_moved_idle serves spares idle).symm, ?_⟩
  rw [Chip.tileAt_moved other, Chip.physOf_moved, Chip.genOf_moved, if_pos rfl, if_pos rfl]
  refine ⟨rfl, rfl, rfl, rfl, rfl, rfl, rfl, rfl, fun i hi => ?_, Chip.fence_list serves, rfl, rfl⟩
  rw [Chip.physOf_moved, Chip.genOf_moved, if_neg hi, if_neg hi]
  exact ⟨rfl, rfl⟩

theorem fence_degraded_result (idle : s.chip.fw.work = []) (spares : s.chip.sparesOf (t.val / 50) = []) :
    ∃ c : Chip, c = (s.chip.fence s.sec t.val).1 ∧ c.physOf j = 200 ∧ (∀ i, i ≠ j → c.physOf i = s.chip.physOf i) ∧
      bit c.log.gevent 5 = true ∧ t.val ∈ (s.chip.fence s.sec t.val).2.fenceList := by
  refine ⟨_, (Chip.fence_degraded_idle serves spares idle).symm, ?_, fun i hi => ?_, Chip.bit_setGevent .., Chip.fence_list serves⟩
  · rw [Chip.physOf_degraded, if_pos rfl]
  · rw [Chip.physOf_degraded, if_neg hi]

theorem fence_item_result {sp : Nat} {rest : List Nat} (spares : s.chip.sparesOf (t.val / 50) = sp :: rest) {w : Work}
    (one : s.chip.fw.work = [w]) (bound : w.phys = t.val) (kept : w.drop = none) (fresh : w.preempted = false) (settled : w.switching = false) :
    ((tileOf s t).sent = false → w.image ≠ 0 → (s.chip.fence s.sec t.val).1.fw.work = [{ w with
      preempted := false, restart := true, sent := false, phys := sp, tile := j, gen := (s.chip.genOf j + 1) % 2 ^ 32, switching := true }]) ∧
    ((tileOf s t).sent = true → (s.chip.fence s.sec t.val).1.fw.work = []) := by
  have follows := Chip.fence_moved_one (k := s.sec) serves spares one bound fresh settled
  have stays : (s.chip.moved t.val j sp).fw.work = [w] := one
  refine ⟨fun unsent image => ?_, fun sent => ?_⟩
  · have unsent : (s.chip.tileAt t.val).sent = false := unsent
    rw [follows, unsent, Chip.refit_restarts stays kept bound image, Chip.genOf_moved, if_pos rfl]
  · have sent : (s.chip.tileAt t.val).sent = true := sent
    rw [follows, sent, Chip.refit_ends stays kept]

end FenceCommands

section RepairCommands

variable {s : State} {t : Fin 200} (hl : s.chip.live = true)
include hl

theorem exec_tileRepair_refused {a : SetupAcc} (whole : wholeWrite a t.val) (refused : (tileOf s t).st ≠ .fenced ∨ s.chip.res.repair ≠ none) :
    ∃ c : Chip, exec (.tileRepair a) s = .next (withChip s c) ∧ c.tile = s.chip.tile ∧ c.res = s.chip.res ∧
      c.log.cfgNext = (s.chip.log.cfgNext + 1) % 2 ^ 32 := by
  have may : s.chip.repairable t.val = false := by
    obtain up | busy := refused
    · have up : (s.chip.tileAt t.val).st ≠ .fenced := up
      simp [Chip.repairable, up]
    · simp [Chip.repairable, Option.isSome_iff_ne_none.mpr busy]
  obtain ⟨e, reported⟩ := Chip.doTileRepair_refused whole t.isLt may
  exact ⟨_, exec_live (fun c => c.doTileRepair a) hl rfl reported, (Chip.logged_report ..).part Chip.tile, (Chip.logged_report ..).part Chip.res,
    Chip.report_one_cfgNext ..⟩

variable (tested : s.chip.res.repair = some t.val)
include tested

theorem exec_repairDone_failed : ∃ c : Chip, exec (.repairDone false) s = .next (withChip s c) ∧ (c.tileAt t.val).st = .fenced ∧
    c.res.repair = none ∧ c.tmap = s.chip.tmap := by
  refine ⟨_, exec_liveFlash (fun c k => c.secRepairDone k false) hl rfl (Chip.secRepairDone_failed tested), ?_, ?_,
    (Chip.logged_logEv ..).part Chip.tmap⟩
  · rw [(Chip.logged_logEv ..).part (fun c => c.tileAt t.val)]
    exact congrArg Tile.st (Chip.tileAt_setTile_same ..)
  · rw [(Chip.logged_logEv ..).part Chip.res]
    rfl

variable (few : (tileOf s t).fences < 3) (active : s.chip.groupCmd t.val = 0)
include few active

theorem exec_repairDone_spare (served : ∀ i, i / 48 = t.val / 50 → s.chip.physOf i ≠ 200) : ∃ (c : Chip) (k : Secure),
    exec (.repairDone true) s = .next { s with chip := c, sec := k } ∧ (c.tileAt t.val).st = .maintenance ∧ (c.tileAt t.val).spare = true ∧
    (c.tileAt t.val).listed = false ∧ c.tmap = s.chip.tmap ∧ c.res.repair = none ∧ k.fenceList = s.sec.fenceList.filter (· != t.val) := by
  obtain ⟨e, he, st, spare, listed, tmap, res⟩ := Chip.repaired_frame (c := (s.chip.modRes (fun r => { r with repair := none })).setTile t.val
    { (s.chip.tileAt t.val).wipe with st := .maintenance, listed := false, spare := true, failed := false })
    (Chip.tileAt_setTile_same ..) active (by show TileSt.maintenance ≠ .parked; decide)
  refine ⟨e, _, exec_liveFlash (fun c k => c.secRepairDone k true) hl rfl
    ((Chip.secRepairDone_spare tested few served).trans (by rw [← he])), st, spare, listed, tmap, ?_, rfl⟩
  rw [res]
  rfl

theorem exec_repairDone_index {j : Nat} (own : j / 48 = t.val / 50) (absent : s.chip.physOf j = 200)
    (least : ∀ i, i / 48 = t.val / 50 → i < j → s.chip.physOf i ≠ 200) : ∃ (c : Chip) (k : Secure),
    exec (.repairDone true) s = .next { s with chip := c, sec := k } ∧ (c.tileAt t.val).st = .service ∧ c.physOf j = t.val ∧
    c.genOf j = (s.chip.genOf j + 1) % 2 ^ 32 ∧ c.res.repair = none := by
  obtain ⟨e, he, st, -, -, tmap, res⟩ := Chip.repaired_frame (t := t.val)
    (c := ((s.chip.modRes (fun r => { r with repair := none })).setTile t.val
      { (s.chip.tileAt t.val).wipe with st := .service, listed := false, spare := false, failed := false }).modTmap (fun m =>
        { m with phys := tabSet m.phys j t.val, gen := tabSet m.gen j ((s.chip.genOf j + 1) % 2 ^ 32) }))
    (Chip.tileAt_setTile_same (s.chip.modRes _) ..) active (by show TileSt.service ≠ .parked; decide)
  refine ⟨e, _, exec_liveFlash (fun c k => c.secRepairDone k true) hl rfl
    ((Chip.secRepairDone_index tested few own absent least).trans (by rw [← he])), st, ?_, ?_, ?_⟩
  · rw [Chip.physOf, tmap]
    exact tabGet_tabSet_same ..
  · rw [Chip.genOf, tmap]
    exact tabGet_tabSet_same ..
  · rw [res]
    rfl

end RepairCommands

/-- Settles O51: a fence cuts the tile off, moves its index to the first spare or makes it ABSENT, and refits the items bound to it; a repair
ends with an index, as a spare, or fenced again. -/
theorem fencedTilesReplacedAndRepaired : Obligations.FencedTilesReplacedAndRepaired := by
  unfold Obligations.FencedTilesReplacedAndRepaired
  refine ⟨?_, ?_⟩
  · rintro s t unit n j w c0 d tv hl rfl
    have hwFault {e : Chip} {k : Secure} (he : s.chip.secTileHwFault s.sec t.val unit = (e, k)) :
        exec (.tileHwFault t unit) s = .next { s with chip := e, sec := k } :=
      exec_liveFlash (fun c k => c.secTileHwFault k t.val unit) hl rfl he
    refine ⟨?_, ?_, ?_, ?_, ?_, Chip.endNow_settled, fun free _ => fence_spare_result free,
      fun serves _ => ⟨fun idle sp rest => fence_moved_result serves idle, fence_degraded_result serves,
        fun sp rest spares => fence_item_result serves spares⟩⟩
    · exact fun few => exec_liveFlash (fun c k => c.secTileEccFence k t.val n) hl rfl (Chip.secTileEccFence_few few)
    · exact fun many runs whole => exec_liveFlash (fun c k => c.secTileEccFence k t.val n) hl rfl (Chip.secTileEccFence_many many runs whole)
    · exact fun fenced => hwFault (Chip.secTileHwFault_fenced fenced)
    · exact fun whole ended => hwFault (Chip.secTileHwFault_ended whole ended)
    · rintro whole fresh waits none rfl
      exact hwFault (Chip.secTileHwFault_taken whole fresh waits none)
  · intro s a t hl whole
    refine ⟨fun fenced free => ?_, exec_tileRepair_refused hl whole, fun pass idle => ?_, fun tested => ⟨exec_repairDone_failed hl tested,
      fun few served active => exec_repairDone_spare hl tested few active served,
      fun j few own absent least active => exec_repairDone_index hl tested few active own absent least⟩, fun st serves done powered hc => ?_,
      fun other hc => ?_⟩
    · exact exec_live (fun c => c.doTileRepair a) hl rfl (Chip.doTileRepair_starts whole t.isLt fenced free)
    · exact exec_liveFlash (fun c k => c.secRepairDone k pass) hl rfl (Chip.secRepairDone_none idle pass)
    · refine ⟨_, rfl, exec_calm (fun c => c.doWorkItemRestart t.val) hl hc rfl (Chip.doWorkItemRestart_up st serves done powered), fun settled => ?_⟩
      refine Chip.doSwitchComplete_none (List.find?_eq_none.mpr fun w mem => ?_)
      by_cases bound : w.phys = t.val
      · simp [settled w mem bound]
      · simp [bound]
    · exact exec_calm (fun c => c.doWorkItemRestart t.val) hl hc rfl (Chip.doWorkItemRestart_other other)

end Sys2Proof.Machine
end

section
/-!
The driver's calls (15 R393 to R397, R414, 21 R521): what each leaves in the mailbox, and what an image that is installed starts.
-/

open Sys2Proof

namespace Sys2Proof.Machine

/-! Calls (15 R393, Table 15.1) -/

theorem Chip.call_free {c : Chip} (free : c.fw.mbox.result ≠ 1) (code : Nat) (f : Chip → Chip) : c.call code f = f c := if_neg free

theorem Chip.call_busy {c : Chip} (busy : c.fw.mbox.result = 1) (code : Nat) (f : Chip → Chip) : c.call code f = c.callIgnored code :=
  if_pos busy

/-- A call that is ignored leaves the dispatch complex as it is. -/
theorem Chip.callIgnored_fw (c : Chip) (code : Nat) : (c.callIgnored code).fw = c.fw := (Chip.logged_cfgReport ..).part Chip.fw

theorem Chip.callIgnored_cfgNext (c : Chip) (code : Nat) : (c.callIgnored code).log.cfgNext = (c.log.cfgNext + 1) % 2 ^ 32 :=
  Chip.cfgReport_cfgNext ..

/-! Processors (15 R394, R397) -/

@[simp] theorem Chip.fpAt_setFp_same (c : Chip) (k : Nat) (p : Fp) : (c.setFp k p).fpAt k = p := tabGet_tabSet_same ..

theorem Chip.fpAt_setFp_other (c : Chip) {k q : Nat} (other : k ≠ q) (p : Fp) : (c.setFp k p).fpAt q = c.fpAt q :=
  tabGet_tabSet_other _ _ _ other

/-- A package that differs from another at most in its firmware processors. -/
def Chip.Manned (c d : Chip) : Prop := ∃ t, d = c.modFw (fun f => { f with fp := t })

theorem Chip.Manned.refl (c : Chip) : c.Manned c := ⟨c.fw.fp, rfl⟩

theorem Chip.Manned.trans {c d e : Chip} (h : c.Manned d) (g : d.Manned e) : c.Manned e := by
  obtain ⟨t, rfl⟩ := h
  obtain ⟨u, rfl⟩ := g
  exact ⟨u, rfl⟩

theorem Chip.manned_setFp (c : Chip) (k : Nat) (p : Fp) : c.Manned (c.setFp k p) := ⟨_, rfl⟩

theorem Chip.manned_foldl {f : Chip → Nat → Chip} (hf : ∀ d q, Chip.Manned d (f d q)) (l : List Nat) (c : Chip) : c.Manned (l.foldl f c) := by
  induction l generalizing c with
  | nil => exact .refl c
  | cons q r ih => exact (hf c q).trans (ih _)

/-- One processor that is not held failed starts. -/
def Chip.startFp (c : Chip) (q : Nat) : Chip :=
  c.setFp q { c.fpAt q with service := !(c.fpAt q).failed, server := if (c.fpAt q).failed then (c.fpAt q).server else q }

/-- The rings of one processor go to another where nobody serves them. -/
def Chip.rehomeFp (c : Chip) (q : Nat) : Chip :=
  if (c.fpAt (c.fpAt q).server).service then c else c.setFp q { c.fpAt q with server := (c.nextFp q).getD q }

theorem Chip.startFps_eq (c : Chip) : c.startFps = [0, 1, 2, 3].foldl Chip.rehomeFp ([0, 1, 2, 3].foldl Chip.startFp c) := rfl

theorem Chip.manned_rehomeFp (c : Chip) (q : Nat) : c.Manned (c.rehomeFp q) := by
  unfold Chip.rehomeFp
  split
  · exact .refl c
  · exact c.manned_setFp ..

theorem Chip.manned_startFps (c : Chip) : c.Manned c.startFps :=
  (Chip.manned_foldl (fun d q => d.manned_setFp q _) _ c).trans (Chip.manned_foldl Chip.manned_rehomeFp _ _)

/-- A processor that serves its own rings. -/
def Chip.mans (c : Chip) (k : Nat) : Prop := (c.fpAt k).service = true ∧ (c.fpAt k).server = k

/-- A processor is not held failed, and it serves its own rings or is still to start. -/
theorem Chip.mans_startFp {c : Chip} {k q : Nat} (well : (c.fpAt k).failed = false) (h : c.mans k ∨ q = k) :
    ((c.startFp q).fpAt k).failed = false ∧ (c.startFp q).mans k := by
  unfold Chip.mans Chip.startFp
  by_cases same : q = k
  · subst same
    simp [well]
  · rw [Chip.fpAt_setFp_other _ same]
    exact ⟨well, h.resolve_right same⟩

theorem Chip.mans_foldl_startFp {c : Chip} {k : Nat} {l : List Nat} (well : (c.fpAt k).failed = false) (h : c.mans k ∨ k ∈ l) :
    (l.foldl Chip.startFp c).mans k := by
  induction l generalizing c with
  | nil => exact h.resolve_right List.not_mem_nil
  | cons q r ih =>
    by_cases first : c.mans k ∨ q = k
    · obtain ⟨still, mans⟩ := Chip.mans_startFp well first
      exact ih still (.inl mans)
    · obtain ⟨notYet, other⟩ := not_or.mp first
      refine ih ?_ (.inr ((List.mem_cons.mp (h.resolve_left notYet)).resolve_left (Ne.symm other)))
      rw [Chip.startFp, Chip.fpAt_setFp_other _ other]
      exact well

theorem Chip.mans_rehomeFp {c : Chip} {k : Nat} (h : c.mans k) (q : Nat) : (c.rehomeFp q).mans k := by
  obtain ⟨service, server⟩ := h
  unfold Chip.rehomeFp
  split
  · exact ⟨service, server⟩
  · by_cases same : q = k
    · subst same
      simp [server, service] at *
    · unfold Chip.mans
      rw [Chip.fpAt_setFp_other _ same]
      exact ⟨service, server⟩

theorem Chip.mans_foldl_rehomeFp {c : Chip} {k : Nat} (h : c.mans k) (l : List Nat) : (l.foldl Chip.rehomeFp c).mans k := by
  induction l generalizing c with
  | nil => exact h
  | cons q r ih => exact ih (Chip.mans_rehomeFp h q)

theorem Chip.mans_startFps {c : Chip} {k : Nat} (hk : k < 4) (well : (c.fpAt k).failed = false) : c.startFps.mans k :=
  Chip.mans_foldl_rehomeFp (Chip.mans_foldl_startFp well (.inr (by simp; omega))) _

/-! An image installed (15 R394) -/

theorem Chip.storeHint_none {c : Chip} (quiet : c.quiet = true) (pa : Nat) (bs : List Byte) (bad : Bool) :
    ∃ f, c.storeHint pa bs bad 0 = c.modMem f := by
  unfold Chip.storeHint
  rw [Chip.hintUsable_zero, Chip.quiet_meet quiet]
  exact ⟨_, rfl⟩

/-- An image that is installed is copied, noted as the firmware that runs, and started on every processor. -/
theorem Chip.install_eq {c : Chip} (quiet : c.quiet = true) : ∃ f, c.install = ((c.modMem f).modFw (fun w =>
    { w with
      running := true, version := fieldLE (c.mem.readN c.fw.mbox.arg0 c.imageLen) 8 4
      digest := fieldLE (c.mem.readN c.fw.mbox.arg0 c.imageLen) 32 64, pcopy := some c.fw.mbox.arg2 })).startFps := by
  obtain ⟨f, stored⟩ := Chip.storeHint_none quiet c.fw.mbox.arg2 (c.mem.readN c.fw.mbox.arg0 c.imageLen) false
  refine ⟨f, ?_⟩
  unfold Chip.install
  dsimp only
  rw [Chip.quiet_meet quiet, stored]

theorem Chip.install_frame {c : Chip} (quiet : c.quiet = true) : c.install.fw.running = true ∧
    c.install.fw.version = fieldLE (c.mem.readN c.fw.mbox.arg0 c.imageLen) 8 4 ∧ c.install.fw.pcopy = some c.fw.mbox.arg2 ∧
    c.install.cm = c.cm ∧ c.install.ctx = c.ctx ∧ c.install.so = c.so ∧ ∀ k < 4, (c.fpAt k).failed = false → c.install.mans k := by
  obtain ⟨f, installed⟩ := Chip.install_eq quiet
  generalize fieldLE (c.mem.readN c.fw.mbox.arg0 c.imageLen) 8 4 = version at installed ⊢
  generalize fieldLE (c.mem.readN c.fw.mbox.arg0 c.imageLen) 32 64 = digest at installed
  have mans k (hk : k < 4) (well : (c.fpAt k).failed = false) : c.install.mans k := installed ▸ Chip.mans_startFps hk well
  obtain ⟨t, manned⟩ := Chip.manned_startFps ((c.modMem f).modFw (fun w =>
    { w with running := true, version := version, digest := digest, pcopy := some c.fw.mbox.arg2 }))
  refine ⟨?_, ?_, ?_, ?_, ?_, ?_, mans⟩ <;> rw [installed, manned] <;> rfl

section Images

variable {c : Chip} {k : Secure} {crypto : Bool}

theorem Chip.secLoad_running (running : c.fw.running = true) : c.secLoad k crypto = (c.callEnd 1 3, k) := if_pos running

theorem Chip.secLoad_refused (idle : c.fw.running = false) (refused : c.imageVerdict k crypto ≠ 0) :
    c.secLoad k crypto = (c.callEnd 1 (c.imageVerdict k crypto), k) := by
  unfold Chip.secLoad
  rw [if_neg (by simp [idle])]
  split
  · exact absurd ‹_› refused
  · rfl

theorem Chip.secLoad_accepted (idle : c.fw.running = false) (accepted : c.imageVerdict k crypto = 0) :
    c.secLoad k crypto = (c.install.answerAsks.unlatch.callEnd 1 0, c.raiseFor k) := by
  unfold Chip.secLoad
  rw [if_neg (by simp [idle]), accepted]
  rfl

theorem Chip.secUpdate_idle (idle : c.fw.running = false) : c.secUpdate k crypto = (c.callEnd 4 2, k) := if_pos (by simp [idle])

theorem Chip.secUpdate_busy (running : c.fw.running = true) (busy : c.liveWork = true ∨ (c.anyCtx = true ∧ c.otherMajor = true)) :
    c.secUpdate k crypto = (c.callEnd 4 7, k) := by
  unfold Chip.secUpdate
  rw [if_neg (by simp [running]), if_pos busy]

/-- Between jobs, where no context has to keep its major version, UPDATE is decided by the image. -/
theorem Chip.secUpdate_between (running : c.fw.running = true) (between : c.liveWork = false) (fits : c.anyCtx = false ∨ c.otherMajor = false) :
    (c.imageVerdict k crypto ≠ 0 → c.secUpdate k crypto = (c.callEnd 4 (c.imageVerdict k crypto), k)) ∧
    (c.imageVerdict k crypto = 0 → c.secUpdate k crypto = (c.install.unlatch.callEnd 4 0, c.raiseFor k)) := by
  have may : ¬ (c.liveWork = true ∨ (c.anyCtx = true ∧ c.otherMajor = true)) := by
    rintro (live | ⟨some, other⟩)
    · simp [between] at live
    · obtain none | same := fits
      · simp [none] at some
      · simp [same] at other
  unfold Chip.secUpdate
  rw [if_neg (by simp [running]), if_neg may]
  refine ⟨fun refused => ?_, fun accepted => by rw [accepted]; rfl⟩
  split
  · exact absurd ‹_› refused
  · rfl

end Images

/-! ATTACH, HANDOVER and QUERY (15 R395, R414, Table 15.1) -/

section Decided

variable {c : Chip} (free : c.fw.mbox.result ≠ 1)
include free

theorem Chip.calls_idle (idle : c.fw.running = false) :
    c.doAttach = c.callEnd 2 2 ∧ c.doHandover = c.callEnd 3 2 ∧ c.doQuery = c.callEnd 5 2 := by
  have stopped : (!c.fw.running) = true := by simp [idle]
  exact ⟨(Chip.call_free free _ _).trans (if_pos stopped), (Chip.call_free free _ _).trans (if_pos stopped),
    (Chip.call_free free _ _).trans (if_pos stopped)⟩

theorem Chip.doMailboxBadCall_unlisted {code : BitVec 8} (unlisted : code = 0 ∨ 5 < code.toNat) :
    c.doMailboxBadCall code = c.callEnd code.toNat 9 := by
  have outside : ¬ (1 ≤ code.toNat ∧ code.toNat ≤ 5) := by
    obtain rfl | above := unlisted
    · decide
    · omega
  exact (if_neg outside).trans (Chip.call_free free _ _)

variable (running : c.fw.running = true)
include running

theorem Chip.doAttach_running : c.doAttach = (c.modFw (fun f => { f with mbox := { c.fw.mbox with arg0 := f.version } })).callEnd 2
    (if versionsFit c.fw.mbox.arg0 c.fw.version then 0 else 6) :=
  (Chip.call_free free _ _).trans (if_neg (by simp [running]))

theorem Chip.doHandover_active (active : (c.cmAt 0).st = .active) : c.doHandover = (c.lose 0 .handover).callEnd 3 0 :=
  (Chip.call_free free _ _).trans ((if_neg (by simp [running])).trans (if_neg (by simp [active])))

theorem Chip.doHandover_inactive (inactive : (c.cmAt 0).st ≠ .active) : c.doHandover = c.callEnd 3 8 :=
  (Chip.call_free free _ _).trans ((if_neg (by simp [running])).trans (if_pos inactive))

/-- The processors with a property, by their bits. -/
def Chip.fpMask (c : Chip) (p : Fp → Bool) : Nat := [0, 1, 2, 3].foldl (fun acc k => if p (c.fpAt k) then acc + 2 ^ k else acc) 0

theorem Chip.doQuery_running : c.doQuery = c.modFw (fun f => { f with mbox :=
    { last := 5, result := 0, arg0 := f.version, arg1 := c.fpMask (·.service) + 16 * c.fpMask (·.failed), arg2 := 16384 - c.cm.used } }) :=
  (Chip.call_free free _ _).trans (if_neg (by simp [running]))

end Decided

theorem versionsFit_iff (driver firmware : Nat) : versionsFit driver firmware = true ↔
    bits driver 31 24 = bits firmware 31 24 ∧ bits driver 23 16 ≤ bits firmware 23 16 := by
  simp [versionsFit]

/-- Four flags as a number. -/
def flagNibble (a b c d : Bool) : Nat := b2n a + 2 * b2n b + 4 * b2n c + 8 * b2n d

theorem bit_flagNibble : ∀ a b c d e f g h : Bool, ∀ k < 4, bit (flagNibble a b c d + 16 * flagNibble e f g h) k = [a, b, c, d].getD k false ∧
    bit (flagNibble a b c d + 16 * flagNibble e f g h) (k + 4) = [e, f, g, h].getD k false := by decide

theorem Chip.fpMask_eq (c : Chip) (p : Fp → Bool) :
    c.fpMask p = flagNibble (p (c.fpAt 0)) (p (c.fpAt 1)) (p (c.fpAt 2)) (p (c.fpAt 3)) := by
  have sum : ∀ a b c d : Bool, [(0, a), (1, b), (2, c), (3, d)].foldl (fun acc (x : Nat × Bool) => if x.2 then acc + 2 ^ x.1 else acc) 0 =
      flagNibble a b c d := by decide
  exact sum ..

/-- The masks of QUERY have a bit for each processor. -/
theorem bit_fpMasks (c : Chip) (p q : Fp → Bool) {k : Nat} (hk : k < 4) :
    bit (c.fpMask p + 16 * c.fpMask q) k = p (c.fpAt k) ∧ bit (c.fpMask p + 16 * c.fpMask q) (k + 4) = q (c.fpAt k) := by
  rw [c.fpMask_eq, c.fpMask_eq]
  obtain ⟨low, high⟩ := bit_flagNibble (p (c.fpAt 0)) (p (c.fpAt 1)) (p (c.fpAt 2)) (p (c.fpAt 3)) (q (c.fpAt 0)) (q (c.fpAt 1)) (q (c.fpAt 2))
    (q (c.fpAt 3)) k hk
  rw [low, high]
  obtain rfl | rfl | rfl | rfl : k = 0 ∨ k = 1 ∨ k = 2 ∨ k = 3 := by omega
  all_goals exact ⟨rfl, rfl⟩

/-! The commands -/

/-- A call whose image lies in memory, on a calm package with no call under way. -/
theorem exec_imageCall {s : State} {i : Instr} {code : Nat} (f : Chip → Secure → Chip × Secure) {d : Chip} {k : Secure} (hl : s.chip.live = true)
    (hc : s.calm = true) (free : s.chip.fw.mbox.result ≠ 1) (hi : exec i s = s.imageCall code i f) (hd : f s.chip s.sec = (d, k)) :
    exec i s = .next { s with chip := d, sec := k } := by
  rw [hi, State.imageCall_calm code i f hl hc free, hd]

/-- While a call is under way, another with an image is ignored. -/
theorem exec_imageCall_busy {s : State} {i : Instr} {code : Nat} (f : Chip → Secure → Chip × Secure) (hl : s.chip.live = true)
    (fresh : s.retrying = none) (busy : s.chip.fw.mbox.result = 1) (hi : exec i s = s.imageCall code i f) :
    exec i s = .next (withChip s (s.chip.callIgnored code)) := by
  have first : (s.retrying.isNone && s.chip.fw.mbox.result == 1) = true := by simp [fresh, busy]
  rw [hi, State.imageCall, if_pos first, State.liveChip_live _ hl]
  rfl

/-- Settles O43: a call is decided by the firmware's state and by what it names, in the cases of the lemmas above; one that comes meanwhile is
ignored. -/
theorem mailboxCallsAnswered : Obligations.MailboxCallsAnswered := by
  unfold Obligations.MailboxCallsAnswered
  rintro s crypto m v hl hc rfl free rfl
  have load {d : Chip} {k : Secure} (hd : s.chip.secLoad s.sec crypto = (d, k)) : exec (.load crypto) s = .next { s with chip := d, sec := k } :=
    exec_imageCall (fun c k => c.secLoad k crypto) hl hc free rfl hd
  have update {d : Chip} {k : Secure} (hd : s.chip.secUpdate s.sec crypto = (d, k)) :
      exec (.update crypto) s = .next { s with chip := d, sec := k } := exec_imageCall (fun c k => c.secUpdate k crypto) hl hc free rfl hd
  have attach {d : Chip} (hd : s.chip.doAttach = d) : exec .attach s = .next (withChip s d) := exec_live (fun c => c.doAttach) hl rfl hd
  have handover {d : Chip} (hd : s.chip.doHandover = d) : exec .handover s = .next (withChip s d) := exec_live (fun c => c.doHandover) hl rfl hd
  have query {d : Chip} (hd : s.chip.doQuery = d) : exec .query s = .next (withChip s d) := exec_live (fun c => c.doQuery) hl rfl hd
  obtain ⟨running, version, pcopy, cm, ctx, so, mans⟩ := Chip.install_frame (State.quiet_of_calm hc)
  refine ⟨fun runs => load (Chip.secLoad_running runs), fun idle refused => load (Chip.secLoad_refused idle refused),
    fun idle accepted => ⟨_, load (Chip.secLoad_accepted idle accepted), running, version, pcopy, cm, mans⟩, fun idle => ?_,
    fun runs => ⟨fun busy => update (Chip.secUpdate_busy runs busy),
      fun between fits refused => update ((Chip.secUpdate_between runs between fits).1 refused),
      fun between fits accepted => ⟨_, update ((Chip.secUpdate_between runs between fits).2 accepted), running, version, cm, ctx, so⟩,
      ⟨_, attach (Chip.doAttach_running free runs), ?_, ?_⟩, fun active => handover (Chip.doHandover_active free runs active),
      fun inactive => handover (Chip.doHandover_inactive free runs inactive),
      ⟨_, query (Chip.doQuery_running free runs), fun k hk => bit_fpMasks s.chip _ _ hk⟩⟩,
    fun code unlisted => exec_live (fun c => c.doMailboxBadCall code) hl rfl (Chip.doMailboxBadCall_unlisted free unlisted), ?_,
    fun c code r => ⟨rfl, rfl⟩⟩
  · obtain ⟨attached, handed, queried⟩ := Chip.calls_idle free idle
    exact ⟨update (Chip.secUpdate_idle idle), attach attached, handover handed, query queried⟩
  · rw [← versionsFit_iff]
    split <;> simp [*]
  · split <;> simp
  · intro u live busy fresh p mem
    refine ⟨?_, u.chip.callIgnored_fw p.2, u.chip.callIgnored_cfgNext p.2⟩
    simp only [List.mem_cons, List.not_mem_nil, or_false] at mem
    obtain rfl | rfl | rfl | rfl | rfl := mem
    · exact exec_imageCall_busy (fun c k => c.secLoad k crypto) live fresh busy rfl
    · exact exec_live (fun c => c.doAttach) live rfl (Chip.call_busy busy 2 _)
    · exact exec_live (fun c => c.doHandover) live rfl (Chip.call_busy busy 3 _)
    · exact exec_imageCall_busy (fun c k => c.secUpdate k crypto) live fresh busy rfl
    · exact exec_live (fun c => c.doQuery) live rfl (Chip.call_busy busy 5 _)

end Sys2Proof.Machine
end

section
/-!
Commanders (14 R364 to R368, R387 to R389) and the CXL port (14 R360 to R362, R386, R387, 20 R507).
-/

open Sys2Proof

namespace Sys2Proof.Machine

@[simp] theorem Chip.cmAt_setCm_same (c : Chip) (k : Nat) (e : Cmdr) : (c.setCm k e).cmAt k = e := tabGet_tabSet_same ..

theorem Chip.cmAt_setCm_other (c : Chip) {k j : Nat} (other : k ≠ j) (e : Cmdr) : (c.setCm k e).cmAt j = c.cmAt j :=
  tabGet_tabSet_other _ _ _ other

/-! Registration (14 R365 to R367) -/

section Registration

variable {c : Chip} {k : Nat} {a : SetupAcc} (whole : a.half = none) (free : (c.cmAt k).asking = false) (stays : (c.cmAt k).dereg = false)
include whole free stays

/-- A write of REG_ADDR with an address asks for registration. -/
theorem Chip.regWrite_address (aligned : a.value.toNat % 64 = 0) (address : a.value.toNat ≠ 0) (runs : c.fw.running = true) (req : Nat) :
    c.regWrite k a req = (c.setCm k { c.cmAt k with regAddr := a.value.toNat, refusal := 0, asking := true, asker := req }).regBegin k
      a.value.toNat := by
  have exact_ : a.value.toNat / 64 * 64 = a.value.toNat := by omega
  simp [Chip.regWrite, whole, free, stays, exact_, aligned, address, runs]

/-- A write of zero asks an ACTIVE entry's deregistration. -/
theorem Chip.regWrite_zero (zero : a.value = 0) (active : (c.cmAt k).st = .active) (req : Nat) :
    c.regWrite k a req = c.setCm k { c.cmAt k with regAddr := 0, refusal := 0, dereg := true } := by
  simp [Chip.regWrite, whole, free, stays, zero, active]

end Registration

/-- The block of a local commander is read at once. -/
theorem Chip.regBegin_local {c : Chip} (quiet : c.quiet = true) {addr : Nat} (backed : c.mem.backedN addr 64 = true) :
    c.regBegin 0 addr = c.regDecide 0 (if c.mem.poisonedN addr 64 then none else some (c.mem.readN addr 64)) := by
  simp [Chip.regBegin, backed, Chip.quiet_fetchN quiet]

theorem Chip.regBegin_remote {c : Chip} {k : Nat} (remote : k ≠ 0) (addr : Nat) :
    c.regBegin k addr = c.cxlAsk k addr none (.block k) := if_neg remote

theorem Chip.regDecide_read (c : Chip) (k : Nat) (b : List Byte) {back : Chip} (hback : back = c.setCm k { c.cmAt k with asking := false }) :
    c.regDecide k (some b) = if back.regJudge k (some b) = 2 then back.regAccept k b
      else back.setCm k { back.cmAt k with refusal := back.regJudge k (some b) } := by
  subst hback
  unfold Chip.regDecide
  dsimp only
  split
  · rename_i accepted same
    rw [if_pos accepted, Option.some.inj same]
  · rename_i refused
    rw [if_neg fun accepted => refused b accepted rfl]

/-! Rings unbound (14 R388, R389) -/

/-- Entries of a table of rings changed where they are bound to a commander: those that name it afterwards are FREE. -/
theorem free_of_mem_freed {α : Type} {cm : α → Nat} {st : α → RingSt} {fresh : α} (blank : st fresh = .free) {t : Tab α} {k : Nat} {p : Nat × α}
    (mem : p ∈ t.map (fun p => if cm p.2 = k ∧ st p.2 ≠ .free then (p.1, fresh) else p)) (own : cm p.2 = k) : st p.2 = .free := by
  obtain ⟨q, -, rfl⟩ := List.mem_map.mp mem
  by_cases bound : cm q.2 = k ∧ st q.2 ≠ .free
  · rw [if_pos bound]
    exact blank
  · rw [if_neg bound] at own ⊢
    exact not_not.mp fun other => bound ⟨own, other⟩

/-- Deregistration ends once nothing of the entry is left. -/
theorem Chip.doDeregistrationDone_empty {c : Chip} {k : Nat} (asked : (c.cmAt k).dereg = true) (descs : c.cm.descs = []) (fin : c.cm.fin = [])
    (log : c.cm.log = []) (out : c.cxl.out = []) : c.doDeregistrationDone k =
      ((c.freeRings k).setCm k { c.cmAt k with st := .free, key := 0, dereg := false, refusal := 0, hbAddr := 0 }).modCtx (fun t =>
        t.map (fun p => (p.1, { p.2 with grants := p.2.grants.filter (· != (c.cmAt k).key) }))) := by
  simp [Chip.doDeregistrationDone, asked, descs, fin, log, out]

/-! Records delivered leave entries, rings bound and descriptors (14 R388) -/

/-- Two packages that differ in the commander block at most in what records move in completion rings. -/
def Chip.RecordsMoved (c d : Chip) : Prop :=
  d.cm = { c.cm with cq := d.cm.cq } ∧ ∀ n, (d.cqAt n).st = (c.cqAt n).st ∧ (d.cqAt n).head = (c.cqAt n).head

theorem Chip.RecordsMoved.trans {c d e : Chip} (h : c.RecordsMoved d) (g : d.RecordsMoved e) : c.RecordsMoved e := by
  obtain ⟨hcm, hcq⟩ := h
  obtain ⟨gcm, gcq⟩ := g
  refine ⟨?_, fun n => ⟨(gcq n).1.trans (hcq n).1, (gcq n).2.trans (hcq n).2⟩⟩
  rw [gcm, hcm]

/-- Each part of the commander block but its completion rings reads as before. -/
theorem Chip.RecordsMoved.part {α : Type} {c d : Chip} (h : c.RecordsMoved d) (p : Cm → α) : p d.cm = p { c.cm with cq := d.cm.cq } :=
  congrArg p h.1

theorem Chip.recordsMoved_of_cm {c d : Chip} (same : d.cm = c.cm) : c.RecordsMoved d := by
  refine ⟨by rw [same], fun n => ?_⟩
  rw [show d.cqAt n = c.cqAt n from congrArg (fun m : Cm => tabGet Cq.fresh m.cq n) same]
  exact ⟨rfl, rfl⟩

theorem Chip.recordsMoved_setCq {c : Chip} {n : Nat} {q : Cq} (st : q.st = (c.cqAt n).st) (head : q.head = (c.cqAt n).head) :
    c.RecordsMoved (c.setCq n q) := by
  refine ⟨rfl, fun m => ?_⟩
  by_cases same : n = m
  · subst same
    rw [show (c.setCq n q).cqAt n = q from tabGet_tabSet_same ..]
    exact ⟨st, head⟩
  · rw [show (c.setCq n q).cqAt m = c.cqAt m from tabGet_tabSet_other _ _ _ same]
    exact ⟨rfl, rfl⟩

theorem Chip.devWrite_cm (c : Chip) (requester pa : Nat) (bs : List Byte) (hint : Nat) : (c.devWrite requester pa bs hint).cm = c.cm := by
  unfold Chip.devWrite
  split
  · exact (c.worked_storeHint ..).part Chip.cm
  · exact (c.logged_logRefused ..).part Chip.cm

theorem Chip.ringMsi_cm (c : Chip) (cm msi : Nat) : (c.ringMsi cm msi).cm = c.cm := by
  unfold Chip.ringMsi
  split
  · exact (c.logged_msi ..).part Chip.cm
  · rfl

theorem Chip.fwSoOp_cm (c : Chip) (fp ident so value : Nat) (isSet : Bool) : (c.fwSoOp fp ident so value isSet).cm = c.cm := by
  unfold Chip.fwSoOp
  dsimp only
  split
  · rfl
  · split <;> simp [Chip.soSignal, Chip.modSo]

theorem Chip.fwAct_cm (c : Chip) (fp so value : Nat) (isSet : Bool) : (c.fwAct fp so value isSet).cm = c.cm :=
  Chip.fwSoOp_cm ..

theorem Chip.recordsMoved_unarmed (c : Chip) (n : Nat) : c.RecordsMoved (c.setCq n { c.cqAt n with armed := false }) :=
  Chip.recordsMoved_setCq rfl rfl

theorem Chip.recordsMoved_recordSeen (c : Chip) (cqn : Nat) (f : Fin_) : c.RecordsMoved (c.recordSeen cqn f) := by
  have signalled : ∀ d : Chip, c.RecordsMoved d → c.RecordsMoved (if (d.cqAt cqn).int && (d.cqAt cqn).armed then
      (d.setCq cqn { d.cqAt cqn with armed := false }).ringMsi (d.cqAt cqn).cm (d.cqAt cqn).msi else d) := by
    intro d kept
    split
    · exact (kept.trans (Chip.recordsMoved_unarmed d cqn)).trans (Chip.recordsMoved_of_cm (Chip.ringMsi_cm _ _ _))
    · exact kept
  unfold Chip.recordSeen
  dsimp only
  refine signalled _ (Chip.recordsMoved_of_cm ?_)
  split
  · split
    · exact Chip.fwAct_cm ..
    · rfl
  · rfl

/-- A completion ring's write count moved on by one record. -/
def Chip.advanced (c : Chip) (n : Nat) : Chip := c.setCq n { c.cqAt n with w := ((c.cqAt n).w + 1) % 2 ^ 32 }

theorem Chip.recordsMoved_advanced (c : Chip) (n : Nat) : c.RecordsMoved (c.advanced n) := Chip.recordsMoved_setCq rfl rfl

theorem Chip.recordsMoved_writeRecord (c : Chip) (r : LogRec) : c.RecordsMoved (c.writeRecord r) := by
  have moved := c.recordsMoved_advanced (c.recordCq r.rcd)
  unfold Chip.writeRecord
  dsimp only
  rw [← Chip.advanced]
  split
  · exact (moved.trans (Chip.recordsMoved_of_cm (Chip.devWrite_cm _ _ _ _ _))).trans (Chip.recordsMoved_recordSeen _ _ _)
  · exact moved.trans (Chip.recordsMoved_of_cm rfl)

/-- Two packages with the same entries, submission rings and descriptors, and the same completion rings but for what records move. -/
structure Chip.RingsKept (c d : Chip) : Prop where
  ent : d.cm.ent = c.cm.ent
  sq : d.cm.sq = c.cm.sq
  descs : d.cm.descs = c.cm.descs
  cq : ∀ n, (d.cqAt n).st = (c.cqAt n).st ∧ (d.cqAt n).head = (c.cqAt n).head

theorem Chip.RingsKept.trans {c d e : Chip} (h : c.RingsKept d) (g : d.RingsKept e) : c.RingsKept e where
  ent := g.ent.trans h.ent
  sq := g.sq.trans h.sq
  descs := g.descs.trans h.descs
  cq n := ⟨(g.cq n).1.trans (h.cq n).1, (g.cq n).2.trans (h.cq n).2⟩

theorem Chip.RecordsMoved.ringsKept {c d : Chip} (h : c.RecordsMoved d) : c.RingsKept d :=
  ⟨h.part Cm.ent, h.part Cm.sq, h.part Cm.descs, h.2⟩

/-- What moves records in the completion log alone leaves rings as they are. -/
theorem Chip.ringsKept_log (c : Chip) (log : List LogRec) (lost : Tab Nat) (dropped : Nat) :
    c.RingsKept (c.modCm (fun m => { m with log := log, lostEvents := lost, dropped := dropped })) :=
  ⟨rfl, rfl, rfl, fun _ => ⟨rfl, rfl⟩⟩

theorem Chip.ringsKept_drainAll (c : Chip) (cm n : Nat) : c.RingsKept (c.drainAll cm n) := by
  induction n generalizing c with
  | zero => exact (Chip.recordsMoved_of_cm rfl).ringsKept
  | succ n ih =>
    unfold Chip.drainAll
    split
    · next r _ =>
      have taken : c.RingsKept (c.modCm (fun m => { m with log := m.log.erase r })) := c.ringsKept_log _ _ _
      exact (taken.trans (Chip.recordsMoved_writeRecord _ r).ringsKept).trans (ih _)
    · exact (Chip.recordsMoved_of_cm rfl).ringsKept

/-- What a registration that is accepted binds. -/
theorem Chip.regAccept_binds {c d : Chip} {k : Nat} {b : List Byte} (run : c.regAccept k b = d) : (d.cmAt k).st = .active ∧
    (d.cmAt k).key = fieldLE b 0 8 ∧ (d.cmAt k).epoch = fieldLE b 8 2 ∧ (d.cmAt k).ever = true ∧
    (d.sqAt (fieldLE b 10 2)).st = .active ∧ (d.sqAt (fieldLE b 10 2)).head = 0 ∧ (d.sqAt (fieldLE b 10 2)).tail = 0 ∧
    (d.cqAt (fieldLE b 12 2)).st = .active ∧ (d.cqAt (fieldLE b 12 2)).head = 0 := by
  unfold Chip.regAccept at run
  extract_lets f c1 c2 c3 c4 e c5 c6 c7 at run
  subst run
  obtain ⟨ent, sq, -, cq⟩ := c6.ringsKept_drainAll k c6.cm.log.length
  obtain ⟨st, head⟩ := cq (f 12 2)
  have entered : tabGet Cmdr.fresh c7.cm.ent k = _ := (congrArg (tabGet Cmdr.fresh · k) ent).trans (tabGet_tabSet_same _ c4.cm.ent k _)
  have boundSq : tabGet Sq.fresh c7.cm.sq (f 10 2) = _ :=
    (congrArg (tabGet Sq.fresh · (f 10 2)) sq).trans (tabGet_tabSet_same _ c2.cm.sq (f 10 2) _)
  have boundCq : c6.cqAt (f 12 2) = _ := tabGet_tabSet_same _ c3.cm.cq (f 12 2) _
  rw [boundCq] at st head
  exact ⟨congrArg Cmdr.st entered, congrArg Cmdr.key entered, congrArg Cmdr.epoch entered, congrArg Cmdr.ever entered,
    congrArg Sq.st boundSq, congrArg Sq.head boundSq, congrArg Sq.tail boundSq, st, head⟩

/-! Loss (14 R387) -/

/-- A package that differs from another at most in descriptors that have ended, the allocation table and contexts. -/
def Chip.Cancelled (c d : Chip) : Prop :=
  d = { c with cm := { c.cm with descs := d.cm.descs, fin := d.cm.fin }, fw := d.fw, ctx := d.ctx }

theorem Chip.Cancelled.refl (c : Chip) : c.Cancelled c := rfl

theorem Chip.Cancelled.trans {c d e : Chip} (h : c.Cancelled d) (g : d.Cancelled e) : c.Cancelled e := by
  unfold Chip.Cancelled at *; rw [g, h]

theorem Chip.Cancelled.part {α : Type} {c d : Chip} (h : c.Cancelled d) (p : Chip → α) :
    p d = p { c with cm := { c.cm with descs := d.cm.descs, fin := d.cm.fin }, fw := d.fw, ctx := d.ctx } := congrArg p h

theorem Chip.cancelled_foldl {α : Type} {f : Chip → α → Chip} (hf : ∀ d x, Chip.Cancelled d (f d x)) (l : List α) (c : Chip) :
    c.Cancelled (l.foldl f c) := by
  induction l generalizing c with
  | nil => exact .refl c
  | cons x r ih => exact (hf c x).trans (ih _)

theorem Chip.Finished.cancelled {c d : Chip} (h : c.Finished d) : c.Cancelled d := by
  unfold Chip.Finished at h
  unfold Chip.Cancelled
  rw [h]

theorem Chip.cancelled_cancelAll (c : Chip) (ds : List Desc) : c.Cancelled (c.cancelAll ds) :=
  Chip.cancelled_foldl (fun d _ => Chip.Cancelled.trans (d := d.modFw _) rfl (Chip.finished_finish ..).cancelled) ds c

theorem Chip.cancelled_loseCtx (c : Chip) (cm : Nat) (handover : Bool) (k : Nat) : c.Cancelled (c.loseCtx cm handover k) := by
  unfold Chip.loseCtx
  dsimp only
  split
  · exact .refl c
  · split
    · refine Chip.Cancelled.trans ?_ (Chip.cancelled_cancelAll ..)
      split
      · rfl
      · exact .refl c
    · split
      · exact .refl c
      · rfl

/-- A transaction gone: a read of a registration block ends its request as READ_FAILED. -/
def Chip.failBlock (c : Chip) (x : CxlTxn) : Chip :=
  match x.use with
  | .block cm => c.setCm cm { c.cmAt cm with asking := false, refusal := 11 }
  | _ => c

theorem Chip.failBlocks_cons (c : Chip) (x : CxlTxn) (r : List CxlTxn) : c.failBlocks (x :: r) = (c.failBlock x).failBlocks r := rfl

theorem Chip.failBlock_eq (c : Chip) (x : CxlTxn) : ∃ t, c.failBlock x = c.modCm (fun m => { m with ent := t }) ∧
    ∀ j, (tabGet Cmdr.fresh t j).st = (c.cmAt j).st := by
  unfold Chip.failBlock
  split
  · next cm _ =>
    refine ⟨_, rfl, fun j => ?_⟩
    by_cases same : cm = j
    · subst same
      rw [tabGet_tabSet_same]
    · rw [tabGet_tabSet_other _ _ _ same]
      rfl
  · exact ⟨c.cm.ent, rfl, fun _ => rfl⟩

/-- Reads of registration blocks that will not come back change their entries and no state. -/
theorem Chip.failBlocks_eq (c : Chip) (gone : List CxlTxn) : ∃ t, c.failBlocks gone = c.modCm (fun m => { m with ent := t }) ∧
    ∀ j, (tabGet Cmdr.fresh t j).st = (c.cmAt j).st := by
  induction gone generalizing c with
  | nil => exact ⟨c.cm.ent, rfl, fun _ => rfl⟩
  | cons x r ih =>
    obtain ⟨t, one, kept⟩ := c.failBlock_eq x
    obtain ⟨u, rest, keptToo⟩ := ih (c.failBlock x)
    rw [one] at rest keptToo
    exact ⟨u, by rw [Chip.failBlocks_cons, one, rest]; rfl, fun j => (keptToo j).trans (kept j)⟩

/-- What the loss of commanders leaves: tiles, objects and the link, and the states of the other entries. -/
structure Chip.LosesOnly (c d : Chip) (gone : List Nat) : Prop where
  tile : d.tile = c.tile
  so : d.so = c.so
  link : d.cxl.l0 = c.cxl.l0
  lost : ∀ j ∈ gone, (d.cmAt j).st ≠ .active
  kept : ∀ j, j ∉ gone → (d.cmAt j).st = (c.cmAt j).st

theorem Chip.losesOnly_lose (c : Chip) (k : Nat) (ev : Ev) : c.LosesOnly (c.lose k ev) [k] := by
  generalize run : c.lose k ev = d
  unfold Chip.lose at run
  extract_lets e back gone c1 c2 c3 halted c4 at run
  split at run
  case isFalse idle =>
    subst run
    exact ⟨rfl, rfl, rfl, fun j mem => List.mem_singleton.mp mem ▸ idle, fun _ _ => rfl⟩
  case isTrue active =>
    obtain ⟨t, failed, states⟩ := c2.failBlocks_eq gone
    have logged : (c2.modCm (fun m => { m with ent := t })).Logged c3 := by
      show Chip.Logged _ ((c2.failBlocks gone).logEv ev srcDispatch [k, e.epoch])
      rw [failed]
      exact Chip.logged_logEv ..
    have cancelled : c3.Cancelled d := by
      rw [← run]
      exact (c3.cancelled_cancelAll _).trans (Chip.cancelled_foldl (fun x j => x.cancelled_loseCtx k _ j) _ _)
    have state j : (d.cmAt j).st = (c2.cmAt j).st := by
      rw [cancelled.part (fun x => x.cmAt j)]
      refine (congrArg Cmdr.st (logged.part (fun x => x.cmAt j))).trans (states j)
    refine ⟨?_, ?_, ?_, fun j mem => ?_, fun j other => ?_⟩
    · rw [cancelled.part Chip.tile]; exact logged.part Chip.tile
    · rw [cancelled.part Chip.so]; exact logged.part Chip.so
    · rw [cancelled.part Chip.cxl]; exact logged.part (fun x => x.cxl.l0)
    · obtain rfl := List.mem_singleton.mp mem
      rw [state j, show c2.cmAt j = _ from tabGet_tabSet_same _ c1.cm.ent j _]
      nofun
    · rw [state j]
      exact congrArg Cmdr.st (tabGet_tabSet_other _ c1.cm.ent _ fun same => other (List.mem_singleton.mpr same.symm))

theorem Chip.losesOnly_foldl (c : Chip) (ev : Ev) (l : List Nat) : c.LosesOnly (l.foldl (fun (d : Chip) k => d.lose k ev) c) l := by
  induction l generalizing c with
  | nil => exact ⟨rfl, rfl, rfl, fun _ mem => absurd mem List.not_mem_nil, fun _ _ => rfl⟩
  | cons k r ih =>
    obtain ⟨tile, so, link, lost, kept⟩ := c.losesOnly_lose k ev
    obtain ⟨tile', so', link', lost', kept'⟩ := ih (c.lose k ev)
    refine ⟨tile'.trans tile, so'.trans so, link'.trans link, fun j mem => ?_, fun j other => ?_⟩
    · by_cases later : j ∈ r
      · exact lost' j later
      · rw [List.foldl_cons, kept' j later]
        exact lost j (List.mem_singleton.mpr ((List.mem_cons.mp mem).resolve_right later))
    · obtain ⟨notFirst, notLater⟩ := not_or.mp (mt List.mem_cons.mpr other)
      exact (kept' j notLater).trans (kept j fun mem => notFirst (List.mem_singleton.mp mem))

/-- With the link gone every remote commander is lost, and CM0 is not. -/
theorem Chip.loseRemote_result (c : Chip) : c.loseRemote.cxl.out = [] ∧ c.loseRemote.cxl.l0 = c.cxl.l0 ∧
    (∀ k, 0 < k → k < 32 → (c.loseRemote.cmAt k).st ≠ .active) ∧ (c.loseRemote.cmAt 0).st = (c.cmAt 0).st ∧
    c.loseRemote.tile = c.tile ∧ c.loseRemote.so = c.so := by
  obtain ⟨tile, so, link, lost, kept⟩ := c.losesOnly_foldl .commanderLost ((List.range 31).map (· + 1))
  generalize hd : ((List.range 31).map (· + 1)).foldl (fun (d : Chip) k => d.lose k .commanderLost) c = d at tile so link lost kept
  obtain ⟨t, failed, states⟩ := d.failBlocks_eq d.cxl.out
  have ends : c.loseRemote = (d.modCm (fun m => { m with ent := t })).modCxl (fun x => { x with out := [] }) := by
    unfold Chip.loseRemote
    dsimp only
    rw [hd, failed]
  have state j : (c.loseRemote.cmAt j).st = (d.cmAt j).st := by rw [ends]; exact states j
  refine ⟨by rw [ends]; rfl, by rw [ends]; exact link, fun k pos small => ?_, ?_, by rw [ends]; exact tile, by rw [ends]; exact so⟩
  · rw [state k]
    exact lost k (List.mem_map.mpr ⟨k - 1, List.mem_range.mpr (by omega), by omega⟩)
  · rw [state 0]
    exact kept 0 (by simp)

/-! The commands -/

section Commands

variable {s : State} (hl : s.chip.live = true) (k : Fin 32)
include hl

/-- A GRACE that ends parks the context (14 R387). -/
theorem exec_graceExpiry_active {x : Fin 64} {due : Nat} (begun : tabFind (s.chip.ctxAt x.val).graceDue k.val = some due)
    (active : (s.chip.ctxAt x.val).st = .active) : exec (.graceExpiry k x) s = .next (withChip s ((s.chip.passTo srcDispatch due).setCtx x.val
      { s.chip.ctxAt x.val with graceDue := tabDel (s.chip.ctxAt x.val).graceDue k.val, st := .parked })) := by
  refine exec_live (fun c => c.doGraceExpiry k.val x.val) hl rfl ?_
  simp [Chip.doGraceExpiry, begun, active]

theorem exec_deregistrationDone_empty (asked : (s.chip.cmAt k.val).dereg = true) (descs : s.chip.cm.descs = []) (fin : s.chip.cm.fin = [])
    (log : s.chip.cm.log = []) (out : s.chip.cxl.out = []) : ∃ c : Chip, exec (.deregistrationDone k) s = .next (withChip s c) ∧
      (c.cmAt k.val).st = .free ∧ (∀ p ∈ c.cm.sq, p.2.cm = k.val → p.2.st = .free) ∧ (∀ p ∈ c.cm.cq, p.2.cm = k.val → p.2.st = .free) ∧
      (∀ j, j ≠ k.val → c.cmAt j = s.chip.cmAt j) := by
  refine ⟨_, exec_live (fun c => c.doDeregistrationDone k.val) hl rfl (Chip.doDeregistrationDone_empty asked descs fin log out), ?_,
    fun p mem own => free_of_mem_freed (cm := Sq.cm) (st := Sq.st) rfl mem own,
    fun p mem own => free_of_mem_freed (cm := Cq.cm) (st := Cq.st) rfl mem own, fun j other => ?_⟩
  · exact congrArg Cmdr.st (Chip.cmAt_setCm_same ..)
  · exact Chip.cmAt_setCm_other _ (Ne.symm other) _

/-- The link down or reset: remote commanders are lost, tiles and objects run on. -/
theorem exec_linkGone {i : Instr} (mem : i ∈ [Instr.cxlLinkDown, Instr.linkReset]) : ∃ c : Chip, exec i s = .next (withChip s c) ∧ c.cxl.l0 = false ∧
    (∀ k, 0 < k → k < 32 → (c.cmAt k).st ≠ .active) ∧ (c.cmAt 0).st = (s.chip.cmAt 0).st ∧ c.cxl.out = [] ∧ c.tile = s.chip.tile ∧
    c.so = s.chip.so := by
  obtain rfl | rest := List.mem_cons.mp mem
  · obtain ⟨out, link, lost, kept, tile, so⟩ := (s.chip.modCxl (fun x => { x with l0 := false, rate := 0, width := 0 })).loseRemote_result
    exact ⟨_, exec_live Chip.doCxlLinkDown hl rfl rfl, link, lost, kept, out, tile, so⟩
  · obtain rfl := List.mem_singleton.mp rest
    obtain ⟨out, link, lost, kept, tile, so⟩ :=
      (s.chip.modCxl (fun x => { x with l0 := false, rate := 0, width := 0, sent := [], slots := [] })).loseRemote_result
    exact ⟨_, exec_live Chip.doLinkReset hl rfl rfl, link, lost, kept, out, tile, so⟩

/-- A transaction that completes is judged by what it was for (14 R362). -/
theorem exec_cxlCacheResponse (calm : s.calm = true) {x : CxlTxn} (found : s.chip.cxl.out.find? (fun y => y.id == x.id) = some x) {d : Chip}
    (hd : d = s.chip.modCxl (fun l => { l with out := l.out.filter (fun o => o.id != x.id) })) (bs : List Byte) :
    (∀ r : LogRec, x.use = .record r → exec (.cxlCacheResponse x.id .ok bs) s = .next (withChip s (d.recordSeen r.rcd.cq r.rcd)) ∧
      exec (.cxlCacheResponse x.id .error bs) s = .next (withChip s (s.chip.lose x.cm .commanderLost))) ∧
    (∀ cm : Nat, x.use = .block cm → exec (.cxlCacheResponse x.id .ok bs) s = .next (withChip s (d.regDecide cm (some bs)))) ∧
    (∀ r n : Nat, x.use = .slot r n → exec (.cxlCacheResponse x.id .ok bs) s = .next (withChip s (d.slotBack r n bs .ok))) ∧
    (∀ cm : Nat, x.use = .heartbeat cm → exec (.cxlCacheResponse x.id .ok bs) s = .next (withChip s (d.heartbeat cm (some (fieldLE bs 0 8))))) ∧
    (∀ key : Nat, x.use = .done key → exec (.cxlCacheResponse x.id .ok bs) s = .next (withChip s (d.finish key 0 0))) := by
  subst hd
  have answered {res : CxlRes} {e : Chip} (he : s.chip.doCxlCacheResponse x.id res bs = e) :
      exec (.cxlCacheResponse x.id res bs) s = .next (withChip s e) :=
    exec_calm (fun c => c.doCxlCacheResponse x.id res bs) hl calm rfl he
  refine ⟨fun r use => ⟨answered ?_, answered ?_⟩, fun cm use => answered ?_, fun r n use => answered ?_, fun cm use => answered ?_,
    fun key use => answered ?_⟩ <;> simp [Chip.doCxlCacheResponse, found, use]

/-- A read of BAR0 returns the registration registers of its page (14 R361, 21 R522). -/
theorem exec_cxlioRequest_status {k : Nat} (pos : 0 < k) (small : k < 32) {off : BitVec 64} (at8 : off.toNat = 0x1000 * k + 8) :
    exec (.cxlioRequest 0 off false 8) s = .next (withChip s
      (s.chip.answer [0, ((s.chip.cmAt k).epoch * 2 ^ 32 + (s.chip.cmAt k).status) % 2 ^ 64])) := by
  refine exec_live (fun c => c.doCxlioRequest 0 off false 8) hl rfl ?_
  have inBar : off.toNat < 0x100000 := by omega
  have inSets : 0x1000 ≤ off.toNat ∧ off.toNat < 0x20000 := by omega
  have entry : off.toNat / 0x1000 = k := by omega
  have reg : off.toNat % 0x1000 / 8 * 8 = 8 := by omega
  have whole : off.toNat % 8 = 0 := by omega
  simp [Chip.doCxlioRequest, inBar, inSets, entry, reg, whole, Chip.regSetRead]

end Commands

/-- Settles O38: registration is its judgement's lemma for a local and a remote block, deregistration frees what names the entry, and a loss
changes commanders alone. -/
theorem commandersAndTheirPort : Obligations.CommandersAndTheirPort := by
  unfold Obligations.CommandersAndTheirPort
  refine ⟨fun s k a req w x e b hl he => ?_, fun s x bs addr off width rate hl => ⟨fun i mem => exec_linkGone hl mem, fun wide fast => ?_,
    fun found active => ?_, fun d calm found hd => exec_cxlCacheResponse hl calm found hd bs, ?_,
    fun k pos small at8 => exec_cxlioRequest_status hl pos small at8, fun bytes inBar => ?_, fun wr bytes beyond => ?_, fun wr bytes inBar => ?_⟩⟩
  · subst he
    refine ⟨fun own calm whole aligned address free stays runs backed => ?_, fun remote calm whole aligned address free stays runs => ?_,
      fun active calm free stays => ?_, exec_deregistrationDone_empty hl k, fun due => exec_graceExpiry_active hl k, fun c hc => ?_,
      fun _ => ⟨_, rfl, Chip.regAccept_binds rfl⟩⟩
    · refine exec_calm (fun c => c.doRegistration k.val a req) hl calm rfl ?_
      rw [Chip.doRegistration, Chip.regWrite_address whole free stays aligned address runs, own]
      exact Chip.regBegin_local (c := s.chip.setCm 0 _) (State.quiet_of_calm calm) backed
    · refine exec_calm (fun c => c.doRegistration k.val a req) hl calm rfl ?_
      rw [Chip.doRegistration, Chip.regWrite_address whole free stays aligned address runs]
      exact Chip.regBegin_remote remote _
    · exact exec_calm (fun c => c.doDeregistration k.val w) hl calm rfl (Chip.regWrite_zero rfl free stays rfl active 0)
    · exact Chip.regDecide_read _ _ b hc
  · exact exec_live (fun c => c.doCxlLinkUp width rate) hl rfl (if_pos ⟨wide, fast⟩)
  · refine exec_live (fun c => c.doCxlRequestTimeout x.id) hl rfl ?_
    simp [Chip.doCxlRequestTimeout, found, active]
  · exact exec_live (fun c => c.doCxlCacheSnoop addr) hl rfl rfl
  · refine exec_live (fun c => c.doCxlioRequest 0 off true bytes) hl rfl ?_
    simp [Chip.doCxlioRequest, inBar]
  · refine exec_live (fun c => c.doCxlioRequest 0 off wr bytes) hl rfl ?_
    simp [Chip.doCxlioRequest, Nat.not_lt.mpr beyond]
  · refine exec_live (fun c => c.doCxlioRequest 2 off wr bytes) hl rfl ?_
    simp [Chip.doCxlioRequest, inBar]

end Sys2Proof.Machine
end

section
/-!
Doorbells (14 R375, R376, R380, R384, 20 R511), slots consumed (14 R374, R377, R378, 09 R225) and the completion log (14 R379, R385, R388).
-/

open Sys2Proof

namespace Sys2Proof.Machine

/-! Doorbells -/

section Doorbells

variable {c : Chip} {b : Bell}

theorem Chip.bell_latched (unserved : c.serving b.ring = none) : c.bell b = c.modCm (fun m => { m with latched := m.latched ++ [b] }) := by
  simp [Chip.bell, unserved]

variable (served : (c.serving b.ring).isSome)
include served

theorem Chip.bell_bad (bad : b.width ≠ 4 ∨ b.off ≠ 0) : c.bell b = c.logEv .doorbellBad srcDispatch [b2n b.isSq, b.ring] := by
  rw [Chip.bell, if_pos served, Chip.judgeBell, if_pos bad]
  rfl

variable (width : b.width = 4) (off : b.off = 0) (own : b.req = none)
include width off own

/-- A tail within the ring and not behind the present one is taken, and the ring consumes. -/
theorem Chip.bell_sq (sq : b.isSq = true) {q : Sq} (hq : q = c.sqAt b.ring) (active : q.st = .active) : c.bell b =
    if sub32 (b.value % 2 ^ 32) q.head ≤ ringSize q.log2 ∧ sub32 q.tail q.head ≤ sub32 (b.value % 2 ^ 32) q.head
    then (c.setSq b.ring { q with tail := b.value % 2 ^ 32, ahead := false }).pump b.ring
    else c.logEv .ringOverrun srcDispatch [b.ring, b.value % 2 ^ 32, q.head] := by
  subst hq
  simp [Chip.bell, served, Chip.judgeBell, width, off, own, sq, active]

/-- A head up to the write count is taken, and arms a ring with INT. -/
theorem Chip.bell_cq (cq : b.isSq = false) {q : Cq} (hq : q = c.cqAt b.ring) (active : q.st = .active) : c.bell b =
    if sub32 (b.value % 2 ^ 32) q.head ≤ sub32 q.w q.head then c.setCq b.ring { q with head := b.value % 2 ^ 32, armed := q.int }
    else c.logEv .doorbellBad srcDispatch [0, b.ring] := by
  subst hq
  simp [Chip.bell, served, Chip.judgeBell, Chip.bellBad, width, off, own, cq, active, b2n]

end Doorbells

/-! Slots -/

theorem Chip.meet_eq_modMem (c : Chip) (lines : List Nat) (alloc : Bool) : ∃ f, c.meet lines alloc = c.modMem f := by
  unfold Chip.meet
  split
  · exact ⟨id, rfl⟩
  · exact ⟨_, rfl⟩

/-- A coherent read changes memory at most. -/
theorem Chip.fetchN_eq_modMem (c : Chip) (pa n : Nat) : ∃ f, (c.fetchN pa n).1 = c.modMem f := by
  obtain ⟨f, met⟩ := c.meet_eq_modMem (rangeLines pa n) false
  exact ⟨fun m => (rangeLines pa n).foldl Mem.driftLine (f m), by rw [Chip.fetchN, met]; rfl⟩

section Slots

variable {c : Chip} {r : Nat} {q : Sq} (hq : q = c.sqAt r) (own : q.cm = 0) (may : c.mayConsume r = true) {a : Nat}
  (ha : a = q.base + 128 * (q.head % ringSize q.log2)) (backed : c.mem.backedN a 128 = true)
include hq own may ha backed

/-- Lines that their home cannot serve now leave the slot for later. -/
theorem Chip.consume_unready (busy : c.ready (a / 64) false = false ∨ c.ready (a / 64 + 1) false = false) (n : Nat) : c.consume r (n + 1) = c := by
  subst hq ha
  rcases busy with busy | busy <;> simp [Chip.consume, may, own, backed, busy]

variable (first : c.ready (a / 64) false = true) (second : c.ready (a / 64 + 1) false = true) {g : Chip × List Byte × Bool} (hg : g = c.fetchN a 128)
include first second hg

/-- A slot whose SEQ matches is taken. -/
theorem Chip.consume_matching (clean : g.2.2 = false) (seq : fieldLE g.2.1 0 2 = seqOf q.head) (n : Nat) :
    c.consume r (n + 1) = (g.1.takeSlot r g.2.1).consume r n := by
  subst hq ha hg
  simp [Chip.consume, may, own, backed, first, second, clean, seq]

/-- A slot that is poisoned or whose SEQ does not match consumes nothing. -/
theorem Chip.consume_mismatch (bad : g.2.2 = true ∨ fieldLE g.2.1 0 2 ≠ seqOf q.head) (n : Nat) :
    c.consume r (n + 1) = g.1.missSlot r (fieldLE g.2.1 0 2) := by
  subst hq ha hg
  rcases bad with bad | bad <;> simp [Chip.consume, may, own, backed, first, second, bad]

end Slots

/-- A slot that opens a new descriptor: the descriptor is fetched with its bytes, its ring's priority and the time. -/
theorem Chip.takeSlot_opens {c : Chip} {r : Nat} (whole : c.partialDesc r = none) (bs : List Byte) :
    (c.takeSlot r bs).cm.descs.length = c.cm.descs.length + 1 ∧ ((c.takeSlot r bs).sqAt r).head = ((c.sqAt r).head + 1) % 2 ^ 32 ∧
    ∃ d ∈ (c.takeSlot r bs).cm.descs, d.key = c.cm.nextKey ∧ d.sq = r ∧ d.bytes = bs.take 128 ∧ d.prio = (c.sqAt r).prio ∧
      d.at_ = c.dispatch ∧ d.st = .fetched ∧ d.cm = (c.sqAt r).cm := by
  generalize run : c.takeSlot r bs = e
  unfold Chip.takeSlot at run
  extract_lets q c1 now own per at run
  rw [whole] at run
  subst run
  refine ⟨List.length_append, ?_, _, List.mem_append_right _ (List.mem_singleton_self _), rfl, rfl, rfl, rfl, rfl, rfl, rfl⟩
  refine (congrArg Sq.head (tabGet_tabSet_same _ _ r _)).trans ?_
  exact congrArg Sq.head (tabGet_tabSet_same _ c.cm.sq r _)

/-- A slot whose reading was remembered before is read again, and nothing changes. -/
theorem Chip.pump_remembered {c : Chip} (quiet : c.quiet = true) {r : Nat} {q : Sq} (hq : q = c.sqAt r) (own : q.cm = 0)
    (may : c.mayConsume r = true) {a : Nat} (ha : a = q.base + 128 * (q.head % ringSize q.log2)) (backed : c.mem.backedN a 128 = true)
    (seq : fieldLE (c.mem.readN a 128) 0 2 ≠ seqOf q.head) (remembered : q.miss.isSome) : c.pump r = c := by
  have fetched := c.quiet_fetchN quiet a 128
  rw [Chip.pump, Chip.consume_mismatch hq own may ha backed (Chip.quiet_ready quiet ..) (Chip.quiet_ready quiet ..) fetched.symm (.inr seq)]
  subst hq
  exact if_pos remembered

/-! The completion log -/

theorem Chip.ringsKept_deliver (c : Chip) (r : LogRec) : c.RingsKept (c.deliver r) := by
  unfold Chip.deliver
  dsimp only
  split
  · exact c.ringsKept_log _ _ _
  · split
    · exact (c.recordsMoved_writeRecord r).ringsKept
    · split
      · exact c.ringsKept_log _ _ _
      · exact c.ringsKept_log _ _ _

theorem Chip.ringsKept_event (c : Chip) (cq op ctx detail tag : Nat) : c.RingsKept (c.event cq op ctx detail tag) := by
  unfold Chip.event
  dsimp only
  split
  · exact (Chip.recordsMoved_of_cm rfl).ringsKept
  · exact c.ringsKept_deliver _

theorem Chip.ringsKept_logEv (c : Chip) (ev : Ev) (src : Nat) (args : List Nat) : c.RingsKept (c.logEv ev src args) :=
  (Chip.recordsMoved_of_cm (show _ = c.cm from (c.logged_logEv ..).part Chip.cm)).ringsKept

theorem Chip.overflowEvents_none {c : Chip} (none : c.cm.lostEvents = []) : c.overflowEvents = c := by
  simp [Chip.overflowEvents, none]

section Log

variable {c : Chip} {n : Nat} {r : LogRec} {rest : List LogRec} (log : c.cm.log = r :: rest) (ring : c.recordCq r.rcd = n)
include log ring

/-- A record that does not fit stays where it is in the log. -/
theorem Chip.drainOne_full (full : c.recordFits r.rcd = false) : c.drainOne n = c := by
  simp [Chip.drainOne, log, ring, full]

/-- A record that fits is written, and the others of the log stay in order. -/
theorem Chip.drainOne_fits (fits : c.recordFits r.rcd = true) (none : c.cm.lostEvents = []) :
    c.drainOne n = (c.modCm (fun m => { m with log := rest })).writeRecord r := by
  have first : c.cm.log.find? (fun x => c.recordCq x.rcd == n) = some r := by simp [log, ring]
  have taken : c.modCm (fun m => { m with log := m.log.erase r }) = c.modCm (fun m => { m with log := rest }) := by
    simp [Chip.modCm, log]
  unfold Chip.drainOne
  rw [first]
  dsimp only
  rw [if_pos fits, taken]
  exact Chip.overflowEvents_none (((Chip.recordsMoved_writeRecord _ r).part Cm.lostEvents).trans none)

end Log

/-- A record of CM0 without a signal and an interrupt is a store at its ring's write count. -/
theorem Chip.writeRecord_plain {c : Chip} {r : LogRec} {f : Fin_} {n : Nat} (hf : r.rcd = f) (ring : c.recordCq r.rcd = n) (own : f.cm = 0)
    (unsignalled : f.dso = none) (silent : (c.cqAt n).int = false) : c.writeRecord r =
      (c.setCq n { c.cqAt n with w := ((c.cqAt n).w + 1) % 2 ^ 32 }).devWrite srcDispatch
        ((c.cqAt n).base + 32 * ((c.cqAt n).w % ringSize (c.cqAt n).log2))
        (f.bytes (r.prior || (!f.ev && f.epoch != (c.cmAt 0).epoch)) (c.cqAt n).phase) (c.cqAt n).hint := by
  subst hf ring
  unfold Chip.writeRecord
  dsimp only
  rw [if_pos own, own, ← Chip.advanced]
  generalize written : (c.advanced (c.recordCq r.rcd)).devWrite srcDispatch _ _ _ = d
  have advanced : d.cqAt (c.recordCq r.rcd) = (c.advanced (c.recordCq r.rcd)).cqAt (c.recordCq r.rcd) := by
    rw [← written]
    exact congrArg (fun m : Cm => tabGet Cq.fresh m.cq (c.recordCq r.rcd)) (Chip.devWrite_cm _ _ _ _ _)
  have quietRing : (d.cqAt (c.recordCq r.rcd)).int = false := by
    rw [advanced]
    exact (congrArg Cq.int (tabGet_tabSet_same _ c.cm.cq _ _)).trans silent
  simp [Chip.recordSeen, unsignalled, quietRing]

/-! The slot behind a doorbell that does not come -/

/-- After the last reading of a slot that still does not match, the ring waits for its next doorbell, and its descriptors stand. -/
theorem Chip.doDoorbellAhead_waits {c c0 : Chip} {r since found : Nat} (miss : (c.sqAt r).miss = some (since, found))
    (pumped : (c.passTo srcDispatch (since + 2000)).pump r = c0) (still : (c0.sqAt r).miss = some (since, found)) {d : Chip}
    (run : c.doDoorbellAhead r = d) : (d.sqAt r).ahead = true ∧ (d.sqAt r).miss = none ∧ (d.sqAt r).head = (c0.sqAt r).head ∧
      d.cm.descs = c0.cm.descs := by
  unfold Chip.doDoorbellAhead at run
  rw [miss] at run
  dsimp only at run
  rw [pumped, if_pos still] at run
  generalize waiting : Chip.setSq _ r _ = w at run
  have kept : w.RingsKept d := by
    rw [← run]
    exact (w.ringsKept_logEv ..).trans (Chip.ringsKept_event ..)
  have ring : d.sqAt r = { c0.sqAt r with miss := none, ahead := true } := by
    rw [show d.sqAt r = w.sqAt r from congrArg (tabGet Sq.fresh · r) kept.sq, ← waiting]
    exact tabGet_tabSet_same _ c0.cm.sq r _
  have descs : d.cm.descs = c0.cm.descs := kept.descs.trans (by rw [← waiting]; rfl)
  rw [ring]
  exact ⟨rfl, rfl, rfl, descs⟩

/-- A doorbell ahead of its slot by 2 µs. -/
theorem exec_doorbellAhead_mismatch {s : State} {r : Fin 1024} {q : Sq} (hl : s.chip.live = true) (hq : q = s.chip.sqAt r.val)
    {since found ad : Nat} {c0 : Chip} (calm : s.calm = true) (miss : q.miss = some (since, found))
    (hc0 : c0 = s.chip.passTo srcDispatch (since + 2000)) (may : c0.mayConsume r.val = true) (own : q.cm = 0)
    (had : ad = q.base + 128 * (q.head % ringSize q.log2)) (backed : s.chip.mem.backedN ad 128 = true)
    (seq : fieldLE (s.chip.mem.readN ad 128) 0 2 ≠ seqOf q.head) :
    ∃ c : Chip, exec (.doorbellAhead r) s = .next (withChip s c) ∧ (c.sqAt r.val).ahead = true ∧ (c.sqAt r.val).miss = none ∧
      (c.sqAt r.val).head = q.head ∧ c.cm.descs = s.chip.cm.descs := by
  obtain ⟨f, passed⟩ := s.chip.passTo_eq_modClk srcDispatch (since + 2000)
  subst hq
  have later : c0 = s.chip.modClk f := hc0.trans passed
  have quiet : c0.quiet = true := by rw [later]; exact State.quiet_of_calm calm
  have ring : s.chip.sqAt r.val = c0.sqAt r.val := by rw [later]; rfl
  have mem : s.chip.mem = c0.mem := by rw [later]; rfl
  have descs : s.chip.cm.descs = c0.cm.descs := by rw [later]; rfl
  have still : c0.pump r.val = c0 :=
    Chip.pump_remembered quiet ring own may had (mem ▸ backed) (mem ▸ seq) (by rw [miss]; rfl)
  have pumped : (s.chip.passTo srcDispatch (since + 2000)).pump r.val = c0 := by rw [← hc0, still]
  rw [ring, descs]
  exact ⟨_, exec_calm (fun c => c.doDoorbellAhead r.val) hl calm rfl rfl, Chip.doDoorbellAhead_waits miss pumped (ring ▸ miss) rfl⟩

/-- Settles O37: a doorbell is judged by what it names, a slot by its lines and its SEQ, and a logged record by whether its ring has room. -/
theorem doorbellsSlotsAndRecords : Obligations.DoorbellsSlotsAndRecords := by
  unfold Obligations.DoorbellsSlotsAndRecords
  refine ⟨fun s r off width v req q cq hl hq hcq => ?_, fun c r a q g hq own may ha hg backed whole => ?_,
    fun s cqn r rest hl calm log ring => ?_⟩
  · have sq {d : Chip} (hd : s.chip.bell ⟨true, r.val, off.val, width.val, v.toNat, req.map (·.toNat)⟩ = d) :
        exec (.sqDoorbell r off width v req) s = .next (withChip s d) :=
      exec_live (fun c => c.doSqDoorbell r.val off.val width.val v req) hl rfl hd
    have head {d : Chip} (hd : s.chip.bell ⟨false, r.val, off.val, width.val, v.toNat, req.map (·.toNat)⟩ = d) :
        exec (.cqHeadDoorbell r off width v req) s = .next (withChip s d) :=
      exec_live (fun c => c.doCqHeadDoorbell r.val off.val width.val v req) hl rfl hd
    have tail := Chip.bell_sq (c := s.chip) (b := ⟨true, r.val, off.val, width.val, v.toNat, req.map (·.toNat)⟩)
    have freed := Chip.bell_cq (c := s.chip) (b := ⟨false, r.val, off.val, width.val, v.toNat, req.map (·.toNat)⟩)
    refine ⟨fun unserved => sq (Chip.bell_latched unserved), fun served bad => ⟨sq (Chip.bell_bad served bad), head (Chip.bell_bad served bad)⟩,
      fun served wide at0 active none => sq (tail served wide at0 ?_ rfl hq active),
      fun served wide at0 active none => head (freed served wide at0 ?_ rfl hcq active),
      fun since found ad c0 calm miss hc0 may own had backed seq => exec_doorbellAhead_mismatch hl hq calm miss hc0 may own had backed seq⟩
    · exact congrArg (Option.map _) none
    · exact congrArg (Option.map _) none
  · obtain ⟨f, read⟩ := c.fetchN_eq_modMem a 128
    have same : g.1 = c.modMem f := by rw [hg, read]
    refine ⟨fun busy => Chip.consume_unready hq own may ha backed busy 0, fun first second => ⟨fun clean seq => ?_, fun bad => ?_⟩, fun quiet => ?_⟩
    · obtain ⟨count, next, d, mem, key, ring, bytes, prio, time, st, cm⟩ := Chip.takeSlot_opens (c := c.modMem f) (r := r) whole g.2.1
      have taken := Chip.consume_matching hq own may ha backed first second hg clean seq 0
      rw [same] at taken ⊢
      subst hq
      exact ⟨_, rfl, taken, count, next, d, mem, key, ring, bytes, prio, time, st, cm.trans own⟩
    · rw [Chip.consume_mismatch hq own may ha backed first second hg bad 0, Chip.missSlot, same]
      subst hq
      rfl
    · rw [hg, Chip.quiet_fetchN quiet]
  · refine ⟨fun full => ?_, fun fits none => ?_, fun f hf _ own unsignalled silent => Chip.writeRecord_plain hf ring own unsignalled silent⟩
    · exact exec_calm (fun c => c.doLogDrain cqn.val) hl calm rfl (Chip.drainOne_full log ring full)
    · exact exec_calm (fun c => c.doLogDrain cqn.val) hl calm rfl (Chip.drainOne_fits log ring fits none)

end Sys2Proof.Machine
end
